-- ==== Sys2Proof/Word.lean ====
section
/-!
DEFINITION. The word types of the Dvorpin: bytes and the register widths the manual adds, masks or shows as words (R4, R5).
-/
namespace Sys2Proof

/-- A byte of device memory, of a packet or of a ring slot. -/
abbrev Byte := BitVec 8

/-- A 16-bit field. -/
abbrev W16 := BitVec 16

/-- A 32-bit register or FP32 encoding. -/
abbrev W32 := BitVec 32

/-- A 64-bit register. -/
abbrev W64 := BitVec 64

/-- A command in flight is named by its place in the order of fetches, counted from device reset. -/
abbrev CmdId := Nat

end Sys2Proof
end

