-- ==== Sys2Proof/Operand.lean ====
section
/-!
DEFINITION. The operands that rows of the command table carry: what a packet, a flit, a frame, a sensor reading or a
measured result is. They are inputs from outside the block (peers, the environment, the analogue parts).
-/
namespace Sys2Proof

/-- The registers that hold write-1-to-clear flags (R8, R9; Tables 2.10 to 2.12, 11.10, 12.4, 13.5, 13.7, 14.9, 15.12). -/
inductive FlagReg where
  | devFlags
  | inletStatus (i : Fin 64)
  | outfallStatus (i : Fin 64)
  | portsFlags
  | portFlags (p : Fin 12)
  | tideFlags
  | pumpFlags
  | teleFlags
  | errFlags
  | secFlags
deriving DecidableEq, Repr

/-- What the FEC of a port found since the last event that tells it: codewords corrected and not correctable (Table 11.10). -/
structure Fec where
  corrected : Nat
  uncorrectable : Nat
deriving DecidableEq, Repr

/-- 256 bytes that a Thondlink port received as a flit (R273). -/
structure FlitIn where
  bytes : List Byte
  fec : Fec
deriving DecidableEq, Repr

/-- A port that loses its signal or meets codewords that the FEC cannot correct (R304). -/
structure LinkLoss where
  port : Fin 12
  fec : Fec
deriving DecidableEq, Repr

/-- What training reports beside the partner's chip: the partner's port (R272) and the eye height (R348). -/
structure Trained where
  port : BitVec 4
  eyeMv : W16
deriving DecidableEq, Repr

/-- A change of a link's lanes at a flit boundary, as both ends agree: to keep-alive, or back to eight lanes (R303). -/
structure LaneChange where
  port : Fin 12
  narrow : Bool
deriving DecidableEq, Repr

/-- What a SYNC tells: the master's count at its departure, and the delay of the links crossed since (R315). -/
structure SyncCount where
  count : W64
  way : Nat
deriving DecidableEq, Repr

/-- A channel's oscillator tracking and the offset that it found (R225). -/
structure Tracking where
  channel : Fin 64
  offset : W16
deriving DecidableEq, Repr

/-- A packet with the transport header of Table 11.3 (R278) and its payload. -/
structure Packet where
  kind : BitVec 8
  vc : Fin 5
  cls : Bool
  src : BitVec 12
  dst : BitVec 12
  window : BitVec 12
  gen : W16
  eventId : W16
  flowSeq : W32
  offset : W64
  rowBytes : W16
  rows : W16
  stride : W32
  context : W64
  group : W16
  aux : W16
  aux2 : W32
  payload : List Byte
deriving DecidableEq, Repr

/-- What is checked of a received Ethernet frame (R249, R255). -/
structure Frame where
  /-- Ethernet II, at most one tag, IPv4 without options or IPv6 without extension headers, UDP port 4791, RoCEv2. -/
  roceForm : Bool
  bytes : Nat
  fcsOk : Bool
  icrcOk : Bool
  /-- Half-port of a split port on which it came, and its destination MAC. -/
  half : Fin 2
  dmac : BitVec 48
  /-- Congestion-experienced mark of the IP header. -/
  ce : Bool
  qpn : BitVec 24
  fec : Fec
deriving DecidableEq, Repr

/-- The InfiniBand acknowledge kinds that a requester sees (R254). -/
inductive RoceAck where
  /-- Every packet up to this PSN is acknowledged. -/
  | ack (psn : BitVec 24)
  /-- PSN sequence error: the responder expects this PSN. -/
  | nakSequence (psn : BitVec 24)
  /-- Receiver not ready. -/
  | nakRnr (psn : BitVec 24)
  /-- Any other NAK (invalid request, remote access, remote operational). -/
  | nakOther
deriving DecidableEq, Repr

/-- Where a read met a parity or uncorrectable error (Table 8.9, R222). -/
inductive ErrSite where
  /-- A read by the pass in progress at an address: stream, accumulator prior value. -/
  | pass (core : Fin 16) (arr : Fin 2)
  /-- A read by the pass in progress of the array's own storage: its registers or undo store. -/
  | array (core : Fin 16) (arr : Fin 2)
  /-- A stationary load of a command in the background. -/
  | load (core : Fin 16) (arr : Fin 2) (cmd : CmdId)
  /-- A read by the epilogue at the head of the core's queue at an address: accumulator value, stream element. -/
  | epilogue (core : Fin 16)
  /-- Its read of a row statistic. -/
  | statistic (core : Fin 16)
  /-- A read of score or T areas by ATTEND. -/
  | score (core : Fin 16) (arr : Fin 2)
  /-- A read by a sluice: of its segments in flight (R209), by age. -/
  | segment (sluice : Fin 160) (k : Fin 4)
  /-- Any other device-memory read of a command: core (or 0) and list-entry index. -/
  | other (cmd : CmdId) (core : Fin 16) (entry : BitVec 12)
  /-- The read that merges the next partial write into the granule or access (R221, R223). -/
  | merge
  /-- The next aperture read of the granule or access (R224). -/
  | aperture
deriving DecidableEq, Repr

/-- A party that the deadlock detector watches (R205; ARG of Table 14.7). -/
inductive StallParty where
  | thread (core : Fin 16) (t : Fin 8)
  | loadPort (core : Fin 16) (arr : Fin 2)
  | sluice (n : Fin 160)
deriving DecidableEq, Repr

/-- What the activity counters read at the end of an interval (R330) and which commands they counted for (R344): the
model has no cycles inside a pass, so the counts come with the event. -/
structure IntervalEst where
  /-- Activity counts of each core by kind, in the order in which R330 lists them. -/
  act : List (List Nat)
  /-- Chip-level counts in the order of R330. -/
  chip : List Nat
  /-- Array and vector cycles that a command issued on a core, ramps and dummy operations as R88 has them. -/
  issued : List (Nat × CmdId × Nat)
  /-- The part of a chip-level count that a command's traffic caused: kind, command, count. -/
  traffic : List (Nat × CmdId × Nat)
deriving DecidableEq, Repr

/-- What the slow loop reads (R349). -/
structure SlowLoopData where
  /-- Cores whose ageing margin lies below its threshold. -/
  aged : List (Fin 16)
deriving DecidableEq, Repr

/-- Temperatures in 0.125 degree units (R345, Table 13.7), and what the warden measures: input voltage in 10 mV and input
power in W. -/
structure SensorData where
  logic : List Int
  sram : List Int
  vin : W16
  pin : W16
deriving DecidableEq, Repr

/-- An error that a read meets (R221 to R223): a single-bit LPDDR5X error that SECDED corrects, an error of that read
alone, or one in the stored data. -/
inductive ReadFlaw where
  | corrected
  | transient
  | stored
deriving DecidableEq, Repr

/-- Margins read every 60 s and the model's predictions (R348). -/
structure AgeingData where
  coreMargin : List Nat
  coreMonths : List Nat
  portMonths : List Nat
  ddrMonths : Nat
deriving DecidableEq, Repr

/-- The outcome of the tests of BOOTING (Table 2.5a, R364). -/
structure BootResult where
  ddrTrained : Bool
  polderOk : Bool
  /-- Cores that passed their self-test. -/
  coresOk : BitVec 16
deriving DecidableEq, Repr

/-- A request to the warden that must be signed or well-formed (R395). -/
structure OwnerReq where
  key : List Byte
  imageSig : List Byte
  ownerSig : List Byte
deriving DecidableEq, Repr

/-- POWER requests (Table 11 of chapter 15, R395). -/
inductive PowerOp where
  | on
  | off
  | cycle
deriving DecidableEq, Repr

/-- Mailbox operations (Table 15.10). -/
inductive MbxOp where
  | getChallenge
  | configRead
  | certs
  | attest
deriving DecidableEq, Repr

end Sys2Proof
end

