-- ==== Sys2Proof/Syntax.lean ====
section
/-!
DEFINITION. The commands of the block: one constructor per row of the command table, in the table's order. Rows of
opcodes name the inlet whose next command is dispatched; rows of events inside the device name the place where the
event arises; rows of host accesses carry what the host writes.
-/
namespace Sys2Proof

/-- A command of the block. -/
inductive Instr where
  -- host register and aperture accesses
  | doorbell (i : Fin 64) (off : BitVec 12) (v : W32)
  | enableWrite (i : Fin 64) (v : W32)
  | resume (i : Fin 64)
  | quiesceWrite (q : Bool)
  | wake
  | w1cClear (r : FlagReg) (mask : W32) (coincident : W32)
  | eventCounterWrite (n : W16) (v : W32) (inc : W32)
  | registerWrite (addr : BitVec 20) (wide : Bool) (v : W64)
  | apertureWrite (off : BitVec 30) (data : List Byte)
  | apertureRead (off : BitVec 30) (n : Nat)
  | groupConfigure (g : Fin 256)
  | groupRemove (g : Fin 256)
  | retrain (p : Fin 12)
  | portDisable (p : Fin 12) (v : Bool)
  | jobEnergyClearSlot (slot : BitVec 12)
  | jobEnergyClearAll
  | coreReset (c : Fin 16)
  | coreResetDone (c : Fin 16)
  | mbxGetChallenge
  | mbxConfigRead (sect : Bool)
  | mbxCerts
  | mbxAttest (nonce : List Byte)
  -- the command processor
  | commandFetch (i : Fin 64) (slot : List Byte)
  | coalesceTimer (i : Fin 64)
  | nop (i : Fin 64)
  | eventSignal (i : Fin 64)
  | eventWait (i : Fin 64)
  | fence (i : Fin 64)
  | query (i : Fin 64)
  | dike (i : Fin 64)
  | tideLaunch (i : Fin 64)
  | launchFire (c : CmdId)
  | abort (i : Fin 64)
  | setMode (i : Fin 64)
  | setCap (i : Fin 64)
  | setWeir (i : Fin 64)
  | coreOffline (i : Fin 64)
  | coreOnline (i : Fin 64) (pass : Bool)
  | copy (i : Fin 64)
  | fill (i : Fin 64)
  | sluiceArm (i : Fin 64)
  | sluiceRearm (i : Fin 64)
  | compareCount (i : Fin 64)
  | compareSwap (i : Fin 64)
  | gatherRows (i : Fin 64)
  | scatterRows (i : Fin 64)
  | gemm (i : Fin 64)
  | gemmList (i : Fin 64)
  | gemmT (i : Fin 64)
  | chain (i : Fin 64)
  | attend (i : Fin 64)
  | vector (i : Fin 64)
  | windowOpen (i : Fin 64)
  | windowClose (i : Fin 64)
  | send (i : Fin 64)
  | recv (i : Fin 64)
  | allreduce (i : Fin 64)
  | allgather (i : Fin 64)
  | exportBind (i : Fin 64)
  | source (i : Fin 64)
  | seal (i : Fin 64)
  | pull (i : Fin 64)
  | message (i : Fin 64)
  | qpSetup (i : Fin 64)
  | qpTeardown (i : Fin 64)
  | prefixHash (i : Fin 64)
  | prefixLookup (i : Fin 64)
  | prefixInsert (i : Fin 64)
  | prefixRelease (i : Fin 64)
  | attest (i : Fin 64)
  | fwStage (i : Fin 64)
  | fwCommit (i : Fin 64)
  | debugUnlock (i : Fin 64)
  -- watchdog, work issue, arrays, sluices, culvert
  | watchdog (c : CmdId)
  | bermDeadlock (p : StallParty) (slot : Fin 64)
  | workRequest (c : CmdId) (chain : Nat)
  | passStart (core : Fin 16) (arr : Fin 2) (c : CmdId)
  | stationaryLoad (core : Fin 16) (arr : Fin 2) (c : CmdId)
  | blockCommit (core : Fin 16) (arr : Fin 2)
  | epilogueBlock (core : Fin 16)
  | preempt (core : Fin 16) (arr : Fin 2)
  | preemptResume (core : Fin 16) (arr : Fin 2)
  | rampUp (core : Fin 16) (arr : Fin 2)
  | rampDown (core : Fin 16) (arr : Fin 2)
  | readError (site : ErrSite) (addr : BitVec 40) (flaw : ReadFlaw)
  | segmentComplete (n : Fin 160)
  | segmentSend (ch : Fin 16) (dest : Fin 8)
  | exportTimeout (ch : Fin 16) (dest : Fin 8)
  | stallLimit (ch : Fin 16)
  -- Thondlink
  | flitRx (p : Fin 12) (f : FlitIn)
  | replayTimeout (p : Fin 12)
  | breach (p : Fin 12)
  | linkDown (p : LinkLoss)
  | trainingRetry (p : Fin 12)
  | linkUp (p : Fin 12) (chip : BitVec 12) (port : Trained)
  | laneWiden (p : LaneChange)
  | writeReceive (p : Fin 12) (k : Packet)
  | writeSignalReceive (p : Fin 12) (k : Packet)
  | mcastWriteReceive (p : Fin 12) (k : Packet)
  | reduceDataReceive (p : Fin 12) (k : Packet)
  | ackReceive (p : Fin 12) (k : Packet)
  | refuseReceive (p : Fin 12) (k : Packet)
  | breachNoticeReceive (p : Fin 12) (k : Packet)
  | flowResetReceive (p : Fin 12) (k : Packet)
  | rtsReceive (p : Fin 12) (k : Packet)
  | rtsRetry (c : CmdId)
  | ctsReceive (p : Fin 12) (k : Packet)
  | collCreditReceive (p : Fin 12) (k : Packet)
  | collAbortReceive (p : Fin 12) (k : Packet)
  | packetForward (p : Fin 12) (k : Packet)
  | e2eTimeout (c : CmdId)
  -- tide, barrier, lock-step
  | syncPeriod
  | syncReceive (p : Fin 12) (chip : BitVec 12) (count : SyncCount)
  | delayReqReceive (p : Fin 12) (stamp : W64)
  | delayRespReceive (p : Fin 12) (quarterNs : Nat)
  | tideCorrection (skip : Bool)
  | syncLost
  | tideRefEdge
  | arriveReceive (p : Fin 12) (k : Packet)
  | releaseReceive (p : Fin 12) (k : Packet)
  | dikeRelease (c : CmdId)
  | pairReceive (p : Fin 12) (chip : BitVec 12) (names : BitVec 12)
  | unpairReceive (p : Fin 12) (chip : BitVec 12)
  | digestReceive (p : Fin 12) (inlet : Fin 64) (seq : Nat) (item : Nat) (digest : W64)
  | divergeReceive (p : Fin 12) (inlet : Fin 64) (seq : Nat) (item : Nat)
  -- Ethernet and RoCEv2
  | frameReceive (p : Fin 12) (f : Frame)
  | rdmaWriteReceive (q : Fin 16384) (psn : BitVec 24) (rkey : W32) (va : W64) (data : List Byte)
  | writeImmediateReceive (q : Fin 16384) (psn : BitVec 24) (rkey : W32) (va : W64) (data : List Byte) (imm : W32)
  | rdmaReadReceive (q : Fin 16384) (psn : BitVec 24) (rkey : W32) (va : W64) (n : Nat)
  | roceSendReceive (q : Fin 16384) (psn : BitVec 24)
  | roceAckReceive (q : Fin 16384) (a : RoceAck)
  | readResponseReceive (q : Fin 16384) (data : List Byte)
  | localAckTimeout (q : Fin 16384)
  | cnpReceive (q : Fin 16384)
  | ecnPeriod (q : Fin 16384)
  | pfcPauseReceive (p : Fin 12) (prio : BitVec 3) (pause : Bool)
  -- memory housekeeping
  | weirWindow
  | urgentCredit
  | ddrRefresh (ch : Fin 64)
  | wck2dqTracking (ch : Tracking)
  | directoryClock
  -- pumping station
  | estimateInterval (e : IntervalEst)
  | slowLoop (d : SlowLoopData)
  | railSettled (c : Fin 16)
  | voltageTrim (c : Fin 16) (up : Bool)
  | droop (c : Fin 16)
  | droopEnd (c : Fin 16)
  | pwrBrakeAssert
  | pwrBrakeRelease
  | sensorRead (d : SensorData)
  | thermalTrip
  | ageingMonitor (d : AgeingData)
  | eyeMeasure (p : Fin 12) (mv : W16)
  | errorPeriod
  -- faults, power states, resets, boot
  | deviceFault (unit : BitVec 8)
  | lowPowerEntry
  | wakeComplete
  | perstNAssert
  | modResetNAssert
  | modResetNRelease
  | pcieHotReset
  | d3hotToD0
  | pcieLinkLoss
  | vinRise (intact : Bool)
  | vinLoss
  | bootStart (seedOk : Bool)
  | bootComplete (r : BootResult)
  | trialTimeout
  | fallbackPowerOn
  -- the warden
  | getStatus
  | getTelemetry
  | setCaps (peak : W16) (sustained : W16)
  | power (op : PowerOp)
  | readHistory (off : Nat)
  | mailbox (op : MbxOp) (req : List Byte)
  | ownerRegister (r : OwnerReq)
  | ownerChange (r : OwnerReq)
  | configWrite (sect : List Byte) (sig : List Byte)
  | alertResponse
  | flashWriteComplete
deriving DecidableEq, Repr

end Sys2Proof
end

