-- ==== Sys2Proof/Config.lean ====
section
/-!
DEFINITION. What a part fixes and the manual leaves open: free values. None has a body, so nothing can be proved about
which value it is; a statement that mentions one holds for every choice.
-/
namespace Sys2Proof.Config

/-- A fresh value the manual leaves open, by the number of such values drawn before it (log entry 5). -/
opaque freeNat : Nat → Nat

/-- A byte of the accumulator view (R198), whose layout the manual does not give: by the number of free values drawn
before and by address (log entry 5). -/
opaque accByte : Nat → Nat → Byte

/-- The word of an array's accumulator, modulo 2^20, that the scheduler gives to a value of an item: by command, item, array and
place of the value in the item (R116, R198; log entry 5). -/
opaque accPlace : Nat → Nat → Nat → Nat → Nat

/-- A byte of a flit's body that no field of Table 11.1 or 11.3 gives: an idle flit's, or beyond the payload (log entry 117). -/
opaque flitPad : Nat → Byte

/-- The tide counts modulo 716,800 at which an LPDDR5X channel runs its refreshes and its tracking in repeatable mode (R310; log
entry 118). -/
opaque refreshCounts : Nat → List Nat
opaque trackCounts : Nat → List Nat

/-- Raw function-table results of the vector unit (R107, R154, R182): bit-exact functions of their input whose ROM
contents the manual does not publish (log entry 10). -/
opaque expRaw : W32 → W32
opaque recipRaw : W32 → W32
opaque rsqrtRaw : W32 → W32
opaque sigmoidRaw : W32 → W32
opaque siluRaw : W32 → W32
opaque geluRaw : W32 → W32
opaque sinRaw : W32 → W32
opaque cosRaw : W32 → W32

/-- The seed that the boot ROM reconstructs from the die's SRAM start-up state, 32 B (Table 15.4, R383; log entry 11). -/
opaque pufSeed : List Byte

/-- The module's serial number, and the parts of the identity certificate chain beside it and the identity public key: of the module
certificate before the serial number, between it and the key, and after the key, and the certificate of the manufacturing CA
(R384; log entry 11). -/
opaque moduleSerial : List Byte
opaque certHead : List Byte
opaque certMid : List Byte
opaque certTail : List Byte
opaque caCert : List Byte

/-- The digest of the Adenvik root key held in the boot ROM (R380). -/
opaque rootKeyDigest : List Byte

/-- Whether an operator section is well-formed, and what it gives: the chip ID, port personalities, PFC priorities, MAC addresses, the
directory's log2 E, table, tags, hot-set lines and place, clock step, the warden's SMBus address, AUTO_POWER, the subsystem IDs
(R378, R410; the manual gives no byte layout of a section; log entry 33). -/
opaque operatorOk : List Byte → Bool
opaque operatorChip : List Byte → Nat
opaque operatorPort : List Byte → Nat → Nat
opaque operatorPfc : List Byte → Nat → Option Nat
opaque operatorMac : List Byte → Nat → Nat → BitVec 48
opaque operatorDir : List Byte → Nat × Nat × Nat × Nat × Nat × Nat
opaque operatorSmb : List Byte → BitVec 7
opaque operatorAuto : List Byte → Bool
opaque operatorSubsystem : List Byte → W32

/-- The calibration section's activity weights in femtojoules per count, by core and kind and chip-level (R330), core leakage
by core, hottest temperature and rail in 0.1 W, the fixed power in 0.1 W and the converter's loss in thousandths by load
(R326, R330; the manual gives no byte layout of a section; log entry 33). -/
opaque coreWeight : List Byte → Nat → Nat → Nat
opaque chipWeight : List Byte → Nat → Nat
opaque coreLeak : List Byte → Nat → Int → Nat → Nat
opaque fixedPower : List Byte → Nat
opaque converterLoss : List Byte → Nat → Nat

/-- The calibration section with a core's M_MAX changed (R349; log entry 33). -/
opaque calibrationWith : List Byte → Nat → Nat → List Byte

/-- The digest of the boot ROM and the warden firmware with its version (Table 15.8). -/
opaque romDigest : List Byte
opaque wardenDigest : List Byte
opaque wardenVersion : Nat

end Sys2Proof.Config
end

