-- ==== Sys2Proof/Machine/Bits.lean ====
section
/-!
DEFINITION. Fields of byte strings and words: little-endian values (R4), bit ranges (R5), sign extension.
-/
namespace Sys2Proof.Machine

/-- The value of bytes in little-endian order (R4). -/
def leNat : List Byte → Nat
  | [] => 0
  | b :: t => b.toNat + 256 * leNat t

/-- The little-endian bytes of a value, `n` of them (R4). -/
def leBytes : Nat → Nat → List Byte
  | 0, _ => []
  | n + 1, v => BitVec.ofNat 8 (v % 256) :: leBytes n (v / 256)

/-- The field of `n` bytes at byte offset `o` of a block; bytes beyond its end count as 0. -/
def fieldLe (b : List Byte) (o n : Nat) : Nat := leNat ((b.drop o).take n)

/-- Bits [hi:lo] of a value (R5). -/
def bitsOf (v hi lo : Nat) : Nat := v / 2 ^ lo % 2 ^ (hi + 1 - lo)

/-- Bit `i` of a value. -/
def bitOf (v i : Nat) : Bool := v / 2 ^ i % 2 = 1

/-- The two's complement integer of a value of `w` bits. -/
def signedOf (w v : Nat) : Int :=
  let u := v % 2 ^ w
  if u < 2 ^ (w - 1) then (u : Int) else (u : Int) - (2 ^ w : Nat)

/-- The encoding in `w` bits of an integer, modulo 2^w. -/
def encodeInt (w : Nat) (x : Int) : Nat := (x % ((2 ^ w : Nat) : Int)).toNat

/-- Division rounding up. -/
def ceilDiv (a b : Nat) : Nat := (a + b - 1) / b

/-- A value of a bit as 0 or 1. -/
def bit01 (b : Bool) : Nat := if b then 1 else 0

/-- Round up to a multiple. -/
def roundUp (a m : Nat) : Nat := ceilDiv a m * m

/-- A saturating cast. -/
def satTo (lim v : Nat) : Nat := if v > lim then lim else v

end Sys2Proof.Machine
end

