-- ==== Sys2Proof/Machine/Tab.lean ====
section
/-!
DEFINITION. Sparse tables: a list of (key, value) pairs with rising keys, an absent key standing for a default. Register
files, windows, queue pairs, event counters and memories are such tables.
-/
namespace Sys2Proof.Machine

/-- A sparse table. -/
abbrev Tab (α : Type) := List (Nat × α)

/-- The entry at a key, if there is one. -/
def tabFind? {α : Type} : Tab α → Nat → Option α
  | [], _ => none
  | (k, v) :: t, n => if n = k then some v else tabFind? t n

/-- The entry at a key, or a default. -/
def tabGet {α : Type} (t : Tab α) (d : α) (n : Nat) : α := (tabFind? t n).getD d

/-- Write an entry, keeping the keys in rising order. -/
def tabSet {α : Type} : Tab α → Nat → α → Tab α
  | [], n, v => [(n, v)]
  | (k, w) :: t, n, v =>
    if n < k then (n, v) :: (k, w) :: t
    else if n = k then (n, v) :: t
    else (k, w) :: tabSet t n v

/-- Remove an entry. -/
def tabErase {α : Type} (t : Tab α) (n : Nat) : Tab α := t.filter (fun p => p.1 != n)

/-- Change the entry at a key. -/
def tabModify {α : Type} (t : Tab α) (d : α) (n : Nat) (f : α → α) : Tab α := tabSet t n (f (tabGet t d n))

/-- The keys of a table rise strictly. -/
def tabSorted {α : Type} (t : Tab α) : Bool := decide (t.Pairwise (fun a b => a.1 < b.1))

/-- Replace the entry of a list at an index (none beyond its end). -/
def listSet {α : Type} : List α → Nat → α → List α
  | [], _, _ => []
  | _ :: t, 0, v => v :: t
  | h :: t, n + 1, v => h :: listSet t n v

end Sys2Proof.Machine
end

