-- ==== Sys2Proof/Machine/PartsHost.lean ====
section
/-!
DEFINITION. The parts of the state that the host interface owns: device state, inlets, outfalls, interrupts, clocks
(chapter 02, Tables 2.5 to 2.14). Default values are the values after a device reset.
-/
namespace Sys2Proof.Machine

/-- Device states (Table 2.5, R38). -/
inductive DevState where
  | standby
  | booting
  | ready
  | active
  | quiescing
  | lowPower
  | fault
deriving DecidableEq, Repr

/-- The GLOBAL registers (Table 2.10, R48) and the moments that Table 2.5a measures from. -/
structure Dev where
  state : DevState := .booting
  quiesced : Bool := false
  quiesce : Bool := false
  lowPowerEn : Bool := false
  idleEntry : W16 := 1000
  stateChanged : Bool := false
  faultFlag : Bool := false
  stateChangedCount : W32 := 0
  faultCount : W32 := 0
  /-- Tick from which the idle time before LOW_POWER counts: the latest of the three moments of Table 2.5a. -/
  idleFrom : Nat := 0
  /-- Tick of the trigger of a wake in progress (R347). -/
  wakeFrom : Option Nat := none
  /-- Tick of the boot start (R412), once boot has begun. -/
  bootFrom : Option Nat := none
  /-- Firmware runs and the PCIe link answers (Table 15.4 step 5). -/
  firmware : Bool := false
deriving DecidableEq, Repr

/-- Inlet states (Table 2.5b, R41). -/
inductive InletState where
  | closed
  | open
  | draining
  | halted
deriving DecidableEq, Repr

/-- The registers of one inlet (Table 2.11, R50) and its energy counter (Table 13.5). -/
structure Inlet where
  base : W64 := 0
  enable : Bool := false
  priority : BitVec 2 := 3
  haltOnError : Bool := true
  exempt : Bool := false
  sizeLog2 : BitVec 5 := 4
  state : InletState := .closed
  refused : Bool := false
  ignored : Bool := false
  halted : Bool := false
  head : W16 := 0
  tail : W16 := 0
  refusedCount : W32 := 0
  ignoredCount : W32 := 0
  haltedCount : W32 := 0
  energy : W64 := 0
  /-- Next lock-step sequence number (R320). -/
  lockSeq : Nat := 0
deriving DecidableEq, Repr

/-- The registers of one outfall (Table 2.12, R51), its reservations (R31) and its interrupt coalescing (R34). -/
structure Outfall where
  base : W64 := 0
  wb : W64 := 0
  sizeLog2 : BitVec 5 := 4
  vector : Byte := 0
  coalesceCount : Byte := 1
  coalesceTime : Byte := 0
  head : W16 := 0
  tail : W16 := 0
  fullStall : Bool := false
  fullStallCount : W32 := 0
  reserved : Nat := 0
  /-- Fetch from the paired inlet is stopped for want of an entry. -/
  stalled : Bool := false
  sinceIrq : Nat := 0
  /-- Tick of the oldest entry not yet signalled by an interrupt. -/
  oldest : Option Nat := none
deriving DecidableEq, Repr

/-- The INTERRUPT block (Table 2.13, R52): the MSI-X table and its pending-bit array as bytes, in the format of PCI Express,
whose Vector Control masks every vector after a reset (log entry 8). -/
structure Irq where
  table : Tab Byte := []
  pba : Tab Byte := []
  vector : Byte := 64
  maskState : Bool := false
  maskFault : Bool := true
  maskLog : Bool := true
  maskInlet : Bool := false
  causeState : Bool := false
  causeFault : Bool := false
  causeLog : Bool := false
  causeInlet : Bool := false
deriving DecidableEq, Repr

/-- The last completion of a BAR4 read: data and the PCI Express poisoned bit (R198, R224). -/
structure ReadCompletion where
  data : List Byte := []
  poisoned : Bool := false
deriving DecidableEq, Repr

/-- The aperture (Table 2.14, R54). -/
structure Aperture where
  base : BitVec 10 := 0
  read : ReadCompletion := {}
  /-- Granules at which the next aperture read will meet an error of that read alone (R224). -/
  flaws : List Nat := []
deriving DecidableEq, Repr

/-- The local divider that DURATION counts (R316) and the round-robin positions of the command processor (R30). -/
structure Clock where
  ticks : Nat := 0
  /-- Inlet last fetched from, and last dispatched from, for each priority. -/
  fetchTurn : Tab Nat := []
  dispTurn : Tab Nat := []
  /-- Commands fetched, and dispatched, since device reset. -/
  fetched : Nat := 0
  dispatched : Nat := 0
deriving DecidableEq, Repr

/-- The command header (Table 2.1, R22). -/
structure Header where
  opcode : W16
  flags : Byte
  version : Byte
  tag : W32
  jobId : BitVec 12
  phase : BitVec 6
  paramLen : Nat
  /-- Event identifier and target of each of the four waits. -/
  waits : List (Nat × Nat)
  signalId : W16
  signalInc : W16
  watchdogUs : Nat
  seed : W64
deriving DecidableEq, Repr

/-- Status codes (Table 2.7, R43). -/
inductive Status where
  | ok
  | stateReject
  | aborted
  | rerunExhausted
  | linkBreach
  | windowClosed
  | timeout
  | diverged
  | authFail
  | coreOffline
  | exportFailed
  | directoryFull
deriving DecidableEq, Repr

/-- Causes (Table 14.7, R373). -/
inductive CauseCode where
  | abortCmd
  | deviceFault
  | coreLost
  | unwritten
  | breach
  | e2eTimeout
  | noRoute
  | collAbort
  | partnerLost
  | windowRefused
  | watchdog
  | bermDeadlock
  | exportDest
  | dirSetFull
  | auth
deriving DecidableEq, Repr

/-- A posted cause: the fields of a cause record (Table 14.6). -/
structure Cause where
  code : CauseCode
  chip : BitVec 12 := 0
  core : BitVec 4 := 0
  arg : W16 := 0
  log : W16 := 0
deriving DecidableEq, Repr

/-- How a command is to end (R370, R371): its status, the rank of what ends it among causes of one tick (R372), and what DETAIL
carries: a cause, or the coordinates of a tile. -/
structure Ending where
  status : Status
  rank : Nat
  cause : Option Cause
  tile : Nat := 0
deriving DecidableEq, Repr

end Sys2Proof.Machine
end

