-- ==== Sys2Proof/Machine/PartsWork.lean ====
section
/-!
DEFINITION. What a command in flight holds beyond its header: sluice chains, array items, sends, collectives, exports
(chapters 05 to 09, 11, 12).
-/
namespace Sys2Proof.Machine

/-- A sluice descriptor (Table 8.4, R207). -/
structure Desc where
  mode : Nat
  dflags : Nat
  signalId : Nat
  rowBytes : Nat
  src : Nat
  dst : Nat
  rows : Nat
  planes : Nat
  srcStride1 : Nat
  dstStride1 : Nat
  srcStride2 : Nat
  dstStride2 : Nat
  idxAddr : Nat
  next : Nat
deriving DecidableEq, Repr

/-- A stationary tile to load: which product, K slice and, for attention, key block (R117, R118, R184). -/
structure LoadSpec where
  prod : Nat
  slice : Nat
  /-- Attention: the probability tile of a block. -/
  prob : Bool := false
deriving DecidableEq, Repr

/-- Whose tile it is. -/
structure TileTag where
  cmd : CmdId
  item : Nat
  load : LoadSpec
deriving DecidableEq, Repr

/-- A stationary tile in a berm slot (R136): codes and scales by logical row, the row predicate, and the number of K
positions that the K predicate leaves. -/
structure StagedTile where
  tag : TileTag
  x : List (List Nat) := []
  xs : List (List Nat) := []
  present : List Bool := []
  kCount : Nat := 0
deriving DecidableEq, Repr

/-- What a scheduler sluice fetches for a core (R206): a stationary tile, its rows and scales lying at strides in device
memory; its slots on the core, the first of which holds the tile. -/
structure TileJob where
  tag : TileTag
  core : Nat
  slots : List Nat
  x : Nat
  xLd : Nat
  rowBytes : Nat
  fmt : Nat
  xs : Nat
  xsLd : Nat
  scaleBytes : Nat
  present : List Bool
  kCount : Nat
deriving DecidableEq, Repr

/-- A descriptor chain on a sluice, with the part [lo, hi) of the transfer order that this sluice moves and how far it
has come (R209, R213). -/
structure SlChain where
  cmd : CmdId
  desc : Desc
  lo : Nat
  hi : Nat
  pos : Nat
  /-- Pattern of a FILL. -/
  fill : Option W64 := none
  /-- Part of a COPY, FILL, GATHER_ROWS or SCATTER_ROWS: chaining, slots and descriptor signals are ignored. -/
  plain : Bool := false
  moved : Nat := 0
  descs : Nat := 0
  idx : Nat := 0
  /-- Re-runs of the segments in flight, the oldest first (R222). -/
  reruns : List Nat := []
  srcClaimed : Bool := false
  dstClaimed : Bool := false
  /-- The descriptor that NEXT names, read when the last segment starts (R209). -/
  nxt : Option (List Byte) := none
  /-- A stationary tile that the scheduler fetches into a berm slot, in place of a descriptor. -/
  job : Option TileJob := none
deriving DecidableEq, Repr

/-- The array commands. -/
inductive ArrKind where
  | gemm
  | gemmT
  | chain
  | vector
  | attendA
  | attendB
deriving DecidableEq, Repr

/-- One product: operand descriptor (Table 5.2) with formats and flags (Table 5.1). -/
structure Prod where
  xFmt : Nat := 0
  wFmt : Nat := 0
  yCvt : Nat := 0
  initFmt : Nat := 0
  shape : Nat := 1
  nTile : Nat := 0
  nk : Bool := false
  initEn : Bool := false
  wKmajor : Bool := false
  rowMaskEn : Bool := false
  rsId : Nat := 0
  x : Nat := 0
  w : Nat := 0
  y : Nat := 0
  xs : Nat := 0
  ws : Nat := 0
  ys : Nat := 0
  init : Nat := 0
  rowMask : Nat := 0
  m : Nat := 0
  n : Nat := 0
  k : Nat := 0
  xLd : Nat := 0
  wLd : Nat := 0
  yLd : Nat := 0
  initLd : Nat := 0
  /-- Effective N tile and strip, or N tile under NK (R119). -/
  effTile : Nat := 0
  range : Nat := 0
  entry : Nat := 0
  /-- CHAIN stages only (Table 6.3). -/
  pair : Bool := false
  writeY : Bool := true
  hold : Bool := false
  progLen : Nat := 0
  progAddr : Nat := 0
deriving DecidableEq, Repr

/-- A stream descriptor (Table 6.5, R153). -/
structure StreamDesc where
  addr : Nat := 0
  ld : Nat := 0
  fmt : Nat := 0
  kind : Nat := 0
  stage : Nat := 0
  scale : Nat := 0
deriving DecidableEq, Repr

/-- The parameters of CHAIN and VECTOR beyond their products (Tables 6.1, 6.2, 6.4, 6.11). -/
structure ChainPar where
  stageMask : Nat := 0
  shape : Nat := 1
  m : Nat := 0
  rowMaskEn : Bool := false
  rowMask : Nat := 0
  spillAddr : Nat := 0
  spillStride : Nat := 0
  targets : Nat := 0
  rope : Nat := 0
  pos : Nat := 0
  /-- Prologue, or the input of VECTOR. -/
  inAddr : Nat := 0
  inScale : Nat := 0
  inLd : Nat := 0
  inFmt : Nat := 0
  inCvt : Nat := 0
  inProg : Nat := 0
  inLen : Nat := 0
  inRs : Nat := 0
  inWidth : Nat := 0
  /-- Finish, or the output of VECTOR. -/
  outAddr : Nat := 0
  outScale : Nat := 0
  outLd : Nat := 0
  outCvt : Nat := 0
  outProg : Nat := 0
  outLen : Nat := 0
  outRs : Nat := 0
  streams : List StreamDesc := []
  handTier : Nat := 0
  proSpilled : Bool := false
  heldSpilled : Bool := false
deriving DecidableEq, Repr

/-- The control part of ATTEND (Table 7.1). -/
structure AttPar where
  d : Nat := 0
  g : Nat := 0
  aflags : Nat := 0
  hkv : Nat := 0
  rotHalf : Nat := 0
  inFmt : Nat := 0
  qCvt : Nat := 0
  kCvt : Nat := 0
  vCvt : Nat := 0
  pCvt : Nat := 0
  outCvt : Nat := 0
  rsId : Nat := 0
  scale : W32 := 0
  cap : W32 := 0
  capInv2 : W32 := 0
  window : Nat := 0
  seqAddr : Nat := 0
  seqs : Nat := 0
  expChannel : Nat := 0
  expLayer : Nat := 0
  rope : Nat := 0
  layout : Nat := 0
deriving DecidableEq, Repr

/-- A sequence descriptor (Table 7.2). -/
structure SeqDesc where
  q : Nat := 0
  k : Nat := 0
  v : Nat := 0
  out : Nat := 0
  stats : Nat := 0
  kBase : Nat := 0
  vBase : Nat := 0
  doc : Nat := 0
  list : Nat := 0
  inLd : Nat := 0
  outLd : Nat := 0
  c : Nat := 0
  pos0 : Nat := 0
  hstride : Nat := 0
  docs : Nat := 0
  listN : Nat := 0
deriving DecidableEq, Repr

/-- A pass: a tile against streamed columns [n0, n0 + w) (R56). -/
structure PassSpec where
  load : LoadSpec
  n0 : Nat
  w : Nat
  /-- The last K slice: column blocks become outputs as they commit. -/
  last : Bool
deriving DecidableEq, Repr

/-- One register set of an array, active or shadow (R55 to R57, R75, R76): the 16-bit words by physical row, a register
beyond the lists holding 0 (log entry 102); the scale registers by logical row; the predicates of the tile; and whose tile
it is, none when no pass may use it. -/
structure Tile where
  owner : Option TileTag := none
  x : List (List W16) := []
  xs : List (List Nat) := []
  present : List Bool := []
  kCount : Nat := 0
deriving DecidableEq, Repr

/-- A pass in progress or pre-empted: columns committed so far, re-runs of the block in flight (R222), and whether it has
reached the column-block boundary at which a loaded priority-0 tile pre-empts it (R356). -/
structure Pass where
  cmd : CmdId
  item : Nat
  spec : PassSpec
  done : Nat
  reruns : Nat := 0
  halt : Bool := false
deriving DecidableEq, Repr

/-- What an epilogue step does. -/
inductive EpiKind where
  | prologue
  | product (n : Nat)
  | finish
  | vec
  | phaseA
  | query
  | softmax
  | combine
  | attOut
deriving DecidableEq, Repr

/-- A column block waiting for the vector unit, in commit order (R152). -/
structure Epi where
  cmd : CmdId
  item : Nat
  kind : EpiKind
  sweep : Nat
  c0 : Nat
  w : Nat
  reruns : Nat := 0
  /-- Culvert hand-offs of the block that have been accepted. -/
  handed : Nat := 0
  /-- The array and the tick of the commit: TA0 goes first among the blocks of one tick (R152). -/
  arr : Nat := 0
  tick : Nat := 0
  /-- The program was already running when its pass was pre-empted (R151). -/
  running : Bool := false
deriving DecidableEq, Repr

/-- An item held by a core (R114, R140, R177). Values are keyed by row * 2^24 + column. -/
structure Item where
  idx : Nat
  core : Nat
  arr : Nat
  chain : Nat
  entry : Nat
  /-- Row tile (output block, token block) and N range. -/
  tile : Nat
  n0 : Nat
  n1 : Nat
  head : Nat := 0
  /-- Cores of its chain (R137). -/
  chainLen : Nat := 1
  passes : List PassSpec := []
  /-- The same for TA1 of an `ATTEND` item, which runs on both arrays (R179). -/
  passes1 : List PassSpec := []
  /-- Present rows, rotary table and positions by row, as read once for the item (R153). -/
  rows : List Bool := []
  rope : List W32 := []
  poss : List W32 := []
  /-- Berm slots of its prologue and hand-over areas, or of its P tiles (R179, R204). -/
  proSlots : List Nat := []
  handSlots : List Nat := []
  /-- CHAIN: accumulator strips allocated so far, and those held, by product and range (R144). -/
  stripsTaken : Nat := 0
  strips : List (Nat × Nat) := []
  acc : Tab W32 := []
  acc2 : Tab W32 := []
  hand : Tab Nat := []
  handScale : Tab Nat := []
  pro : Tab Nat := []
  proScale : Tab Nat := []
  held : Tab W32 := []
  /-- Operands of row reductions, by (slot, row, column), and finished row statistics by slot * 128 + row. -/
  rrow : Tab W32 := []
  stats : Tab W32 := []
  /-- The CHAIN stage in progress: 0 prologue, 1 and 2 products, 3 finish. Of it: columns whose epilogue has run,
  columns handed to the vector unit, columns committed in their last K slice. -/
  stage : Nat := 1
  epiDone : Nat := 0
  queued : Nat := 0
  committed : Nat := 0
  /-- Outputs written so far. -/
  written : Nat := 0
  complete : Bool := false
  units : Nat := 0
  /-- The grant, and the output bytes for the lock-step digest by their place in it (R320). -/
  grant : Nat := 0
  outLog : List (Nat × List Byte) := []
  /-- Attention: m, l by row; O by row and dimension; of the two blocks under way, by area * 128 + row: probabilities (scores
  above D = 128 in `acc2`, T in `acc`, likewise); of every block, by its place * 128 + row: the factor a, whether the row is
  updated. -/
  rowMax : Tab W32 := []
  rowSum : Tab W32 := []
  out : Tab W32 := []
  prob : Tab Nat := []
  fact : Tab W32 := []
  live : Tab Nat := []
  /-- The blocks that the grant streams (R178); of them, in this sweep: those whose score pass is due or done, those whose
  softmax has ended, those combined. -/
  union : List Nat := []
  fed : Nat := 0
  soft : Nat := 0
  combined : Nat := 0
  /-- The sweep of TWO_PASS. -/
  sweep : Nat := 0
  query : Tab Nat := []
deriving DecidableEq, Repr

/-- A weight chain: an ordered list of cores (R129). -/
structure WChain where
  members : List Nat
  /-- Grants taken (R138). -/
  taken : Nat := 0
deriving DecidableEq, Repr

/-- The work of an array command (R124 to R134). -/
structure ArrayWork where
  kind : ArrKind
  prods : List Prod := []
  par : ChainPar := {}
  att : AttPar := {}
  seqs : List SeqDesc := []
  mask : Nat := 0
  maxChain : Nat := 16
  chains : List WChain := []
  /-- Chains formed at dispatch (R138), and the mask of cores lost since (R368). -/
  total : Nat := 0
  lost : Nat := 0
  counter : Nat := 0
  /-- Returned items, a list for each time items were returned together (R128). -/
  returned : List (List Nat) := []
  /-- Repeatable mode: items granted at least once, and what grants are cut from since a core was lost (R138). -/
  once : List Nat := []
  pool : Option (List Nat) := none
  /-- How far each grant's stream has been read by its chain's head (R130). -/
  read : Tab Nat := []
  grants : Nat := 0
  items : List Item := []
  finished : List Nat := []
  /-- Tile coordinates of finished items, by their index in digests (R322). -/
  places : Tab Nat := []
  /-- ATTEND: phase A items finished before phase B may be granted (R175), and phase B's chains (R178). -/
  phaseA : Nat := 0
  chainsB : List WChain := []
  streamed : Nat := 0
  maxLen : Nat := 0
  detail : Nat := 0
deriving DecidableEq, Repr

/-- A SEND (R293 to R295, R301). -/
structure SendWork where
  group : Nat
  mode : Nat
  sflags : Nat
  rank : Nat
  event : Nat
  src : Nat
  rowBytes : Nat
  rows : Nat
  srcStride : Nat
  dstStride : Nat
  dstOffset : Nat
  window : Nat
  gen : Nat
  tag : Nat
  fwdEvent : Nat
  seq : Nat := 0
  started : Bool := false
  /-- MATCH: an RTS is out, or was refused at a tick (R295). -/
  rtsSent : Bool := false
  rtsRefused : Option Nat := none
  /-- Every write has been handed to the ports. -/
  issued : Bool := false
  bytes : Nat := 0
  /-- Members that still have to acknowledge (MCAST). -/
  waiting : List Nat := []
deriving DecidableEq, Repr

/-- A RECV (R295, R296). -/
structure RecvWork where
  group : Nat
  rank : Nat
  tag : Nat
  window : Nat
  offset : Nat
  capacity : Nat
  matched : Bool := false
  src : Nat := 0
  /-- CONTEXT of the matched `SEND`'s writes. -/
  context : Nat := 0
  expect : Nat := 0
  total : Nat := 0
  got : Nat := 0
deriving DecidableEq, Repr

/-- An ALLREDUCE or ALLGATHER (R297 to R300). -/
structure CollWork where
  gather : Bool
  group : Nat
  seq : Nat
  n : Nat
  rank : Nat
  elem : Nat := 0
  op : Nat := 0
  outCvt : Nat := 0
  rsId : Nat := 0
  src : Nat := 0
  count : Nat := 0
  dstOffset : Nat := 0
  stageOffset : Nat := 0
  started : Bool := false
  /-- Chunks: the value formed so far, and the level up to which it is joined. -/
  node : Tab (List W32) := []
  level : Tab Nat := []
  /-- Right operands that have arrived, by level * 2^24 + chunk. -/
  arrived : Tab (List W32) := []
  /-- Credits held for sending up to the parent. -/
  credits : Nat := 0
  /-- The next chunk to send up, and the chunks whose result is written here. -/
  sentUp : Nat := 0
  written : List Nat := []
  /-- ALLGATHER: bytes received by rank, and the members that acknowledged the own block. -/
  got : Tab Nat := []
  ackedBy : List Nat := []
deriving DecidableEq, Repr

/-- A DIKE (R318). -/
structure DikeWork where
  group : Nat
  seq : Nat
  n : Nat
  rank : Nat
  started : Bool := false
  arrived : List Nat := []
  sentUp : Bool := false
  /-- The release count R, once known. -/
  release : Option Nat := none
deriving DecidableEq, Repr

/-- An EXPORT_KV SOURCE: what is still to hand over (R245). -/
structure SourceWork where
  channel : Nat
  layout : Nat
  kFmt : Nat
  vFmt : Nat
  layer : Nat
  kBase : Nat
  vBase : Nat
  hstride : Nat
  pos : Nat
  posB : Nat
  /-- Vectors handed over so far, and values accepted. -/
  next : Nat := 0
  accepted : Nat := 0
deriving DecidableEq, Repr

/-- The work of a command. -/
inductive Work where
  /-- Fetched and not dispatched. -/
  | held
  | waitEvents (ws : List (Nat × Nat × Bool))
  | fence (all : Bool)
  | abort (named : List CmdId) (count : Nat)
  | launch (count : Nat)
  | dike (w : DikeWork)
  | setCap (prev : Nat)
  | setWeir (prev : Nat)
  | xfer (parts : Nat) (waiting : List SlChain) (moved : Nat)
  | arm (n : Nat)
  | rearm (n : Nat)
  | array (w : ArrayWork)
  | send (w : SendWork)
  | recv (w : RecvWork)
  | coll (w : CollWork)
  | windowClose (w : Nat)
  | seal (ch : Nat)
  | source (w : SourceWork)
  | pull (qp : Nat) (addr : Nat) (bytes : Nat) (got : Nat)
  | message (qp : Nat)
  /-- A verified image that is being written, or that waits while another one is (R385, R387). -/
  | fwStage (img : List Byte) (writing : Bool)
  /-- Requests that wait for the security block, with what they were dispatched with (R385). -/
  | attestWait (nonce : List Byte) (addr : Nat)
  | unlockWait (record : List Byte)
  /-- Done with `OK`: the entry is due. -/
  | done (detail : Nat)
deriving DecidableEq, Repr

/-- A command in flight (R27). -/
structure Cmd where
  id : CmdId
  inlet : Nat
  hdr : Header
  params : List Byte
  /-- Which header waits have been met (R24). -/
  met : List Bool := []
  work : Work := .held
  dispatchTick : Nat := 0
  /-- Its place among the commands dispatched since device reset. -/
  order : Nat := 0
  /-- Tick of the dispatch or of the latest progress event (R369). -/
  progress : Nat := 0
  /-- Since when an array has held a pre-empted pass of it: its watchdog does not count (R369). -/
  pausedAt : Option Nat := none
  urgent : Bool := false
  secondary : BitVec 6 := 0
  advisory : Option Cause := none
  laterCause : Bool := false
  /-- The terminal cause posted first; the command ends once the row that posted it is over (R370; log entry 63). -/
  ending : Option Ending := none
  energy : Nat := 0
  /-- Re-runs of a read of the last row of Table 8.9 since its last progress (R222). -/
  tries : Nat := 0
  /-- Addresses at which reads that its dispatch makes will meet an error of that read alone (R222). -/
  flaws : List Nat := []
  /-- Its lock-step sequence number, and whether its one digest has been computed (R320). -/
  lockSeq : Nat := 0
  digested : Bool := false
  /-- Device ranges it writes, for its digest (R320). -/
  outs : List (Nat × Nat) := []
  /-- CAP_UNREACHABLE held while it was in flight (R340). -/
  capUnreachable : Bool := false
deriving DecidableEq, Repr

end Sys2Proof.Machine
end

