-- ==== Sys2Proof/Machine/PartsMem.lean ====
section
/-!
DEFINITION. Memory, berm slots, sluices, weir, LPDDR5X channels, cores and arrays (chapters 03, 05, 08, 14).
-/
namespace Sys2Proof.Machine

/-- Device memory (R194): bytes by canonical address (the linear polder view, berms, LPDDR5X), an unlisted byte reading
as 0 (log entry 6); the granules or accesses that read as bad (R221, R223), by canonical start address, in an accumulator view by
the address itself; those at which the next read of a merge will meet an error of that read alone (R221); and the berm
slots, 64 core + slot, whose contents were lost (R202, R366) or used by the scheduler, with the free value drawn then: an
unlisted byte of such a slot reads as a free value. -/
structure Memory where
  cells : List Host.Cell := []
  bad : List Nat := []
  mergeFlaws : List Nat := []
  lost : Tab Nat := []
deriving DecidableEq, Repr

/-- Berm slot states (Table 8.3, R203). -/
inductive SlotState where
  | empty
  | filling
  | full
  | draining
deriving DecidableEq, Repr

/-- A berm slot with the command whose party claims it, the command and item to which the scheduler has allotted it, and
the stationary tile that it holds for that item (R204, R353). -/
structure Slot where
  st : SlotState := .empty
  claimant : Option CmdId := none
  holder : Option (CmdId × Nat) := none
  tile : Option StagedTile := none
deriving DecidableEq, Repr

/-- A party stalled on a slot for a command, and since which tick (R205). -/
structure Stall where
  party : Nat
  cmd : CmdId
  slot : Nat
  since : Nat
deriving DecidableEq, Repr

/-- Sluice states (Table 8.6, R210). -/
inductive SluiceState where
  | idle
  | running
  | shadowPending
  | offline
deriving DecidableEq, Repr

/-- A sluice: state, active chain, shadow chain. -/
structure Sluice where
  st : SluiceState := .idle
  active : Option SlChain := none
  shadow : Option SlChain := none
deriving DecidableEq, Repr

/-- The weir (Table 8.7, R214 to R217). `used` counts what was used in window `window`: 64-byte LPDDR5X accesses of class 0
READ, 1 WRITE, 2 REMOTE, 3 through the urgent reserve, and bytes of class k of port p under 16 + 4 p + k. -/
structure Weir where
  ddrRead : Nat := 10
  ddrWrite : Nat := 4
  ddrRemote : Nat := 2
  thl : List Nat := [8, 4, 2, 2]
  eth : List Nat := [0, 0, 14, 2]
  window : Nat := 0
  used : Tab Nat := []
  /-- The window whose beginning has been answered: `SET_WEIR` applied, ports sending on. -/
  served : Nat := 0
  /-- The unused credit of the urgent reserve, and how many it has earned since reset, one every 0.75 ns (R216). -/
  credit : Nat := 0
  earned : Nat := 0
deriving DecidableEq, Repr

/-- An LPDDR5X channel (R225, R310): ticks of its last refresh and tracking, and its corrected errors (Table 13.7). -/
structure DdrChannel where
  refreshed : Nat := 0
  tracked : Nat := 0
  /-- Its WCK2DQ offset as last tracked (R348). -/
  offset : W16 := 0
  corrected : W32 := 0
deriving DecidableEq, Repr

/-- Core states (Table 14.1a, R421). -/
inductive CoreState where
  | outOfService
  | inService
  | beingReset
deriving DecidableEq, Repr

/-- Reasons for leaving service (CORE_ERR.OUT_REASON, Table 14.9). -/
inductive OutReason where
  | inService
  | host
  | errors
  | ageing
  | selfTest
deriving DecidableEq, Repr

/-- One area of a block undo store (R64): held by the block in flight, and the prior values of the accumulator locations
that the block has written. -/
structure UndoArea where
  inUse : Bool := false
  prior : Tab (Option W32) := []
deriving DecidableEq, Repr

/-- One tensor array (chapter 03): the active and shadow registers (R55, R66), the pass in progress, the pre-empted passes
(R357), the block undo store's two areas (R64), and whether its row groups are enabled (R84, R85). -/
structure TArray where
  active : Tile := {}
  shadow : Tile := {}
  undo0 : UndoArea := {}
  undo1 : UndoArea := {}
  /-- The undo area that the next block takes. -/
  area : Nat := 0
  pass : Option Pass := none
  preempted : List Pass := []
  ramped : Bool := false
  /-- Column-block slots gone by since the core's last duty change (R335). -/
  slot : Nat := 0
  /-- Tick of the last broadcast of the last pass. -/
  lastCast : Nat := 0
deriving DecidableEq, Repr

/-- Whose values stand in an array's accumulator: an item of a command, on an array. -/
structure AccOwner where
  cmd : CmdId
  item : Nat
  arr : Nat
deriving DecidableEq, Repr

/-- One core: service state, the command and item that each thread T0 to T7 holds (R134), the arrays, the epilogues
that wait for the vector unit in commit order (R152), and its error counts (Table 14.9). -/
structure Core where
  st : CoreState := .inService
  /-- A reset of the core is in progress (CORE_RESET_BUSY), and since when. -/
  busy : Option Nat := none
  threads : Tab (CmdId × Nat) := []
  ta0 : TArray := {}
  ta1 : TArray := {}
  epiQ : List Epi := []
  /-- The vector unit's score buffer: areas 0 and 1, and area 2 of priority-0 commands (R181). -/
  score : Tab (Tab W32) := []
  /-- What the accumulator view reads as while no thread is held: free values drawn with this number (R198; log entry 5). -/
  accView : Nat := 0
  /-- The FP32 and INT32 values that committed blocks have stored in the accumulators, by the item that wrote them, the latest
  first, each at its row and column; they stay when the item is gone (R198). -/
  kept : List (AccOwner × Tab W32) := []
  reruns : W16 := 0
  exhausted : Byte := 0
  outReason : OutReason := .inService
deriving DecidableEq, Repr

end Sys2Proof.Machine
end

