-- ==== Sys2Proof/Machine/PartsNet.lean ====
section
/-!
DEFINITION. Ports, flows, windows, groups, the culvert, queue pairs, the prefix directory, tide and lock-step
(chapters 09 to 12).
-/
namespace Sys2Proof.Machine

/-- Whose write a packet is: a command's, a page body or trailer of a culvert destination of one bind, a multicast's that
this member forwards, or nobody's. -/
inductive Owner where
  | cmd (c : CmdId)
  | page (ch : Nat) (bind : W16) (dest q : Nat) (trailer : Bool)
  /-- The last packet of a ring multicast that this member forwards: the counter FWD_EVENT (R301). -/
  | fwd (event : Nat)
  | none
deriving DecidableEq, Repr

/-- Where a packet that is passed on came in: bundle, port, and where its flits leave that port's receive buffer as they are
sent on, their virtual channel and class as 2 vc + class (R274, R284). -/
structure Ingress where
  bundle : Nat
  port : Nat
  key : Option Nat := none
deriving DecidableEq, Repr

/-- A packet held by a port for sending: its owner, where it came in when it is forwarded, the bundle that it was routed to
(R305); flits in all, flits sent, and the sequence number after its last flit sent. -/
structure TxPacket where
  pkt : Packet
  owner : Owner := .none
  arrived : Option Ingress := none
  bundle : Nat := 0
  flits : Nat := 1
  sent : Nat := 0
  endSeq : Nat := 0
deriving DecidableEq, Repr

/-- Link states (PORT_STATUS.LINK, Table 11.10). -/
inductive LinkState where
  | down
  | training
  | up
  | keepAlive
deriving DecidableEq, Repr

/-- A port (R272 to R277, R303, R304, Table 11.10). Credits are kept by 2 vc + class. -/
structure Port where
  link : LinkState := .down
  partnerChip : BitVec 12 := 0
  partnerPort : BitVec 4 := 0
  disable : Bool := false
  breach : Bool := false
  linkDown : Bool := false
  linkUp : Bool := false
  breachCount : W32 := 0
  linkDownCount : W32 := 0
  linkUpCount : W32 := 0
  flitsTx : W64 := 0
  flitsRx : W64 := 0
  crcErrors : W32 := 0
  replays : W32 := 0
  fecCorrected : W32 := 0
  fecUncorrectable : W32 := 0
  framesDropped : W32 := 0
  pfcPauseRx : W32 := 0
  /-- Next sequence to send and first sequence not acknowledged. -/
  txSeq : BitVec 12 := 0
  txBase : BitVec 12 := 0
  /-- Replays since the last advance of ACK, the tick of the first of them, and of the last
  advance or replay. -/
  tries : Nat := 0
  firstTry : Nat := 0
  advanced : Nat := 0
  queue : List TxPacket := []
  replay : List TxPacket := []
  credits : Tab Nat := []
  /-- Next sequence expected; the NAK, the acknowledgement and the credits that the next flit sent returns. -/
  rxSeq : BitVec 12 := 0
  nak : Bool := false
  ackDue : Bool := false
  owed : Tab Nat := []
  /-- Sequenced flits are discarded until the expected one arrives (R276). -/
  discarding : Bool := false
  /-- Flits in the receive buffer, by 2 vc + class (R274). -/
  rxBuf : Tab Nat := []
  /-- Link delay (R315), units of 0.25 ns. -/
  delay : Nat := 0
  trainedAt : Nat := 0
  /-- A wake's widening to eight lanes is due (R303). -/
  widen : Bool := false
  /-- A PFC pause for its priority holds, and one that it has sent holds (R256). -/
  paused : Bool := false
  pausing : Bool := false
deriving DecidableEq, Repr

/-- The sending side of a flow (R279 to R281): writes not acknowledged, with owner and tick of sending. -/
structure FlowTx where
  next : Nat := 0
  unacked : List (Nat × Owner × Nat) := []
deriving DecidableEq, Repr

/-- What waits in a flow until every lower write is written or refused (R279, R300, R301): a signal's counter; the last packet
of a ring multicast, which this member then passes on; or the acknowledgement of the whole to its origin, with its CONTEXT, group
and AUX2. -/
inductive FlowDue where
  | event (n : Nat)
  | pass (k : Packet) (ingress : Option Ingress)
  | mcast (origin : BitVec 12) (context : W64) (group : W16) (aux2 : W32)
deriving DecidableEq, Repr

/-- The receiving side of a flow (R279, R280): every write below `done` is written or refused; `landed` are the later
ones; signals wait by sequence. `gone` holds the lost writes that FLOW_RESET has named, each with the sequence at which the sender
went on: signals between the two never apply (R281). -/
structure FlowRx where
  done : Nat := 0
  landed : List Nat := []
  signals : List (Nat × FlowDue) := []
  gone : List (Nat × Nat) := []
deriving DecidableEq, Repr

/-- Window states (Table 11.6). -/
inductive WindowState where
  | closed
  | open
  | draining
deriving DecidableEq, Repr

/-- A window (R286 to R290). -/
structure Window where
  st : WindowState := .closed
  gen : W16 := 0
  thl : Bool := false
  rdmaWrite : Bool := false
  rdmaRead : Bool := false
  base : Nat := 0
  bytes : Nat := 0
  refused : W32 := 0
  /-- Writes refused while DRAINING (R288), and the tick of the `WINDOW_CLOSE`. -/
  drainRefused : Nat := 0
  drainFrom : Nat := 0
deriving DecidableEq, Repr

/-- A held RTS (R295). -/
structure Rts where
  src : Nat
  group : Nat
  rank : Nat
  tag : Nat
  total : Nat
  context : Nat
  /-- Row bytes, rows and destination stride of the transfer (log entry 20); 0 where the packet does not tell. -/
  rowBytes : Nat := 0
  rows : Nat := 0
  stride : Nat := 0
deriving DecidableEq, Repr

/-- What an inbound RoCEv2 request asks of its window (R250, R252): the number and base of a window that admits it, or the
refusal. -/
inductive RoceAsk where
  | write (window base : Nat) (va : W64) (data : List Byte) (imm : Option W32)
  | read (window base : Nat) (va : W64) (n : Nat)
  | refused (window : Nat)
  | invalid
deriving DecidableEq, Repr

/-- What waits in a receive buffer: an admitted write into a window at `base`, where it came in, with its window; a request of a
queue pair (R215, R256, R289). -/
inductive Inflow where
  | write (ingress : Option Ingress) (base : Nat) (k : Packet)
  | roce (q : Nat) (psn : BitVec 24) (ask : RoceAsk)
deriving DecidableEq, Repr

/-- The PORTS block beyond the ports (Table 11.10). -/
structure PortsRegs where
  bundleMap : BitVec 48 := 0xFFFFFFFFFFFF
  dateline : Byte := 0
  e2eUs : BitVec 24 := 1000
  windowRefused : Bool := false
  noRoute : Bool := false
  groupRefused : Bool := false
  windowRefusedCount : W32 := 0
  noRouteCount : W32 := 0
  groupRefusedCount : W32 := 0
  groupAddr : BitVec 40 := 0
  groupBusy : Bool := false
  /-- Descriptor address of each configured group (R291). -/
  groups : Tab Nat := []
  /-- Next collective sequence number of each group (R292). -/
  collSeq : Tab Nat := []
  /-- ROUTE entries: bundle with the VALID bit (R282). -/
  route : Tab (BitVec 4) := []
  /-- Port that a bundle's next packet tries first (R285). -/
  turn : Tab Nat := []
  windows : Tab Window := []
  flowTx : Tab FlowTx := []
  flowRx : Tab FlowRx := []
  rts : List Rts := []
  /-- Arrivals, credits and bytes of collectives that came before the command on this module, by `earlyKey`. -/
  early : Tab Nat := []
  /-- Packets whose destination is this chip, waiting to be taken (R282). -/
  loop : List Packet := []
  /-- Inbound writes that the REMOTE class holds in the receive buffers, and what waits behind them (R215). -/
  inbound : List Inflow := []
deriving DecidableEq, Repr

/-- Export channel states (Table 9.1). -/
inductive ChannelState where
  | free
  | bound
  | sealing
deriving DecidableEq, Repr

/-- Reasons for which a destination fails (Table 9.7). -/
inductive FailReason where
  | timeout
  | laggard
  | staging
  | qpError
  | qpTornDown
  | window
  | link
deriving DecidableEq, Repr

/-- A destination of an export with its copy stream (Table 9.3, R235). -/
structure Dest where
  kind : Nat := 0
  qp : Nat := 0
  chip : Nat := 0
  window : Nat := 0
  gen : Nat := 0
  event : Nat := 0
  rkey : Nat := 0
  pageTable : Nat := 0
  trailerBase : Nat := 0
  failed : Option FailReason := none
  /-- Complete segments sent so far, in the order of their completion. -/
  sent : Nat := 0
  /-- Remote body addresses by page, read when the page's first segment is sent (R228). -/
  bodies : Tab Nat := []
  /-- Pages whose trailer has been sent, and those acknowledged. -/
  trailers : List Nat := []
  acked : List Nat := []
deriving DecidableEq, Repr

/-- A page in staging (R231): the buffer it holds, its complete segments, the elements accepted of each vector (a bit
each), when it became complete. -/
structure Page where
  buffer : Nat
  elems : Tab Nat := []
  segs : List Nat := []
  completeAt : Option Nat := none
  takenAt : Nat := 0
deriving DecidableEq, Repr

/-- An export channel (R226 to R243). -/
structure Channel where
  st : ChannelState := .free
  bindSeq : W16 := 0
  cvt : Nat := 0
  layout : Nat := 0
  pageTokens : Nat := 16
  heads : Nat := 1
  dim : Nat := 64
  layer0 : Nat := 0
  layers : Nat := 1
  rsId : Nat := 0
  tag : Nat := 0
  firstPos : Nat := 0
  endPos : Nat := 0
  timeoutUs : Nat := 0
  stallUs : Nat := 0
  kCol : Nat := 0
  vCol : Nat := 0
  crc : Bool := false
  stageAddr : Nat := 0
  stageBytes : Nat := 0
  dests : List Dest := []
  /-- Pages in staging by sequence number, and segments (page, segment) in the order in which they became complete. -/
  pages : Tab Page := []
  ready : List (Nat × Nat) := []
  /-- Tick of the latest segments of `ready`, and where those of that tick begin (R235). -/
  readyTick : Nat := 0
  readyFrom : Nat := 0
  /-- Reason STAGING: later hand-offs are discarded (R241). -/
  discard : Bool := false
  /-- The producers that are stalled for want of a buffer, by command and item from 1, 0 for a SOURCE, and since when (R241). -/
  stalls : List ((CmdId × Nat) × Nat) := []
  acks : Nat := 0
  late : Nat := 0
  /-- Pages that received values and were not complete at the SEAL (R243). -/
  incomplete : Nat := 0
  /-- First destination to fail, the tick, and the SEQ of its record. -/
  firstFail : Option Nat := none
  failTick : Nat := 0
  failLog : W16 := 0
deriving DecidableEq, Repr

/-- Queue pair states (R251). -/
inductive QpState where
  | free
  | ready
  | error
deriving DecidableEq, Repr

/-- RoCEv2 request packets that a queue pair has sent (R250). -/
inductive QpKind where
  | write (rkey va : Nat) (data : List Byte)
  | writeImm (rkey va : Nat) (data : List Byte) (imm : W32)
  | send (data : List Byte)
  | read (rkey va n : Nat)
deriving DecidableEq, Repr

/-- A request with the sequence number of its first packet, and how many of its packets have been acknowledged. -/
structure QpPacket where
  psn : BitVec 24
  kind : QpKind
  owner : Owner
  acked : Nat := 0
deriving DecidableEq, Repr

/-- RoCEv2 packets that a queue pair sends: requests, and acknowledgements, NAKs, read responses and CNPs. -/
inductive RoceOut where
  | ack (qp : Nat) (psn : BitVec 24)
  | nakAccess (qp : Nat) (psn : BitVec 24)
  | nakInvalid (qp : Nat) (psn : BitVec 24)
  | nakSequence (qp : Nat) (psn : BitVec 24)
  | response (qp : Nat) (psn : BitVec 24) (data : List Byte)
  | cnp (qp : Nat)
  | request (qp : Nat) (p : QpPacket)
deriving DecidableEq, Repr

/-- A queue pair (Table 9.10, R251 to R255). A rate (m, e) is m / 2^e units of 100 Mb/s, so that R255 is exact. -/
structure Qp where
  st : QpState := .free
  par : List Byte := []
  psn : BitVec 24 := 0
  rq : BitVec 24 := 0
  unacked : List QpPacket := []
  waiting : List QpPacket := []
  /-- Packets held by a PFC pause beside the requests (R256). -/
  out : List RoceOut := []
  tries : Nat := 0
  rnrTries : Nat := 0
  lastProgress : Nat := 0
  imms : Nat := 0
  rc : Nat × Nat := (0, 0)
  rt : Nat × Nat := (0, 0)
  lastCut : Option Nat := none
  lastCnpSent : Option Nat := none
  lastPeriod : Nat := 0
deriving DecidableEq, Repr

/-- What the module has sent on its ports: flits as they stand on the line (Table 11.1), a packet where its last flit has left;
RoCEv2 packets; a PFC frame for a priority, which pauses or lets go on. -/
inductive Sent where
  | flit (port : Nat) (b : List Byte)
  | packet (port : Nat) (k : Packet)
  | roce (o : RoceOut)
  | pfc (port : Nat) (priority : Nat) (pause : Bool)
deriving DecidableEq, Repr

/-- A directory entry, as its 32 bytes of the table give it (Table 10.3). -/
structure DirEntry where
  hash : Nat := 0
  loc : Nat := 0
  span : Nat := 0
  ref : Nat := 0
  age : Nat := 0
deriving DecidableEq, Repr

/-- The prefix directory beside its table, tags and hot lines, which lie in device memory (R260 to R264, Table 10.2): log2 E,
where they lie, how many hot lines there are and the entry pair that each holds, CLOCK, the ticks between its steps and the
tick of the last. -/
structure Directory where
  log2e : Nat := 20
  tableBase : Nat := 0x7FFE000000
  tagsBase : Nat := 0x87FE00000
  hotBase : Nat := 0x87F600000
  hotLines : Nat := 131072
  hot : Tab Nat := []
  clock : W16 := 0
  clockStep : Nat := 16777216
  stepped : Nat := 0
deriving DecidableEq, Repr

/-- Tide states (R315). -/
inductive TideState where
  | unsync
  | acquiring
  | tracking
deriving DecidableEq, Repr

/-- The TIDE block (Table 12.4) with the state of R315 and R409. -/
structure Tide where
  count : W64 := 0
  master : Bool := false
  source : BitVec 2 := 0
  syncEn : Bool := true
  st : TideState := .unsync
  masterChip : BitVec 12 := 0
  /-- Estimate of the offset from the master in units of 1/28 ns, so that a tick is 40: TIDE_OFFSET is a seventh of it. -/
  offset : Int := 0
  corrections : W32 := 0
  syncLost : Bool := false
  syncAcquired : Bool := false
  timingEvent : Bool := false
  syncLostCount : W32 := 0
  syncAcquiredCount : W32 := 0
  timingEventCount : W32 := 0
  dikeMargin : W16 := 4096
  capGate : W32 := 0
  thermal : W32 := 0
  brake : W32 := 0
  droop : W32 := 0
  rerun : W32 := 0
  replay : W32 := 0
  lateRelease : W32 := 0
  coreMask : W32 := 0
  firstTick : W64 := 0
  firstCause : BitVec 4 := 0
  /-- Local tick of the last SYNC received and of the last correction. -/
  lastSync : Nat := 0
  lastCorrection : Option Nat := none
  /-- TIDE_REF edges seen that needed no step, after the first. -/
  refEdges : Nat := 0
  periods : Nat := 0
deriving DecidableEq, Repr

/-- A digest of an item: inlet, lock-step sequence, item, value, and on this module the command and the item's tile
coordinates (R320, R321). -/
structure Digest where
  inlet : Nat
  seq : Nat
  item : Nat
  value : W64
  cmd : Option CmdId := none
  tile : Nat := 0
deriving DecidableEq, Repr

/-- Repeatable mode and lock-step pairing (R306, R319 to R322, Table 12.4). -/
structure Lockstep where
  repeatable : Bool := false
  set : Bool := false
  established : Bool := false
  partner : BitVec 12 := 0
  /-- The chip whose PAIR message naming this module arrived last. -/
  pairFrom : Option (BitVec 12) := none
  leadLimit : Nat := 256
  own : List Digest := []
  theirs : List Digest := []
  compared : W64 := 0
deriving DecidableEq, Repr

end Sys2Proof.Machine
end

