-- ==== Sys2Proof/Machine/PartsPower.lean ====
section
/-!
DEFINITION. The pumping station, telemetry, error log, security block, warden and pins (chapters 13 to 16).
-/
namespace Sys2Proof.Machine

/-- The power state of one core (R325 to R345, Table 13.5). Duties are in eighths. -/
structure CorePower where
  m : Nat := 16
  mMax : Nat := 17
  mMaxShip : Nat := 17
  railMv : Nat := 840
  /-- Set point trim of the adaptive loop, in steps of 5 mV (R327). -/
  trim : Int := 0
  /-- A value of m waiting for its rail to settle (R328). -/
  raising : Option Nat := none
  capDuty : Nat := 8
  thermalDuty : Nat := 8
  stretched : Bool := false
  share : W16 := 0
  est : W16 := 0
  /-- Its power at full duty and the present m in the last interval, the basis of the projection, 0.1 W (R336). -/
  full : Nat := 0
  /-- Its estimates since the last slow-loop boundary, each scaled to m = 16 and full duty, and their number (R338). -/
  sampleSum : Nat := 0
  sampleN : Nat := 0
  /-- Phase classes of the commands that have held a thread of it since the last slow-loop boundary (R338). -/
  classes : List Nat := []
  /-- The commands that held its threads when the cap was last divided (R339). -/
  heldBy : List Nat := []
  droops : W32 := 0
  eolMonths : Byte := 60
  margin : Byte := 0
  /-- Some sensor of the core is at or above its threshold; the tick since which all have been cool. -/
  hot : Bool := false
  coolFrom : Nat := 0
  logicTemp : List Int := [0, 0, 0, 0]
  sramTemp : List Int := [0, 0, 0, 0]
deriving DecidableEq, Repr

/-- The PUMPING block (Table 13.5). -/
structure Pump where
  capPeak : W16 := 1650
  capSustained : W16 := 1400
  wardenPeak : W16 := 1650
  wardenSustained : W16 := 1650
  mCeiling : BitVec 5 := 20
  learn : Bool := true
  unreachable : Bool := false
  brake : Bool := false
  /-- The duty that the brake allows: 1 while it holds, one step more per interval after it (R341). -/
  brakeDuty : Nat := 8
  estInterval : W16 := 0
  est1ms : W16 := 0
  est100ms : W16 := 0
  unreachableFlag : Bool := false
  brakeFlag : Bool := false
  throttleFlag : Bool := false
  unreachableCount : W32 := 0
  brakeCount : W32 := 0
  throttleCount : W32 := 0
  idleEnergy : W64 := 0
  moduleEnergy : W64 := 0
  demand : Tab Nat := []
  samples : Tab Nat := []
  jobEnergy : Tab Nat := []
  /-- Ticks of the commands of each job slot that have ended (R33). -/
  jobTicks : Tab Nat := []
  /-- Interval estimates, newest first, 0.1 W: as counted for the peak cap (R334) and as made. -/
  peakHist : List Nat := []
  susHist : List Nat := []
  /-- Chip-level and fixed terms of the last interval, and the converter's loss in thousandths. -/
  chip : Nat := 0
  loss : Nat := 0
  /-- What the activity counters read at the end of the last interval: by core and kind, and chip-level (R330). -/
  act : List (List Nat) := []
  chipAct : List Nat := []
  /-- Commands that have ended since the last interval, with inlet and job slot: their share is still attributed (R344). -/
  ended : List (CmdId × Nat × Nat) := []
  /-- The core whose slot is withheld next in the rotation of R309. -/
  turn : Nat := 0
deriving DecidableEq, Repr

/-- The TELEMETRY block beyond the per-core values (Table 13.7). Temperatures are in 0.125 degree units. -/
structure Telemetry where
  tempMax : Int := 0
  tempMaxSensor : Nat := 0
  vin : W16 := 0
  pinMeasured : W16 := 0
  eolMonths : Byte := 60
  eolSource : Byte := 0
  eolWarn : Bool := false
  eolCrit : Bool := false
  maxLowered : Bool := false
  eolWarnCount : W32 := 0
  eolCritCount : W32 := 0
  maxLoweredCount : W32 := 0
  eyeMv : Tab Nat := []
  portMonths : Tab Nat := []
deriving DecidableEq, Repr

/-- An error-log record (Table 14.8, R375). -/
structure LogRecord where
  seq : Nat
  tick : W64
  cls : Byte
  severity : Byte
  unit : Byte := 0
  index : Byte := 0
  opcode : W16 := 0
  inlet : W16 := 0xFFFF
  tag : W32 := 0
  addr : W64 := 0
  detail : W64 := 0
  extra : W64 := 0
deriving DecidableEq, Repr

/-- The ERROR block (Table 14.9). Records are kept by slot. -/
structure ErrLog where
  seq : Nat := 0
  ack : W64 := 0
  new : Bool := false
  overrun : Bool := false
  coreOut : Bool := false
  newCount : W32 := 0
  overrunCount : W32 := 0
  coreOutCount : W32 := 0
  watchdogUs : W32 := 10000
  reserve : BitVec 5 := 8
  autoOffline : Bool := true
  reserveActive : BitVec 5 := 8
  preempts : W32 := 0
  watchdogs : W32 := 0
  records : Tab LogRecord := []
  periods : Nat := 0
deriving DecidableEq, Repr

/-- Staging states (Table 15.6). -/
inductive FwState where
  | none
  | staged
  | pending
  | writing
deriving DecidableEq, Repr

/-- A mailbox request that waits for the security block (R385): relayed by the warden or a host's, operation, request bytes, the
commands dispatched before its GO. -/
structure MbxWait where
  relay : Bool
  op : Nat
  req : List Byte
  before : Nat
deriving DecidableEq, Repr

/-- The SECURITY block (Table 15.12). -/
structure Security where
  op : Byte := 0
  mbxState : BitVec 2 := 0
  result : Byte := 0
  reqBytes : W16 := 0
  rspBytes : W16 := 0
  req : Tab Byte := []
  rsp : List Byte := []
  fallbackFlag : Bool := false
  authFailed : Bool := false
  debugUnlocked : Bool := false
  mbxDone : Bool := false
  fallbackCount : W32 := 0
  authFailedCount : W32 := 0
  debugUnlockedCount : W32 := 0
  mbxDoneCount : W32 := 0
  challenge : Option (List Byte) := none
  debugLevel : Nat := 0
  unlocks : Nat := 0
  debugDigest : List Byte := List.replicate 64 0
  /-- FW_STATE.FALLBACK and the image that runs. -/
  fallback : Bool := false
  svnActive : Nat := 0
  image : List Byte := []
  /-- The owner key and C as measured at boot (R391). -/
  bootOwner : Option (List Byte) := none
  bootC : Nat := 0
  /-- Configuration sections in force since boot, with their sequence numbers (R391). -/
  calibration : List Byte := []
  calibrationSeq : Nat := 0
  operator : List Byte := []
  operatorSeq : Nat := 0
  /-- Root PLL locked and keys in the key store (Table 15.4). -/
  keys : Bool := false
  /-- Mailbox requests that wait for the security block, in the order of their GO (R385). -/
  mbxWait : List MbxWait := []
deriving DecidableEq, Repr

/-- A configuration section in flash: bytes and sequence number of the newer and of the older copy; a loss of standby power during
its write leaves the newer copy not intact (R378). -/
structure Section where
  body : List Byte := []
  seq : Nat := 0
  oldBody : List Byte := []
  oldSeq : Nat := 0
  intact : Bool := true
deriving DecidableEq, Repr

/-- The warden with its flash (R378, R382, R394, R395; log entry 7). -/
structure Warden where
  slot0 : List Byte := []
  slot1 : List Byte := []
  valid0 : Bool := true
  valid1 : Bool := false
  activeSlot : Bool := false
  fwState : FwState := .none
  minSvn : Nat := 0
  ownerKey : Option (List Byte) := none
  calibration : Section := {}
  operator : Section := {}
  history : List Byte := []
  tripLog : Nat := 0
  bootCount : Nat := 0
  /-- The warden's outstanding challenge; empty once consumed. -/
  challenge : List Byte := []
  /-- The replay-protected partition (R378): the digest of the registered owner key, and the flash's write counter. -/
  ownerDigest : List Byte := List.replicate 64 0
  writes : Nat := 0
  /-- A trip is latched (R346). -/
  tripped : Bool := false
  alert : Bool := false
  /-- Trial boot under way; a failed trial waits for its power-on; the boot after it is a fallback (R382). -/
  trial : Bool := false
  fallbackDue : Bool := false
  fallbackNext : Bool := false
  bridgeOpen : Bool := false
  /-- The last reply: completion byte and data. -/
  reply : Nat × List Byte := (0, [])
deriving DecidableEq, Repr

/-- The operator section's values in force (R378), the configuration record's per-port and per-part fields. -/
structure Record where
  chipId : BitVec 12 := 0
  /-- 0 Thondlink, 1 Ethernet 1.6 Tb/s, 2 Ethernet 2 x 800 Gb/s, by port. -/
  portMode : List Nat := [0, 0, 0, 0, 0, 0, 0, 0, 0, 0, 0, 0]
  /-- Priority for which PFC is enabled, by port. -/
  pfc : List (Option Nat) := []
  /-- MAC addresses, by 2 port + half-port (R248). -/
  macs : List Nat := List.replicate 24 0
  /-- Each core's voltage set points for m = 8 to 20, mV (R326, R327). -/
  setPoints : List (List Nat) :=
    List.replicate 16 [600, 625, 650, 675, 700, 725, 750, 775, 800, 825, 850, 875, 900]
  /-- The warden's SMBus address, AUTO_POWER (R378), the subsystem IDs (R410). -/
  smbAddr : BitVec 7 := 0x4A
  autoPower : Bool := true
  subsystem : W32 := 0
deriving DecidableEq, Repr

/-- The PCI Express configuration space of the function (Table 16.7, R413): vendor, device, class code and subsystem IDs, the device
power state D3hot, the error status of AER, uncorrectable and correctable. -/
structure PciConfig where
  vendor : W16 := 0x1F3C
  device : W16 := 0x6420
  classCode : BitVec 24 := 0x120000
  subsystem : W32 := 0
  d3hot : Bool := false
  aerUncorrectable : W32 := 0
  aerCorrectable : W32 := 0
deriving DecidableEq, Repr

/-- The pins and power of the module (R405, R412): low inputs are true when asserted. -/
structure Pins where
  vin : Bool := true
  powered : Bool := true
  perst : Bool := false
  modReset : Bool := false
  linkReset : Bool := false
  brake : Bool := false
  thermTrip : Bool := false
deriving DecidableEq, Repr

end Sys2Proof.Machine
end

