-- ==== Sys2Proof/Machine/State.lean ====
section
/-!
DEFINITION. The state of the module as plain data, the reasons for which the model stops, and the state right after a
device reset.
-/
namespace Sys2Proof.Machine

/-- The state of an OVP-6420-M1. A table lists the entries that differ from their defaults after reset: inlets and
outfalls by number, event counters, slots by 64 core + slot, sluices, cores, ports, export channels, queue pairs. -/
structure State where
  /-- GLOBAL (Table 2.10). -/
  dev : Dev := {}
  inlets : Tab Inlet := []
  outfalls : Tab Outfall := []
  irq : Irq := {}
  ap : Aperture := {}
  clk : Clock := {}
  /-- Event counters 1 to 65,535 (R23). -/
  events : Tab W32 := []
  /-- Commands in flight, in the order of their fetch (R27). -/
  cmds : List Cmd := []
  mem : Memory := {}
  /-- Host memory where the device has read or written it: slots (R16), entries and tail write-backs (R32). -/
  host : Tab Byte := []
  /-- MSI-X vectors raised, oldest first (R34, R52). -/
  msix : List Nat := []
  /-- What the ports have sent, oldest first. -/
  wire : List Sent := []
  slots : Tab Slot := []
  /-- The parties that stall on slots (R205). -/
  stalls : List Stall := []
  sluices : Tab Sluice := []
  weir : Weir := {}
  ddr : Tab DdrChannel := []
  /-- LPDDR5X is in self-refresh (R347). -/
  selfRefresh : Bool := false
  cores : Tab Core := []
  ports : Tab Port := []
  net : PortsRegs := {}
  channels : Tab Channel := []
  qps : Tab Qp := []
  dir : Directory := {}
  tide : Tide := {}
  lock : Lockstep := {}
  pump : Pump := {}
  power : Tab CorePower := []
  tele : Telemetry := {}
  err : ErrLog := {}
  sec : Security := {}
  warden : Warden := {}
  rcd : Record := {}
  pci : PciConfig := {}
  pins : Pins := {}
  /-- The model's own: how many free values have been drawn (log entry 5). -/
  free : Nat := 0
  /-- The commands that wait, first in first out. -/
  pending : List Instr := []
deriving DecidableEq, Repr

/-- Why the model stops with a fault. Each is a case that the manual leaves unchecked and calls unpredictable (R46,
R47, R194); a stop is safe, since it allows no behaviour. -/
inductive Fault where
  /-- COMMAND_FETCH: an opcode not in Table 2.6, VERSION other than 1, PARAM_LEN above 56, a reserved header field not
  zero (R46). Safe. -/
  | badHeader (opcode : Nat)
  /-- A dispatch row: a parameter value, alignment or reserved field outside what the opcode's table allows (R46).
  Safe. -/
  | badParameter (opcode : Nat)
  /-- A row that reaches device memory: an address that Table 8.1 reserves, or a region the command must not reach
  (R194, R46). Safe. -/
  | badAddress (addr : Nat)
  /-- DOORBELL: a tail outside the ring (R46). Safe. -/
  | badTail (i : Nat)
  /-- REGISTER_WRITE: a write of OUTFALL_HEAD that passes OUTFALL_TAIL (R46), of an M_CEILING or URGENT_RESERVE outside its
  range (Table 13.5, R354: unchecked under R46), an access that is not naturally aligned (R47). Safe. -/
  | badRegister (addr : Nat)
  /-- A mailbox row: GO while a request is busy, or an operation not in Table 15.10 (R393). Safe. -/
  | badMailbox
  /-- GROUP_CONFIGURE: a descriptor outside Table 11.8 (R46). Safe. -/
  | badGroup (g : Nat)
deriving DecidableEq, Repr

/-- Why the model refuses a command. -/
inductive Refusal where
  /-- An arm of `exec` without a meaning. Safe. -/
  | notModelled (mnemonic : String)
deriving DecidableEq, Repr

/-- The state right after a device reset has ended (R10, R413): every register at the Reset column of its table, the
device in BOOTING, no command in flight, memory with nothing listed. -/
def State.reset : State := {}

end Sys2Proof.Machine
end

