-- ==== Sys2Proof/Machine/Flags.lean ====
section
/-!
DEFINITION. Accessors of the tables, W1C flags with their companion counters, device-level interrupt causes, the error
log, timing events (R9, R48, R49, R52, R313, R375).
-/
namespace Sys2Proof.Machine

/-- What a meaning answers. -/
abbrev Out := Host.Outcome State Fault Refusal

def getInlet (s : State) (i : Nat) : Inlet := tabGet s.inlets {} i
def putInlet (s : State) (i : Nat) (x : Inlet) : State := { s with inlets := tabSet s.inlets i x }
def getOutfall (s : State) (i : Nat) : Outfall := tabGet s.outfalls { vector := BitVec.ofNat 8 i } i
def putOutfall (s : State) (i : Nat) (x : Outfall) : State := { s with outfalls := tabSet s.outfalls i x }
def getSlot (s : State) (k : Nat) : Slot := tabGet s.slots {} k
def putSlot (s : State) (k : Nat) (x : Slot) : State := { s with slots := tabSet s.slots k x }
def getSluice (s : State) (n : Nat) : Sluice := tabGet s.sluices {} n
def putSluice (s : State) (n : Nat) (x : Sluice) : State := { s with sluices := tabSet s.sluices n x }
def getCore (s : State) (c : Nat) : Core := tabGet s.cores {} c
def putCore (s : State) (c : Nat) (x : Core) : State := { s with cores := tabSet s.cores c x }

/-- Receive credits of a virtual channel and class after training (Table 11.2). -/
def creditsOf (vc : Nat) : Nat := if vc = 0 then 64 else 480

def getPort (s : State) (p : Nat) : Port := tabGet s.ports {} p
def putPort (s : State) (p : Nat) (x : Port) : State := { s with ports := tabSet s.ports p x }
def getChannel (s : State) (c : Nat) : Channel := tabGet s.channels {} c
def putChannel (s : State) (c : Nat) (x : Channel) : State := { s with channels := tabSet s.channels c x }
def getQp (s : State) (q : Nat) : Qp := tabGet s.qps {} q
def putQp (s : State) (q : Nat) (x : Qp) : State := { s with qps := tabSet s.qps q x }
def getPower (s : State) (c : Nat) : CorePower := tabGet s.power {} c
def putPower (s : State) (c : Nat) (x : CorePower) : State := { s with power := tabSet s.power c x }
def getDdr (s : State) (ch : Nat) : DdrChannel := tabGet s.ddr {} ch
def putDdr (s : State) (ch : Nat) (x : DdrChannel) : State := { s with ddr := tabSet s.ddr ch x }
def getWindow (s : State) (w : Nat) : Window := tabGet s.net.windows {} w
def putWindow (s : State) (w : Nat) (x : Window) : State :=
  { s with net := { s.net with windows := tabSet s.net.windows w x } }

/-- One of a core's two arrays. -/
def getArray (s : State) (c a : Nat) : TArray := if a = 0 then (getCore s c).ta0 else (getCore s c).ta1
def putArray (s : State) (c a : Nat) (x : TArray) : State :=
  let k := getCore s c
  putCore s c (if a = 0 then { k with ta0 := x } else { k with ta1 := x })

/-- A core is in service (R421). -/
def coreIn (s : State) (c : Nat) : Bool := (getCore s c).st = .inService

/-- CAPS.CORE_MASK (Table 2.10, R421). -/
def coreMask (s : State) : Nat := (List.range 16).foldl (fun m c => if coreIn s c then m + 2 ^ c else m) 0

/-- CAPS.CORES. -/
def coreCount (s : State) : Nat := (List.range 16).countP (coreIn s)

/-- Whether a bit of DEV_IRQ_CAUSE is 1 (Table 2.13). -/
def causeBit (q : Irq) (n : Nat) : Bool :=
  match n with
  | 0 => q.causeState
  | 1 => q.causeFault
  | 2 => q.causeLog
  | _ => q.causeInlet

/-- Whether a cause is masked in. -/
def maskBit (q : Irq) (n : Nat) : Bool :=
  match n with
  | 0 => q.maskState
  | 1 => q.maskFault
  | 2 => q.maskLog
  | _ => q.maskInlet

/-- A byte of the MSI-X table: Vector Control starts with its mask bit set (R52; log entry 8). -/
def msixByte (q : Irq) (o : Nat) : Byte := tabGet q.table (if o % 16 = 12 then 1 else 0) o

/-- Whether the mask bit of a vector's entry is set. -/
def vectorMasked (q : Irq) (v : Nat) : Bool := (msixByte q (16 * v + 12)).getLsbD 0

/-- The pending bit of a vector. -/
def vectorPending (q : Irq) (v : Nat) : Bool := (tabGet q.pba 0 (v / 8)).getLsbD (v % 8)

/-- Set or clear the pending bit of a vector. -/
def setPending (q : Irq) (v : Nat) (b : Bool) : Irq :=
  let w := BitVec.ofNat 8 (2 ^ (v % 8))
  let x := tabGet q.pba 0 (v / 8)
  { q with pba := tabSet q.pba (v / 8) (if b then x ||| w else x &&& ~~~w) }

/-- Send a vector's message; a masked vector becomes pending (R52). -/
def sendVector (s : State) (v : Nat) : State :=
  if vectorMasked s.irq v then { s with irq := setPending s.irq v true } else { s with msix := s.msix ++ [v] }

/-- A pending vector that is not masked is sent, and is pending no more (R52). -/
def releaseVector (s : State) (v : Nat) : State :=
  if vectorPending s.irq v && !vectorMasked s.irq v then
    { s with irq := setPending s.irq v false, msix := s.msix ++ [v] }
  else s

/-- Set a bit of DEV_IRQ_CAUSE; the device vector is raised on a transition of a masked-in cause from 0 to 1 (R52). -/
def raiseCause (s : State) (n : Nat) : State :=
  if causeBit s.irq n then s
  else
    let q := s.irq
    let q' := match n with
      | 0 => { q with causeState := true }
      | 1 => { q with causeFault := true }
      | 2 => { q with causeLog := true }
      | _ => { q with causeInlet := true }
    let s := { s with irq := q' }
    if maskBit q n then sendVector s q.vector.toNat else s

/-- Whether any INLET_STATUS flag is set. -/
def anyInletFlag (s : State) : Bool := s.inlets.any (fun p => p.2.refused || p.2.ignored || p.2.halted)

/-- A cause clears when its sources are cleared (Table 2.13). -/
def lowerCauses (s : State) : State :=
  { s with irq := { s.irq with
      causeState := s.irq.causeState && s.dev.stateChanged
      causeFault := s.irq.causeFault && s.dev.faultFlag
      causeLog := s.irq.causeLog && s.err.new
      causeInlet := s.irq.causeInlet && anyInletFlag s } }

/-- Change DEV_STATE.STATE: STATE_CHANGED is set and counted on every change (R48); READY starts the idle time, and there
QUIESCED mirrors QUIESCE (Table 2.5). -/
def setDevState (s : State) (st : DevState) : State :=
  if s.dev.state = st then s
  else raiseCause
    { s with dev := { s.dev with
        state := st, quiesced := decide (st = .ready) && s.dev.quiesce
        stateChanged := true, stateChangedCount := s.dev.stateChangedCount + 1
        idleFrom := if st = .ready then s.clk.ticks else s.dev.idleFrom } } 0

/-- Which INLET_STATUS flag. -/
inductive InletFlag where
  | refused
  | ignored
  | halted
deriving DecidableEq, Repr

/-- Set an INLET_STATUS flag and count it (R9, R49). -/
def setInletFlag (s : State) (i : Nat) (f : InletFlag) : State :=
  let x := getInlet s i
  let x' := match f with
    | .refused => { x with refused := true, refusedCount := x.refusedCount + 1 }
    | .ignored => { x with ignored := true, ignoredCount := x.ignoredCount + 1 }
    | .halted => { x with halted := true, haltedCount := x.haltedCount + 1 }
  raiseCause (putInlet s i x') 3

/-- Write an error-log record (R375, Table 14.8). Its SEQ and TICK are the log's. -/
def writeLog (s : State) (r : LogRecord) : State :=
  let n := s.err.seq + 1
  let lapped := decide (n > s.err.ack.toNat + 512)
  let e := s.err
  raiseCause
    { s with err := { e with
        seq := n
        records := tabSet e.records ((n - 1) % 512) { r with seq := n, tick := s.tide.count }
        new := true, newCount := e.newCount + 1
        overrun := e.overrun || lapped
        overrunCount := if lapped then e.overrunCount + 1 else e.overrunCount } } 2

/-- A record of a class and severity, with its source, command and address. -/
def logOf (cls sev unit index : Nat) (c : Option Cmd) (addr detail extra : Nat) : LogRecord :=
  { seq := 0, tick := 0, cls := BitVec.ofNat 8 cls, severity := BitVec.ofNat 8 sev
    unit := BitVec.ofNat 8 unit, index := BitVec.ofNat 8 index
    opcode := match c with | some c => c.hdr.opcode | none => 0
    inlet := match c with | some c => BitVec.ofNat 16 c.inlet | none => 0xFFFF
    tag := match c with | some c => c.hdr.tag | none => 0
    addr := BitVec.ofNat 64 addr, detail := BitVec.ofNat 64 detail, extra := BitVec.ofNat 64 extra }

/-- Log a fault of Table 14.4. -/
def logFault (s : State) (cls sev unit index : Nat) (c : Option Cmd) (addr detail extra : Nat) : State :=
  writeLog s (logOf cls sev unit index c addr detail extra)

/-- The rows of Table 12.3, numbered from 1. -/
inductive TimingRow where
  | capGate
  | thermal
  | brake
  | droop
  | rerun
  | replay
  | correction
  | late
  | coreMask
deriving DecidableEq, Repr

/-- The row's number in Table 12.3. -/
def TimingRow.num : TimingRow → Nat
  | .capGate => 1
  | .thermal => 2
  | .brake => 3
  | .droop => 4
  | .rerun => 5
  | .replay => 6
  | .correction => 7
  | .late => 8
  | .coreMask => 9

/-- A timing event (R313): while repeatable mode is on it counts in its TIDE counter and sets TIMING_EVENT; the first one
is recorded in TIMING_FIRST. Completion flags are the caller's. -/
def timingEvent (s : State) (r : TimingRow) (n : Nat) : State :=
  if s.lock.repeatable && decide (0 < n) then
    let t := s.tide
    let k := BitVec.ofNat 32 n
    let t := match r with
      | .capGate => { t with capGate := t.capGate + k }
      | .thermal => { t with thermal := t.thermal + k }
      | .brake => { t with brake := t.brake + k }
      | .droop => { t with droop := t.droop + k }
      | .rerun => { t with rerun := t.rerun + k }
      | .replay => { t with replay := t.replay + k }
      | .correction => { t with corrections := t.corrections + k }
      | .late => { t with lateRelease := t.lateRelease + k }
      | .coreMask => { t with coreMask := t.coreMask + k }
    let first := !t.timingEvent
    { s with tide := { t with
        timingEvent := true, timingEventCount := t.timingEventCount + k
        firstTick := if first then t.count else t.firstTick
        firstCause := if first then BitVec.ofNat 4 r.num else t.firstCause } }
  else s

/-- Assert ALERT_N through the warden (R394). -/
def raiseAlert (s : State) : State := { s with warden := { s.warden with alert := true } }

/-- Time passes: the local divider and the tide counter count together (R315, R316). -/
def advance (s : State) (n : Nat) : State :=
  { s with clk := { s.clk with ticks := s.clk.ticks + n }
           tide := { s.tide with count := s.tide.count + BitVec.ofNat 64 n } }

/-- Move the clock forward to a local tick that is not past (log entry 3). -/
def advanceTo (s : State) (t : Nat) : State := advance s (t - s.clk.ticks)

/-- What an empty queue does: one tick passes. -/
def idle (s : State) : State := advance s 1

/-- Microseconds in ticks (R7). -/
def us (n : Nat) : Nat := 700 * n

/-- Draw a free value (log entry 5). -/
def drawFree (s : State) : Nat × State := (Config.freeNat s.free, { s with free := s.free + 1 })

end Sys2Proof.Machine
end

