-- ==== Sys2Proof/Machine/Ops.lean ====
section
/-!
DEFINITION. The command processor's shared operations: events and waits (R23 to R26), dispatch order (R28, R30),
completion (R25, R31 to R36, R43), causes (R369 to R373), ending a command and what it holds (R370), device FAULT (R40).
-/
namespace Sys2Proof.Machine

/-- The value of an event counter; counter 0 reads as 0 (R23). -/
def eventVal (s : State) (e : Nat) : W32 := if e = 0 then 0 else tabGet s.events 0 e

/-- Whether a wait is met by the present counter (R24); a wait on counter 0 is met at once (R23). -/
def waitMet (s : State) (e t : Nat) : Bool :=
  e = 0 || ((eventVal s e).toNat % 65536 + 65536 - t % 65536) % 65536 < 32768

/-- The four header waits with their latches brought up to date (R24). -/
def latchCmd (s : State) (c : Cmd) : Cmd :=
  { c with
    met := (c.hdr.waits.zip c.met).map (fun p => p.2 || waitMet s p.1.1 p.1.2)
    work := match c.work with
      | .waitEvents ws => .waitEvents (ws.map (fun w => (w.1, w.2.1, w.2.2 || waitMet s w.1 w.2.1)))
      | w => w }

/-- Latch every wait that is met (R24). -/
def latch (s : State) : State := { s with cmds := s.cmds.map (latchCmd s) }

/-- Set an event counter and latch the waits that it meets; counter 0 ignores writes (R23, R24). -/
def setEvent (s : State) (e : Nat) (v : W32) : State :=
  if e = 0 then s else latch { s with events := tabSet s.events e v }

/-- Add to an event counter modulo 2^32 (R25). -/
def addEvent (s : State) (e n : Nat) : State := setEvent s e (eventVal s e + BitVec.ofNat 32 n)

/-- A command in flight. -/
def findCmd (s : State) (id : CmdId) : Option Cmd := s.cmds.find? (fun c => c.id == id)

/-- Change a command in flight. -/
def modCmd (s : State) (id : CmdId) (f : Cmd → Cmd) : State :=
  { s with cmds := s.cmds.map (fun d => if d.id = id then f d else d) }

/-- Replace the work of a command. -/
def setWork (s : State) (id : CmdId) (w : Work) : State := modCmd s id (fun c => { c with work := w })

/-- Commands of an inlet in flight. -/
def inFlight (s : State) (i : Nat) : Nat := s.cmds.countP (fun c => c.inlet == i)

/-- A command fetched and not dispatched. -/
def isHeld (c : Cmd) : Bool := match c.work with | .held => true | _ => false

/-- An `EVENT_WAIT` or `FENCE` that has been dispatched and has not completed (R28). -/
def holdsBack (c : Cmd) : Bool := match c.work with | .waitEvents _ | .fence _ => true | _ => false

/-- A bit of the header's FLAGS (Table 2.1). -/
def flagSet (h : Header) (n : Nat) : Bool := bitOf h.flags.toNat n

/-- Priority of an inlet (R30). -/
def prio (s : State) (i : Nat) : Nat := (getInlet s i).priority.toNat

/-- Whether a command was fetched from a priority-0 inlet. -/
def urgent (c : Cmd) : Bool := c.urgent

/-- The first command of an inlet that has not been dispatched, in ring order. -/
def headHeld (s : State) (i : Nat) : Option Cmd := s.cmds.find? (fun c => c.inlet == i && isHeld c)

/-- An inlet whose next command may be dispatched, priorities apart (R28, Table 2.5b). -/
def ready (s : State) (i : Nat) : Bool :=
  match headHeld s i with
  | none => false
  | some c =>
    ((getInlet s i).state = .open || (getInlet s i).state = .draining) &&
    (s.dev.state = .active || s.dev.state = .quiescing) &&
    (c.hdr.waits.zip c.met).all (fun p => p.2 || waitMet s p.1.1 p.1.2) &&
    !s.cmds.any (fun d => d.inlet == i && d.id < c.id && holdsBack d)

/-- The inlet served among those that have a command ready: strict priority, round robin among equals (R30). The turn of
a priority names the inlet served last; at reset inlet 0 comes first (log entry 12). -/
def pickInlet (s : State) (rdy : List Nat) (turn : Tab Nat) : Option Nat :=
  let p := rdy.foldl (fun a i => min a (prio s i)) 4
  let l := rdy.filter (fun i => prio s i = p)
  match l.find? (fun i => tabGet turn 63 p < i) with
  | some i => some i
  | none => l.head?

/-- The command of inlet `i` that a dispatch row runs: the inlet's next command, when it is served and is one of the
row's. -/
def dispatchable (s : State) (i : Nat) (sel : Cmd → Bool) : Option Cmd :=
  match headHeld s i with
  | none => none
  | some c => if sel c && pickInlet s ((List.range 64).filter (ready s)) s.clk.dispTurn = some i then some c else none

/-- Codes of Table 2.7. -/
def Status.code : Status → Nat
  | .ok => 0x00
  | .stateReject => 0x01
  | .aborted => 0x02
  | .rerunExhausted => 0x03
  | .linkBreach => 0x04
  | .windowClosed => 0x05
  | .timeout => 0x06
  | .diverged => 0x07
  | .authFail => 0x08
  | .coreOffline => 0x09
  | .exportFailed => 0x0A
  | .directoryFull => 0x0B

/-- Codes of Table 14.7. -/
def CauseCode.code : CauseCode → Nat
  | .abortCmd => 0x10
  | .deviceFault => 0x11
  | .coreLost => 0x12
  | .unwritten => 0x13
  | .breach => 0x20
  | .e2eTimeout => 0x21
  | .noRoute => 0x22
  | .collAbort => 0x23
  | .partnerLost => 0x24
  | .windowRefused => 0x30
  | .watchdog => 0x40
  | .bermDeadlock => 0x41
  | .exportDest => 0x50
  | .dirSetFull => 0x60
  | .auth => 0x70

/-- The status a cause ends a command with (Table 14.7). -/
def CauseCode.status : CauseCode → Status
  | .abortCmd | .deviceFault | .coreLost | .unwritten => .aborted
  | .breach | .e2eTimeout | .noRoute | .collAbort | .partnerLost => .linkBreach
  | .windowRefused => .windowClosed
  | .watchdog | .bermDeadlock => .timeout
  | .exportDest => .exportFailed
  | .dirSetFull => .directoryFull
  | .auth => .authFail

/-- The class of the record that logs a cause (Table 14.7); a breach or a device fault names the record of its event. -/
def CauseCode.cls : CauseCode → Nat
  | .abortCmd => 0x23
  | .deviceFault => 0x40
  | .coreLost | .unwritten => 0x24
  | .breach => 0x10
  | .e2eTimeout => 0x12
  | .noRoute | .collAbort | .partnerLost => 0x15
  | .windowRefused => 0x13
  | .watchdog => 0x21
  | .bermDeadlock => 0x20
  | .exportDest => 0x14
  | .dirSetFull => 0x25
  | .auth => 0x26

/-- The order of causes that are posted against one command in one tick (R372); `RERUN_EXHAUSTED` is third and `DIVERGED` ninth. -/
def CauseCode.rank : CauseCode → Nat
  | .deviceFault => 1
  | .auth => 2
  | .breach | .noRoute | .collAbort | .partnerLost => 4
  | .e2eTimeout => 5
  | .windowRefused => 6
  | .exportDest => 7
  | .dirSetFull => 8
  | .coreLost | .unwritten => 10
  | .abortCmd => 11
  | .bermDeadlock => 12
  | .watchdog => 13

/-- A cause record (Table 14.6). -/
def causeWord (k : Cause) (secondary : Bool) : Nat :=
  k.code.code + bit01 secondary * 2 ^ 8 + k.chip.toNat * 2 ^ 16 + k.core.toNat * 2 ^ 28 + k.arg.toNat * 2 ^ 32 +
    k.log.toNat * 2 ^ 48

/-- A `STATE_REJECT` detail (Table 2.3). -/
def rejectWord (scope code index : Nat) : Nat := scope + code % 256 * 2 ^ 8 + index % 2 ^ 32 * 2 ^ 16

/-- Tile coordinates (R36). -/
def tileWord (core arr entry tile block stage : Nat) : Nat :=
  core % 16 + arr % 2 * 2 ^ 4 + entry % 2 ^ 12 * 2 ^ 8 + tile % 2 ^ 20 * 2 ^ 20 + block % 2 ^ 20 * 2 ^ 40 +
    stage % 16 * 2 ^ 60

/-- Host memory holds these bytes from an address on. -/
def hostWrite (s : State) (a : Nat) (b : List Byte) : State :=
  { s with host := (b.zipIdx).foldl (fun t p => tabSet t (a + p.2) p.1) s.host }

/-- Entries of an outfall that hold no entry and no reservation (R31, R32). -/
def outfallRoom (o : Outfall) : Nat :=
  2 ^ o.sizeLog2.toNat - 1 - (o.tail.toNat + 2 ^ o.sizeLog2.toNat - o.head.toNat) % 2 ^ o.sizeLog2.toNat - o.reserved

/-- Raise an outfall's vector: its entries are signalled (R34). -/
def raiseVector (s : State) (i : Nat) : State :=
  let o := getOutfall s i
  sendVector (putOutfall s i { o with sinceIrq := 0, oldest := none }) o.vector.toNat

/-- The bytes of a completion entry (Table 2.2). -/
def entryBytes (tag : W32) (st : Status) (secondary opcode energy duration detail : Nat) : List Byte :=
  leBytes 4 tag.toNat ++ leBytes 1 st.code ++ leBytes 1 secondary ++ leBytes 2 opcode ++
    leBytes 4 (satTo (2 ^ 32 - 1) energy) ++ leBytes 5 (satTo (2 ^ 40 - 1) duration) ++ List.replicate 7 0 ++
    leBytes 8 detail

/-- Write an entry at OUTFALL_TAIL, advance and write back the tail, and raise the vector when COALESCE_COUNT entries
have been written since the last interrupt (R32, R34). The reservation is used up. DESIGN CHOICE (log entry 100): R32 has
the tail written back after one or more entries; the model writes it back after every entry. -/
def writeEntry (s : State) (i : Nat) (b : List Byte) : State :=
  let o := getOutfall s i
  let t := BitVec.ofNat 16 ((o.tail.toNat + 1) % 2 ^ o.sizeLog2.toNat)
  let s := hostWrite s (o.base.toNat + 32 * o.tail.toNat) b
  let s := hostWrite s o.wb.toNat (leBytes 4 t.toNat)
  let o := { o with
    tail := t, reserved := o.reserved - 1, sinceIrq := o.sinceIrq + 1
    oldest := match o.oldest with | some k => some k | none => some s.clk.ticks }
  let s := putOutfall s i o
  if o.sinceIrq ≥ max 1 o.coalesceCount.toNat then raiseVector s i else s

/-- An inlet closes when the last command of a DRAINING one has completed (Table 2.5c). -/
def closeDrained (s : State) (i : Nat) : State :=
  let x := getInlet s i
  if x.state = .draining && inFlight s i = 0 then putInlet s i { x with state := .closed } else s

/-- The last command in flight completes: the device returns to READY, and a written URGENT_RESERVE takes effect
(Table 2.5a, R354). -/
def settleDevice (s : State) : State :=
  if s.cmds.isEmpty then
    let s := { s with err := { s.err with reserveActive := s.err.reserve } }
    if s.dev.state = .active || s.dev.state = .quiescing then
      setDevState s .ready
    else s
  else s

/-- A register set's tile may no longer be used, where it is one of those that `f` names; the registers keep their
contents. -/
def Tile.disown (t : Tile) (f : TileTag → Bool) : Tile := { t with owner := t.owner.filter (fun o => !f o) }

/-- An array lets go of a command's tiles and passes. The block in flight completes and commits first (R65, R370): it takes
its slot, its undo area is free again, and its results go no further than the accumulator that the command releases (Table
14.2). -/
def TArray.drop (a : TArray) (id : CmdId) : TArray :=
  let runs := (a.pass.map (·.cmd)) = some id
  { a with
    active := a.active.disown (fun o => o.cmd = id), shadow := a.shadow.disown (fun o => o.cmd = id)
    pass := a.pass.filter (fun p => p.cmd != id)
    preempted := a.preempted.filter (fun p => p.cmd != id)
    slot := if runs then a.slot + 1 else a.slot
    undo0 := { a.undo0 with inUse := a.undo0.inUse && !runs }, undo1 := { a.undo1 with inUse := a.undo1.inUse && !runs } }

/-- A core lets go of a command: threads, arrays, waiting epilogues (R370). -/
def Core.drop (k : Core) (id : CmdId) : Core :=
  { k with
    threads := k.threads.filter (fun p => p.2.1 != id)
    ta0 := k.ta0.drop id, ta1 := k.ta1.drop id
    epiQ := k.epiQ.filter (fun e => e.cmd != id) }

/-- A command's claim on a slot ends (Table 8.3), and a slot allotted to it is free again. -/
def Slot.drop (x : Slot) (id : CmdId) : Slot :=
  if x.claimant = some id || (x.holder.map (·.1)) = some id then {} else x

/-- A sluice lets go of a command's chains; a pending shadow is discarded with the active chain and stays when only the
shadow's own command ends otherwise (Table 8.6). -/
def Sluice.drop (x : Sluice) (id : CmdId) : Sluice :=
  if (x.active.map (·.cmd)) = some id then
    { x with st := if x.st = .offline then .offline else .idle, active := none, shadow := none }
  else if (x.shadow.map (·.cmd)) = some id then
    { x with st := if x.st = .shadowPending then .running else x.st, shadow := none }
  else x

/-- Acknowledgements of an ended command's writes are discarded (R370). -/
def Owner.drop (o : Owner) (id : CmdId) : Owner := if o = .cmd id then .none else o

/-- A port forgets whose packets an ended command's are. -/
def Port.drop (p : Port) (id : CmdId) : Port :=
  { p with
    queue := p.queue.map (fun t => { t with owner := t.owner.drop id })
    replay := p.replay.map (fun t => { t with owner := t.owner.drop id }) }

/-- Every staging buffer of a channel is released and the channel is FREE (Table 9.1); its bind sequence stays. -/
def Channel.release (c : Channel) : Channel := { bindSeq := c.bindSeq }

/-- The commands whose pending shadow goes with the active chain of a command. -/
def shadowsOf (s : State) (id : CmdId) : List CmdId :=
  s.sluices.filterMap (fun p => if (p.2.active.map (·.cmd)) = some id then p.2.shadow.map (·.cmd) else none)

/-- A write of the flash's replay-protected partition: its counter steps (R378). Each of the two writers holds its key and the
counter, so its own tag always matches (`partTakes`). -/
def partWrite (w : Warden) : Warden := { w with writes := w.writes + 1 }

/-- The inactive image slot is marked invalid and staging returns to NONE (Table 15.6). -/
def dropStaging (s : State) : State :=
  let w := s.warden
  { s with warden := partWrite { w with
      fwState := .none
      valid0 := if w.activeSlot then false else w.valid0
      valid1 := if w.activeSlot then w.valid1 else false } }

/-- Everything a command holds is released (R370); slots it claims become EMPTY (Table 8.3). -/
def releaseAll (s : State) (c : Cmd) (ok : Bool) : State :=
  let id := c.id
  let s := { s with
    cores := s.cores.map (fun p => (p.1, p.2.drop id))
    slots := s.slots.map (fun p => (p.1, p.2.drop id))
    sluices := s.sluices.map (fun p => (p.1, p.2.drop id))
    ports := s.ports.map (fun p => (p.1, p.2.drop id))
    net := { s.net with flowTx := s.net.flowTx.map (fun p =>
      (p.1, { p.2 with unacked := p.2.unacked.map (fun u => (u.1, u.2.1.drop id, u.2.2)) })) }
    qps := s.qps.map (fun p => (p.1, { p.2 with
      unacked := p.2.unacked.map (fun u => { u with owner := u.owner.drop id })
      waiting := p.2.waiting.filter (fun u => u.owner != .cmd id) })) }
  if ok then s
  else match c.work with
    | .fwStage _ true => dropStaging s
    | _ => s

/-- SECONDARY of a completion (Table 2.2); CAP_UNREACHABLE also while its condition holds (R340). -/
def secondaryOf (s : State) (c : Cmd) : Nat :=
  (c.secondary ||| (if s.pump.unreachable || c.capUnreachable then 1 else 0)).toNat

/-- The ticks of a command that has ended are counted in its job slot, with or without an entry (R33); what it used since
the last interval is still to be attributed (R344). -/
def countTicks (s : State) (c : Cmd) (dur : Nat) : State :=
  { s with pump := { s.pump with
    jobTicks := tabModify s.pump.jobTicks 0 c.hdr.jobId.toNat (fun t => t + dur)
    ended := s.pump.ended ++ [(c.id, c.inlet, c.hdr.jobId.toNat)] } }

/-- End a command with a status and DETAIL: the signal on `OK` (R25), everything released, the entry unless suppressed
(R33), its inlet and the device moved on (Table 2.5a, Table 2.5c). -/
def endOne (s : State) (id : CmdId) (st : Status) (detail : Nat) : State :=
  match findCmd s id with
  | none => s
  | some c =>
    let ok := st = .ok
    let s := if ok && flagSet c.hdr 0 then addEvent s c.hdr.signalId.toNat c.hdr.signalInc.toNat else s
    let s := releaseAll s c ok
    let s := { s with cmds := s.cmds.filter (fun d => d.id != id) }
    let dur := if isHeld c then 0 else s.clk.ticks - c.dispatchTick
    let s := countTicks s c dur
    let s :=
      if ok && flagSet c.hdr 2 then
        let o := getOutfall s c.inlet
        putOutfall s c.inlet { o with reserved := o.reserved - 1 }
      else writeEntry s c.inlet
        (entryBytes c.hdr.tag st (secondaryOf s c) c.hdr.opcode.toNat c.energy dur detail)
    let x := getInlet s c.inlet
    let s :=
      if !ok && x.haltOnError && x.state = .open then
        setInletFlag (putInlet s c.inlet { x with state := .halted }) c.inlet .halted
      else closeDrained s c.inlet
    settleDevice s

/-- The channel that an `ABORT` of a command frees: that of a SEAL, dispatched or not (Table 9.1, R244). -/
def sealedBy (s : State) (c : Cmd) : Option Nat :=
  match c.work with
  | .seal ch => some ch
  | .held =>
    let ch := fieldLe c.params 1 1 % 16
    if c.hdr.opcode = 0x0306 && fieldLe c.params 0 1 = 1 && (getChannel s ch).st = .bound then some ch else none
  | _ => none

/-- `ABORT` of a channel's SEAL frees the channel (Table 9.1). -/
def freeSealed (s : State) (c : Cmd) (k : Cause) : State :=
  if k.code = .abortCmd then
    match sealedBy s c with
    | some ch => putChannel s ch (getChannel s ch).release
    | none => s
  else s

/-- DETAIL of an ending (R371). -/
def Ending.detail (e : Ending) (later : Bool) : Nat :=
  match e.cause with
  | some k => causeWord k later
  | none => e.tile

/-- The end that a cause brings. -/
def causeEnding (k : Cause) : Ending := { status := k.code.status, rank := k.code.rank, cause := some k }

/-- No command of this number is in flight that is not ending. -/
def gone (s : State) (id : CmdId) : Bool :=
  match findCmd s id with
  | none => true
  | some c => c.ending.isSome

/-- A terminal cause is posted against a command (R370, R371): `log` makes its record, with severity 2, or with 3 where it comes
after the cause that the command reports. Of causes posted together the first in the order of R372 is reported. -/
def postEnding (s : State) (id : CmdId) (e : Ending) (log : State → Cmd → Nat → State) : State :=
  match findCmd s id with
  | none => s
  | some c => match c.ending with
    | none => modCmd (log s c 2) id (fun c => { c with ending := some e })
    | some o =>
      if e.rank < o.rank then modCmd (log s c 2) id (fun c => { c with ending := some e, laterCause := true })
      else modCmd (log s c 3) id (fun c => { c with laterCause := true })

/-- Post a terminal cause with a record of its own (R369 to R373). -/
def postCause (s : State) (id : CmdId) (k : Cause) : State :=
  match findCmd s id with
  | none => s
  | some c =>
    let s := freeSealed s c k
    let k := { k with log := BitVec.ofNat 16 (s.err.seq + 1) }
    postEnding s id (causeEnding k) (fun s c sev => logFault s k.code.cls sev 0 0 (some c) 0 (causeWord k false) 0)

/-- Post a cause that an event's own record logs (R373). -/
def postLogged (s : State) (id : CmdId) (k : Cause) : State := postEnding s id (causeEnding k) (fun s _ _ => s)

/-- A cause that arose on this chip. -/
def localCause (s : State) (code : CauseCode) (core arg : Nat) : Cause :=
  { code := code, chip := s.rcd.chipId, core := BitVec.ofNat 4 core, arg := BitVec.ofNat 16 arg }

/-- Post one cause against several commands, in order. -/
def postAll (s : State) (ids : List CmdId) (k : Cause) : State := ids.foldl (fun s id => postCause s id k) s

/-- Post a terminal cause. -/
def failCmd (s : State) (id : CmdId) (k : Cause) : State := postCause s id k

/-- What ends a pending shadow that goes with an active chain: `ABORTED` with ABORT_CMD (Table 8.6, R211). -/
def shadowCause (s : State) (e : Option Ending) : Cause :=
  match e.bind (·.cause) with
  | some k => if k.code = .abortCmd then k else { k with code := .abortCmd, arg := 0 }
  | none => localCause s .abortCmd 0 0

/-- End a command; a pending shadow that goes with its active chain ends as well. -/
def endCmd (s : State) (id : CmdId) (st : Status) (detail : Nat) : State :=
  let sh := shadowsOf s id
  let k := shadowCause s ((findCmd s id).bind (·.ending))
  let s := endOne s id st detail
  if st = .ok then s else postAll s sh k

/-- Enter FAULT (R40): a record of class 0x40, DEV_FLAGS.FAULT, open inlets halted, every command in flight ended with
`ABORTED`, bound channels FREE (Table 9.1), ALERT_N (R394). -/
def enterFault (s : State) (unit index : Nat) : State :=
  let s := logFault s 0x40 5 unit index none 0 0 0
  let n := s.err.seq
  let s := setDevState s .fault
  let s := raiseCause { s with dev := { s.dev with faultFlag := true, faultCount := s.dev.faultCount + 1 } } 1
  let s := { s with inlets := s.inlets.map (fun p =>
    (p.1, if p.2.state = .open || p.2.state = .draining then { p.2 with state := .halted } else p.2)) }
  let k := { localCause s .deviceFault 0 0 with log := BitVec.ofNat 16 n }
  let s := (s.cmds.map (·.id)).foldl (fun s id => postLogged s id k) s
  let s := { s with channels := s.channels.map (fun p => (p.1, p.2.release)) }
  raiseAlert s

/-- Whether the PCIe link is up and host accesses are answered (Table 2.5): firmware has started and no reset holds. -/
def hostUp (s : State) : Bool := s.dev.firmware

/-- A progress event of a command: its watchdog restarts (R369). -/
def progress (s : State) (id : CmdId) : State := modCmd s id (fun c => { c with progress := s.clk.ticks, tries := 0 })

end Sys2Proof.Machine
end

