-- ==== Sys2Proof/Machine/DutyOps.lean ====
section
/-!
DEFINITION. Issue duty and its column-block slots (R335, R342), the commands that a withheld slot or a stretch marks (R343),
rails (R327), the brake on a core (R341).
-/
namespace Sys2Proof.Machine

/-- A core's duty in eighths: the lowest of cap, thermal and brake (R342). -/
def dutyOf (s : State) (c : Nat) : Nat :=
  let x := getPower s c
  min x.capDuty (min x.thermalDuty s.pump.brakeDuty)

/-- The cause that a withheld slot of a core counts against (R342). -/
def dutyCause (s : State) (c : Nat) : TimingRow :=
  let x := getPower s c
  if s.pump.brakeDuty ≤ dutyOf s c then .brake
  else if x.thermalDuty ≤ x.capDuty then .thermal
  else .capGate

/-- The commands that hold threads on a core. -/
def threadCmds (s : State) (c : Nat) : List Nat := (getCore s c).threads.map (fun p => p.2.1)

/-- DIKE, SEND, RECV, ALLREDUCE, ALLGATHER, EXPORT_KV: marked by an event on any core (R343). -/
def anyCoreOps : List Nat := [0x0005, 0x0302, 0x0303, 0x0304, 0x0305, 0x0306]

/-- CAP_EVENT on the commands in flight that an event on a core marks (R27, R343). -/
def markCapEvent (s : State) (core : Nat) : State :=
  { s with cmds := s.cmds.map (fun c =>
    if (threadCmds s core).contains c.id || anyCoreOps.contains c.hdr.opcode.toNat then
      { c with secondary := c.secondary ||| 0x02 }
    else c) }

/-- Slot `i` is open under duty k/8 (R335). -/
def slotOpen (k i : Nat) : Bool := i * k / 8 < (i + 1) * k / 8

/-- Withheld slots from slot `i` up to the next open one, at most `f` of them. -/
def withheldFrom : Nat → Nat → Nat → Nat
  | 0, _, _ => 0
  | f + 1, k, i => if slotOpen k i then 0 else 1 + withheldFrom f k (i + 1)

/-- A column block of an array takes the next open slot (R335): the slots withheld before it count against their cause and
mark the commands of the core (R313, R342, R343). -/
def takeSlot (s : State) (core arr : Nat) : State :=
  let a := getArray s core arr
  let n := withheldFrom 8 (dutyOf s core) a.slot
  let s := putArray s core arr { a with slot := a.slot + n + 1 }
  if n = 0 then s else timingEvent (markCapEvent s core) (dutyCause s core) n

/-- Where a core's duty has changed, its slots are numbered from 0 again (R335). -/
def renumber (old s : State) : State :=
  (List.range 16).foldl (fun s c =>
    if dutyOf s c = dutyOf old c then s
    else
      let k := getCore s c
      putCore s c { k with ta0 := { k.ta0 with slot := 0 }, ta1 := { k.ta1 with slot := 0 } }) s

/-- The rail of a core at m, mV: set point with the loop's trim, plus the freeboard of 40 mV, never above 0.95 V (R327). -/
def railFor (s : State) (c m : Nat) : Nat :=
  (min 950 (((s.rcd.setPoints.getD c []).getD (m - 8) 600 : Int) + 5 * (getPower s c).trim + 40)).toNat

/-- A rail's voltage at m in the device's present state: 0.60 V in LOW_POWER (R347). -/
def railNow (s : State) (c m : Nat) : Nat := if s.dev.state = .lowPower then 600 else railFor s c m

/-- The highest m at which a core may run (R326). -/
def topM (s : State) (c : Nat) : Nat := min (getPower s c).mMax s.pump.mCeiling.toNat

/-- The divider takes a value; the basis of the projection follows by the prediction's rule (R325, R336, R337). -/
def writeDivider (s : State) (c m : Nat) : State :=
  let x := getPower s c
  let v := railFor s c m
  let w := railFor s c x.m
  putPower s c { x with m := m, raising := none, full := x.full * (m * (v * v)) / (x.m * (w * w)) }

/-- Lower a core's m: the divider first, then the rail (R328). -/
def lowerM (s : State) (c m : Nat) : State :=
  let s := writeDivider s c m
  putPower s c { getPower s c with railMv := railNow s c m }

/-- A core whose M_MAX or M_CEILING has come to lie below its m comes down at once (R326, R328). -/
def capM (s : State) (c : Nat) : State := if topM s c < (getPower s c).m then lowerM s c (topM s c) else s

/-- The divider of a core in service under the brake: m = 8 in throughput mode (R341). -/
def brakeCore (s : State) (c : Nat) : State :=
  if s.pump.brake && coreIn s c && !s.lock.repeatable then
    putPower s c { getPower s c with m := 8, raising := none, railMv := railNow s c 8 }
  else s

end Sys2Proof.Machine
end

