-- ==== Sys2Proof/Machine/MemOps.lean ====
section
/-!
DEFINITION. Device memory: the address map and its two polder views (R194, R195), reads and writes, parity granules
(R221, R223).
-/
namespace Sys2Proof.Machine

/-- Start of the LPDDR5X range (Table 8.1). -/
def ddrBase : Nat := 0x4000000000

/-- An address of LPDDR5X. -/
def isDdr (a : Nat) : Bool := ddrBase ≤ a && a < 2 ^ 39

/-- The linear polder address that an interleaved offset names (R195). -/
def interleave (o : Nat) : Nat := o / 4096 % 16 * 0x8000000 + o / 65536 * 4096 + o % 4096

/-- The core's berm or accumulator stride and the size used in it. -/
def inStride (base size a : Nat) : Bool := base ≤ a && a < base + 16 * 0x1000000 && (a - base) % 0x1000000 < size

/-- The canonical address of a byte that can be written (Table 8.1): the linear polder view stands for both views. -/
def canon (a : Nat) : Option Nat :=
  if a < 2 ^ 31 then some a
  else if 0x800000000 ≤ a && a < 0x880000000 then some (interleave (a - 0x800000000))
  else if inStride 0x1000000000 0x400000 a then some a
  else if isDdr a then some a
  else none

/-- An address of an accumulator view (R198). -/
def isAcc (a : Nat) : Bool := inStride 0x2000000000 0x800000 a

/-- A range lies whole in one range of Table 8.1 that commands may write. -/
def rangeOk (a n : Nat) : Bool :=
  n = 0 || a + n ≤ 2 ^ 31 || (0x800000000 ≤ a && a + n ≤ 0x880000000) || (ddrBase ≤ a && a + n ≤ 2 ^ 39) ||
    (inStride 0x1000000000 0x400000 a && inStride 0x1000000000 0x400000 (a + n - 1) && (a % 0x1000000 + n ≤ 0x400000))

/-- A range that commands may read: accumulator views too. -/
def rangeRead (a n : Nat) : Bool := rangeOk a n || (isAcc a && a % 0x1000000 + n ≤ 0x800000)

/-- A range in the polders, in either view, or in LPDDR5X. -/
def rangeWindow (a n : Nat) : Bool :=
  n = 0 || a + n ≤ 2 ^ 31 || (0x800000000 ≤ a && a + n ≤ 0x880000000) || (ddrBase ≤ a && a + n ≤ 2 ^ 39)

/-- A range in the polders. -/
def rangePolder (a n : Nat) : Bool := n = 0 || a + n ≤ 2 ^ 31 || (0x800000000 ≤ a && a + n ≤ 0x880000000)

/-- The slot of a berm address: 64 core + slot. -/
def slotOf (a : Nat) : Nat := a / 0x1000000 % 16 * 64 + a % 0x1000000 / 0x10000

/-- What an unlisted byte reads as: 0 (log entry 6), a free value in a berm slot whose contents were lost or used by the
scheduler (R202; log entry 5). -/
def unlisted (lost : Tab Nat) (k : Nat) : Byte :=
  if lost.isEmpty then 0
  else if inStride 0x1000000000 0x400000 k then
    match tabFind? lost (slotOf k) with
    | some e => Config.accByte e k
    | none => 0
  else 0

/-- The value stored in a word of a core's accumulator view, TA0's 2^20 words first (Table 8.1): the latest one whose place
is that word. The manual does not say where in the accumulator an item's values lie, so their places are free values (log
entry 5). -/
def keptWord (k : Core) (word : Nat) : Option W32 :=
  k.kept.findSome? (fun o => (o.2.find? (fun v =>
    o.1.arr * 2 ^ 20 + Config.accPlace o.1.cmd o.1.item o.1.arr v.1 % 2 ^ 20 = word)).map (·.2))

/-- What a byte of an accumulator view reads as (R198): while the core holds no thread the stored FP32 or INT32 value, little-endian,
and a free value where none has been stored (R202); at other times unpredictable data (log entry 5). -/
def accByteOf (s : State) (a : Nat) : Byte :=
  let k := getCore s (a / 0x1000000 % 16)
  if k.threads.isEmpty then
    match keptWord k (a % 0x800000 / 4) with
    | some v => BitVec.ofNat 8 (v.toNat / 256 ^ (a % 4))
    | none => Config.accByte (2 * k.accView) a
  else Config.accByte (2 * s.free + 1) a

/-- What a byte address reads as. -/
def readByte (s : State) (a : Nat) : Byte :=
  if isAcc a then accByteOf s a
  else match canon a with
    | some k => tabGet s.mem.cells (unlisted s.mem.lost k) k
    | none => 0

/-- Read a range. -/
def readMem (s : State) (a n : Nat) : List Byte := (List.range n).map (fun k => readByte s (a + k))

/-- A little-endian field in device memory. -/
def readLe (s : State) (a n : Nat) : Nat := leNat (readMem s a n)

/-- Write one cell in canonical form: what an unlisted byte reads as is not listed. -/
def cellSet (lost : Tab Nat) (c : List Host.Cell) (k : Nat) (b : Byte) : List Host.Cell :=
  if b = unlisted lost k then tabErase c k else tabSet c k b

/-- Write bytes at rising addresses. -/
def cellsWrite (lost : Tab Nat) : List Host.Cell → Nat → List Byte → List Host.Cell
  | c, _, [] => c
  | c, a, b :: t =>
    cellsWrite lost (match canon a with | some k => cellSet lost c k b | none => c) (a + 1) t

/-- The canonical form of a memory: rising addresses, and no entry equal to what an unlisted address reads as. -/
def Memory.wf (m : Memory) : Bool := tabSorted m.cells && m.cells.all (fun p => p.2 != unlisted m.lost p.1)

/-- Bytes of a parity granule or of an LPDDR5X access at an address (R221, R223). -/
def granuleBytes (a : Nat) : Nat := if isDdr a then 64 else 32

/-- The starts of the granules that a range touches. -/
def granules (a n : Nat) : List Nat :=
  let g := granuleBytes a
  if n = 0 then [] else (List.range ((a + n - 1) / g - a / g + 1)).map (fun k => (a / g + k) * g)

/-- The canonical starts of the granules that a range covers whole. -/
def wholeGranules (a n : Nat) : List Nat :=
  (granules a n).filterMap (fun g => if a ≤ g && g + granuleBytes a ≤ a + n then canon g else none)

/-- The canonical starts of the granules that a range covers in part. -/
def partGranules (a n : Nat) : List Nat :=
  (granules a n).filterMap (fun g => if a ≤ g && g + granuleBytes a ≤ a + n then none else canon g)

/-- The name of a granule or access: its canonical start, or its address in an accumulator view. -/
def badKey (g : Nat) : Nat := (canon g).getD g

/-- Whether a read of a range meets a granule or access that reads as bad. -/
def rangeBad (s : State) (a n : Nat) : Bool :=
  !s.mem.bad.isEmpty && (granules a n).any (fun g => s.mem.bad.contains (badKey g))

/-- The first granule or access of a range that reads as bad: its address goes into the record (R222). -/
def badAt (s : State) (a n : Nat) : Option Nat :=
  if s.mem.bad.isEmpty then none
  else (granules a n).find? (fun g => s.mem.bad.contains (badKey g))

/-- SOURCE of a log record for an address: polder, LPDDR5X channel or core (Table 14.8, R196). -/
def sourceOf (a : Nat) : Nat × Nat :=
  if isDdr a then (3, (a - ddrBase) / 256 % 64)
  else if inStride 0x1000000000 0x400000 a || isAcc a then (1, a / 0x1000000 % 16)
  else match canon a with
    | some k => (2, k / 0x8000000)
    | none => (0, 0)

/-- Write bytes. A granule written whole is repaired; one written in part that is bad, or whose merge meets an error in its read,
reads as bad from then on, with a record of class 0x04 (R221, R223). -/
def writeMem (s : State) (a : Nat) (b : List Byte) : State :=
  let cells := cellsWrite s.mem.lost s.mem.cells a b
  if s.mem.bad.isEmpty && s.mem.mergeFlaws.isEmpty then { s with mem := { s.mem with cells := cells } }
  else
    let whole := wholeGranules a b.length
    let part := (partGranules a b.length).filter (fun k => s.mem.bad.contains k || s.mem.mergeFlaws.contains k)
    let s := { s with mem := { s.mem with
      cells := cells, bad := s.mem.bad.filter (fun k => !whole.contains k && !part.contains k) ++ part
      mergeFlaws := s.mem.mergeFlaws.filter (fun k => !part.contains k) } }
    part.foldl (fun s k => logFault s 0x04 6 (sourceOf k).1 (sourceOf k).2 none k 0 0) s

/-- The contents of a berm slot are lost: no byte of it is listed or bad, and unlisted bytes read as free values. -/
def loseSlot (s : State) (k : Nat) : State :=
  { s with
    mem := { s.mem with
      cells := s.mem.cells.filter (fun p => !(inStride 0x1000000000 0x400000 p.1 && slotOf p.1 = k))
      bad := s.mem.bad.filter (fun a => !(inStride 0x1000000000 0x400000 a && slotOf a = k))
      lost := tabSet s.mem.lost k s.free }
    free := s.free + 1 }

/-- A core's accumulators hold other values from now on, and no bad granule (R198, R222). -/
def touchAcc (s : State) (c : Nat) : State :=
  { putCore s c { getCore s c with accView := s.free } with
    free := s.free + 1
    mem := { s.mem with bad := s.mem.bad.filter (fun a => !(isAcc a && a / 0x1000000 % 16 = c)) } }

/-- A core's berm and accumulator contents are lost (R202, R366): its slots are EMPTY. -/
def loseBerm (s : State) (c : Nat) : State :=
  let s := touchAcc ((List.range 64).foldl (fun s k => loseSlot s (64 * c + k)) s) c
  let s := putCore s c { getCore s c with kept := [] }
  { s with slots := s.slots.filter (fun p => p.1 / 64 != c) }

/-- Write a little-endian field. -/
def writeLe (s : State) (a n v : Nat) : State := writeMem s a (leBytes n v)

/-- 64-byte LPDDR5X accesses of a range (R215): none outside LPDDR5X. -/
def ddrAccesses (a n : Nat) : Nat := if isDdr a && 0 < n then (a + n - 1) / 64 - a / 64 + 1 else 0

end Sys2Proof.Machine
end

