-- ==== Sys2Proof/Machine/Operands.lean ====
section
/-!
DEFINITION. Number formats, exact sums and single roundings, conversions, stochastic rounding and the arithmetic of the
vector unit (chapter 04).
-/
namespace Sys2Proof.Machine

/-- A decoded floating-point value; a finite one is `mag * 2^exp` with its sign. -/
inductive FVal where
  | nan
  | inf (neg : Bool)
  | fin (neg : Bool) (mag : Nat) (exp : Int)
deriving DecidableEq, Repr

/-- An exact dyadic number `m * 2^e`. -/
structure Dyadic' where
  m : Int
  e : Int
deriving DecidableEq, Repr

/-- Exact addition. -/
def dyAdd (a b : Dyadic') : Dyadic' :=
  let e := min a.e b.e
  { m := a.m * 2 ^ (a.e - e).toNat + b.m * 2 ^ (b.e - e).toNat, e := e }

/-- Exact multiplication. -/
def dyMul (a b : Dyadic') : Dyadic' := { m := a.m * b.m, e := a.e + b.e }

/-- How a format treats its top exponent (Table 4.1). -/
inductive TopExp where
  | ieee
  | e4m3
  | none
deriving DecidableEq, Repr

/-- Exponent bits, mantissa bits, bias and top exponent of a floating-point format (Table 4.1), by its code of Table
4.2. Element formats of MX codes are those of their elements. -/
def floatShape (fmt : Nat) : Option (Nat × Nat × Nat × TopExp) :=
  match fmt with
  | 0x0 => some (8, 23, 127, .ieee)
  | 0x1 => some (8, 7, 127, .ieee)
  | 0x2 => some (5, 10, 15, .ieee)
  | 0x3 | 0x5 => some (4, 3, 7, .e4m3)
  | 0x4 | 0x6 => some (5, 2, 15, .ieee)
  | 0x7 => some (2, 3, 1, .none)
  | 0x8 => some (3, 2, 3, .none)
  | 0x9 => some (2, 1, 1, .none)
  | _ => none

/-- Decode an encoding of a floating-point shape. -/
def decodeShape (eb mb bias : Nat) (top : TopExp) (c : Nat) : FVal :=
  let neg := bitOf c (eb + mb)
  let ex := c / 2 ^ mb % 2 ^ eb
  let f := c % 2 ^ mb
  if top = .ieee && ex = 2 ^ eb - 1 then (if f = 0 then .inf neg else .nan)
  else if top = .e4m3 && ex = 2 ^ eb - 1 && f = 2 ^ mb - 1 then .nan
  else if ex = 0 then .fin neg f (1 - (bias : Int) - mb)
  else .fin neg (2 ^ mb + f) ((ex : Int) - bias - mb)

/-- Decode an FP32 encoding. -/
def dec32 (x : W32) : FVal := decodeShape 8 23 127 .ieee x.toNat

/-- Integer formats (Table 4.2). -/
def isInt (fmt : Nat) : Bool := fmt = 0xA || fmt = 0xB || fmt = 0xC

/-- MX formats (Table 4.2). -/
def isMx (fmt : Nat) : Bool := 0x5 ≤ fmt && fmt ≤ 0x9

/-- Bits of an element (Table 4.2). -/
def fmtBits (fmt : Nat) : Nat :=
  match fmt with
  | 0x0 | 0xC => 32
  | 0x1 | 0x2 => 16
  | 0x3 | 0x4 | 0x5 | 0x6 | 0xA => 8
  | 0x7 | 0x8 => 6
  | _ => 4

/-- Bytes of `n` consecutive elements. -/
def fmtBytes (fmt n : Nat) : Nat := ceilDiv (n * fmtBits fmt) 8

/-- The value of an element's encoding in its format. -/
def decElem (fmt c : Nat) : FVal :=
  if isInt fmt then
    let v := signedOf (fmtBits fmt) c
    .fin (decide (v < 0)) v.natAbs 0
  else match floatShape fmt with
    | some (eb, mb, bias, top) => decodeShape eb mb bias top c
    | none => .nan

/-- The exact value of a finite operand. -/
def FVal.dy : FVal → Dyadic'
  | .fin neg m e => { m := if neg then -(m : Int) else m, e := e }
  | _ => { m := 0, e := 0 }

/-- Round `m * 2^e` to a grid of `mb` mantissa bits with smallest normal exponent `emin`, and encode its magnitude with
an unbounded exponent: to nearest even, or stochastically with a 16-bit random number (R106). -/
def magEnc (m : Nat) (e : Int) (mb : Nat) (emin : Int) (rnd : Option Nat) : Nat :=
  if m = 0 then 0
  else
    let s := max ((Nat.log2 m : Int) + e - mb) (emin - mb)
    let q :=
      if s ≤ e then m * 2 ^ (e - s).toNat
      else
        let d := (s - e).toNat
        let lo := m / 2 ^ d
        let r := m % 2 ^ d
        match rnd with
        | some k => if k < r * 65536 / 2 ^ d then lo + 1 else lo
        | none => if 2 * r > 2 ^ d || (2 * r = 2 ^ d && lo % 2 = 1) then lo + 1 else lo
    (s - (emin - mb)).toNat * 2 ^ mb + q

/-- Sign bit and magnitude of an FP32 encoding. -/
def sign32 (neg : Bool) (mag : Nat) : W32 := BitVec.ofNat 32 (bit01 neg * 2 ^ 31 + mag)

/-- The one NaN that FP32 operations produce (R102). -/
def nan32 : W32 := 0x7FC00000

/-- An infinity. -/
def inf32 (neg : Bool) : W32 := sign32 neg 0x7F800000

/-- Round an exact value with its sign once to FP32 (rne32, R95). -/
def rne32 (neg : Bool) (m : Nat) (e : Int) : W32 :=
  let k := magEnc m e 23 (-126) none
  if k ≥ 0x7F800000 then inf32 neg else sign32 neg k

/-- Round an exact number; an exact zero is +0. -/
def rneDy (d : Dyadic') : W32 := rne32 (decide (d.m < 0)) d.m.natAbs d.e

/-- IEEE 754 addition, round to nearest even (R96, R107). -/
def add32 (x y : W32) : W32 :=
  match dec32 x, dec32 y with
  | .nan, _ | _, .nan => nan32
  | .inf a, .inf b => if a = b then inf32 a else nan32
  | .inf a, _ => inf32 a
  | _, .inf b => inf32 b
  | .fin n1 m1 e1, .fin n2 m2 e2 =>
    if m1 = 0 && m2 = 0 then sign32 (n1 && n2) 0
    else rneDy (dyAdd (FVal.fin n1 m1 e1).dy (FVal.fin n2 m2 e2).dy)

/-- IEEE 754 multiplication of decoded values. -/
def mulV (x y : FVal) : W32 :=
  match x, y with
  | .nan, _ | _, .nan => nan32
  | .inf a, .inf b => inf32 (a != b)
  | .inf a, .fin b m _ => if m = 0 then nan32 else inf32 (a != b)
  | .fin a m _, .inf b => if m = 0 then nan32 else inf32 (a != b)
  | .fin a m1 e1, .fin b m2 e2 => rne32 (a != b) (m1 * m2) (e1 + e2)

/-- IEEE 754 multiplication. -/
def mul32 (x y : W32) : W32 := mulV (dec32 x) (dec32 y)

/-- Negation. -/
def neg32 (x : W32) : W32 := x ^^^ 0x80000000

/-- Fused multiply-add with one rounding; 0 × Inf is NaN (Table 4.6). -/
def fma32 (x y z : W32) : W32 :=
  match dec32 x, dec32 y, dec32 z with
  | .fin n1 m1 e1, .fin n2 m2 e2, .fin n3 m3 e3 =>
    if m1 * m2 = 0 && m3 = 0 then sign32 ((n1 != n2) && n3) 0
    else rneDy (dyAdd (dyMul (FVal.fin n1 m1 e1).dy (FVal.fin n2 m2 e2).dy) (FVal.fin n3 m3 e3).dy)
  | .fin _ _ _, .fin _ _ _, .inf n => inf32 n
  | _, _, _ => add32 (mul32 x y) z

/-- The order of two finite or infinite values, by an exact comparison: x < y. -/
def lt32 (x y : W32) : Bool :=
  match dec32 x, dec32 y with
  | .nan, _ | _, .nan => false
  | .inf a, .inf b => a && !b
  | .inf a, _ => a
  | _, .inf b => !b
  | a, b => decide ((dyAdd a.dy { m := -b.dy.m, e := b.dy.e }).m < 0)

/-- IEEE 754 equality: −0 equals +0, a NaN equals nothing. -/
def eq32 (x y : W32) : Bool :=
  match dec32 x, dec32 y with
  | .nan, _ | _, .nan => false
  | _, _ => !lt32 x y && !lt32 y x

/-- Whether an encoding is a NaN. -/
def isNan32 (x : W32) : Bool := match dec32 x with | .nan => true | _ => false

/-- max of Table 4.6. -/
def max32 (x y : W32) : W32 :=
  if isNan32 x || isNan32 y then nan32
  else if lt32 x y then y else if lt32 y x then x else x &&& y

/-- min of Table 4.6. -/
def min32 (x y : W32) : W32 :=
  if isNan32 x || isNan32 y then nan32
  else if lt32 x y then x else if lt32 y x then y else x ||| y

/-- Keep a free table value inside the bound of one ulp about an exact magnitude whose encoding, rounded down, is `lo`
(R107). -/
def within (lo : Nat) (exact : Bool) (raw : W32) : Nat := min (lo + 1) (max (if exact then lo - 1 else lo) raw.toNat)

/-- Round a magnitude down to FP32, unbounded above. -/
def floorEnc (m : Nat) (e : Int) : Nat := magEnc m e 23 (-126) (some 65536)

/-- reciprocal (Table 4.6): within 1 ulp of 1/x, otherwise free (log entry 10). -/
def recip32 (x : W32) : W32 :=
  match dec32 x with
  | .nan => nan32
  | .inf n => sign32 n 0
  | .fin n m e =>
    if m = 0 then inf32 n
    else
      let k := within (floorEnc (2 ^ 80 / m) (-e - 80)) (2 ^ 80 % m = 0) (Config.recipRaw x)
      if k ≥ 0x7F800000 then inf32 n else sign32 n k

/-- rsqrt (Table 4.6): within 1 ulp of the reciprocal root, otherwise free (log entry 10). -/
def rsqrt32 (x : W32) : W32 :=
  match dec32 x with
  | .nan => nan32
  | .inf n => if n then nan32 else 0
  | .fin n m e =>
    if m = 0 then inf32 n
    else if n then nan32
    else
      let m' := if e % 2 = 0 then m else 2 * m
      let e' := if e % 2 = 0 then e else e - 1
      let r := Nat.sqrt (2 ^ 160 / m')
      BitVec.ofNat 32 (within (floorEnc r (-(e' / 2) - 80)) (r * r * m' = 2 ^ 160) (Config.rsqrtRaw x))

/-- An integer as FP32, round to nearest even (R98). -/
def ofInt32 (v : Int) : W32 := rne32 (decide (v < 0)) v.natAbs 0

/-- An accumulator of an integer product as FP32 (R98). -/
def accToF32 (int : Bool) (a : W32) : W32 := if int then ofInt32 (signedOf 32 a.toNat) else a

/-- One Philox4x32 round: counter words and keys. -/
def philoxRound (c : Nat × Nat × Nat × Nat) (k0 k1 : Nat) : Nat × Nat × Nat × Nat :=
  let p0 := 0xD2511F53 * c.1
  let p1 := 0xCD9E8D57 * c.2.2.1
  ((p1 / 2 ^ 32) ^^^ c.2.1 ^^^ k0, p1 % 2 ^ 32, (p0 / 2 ^ 32) ^^^ c.2.2.2 ^^^ k1, p0 % 2 ^ 32)

/-- One round of Philox4x32 on the counter words and the keys, which are bumped. -/
def philoxStep (x : (Nat × Nat × Nat × Nat) × Nat × Nat) : (Nat × Nat × Nat × Nat) × Nat × Nat :=
  (philoxRound x.1 x.2.1 x.2.2, (x.2.1 + 0x9E3779B9) % 2 ^ 32, (x.2.2 + 0xBB67AE85) % 2 ^ 32)

/-- rnd of R106: bits [15:0] of output word 0 of Philox4x32-10, by seed, element index and counter word 2. -/
def rnd16 (seed : W64) (index word2 : Nat) : Nat :=
  (Nat.repeat philoxStep 10 ((index % 2 ^ 32, index / 2 ^ 32 % 2 ^ 32, word2 % 2 ^ 32, 0), seed.toNat % 2 ^ 32,
    seed.toNat / 2 ^ 32)).1.1 % 65536

/-- The rounding of a conversion: its random number when SR is set (Table 4.4). -/
def rndOf (cb : Nat) (seed : W64) (index word2 : Nat) : Option Nat :=
  if bitOf cb 5 then some (rnd16 seed index word2) else none

/-- Round a finite value to an integer: to nearest even, or stochastically. -/
def roundInt (neg : Bool) (m : Nat) (e : Int) (rnd : Option Nat) : Int :=
  let q :=
    if 0 ≤ e then m * 2 ^ e.toNat
    else
      let d := (-e).toNat
      let lo := m / 2 ^ d
      let r := m % 2 ^ d
      match rnd with
      | some k => if k < r * 65536 / 2 ^ d then lo + 1 else lo
      | none => if 2 * r > 2 ^ d || (2 * r = 2 ^ d && lo % 2 = 1) then lo + 1 else lo
  if neg then -(q : Int) else q

/-- Saturate an integer to `w` bits, two's complement, and encode it. -/
def satInt (w : Nat) (v : Int) : Nat := encodeInt w (min (2 ^ (w - 1) - 1) (max (-(2 ^ (w - 1))) v))

/-- Largest finite magnitude encoding of a floating-point format (Table 4.1). -/
def largestEnc (fmt : Nat) : Nat :=
  match fmt with
  | 0x0 => 0x7F7FFFFF
  | 0x1 => 0x7F7F
  | 0x2 => 0x7BFF
  | 0x3 | 0x5 => 0x7E
  | 0x4 | 0x6 => 0x7B
  | 0x7 | 0x8 => 0x1F
  | _ => 0x7

/-- Conversion from FP32 to a format that is not MX (Table 4.5, R104): `cb` is the control byte of Table 4.4. -/
def cvtTo (cb : Nat) (rnd : Option Nat) (x : W32) : Nat :=
  let fmt := cb % 16
  let ovf := bitOf cb 4
  if fmt = 0xA || fmt = 0xB || fmt = 0xC then
    let w := fmtBits fmt
    match dec32 x with
    | .nan => 0
    | .inf n => satInt w (if n then -(2 ^ w : Int) else 2 ^ w)
    | .fin n m e => satInt w (roundInt n m e (if fmt = 0xC then none else rnd))
  else if fmt = 0x0 then (if isNan32 x then nan32.toNat else x.toNat)
  else match floatShape fmt with
    | none => 0
    | some (eb, mb, bias, _) =>
      let sgn := fun (n : Bool) (k : Nat) => bit01 n * 2 ^ (eb + mb) + k
      let big := largestEnc fmt
      let infc := (2 ^ eb - 1) * 2 ^ mb
      let nanc := match fmt with | 0x1 => 0x7FC0 | 0x2 => 0x7E00 | _ => 0x7F
      match dec32 x with
      | .nan => nanc
      | .inf n =>
        if fmt = 0x1 || fmt = 0x2 then sgn n infc
        else if ovf then (if fmt = 0x3 then sgn n 0x7F else sgn n infc) else sgn n big
      | .fin n m e =>
        let k := magEnc m e mb (1 - (bias : Int)) rnd
        if k ≤ big then sgn n k
        else if ovf then (if fmt = 0x3 then sgn n 0x7F else sgn n infc) else sgn n big

/-- emax of an MX element format (R91). -/
def mxEmax (fmt : Nat) : Int :=
  match fmt with
  | 0x5 => 8
  | 0x6 => 15
  | 0x7 => 2
  | 0x8 => 4
  | _ => 2

/-- Conversion of a block to an MX format (R105): scale encoding and element encodings. `rnd` gives each element's
rounding. -/
def cvtBlock (cb : Nat) (rnd : Nat → Option Nat) (xs : List W32) : Nat × List Nat :=
  let fmt := cb % 16
  let vs := xs.map dec32
  if vs.any (fun v => match v with | .fin _ _ _ => false | _ => true) then (0xFF, xs.map (fun _ => 0))
  else
    let top := vs.foldl (fun (a : Option Int) v => match v with
      | .fin _ m e => if m = 0 then a else
        let t := (Nat.log2 m : Int) + e
        match a with
        | none => some t
        | some b => some (max b t)
      | _ => a) none
    match top, floatShape fmt with
    | some t, some (eb, mb, bias, _) =>
      let sh := min 127 (max (-127) (t - mxEmax fmt))
      ((sh + 127).toNat, (vs.zipIdx).map (fun p => match p.1 with
        | .fin n m e =>
          bit01 n * 2 ^ (eb + mb) + min (largestEnc fmt) (magEnc m (e - sh) mb (1 - (bias : Int)) (rnd p.2))
        | _ => 0))
    | _, _ => (0x7F, xs.map (fun _ => 0))

/-- An element of an MX block as FP32: exact value of scale and element (R91); a scale of 0xFF is NaN. -/
def mxVal (fmt scale c : Nat) : FVal :=
  if scale = 0xFF then .nan
  else match decElem fmt c with
    | .fin n m e => .fin n m (e + (scale : Int) - 127)
    | v => v

/-- A decoded value as FP32. -/
def toF32 (v : FVal) : W32 :=
  match v with
  | .nan => nan32
  | .inf n => inf32 n
  | .fin n m e => rne32 n m e

/-- An element converted to FP32, with the scale of its block for MX formats. -/
def elemF32 (fmt scale c : Nat) : W32 := toF32 (if isMx fmt then mxVal fmt scale c else decElem fmt c)

/-- The encoding of element `i` of a packed run of bytes (Table 4.2). -/
def unpackElem (fmt : Nat) (b : List Byte) (i : Nat) : Nat :=
  match fmtBits fmt with
  | 4 => fieldLe b (i / 2) 1 / 2 ^ (4 * (i % 2)) % 16
  | 6 => fieldLe b (i / 4 * 3) 3 / 2 ^ (6 * (i % 4)) % 64
  | w => fieldLe b (i * (w / 8)) (w / 8)

/-- Read element `i` of a run in device memory. -/
def readElem (s : State) (fmt a i : Nat) : Nat :=
  match fmtBits fmt with
  | 4 => readLe s (a + i / 2) 1 / 2 ^ (4 * (i % 2)) % 16
  | 6 => readLe s (a + i / 4 * 3) 3 / 2 ^ (6 * (i % 4)) % 64
  | w => readLe s (a + i * (w / 8)) (w / 8)

/-- Write element `i` of a run in device memory; the other elements of a shared byte are kept. -/
def writeElem (s : State) (fmt a i c : Nat) : State :=
  match fmtBits fmt with
  | 4 =>
    let o := readLe s (a + i / 2) 1
    writeLe s (a + i / 2) 1 (if i % 2 = 0 then o / 16 * 16 + c % 16 else o % 16 + c % 16 * 16)
  | 6 =>
    let g := a + i / 4 * 3
    let sh := 2 ^ (6 * (i % 4))
    let o := readLe s g 3
    writeLe s g 3 (o - o / sh % 64 * sh + c % 64 * sh)
  | w => writeLe s (a + i * (w / 8)) (w / 8) c

end Sys2Proof.Machine
end

