-- ==== Sys2Proof/Machine/ArrNum.lean ====
section
/-!
DEFINITION. The sums of the tensor array: pairings, group sums, trees, accumulation (R57, R58, R70 to R73, R94 to R99).
-/
namespace Sys2Proof.Machine

/-- Register classes of the pairings (Tables 3.1 and 4.3). -/
inductive RegClass where
  | single
  | sixBit
  | half
  | double8
  | double4
  | dual6
deriving DecidableEq, Repr

def isFp8 (f : Nat) : Bool := f = 0x3 || f = 0x4
def isMxFp8 (f : Nat) : Bool := f = 0x5 || f = 0x6
def isMxFp6 (f : Nat) : Bool := f = 0x7 || f = 0x8

/-- The class of a pairing of stationary and streamed formats; none for a pairing outside Table 4.3 (R94). `dual6` is the
double 8-bit class against MXFP6, with two stream cycles per column. -/
def pairing (x w : Nat) : Option RegClass :=
  if isFp8 x && isFp8 w then some .single
  else if isMxFp8 x && isMxFp8 w then some .single
  else if isMxFp6 x && isMxFp6 w then some .sixBit
  else if (isFp8 x || isMxFp8 x) && isMxFp6 w then some .dual6
  else if (isFp8 x || isMxFp8 x) && w = 0x9 then some .double8
  else if x = 0x9 && w = 0x9 then some .double4
  else if x = 0xA && w = 0xA then some .single
  else if x = 0xA && w = 0xB then some .double8
  else if x = 0x1 && w = 0x1 then some .half
  else if x = 0x2 && w = 0x2 then some .half
  else none

/-- A class with two values per register (Table 3.1). -/
def RegClass.isDouble : RegClass → Bool
  | .double8 | .double4 | .dual6 => true
  | _ => false

/-- Stream cycles per column and segment (R61). -/
def RegClass.cycles : RegClass → Nat
  | .half | .dual6 => 2
  | _ => 1

/-- Fold factor of a shape code (R71). -/
def foldOf (shape : Nat) : Nat :=
  match shape with
  | 3 => 2
  | 4 => 4
  | 5 => 8
  | _ => 1

/-- Row tile R of a shape (Table 5.4). -/
def rowsOf (shape : Nat) : Nat := 128 / foldOf shape

/-- K slice of a shape and class (Table 5.4). -/
def sliceOf (shape : Nat) (c : RegClass) : Nat := 512 * foldOf shape * (if c.isDouble then 2 else 1)

/-- Output columns of a full column block (Table 3.4). -/
def blockCols (shape : Nat) (c : RegClass) : Nat := 128 / (foldOf shape * c.cycles) * (if shape = 2 then 4 else 1)

/-- The product of two operands. -/
def prodV (x w : FVal) : FVal :=
  match x, w with
  | .nan, _ | _, .nan => .nan
  | .inf a, .inf b => .inf (a != b)
  | .inf a, .fin b m _ => if m = 0 then .nan else .inf (a != b)
  | .fin a m _, .inf b => if m = 0 then .nan else .inf (a != b)
  | .fin a m e, .fin b n f => .fin (a != b) (m * n) (e + f)

/-- A partial group sum with its special values (R96). -/
structure GroupAcc where
  nan : Bool := false
  pos : Bool := false
  neg : Bool := false
  sum : Dyadic' := { m := 0, e := 0 }

/-- Add a product to a group. -/
def groupAdd (a : GroupAcc) (p : FVal) : GroupAcc :=
  match p with
  | .nan => { a with nan := true }
  | .inf n => if n then { a with neg := true } else { a with pos := true }
  | .fin _ m _ => if m = 0 then a else { a with sum := dyAdd a.sum p.dy }

/-- A group sum: exact, rounded once (R95, R96). A masked position is none. -/
def groupFp (ps : List (Option (FVal × FVal))) : W32 :=
  let a := ps.foldl (fun a p => match p with | some (x, w) => groupAdd a (prodV x w) | none => a) {}
  if a.nan || (a.pos && a.neg) then nan32
  else if a.pos then inf32 false
  else if a.neg then inf32 true
  else rneDy a.sum

/-- One level of pairwise joins. -/
def pairUp {α : Type} (op : α → α → α) : List α → List α
  | a :: b :: t => op a b :: pairUp op t
  | l => l

/-- A tree of pairwise joins of a list, `n` levels. -/
def pairTree {α : Type} (op : α → α → α) : Nat → List α → List α
  | 0, l => l
  | n + 1, l => pairTree op n (pairUp op l)

/-- The value at the root of a tree over at most 2^10 values. -/
def treeJoin (op : W32 → W32 → W32) (l : List W32) : W32 := ((pairTree op 10 l).head?).getD 0

/-- A group sum of a 16-bit pairing: a rounded product per position, then five rounded levels (R97). -/
def group16 (ps : List (Option (FVal × FVal))) : W32 :=
  treeJoin add32 (ps.map (fun p => match p with | some (x, w) => mulV x w | none => 0))

/-- The integer of a finite operand. -/
def FVal.int : FVal → Int
  | .fin neg m _ => if neg then -(m : Int) else m
  | _ => 0

/-- A group sum of an integer pairing (R98). -/
def groupInt (ps : List (Option (FVal × FVal))) : W32 :=
  BitVec.ofInt 32 (ps.foldl (fun a p => match p with | some (x, w) => a + x.int * w.int | none => a) 0)

/-- Sum of one group (R95, R97, R98). -/
def groupSum (int : Bool) (c : RegClass) (ps : List (Option (FVal × FVal))) : W32 :=
  if int then groupInt ps else if c = .half then group16 ps else groupFp ps

/-- Addition of trees and accumulator (R96, R98). -/
def accAdd (int : Bool) (a b : W32) : W32 := if int then a + b else add32 a b

/-- The positions of group `g` of the pass, ascending, in a double class both halves (R57, R58, R71). -/
def groupPositions (dbl : Bool) (g : Nat) : List Nat :=
  if dbl then
    let b := g / 16 * 1024 + g % 16 * 32
    (List.range 32).map (b + ·) ++ (List.range 32).map (b + 512 + ·)
  else (List.range 32).map (32 * g + ·)

/-- The result T of one row and column: `n` groups, each position a pair of operands or masked, joined by the trees of
R58, R70, R72 and R73. -/
def passT (int : Bool) (c : RegClass) (n : Nat) (at' : Nat → Option (FVal × FVal)) : W32 :=
  treeJoin (accAdd int) ((List.range n).map (fun g => groupSum int c ((groupPositions c.isDouble g).map at')))

/-- Accumulation: the first contribution is written unchanged, later ones are added (R99). -/
def accumulate (int : Bool) (old : Option W32) (t : W32) : W32 :=
  match old with
  | none => t
  | some a => accAdd int a t

/-- An operand's value with its block's scale; a non-MX operand carries the factor 1 (R94). -/
def operand (fmt scale c : Nat) : FVal := if isMx fmt then mxVal fmt scale c else decElem fmt c

/-- An initial value as accumulator content (R120). -/
def initValue (int : Bool) (fmt scale c : Nat) : W32 :=
  if int then
    if fmt = 0xC then BitVec.ofNat 32 c
    else if isInt fmt then BitVec.ofInt 32 (signedOf (fmtBits fmt) c)
    else BitVec.ofNat 32 (cvtTo 0x0C none (elemF32 fmt scale c))
  else if fmt = 0x0 then BitVec.ofNat 32 c else elemF32 fmt scale c

/-- The encoding of a product's output value under its control byte, for targets other than MX (R98, R104). -/
def outCode (int : Bool) (cb : Nat) (rnd : Option Nat) (a : W32) : Nat :=
  if int && cb % 16 = 0xC then a.toNat else cvtTo cb rnd (accToF32 int a)

end Sys2Proof.Machine
end

