-- ==== Sys2Proof/Machine/ExportOps.lean ====
section
/-!
DEFINITION. The culvert's destinations and the end of an export: failures (R240 to R242), acknowledged pages, the SEAL
(R243).
-/
namespace Sys2Proof.Machine

/-- Codes of Table 9.7. -/
def FailReason.code : FailReason → Nat
  | .timeout => 0x01
  | .laggard => 0x02
  | .staging => 0x03
  | .qpError => 0x04
  | .qpTornDown => 0x05
  | .window => 0x06
  | .link => 0x07

/-- Pages per layer of an export (R228). -/
def Channel.firstPage (c : Channel) : Nat := c.firstPos / c.pageTokens
def Channel.npages (c : Channel) : Nat := (c.endPos - 1) / c.pageTokens - c.firstPage + 1

/-- Every destination has acknowledged a page or failed (R231). -/
def pageSettled (c : Channel) (q : Nat) : Bool := c.dests.all (fun d => d.failed.isSome || d.acked.contains q)

/-- Buffers of pages that every destination has acknowledged or failed are released (R231). -/
def releasePages (c : Channel) : Channel := { c with pages := c.pages.filter (fun p => !pageSettled c p.1) }

/-- The mask of failed destinations. -/
def failedMask (c : Channel) : Nat :=
  (c.dests.zipIdx).foldl (fun m p => if p.1.failed.isSome then m + 2 ^ p.2 else m) 0

/-- ARG of EXPORT_DEST (Table 14.7). -/
def exportArg (c : Channel) (ch : Nat) : Nat :=
  let r := match c.firstFail with
    | some d => match (c.dests[d]?).bind (·.failed) with
      | some r => r.code
      | none => 0
    | none => 0
  failedMask c + r * 2 ^ 8 + ch * 2 ^ 12

/-- The SEAL of a channel, if one is in flight. -/
def sealOf (s : State) (ch : Nat) : Option Cmd :=
  s.cmds.find? (fun c => match c.work with | .seal k => k == ch | _ => false)

/-- A SEALING channel all of whose pages are settled becomes FREE, and its SEAL completes, unless that has ended otherwise
(Table 9.1, R243). -/
def sealCheck (s : State) (ch : Nat) : State :=
  let c := getChannel s ch
  if c.st = .sealing && c.pages.isEmpty then
    match sealOf s ch with
    | none => putChannel s ch c.release
    | some k =>
      let s := putChannel s ch c.release
      if failedMask c = 0 then
        modCmd s k.id (fun k => { k with
          work := .done (c.acks % 2 ^ 24 + c.incomplete % 2 ^ 16 * 2 ^ 24 + satTo 65535 c.late * 2 ^ 40) })
      else postLogged s k.id { localCause s .exportDest 0 (exportArg c ch) with log := c.failLog }
  else s

/-- Mark a destination failed, with a record of class 0x14; its pins are released. Of several that fail in one tick the lowest
index is first (R242). -/
def markFailed (s : State) (ch d : Nat) (r : FailReason) : State :=
  let c := getChannel s ch
  match c.dests[d]? with
  | none => s
  | some x =>
    if x.failed.isSome || c.st = .free then s
    else
      let c := { c with dests := listSet c.dests d { x with failed := some r } }
      let first := match c.firstFail with | some e => c.failTick = s.clk.ticks && d < e | none => true
      let c := if first then { c with
        firstFail := some d, failTick := s.clk.ticks, failLog := BitVec.ofNat 16 (s.err.seq + 1) } else c
      let s := logFault s 0x14 2 6 ch none 0 (exportArg c ch) 0
      putChannel s ch (releasePages c)

/-- Every (channel, destination) that uses a queue pair and has not failed. -/
def destsOfQp (s : State) (q : Nat) : List (Nat × Nat) :=
  (List.range 16).flatMap (fun ch =>
    let c := getChannel s ch
    if c.st = .free then []
    else (c.dests.zipIdx).filterMap (fun p =>
      if p.1.kind = 1 && p.1.qp = q && p.1.failed.isNone then some (ch, p.2) else none))

/-- The PULL and MESSAGE commands in flight on a queue pair, with their channels. -/
def cmdsOfQp (s : State) (q : Nat) : List (CmdId × Nat) :=
  s.cmds.filterMap (fun c => match c.work with
    | .pull p _ _ _ => if p = q then some (c.id, fieldLe c.params 1 1 % 16) else none
    | .message p => if p = q then some (c.id, fieldLe c.params 1 1 % 16) else none
    | _ => none)

/-- Check every channel's SEAL. -/
def sealAll (s : State) : State := (List.range 16).foldl sealCheck s

/-- A queue pair leaves READY: its destinations fail with a reason, its PULL and MESSAGE commands end with
`EXPORT_FAILED` and that reason (R242, R246, R247, R251). -/
def qpLose (s : State) (q : Nat) (st : QpState) (r : FailReason) : State :=
  let x := getQp s q
  let s := putQp s q { x with st := st, waiting := [], unacked := [], out := [] }
  let s := (destsOfQp s q).foldl (fun s p => markFailed s p.1 p.2 r) s
  let s := (cmdsOfQp s q).foldl (fun s p =>
    failCmd s p.1 (localCause s .exportDest 0 (r.code * 2 ^ 8 + p.2 * 2 ^ 12))) s
  sealAll s

/-- A destination fails; a RoCEv2 one takes its queue pair into ERROR (R242). -/
def failDest (s : State) (ch d : Nat) (r : FailReason) : State :=
  match (getChannel s ch).dests[d]? with
  | none => s
  | some x =>
    if x.failed.isSome then s
    else
    let s := markFailed s ch d r
    if x.kind = 1 && (getQp s x.qp).st = .ready then qpLose s x.qp .error .qpError else sealAll s

/-- A destination acknowledges a page's trailer of a bind (R236, R243): the trailer counts, and the page's pin on it ends.
One of an earlier bind is nobody's. -/
def ackPage (s : State) (ch : Nat) (bind : W16) (d q : Nat) : State :=
  let c := getChannel s ch
  match c.dests[d]? with
  | none => s
  | some x =>
    if c.st = .free || c.bindSeq != bind || x.failed.isSome || x.acked.contains q then s
    else
      let c := { c with dests := listSet c.dests d { x with acked := x.acked ++ [q] }, acks := c.acks + 1 }
      let s := putChannel s ch (releasePages c)
      let s := match sealOf s ch with | some k => progress s k.id | none => s
      sealCheck s ch

/-- A destination of a bind fails, if the channel is still bound so. -/
def failBind (s : State) (ch : Nat) (bind : W16) (d : Nat) (r : FailReason) : State :=
  if (getChannel s ch).bindSeq = bind then failDest s ch d r else s

end Sys2Proof.Machine
end

