-- ==== Sys2Proof/Machine/Net.lean ====
section
/-!
DEFINITION. Thondlink ports: transmission under credits, replay window and weir (R274 to R276), routes and bundles
(R282 to R285), flows (R279 to R281), lost packets, groups (R291), the weir's windows (R214, R215).
-/
namespace Sys2Proof.Machine

/-- A port of Ethernet personality (R271). -/
def isEth (s : State) (p : Nat) : Bool := s.rcd.portMode.getD p 0 != 0

/-- The bundle of a port; 15 is none (R282). -/
def bundleOf (s : State) (p : Nat) : Nat := bitsOf s.net.bundleMap.toNat (4 * p + 3) (4 * p)

/-- The Thondlink ports of a bundle, ascending. -/
def bundlePorts (s : State) (b : Nat) : List Nat :=
  (List.range 12).filter (fun p => !isEth s p && bundleOf s p = b)

/-- A port that carries flits. -/
def portUp (s : State) (p : Nat) : Bool :=
  match (getPort s p).link with
  | .up | .keepAlive => true
  | _ => false

/-- The bundle that ROUTE names for a chip, with at least one port up (R282). -/
def routeBundle (s : State) (chip : Nat) : Option Nat :=
  let e := (tabGet s.net.route 0 chip).toNat
  if bitOf e 3 && (bundlePorts s (e % 8)).any (portUp s) then some (e % 8) else none

/-- A route to a chip exists. -/
def reachable (s : State) (chip : BitVec 12) : Bool := chip = s.rcd.chipId || (routeBundle s chip.toNat).isSome

/-- Flits of a packet of `n` payload bytes (R273). -/
def flitsOf (n : Nat) : Nat := 1 + ceilDiv (n - 196) 244

/-- One bit of CRC-32 with the IEEE 802.3 polynomial, as Ethernet's FCS forms it (reflected; log entry 22). -/
def crc32Bit (c : BitVec 32) : BitVec 32 := if c.getLsbD 0 then (c >>> 1) ^^^ 0xEDB88320#32 else c >>> 1

/-- One byte of CRC-32. -/
def crc32Byte (c : BitVec 32) (b : Byte) : BitVec 32 :=
  let x := c ^^^ b.zeroExtend 32
  crc32Bit (crc32Bit (crc32Bit (crc32Bit (crc32Bit (crc32Bit (crc32Bit (crc32Bit x)))))))

/-- CRC-32 of bytes (R233, R273). -/
def crc32 (b : List Byte) : BitVec 32 := ~~~ (b.foldl crc32Byte 0xFFFFFFFF#32)

/-- The CTL type of a flit (Table 11.1). -/
inductive FlitKind where
  | idle
  | head
  | body
deriving DecidableEq, Repr

/-- The fields of a flit that the port acts on (R273, Table 11.1). -/
structure Flit where
  kind : FlitKind := .idle
  last : Bool := false
  vc : Nat := 0
  cls : Bool := false
  seq : BitVec 12 := 0
  ack : BitVec 12 := 0
  nak : Bool := false
  creditVc : Nat := 0
  creditCls : Bool := false
  creditCnt : Nat := 0
  body : List Byte := []
deriving DecidableEq, Repr

/-- The flit that 256 bytes stand for; none where the CRC over bytes 0 to 251 does not match. TYPE 3 and a virtual channel
above 4, which Table 11.1 does not give, carry an acknowledgement and credits only (log entry 119). -/
def flitOf (b : List Byte) : Option Flit :=
  if b.length = 256 && (crc32 (b.take 252)).toNat = fieldLe b 252 4 then
    let c := fieldLe b 0 1
    let vc := bitsOf c 5 3
    some {
      kind := if 4 < vc then .idle else match c % 4 with
        | 1 => .head
        | 2 => .body
        | _ => .idle
      last := bitOf c 2, vc := vc, cls := bitOf c 6, seq := BitVec.ofNat 12 (fieldLe b 1 2)
      ack := BitVec.ofNat 12 (fieldLe b 3 2), nak := bitOf (fieldLe b 3 2) 12, creditVc := fieldLe b 5 1 % 8
      creditCls := bitOf (fieldLe b 5 1) 3, creditCnt := fieldLe b 6 1, body := (b.drop 8).take 244 }
  else none

/-- CTL TYPE of Table 11.1. -/
def FlitKind.code : FlitKind → Nat
  | .idle => 0
  | .head => 1
  | .body => 2

/-- The 256 bytes of a flit, with its CRC (Table 11.1). -/
def flitBytes (f : Flit) : List Byte :=
  let b := leBytes 1 (f.kind.code + 4 * bit01 f.last + 8 * f.vc + 64 * bit01 f.cls) ++ leBytes 2 f.seq.toNat ++
    leBytes 2 (f.ack.toNat + 4096 * bit01 f.nak) ++ leBytes 1 (f.creditVc + 8 * bit01 f.creditCls) ++ leBytes 1 f.creditCnt ++
    leBytes 1 0 ++ (f.body ++ (List.range (244 - f.body.length)).map (fun i => Config.flitPad (f.body.length + i))).take 244
  b ++ leBytes 4 (crc32 b).toNat

/-- The transport header of a packet (Table 11.3). -/
def transportHeader (k : Packet) : List Byte :=
  leBytes 1 k.kind.toNat ++ leBytes 1 0 ++ leBytes 2 k.src.toNat ++ leBytes 2 k.dst.toNat ++ leBytes 2 k.window.toNat ++
    leBytes 2 k.gen.toNat ++ leBytes 2 k.eventId.toNat ++ leBytes 4 k.flowSeq.toNat ++ leBytes 8 k.offset.toNat ++
    leBytes 2 k.rowBytes.toNat ++ leBytes 2 k.rows.toNat ++ leBytes 4 k.stride.toNat ++ leBytes 8 k.context.toNat ++
    leBytes 2 k.group.toNat ++ leBytes 2 k.aux.toNat ++ leBytes 4 k.aux2.toNat

/-- Flit `j` of a packet, as it stands on the line but for the link's own fields (R273, R278). -/
def packetFlit (k : Packet) (flits j : Nat) : Flit :=
  { kind := if j = 0 then .head else .body, last := j + 1 = flits, vc := k.vc.val, cls := k.cls
    body := ((transportHeader k ++ k.payload).drop (244 * j)).take 244 }

/-- A flit leaves a port with what the link returns: the last sequence received, a NAK that is due, credits of one virtual
channel and class (R274, R276). -/
def emitFlit (s : State) (p : Nat) (f : Flit) : State :=
  let x := getPort s p
  let o := x.owed.find? (fun e => 0 < e.2)
  let key := (o.map (·.1)).getD 0
  let n := min 255 ((o.map (·.2)).getD 0)
  let f := { f with
    ack := x.rxSeq - 1, nak := x.nak, creditVc := key / 2, creditCls := key % 2 = 1, creditCnt := n }
  { putPort s p { x with nak := false, ackDue := false, owed := tabModify x.owed 0 key (· - n) } with
    wire := s.wire ++ [.flit p (flitBytes f)] }

/-- A Thondlink port that is up has a NAK, an acknowledgement or credits to return. -/
def returnDue (s : State) (p : Nat) : Bool :=
  let x := getPort s p
  portUp s p && !isEth s p && (x.nak || x.ackDue || x.owed.any (fun e => 0 < e.2))

/-- An idle flit carries what a port has to return, when no other flit has (R273). -/
def returnNext (s : State) : Option State := ((List.range 12).find? (returnDue s)).map (fun p => emitFlit s p {})

/-- Flits leave a port's receive buffer, and their credits are owed (R274). -/
def freeFlits (s : State) (p key n : Nat) : State :=
  let x := getPort s p
  let k := min n (tabGet x.rxBuf 0 key)
  putPort s p { x with rxBuf := tabModify x.rxBuf 0 key (· - k), owed := tabModify x.owed 0 key (· + k) }

/-- A packet leaves the receive buffer of the port on which it came. -/
def freePacket (s : State) (i : Option Ingress) (k : Packet) : State :=
  match i with
  | some g => freeFlits s g.port (2 * k.vc.val + bit01 k.cls) (flitsOf k.payload.length)
  | none => s

/-- What the FEC of a port found is counted; FEC_CORRECTED saturates (Table 11.10). -/
def noteFec (s : State) (p : Nat) (f : Fec) : State :=
  let x := getPort s p
  putPort s p { x with
    fecCorrected := BitVec.ofNat 32 (satTo (2 ^ 32 - 1) (x.fecCorrected.toNat + f.corrected))
    fecUncorrectable := x.fecUncorrectable + BitVec.ofNat 32 f.uncorrectable }

/-- The weir's share of a class of a port, in sixteenths (Table 8.7): VC 1 to 4 are classes 0 to 3. -/
def portShare (s : State) (p k : Nat) : Nat := if isEth s p then s.weir.eth.getD k 0 else s.weir.thl.getD k 0

/-- The present window: windows begin at the tide counts that are multiples of 700 (R214). -/
def weirWindow (s : State) : Nat := s.tide.count.toNat / 700

/-- What of a class has been used in the present window. -/
def weirUsed (s : State) (k : Nat) : Nat := if s.weir.window = weirWindow s then tabGet s.weir.used 0 k else 0

/-- Count a use in the present window; every class's use starts again in a new one. -/
def weirCount (s : State) (k n : Nat) : State :=
  let w := weirWindow s
  { s with weir := { s.weir with
      window := w, used := tabModify (if s.weir.window = w then s.weir.used else []) 0 k (fun u => u + n) } }

/-- Bytes of one sixteenth of a port per window: half as many on each port of a split pair (R215, R248). -/
def portSixteenth (s : State) (p : Nat) : Nat := if s.rcd.portMode.getD p 0 = 2 then 6250 else 12500

/-- Where the use of a class of a port, or of a half-port of a split one, is counted. -/
def portUse (p half k : Nat) : Nat := 16 + 48 * half + 4 * p + k

/-- Bytes a class of a port or half-port may still send in the present window (R215, R248). -/
def halfLeft (s : State) (p half k : Nat) : Nat := portShare s p k * portSixteenth s p - weirUsed s (portUse p half k)
def portLeft (s : State) (p k : Nat) : Nat := halfLeft s p 0 k

/-- Flits of a packet that may leave now: credits of its VC and class (R274), replay window (R276), weir (R275). -/
def txRoom (s : State) (p : Nat) (t : TxPacket) : Nat :=
  let x := getPort s p
  let vc := t.pkt.vc.val
  let credit := tabGet x.credits (creditsOf vc) (2 * vc + bit01 t.pkt.cls)
  let win := 2048 - (x.txSeq - x.txBase).toNat
  let share := if vc = 0 then t.flits else portLeft s p (vc - 1) / 256
  min (t.flits - t.sent) (min credit (min win share))

/-- The packet of a port's queue that sends next: one begun goes on; VC 0 comes first, then forwarded packets, then the
module's own, in order (R275, R285). -/
def txPick (s : State) (p : Nat) : Option (Nat × TxPacket) :=
  let q := ((getPort s p).queue.zipIdx).map (fun x => (x.2, x.1))
  let ok := fun (x : Nat × TxPacket) => 0 < txRoom s p x.2
  match q.find? (fun x => 0 < x.2.sent) with
  | some x => if ok x then some x else none
  | none =>
    match q.find? (fun x => x.2.pkt.vc.val = 0 && ok x) with
    | some x => some x
    | none =>
      match q.find? (fun x => x.2.arrived.isSome && ok x) with
      | some x => some x
      | none => q.find? ok

/-- Send `n` flits of the packet at an index of the queue; those of a packet that is passed on leave the receive buffer on
which it came. A packet sent whole moves to the replay buffer (R276, R284). -/
def txSend (s : State) (p i n : Nat) (t : TxPacket) : State :=
  let x := getPort s p
  let vc := t.pkt.vc.val
  let key := 2 * vc + bit01 t.pkt.cls
  let u := { t with sent := t.sent + n, endSeq := (x.txSeq + BitVec.ofNat 12 n).toNat }
  let whole := u.sent = t.flits
  let x := { x with
    txSeq := x.txSeq + BitVec.ofNat 12 n
    flitsTx := x.flitsTx + BitVec.ofNat 64 n
    advanced := if x.txSeq = x.txBase then s.clk.ticks else x.advanced
    credits := tabSet x.credits key (tabGet x.credits (creditsOf vc) key - n)
    queue := if whole then x.queue.eraseIdx i else listSet x.queue i u
    replay := if whole then x.replay ++ [u] else x.replay }
  let q := (getPort s p).txSeq
  let s := (List.range n).foldl (fun s j =>
    emitFlit s p { packetFlit t.pkt t.flits (t.sent + j) with seq := q + BitVec.ofNat 12 j }) (putPort s p x)
  let s := match t.arrived with
    | some g => match g.key with
      | some k => freeFlits s g.port k n
      | none => s
    | none => s
  let s := if vc = 0 then s else weirCount s (portUse p 0 (vc - 1)) (256 * n)
  if whole then { s with wire := s.wire ++ [.packet p t.pkt] } else s

/-- Send what a port may send. -/
def txRun : Nat → State → Nat → State
  | 0, s, _ => s
  | k + 1, s, p =>
    if portUp s p then
      match txPick s p with
      | none => s
      | some (i, t) => txRun k (txSend s p i (txRoom s p t) t) p
    else s

/-- Send what a port may send. -/
def transmit (s : State) (p : Nat) : State := txRun (2 * (getPort s p).queue.length + 1) s p

/-- Queue a packet on a port. -/
def enqueue (s : State) (p : Nat) (t : TxPacket) : State :=
  let x := getPort s p
  transmit (putPort s p { x with queue := x.queue ++ [t] }) p

/-- The port of a bundle whose turn it is, skipping ports that are not up (R285), with the next turn. -/
def bundleTurn (s : State) (b : Nat) : Option Nat :=
  let l := (bundlePorts s b).filter (portUp s)
  match l.find? (fun p => tabGet s.net.turn 0 b ≤ p) with
  | some p => some p
  | none => l.head?

/-- PORTS_FLAGS.NO_ROUTE (R282). -/
def setNoRoute (s : State) : State :=
  { s with net := { s.net with noRoute := true, noRouteCount := s.net.noRouteCount + 1 } }

/-- A packet that no command in flight has sent is lost beyond this module: a record of class 0x15 (R363). -/
def lostBeyond (s : State) (k : Cause) : State :=
  logFault s 0x15 2 0 0 none 0 (causeWord { k with log := BitVec.ofNat 16 (s.err.seq + 1) } false) 0

/-- Put a packet that has been routed to a bundle on the port whose turn it is (R285). A BREACH_NOTICE, which leaves by its own
bundle, is discarded where that has no port up (R282). -/
def takeTurn (s : State) (t : TxPacket) : State :=
  match bundleTurn s t.bundle with
  | none => lostBeyond (setNoRoute s) (localCause s .noRoute 0 t.pkt.dst.toNat)
  | some p => enqueue { s with net := { s.net with turn := tabSet s.net.turn t.bundle (p + 1) } } p t

/-- Put a packet on a bundle; beyond a dateline it travels in CLASS 1 (R283). -/
def onBundle (s : State) (b : Nat) (k : Packet) (o : Owner) (arrived : Option Ingress) : State :=
  let k := { k with cls := k.cls || bitOf s.net.dateline.toNat b }
  takeTurn s { pkt := k, owner := o, arrived := arrived, bundle := b, flits := flitsOf k.payload.length }

/-- Route a control packet of this module; one that cannot leave is discarded (R282). -/
def routeCtl (s : State) (k : Packet) : State :=
  if k.dst = s.rcd.chipId then { s with net := { s.net with loop := s.net.loop ++ [k] } }
  else match routeBundle s k.dst.toNat with
    | some b => onBundle s b k .none none
    | none => lostBeyond (setNoRoute s) (localCause s .noRoute 0 k.dst.toNat)

/-- A packet of this module on VC 0. -/
def ctlPacket (s : State) (kind : Nat) (dst : BitVec 12) : Packet :=
  { kind := BitVec.ofNat 8 kind, vc := 0, cls := false, src := s.rcd.chipId, dst := dst, window := 0, gen := 0
    eventId := 0, flowSeq := 0, offset := 0, rowBytes := 0, rows := 0, stride := 0, context := 0, group := 0, aux := 0
    aux2 := 0, payload := [] }

/-- Members of a group, its own rank, and a member's chip, window and generation, read in place (R291, Table 11.8). -/
def groupAt (s : State) (g : Nat) : Nat := tabGet s.net.groups 0 g
def groupSize (s : State) (g : Nat) : Nat := readLe s (groupAt s g) 2
def groupRank (s : State) (g : Nat) : Nat := readLe s (groupAt s g + 2) 2
def memberChip (s : State) (g r : Nat) : BitVec 12 := BitVec.ofNat 12 (readLe s (groupAt s g + 16 + 8 * r) 2)
def memberWindow (s : State) (g r : Nat) : Nat := readLe s (groupAt s g + 18 + 8 * r) 2 % 4096
def memberGen (s : State) (g r : Nat) : Nat := readLe s (groupAt s g + 20 + 8 * r) 2

/-- A BREACH_NOTICE for a packet lost while it was forwarded (R281), to its source chip; for a copy that a member of a ring
multicast passed on, to the multicast's origin, whose flow it was not. It returns CONTEXT and FLOW_SEQ, and names the port,
the packet's destination, VC, group, kind and origin rank in AUX, WINDOW, GEN, GROUP, ROW_BYTES and ROWS (log entry 20). -/
def noticeOf (s : State) (k : Packet) (port : Nat) : Packet :=
  let copy := k.kind = 0x03 && k.src = s.rcd.chipId && groupSize s k.group.toNat != 0
  { ctlPacket s 0x12 (if copy then memberChip s k.group.toNat k.aux.toNat else k.src) with
    context := k.context, aux2 := k.flowSeq, aux := BitVec.ofNat 16 port, window := k.dst
    gen := if copy then 0xFFFF else BitVec.ofNat 16 k.vc.val, group := k.group
    rowBytes := k.kind.zeroExtend 16, rows := k.aux }

/-- The group and sequence of a collective command. -/
def collOf (c : Cmd) : Option (Nat × Nat) :=
  match c.work with
  | .coll w => some (w.group, w.seq)
  | _ => none

/-- Tell every member that can be reached that a collective has ended (R300). -/
def sendCollAbort (s : State) (g seq : Nat) : State :=
  let me := groupRank s g
  ((List.range (groupSize s g)).filter (fun r => r != me && reachable s (memberChip s g r))).foldl (fun s r =>
    routeCtl s { ctlPacket s 0x17 (memberChip s g r) with
      group := BitVec.ofNat 16 g, aux2 := BitVec.ofNat 32 seq }) s

/-- A collective that a cause has ended with `LINK_BREACH` tells the others, unless it was ending already (R300). -/
def tellOthers (s : State) (c : Cmd) (k : Cause) : State :=
  match collOf c with
  | some (g, seq) =>
    if c.ending.isNone && k.code.status = .linkBreach && k.code != .collAbort then sendCollAbort s g seq else s
  | none => s

/-- End a command on a cause of the network; a collective that ends with `LINK_BREACH` tells the others (R300). -/
def failNet (s : State) (id : CmdId) (k : Cause) (logged : Bool) : State :=
  match findCmd s id with
  | none => s
  | some c => tellOthers (if logged then postLogged s id k else failCmd s id k) c k

/-- A BREACH_NOTICE has told a command of its loss: BREACH, logged in a record of class 0x15 (R373). -/
def failTold (s : State) (c : Cmd) (k : Cause) : State :=
  let k := { k with log := BitVec.ofNat 16 (s.err.seq + 1) }
  tellOthers (postEnding s c.id (causeEnding k) (fun s c sev =>
    logFault s 0x15 sev 0 0 (some c) 0 (causeWord k false) 0)) c k

/-- A forwarded packet is lost: the flits of it that have not left the receive buffer in which they wait leave it (R274). -/
def dropFlits (s : State) (t : TxPacket) : State :=
  match t.arrived with
  | some g => match g.key with
    | some key => freeFlits s g.port key (t.flits - t.sent)
    | none => s
  | none => s

/-- A packet has met no route (R281, R282): its command posts NO_ROUTE, its destination fails with LINK, or its source is told;
where no command here is concerned the loss makes a record of its own (R363). -/
def routeLost (s : State) (k : Packet) (o : Owner) (arrived : Option Ingress) : State :=
  let cause := localCause s .noRoute 0 k.dst.toNat
  let s := setNoRoute s
  match o, arrived with
  | .cmd id, _ => if (findCmd s id).isSome then failNet s id cause false else lostBeyond s cause
  | .page ch b d _ _, _ => failBind (lostBeyond s cause) ch b d .link
  | _, some g =>
    let s := dropFlits (lostBeyond s cause) { pkt := k, arrived := arrived, flits := flitsOf k.payload.length }
    onBundle s g.bundle (noticeOf s k 0) .none none
  | _, none => lostBeyond s cause

/-- Route a packet (R282, R285). -/
def routePacket (s : State) (k : Packet) (o : Owner) (arrived : Option Ingress) : State :=
  if k.dst = s.rcd.chipId then { s with net := { s.net with loop := s.net.loop ++ [k] } }
  else match routeBundle s k.dst.toNat with
    | some b => onBundle s b k o arrived
    | none => routeLost s k o arrived

/-- The key of a flow with a chip on a virtual channel. -/
def flowKey (chip vc : Nat) : Nat := chip * 8 + vc

def getFlowTx (s : State) (k : Nat) : FlowTx := tabGet s.net.flowTx {} k
def putFlowTx (s : State) (k : Nat) (f : FlowTx) : State :=
  { s with net := { s.net with flowTx := tabSet s.net.flowTx k f } }
def getFlowRx (s : State) (k : Nat) : FlowRx := tabGet s.net.flowRx {} k
def putFlowRx (s : State) (k : Nat) (f : FlowRx) : State :=
  { s with net := { s.net with flowRx := tabSet s.net.flowRx k f } }

/-- Send a write, or pass one on that came in: it takes the next sequence of its flow and waits for its acknowledgement
(R279, R280, R301). -/
def passWrite (s : State) (k : Packet) (o : Owner) (arrived : Option Ingress) : State :=
  let key := flowKey k.dst.toNat k.vc.val
  let f := getFlowTx s key
  let s := putFlowTx s key { next := f.next + 1, unacked := f.unacked ++ [(f.next, o, s.clk.ticks)] }
  routePacket s { k with src := s.rcd.chipId, flowSeq := BitVec.ofNat 32 f.next } o arrived
def sendWrite (s : State) (k : Packet) (o : Owner) : State := passWrite s k o none

/-- A command has writes that are not acknowledged. -/
def hasUnacked (s : State) (id : CmdId) : Bool :=
  s.net.flowTx.any (fun p => p.2.unacked.any (fun u => u.2.1 = .cmd id))

/-- Acknowledge one write to its owner: an acknowledged write is a progress event (R369). -/
def ackOwner (s : State) (o : Owner) : State :=
  match o with
  | .cmd id => progress s id
  | .page ch b d q true => ackPage s ch b d q
  | .fwd e => addEvent s e 1
  | _ => s

/-- An ACK covers every write of the flow up to a sequence (R280). -/
def ackFlow (s : State) (key upto : Nat) : State :=
  let f := getFlowTx s key
  let got := f.unacked.filter (fun u => u.1 ≤ upto)
  let s := putFlowTx s key { f with unacked := f.unacked.filter (fun u => !(u.1 ≤ upto)) }
  got.foldl (fun s u => ackOwner s u.2.1) s

/-- The wire form of PORT_STATUS (Table 11.10). -/
def portStatus (x : Port) : Nat :=
  (match x.link with
    | .down => 0
    | .training => 1
    | .up => 2
    | .keepAlive => 3) + x.partnerChip.toNat * 2 ^ 16 + x.partnerPort.toNat * 2 ^ 28

/-- Commands of lock-step in flight, those that are held among them (R27, R319). -/
def lockCmds (s : State) : List CmdId := (s.cmds.filter (fun c => flagSet c.hdr 3)).map (·.id)

/-- The pairing lapses. -/
def lapse (s : State) : State :=
  { s with lock := { s.lock with established := false, pairFrom := none, own := [], theirs := [] } }

/-- When no route to the lock-step partner remains, lock-step commands in flight end and the pairing lapses (R319). -/
def partnerCheck (s : State) : State :=
  if s.lock.established && !reachable s s.lock.partner then
    lapse ((lockCmds s).foldl (fun s id => failNet s id (localCause s .partnerLost 0 s.lock.partner.toNat) false) s)
  else s

/-- A lost packet (R281): `n` is the SEQ of the port's record, `p` the port. Of a forwarded one the flits not yet sent leave the
receive buffer (R274). -/
def losePacket (s : State) (p n : Nat) (t : TxPacket) : State :=
  let s := dropFlits s t
  match t.owner, t.arrived with
  | .cmd id, _ => failNet s id { localCause s .breach 0 p with log := BitVec.ofNat 16 n } true
  | .page ch b d _ _, _ => failBind s ch b d .link
  | _, some g => onBundle s g.bundle (noticeOf s t.pkt p) .none none
  | _, none => s

/-- A packet of a flow (writes and collective data). -/
def isFlowKind (kind : Byte) : Bool := 1 ≤ kind.toNat && kind.toNat ≤ 0x04

/-- The source resets a flow after a loss (R281): writes that are lost wait for no acknowledgement any more, and a FLOW_RESET for
each names it and the next write of the flow (log entry 21). -/
def resetFlow (s : State) (key : Nat) (lost : List Nat) : State :=
  let f := getFlowTx s key
  lost.foldl (fun s q => routeCtl s { ctlPacket s 0x13 (BitVec.ofNat 12 (key / 8)) with
    flowSeq := BitVec.ofNat 32 f.next, aux := BitVec.ofNat 16 (key % 8), aux2 := BitVec.ofNat 32 q })
    (putFlowTx s key { f with unacked := f.unacked.filter (fun u => !lost.contains u.1) })

/-- A lost packet that is a write of this module resets its flow (R281). -/
def flowReset (s : State) (k : Packet) : State :=
  if isFlowKind k.kind && k.src = s.rcd.chipId then resetFlow s (flowKey k.dst.toNat k.vc.val) [k.flowSeq.toNat] else s

/-- A packet that no flit of has left goes to another port of the bundle it was routed to, or is lost with the last of them
(R285, R305). -/
def reroute (s : State) (p n : Nat) (t : TxPacket) : State :=
  if (bundleTurn s t.bundle).isSome then takeTurn s t
  else flowReset (losePacket (setNoRoute s) p n t) t.pkt

/-- A packet that is passed on from a port's receive buffer has flits there still. -/
def heldIn (p : Nat) (t : TxPacket) : Bool :=
  match t.arrived with
  | some g => g.port = p && g.key.isSome && t.sent < t.flits
  | none => false

/-- The packets that other ports were sending on from the receive buffer of port `p`. -/
def cutShort (s : State) (p : Nat) : List TxPacket :=
  (s.ports.filter (fun x => x.1 != p)).flatMap (fun x => x.2.queue.filter (heldIn p))

/-- The other ports give up what lay in the receive buffer of port `p`; flits already sent stay in the replay buffer. -/
def giveUp (s : State) (p : Nat) : State :=
  { s with ports := s.ports.map (fun o => (o.1, { o.2 with
      queue := o.2.queue.filter (fun t => !heldIn p t)
      replay := o.2.replay ++
        (o.2.queue.filter (fun t => heldIn p t && 0 < t.sent)).map (fun t => { t with arrived := none }) })) }

/-- A port loses its link: buffers discarded, with what of them waited and what was being sent on from them, lost packets treated,
unsent packets put on the bundle's other ports, the link in its new state (R277, R281, R304). Its record is the newest of the
log. -/
def losePort (s : State) (p : Nat) (link : LinkState) (cls : Nat) : State :=
  let x := getPort s p
  let lost := x.replay ++ x.queue.filter (fun t => 0 < t.sent || heldIn p t) ++ cutShort s p
  let unsent := x.queue.filter (fun t => t.sent = 0 && !heldIn p t)
  let s := putPort s p { x with
    link := link, queue := [], replay := [], txSeq := 0, txBase := 0, tries := 0, credits := [], rxSeq := 0, nak := false
    ackDue := false, owed := [], discarding := false, rxBuf := [], widen := false, trainedAt := s.clk.ticks }
  let s := giveUp { s with net := { s.net with inbound := s.net.inbound.filter (fun e => match e with
    | .write (some g) _ _ => g.port != p
    | _ => true) } } p
  let s := logFault s cls 2 4 p none 0 0 (portStatus (getPort s p))
  let n := s.err.seq
  let s := lost.foldl (fun s t => losePacket s p n t) s
  let s := lost.foldl (fun s t => flowReset s t.pkt) s
  let s := unsent.foldl (fun s t => reroute s p n t) s
  partnerCheck s

/-- A port declares breach (R277). -/
def breachPort (s : State) (p : Nat) : State :=
  let x := getPort s p
  losePort (putPort s p { x with breach := true, breachCount := x.breachCount + 1 }) p .training 0x10

/-- A port declares link-down (R304). -/
def downPort (s : State) (p : Nat) : State :=
  let x := getPort s p
  losePort (putPort s p { x with linkDown := true, linkDownCount := x.linkDownCount + 1 }) p .down 0x11

/-- `SET_WEIR`'s new shares (R217). -/
def applyWeir (s : State) (b : List Byte) : State :=
  { s with weir := { s.weir with
      ddrRead := fieldLe b 0 1, ddrWrite := fieldLe b 1 1, ddrRemote := fieldLe b 2 1
      thl := (List.range 4).map (fun k => fieldLe b (4 + k) 1)
      eth := (List.range 4).map (fun k => fieldLe b (8 + k) 1) } }

/-- `SET_WEIR` commands that wait for a boundary, with the setting they replace. -/
def weirWaiting (s : State) : List (CmdId × Nat × List Byte) :=
  s.cmds.filterMap (fun c => match c.work with | .setWeir prev => some (c.id, prev, c.params) | _ => none)

/-- What the beginning of a window brings: `SET_WEIR` takes effect and completes (R217), and the ports send on. -/
def weirServe (s : State) : State :=
  if s.weir.served = weirWindow s then s
  else
    let s := { s with weir := { s.weir with served := weirWindow s } }
    let s := (weirWaiting s).foldl (fun s w =>
      modCmd (applyWeir s w.2.2) w.1 (fun c => { c with work := .done w.2.1 })) s
    (List.range 12).foldl transmit s

/-- The next window boundary (R214): the clock reaches the next multiple of 700 of the tide count. -/
def weirBoundary (s : State) : State := weirServe (advance s (700 - s.tide.count.toNat % 700))

/-- Classes of LPDDR5X traffic (Table 8.7). -/
inductive DdrClass where
  | read
  | write
  | remote
deriving DecidableEq, Repr

/-- The index of a class in the use table. -/
def DdrClass.idx : DdrClass → Nat
  | .read => 0
  | .write => 1
  | .remote => 2

/-- A class's ceiling in accesses per window, the urgent reserve apart (R215, R216). -/
def ddrCeiling (s : State) (k : DdrClass) : Nat :=
  1333 * match k with
    | .read => s.weir.ddrRead - 1
    | .write => s.weir.ddrWrite
    | .remote => s.weir.ddrRemote

/-- Accesses that a class may still issue in the present window. -/
def ddrLeft (s : State) (k : DdrClass) : Nat := ddrCeiling s k - weirUsed s k.idx

/-- The tick by which the urgent reserve has earned its `n`-th access: one every 0.75 ns, a tick being 10 / 7 ns (R216). -/
def creditTick (n : Nat) : Nat := ceilDiv (21 * n) 40

/-- The reserve earns its next access; it holds at most one that is unused (R216). -/
def earnCredit (s : State) : State :=
  let n := max (s.weir.earned + 1) (40 * s.clk.ticks / 21)
  let s := advanceTo s (creditTick n)
  { s with weir := { s.weir with credit := 1, earned := n } }

/-- A priority-0 read draws on the reserve's credit (R216). -/
def spendCredit (s : State) : State := weirCount { s with weir := { s.weir with credit := 0 } } 3 1

/-- Issue accesses of a class: a priority-0 read draws on the reserve first, then on the rest of the READ share, then on what
the reserve earns; any other access that finds its class at its ceiling waits for the next window (R214 to R216). -/
def ddrIssue (k : DdrClass) (urgent : Bool) : Nat → State → Nat → State
  | 0, s, _ => s
  | f + 1, s, m =>
    if m = 0 then s
    else if urgent && k = .read && 0 < s.weir.credit then ddrIssue k urgent f (spendCredit s) (m - 1)
    else if 0 < ddrLeft s k then
      let n := min m (ddrLeft s k)
      ddrIssue k urgent f (weirCount s k.idx n) (m - n)
    else if urgent && k = .read then ddrIssue k urgent f (spendCredit (earnCredit s)) (m - 1)
    else ddrIssue k urgent f (weirBoundary s) m

/-- The credit that the reserve has earned by now, one every 0.75 ns while time passes; at most one is unused (R216). -/
def earnDue (s : State) : State :=
  if s.weir.earned < 40 * s.clk.ticks / 21 then
    { s with weir := { s.weir with credit := 1, earned := 40 * s.clk.ticks / 21 } }
  else s

/-- The LPDDR5X accesses of a range, issued in a class. -/
def ddrTake (s : State) (k : DdrClass) (urgent : Bool) (a n : Nat) : State :=
  ddrIssue k urgent (2 * ddrAccesses a n) (if urgent then earnDue s else s) (ddrAccesses a n)

/-- Reads of several ranges. -/
def takeReads (s : State) (urgent : Bool) (l : List (Nat × Nat)) : State :=
  l.foldl (fun s r => ddrTake s .read urgent r.1 r.2) s

end Sys2Proof.Machine
end

