-- ==== Sys2Proof/Machine/SluiceOps.lean ====
section
/-!
DEFINITION. Sluices: descriptors, the bytes of a segment, slot claims, chains and their ends, parts of COPY and the like
(R203 to R213), re-runs (R222).
-/
namespace Sys2Proof.Machine

/-- The class of a read error at an address (Table 14.4). -/
def errClass (a : Nat) : Nat := if isDdr a then 0x02 else 0x01

/-- Class and SOURCE of the record of a failing read: in a core's own array, undo store, statistics or score buffers, or at an
address (Tables 14.4, 14.8). -/
def failClass (own : Option Nat) (a : Nat) : Nat := if own.isSome then 0x01 else errClass a
def failSource (own : Option Nat) (a : Nat) : Nat × Nat :=
  match own with
  | some c => (1, c)
  | none => sourceOf a

/-- Count a re-run whose failing read lay in a core's own memories (R364). -/
def countRerun (s : State) (own : Option Nat) (a : Nat) : State :=
  if (failSource own a).1 = 1 then
    let k := getCore s (failSource own a).2
    putCore s (failSource own a).2 { k with reruns := k.reruns + 1 }
  else s

/-- Commands in flight on a core: those that hold a thread of it or run on its sluices; none on a chip-level block, which stands
as core 16. -/
def cmdsAt (s : State) (core : Nat) : List CmdId :=
  if 16 ≤ core then [] else (getCore s core).threads.map (fun p => p.2.1) ++
    ((List.range 8).map (8 * core + ·)).flatMap (fun n => ((getSluice s n).active.map (·.cmd)).toList)

/-- In repeatable mode a re-run on a core marks every command in flight there (R313, Table 12.3). -/
def markReruns (s : State) (core : Nat) : State :=
  if s.lock.repeatable then
    { s with cmds := s.cmds.map (fun c =>
      if (cmdsAt s core).contains c.id then { c with secondary := c.secondary ||| 0x10 } else c) }
  else s

/-- The re-run of a column block or of a segment is a timing event, which marks what is in flight on the core (R313). -/
def timedReruns (s : State) (core n : Nat) : State := timingEvent (markReruns s core) .rerun n

/-- A step is re-run (R222): RERUN_OCCURRED and a record of severity 1 with the address. -/
def rerunAt (s : State) (own : Option Nat) (id : CmdId) (tile a : Nat) : State :=
  match findCmd s id with
  | none => s
  | some c =>
    let s := logFault s (failClass own a) 1 (failSource own a).1 (failSource own a).2 (some c) a tile 0
    let s := modCmd s id (fun c => { c with secondary := c.secondary ||| 0x10 })
    countRerun s own a

/-- The fourth attempt fails: the command ends with `RERUN_EXHAUSTED` (R222), which counts where the read lay in a core's own
memories (R364). -/
def exhaustAt (s : State) (own : Option Nat) (id : CmdId) (tile a : Nat) : State :=
  if gone s id then s
  else
    let s :=
      if (failSource own a).1 = 1 then
        let k := getCore s (failSource own a).2
        putCore s (failSource own a).2 { k with exhausted := k.exhausted + 1 }
      else s
    postEnding s id { status := .rerunExhausted, rank := 3, cause := none, tile := tile } (fun s c sev =>
      logFault s (failClass own a) sev (failSource own a).1 (failSource own a).2 (some c) a tile 0)

/-- Stored data that reads as bad recurs on every attempt: three re-runs, then the end (R222). -/
def recursAt (s : State) (own : Option Nat) (id : CmdId) (tile a : Nat) : State :=
  exhaustAt (rerunAt (rerunAt (rerunAt s own id tile a) own id tile a) own id tile a) own id tile a

/-- The same of a read at an address. -/
def noteRerun (s : State) (id : CmdId) (tile a : Nat) : State := rerunAt s none id tile a
def exhaust (s : State) (id : CmdId) (tile a : Nat) : State := exhaustAt s none id tile a
def exhaustAll (s : State) (id : CmdId) (tile a : Nat) : State := recursAt s none id tile a

/-- The coordinates of a read of the last row of Table 8.9: core and list entry (R222). -/
def otherTile (core entry : Nat) : Nat := tileWord core 0 entry 0 0 0

/-- A descriptor of Table 8.4. -/
def descOf (b : List Byte) : Desc :=
  { mode := fieldLe b 0 1, dflags := fieldLe b 1 1, signalId := fieldLe b 2 2, rowBytes := fieldLe b 4 4
    src := fieldLe b 8 8, dst := fieldLe b 16 8, rows := fieldLe b 24 4, planes := fieldLe b 28 4
    srcStride1 := fieldLe b 32 4, dstStride1 := fieldLe b 36 4, srcStride2 := fieldLe b 40 4
    dstStride2 := fieldLe b 44 4, idxAddr := fieldLe b 48 8, next := fieldLe b 56 8 }

/-- Flags of DFLAGS. -/
def Desc.chain (d : Desc) : Bool := bitOf d.dflags 0
def Desc.srcSlot (d : Desc) : Bool := bitOf d.dflags 1
def Desc.dstSlot (d : Desc) : Bool := bitOf d.dflags 2
def Desc.signal (d : Desc) : Bool := bitOf d.dflags 4
def Desc.idxBytes (d : Desc) : Nat := if bitOf d.dflags 3 then 8 else 4

/-- Bytes a descriptor moves. -/
def Desc.total (d : Desc) : Nat := d.rows * d.rowBytes * (if d.mode = 2 then d.planes else 1)

/-- An address at the start of a berm slot. -/
def slotStart (a : Nat) : Bool := inStride 0x1000000000 0x400000 a && a % 0x10000 = 0

/-- The values that Table 8.4, R207 and R208 allow. Linear ranges must not overlap. -/
def Desc.ok (d : Desc) : Bool :=
  d.mode ≤ 4 && d.dflags < 32 && 16 ≤ d.rowBytes && d.rowBytes ≤ 2 ^ 24 && d.rowBytes % 16 = 0 && 1 ≤ d.rows &&
    d.rows ≤ 2 ^ 24 && (d.mode != 2 || (1 ≤ d.planes && d.planes ≤ 2 ^ 16)) && d.src % 16 = 0 && d.dst % 16 = 0 &&
    (d.mode = 0 || (d.srcStride1 % 16 = 0 && d.dstStride1 % 16 = 0)) &&
    (d.mode != 2 || (d.srcStride2 % 16 = 0 && d.dstStride2 % 16 = 0)) && (!d.chain || d.next % 64 = 0) &&
    (!d.srcSlot || (slotStart d.src && d.total ≤ 0x10000)) && (!d.dstSlot || (slotStart d.dst && d.total ≤ 0x10000)) &&
    (d.mode != 0 || d.src + d.total ≤ d.dst || d.dst + d.total ≤ d.src)

/-- The start of transfer row `q` at the source and at the destination (Table 8.5). -/
def rowAddrs (s : State) (d : Desc) (q : Nat) : Nat × Nat :=
  let z := q / d.rows
  let r := q % d.rows
  let idx := readLe s (d.idxAddr + r * d.idxBytes) d.idxBytes
  match d.mode with
  | 2 => (d.src + z * d.srcStride2 + r * d.srcStride1, d.dst + z * d.dstStride2 + r * d.dstStride1)
  | 3 => (d.src + idx * d.srcStride1, d.dst + r * d.dstStride1)
  | 4 => (d.src + r * d.srcStride1, d.dst + idx * d.dstStride1)
  | _ => (d.src + r * d.srcStride1, d.dst + r * d.dstStride1)

/-- The contiguous runs (source, destination, bytes) of the transfer bytes [lo, hi). -/
def transferRuns (s : State) (d : Desc) (lo hi : Nat) : List (Nat × Nat × Nat) :=
  if hi ≤ lo then []
  else if d.mode = 0 then [(d.src + lo, d.dst + lo, hi - lo)]
  else
    let q0 := lo / d.rowBytes
    (List.range ((hi - 1) / d.rowBytes + 1 - q0)).map (fun i =>
      let q := q0 + i
      let a := max lo (q * d.rowBytes)
      let b := min hi ((q + 1) * d.rowBytes)
      let p := rowAddrs s d q
      (p.1 + (a - q * d.rowBytes), p.2 + (a - q * d.rowBytes), b - a))

/-- The rows of the index list that the transfer bytes [lo, hi) use (modes 3 and 4). -/
def idxRange (d : Desc) (lo hi : Nat) : Nat × Nat :=
  if (d.mode = 3 || d.mode = 4) && lo < hi then
    (d.idxAddr + lo / d.rowBytes * d.idxBytes, ((hi - 1) / d.rowBytes + 1 - lo / d.rowBytes) * d.idxBytes)
  else (0, 0)

/-- The next segment: 4 KiB of the destination bytes, or what is left (R209). -/
def SlChain.segEnd (c : SlChain) : Nat := min c.hi (c.pos + 4096)

/-- The runs of the next segment. -/
def segRuns (s : State) (c : SlChain) : List (Nat × Nat × Nat) := transferRuns s c.desc c.pos c.segEnd

/-- The first address at which the next segment's reads meet an error. -/
def segBad (s : State) (c : SlChain) : Option Nat :=
  let ix := idxRange c.desc c.pos c.segEnd
  if 0 < ix.2 && rangeBad s ix.1 ix.2 then some ix.1
  else if c.fill.isSome then none
  else ((segRuns s c).find? (fun r => rangeBad s r.1 r.2.2)).map (·.1)

/-- The first address that a segment may not reach: of its index list, then of its data (R194). -/
def segUnmapped (s : State) (c : SlChain) : Option Nat :=
  let ix := idxRange c.desc c.pos c.segEnd
  if 0 < ix.2 && !rangeRead ix.1 ix.2 then some ix.1
  else (segRuns s c).findSome? (fun r =>
    if !(c.fill.isSome) && !rangeRead r.1 r.2.2 then some r.1
    else if !rangeOk r.2.1 r.2.2 then some r.2.1 else none)

/-- Bytes of a FILL from byte `j` of the region. -/
def fillBytes (p : W64) (j n : Nat) : List Byte :=
  (List.range n).map (fun i => BitVec.ofNat 8 (p.toNat / 2 ^ (8 * ((j + i) % 8))))

/-- Move the bytes of the next segment (R207). -/
def segMove (s : State) (urgent : Bool) (c : SlChain) : State :=
  match c.fill with
  | some p =>
    let a := c.desc.dst + c.pos
    let n := c.segEnd - c.pos
    writeMem (ddrTake s .write urgent a n) a (fillBytes p c.pos n)
  | none =>
    (segRuns s c).foldl (fun s r =>
      let s := ddrTake (ddrTake s .read urgent r.1 r.2.2) .write urgent r.2.1 r.2.2
      writeMem s r.2.1 (readMem s r.1 r.2.2)) s

/-- The destination ranges of a descriptor, in transfer order (R320). -/
def descOuts (s : State) (d : Desc) : List (Nat × Nat) := (transferRuns s d 0 d.total).map (fun r => (r.2.1, r.2.2))

/-- Whether a slot can be claimed: FULL for a reader, EMPTY for a writer (R203, R204). -/
def claimable (s : State) (a : Nat) (reader : Bool) : Bool :=
  (getSlot s (slotOf a)).st = (if reader then .full else .empty)

/-- Claim a slot. -/
def claimSlot (s : State) (a : Nat) (reader : Bool) (id : CmdId) : State :=
  putSlot s (slotOf a) { st := if reader then .draining else .filling, claimant := some id }

/-- Finish a claim (Table 8.3). -/
def unclaimSlot (s : State) (a : Nat) (reader : Bool) : State :=
  putSlot s (slotOf a) { st := if reader then .empty else .full, claimant := none }

/-- Claim the slots that the next segment of a chain needs, as far as they can be claimed (R208). -/
def claimFor (s : State) (c : SlChain) : State × SlChain :=
  let r :=
    if c.desc.srcSlot && !c.plain && !c.srcClaimed && claimable s c.desc.src true then
      (claimSlot s c.desc.src true c.cmd, { c with srcClaimed := true })
    else (s, c)
  if r.2.desc.dstSlot && !r.2.plain && !r.2.dstClaimed && claimable r.1 r.2.desc.dst false then
    (claimSlot r.1 r.2.desc.dst false r.2.cmd, { r.2 with dstClaimed := true })
  else r

/-- A chain of descriptors that claims a slot now: of the sluices that wait, the one with the lowest number (R204). -/
def claimNext (s : State) : Option State :=
  s.sluices.findSome? (fun p => match p.2.active with
    | none => none
    | some c =>
      let r := claimFor s c
      if c.job.isNone && r.2 != c then some (putSluice r.1 p.1 { p.2 with active := some r.2 }) else none)

/-- A chain waits for a slot. -/
def SlChain.stalled (c : SlChain) : Bool :=
  !c.plain && ((c.desc.srcSlot && !c.srcClaimed) || (c.desc.dstSlot && !c.dstClaimed))

/-- DETAIL of an arm or re-arm whose chain ran (R211). -/
def armDetail (c : SlChain) : Nat := satTo (2 ^ 48 - 1) c.moved + satTo 65535 c.descs * 2 ^ 48

/-- The last segment of a sluice's active chain is complete: the shadow becomes active and its watchdog counts from then,
or the sluice is idle (Table 8.6, R369). -/
def sluiceNext (s : State) (n : Nat) : State :=
  let x := getSluice s n
  match x.shadow with
  | some c => progress (putSluice s n { st := .running, active := some c, shadow := none }) c.cmd
  | none => putSluice s n { st := .idle, active := none, shadow := none }

/-- A part of a COPY, FILL, GATHER_ROWS or SCATTER_ROWS ends: the command is done with its last (R213). -/
def partEnd (s : State) (id : CmdId) (moved : Nat) : State :=
  modCmd s id (fun c => { c with work := match c.work with
    | .xfer parts waiting m => if parts ≤ 1 then .done (m + moved) else .xfer (parts - 1) waiting (m + moved)
    | w => w })

/-- At most four segments of the descriptor are left, so its last one has started (R209). -/
def SlChain.lastStarts (c : SlChain) : Bool := c.hi ≤ c.pos + 4 * 4096

/-- When the last segment of a chained descriptor starts, which waits for the descriptor's slots, the sluice reads the next
descriptor from NEXT (R208, R209). -/
def fetchNext (s : State) (n : Nat) : Out :=
  match (getSluice s n).active with
  | none => .next s
  | some c =>
    let a := c.desc.next
    if c.plain || c.job.isSome || !c.desc.chain || c.nxt.isSome || c.stalled || !c.lastStarts then .next s
    else if !rangeRead a 64 then .fault (.badAddress a)
    else if (badAt s a 64).isSome then
      .next (exhaustAll s c.cmd (otherTile (if n < 128 then n / 8 else 0) 0) ((badAt s a 64).getD a))
    else
      let u := match findCmd s c.cmd with | some k => k.urgent | none => false
      let s := ddrTake s .read u a 64
      .next (putSluice s n { getSluice s n with active := some { c with nxt := some (readMem s a 64) } })

/-- Go on from an outcome. -/
def andThen (o : Out) (k : State → Out) : Out :=
  match o with
  | .next s => k s
  | o => o

/-- A chain on a sluice has moved its last byte of a descriptor: slots, signal, next descriptor (R208, R209, R211). -/
def descEnd (s : State) (n : Nat) (c : SlChain) : Out :=
  if c.plain then .next (partEnd (sluiceNext s n) c.cmd c.moved)
  else
    let s := if c.desc.srcSlot then unclaimSlot s c.desc.src true else s
    let s := if c.desc.dstSlot then unclaimSlot s c.desc.dst false else s
    let s := modCmd s c.cmd (fun k => { k with outs := k.outs ++ descOuts s c.desc })
    let s := if c.desc.signal then addEvent s c.desc.signalId 1 else s
    let c := { c with descs := c.descs + 1 }
    match c.nxt with
    | some b =>
      let d := descOf b
      if d.ok then
        fetchNext (putSluice s n { getSluice s n with active := some { c with
          desc := d, lo := 0, hi := d.total, pos := 0, idx := c.idx + 1, reruns := [], nxt := none
          srcClaimed := false, dstClaimed := false } }) n
      else .fault (.badParameter 0x0102)
    | none => fetchNext (modCmd (sluiceNext s n) c.cmd (fun k => { k with work := .done (armDetail c) })) n

/-- Move the next segment of a chain whose slots are claimed. -/
def moveSegment (s : State) (n : Nat) (c : SlChain) : Out :=
  match segUnmapped s c with
  | some a => .fault (.badAddress a)
  | none =>
    if (segBad s c).isSome then .next s
    else
      let u := match findCmd s c.cmd with | some k => k.urgent | none => false
      let s := segMove (ddrTake s .read u (idxRange c.desc c.pos c.segEnd).1 (idxRange c.desc c.pos c.segEnd).2) u c
      let c := { c with pos := c.segEnd, moved := c.moved + (c.segEnd - c.pos), reruns := c.reruns.drop 1 }
      let s := progress (putSluice s n { getSluice s n with active := some c }) c.cmd
      if c.pos < c.hi then fetchNext s n else descEnd s n c

/-- Complete the next segment of a sluice's active chain of descriptors (R209). A chain that waits for a slot, or whose read
meets an error, does not move on. -/
def chainSegment (s : State) (n : Nat) : Out :=
  let x := getSluice s n
  match x.st, x.active with
  | .running, some c | .shadowPending, some c =>
    let r := claimFor s c
    let s := putSluice r.1 n { x with active := some r.2 }
    if r.2.stalled then .next s
    else andThen (fetchNext s n) (fun s => match (getSluice s n).active with
      | some c => if gone s c.cmd then .next s else moveSegment s n c
      | none => .next s)
  | _, _ => .next s

/-- The bounds of the parts of a transfer in transfer bytes: `unit` bytes apart (R213). -/
def partBounds (total unit width : Nat) : List (Nat × Nat) :=
  ((List.range width).map (fun i => (min total (i * unit), min total ((i + 1) * unit)))).filter (fun p => p.1 < p.2)

/-- The parts of a descriptor over WIDTH sluices (R213). -/
def descParts (d : Desc) (width : Nat) : List (Nat × Nat) :=
  let w := if width = 0 then 16 else width
  let unit :=
    match d.mode with
    | 0 => ceilDiv d.total (w * 4096) * 4096
    | 2 => ceilDiv (d.planes * d.rows) w * d.rowBytes
    | _ => ceilDiv d.rows w * d.rowBytes
  partBounds d.total unit w

/-- A command that has parts waiting for a sluice, in dispatch order (R212). -/
def waitingXfer (s : State) : Option (Cmd × SlChain × List SlChain × Nat × Nat) :=
  let l := s.cmds.filterMap (fun c => match c.work with
    | .xfer parts (w :: ws) m => some (c, w, ws, parts, m)
    | _ => none)
  l.foldl (fun a x => match a with
    | none => some x
    | some y => if x.1.order < y.1.order then some x else some y) none

/-- The first idle chip-level sluice of the scheduler (R206, R213). -/
def idleSluice (s : State) : Option Nat :=
  ((List.range 16).map (· + 128)).find? (fun n => (getSluice s n).st = .idle)

/-- Put the next waiting part on an idle sluice. -/
def xferNext (s : State) : Option State :=
  match waitingXfer s, idleSluice s with
  | some (c, w, ws, parts, m), some n =>
    some (setWork (putSluice s n { st := .running, active := some w, shadow := none }) c.id (.xfer parts ws m))
  | _, _ => none

end Sys2Proof.Machine
end

