-- ==== Sys2Proof/Machine/BermOps.lean ====
section
/-!
DEFINITION. The scheduler's berm slots: which a command may use, their allotment to items, stationary tiles that sluices
fetch into them (R66, R136, R203 to R206, R353, R358).
-/
namespace Sys2Proof.Machine

/-- The slots that a command of a class may use: 52 to 55 for priority 0, 0 to 51 otherwise (R353). -/
def slotsFor (urgent : Bool) : List Nat := if urgent then [52, 53, 54, 55] else List.range 52

/-- Slots of a core that can be allotted: EMPTY and nobody's. -/
def slotsFree (s : State) (core : Nat) (urgent : Bool) : List Nat :=
  (slotsFor urgent).filter (fun k => getSlot s (64 * core + k) = {})

/-- Allot slots of a core to an item: what they held is lost, and what the scheduler puts there has no stated layout (log
entry 5). -/
def allotSlots (s : State) (core : Nat) (id : CmdId) (item : Nat) (ks : List Nat) : State :=
  ks.foldl (fun s k => putSlot (loseSlot s (64 * core + k)) (64 * core + k) { holder := some (id, item) }) s

/-- A party of a command moves slots of a core to a state (Table 8.3). -/
def moveSlots (s : State) (core : Nat) (ks : List Nat) (st : SlotState) (claimant : Option CmdId) : State :=
  ks.foldl (fun s k =>
    putSlot s (64 * core + k) { getSlot s (64 * core + k) with st := st, claimant := claimant }) s

/-- All slots of a list are in a state. -/
def slotsAre (s : State) (core : Nat) (ks : List Nat) (st : SlotState) : Bool :=
  ks.all (fun k => (getSlot s (64 * core + k)).st = st)

/-- Slots of a core are free again. -/
def freeSlots (s : State) (core : Nat) (ks : List Nat) : State :=
  ks.foldl (fun s k => putSlot s (64 * core + k) {}) s

/-- The slots of a core that hold a tile, the one with its contents first. -/
def tileSlots (s : State) (core : Nat) (t : TileTag) : List Nat :=
  (List.range 56).filter (fun k => ((getSlot s (64 * core + k)).tile.map (·.tag)) = some t)

/-- The contents of a tile in its slots. -/
def stagedTile (s : State) (core : Nat) (t : TileTag) : Option StagedTile :=
  match tileSlots s core t with
  | [] => none
  | k :: _ => (getSlot s (64 * core + k)).tile

/-- A tile that the load port may read: its slots are FULL, or DRAINING within the port's own claim (R358). -/
def tileFull (s : State) (core : Nat) (t : TileTag) : Bool :=
  let ks := tileSlots s core t
  !ks.isEmpty && ks.all (fun k =>
    let x := getSlot s (64 * core + k)
    x.st = .full || (x.st = .draining && x.claimant = some t.cmd))

/-- The load port's claim on a tile's slots ends (R358). -/
def releaseTile (s : State) (core : Nat) (t : TileTag) : State := freeSlots s core (tileSlots s core t)

/-- Bytes of a tile by register class (Table 3.5). -/
def tileBytes (c : RegClass) (mx : Bool) : Nat :=
  (match c with
    | .single | .double4 => 65536
    | .sixBit => 49152
    | .half | .double8 | .dual6 => 131072) +
  (if mx then (if c.isDouble then 4096 else 2048) else 0)

/-- Slots of a tile. -/
def slotsOfTile (c : RegClass) (mx : Bool) : Nat := ceilDiv (tileBytes c mx) 65536

/-- The scheduler's sluices of a core for a class of command (R206, R353). -/
def coreSluices (core : Nat) (urgent : Bool) : List Nat :=
  if urgent then [8 * core + 3] else [8 * core, 8 * core + 1, 8 * core + 2]

/-- The first idle one (R212). -/
def idleCore (s : State) (core : Nat) (urgent : Bool) : Option Nat :=
  (coreSluices core urgent).find? (fun n => (getSluice s n).st = .idle)

/-- Rows of a job, and the bytes that it moves: the rows one after another, then their scales. -/
def TileJob.rows (j : TileJob) : Nat := j.present.length
def TileJob.total (j : TileJob) : Nat := j.rows * (j.rowBytes + j.scaleBytes)

/-- The scheduler takes a sluice for a tile (R206, R210): the sluice claims the tile's slots as their writer (R203). -/
def startJob (s : State) (n : Nat) (j : TileJob) : State :=
  let s := allotSlots s j.core j.tag.cmd j.tag.item j.slots
  let s := j.slots.foldl (fun s k =>
    putSlot s (64 * j.core + k) { getSlot s (64 * j.core + k) with
      st := .filling, claimant := some j.tag.cmd
      tile := some { tag := j.tag, present := j.present, kCount := j.kCount } }) s
  putSluice s n { st := .running, active := some { cmd := j.tag.cmd, desc := descOf [], lo := 0, hi := j.total, pos := 0
                                                   job := some j } }

/-- The rows that begin in the bytes [lo, hi) of a job, and the scale rows. -/
def TileJob.rowsIn (j : TileJob) (lo hi : Nat) : List Nat :=
  (List.range j.rows).filter (fun r => lo ≤ r * j.rowBytes && r * j.rowBytes < hi)
def TileJob.scalesIn (j : TileJob) (lo hi : Nat) : List Nat :=
  (List.range j.rows).filter (fun r =>
    0 < j.scaleBytes && lo ≤ j.rows * j.rowBytes + r * j.scaleBytes && j.rows * j.rowBytes + r * j.scaleBytes < hi)

/-- The device ranges that a piece of a job reads. -/
def TileJob.reads (j : TileJob) (lo hi : Nat) : List (Nat × Nat) :=
  (j.rowsIn lo hi).map (fun r => (j.x + r * j.xLd, j.rowBytes)) ++
    (j.scalesIn lo hi).map (fun r => (j.xs + r * j.xsLd, j.scaleBytes))

/-- The address at which the next piece of a tile's fetch meets an error. -/
def jobBad (s : State) (j : TileJob) (lo hi : Nat) : Option Nat :=
  if s.mem.bad.isEmpty then none
  else ((j.reads lo hi).find? (fun r => rangeBad s r.1 r.2)).map (·.1)

/-- The tile with what a piece of its fetch reads. -/
def fetchPiece (s : State) (j : TileJob) (lo hi : Nat) (t : StagedTile) : StagedTile :=
  { t with
    x := t.x ++ (j.rowsIn lo hi).map (fun r =>
      (List.range j.kCount).map (fun k => readElem s j.fmt (j.x + r * j.xLd) k))
    xs := t.xs ++ (j.scalesIn lo hi).map (fun r => (readMem s (j.xs + r * j.xsLd) j.scaleBytes).map (·.toNat)) }

/-- Complete the next piece of a tile's fetch (R209): its slots are FULL after the last one (Table 8.3). -/
def jobSegment (s : State) (n : Nat) (c : SlChain) (j : TileJob) : State :=
  let hi := c.segEnd
  if (jobBad s j c.pos hi).isSome then s
  else
    let u := match findCmd s c.cmd with | some k => k.urgent | none => false
    let s := takeReads s u (j.reads c.pos hi)
    let s := match j.slots with
      | [] => s
      | k :: _ =>
        let x := getSlot s (64 * j.core + k)
        putSlot s (64 * j.core + k) { x with tile := x.tile.map (fetchPiece s j c.pos hi) }
    let s := progress s c.cmd
    if hi < c.hi then
      putSluice s n { getSluice s n with active := some { c with pos := hi, moved := c.moved + (hi - c.pos), reruns := c.reruns.drop 1 } }
    else moveSlots (sluiceNext s n) j.core j.slots .full none

/-- Complete the next segment of a sluice: of a tile that the scheduler fetches, or of a chain of descriptors (R209). -/
def runSegment (s : State) (n : Nat) : Out :=
  match (getSluice s n).active with
  | none => .next s
  | some c => match c.job with
    | some j => .next (jobSegment s n c j)
    | none => chainSegment s n

end Sys2Proof.Machine
end

