-- ==== Sys2Proof/Machine/ArrWork.lean ====
section
/-!
DEFINITION. Products, tiles, items, weight chains and grants (R110 to R138).
-/
namespace Sys2Proof.Machine

/-- N tiles of the menu by code (Table 5.1). -/
def nTileOf (code : Nat) : Nat := 128 * 2 ^ code

/-- A_cmd of an array, or A_res for a priority-0 command (R116, R354, R355). -/
def accAvail (s : State) (urgent : Bool) : Nat :=
  let r := 65536 * s.err.reserveActive.toNat
  if urgent then r else 4194304 - r

/-- The effective N tile (R119). -/
def effTileOf (code lim : Nat) : Nat :=
  if lim < 128 then lim
  else ([2048, 1024, 512, 256, 128].find? (fun t => t ≤ nTileOf code && t ≤ lim)).getD 128

/-- Set a product's effective tile and the width of its N ranges from the accumulator bytes it may use: strips under KN,
N tiles under NK (R118, R119). In S2 nothing goes to the accumulator (R70, R147), which then limits nothing: the tile is
N_TILE's and KN has one range (log entry 103). -/
def Prod.cut (p : Prod) (accRows avail : Nat) : Prod :=
  if p.shape = 2 then { p with effTile := nTileOf p.nTile, range := if p.nk then nTileOf p.nTile else max 1 p.n }
  else
    let lim := avail / (accRows * 4)
    let t := effTileOf p.nTile lim
    { p with effTile := t, range := if p.nk then t else t * (lim / t) }

/-- Strips of a product: 1 under NK (R119). -/
def Prod.strips (p : Prod) : Nat := if p.nk then 1 else ceilDiv p.n p.range

/-- The register class of a product's pairing. -/
def Prod.cls (p : Prod) : RegClass := (pairing p.xFmt p.wFmt).getD .single

/-- An integer pairing. -/
def Prod.int (p : Prod) : Bool := isInt p.xFmt

/-- Is the work the transposed product. -/
def ArrayWork.transposed (w : ArrayWork) : Bool := w.kind = .gemmT

/-- Row tiles of a product (R114), output blocks of `GEMM_T` (R122). -/
def prodTiles (t : Bool) (p : Prod) : Nat := if t then ceilDiv p.k 512 else ceilDiv p.m (rowsOf p.shape)

/-- K slices of a product (R114), M slices of `GEMM_T` (R122). -/
def prodSlices (t : Bool) (p : Prod) : Nat := if t then ceilDiv p.m 128 else ceilDiv p.k (sliceOf p.shape p.cls)

/-- N ranges of a product; an entry with M, N or K of 0 has none (R123). -/
def prodRanges (p : Prod) : Nat := if p.m = 0 || p.n = 0 || p.k = 0 then 0 else ceilDiv p.n p.range

/-- Accumulator rows of an item (Table 5.4). -/
def accRows (t : Bool) (shape : Nat) : Nat := if t then 512 else rowsOf shape

/-- The control part of Table 5.1 with an operand descriptor of Table 5.2. -/
def prodOf (ctl d : List Byte) (entry : Nat) : Prod :=
  let f := fieldLe ctl 7 1
  { xFmt := fieldLe ctl 0 1 % 16, wFmt := fieldLe ctl 1 1 % 16, yCvt := fieldLe ctl 2 1, initFmt := fieldLe ctl 3 1 % 16
    shape := fieldLe ctl 4 1, nTile := fieldLe ctl 5 1, nk := fieldLe ctl 6 1 = 1, initEn := bitOf f 0
    wKmajor := bitOf f 1, rowMaskEn := bitOf f 2, rsId := fieldLe ctl 12 2
    x := fieldLe d 0 8, w := fieldLe d 8 8, y := fieldLe d 16 8, xs := fieldLe d 24 8, ws := fieldLe d 32 8
    ys := fieldLe d 40 8, init := fieldLe d 48 8, rowMask := fieldLe d 56 8, m := fieldLe d 64 4, n := fieldLe d 68 4
    k := fieldLe d 72 4, xLd := fieldLe d 76 4, wLd := fieldLe d 80 4, yLd := fieldLe d 84 4, initLd := fieldLe d 88 4
    entry := entry }

/-- Values of the control part that Table 5.1 allows. X_FMT, W_FMT and INIT_FMT have their code in bits [3:0]; bits [7:4], of
which the table says nothing, have no effect (DESIGN CHOICE, log entry 140). -/
def ctlOk (ctl : List Byte) (t : Bool) : Bool :=
  let sh := fieldLe ctl 4 1
  fieldLe ctl 0 1 % 16 < 0xD && fieldLe ctl 1 1 % 16 < 0xD && fieldLe ctl 2 1 < 64 && fieldLe ctl 2 1 % 16 < 0xD &&
    (!(bitOf (fieldLe ctl 7 1) 0) || fieldLe ctl 3 1 % 16 < 0xD) &&
    (if t then sh = 1 else sh = 1 || sh = 3 || sh = 4 || sh = 5) && fieldLe ctl 5 1 ≤ 4 && fieldLe ctl 6 1 ≤ 1 &&
    fieldLe ctl 7 1 < 8 && fieldLe ctl 8 1 ≤ 16 && fieldLe ctl 9 1 = 0 && fieldLe ctl 14 2 = 0

/-- The formats of a product: a pairing of Table 4.3; R74 for the transposed read. -/
def fmtsOk (p : Prod) (t : Bool) : Bool :=
  (pairing p.xFmt p.wFmt).isSome &&
    (!t || (p.xFmt = p.wFmt && (p.xFmt = 0x3 || p.xFmt = 0x4 || p.xFmt = 0xA || p.xFmt = 0x1 || p.xFmt = 0x2)))

/-- A tensor of rows lies in ranges that a command may reach. -/
def tensorOk (rd : Nat → Nat → Bool) (base ld rows bytes : Nat) : Bool :=
  rd base ((rows - 1) * ld + bytes) || (List.range rows).all (fun t => rd (base + t * ld) bytes)

/-- Bytes of scales in a row of MX blocks. -/
def scaleRow (n : Nat) : Nat := ceilDiv n 32

/-- Columns of a full column block of a product (R62); an effective tile below 128 columns is one block (R119; log entry
104). -/
def Prod.blockCols (p : Prod) : Nat := if p.effTile < 128 then p.effTile else Sys2Proof.Machine.blockCols p.shape p.cls

/-- Column blocks of `n` columns, in passes of an N tile each. -/
def Prod.blocks (p : Prod) (n : Nat) : Nat :=
  n / p.effTile * ceilDiv p.effTile p.blockCols + ceilDiv (n % p.effTile) p.blockCols

/-- Limits of Table 5.3 that can be read from one descriptor; `whole`: an item runs every N range, as a stage of a `CHAIN`
does (R141). -/
def limitsOk (p : Prod) (t whole : Bool) : Bool :=
  1 ≤ p.m && p.m ≤ 2 ^ 24 && 1 ≤ p.n && p.n ≤ 2 ^ 24 && 1 ≤ p.k && p.k ≤ 2 ^ 24 && prodTiles t p ≤ 2 ^ 20 &&
    prodSlices t p * p.blocks (if whole then p.n else min p.n p.range) ≤ 2 ^ 20

/-- Alignment of the stationary operand, when it lies in memory. -/
def xOk (p : Prod) (t : Bool) : Bool :=
  p.x % 64 = 0 && p.xLd % 64 = 0 && (t || !isMx p.xFmt || p.xs % 8 = 0) &&
    tensorOk rangeRead p.x p.xLd p.m (fmtBytes p.xFmt p.k) &&
    (t || !isMx p.xFmt || rangeRead p.xs (p.m * scaleRow p.k))

/-- Alignment and reach of the streamed operand. -/
def wOk (p : Prod) (t : Bool) : Bool :=
  p.w % 64 = 0 && p.wLd % 64 = 0 && (!isMx p.wFmt || p.ws % 8 = 0) &&
    (if t then tensorOk rangeRead p.w p.wLd p.m (fmtBytes p.wFmt p.n)
      else if p.wKmajor then tensorOk rangeRead p.w p.wLd p.k (fmtBytes p.wFmt p.n)
      else tensorOk rangeRead p.w p.wLd p.n (fmtBytes p.wFmt p.k)) &&
    (t || !isMx p.wFmt || rangeRead p.ws (p.n * scaleRow p.k))

/-- Alignment and reach of an output of `rows` rows and `n` columns. -/
def yOk (y ld ys cvt rows n : Nat) : Bool :=
  y % 64 = 0 && ld % 64 = 0 && tensorOk rangeOk y ld rows (fmtBytes (cvt % 16) (if isMx (cvt % 16) then roundUp n 32 else n)) &&
    (!isMx (cvt % 16) || (ys % 8 = 0 && rangeOk ys (rows * scaleRow n)))

/-- The run [a, a + n) shares a byte with some row of a tensor: with the last row that begins below its end, the one that
reaches furthest. -/
def meetsRows (a n y ld rows bytes : Nat) : Bool :=
  0 < n && 0 < bytes && 0 < rows && y < a + n && a < y + min (rows - 1) ((a + n - 1 - y) / ld) * ld + bytes

/-- Some row of one tensor shares a byte with a row of another. -/
def tensorsMeet (a aLd aRows aBytes y ld rows bytes : Nat) : Bool :=
  (List.range aRows).any (fun r => meetsRows (a + r * aLd) aBytes y ld rows bytes)

/-- Bytes of an output row of `n` columns. -/
def outRowBytes (cvt n : Nat) : Nat := fmtBytes (cvt % 16) (if isMx (cvt % 16) then roundUp n 32 else n)

/-- Alignment and reach of the initial values; they share bytes with Y only as Table 5.3 allows. -/
def initOk (p : Prod) (rows n : Nat) : Bool :=
  !p.initEn || (p.initFmt < 0xD && p.init % 64 = 0 && p.initLd % 64 = 0 &&
    tensorOk rangeRead p.init p.initLd rows (fmtBytes p.initFmt n) &&
    (!isMx p.initFmt || (p.ys % 8 = 0 && rangeRead p.ys (rows * scaleRow n))) &&
    ((p.init = p.y && p.initLd = p.yLd && p.initFmt = p.yCvt % 16) ||
      !tensorsMeet p.init p.initLd rows (fmtBytes p.initFmt n) p.y p.yLd rows (outRowBytes p.yCvt n)))

/-- X, W, scale and mask regions share no byte with Y (Table 5.3), the scales of Y or of the initial values among them. `ownX`:
the stationary operand lies in memory. -/
def apartOk (p : Prod) (t ownX : Bool) (rows n : Nat) : Bool :=
  let y := fun (a ld k b : Nat) => !tensorsMeet a ld k b p.y p.yLd rows (outRowBytes p.yCvt n)
  (!ownX || y p.x p.xLd p.m (fmtBytes p.xFmt p.k)) &&
    (if t then y p.w p.wLd p.m (fmtBytes p.wFmt p.n)
      else if p.wKmajor then y p.w p.wLd p.k (fmtBytes p.wFmt p.n) else y p.w p.wLd p.n (fmtBytes p.wFmt p.k)) &&
    (t || !ownX || !isMx p.xFmt || y p.xs 0 1 (p.m * scaleRow p.k)) &&
    (t || !isMx p.wFmt || y p.ws 0 1 (p.n * scaleRow p.k)) && (!p.rowMaskEn || y p.rowMask 0 1 (ceilDiv p.m 8)) &&
    (!(isMx (p.yCvt % 16) || (p.initEn && isMx p.initFmt)) || y p.ys 0 1 (rows * scaleRow n))

/-- The row mask is readable. -/
def maskOk (en : Bool) (a m : Nat) : Bool := !en || (a % 8 = 0 && rangeRead a (ceilDiv m 8))

/-- Every limit of a product that is checked before it runs (Table 5.3). -/
def prodOk (p : Prod) (t : Bool) : Bool :=
  let rows := if t then p.k else p.m
  fmtsOk p t && limitsOk p t false && xOk p t && wOk p t && yOk p.y p.yLd p.ys p.yCvt rows p.n && initOk p rows p.n &&
    apartOk p t true rows p.n && maskOk p.rowMaskEn p.rowMask p.m

/-- The snake order of cores (R129). -/
def snake : List Nat := [0, 1, 2, 3, 7, 6, 5, 4, 8, 9, 10, 11, 15, 14, 13, 12]

/-- Cores eligible under a CORE_MASK: every core in service when it is 0 (R129). -/
def eligible (s : State) (mask : Nat) : List Nat :=
  snake.filter (fun c => if mask = 0 then coreIn s c else bitOf mask c)

/-- Named cores that are not in service (Table 2.8). -/
def coresMissing (s : State) (mask : Nat) : Nat := mask &&& (65535 - coreMask s)

/-- Cut a list of cores into chains of length L and a shorter rest (R129). -/
def cutChains : Nat → Nat → List Nat → List WChain
  | 0, _, _ => []
  | f + 1, L, l => if l.isEmpty || L = 0 then [] else { members := l.take L } :: cutChains f L (l.drop L)

/-- Form the chains of a command (R129). -/
def formChains (cores : List Nat) (L : Nat) : List WChain := cutChains 16 L cores

/-- Whether a work's chains are single cores (R164, R175). -/
def ArrKind.soloChains : ArrKind → Bool
  | .vector | .attendA => true
  | _ => false

/-- Query heads, tokens per tile and row tiles of a sequence and KV head of `ATTEND` (R165, R177). -/
def AttPar.tau (a : AttPar) : Nat := 128 / a.g

/-- TWO_PASS of AFLAGS. -/
def AttPar.twoPass (a : AttPar) : Bool := bitOf a.aflags 5

def attTiles (a : AttPar) (q : SeqDesc) : Nat := ceilDiv q.c (a.tau)

/-- Items of each (entry, range) group of a work, in numbering order: entry, range and item count (R124, R140, R164,
R175, R177). -/
def itemGroups (w : ArrayWork) : List (Nat × Nat × Nat) :=
  match w.kind with
  | .gemm | .gemmT =>
    (w.prods.zipIdx).flatMap (fun p =>
      (List.range (prodRanges p.1)).map (fun r => (p.2, r, prodTiles w.transposed p.1)))
  | .chain => [(0, 0, ceilDiv w.par.m (rowsOf w.par.shape))]
  | .vector => [(0, 0, ceilDiv w.par.m 128)]
  | .attendA => (w.seqs.zipIdx).map (fun q => (q.2, 0, ceilDiv q.1.c 128))
  | .attendB =>
    (w.seqs.zipIdx).flatMap (fun q =>
      if q.1.c = 0 then [] else (List.range w.att.hkv).map (fun h => (q.2, h, attTiles w.att q.1)))

/-- Number of items. -/
def itemCount (w : ArrayWork) : Nat := (itemGroups w).foldl (fun a g => a + g.2.2) 0

/-- Find an item's entry, range and tile. -/
def locateIn : List (Nat × Nat × Nat) → Nat → Option (Nat × Nat × Nat)
  | [], _ => none
  | (e, r, n) :: t, i => if i < n then some (e, r, i) else locateIn t (i - n)

/-- Entry, range and tile of an item (R124). -/
def locate (w : ArrayWork) (i : Nat) : Nat × Nat × Nat := (locateIn (itemGroups w) i).getD (0, 0, 0)

/-- Items stream together only within one range; single-core chains take any two (R125, R164). -/
def sameRange (w : ArrayWork) (i j : Nat) : Bool :=
  w.kind.soloChains || ((locate w i).1 = (locate w j).1 && (locate w i).2.1 = (locate w j).2.1)

/-- The items of the next grant from a list: at most `size`, of the first one's range, so that a returned group which spans
ranges is granted in parts (R125, R128; DESIGN CHOICE, log entry 128). -/
def takeGrant (w : ArrayWork) (size : Nat) (l : List Nat) : List Nat :=
  match l with
  | [] => []
  | i :: _ => (l.take size).takeWhile (sameRange w i)

/-- Items per request of a chain of L cores (R125, R164, R178). -/
def grantSize (w : ArrayWork) (L : Nat) : Nat := if w.kind = .attendB then L else 2 * L

/-- The first `n` items that the counter has not granted. -/
def fromCounter (w : ArrayWork) (n : Nat) : List Nat :=
  (List.range (min n (itemCount w - w.counter))).map (w.counter + ·)

/-- In repeatable mode: the items of grants g, g + 1, … over what is left, by the chains' lengths; chain `j`'s `k`-th
grant (R138). -/
def staticGrant (w : ArrayWork) (C : Nat) : Nat → Nat → List Nat → Nat → List Nat
  | 0, _, _, _ => []
  | f + 1, g, l, want =>
    let L := ((w.chains[g % C]?).map (fun c => c.members.length)).getD 1
    let t := takeGrant w (grantSize w L) l
    if g = want then t else staticGrant w C f (g + 1) (l.drop t.length) want

/-- Everything that static grants are formed from, since dispatch or since a core was last lost (R138). -/
def staticPool (w : ArrayWork) : List Nat := w.pool.getD (List.range (itemCount w))

/-- The grant that a request of chain `j` obtains: of the items returned first, as many as were returned together and the
request takes, then from the counter; in repeatable mode the chain's own next grant (R125, R128, R138). -/
def nextGrant (s : State) (w : ArrayWork) (j : Nat) : List Nat :=
  match w.chains[j]? with
  | none => []
  | some c =>
    if s.lock.repeatable then
      let C := w.chains.length
      staticGrant w C (itemCount w + 1) 0 (staticPool w) (j + C * c.taken)
    else
      let n := grantSize w c.members.length
      match w.returned with
      | [] => takeGrant w n (fromCounter w n)
      | l :: _ => takeGrant w n l

/-- The work after a grant is taken. -/
def afterGrant (s : State) (w : ArrayWork) (j : Nat) (g : List Nat) : ArrayWork :=
  let w := { w with grants := w.grants + 1 }
  match w.chains[j]? with
  | none => w
  | some c =>
    if s.lock.repeatable then { w with chains := listSet w.chains j { c with taken := c.taken + 1 }, once := w.once ++ g }
    else match w.returned with
      | [] => { w with counter := w.counter + g.length }
      | l :: t => { w with returned := if l.length ≤ g.length then t else l.drop g.length :: t }

/-- Items still to be granted: in repeatable mode those that are neither held nor finished. -/
def ungranted (s : State) (w : ArrayWork) : List Nat :=
  if s.lock.repeatable then
    (List.range (itemCount w)).filter (fun i => !(w.items.any (fun x => x.idx = i)) && !(w.finished.contains i))
  else w.returned.flatten ++ fromCounter w (itemCount w)

/-- Something is still to be granted: of phase A of an `ATTEND`, phase B's items as well (R134, R175). -/
def leftToGrant (s : State) (w : ArrayWork) : Bool :=
  !(ungranted s w).isEmpty || (w.kind = .attendA && 0 < itemCount { w with kind := .attendB })

/-- The work after items have been returned together, in ascending order (R128). Groups returned at different times are granted
in the order of their return (DESIGN CHOICE, log entry 128). In repeatable mode grants are formed again
over all the items that have been returned and are not granted again, then those never granted (R138). -/
def returnItems (s : State) (w : ArrayWork) (gone : List Nat) : ArrayWork :=
  let up := fun (l : List Nat) => l.mergeSort (fun a b => a ≤ b)
  if s.lock.repeatable then
    let rest := ungranted s w
    { w with
      pool := some (up (rest.filter w.once.contains) ++ up (rest.filter (fun i => !w.once.contains i)))
      chains := w.chains.map (fun c => { c with taken := 0 }) }
  else if gone.isEmpty then w
  else { w with returned := w.returned ++ [up gone] }

/-- The work of an array command in flight. -/
def arrayWork (s : State) (id : CmdId) : Option (Cmd × ArrayWork) :=
  match findCmd s id with
  | none => none
  | some c => match c.work with
    | .array w => some (c, w)
    | _ => none

/-- Replace the work of an array command. -/
def setArray (s : State) (id : CmdId) (w : ArrayWork) : State := setWork s id (.array w)

/-- Change one item of an array command. -/
def modItem (s : State) (id : CmdId) (idx : Nat) (f : Item → Item) : State :=
  modCmd s id (fun c => { c with work := match c.work with
    | .array w => .array { w with items := w.items.map (fun x => if x.idx = idx then f x else x) }
    | w => w })

/-- An item of an array command. -/
def getItem (s : State) (id : CmdId) (idx : Nat) : Option (Cmd × ArrayWork × Item) :=
  match arrayWork s id with
  | none => none
  | some (c, w) => (w.items.find? (fun x => x.idx = idx)).map (fun x => (c, w, x))

/-- The passes of one product over an N range: for each slice in ascending order, the N tiles in ascending order (R117,
R118). -/
def rangePasses (prod slices tile n0 n1 : Nat) : List PassSpec :=
  (List.range slices).flatMap (fun k =>
    (List.range (ceilDiv (n1 - n0) tile)).map (fun i =>
      { load := { prod := prod, slice := k }, n0 := n0 + i * tile, w := min tile (n1 - (n0 + i * tile))
        last := k + 1 = slices }))

/-- The tiles that a list of passes needs, in order: one for each change of tile (R117, R118). -/
def loadsOf : List PassSpec → List LoadSpec
  | [] => []
  | [p] => [p.load]
  | p :: q :: t => if p.load = q.load then loadsOf (q :: t) else p.load :: loadsOf (q :: t)

/-- Stage width of a product (R141, R145). -/
def Prod.width (p : Prod) : Nat := if p.pair then p.n / 2 else p.n

/-- 64 KiB units of an area of R rows, `n` values in a format with its scales (R143, R148). -/
def areaUnits (rows n fmt : Nat) : Nat :=
  ceilDiv (ceilDiv (rows * n * fmtBits fmt) 8 + (if isMx fmt then rows * scaleRow n else 0)) 65536

/-- Units of a `CHAIN`'s prologue area and hand-over area (R143, R148). -/
def proUnits (w : ArrayWork) : Nat :=
  if bitOf w.par.stageMask 0 then areaUnits (rowsOf w.par.shape) (w.prods.headD {}).k (w.par.inCvt % 16) else 0
def handUnits (w : ArrayWork) : Nat :=
  if bitOf w.par.stageMask 1 then
    areaUnits (rowsOf w.par.shape) (w.prods.headD {}).width ((w.prods.headD {}).yCvt % 16)
  else 0

/-- The accumulator strips of a `CHAIN` item in the order of their allocation: product and range (R144); none in S2 (R147). -/
def chainStrips (w : ArrayWork) : List (Nat × Nat) :=
  (w.prods.zipIdx).flatMap (fun p =>
    if p.1.shape = 2 then [] else (List.range (prodRanges p.1)).map (fun i => (p.2, i)))

/-- Accumulator units of a strip. -/
def stripUnits (w : ArrayWork) (k : Nat × Nat) : Nat :=
  let p := w.prods.getD k.1 {}
  ceilDiv (rowsOf p.shape * 4 * min p.range (p.n - k.2 * p.range)) 65536

/-- Units that a `CHAIN` item holds beside its strips: the hand-over area in the accumulator tier, and in S2, where the stage
has no strip, the resident held values (log entry 103). -/
def chainFixed (w : ArrayWork) : Nat :=
  let p := w.prods.getLast?.getD {}
  (if w.par.handTier = 2 then handUnits w else 0) +
    (if p.shape = 2 && p.hold && !w.par.heldSpilled then ceilDiv (rowsOf p.shape * p.width * 4) 65536 else 0)

/-- All passes of a stage of a CHAIN: its ranges in ascending N order (R144). -/
def stagePasses (prod : Nat) (p : Prod) : List PassSpec :=
  (List.range (prodRanges p)).flatMap (fun i =>
    rangePasses prod (prodSlices false p) p.effTile (i * p.range) (min p.n ((i + 1) * p.range)))

/-- Accumulator units that an item holds from its grant to its end (R116, R144, R179). -/
def itemUnits (w : ArrayWork) (entry width : Nat) : Nat :=
  match w.kind with
  | .vector | .attendA => 0
  | .chain => chainFixed w
  | .attendB => 3 * ceilDiv (512 * w.att.d) 65536
  | _ =>
    let p := w.prods.getD entry {}
    ceilDiv (accRows w.transposed p.shape * 4 * width) 65536

/-- A new item of a grant (R114, R132, R140, R177). -/
def mkItem (w : ArrayWork) (idx core arr chain head len grant : Nat) : Item :=
  let l := locate w idx
  let base : Item :=
    { idx := idx, core := core, arr := arr, chain := chain, entry := l.1, tile := l.2.2, n0 := 0, n1 := 0
      head := head, chainLen := len, grant := grant }
  match w.kind with
  | .gemm | .gemmT =>
    let p := w.prods.getD l.1 {}
    let n0 := l.2.1 * p.range
    let n1 := min p.n (n0 + p.range)
    let ps := rangePasses l.1 (prodSlices w.transposed p) p.effTile n0 n1
    { base with n0 := n0, n1 := n1, passes := ps, units := itemUnits w l.1 (n1 - n0) }
  | .chain =>
    { base with
      stage := if bitOf w.par.stageMask 0 then 0 else 1
      passes := (w.prods.zipIdx).flatMap (fun p => stagePasses p.2 p.1)
      stripsTaken := min 1 (chainStrips w).length, strips := (chainStrips w).take 1, units := itemUnits w 0 0 }
  | .attendB => { base with head := head, n0 := l.2.1, units := itemUnits w 0 0 }
  | _ => base

/-- The threads a command may take on a core: T7 for priority 0, T0 to T6 otherwise (R134, R353). -/
def threadsFor (urgent : Bool) : List Nat := if urgent then [7] else [0, 1, 2, 3, 4, 5, 6]

/-- The command holds a thread on a core. -/
def holdsThread (k : Core) (id : CmdId) : Bool := k.threads.any (fun p => p.2.1 = id)

/-- A thread that the command could take. -/
def freeThread (k : Core) (urgent : Bool) : Option Nat :=
  (threadsFor urgent).find? (fun t => !(k.threads.any (fun p => p.1 = t)))

/-- A core has held a thread of a phase class since the last slow-loop boundary (R338). -/
def noteClass (s : State) (core : Nat) (id : CmdId) : State :=
  match findCmd s id with
  | none => s
  | some c =>
    let x := getPower s core
    let k := c.hdr.phase.toNat
    if x.classes.contains k then s else putPower s core { x with classes := k :: x.classes }

/-- Take a thread on a core, if none is held. -/
def takeThread (s : State) (core : Nat) (id : CmdId) (urgent : Bool) : State :=
  let k := getCore s core
  if holdsThread k id then s
  else match freeThread k urgent with
    | some t => noteClass (touchAcc (putCore s core { k with threads := tabSet k.threads t (id, 0) }) core) core id
    | none => s

/-- Every item in flight on a core, with its command and work. -/
def itemsOn (s : State) (core : Nat) : List (Cmd × ArrayWork × Item) :=
  s.cmds.flatMap (fun c => match c.work with
    | .array w => (w.items.filter (fun x => x.core = core)).map (fun x => (c, w, x))
    | _ => [])

/-- An item uses an array: an `ATTEND` item uses both (R179). -/
def Item.uses (x : Item) (k : ArrKind) (arr : Nat) : Bool := x.arr = arr || k = .attendB

/-- An item uses the one statistics buffer of its class of an array: an `ATTEND` item TA1's (R156, R179). An item of `CHAIN` or
`VECTOR` takes it whether or not a program uses a slot (DESIGN CHOICE, log entry 142). -/
def usesStats (w : ArrayWork) (x : Item) (arr : Nat) : Bool :=
  match w.kind with
  | .gemm | .gemmT => false
  | .attendB => arr = 1
  | _ => x.arr = arr

/-- Accumulator units that an item holds on an array (R116, R144, R179). -/
def unitsOn (w : ArrayWork) (x : Item) (arr : Nat) : Nat :=
  if w.kind = .attendB then (if arr = 1 then x.units else if 128 < w.att.d then 8 else 0)
  else if x.arr = arr then x.units + (x.strips.map (stripUnits w)).sum else 0

/-- Accumulator units that items of a class hold on an array. -/
def unitsHeld (s : State) (core arr : Nat) (urgent : Bool) : Nat :=
  (itemsOn s core).foldl (fun a x => if x.1.urgent = urgent then a + unitsOn x.2.1 x.2.2 arr else a) 0

/-- An array can take an item (R135, R144, R179). -/
def arrayCanTake (s : State) (c : Cmd) (w : ArrayWork) (x : Item) (arr : Nat) : Bool :=
  !(x.uses w.kind arr) ||
    ((unitsHeld s x.core arr c.urgent + unitsOn w x arr) * 65536 ≤ accAvail s c.urgent &&
      (!usesStats w x arr ||
        !((itemsOn s x.core).any (fun y => y.1.urgent = c.urgent && usesStats y.2.1 y.2.2 arr))))

/-- The items of a grant on the members of a chain (R132, R164, R178). -/
def grantItems (w : ArrayWork) (j : Nat) (members : List Nat) (g : List Nat) : List Item :=
  let head := members.headD 0
  (g.zipIdx).map (fun p =>
    if w.kind = .attendB then mkItem w p.1 (members.getD p.2 0) 0 j head members.length w.grants
    else mkItem w p.1 (members.getD (p.2 / 2) 0) (p.2 % 2) j head members.length w.grants)

/-- A strip of a `CHAIN` item that can be allocated now: the next in order, with at most two of its stage held at once, when
the array's accumulator can take it beside what all items of the class hold there (R116, R144; DESIGN CHOICE, log entry 141). -/
def nextStrip (s : State) (c : Cmd) (w : ArrayWork) (x : Item) : Option (Nat × Nat) :=
  match (chainStrips w)[x.stripsTaken]? with
  | none => none
  | some k =>
    if x.strips.countP (fun h => h.1 = k.1) < 2 &&
        (unitsHeld s x.core x.arr c.urgent + stripUnits w k) * 65536 ≤ accAvail s c.urgent then some k
    else none

/-- Allocate the strips of a command's items that can be allocated (R144). -/
def takeStrips (s : State) (id : CmdId) (idx : Nat) : State :=
  match getItem s id idx with
  | none => s
  | some (c, w, x) =>
    if w.kind != .chain then s
    else match nextStrip s c w x with
      | none => s
      | some k => modItem s id idx (fun x => { x with stripsTaken := x.stripsTaken + 1, strips := x.strips ++ [k] })

/-- The strip of a pass is allocated (R144). -/
def stripThere (w : ArrayWork) (x : Item) (p : PassSpec) : Bool :=
  let q := w.prods.getD p.load.prod {}
  w.kind != .chain || q.shape = 2 || x.strips.contains (p.load.prod, p.n0 / q.range)

end Sys2Proof.Machine
end

