-- ==== Sys2Proof/Machine/LockOps.lean ====
section
/-!
DEFINITION. The checksum of digests (R320), lock-step digests (R320 to R322), the completion of a command that has no items.
-/
namespace Sys2Proof.Machine

/-- One bit of CRC-64 with the ECMA-182 polynomial, no reflection (R320). -/
def crc64Bit (c : BitVec 64) : BitVec 64 := if c.msb then (c <<< 1) ^^^ 0x42F0E1EBA9EA3693#64 else c <<< 1

/-- One byte of CRC-64. -/
def crc64Byte (c : BitVec 64) (b : Byte) : BitVec 64 :=
  let x := c ^^^ (b.zeroExtend 64 <<< 56)
  crc64Bit (crc64Bit (crc64Bit (crc64Bit (crc64Bit (crc64Bit (crc64Bit (crc64Bit x)))))))

/-- CRC-64 of bytes: initial value 0, no final inversion (R320). -/
def crc64 (b : List Byte) : BitVec 64 := b.foldl crc64Byte 0

/-- A message to the lock-step partner on VC 0: PAIR 0x25, UNPAIR 0x26, DIGEST 0x27, DIVERGE 0x28 (log entry 20). -/
def partnerPacket (s : State) (kind : Nat) (payload : List Byte) : Packet :=
  { ctlPacket s kind s.lock.partner with payload := payload }

/-- End a command with `DIVERGED` and an item's coordinates, with a record of class 0x22; none of its digests is compared again
(R322). -/
def endDiverged (s : State) (id : CmdId) (tile : Nat) : State :=
  match findCmd s id with
  | none => s
  | some c =>
    let s := { s with lock := { s.lock with own := s.lock.own.filter (fun d => d.cmd != some c.id) } }
    postEnding s id { status := .diverged, rank := 9, cause := none, tile := tile } (fun s c sev =>
      logFault s 0x22 sev 0 0 (some c) 0 tile 0)

/-- The inlet, sequence and item of a digest as a message carries them. -/
def digestName (d : Digest) : List Byte := leBytes 2 d.inlet ++ leBytes 8 d.seq ++ leBytes 8 d.item

/-- Two digests of the same inlet, sequence and item meet (R321): the comparison counts; the first mismatch of a command in
flight ends it and tells the partner (R322). -/
def meetDigests (s : State) (own theirs : Digest) : State :=
  let s := { s with lock := { s.lock with compared := s.lock.compared + 1 } }
  if own.value = theirs.value then s
  else match own.cmd with
    | some id =>
      if (findCmd s id).isSome then
        endDiverged (routeCtl s (partnerPacket s 0x28 (digestName own))) id own.tile
      else s
    | none => s

/-- Digests name the same item. -/
def sameItem (a b : Digest) : Bool := a.inlet = b.inlet && a.seq = b.seq && a.item = b.item

/-- A digest of an item of this module (R320, R321): it is sent to the partner and compared with the partner's own, or
waits for it. -/
def ownDigest (s : State) (d : Digest) : State :=
  let s := routeCtl s (partnerPacket s 0x27 (digestName d ++ leBytes 8 d.value.toNat))
  match s.lock.theirs.find? (sameItem d) with
  | some t => meetDigests { s with lock := { s.lock with theirs := s.lock.theirs.erase t } } d t
  | none => { s with lock := { s.lock with own := s.lock.own ++ [d] } }

/-- A digest of the partner. -/
def theirDigest (s : State) (d : Digest) : State :=
  match s.lock.own.find? (sameItem d) with
  | some o => meetDigests { s with lock := { s.lock with own := s.lock.own.erase o } } o d
  | none => { s with lock := { s.lock with theirs := s.lock.theirs ++ [d] } }

/-- The commands whose DETAIL or output reports time, history or identity (R320): TIDE_LAUNCH, DIKE, QUERY, EXPORT_BIND,
ATTEST. -/
def statusOnly (op : Nat) : Bool := [0x0006, 0x0005, 0x0013, 0x0307, 0x0500].contains op

/-- What the one digest of a command without items covers (R320): its outputs in device memory or, where it has none,
STATUS and DETAIL; STATUS alone for the exceptions. -/
def digestBytes (s : State) (c : Cmd) (st : Status) (detail : Nat) : List Byte :=
  if statusOnly c.hdr.opcode.toNat then leBytes 1 st.code
  else if c.outs.isEmpty then leBytes 1 st.code ++ leBytes 8 detail
  else c.outs.flatMap (fun r => readMem s r.1 r.2)

/-- The one digest of a lock-step command that has no items, once (R320). -/
def cmdDigest (s : State) (id : CmdId) (st : Status) (detail : Nat) : State :=
  match findCmd s id with
  | none => s
  | some c =>
    if flagSet c.hdr 3 && s.lock.established && !isHeld c && !c.digested then
      ownDigest (modCmd s id (fun c => { c with digested := true }))
        { inlet := c.inlet, seq := c.lockSeq, item := 0, value := crc64 (digestBytes s c st detail), cmd := some id }
    else s

/-- Complete a command that has no items: its lock-step digest (R320), then its end. -/
def finish (s : State) (id : CmdId) (st : Status) (detail : Nat) : State := endCmd (cmdDigest s id st detail) id st detail

/-- A digest of a command has not met the partner's yet (R321): the command cannot complete with `OK` (R322; log entry 115). -/
def digestWaits (s : State) (id : CmdId) : Bool := s.lock.own.any (fun d => d.cmd = some id)

/-- The own count at which the offset estimate of a module in TRACKING places the master's tick `n`; the tick itself
otherwise (R317, R318). -/
def masterAt (s : State) (n : Nat) : Nat :=
  if s.tide.st = .tracking then (-((-(40 * (n : Int) + s.tide.offset)) / 40)).toNat else n

end Sys2Proof.Machine
end

