-- ==== Sys2Proof/Machine/ArrRun.lean ====
section
/-!
DEFINITION. Running the passes of products: stationary tiles, starts, column blocks, outputs of GEMM, the end of an item
(R55 to R68, R75 to R79, R112, R114, R117, R120, R136, R137, R308).
-/
namespace Sys2Proof.Machine

/-- Key of a row and column, and of a value by slot or operation, row and column. -/
def rc (row col : Nat) : Nat := row * 2 ^ 24 + col
def prc (p row col : Nat) : Nat := (p * 128 + row) * 2 ^ 24 + col

/-- A token is present: below M and not masked (R114). -/
def tokenPresent (s : State) (en : Bool) (mask m t : Nat) : Bool :=
  t < m && (!en || bitOf (readByte s (mask + t / 8)).toNat (t % 8))

/-- The first token of a tile, and the K positions that the predicate leaves of a slice (R114, R122). -/
def tileToken (t : Bool) (p : Prod) (tile slice : Nat) : Nat := if t then 128 * slice else tile * rowsOf p.shape
def tileK0 (t : Bool) (p : Prod) (tile slice : Nat) : Nat := if t then 512 * tile else slice * sliceOf p.shape p.cls
def tileKCount (t : Bool) (p : Prod) (tile slice : Nat) : Nat :=
  if t then min 512 (p.k - 512 * tile) else min (sliceOf p.shape p.cls) (p.k - slice * sliceOf p.shape p.cls)

/-- Rows of a stationary tile: tokens of the row tile, or of an M slice. -/
def tileRows (t : Bool) (p : Prod) : Nat := if t then 128 else rowsOf p.shape

/-- Whether a work's product `i` takes its stationary operand from the item: after a prologue, or product 2 (R139). -/
def fromItem (w : ArrayWork) (i : Nat) : Bool := w.kind = .chain && (i = 1 || bitOf w.par.stageMask 0)

/-- The K positions that a tile's registers hold per row and segment (R57, R71). -/
def segKs (dbl : Bool) : Nat := if dbl then 1024 else 512

/-- The register words of a segment of a row (Table 3.1): one value in the low bits, in a double class half 0 in bits [7:0] and
half 1 in bits [15:8]. A masked half keeps what the register held. -/
def packSeg (dbl : Bool) (old : List W16) (l : List Nat) : List W16 :=
  (List.range (min 512 l.length)).map (fun j =>
    BitVec.ofNat 16 (l.getD j 0 +
      (if dbl then 256 * (match l[512 + j]? with | some v => v | none => (old.getD j 0).toNat / 256) else 0)))

/-- Write words into a row of registers from a column on. -/
def setWords (old : List W16) (b : Nat) (ws : List W16) : List W16 :=
  (old ++ List.replicate (b - old.length) 0).take b ++ ws ++ old.drop (b + ws.length)

/-- Load a tile into a register set (R55, R57, R66, R71, R75): token t's segment s goes to physical row t + s R, in S2 its
values to all four quarters (R70). Masked rows and positions are not written. -/
def loadRegs (old : Tile) (tag : TileTag) (shape : Nat) (dbl : Bool) (t : StagedTile) : Tile :=
  let R := rowsOf shape
  { owner := some tag
    x := (List.range 128).map (fun p =>
      let row := old.x.getD p []
      let seg := ((t.x.getD (p % R) []).drop (p / R * segKs dbl)).take (segKs dbl)
      if !(t.present.getD (p % R) false) then row
      else if shape = 2 then (List.range 4).foldl (fun row q => setWords row (128 * q) (packSeg false [] seg)) row
      else setWords row 0 (packSeg dbl row seg))
    xs := (List.range 128).map (fun r => if t.present.getD r false then t.xs.getD r [] else old.xs.getD r [])
    present := t.present, kCount := t.kCount }

/-- The code that a register set holds for logical row `r` and K position `k` of its tile. -/
def codeOf (t : Tile) (shape : Nat) (dbl : Bool) (r k : Nat) : Nat :=
  let w := ((t.x.getD (r + k / segKs dbl * rowsOf shape) []).getD (k % segKs dbl % 512) 0).toNat
  if dbl then w / (if k % segKs dbl / 512 = 1 then 256 else 1) % 256 else w

/-- The K slice of a register set's tile. -/
def Tile.slice (t : Tile) : Nat := t.owner.elim 0 (·.load.slice)

/-- 64 KiB units of a spilled area, its rows one after another and then their scales (log entry 105). -/
def spillUnits (rows n fmt : Nat) : Nat :=
  ceilDiv (rows * fmtBytes fmt n + (if isMx fmt then rows * scaleRow n else 0)) 65536

/-- Where the areas of an array that spill begin in its spill slot (R158), and the end of the last. -/
def proSpillAt (w : ArrayWork) (core arr : Nat) : Nat := w.par.spillAddr + (2 * core + arr) * w.par.spillStride
def handSpillAt (w : ArrayWork) (core arr : Nat) : Nat :=
  proSpillAt w core arr +
    (if w.par.proSpilled then
      65536 * spillUnits (rowsOf w.par.shape) (w.prods.headD {}).k (w.par.inCvt % 16) else 0)
def heldSpillAt (w : ArrayWork) (core arr : Nat) : Nat :=
  handSpillAt w core arr +
    (if w.par.handTier = 3 then
      65536 * spillUnits (rowsOf w.par.shape) (w.prods.headD {}).width ((w.prods.headD {}).yCvt % 16) else 0)
def spillEnd (w : ArrayWork) (core arr : Nat) : Nat :=
  heldSpillAt w core arr +
    (if w.par.heldSpilled then
      65536 * ceilDiv (rowsOf w.par.shape * (w.prods.getLast?.getD {}).width * 4) 65536 else 0)

/-- Whether the item area that product `i` loads from has spilled (Table 8.8). -/
def areaSpilled (w : ArrayWork) (i : Nat) : Bool := if i = 0 then w.par.proSpilled else w.par.handTier = 3

/-- Whether a load's tile comes from device memory: an operand, or an area that has spilled (R143, R148). -/
def fromMemory (w : ArrayWork) (l : LoadSpec) : Bool :=
  w.kind != .attendB && (!fromItem w l.prod || areaSpilled w l.prod)

/-- What a sluice fetches for a load from device memory (R112, R114, R122; for a spilled area R158). -/
def jobOf (s : State) (w : ArrayWork) (id : CmdId) (x : Item) (l : LoadSpec) (slots : List Nat) : TileJob :=
  let t := w.transposed
  let p := w.prods.getD l.prod {}
  let t0 := tileToken t p x.tile l.slice
  let k0 := tileK0 t p x.tile l.slice
  let kc := tileKCount t p x.tile l.slice
  let here := fun r => if w.kind = .chain then x.rows.getD r false else tokenPresent s p.rowMaskEn p.rowMask p.m (t0 + r)
  let base : TileJob :=
    { tag := { cmd := id, item := x.idx, load := l }, core := x.core, slots := slots
      x := p.x + t0 * p.xLd + k0 * fmtBits p.xFmt / 8, xLd := p.xLd, rowBytes := fmtBytes p.xFmt kc, fmt := p.xFmt
      xs := p.xs + t0 * scaleRow p.k + k0 / 32, xsLd := scaleRow p.k
      scaleBytes := if isMx p.xFmt && !t then scaleRow kc else 0
      present := (List.range (min (tileRows t p) (p.m - t0))).map here, kCount := kc }
  if fromItem w l.prod then
    let a := if l.prod = 0 then proSpillAt w x.core x.arr else handSpillAt w x.core x.arr
    let rb := fmtBytes p.xFmt p.k
    { base with
      x := a + k0 * fmtBits p.xFmt / 8, xLd := rb, xs := a + rowsOf p.shape * rb + k0 / 32, xsLd := scaleRow p.k }
  else base

/-- The tile of a load from an area that the item holds on the core (R139, R143, R148). -/
def areaTile (w : ArrayWork) (id : CmdId) (x : Item) (l : LoadSpec) : StagedTile :=
  let p := w.prods.getD l.prod {}
  let k0 := tileK0 false p x.tile l.slice
  let kc := tileKCount false p x.tile l.slice
  let codes := if l.prod = 0 then x.pro else x.hand
  let scales := if l.prod = 0 then x.proScale else x.handScale
  { tag := { cmd := id, item := x.idx, load := l }
    x := (List.range (rowsOf p.shape)).map (fun r => (List.range kc).map (fun k => tabGet codes 0 (rc r (k0 + k))))
    xs := (List.range (rowsOf p.shape)).map (fun r =>
      if isMx p.xFmt then (List.range (scaleRow kc)).map (fun b => tabGet scales 0x7F (rc r (k0 / 32 + b))) else [])
    present := x.rows, kCount := kc }

/-- The operand of a load is there: the prologue has run, or product 1's outputs are held (R139, R143). -/
def loadReady (w : ArrayWork) (x : Item) (l : LoadSpec) : Bool := w.kind != .chain || l.prod + 1 ≤ x.stage

/-- The passes that an item still has on an array. -/
def Item.passesOn (x : Item) (arr : Nat) : List PassSpec := if x.arr = arr then x.passes else x.passes1
def Item.setPasses (x : Item) (arr : Nat) (l : List PassSpec) : Item :=
  if x.arr = arr then { x with passes := l } else { x with passes1 := l }

/-- The items of a command that use an array, in grant order. -/
def myItems (s : State) (id : CmdId) (core arr : Nat) : List (Cmd × ArrayWork × Item) :=
  match arrayWork s id with
  | none => []
  | some (c, w) => (w.items.filter (fun x => x.core = core && x.uses w.kind arr)).map (fun x => (c, w, x))

/-- A register set holds the tile that a pass needs. -/
def tileFor (t : Tile) (id : CmdId) (idx : Nat) (l : LoadSpec) : Bool :=
  t.owner = some { cmd := id, item := idx, load := l }

/-- The next pass of a command on an array: of its first item there that has one. -/
def nextPass (s : State) (id : CmdId) (core arr : Nat) : Option (Cmd × ArrayWork × Item × PassSpec) :=
  (myItems s id core arr).findSome? (fun y => ((y.2.2.passesOn arr).head?).map (fun p => (y.1, y.2.1, y.2.2, p)))

/-- The pass's tile is in the active or shadow registers. -/
def tileThere (s : State) (core arr : Nat) (id : CmdId) (idx : Nat) (l : LoadSpec) : Bool :=
  tileFor (getArray s core arr).active id idx l || tileFor (getArray s core arr).shadow id idx l

/-- The place of a key block among those that an item streams, and the one of its two areas that the block uses (R179,
R181). -/
def attOrd (x : Item) (b : Nat) : Nat := (x.union.findIdx? (fun k => k = b)).getD 0
def attArea (x : Item) (b : Nat) : Nat := attOrd x b % 2

/-- The P slots of an area. -/
def probSlots (x : Item) (area : Nat) : List Nat := if area = 0 then x.proSlots else x.handSlots

/-- The slots of the area that a load reads where it is not from device memory: prologue or hand-over area, or of the P tile
of a block of `ATTEND` (R143, R148, R179). The queries' tile comes from the item itself (log entry 106). -/
def areaSlots (w : ArrayWork) (x : Item) (l : LoadSpec) : List Nat :=
  if w.kind = .attendB then
    if l.prob then probSlots x (attArea x l.slice) else []
  else if l.prod = 0 then x.proSlots else x.handSlots

/-- The load port may read a load's tile: it is full in its berm slot, or in the area that holds it (R136, R143). -/
def tileStaged (s : State) (w : ArrayWork) (id : CmdId) (x : Item) (l : LoadSpec) : Bool :=
  if fromMemory w l then tileFull s x.core { cmd := id, item := x.idx, load := l }
  else loadReady w x l && (areaSlots w x l).all (fun k =>
    let y := getSlot s (64 * x.core + k)
    y.st = .full || (y.st = .draining && y.claimant = some id))

/-- The item of the same grant on the other array that shares the pass's stream (R132): it has that pass still to run. -/
def pairOf (s : State) (id : CmdId) (core arr : Nat) (x : Item) (p : PassSpec) : Option Item :=
  ((myItems s id core (1 - arr)).find? (fun y =>
    y.2.1.kind != .attendB && y.2.2.grant = x.grant && y.2.2.idx != x.idx && (y.2.2.passesOn (1 - arr)).contains p)).map
    (·.2.2)

/-- The T area of a PV pass is free: the block that used it last has been combined (R184). -/
def areaThere (w : ArrayWork) (x : Item) (p : PassSpec) : Bool :=
  w.kind != .attendB || !p.load.prob || attOrd x p.load.slice < x.combined + 2

/-- A pass's own conditions on an array: its tile is staged or loaded, its strip or area is free (R136, R144). -/
def passReady (s : State) (w : ArrayWork) (id : CmdId) (core arr : Nat) (x : Item) (p : PassSpec) : Bool :=
  (tileThere s core arr id x.idx p.load || tileStaged s w id x p.load) && stripThere w x p && areaThere w x p

/-- Whether a command is of priority 0. -/
def urgentCmd (s : State) (id : CmdId) : Bool := match findCmd s id with | some c => c.urgent | none => false

/-- The pass in progress on an array belongs to a command of priorities 1 to 3. -/
def lowerPass (s : State) (core arr : Nat) : Option Pass :=
  match (getArray s core arr).pass with
  | none => none
  | some q => match findCmd s q.cmd with
    | some c => if c.urgent then none else some q
    | none => none

/-- A command's pass need not wait for what an array runs: nothing, or for a priority-0 command a lower pass (R136, R356). -/
def arrayOpen (s : State) (id : CmdId) (core arr : Nat) : Bool :=
  (getArray s core arr).pass.isNone || (urgentCmd s id && (lowerPass s core arr).isSome)

/-- A command's next pass on an array is eligible; two passes that share a stream are so only together (R136). -/
def passEligible (s : State) (id : CmdId) (core arr : Nat) : Bool :=
  match nextPass s id core arr with
  | none => false
  | some (_, w, x, p) =>
    passReady s w id core arr x p && match pairOf s id core arr x p with
      | some y =>
        (y.passesOn (1 - arr)).head? = some p && passReady s w id core (1 - arr) y p && arrayOpen s id core (1 - arr)
      | none => true

/-- An item of `ATTEND` is in its only or second sweep. -/
def lastSweep (w : ArrayWork) (x : Item) : Bool := !w.att.twoPass || x.sweep = 2

/-- An item has passes on an array, now or later without an issue of another thread (R308): an `ATTEND` item until the last
block of its last sweep. -/
def morePasses (w : ArrayWork) (x : Item) (arr : Nat) : Bool :=
  !(x.passesOn arr).isEmpty || (w.kind = .attendB && !(lastSweep w x && x.union.length ≤ (if arr = 0 then x.fed else x.soft)))

/-- A slot of a core is EMPTY, or will be without an issue of an array by another thread than a command's (R308): its tile is
that of a pass in progress which no pass after it uses, or the command holds it for an item of the other array. -/
def slotComes (s : State) (id : CmdId) (core arr k : Nat) : Bool :=
  let y := getSlot s (64 * core + k)
  let last := fun (a : Nat) => match (getArray s core a).pass with
    | none => false
    | some q => match getItem s q.cmd q.item with
      | none => false
      | some (_, _, x) =>
        (tileSlots s core { cmd := q.cmd, item := q.item, load := q.spec.load }).contains k &&
          (((x.passesOn a).drop 1).head?.map (·.load)) != some q.spec.load
  y = {} || last 0 || last 1 || match y.holder with
    | none => false
    | some h => h.1 = id && match getItem s id h.2 with
      | none => false
      | some (_, w, x) => w.kind != .attendB && x.arr != arr

/-- Slots of a command's class that are EMPTY or come so. -/
def slotsComing (s : State) (id : CmdId) (core arr : Nat) : Nat := (slotsFor (urgentCmd s id)).countP (slotComes s id core arr)

/-- A command waits for a berm slot for its next tile on an array that only other threads' passes can free (R308). -/
def wantsSlot (s : State) (id : CmdId) (core arr : Nat) : Bool :=
  match nextPass s id core arr with
  | none => false
  | some (_, w, x, p) =>
    let g : TileTag := { cmd := id, item := x.idx, load := p.load }
    fromMemory w p.load && !tileThere s core arr id x.idx p.load && (tileSlots s core g).isEmpty &&
      slotsComing s id core arr < slotsOfTile (w.prods.getD p.load.prod {}).cls (isMx (w.prods.getD p.load.prod {}).xFmt)

/-- A `CHAIN` waits for a strip of its next pass on units that only other threads' passes can free (R144, R308): what items of
other commands of its class that have passes to come hold there leaves too little beside what its own item keeps to its end. -/
def wantsUnits (s : State) (id : CmdId) (core arr : Nat) : Bool :=
  match nextPass s id core arr with
  | none => false
  | some (c, w, x, p) =>
    let q := w.prods.getD p.load.prod {}
    let others := (itemsOn s core).foldl (fun a y =>
      if y.1.id != id && y.1.urgent = c.urgent && morePasses y.2.1 y.2.2 arr then a + unitsOn y.2.1 y.2.2 arr else a) 0
    let own := x.units + ((x.strips.filter (fun k => (w.prods.getD k.1 {}).hold && !w.par.heldSpilled)).map (stripUnits w)).sum
    !stripThere w x p && accAvail s c.urgent < (others + own + stripUnits w (p.load.prod, p.n0 / q.range)) * 65536

/-- The commands that hold granted items with passes on an array. -/
def holders (s : State) (core arr : Nat) : List Cmd :=
  s.cmds.filter (fun c => (myItems s c.id core arr).any (fun y => morePasses y.2.1 y.2.2 arr))

/-- The order of the scoreboard: R137 in throughput mode; in repeatable mode R308, which says that R137's chain term does not
apply (log entry 107). -/
def before (s : State) (core arr : Nat) (a b : Cmd) : Bool :=
  let long := fun (c : Cmd) => match nextPass s c.id core arr with
    | some (_, _, x, _) => decide (2 ≤ x.chainLen)
    | none => false
  let pa := prio s a.inlet
  let pb := prio s b.inlet
  if pa != pb then pa < pb
  else if s.lock.repeatable then (if a.inlet != b.inlet then a.inlet < b.inlet else a.id < b.id)
  else if long a != long b then long a
  else a.order < b.order

/-- Swap active and shadow (R68): the tile that was active stays in the shadow registers, for no pass, until a load replaces
it (R67). -/
def TArray.swap (a : TArray) : TArray := { a with active := a.shadow, shadow := { a.active with owner := none } }

/-- An area of the block undo store, by number. -/
def TArray.undoArea (a : TArray) (k : Nat) : UndoArea := if k % 2 = 0 then a.undo0 else a.undo1
def TArray.setUndo (a : TArray) (u : UndoArea) : TArray := if a.area % 2 = 0 then { a with undo0 := u } else { a with undo1 := u }

/-- The block in flight takes an undo area, which holds no prior value yet (R64). -/
def TArray.openUndo (a : TArray) : TArray := a.setUndo { inUse := true }

/-- The block has committed: its area is released, and the next block takes the other one (R64). -/
def TArray.closeUndo (a : TArray) : TArray :=
  { a.setUndo { a.undoArea a.area with inUse := false } with area := 1 - a.area % 2 }

/-- Every prior value that an undo area holds is written back (R64). -/
def writeBack (acc : Tab W32) (prior : Tab (Option W32)) : Tab W32 :=
  prior.foldl (fun t p => match p.2 with
    | some v => tabSet t p.1 v
    | none => tabErase t p.1) acc

/-- Put a pass on an array, swapping its tile in where it is in the shadow (R68). -/
def putPass (s : State) (core arr : Nat) (id : CmdId) (idx : Nat) (p : PassSpec) (done : Nat) : State :=
  let a := getArray s core arr
  let a := if tileFor a.active id idx p.load then a else a.swap
  putArray s core arr { a.openUndo with pass := some { cmd := id, item := idx, spec := p, done := done } }

/-- Start the next pass of a command, on both arrays where they share one stream (R132, R136). -/
def startPass (s : State) (core arr : Nat) (id : CmdId) : State :=
  match nextPass s id core arr with
  | none => s
  | some (_, _, x, p) =>
    let t := putPass s core arr id x.idx p 0
    match pairOf s id core arr x p with
    | some y => putPass t core (1 - arr) id y.idx p 0
    | none => t

/-- The codes of streamed column `n` over the K positions of a tile, with its scales (R112, R122). -/
def columnOf (s : State) (t : Bool) (p : Prod) (tile : Tile) (n : Nat) : List FVal :=
  let k0 := if t then 128 * tile.slice else tile.slice * sliceOf p.shape p.cls
  let kc := if t then min 128 (p.m - 128 * tile.slice) else tile.kCount
  (List.range kc).map (fun i =>
    let k := k0 + i
    let c := if t || p.wKmajor then readElem s p.wFmt (p.w + k * p.wLd) n else readElem s p.wFmt (p.w + n * p.wLd) k
    let sc := if isMx p.wFmt then (readByte s (p.ws + n * scaleRow p.k + k / 32)).toNat else 0x7F
    operand p.wFmt sc c)

/-- The ranges of a block's stream with its scales, which the head of the chain reads (R130). -/
def columnRanges (t : Bool) (p : Prod) (tile : Tile) (n0 w : Nat) : List (Nat × Nat) :=
  let kc := if t then min 128 (p.m - 128 * tile.slice) else tile.kCount
  let k0 := if t then 128 * tile.slice else tile.slice * sliceOf p.shape p.cls
  (if t || p.wKmajor then
    (List.range kc).map (fun i => (p.w + (k0 + i) * p.wLd + n0 * fmtBits p.wFmt / 8, fmtBytes p.wFmt w))
  else (List.range w).map (fun i => (p.w + (n0 + i) * p.wLd + k0 * fmtBits p.wFmt / 8, fmtBytes p.wFmt kc))) ++
    (if isMx p.wFmt then (List.range w).map (fun i => (p.ws + (n0 + i) * scaleRow p.k + k0 / 32, scaleRow kc)) else [])

/-- The initial values that a block of an item's first pass reads (R120). -/
def initRanges (t : Bool) (p : Prod) (x : Item) (tile : Tile) (n0 w : Nat) : List (Nat × Nat) :=
  if !p.initEn || tile.slice != 0 || p.shape = 2 then []
  else
    (List.range (if t then tile.kCount else rowsOf p.shape)).flatMap (fun r =>
      let g := if t then 512 * x.tile + r else x.tile * rowsOf p.shape + r
      if !t && !(tile.present.getD r false) then []
      else (p.init + g * p.initLd + n0 * fmtBits p.initFmt / 8, fmtBytes p.initFmt w) ::
        (if isMx p.initFmt then [(p.ys + g * scaleRow p.n + n0 / 32, scaleRow (n0 % 32 + w))] else []))

/-- The first address at which a block's reads meet an error. -/
def columnsBad (s : State) (t : Bool) (p : Prod) (x : Item) (tile : Tile) (n0 w : Nat) : Option Nat :=
  if s.mem.bad.isEmpty then none
  else ((columnRanges t p tile n0 w ++ initRanges t p x tile n0 w).find? (fun r => rangeBad s r.1 r.2)).map (·.1)

/-- The stationary operands of a row of a tile. -/
def rowOf (p : Prod) (tile : Tile) (r : Nat) : List FVal :=
  (List.range tile.kCount).map (fun k =>
    operand p.xFmt ((tile.xs.getD r []).getD (k / 32) 0x7F) (codeOf tile p.shape p.cls.isDouble r k))

/-- The stationary operands of column `k` of a tile under the transposed read: one per row, none for a masked row (R73,
R77). -/
def colOf (p : Prod) (tile : Tile) (k : Nat) : List (Option FVal) :=
  (tile.present.zipIdx).map (fun r => if r.1 then some (decElem p.xFmt (codeOf tile 1 false r.2 k)) else none)

/-- A position of a pass: a pair of operands, or masked. -/
def pairAt (xs : List (Option FVal)) (ws : List FVal) (k : Nat) : Option (FVal × FVal) :=
  match xs[k]?, ws[k]? with
  | some (some x), some w => some (x, w)
  | _, _ => none

/-- Column groups of a pass. -/
def groupsOf (t : Bool) (shape : Nat) : Nat := if t || shape = 2 then 4 else 16 * foldOf shape

/-- The rows of the results of a pass: row and stationary operands, present ones only (R75, R77). -/
def passRows (t : Bool) (p : Prod) (tile : Tile) : List (Nat × List (Option FVal)) :=
  if t then (List.range tile.kCount).map (fun k => (k, colOf p tile k))
  else ((tile.present.zipIdx).filter (·.1)).map (fun r => (r.2, (rowOf p tile r.2).map some))

/-- The row and column of an output in memory: K positions are the rows of `GEMM_T`. -/
def outRow (t : Bool) (p : Prod) (tile r : Nat) : Nat := if t then 512 * tile + r else tile * rowsOf p.shape + r

/-- The accumulator's content before a block's first contribution (R99, R120). -/
def priorValue (s : State) (t : Bool) (p : Prod) (x : Item) (first : Bool) (r n : Nat) : Option W32 :=
  if p.shape = 2 then none
  else if first then
    if p.initEn then
      let g := outRow t p x.tile r
      let sc := if isMx p.initFmt then (readByte s (p.ys + g * scaleRow p.n + n / 32)).toNat else 0x7F
      some (initValue p.int p.initFmt sc (readElem s p.initFmt (p.init + g * p.initLd) n))
    else none
  else tabFind? x.acc (rc r n)

/-- The results of a column block: every present row and column, added to the accumulator (R95 to R99). -/
def blockAcc (s : State) (t : Bool) (p : Prod) (x : Item) (tile : Tile) (n0 w : Nat) : Tab W32 :=
  let rows := passRows t p tile
  (List.range w).foldl (fun acc i =>
    let n := n0 + i
    let ws := columnOf s t p tile n
    rows.foldl (fun acc r =>
      let v := passT p.int p.cls (groupsOf t p.shape) (pairAt r.2 ws)
      tabSet acc (rc r.1 n) (accumulate p.int (priorValue s t p x (tile.slice = 0) r.1 n) v)) acc) x.acc

/-- Codes and scales of a run of output values that starts at a block boundary; a last MX block is filled with +0
(R104, R105). -/
def convertRun (int : Bool) (cb : Nat) (seed : W64) (word2 : Nat) (index : Nat → Nat) (c0 : Nat) (vals : List W32) :
    List Nat × List Nat :=
  if isMx (cb % 16) then
    let bl := (List.range (ceilDiv vals.length 32)).map (fun b =>
      let v := ((vals.drop (32 * b)).take 32).map (accToF32 int)
      cvtBlock cb (fun j => rndOf cb seed (index (c0 + 32 * b + j)) word2) (v ++ List.replicate (32 - v.length) 0))
    (bl.flatMap (·.2), bl.map (·.1))
  else ((vals.zipIdx).map (fun v => outCode int cb (rndOf cb seed (index (c0 + v.2)) word2) v.1), [])

/-- The output bytes of a run for a digest: elements, each MX block followed by its scale (R320). -/
def runBytes (fmt : Nat) (codes scales : List Nat) : List Byte :=
  if isMx fmt then
    (scales.zipIdx).flatMap (fun c => packElems' fmt ((codes.drop (32 * c.2)).take 32) ++ leBytes 1 c.1)
  else packElems' fmt codes
where
  packElems' (fmt : Nat) (codes : List Nat) : List Byte :=
    leBytes (fmtBytes fmt codes.length)
      ((codes.zipIdx).foldl (fun a x => a + x.1 % 2 ^ fmtBits fmt * 2 ^ (fmtBits fmt * x.2)) 0)

/-- Write a run of codes and scales of one row of a tensor (R92, R93, R214). -/
def writeRun (s : State) (u : Bool) (fmt a sc c0 : Nat) (codes scales : List Nat) : State :=
  let s := ddrTake s .write u (a + c0 * fmtBits fmt / 8) (fmtBytes fmt codes.length)
  let s := ddrTake s .write u (sc + c0 / 32) scales.length
  let s := (codes.zipIdx).foldl (fun s c => writeElem s fmt a (c0 + c.2) c.1) s
  (scales.zipIdx).foldl (fun s c => writeLe s (sc + c0 / 32 + c.2) 1 c.1) s

/-- The place of output bytes in an item's digest (R320): by kind, column block, row, address. -/
def outKey (kind block row addr : Nat) : Nat := ((kind * 2 ^ 24 + block) * 2 ^ 24 + row) * 2 ^ 96 + addr

/-- Keep an item's output bytes for its digest, for a lock-step command only. -/
def logOut (s : State) (id : CmdId) (idx key : Nat) (b : List Byte) : State :=
  match findCmd s id with
  | none => s
  | some c => if flagSet c.hdr 3 then modItem s id idx (fun x => { x with outLog := x.outLog ++ [(key, b)] }) else s

/-- Keep a run of output values of one row, the first at an address, cut at the boundaries of column blocks of `bw` columns; an
MX block belongs to the column block in which it begins (R320; log entry 112). -/
def logRun (s : State) (id : CmdId) (idx kind bw row a c0 fmt : Nat) (codes scales : List Nat) : State :=
  let unit := if isMx fmt then 32 else 2
  let step := if bw % unit = 0 then bw else unit
  (List.range (ceilDiv (c0 % step + codes.length) step)).foldl (fun s i =>
    let lo := max c0 (c0 / step * step + i * step)
    let hi := min (c0 + codes.length) (c0 / step * step + (i + 1) * step)
    logOut s id idx (outKey kind (lo / bw) row (a + (lo - c0) * fmtBits fmt / 8))
      (runBytes fmt ((codes.drop (lo - c0)).take (hi - lo)) ((scales.drop ((lo - c0) / 32)).take (ceilDiv (hi - lo) 32)))) s

/-- Write the outputs of columns [c0, c0 + w) of a product's item (R120). -/
def writeProduct (s : State) (c : Cmd) (w : ArrayWork) (x : Item) (c0 n : Nat) : State :=
  let t := w.transposed
  let p := w.prods.getD x.entry {}
  let rows := (List.range (accRows t p.shape)).filter (fun r => (tabFind? x.acc (rc r c0)).isSome)
  rows.foldl (fun s r =>
    let g := outRow t p x.tile r
    let vals := (List.range n).map (fun i => tabGet x.acc 0 (rc r (c0 + i)))
    let cs := convertRun p.int p.yCvt c.hdr.seed (p.entry % 65536 + p.rsId * 65536) (fun col => g * p.n + col) c0 vals
    let s := writeRun s c.urgent (p.yCvt % 16) (p.y + g * p.yLd) (p.ys + g * scaleRow p.n) c0 cs.1 cs.2
    logRun s c.id x.idx 0 p.blockCols g (p.y + g * p.yLd + c0 * fmtBits (p.yCvt % 16) / 8) c0 (p.yCvt % 16) cs.1 cs.2) s

/-- The columns up to which outputs can be formed: whole MX blocks, or everything when the range is done. -/
def alignedPrefix (unit committed n0 n1 : Nat) : Nat :=
  if n1 ≤ committed then n1 else n0 + (committed - n0) / unit * unit

/-- Give back the threads of a command on cores that hold no item of it, once nothing is left to grant (R134). -/
def releaseThreads (s : State) (id : CmdId) : State :=
  match arrayWork s id with
  | none => s
  | some (_, w) =>
    if !leftToGrant s w then
      { s with cores := s.cores.map (fun p =>
        (p.1, if w.items.any (fun x => x.core = p.1) then p.2
          else { p.2 with threads := p.2.threads.filter (fun t => t.2.1 != id) })) }
    else s

/-- Every slot allotted to an item on its core is free again, a FULL one that nobody has claimed too (DESIGN CHOICE, log
entry 148). -/
def freeHeld (s : State) (id : CmdId) (x : Item) : State :=
  { s with slots := s.slots.map (fun p => if p.1 / 64 = x.core && p.2.holder = some (id, x.idx) then (p.1, {}) else p) }

/-- An item has written its last output: its digest (R320), and it is complete (R127). -/
def itemDone (s : State) (id : CmdId) (idx : Nat) : State :=
  match getItem s id idx with
  | none => s
  | some (c, w, x) =>
    let off := if w.kind = .attendB then w.phaseA else 0
    let place := tileWord x.core x.arr x.entry x.tile 0 0
    let s := setArray (freeHeld s id x) id { w with
      places := tabSet w.places (off + idx) place
      items := w.items.filter (fun y => y.idx != idx), finished := w.finished ++ [idx]
      read := if w.items.any (fun y => y.idx != idx && y.grant = x.grant) then w.read else tabErase w.read x.grant
      phaseA := if w.kind = .attendA then w.phaseA + 1 else w.phaseA }
    let s := releaseThreads (progress s id) id
    if flagSet c.hdr 3 && s.lock.established then
      let bytes := (x.outLog.mergeSort (fun a b => a.1 ≤ b.1)).flatMap (·.2)
      ownDigest s
        { inlet := c.inlet, seq := c.lockSeq, item := off + idx, value := crc64 bytes, cmd := some id, tile := place }
    else s

/-- Own digests that wait for the partner's hold lock-step commands back at LEAD_LIMIT (R321). -/
def leadHeld (s : State) (c : Cmd) : Bool := flagSet c.hdr 3 && s.lock.leadLimit ≤ s.lock.own.length

end Sys2Proof.Machine
end

