-- ==== Sys2Proof/Machine/CulvertOps.lean ====
section
/-!
DEFINITION. The culvert's pages in staging: hand-offs (R229 to R231), page layout (R232, R233), complete segments
(R235).
-/
namespace Sys2Proof.Machine

/-- Format of an export's elements: 0x1 BF16, 0x3 FP8 E4M3, 0x9 MXFP4 (Table 9.2). -/
def Channel.fmt (c : Channel) : Nat := c.cvt % 16

/-- Bytes of a vector's elements (R232). -/
def Channel.vecBytes (c : Channel) : Nat := c.dim * fmtBits c.fmt / 8

/-- Vectors of a page. -/
def Channel.vecs (c : Channel) : Nat := 2 * c.pageTokens * c.heads

/-- Start of the scales (MXFP4), the end of the elements rounded up to 64 B (R232). -/
def Channel.scaleBase (c : Channel) : Nat := roundUp (c.vecs * c.vecBytes) 64

/-- Page extent S (R232). -/
def Channel.extent (c : Channel) : Nat :=
  if c.fmt = 0x9 then roundUp (c.scaleBase + c.vecs * (c.dim / 32)) 64 else c.scaleBase

/-- Bytes of a page buffer Sb (R231). -/
def Channel.bufBytes (c : Channel) : Nat := roundUp c.extent 4096 + ceilDiv c.vecs 32768 * 4096

/-- Page buffers of a staging area (R231). -/
def Channel.buffers (c : Channel) : Nat := c.stageBytes / c.bufBytes

/-- The vector of part `c`, head `h`, token offset `t` (Table 9.4). -/
def vecIndex (k : Channel) (part h t : Nat) : Nat :=
  match k.layout with
  | 0 => part * k.pageTokens * k.heads + t * k.heads + h
  | 1 => t * 2 * k.heads + part * k.heads + h
  | 2 => part * k.heads * k.pageTokens + h * k.pageTokens + t
  | _ => h * 2 * k.pageTokens + part * k.pageTokens + t

/-- The token offset of a vector (Table 9.4). -/
def vecToken (k : Channel) (v : Nat) : Nat :=
  match k.layout with
  | 0 => v % (k.pageTokens * k.heads) / k.heads
  | 1 => v / (2 * k.heads)
  | _ => v % k.pageTokens

/-- Page number g and layer of a page's sequence number (R228). -/
def pageOf (c : Channel) (q : Nat) : Nat := c.firstPage + q % c.npages
def layerOf (c : Channel) (q : Nat) : Nat := c.layer0 + q / c.npages

/-- A vector of page `g` whose position is exported (R233). -/
def vecInRange (c : Channel) (g v : Nat) : Bool :=
  c.firstPos ≤ g * c.pageTokens + vecToken c v && g * c.pageTokens + vecToken c v < c.endPos

/-- The vectors whose items, `step` bytes each from `base`, meet the bytes [lo, lo + 4,096) of a page. -/
def vecsMeeting (n base step lo : Nat) : List Nat :=
  let a := (lo - base) / step
  let b := min n (ceilDiv (lo + 4096 - base) step)
  (List.range (b - a)).map (fun k => a + k)

/-- The vectors that meet segment `k` of a page: by elements, and by scales for MXFP4 (R235). -/
def segVecs (c : Channel) (k : Nat) : List Nat :=
  vecsMeeting c.vecs 0 c.vecBytes (4096 * k) ++
    (if c.fmt = 0x9 then vecsMeeting c.vecs c.scaleBase (c.dim / 32) (4096 * k) else [])

/-- Segments of a page that hold in-range bytes. -/
def neededSegs (c : Channel) (g : Nat) : List Nat :=
  (List.range (ceilDiv c.extent 4096)).filter (fun k => (segVecs c k).any (vecInRange c g))

/-- All elements of a vector have been accepted. -/
def vecPresent (c : Channel) (p : Page) (v : Nat) : Bool := tabGet p.elems 0 v = 2 ^ c.dim - 1

/-- Every in-range vector that meets a segment is present (R235). -/
def segComplete (c : Channel) (g : Nat) (p : Page) (k : Nat) : Bool :=
  (segVecs c k).all (fun v => !vecInRange c g v || vecPresent c p v)

/-- The segments that a vector meets. -/
def segsOfVec (c : Channel) (v : Nat) : List Nat :=
  let el := (List.range (ceilDiv c.extent 4096)).filter (fun k => (segVecs c k).contains v)
  el

/-- The device address of a page buffer. -/
def bufAddr (c : Channel) (b : Nat) : Nat := c.stageAddr + b * c.bufBytes

/-- The lowest free page buffer. -/
def freeBuffer (c : Channel) : Option Nat :=
  (List.range c.buffers).find? (fun b => !c.pages.any (fun p => p.2.buffer = b))

/-- What a hand-off meets (R229, R231, R241, R243). -/
inductive Accept where
  /-- Accepted, or discarded because it lies outside the export. -/
  | taken (s : State)
  /-- The page needs a buffer and none is free: the producer stalls. -/
  | stall
deriving DecidableEq, Repr

/-- Segments of page `q` have become complete: in the order in which they did, those of one tick by page and offset; what a
stream has sent keeps its place (R235). -/
def Channel.addReady (c : Channel) (now : Nat) (new : List (Nat × Nat)) : Channel :=
  if new.isEmpty then c
  else
    let k := max (if c.readyTick = now then c.readyFrom else c.ready.length) ((c.dests.map (·.sent)).max?.getD 0)
    { c with
      ready := c.ready.take k ++ (c.ready.drop k ++ new).mergeSort (fun a b => a.1 < b.1 || (a.1 = b.1 && a.2 ≤ b.2))
      readyTick := now, readyFrom := if c.readyTick = now then c.readyFrom else c.ready.length }

/-- Bits i0 to i0 + n - 1. -/
def bitRun (i0 n : Nat) : Nat := (2 ^ n - 1) * 2 ^ i0

/-- The presence map of a page: its address, and its bytes (R231). -/
def mapAddr (c : Channel) (b : Nat) : Nat := bufAddr c b + roundUp c.extent 4096
def Channel.mapBytes (c : Channel) : Nat := ceilDiv c.vecs 8

/-- A page takes a buffer: its presence map begins empty (R231). -/
def takeBuffer (s : State) (c : Channel) (b : Nat) : State :=
  ddrTake (writeMem s (mapAddr c b) (List.replicate c.mapBytes 0)) .write false (mapAddr c b) c.mapBytes

/-- Hand over elements [i0, i0 + codes.length) of part, head, position and layer to a channel, already converted; MX runs
start at a block and bring its scales. A page whose every destination has failed or acknowledged it keeps no buffer (R231), so
failures never hold up a producer (R243). DESIGN CHOICE (log entry 147): a FREE channel takes the values and discards them. -/
def handOff (s : State) (ch part h i0 p layer : Nat) (codes scales : List Nat) : Accept :=
  let c := getChannel s ch
  if c.st = .free || c.discard then .taken s
  else if p < c.firstPos || c.endPos ≤ p || layer < c.layer0 || c.layer0 + c.layers ≤ layer then .taken s
  else if c.st = .sealing then .taken (putChannel s ch { c with late := c.late + codes.length })
  else
    let g := p / c.pageTokens
    let q := (layer - c.layer0) * c.npages + (g - c.firstPage)
    let page? := match tabFind? c.pages q with
      | some x => some x
      | none => (freeBuffer c).map (fun b => { buffer := b, takenAt := s.clk.ticks })
    match page? with
    | none => .stall
    | some x =>
      let v := vecIndex c part h (p - g * c.pageTokens)
      let a := bufAddr c x.buffer
      let e := a + v * c.vecBytes
      let sc := a + c.scaleBase + v * (c.dim / 32) + i0 / 32
      let s := if (tabFind? c.pages q).isNone then takeBuffer s c x.buffer else s
      let s := (codes.zipIdx).foldl (fun s y => writeElem s c.fmt e (i0 + y.2) y.1) s
      let s := (scales.zipIdx).foldl (fun s y =>
        writeLe s (sc + y.2) 1 y.1) s
      let x := { x with elems := tabModify x.elems 0 v (fun m => m ||| bitRun i0 codes.length) }
      let s :=
        if vecPresent c x v then
          let m := mapAddr c x.buffer + v / 8
          writeLe (ddrTake s .write false m 1) m 1 (readLe s m 1 ||| 2 ^ (v % 8))
        else s
      let new := (segsOfVec c v).filter (fun k => !x.segs.contains k && segComplete c g x k)
      let x := { x with segs := x.segs ++ new }
      let x := if x.completeAt.isNone && (neededSegs c g).all (fun k => x.segs.contains k)
        then { x with completeAt := some s.clk.ticks } else x
      let c := { c with pages := tabSet c.pages q x }.addReady s.clk.ticks (new.map (fun k => (q, k)))
      let s := ddrTake (putChannel s ch (releasePages c)) .write false e (codes.length * fmtBits c.fmt / 8)
      .taken (if scales.isEmpty then s else ddrTake s .write false sc scales.length)

/-- A producer stalls for want of a buffer; the channel remembers since when (R241). -/
def noteStall (s : State) (ch : Nat) (who : CmdId × Nat) : State :=
  let c := getChannel s ch
  if c.stalls.any (fun p => p.1 = who) then s else putChannel s ch { c with stalls := c.stalls ++ [(who, s.clk.ticks)] }

/-- A producer goes on: it is no longer stalled. -/
def endStall (s : State) (ch : Nat) (who : CmdId × Nat) : State :=
  let c := getChannel s ch
  if c.stalls.any (fun p => p.1 = who) then putChannel s ch { c with stalls := c.stalls.filter (fun p => p.1 != who) } else s

/-- Counter word 2 and the element index of an export's stochastic rounding (R230). -/
def exportIndex (c : Channel) (part h i p : Nat) : Nat := ((p * 2 + part) * c.heads + h) * c.dim + i
def exportWord2 (c : Channel) (layer : Nat) : Nat := layer % 65536 + c.rsId * 65536

/-- Convert a run of FP32 values of one vector under ELEM_CVT (R230): codes and, for MXFP4, scales. -/
def exportConvert (c : Channel) (seed : W64) (part h i0 p layer : Nat) (xs : List W32) : List Nat × List Nat :=
  let rnd := fun i => rndOf c.cvt seed (exportIndex c part h i p) (exportWord2 c layer)
  if c.fmt = 0x9 then
    let bl := (List.range (ceilDiv xs.length 32)).map (fun b =>
      cvtBlock c.cvt (fun j => rnd (i0 + 32 * b + j)) ((xs.drop (32 * b)).take 32))
    (bl.flatMap (·.2), bl.map (·.1))
  else ((xs.zipIdx).map (fun y => cvtTo c.cvt (rnd (i0 + y.2)) y.1), [])

end Sys2Proof.Machine
end

