-- ==== Sys2Proof/Machine/FnOps.lean ====
section
/-!
DEFINITION. The table functions of the vector unit (R107, R154, R182): free values kept inside the error bounds of Table 4.6
and R154, about enclosures of the exact mathematical results.
-/
namespace Sys2Proof.Machine

/-- Bits after the point of the fixed-point numbers of this file. -/
def fixBits : Nat := 200

/-- A finite value in fixed point; FP32 values are exact in it. -/
def toFix (neg : Bool) (m : Nat) (e : Int) : Int := (if neg then -1 else 1) * (m * 2 ^ (fixBits + e).toNat)

/-- Fixed-point product. -/
def fixMul (a b : Int) : Int := a * b / 2 ^ fixBits

/-- One term of the series of exp, and the sum so far. -/
def expTerm (r : Int) (t : Int × Int) (k : Nat) : Int × Int :=
  let u := fixMul t.1 r / (k + 1)
  (u, t.2 + u)

/-- exp of a fixed-point number in [0, 1). -/
def expSeries (r : Int) : Int := ((List.range 60).foldl (expTerm r) (2 ^ fixBits, 2 ^ fixBits)).2

/-- ln 2 in fixed point: the sum of 1 / (k 2^k). -/
def fixLn2 : Int := (List.range fixBits).foldl (fun (a : Int) (k : Nat) => a + ((2 ^ fixBits / ((k + 1) * 2 ^ (k + 1)) : Nat) : Int)) 0

/-- exp as mantissa and exponent: mantissa in [1, 2), in fixed point. -/
def expParts (x : Int) : Int × Int :=
  let n := x / fixLn2
  (expSeries (x - n * fixLn2), n)

/-- exp of a number that is not above 0, in fixed point. -/
def expFix (x : Int) : Int := let p := expParts x; p.1 / 2 ^ (-p.2).toNat

/-- π in fixed point, with 130 bits more. -/
def piDigits : Nat :=
  31415926535897932384626433832795028841971693993751058209749445923078164062862089986280348253421170679
def fixPi : Int := (piDigits * 2 ^ (fixBits + 130) / 10 ^ 100 : Nat)

/-- A number reduced to [0, 2π). -/
def modTwoPi (x : Int) : Int := x * 2 ^ 130 % (2 * fixPi) / 2 ^ 130

/-- One term of the alternating series of cos and sin. -/
def trigTerm (sq : Int) (odd : Nat) (t : Int × Int) (k : Nat) : Int × Int :=
  let u := -(fixMul t.1 sq / ((2 * k + 1 + odd) * (2 * k + 2 + odd)))
  (u, t.2 + u)

/-- cos and sin of a number in [0, 2π). -/
def cosFix (r : Int) : Int := ((List.range 50).foldl (trigTerm (fixMul r r) 0) (2 ^ fixBits, 2 ^ fixBits)).2
def sinFix (r : Int) : Int := ((List.range 50).foldl (trigTerm (fixMul r r) 1) (r, r)).2

/-- The logistic function in fixed point. -/
def sigmoidFix (x : Int) : Int :=
  let e := expFix (-(x.natAbs : Int))
  (if 0 ≤ x then 2 ^ fixBits else e) * 2 ^ fixBits / (2 ^ fixBits + e)

/-- An enclosure of an exact result. -/
structure Enclosure where
  lo : Dyadic'
  hi : Dyadic'
deriving DecidableEq, Repr

/-- About a fixed-point number, 2^-180 to either side. -/
def aboutFix (v : Int) : Enclosure :=
  { lo := { m := v - 2 ^ (fixBits - 180), e := -(fixBits : Int) }, hi := { m := v + 2 ^ (fixBits - 180), e := -(fixBits : Int) } }

/-- An exact number. -/
def exactly (d : Dyadic') : Enclosure := { lo := d, hi := d }

/-- Between 0 and 2^-200, of a sign. -/
def nextToZero (neg : Bool) : Enclosure :=
  if neg then { lo := { m := -1, e := -200 }, hi := { m := 0, e := 0 } } else { lo := { m := 0, e := 0 }, hi := { m := 1, e := -200 } }

/-- The exponent of the last place of FP32 at a magnitude. -/
def ulpExp (d : Dyadic') : Int :=
  if d.m = 0 then -149 else max ((Nat.log2 d.m.natAbs : Int) + d.e) (-126) - 23

/-- The distance that `k` units in the last place about a result allow, or `2^atLeast` where that is larger. -/
def tolerance (k : Nat) (atLeast : Option Int) (c : Enclosure) : Dyadic' :=
  let u : Int := max (ulpExp c.lo) (ulpExp c.hi)
  match atLeast with
  | some a => if 2 ^ (a + 200).toNat ≤ k * 2 ^ (u + 200).toNat then { m := k, e := u } else { m := 1, e := a }
  | none => { m := k, e := u }

/-- The place of an FP32 value in their order, ±0 at 0. -/
def ordOf (x : W32) : Int := if bitOf x.toNat 31 then -((x.toNat % 2 ^ 31 : Nat) : Int) else x.toNat

/-- The value at a place. -/
def atOrd (k : Int) : W32 := sign32 (decide (k < 0)) k.natAbs

/-- The magnitude of an exact number rounded down or up to FP32. -/
def magFloor (d : Dyadic') : Nat := floorEnc d.m.natAbs d.e
def magCeil (d : Dyadic') : Nat :=
  let k := magFloor d
  if d.m = 0 then 0
  else match dec32 (BitVec.ofNat 32 (min k 0x7F800000)) with
    | .fin _ m e => if (dyAdd { m := m, e := e } { m := -(d.m.natAbs : Int), e := d.e }).m = 0 then k else k + 1
    | _ => k

/-- The places of the least FP32 value at or above an exact number, and of the greatest at or below. -/
def ordCeil (d : Dyadic') : Int := if d.m < 0 then -(magFloor d : Int) else magCeil d
def ordFloor (d : Dyadic') : Int := if d.m < 0 then -(magCeil d : Int) else magFloor d

/-- Keep a free table value inside the bound about the exact result (R107). -/
def keepInside (k : Nat) (atLeast : Option Int) (c : Enclosure) (raw : W32) : W32 :=
  let t := tolerance k atLeast c
  let lo := max (-0x7F7FFFFF) (ordCeil (dyAdd c.lo { t with m := -t.m }))
  let hi := min 0x7F7FFFFF (ordFloor (dyAdd c.hi t))
  let o := ordOf raw
  if o < lo then atOrd lo else if hi < o then atOrd hi else raw

/-- x > 88.7228, exactly. -/
def overExp (x : W32) : Bool :=
  match dec32 x with
  | .fin false m e => decide (0 < (dyAdd { m := (m : Int) * 10000, e := e } { m := -887228, e := 0 }).m)
  | .inf false => true
  | _ => false

/-- The exact exp of a finite value, enclosed. -/
def expExact (neg : Bool) (m : Nat) (e : Int) : Enclosure :=
  let x := toFix neg m e
  if x < -200 * 2 ^ fixBits then nextToZero false
  else
    let p := expParts x
    let b := aboutFix p.1
    { lo := { b.lo with e := b.lo.e + p.2 }, hi := { b.hi with e := b.hi.e + p.2 } }

/-- exp (Table 4.6, R182): within 2 ulp, otherwise free (log entry 10). -/
def exp32 (x : W32) : W32 :=
  match dec32 x with
  | .nan => nan32
  | .inf true => 0
  | .inf false => inf32 false
  | .fin _ 0 _ => 0x3F800000
  | .fin n m e => if overExp x then inf32 false else keepInside 2 none (expExact n m e) (Config.expRaw x)

/-- The bound of sigmoid, SiLU and GELU-tanh (Table 4.6). -/
def keepFour (c : Enclosure) (raw : W32) : W32 := keepInside 4 (some (-140)) c raw

/-- sigmoid (Table 4.6). -/
def sigmoid32 (x : W32) : W32 :=
  match dec32 x with
  | .nan => nan32
  | .inf true => 0
  | .inf false => keepFour (exactly { m := 1, e := 0 }) (Config.sigmoidRaw x)
  | .fin n m e =>
    let v := toFix n m e
    keepFour (if v.natAbs < 200 * 2 ^ fixBits then aboutFix (sigmoidFix v)
      else if n then nextToZero false else exactly { m := 1, e := 0 }) (Config.sigmoidRaw x)

/-- x times a logistic function of x that is all but 0 or 1 beyond a limit. -/
def gatedBy (f : Int → Int) (limit : Nat) (n : Bool) (m : Nat) (e : Int) : Enclosure :=
  let v := toFix n m e
  if v.natAbs < limit * 2 ^ fixBits then aboutFix (fixMul v (f v))
  else if n then nextToZero true else exactly { m := m, e := e }

/-- SiLU (Table 4.6): x σ(x). -/
def silu32 (x : W32) : W32 :=
  match dec32 x with
  | .nan => nan32
  | .inf true => 0x80000000
  | .inf false => inf32 false
  | .fin n m e => keepFour (gatedBy sigmoidFix 200 n m e) (Config.siluRaw x)

/-- The argument of the logistic function in GELU-tanh: √(8/π) (x + 0.044715 x³), the usual form (PRESUMED, log entry 10). -/
def geluArg (v : Int) : Int :=
  let c : Int := Nat.sqrt (8 * 2 ^ (3 * fixBits + 130) / fixPi.toNat)
  fixMul c (v + 44715 * fixMul (fixMul v v) v / 1000000)

/-- GELU-tanh (Table 4.6): x σ(√(8/π) (x + 0.044715 x³)). -/
def gelu32 (x : W32) : W32 :=
  match dec32 x with
  | .nan => nan32
  | .inf true => 0x80000000
  | .inf false => inf32 false
  | .fin n m e => keepFour (gatedBy (fun v => sigmoidFix (geluArg v)) 16 n m e) (Config.geluRaw x)

/-- cos and sin of the rotary embedding (R154): within 2 ulp, otherwise free (log entry 10). -/
def trig32 (exact : Int → Int) (raw : W32 → W32) (x : W32) : W32 :=
  match dec32 x with
  | .fin n m e => keepInside 2 none (aboutFix (exact (modTwoPi (toFix n m e)))) (raw x)
  | _ => nan32
def cos32 (x : W32) : W32 := trig32 cosFix Config.cosRaw x
def sin32 (x : W32) : W32 := trig32 sinFix Config.sinRaw x

end Sys2Proof.Machine
end

