-- ==== Sys2Proof/Machine/ProgOps.lean ====
section
/-!
DEFINITION. Epilogue programs: their form, the element program, rotary embedding, reductions (R148 to R156, R163).
-/
namespace Sys2Proof.Machine

/-- An operation (Table 6.7). -/
structure ProgOp where
  op : Nat
  dst : Nat
  a : Nat
  b : Nat
  c : Nat
  mod : Nat
  imm : Nat
deriving DecidableEq, Repr

/-- The operations of a program in device memory; the constant table comes first (R149). -/
def readOps (s : State) (addr len : Nat) : List ProgOp :=
  (List.range len).map (fun i =>
    let o := addr + 64 + 8 * i
    { op := readLe s o 1, dst := readLe s (o + 1) 1, a := readLe s (o + 2) 1, b := readLe s (o + 3) 1
      c := readLe s (o + 4) 1, mod := readLe s (o + 5) 1, imm := readLe s (o + 6) 2 })

/-- The stage in which a program runs, with what its operands need. -/
structure StageEnv where
  ops : List ProgOp
  /-- Address of the program, for its constants. -/
  prog : Nat
  /-- 0 prologue, 1 and 2 products, 3 finish or `VECTOR`. -/
  stage : Nat
  width : Nat
  pair : Bool
  cvt : Nat
  rs : Nat
  seed : W64
  streams : List StreamDesc
  targets : Nat
  vector : Bool
deriving DecidableEq, Repr

/-- Source operands that an operation uses (Table 6.9). -/
def ProgOp.sources (o : ProgOp) : List Nat :=
  match o.op with
  | 0x01 | 0x02 | 0x04 | 0x05 => [o.a, o.b]
  | 0x03 | 0x06 | 0x21 => [o.a, o.b, o.c]
  | 0x38 => []
  | _ => [o.a]

/-- An operation has a destination register. -/
def ProgOp.hasDst (o : ProgOp) : Bool := o.op < 0x30

/-- The operation codes of Table 6.9. -/
def opCodes : List Nat :=
  [0x01, 0x02, 0x03, 0x04, 0x05, 0x06, 0x10, 0x11, 0x12, 0x13, 0x14, 0x15, 0x20, 0x21, 0x22, 0x30, 0x31, 0x38, 0x40, 0x41]

/-- An operand code that Table 6.8 lists, available in the stage (R145, R153). PAIR in a stage without PAIR, for which the
table gives no value, is taken as a parameter value that R46 leaves unchecked (DESIGN CHOICE, log entry 127). -/
def operandOk (e : StageEnv) (c : Nat) : Bool :=
  c ≤ 0x08 || (c = 0x09 && e.pair) ||
    (0x10 ≤ c && c ≤ 0x12 && match e.streams[c - 0x10]? with
      | some d => 1 ≤ d.kind && d.kind ≤ 3 && d.stage = e.stage && d.fmt < 0xD
      | none => false) ||
    (0x18 ≤ c && c ≤ 0x1B) || (0x20 ≤ c && c ≤ 0x2F) || c = 0x30 || c = 0x31

/-- A modifier and immediate that Table 6.9 and the operation's rule allow. -/
def modOk (e : StageEnv) (o : ProgOp) : Bool :=
  match o.op with
  | 0x06 => o.mod ≤ 5
  | 0x20 => o.mod < 64 && o.mod % 16 < 0xD
  | 0x22 => 1 ≤ o.mod && o.mod ≤ 128 && 2 * o.mod ≤ o.imm && e.width % o.imm = 0
  | 0x30 => o.mod ≤ 2 && o.imm ≤ 3
  | 0x31 => o.mod ≤ 2 && !e.vector
  | 0x38 => e.stage = 0 || e.stage = 3
  | 0x40 => o.mod < 64 && o.mod % 16 ≤ 0x4 && !e.vector
  | 0x41 => o.mod ≤ 1
  | _ => true

/-- A program that Tables 6.7 to 6.9 allow; at most one SWEEP. -/
def progOk (e : StageEnv) : Bool :=
  e.ops.all (fun o => opCodes.contains o.op && (!o.hasDst || o.dst ≤ 7) && o.sources.all (operandOk e) && modOk e o) &&
    e.ops.countP (fun o => o.op = 0x38) ≤ 1

/-- The position of SWEEP. -/
def sweepAt (ops : List ProgOp) : Option Nat := ops.findIdx? (fun o => o.op = 0x38)

/-- Sweeps of a program. -/
def sweeps (ops : List ProgOp) : Nat := if (sweepAt ops).isSome then 2 else 1

/-- The operations of a sweep, with their positions; in sweep 2 reductions before SWEEP perform nothing (R150). -/
def sweepOps (ops : List ProgOp) (sweep : Nat) : List (ProgOp × Nat) :=
  match sweepAt ops with
  | none => ops.zipIdx
  | some k =>
    if sweep = 1 then ops.zipIdx.filter (fun o => o.2 < k)
    else ops.zipIdx.filter (fun o => !(o.2 < k && (o.1.op = 0x30 || o.1.op = 0x31)))

/-- The columns that an epilogue takes at once: heads whole for ROPE, MX blocks whole (R105, R154, R161). -/
def epiUnit (s : State) (e : StageEnv) : Nat :=
  let u := if isMx (e.cvt % 16) then 32 else 1
  e.ops.foldl (fun u o =>
    match o.op with
    | 0x20 => if isMx (o.mod % 16) then Nat.lcm u 32 else u
    | 0x22 => Nat.lcm u o.imm
    | 0x41 =>
      let c := getChannel s (o.imm % 16)
      if c.fmt = 0x9 then (if c.kCol % 32 = 0 && c.vCol % 32 = 0 then Nat.lcm u 32 else Nat.lcm u e.width) else u
    | _ => u) u

/-- The first `n` entries of a table of words: F of the rotary embedding, positions. -/
def wordTable (s : State) (addr n : Nat) : List W32 :=
  (List.range n).map (fun j => BitVec.ofNat 32 (readLe s (addr + 4 * j) 4))

/-- θ = rne32(pos × F[j]) (R154). -/
def theta (table : List W32) (pos : Int) (j : Nat) : W32 := mul32 (ofInt32 pos) (table.getD j 0)

/-- Rotary embedding of whole heads of `d` columns, half-width `half` (R154). -/
def ropeRow (table : List W32) (pos : Int) (d half : Nat) (xs : List W32) : List W32 :=
  (xs.zipIdx).map (fun x =>
    let j := x.2 % d
    if j < half then
      let t := theta table pos j
      fma32 x.1 (cos32 t) (neg32 (mul32 (xs.getD (x.2 + half) 0) (sin32 t)))
    else if j < 2 * half then
      let t := theta table pos (j - half)
      fma32 x.1 (cos32 t) (mul32 (xs.getD (x.2 - half) 0) (sin32 t))
    else x.1)

/-- The values that a run of FP32 values represents once converted (R150): for an MX format, element times scale. -/
def convertedVals (cb : Nat) (seed : W64) (rs : Nat) (index : Nat → Nat) (c0 : Nat) (xs : List W32) : List W32 :=
  let r := convertRun false cb seed (rs % 65536 * 65536) index c0 xs
  ((r.1.zipIdx).take xs.length).map (fun c => elemF32 (cb % 16) (r.2.getD (c.2 / 32) 0x7F) c.1)

/-- A stream's value at a token and column (R153). -/
def streamVal (s : State) (d : StreamDesc) (width t n : Nat) : W32 :=
  match d.kind with
  | 1 =>
    let sc := if isMx d.fmt then (readByte s (d.scale + t * scaleRow width + n / 32)).toNat else 0x7F
    elemF32 d.fmt sc (readElem s d.fmt (d.addr + t * d.ld) n)
  | k =>
    let i := if k = 2 then t else n
    let sc := if isMx d.fmt then (readByte s (d.scale + i / 32)).toNat else 0x7F
    elemF32 d.fmt sc (readElem s d.fmt d.addr i)

/-- One row of a block: its place in the item, token and position, the rotary table, first column, IN and PAIR values, the
row's slots. -/
structure RowIn where
  row : Nat
  token : Nat
  pos : Int
  rope : List W32
  c0 : Nat
  ins : List W32
  pairs : List W32
  stats : Nat → W32

/-- What a program does beside its registers: reductions, sends and hand-offs, by operation position. -/
structure RowOut where
  regs : List (List W32)
  rrow : List (Nat × List W32) := []
  rcol : List (Nat × ProgOp × List W32) := []
  peer : List (ProgOp × List W32) := []
  culvert : List (ProgOp × List W32) := []

/-- The values of an operand over the columns of a row (Table 6.8). -/
def operandVals (s : State) (e : StageEnv) (r : RowIn) (regs : List (List W32)) (c : Nat) : List W32 :=
  let n := r.ins.length
  if c ≤ 7 then regs.getD c []
  else if c = 0x08 then r.ins
  else if c = 0x09 then r.pairs
  else if c ≤ 0x12 then
    let d := e.streams.getD (c - 0x10) {}
    (List.range n).map (fun i => streamVal s d e.width r.token (r.c0 + i))
  else if c ≤ 0x1B then List.replicate n (r.stats (c - 0x18))
  else if c ≤ 0x2F then List.replicate n (BitVec.ofNat 32 (readLe s (e.prog + 4 * (c - 0x20)) 4))
  else if c = 0x30 then List.replicate n (ofInt32 r.token)
  else (List.range n).map (fun i => ofInt32 ((r.c0 + i : Nat) : Int))

/-- The predicate of CMPSEL (Table 6.9). -/
def cmpPred (k : Nat) (a b : W32) : Bool :=
  match k with
  | 0 => lt32 a b
  | 1 => lt32 a b || eq32 a b
  | 2 => eq32 a b
  | 3 => !(isNan32 a) && !(isNan32 b) && !eq32 a b
  | 4 => lt32 b a
  | _ => lt32 b a || eq32 a b

/-- Element indexes of a stage (R106, R150). -/
def stageIndex (e : StageEnv) (t : Nat) (n : Nat) : Nat := t * e.width + n

/-- A run of operand values rounded through the stage's OUT_CVT (R155). -/
def throughOut (e : StageEnv) (r : RowIn) (xs : List W32) : List W32 :=
  convertedVals e.cvt e.seed e.rs (stageIndex e r.token) r.c0 xs

/-- One operation on the columns of a row (Table 6.9). -/
def runOp (s : State) (e : StageEnv) (r : RowIn) (st : RowOut) (o : ProgOp × Nat) : RowOut :=
  let v := operandVals s e r st.regs
  let set := fun (xs : List W32) => { st with regs := listSet st.regs o.1.dst xs }
  let a := v o.1.a
  match o.1.op with
  | 0x01 => set (List.zipWith add32 a (v o.1.b))
  | 0x02 => set (List.zipWith mul32 a (v o.1.b))
  | 0x03 => set ((a.zip ((v o.1.b).zip (v o.1.c))).map (fun x => fma32 x.1 x.2.1 x.2.2))
  | 0x04 => set (List.zipWith max32 a (v o.1.b))
  | 0x05 => set (List.zipWith min32 a (v o.1.b))
  | 0x06 => set ((a.zip ((v o.1.b).zip (v o.1.c))).map (fun x => if cmpPred o.1.mod x.1 x.2.1 then x.2.2 else x.1))
  | 0x10 => set (a.map exp32)
  | 0x11 => set (a.map rsqrt32)
  | 0x12 => set (a.map recip32)
  | 0x13 => set (a.map silu32)
  | 0x14 => set (a.map gelu32)
  | 0x15 => set (a.map sigmoid32)
  | 0x20 => set (convertedVals o.1.mod e.seed (e.rs + 1 + o.2) (stageIndex e r.token) r.c0 a)
  | 0x21 => set ((a.zip ((v o.1.b).zip (v o.1.c))).map (fun x => min32 (max32 x.1 x.2.1) x.2.2))
  | 0x22 => set (ropeRow r.rope r.pos o.1.imm o.1.mod a)
  | 0x30 =>
    let x := throughOut e r a
    { st with rrow := st.rrow ++ [(o.2, if o.1.mod = 1 then x.map (fun y => mul32 y y) else x)] }
  | 0x31 =>
    let x := throughOut e r a
    { st with rcol := st.rcol ++ [(o.2, o.1, if o.1.mod = 1 then x.map (fun y => mul32 y y) else x)] }
  | 0x40 => { st with peer := st.peer ++ [(o.1, a)] }
  | 0x41 => { st with culvert := st.culvert ++ [(o.1, a)] }
  | _ => st

/-- Run a sweep of a program on one row of a block: V0 starts equal to IN, V1 to V7 at +0 (R150). -/
def runRow (s : State) (e : StageEnv) (sweep : Nat) (r : RowIn) : RowOut :=
  let zero := r.ins.map (fun _ => (0 : W32))
  (sweepOps e.ops sweep).foldl (runOp s e r)
    { regs := [r.ins, zero, zero, zero, zero, zero, zero, zero] }

/-- The operation that a reduction folds with, and its identity (R155). -/
def redOp (m : Nat) (a b : W32) : W32 := if m = 2 then max32 a b else add32 a b
def redIdentity (m : Nat) : W32 := if m = 2 then 0xFF800000 else 0

/-- A row statistic over the stage width: chunks of 64 columns, each a tree of six levels, folded in order (R155). -/
def foldRow (m width : Nat) (at' : Nat → W32) : W32 :=
  let chunk := fun c =>
    treeJoin (redOp m) ((List.range 64).map (fun i => if 64 * c + i < width then at' (64 * c + i) else redIdentity m))
  (List.range (ceilDiv width 64)).tail.foldl (fun v c => redOp m v (chunk c)) (chunk 0)

/-- A column reduction over row positions 0 to 127 (R156). -/
def foldCol (m : Nat) (vals : List (Nat × W32)) : W32 :=
  treeJoin (redOp m) ((List.range 128).map (fun r =>
    match vals.find? (fun v => v.1 = r) with
    | some v => v.2
    | none => redIdentity m))

/-- Row slots that operations of a sweep read. -/
def slotsRead (ops : List (ProgOp × Nat)) : List Nat :=
  (ops.flatMap (fun o => o.1.sources.filterMap (fun c => if 0x18 ≤ c && c ≤ 0x1B then some (c - 0x18) else none))).eraseDups

/-- A hand-off to the culvert: part, head, first element, position, layer, values (R229). -/
structure HandRun where
  ch : Nat
  part : Nat
  head : Nat
  i0 : Nat
  pos : Nat
  layer : Nat
  vals : List W32

/-- The hand-offs of a SEND_CULVERT operand of one row: the columns of each head in the run (R161, R229). -/
def culvertRuns (s : State) (r : RowIn) (o : ProgOp) (xs : List W32) : List HandRun :=
  let ch := o.imm % 16
  let c := getChannel s ch
  let base := if o.mod = 0 then c.kCol else c.vCol
  let pos := if r.pos < 0 then 2 ^ 32 else r.pos.toNat
  (List.range c.heads).filterMap (fun h =>
    let lo := max r.c0 (base + h * c.dim)
    let hi := min (r.c0 + xs.length) (base + (h + 1) * c.dim)
    if lo < hi then
      some { ch := ch, part := o.mod, head := h, i0 := lo - (base + h * c.dim), pos := pos, layer := o.imm / 16
             vals := (xs.drop (lo - r.c0)).take (hi - lo) }
    else none)

/-- Deliver hand-offs of a producer in order until one stalls: how many were accepted, and whether all were. -/
def deliverRuns (s : State) (who : CmdId × Nat) (seed : W64) : List HandRun → Nat → State × Nat × Bool
  | [], k => (s, k, true)
  | r :: t, k =>
    let c := getChannel s r.ch
    let x := exportConvert c seed r.part r.head r.i0 r.pos r.layer r.vals
    match handOff s r.ch r.part r.head r.i0 r.pos r.layer x.1 x.2 with
    | .taken s => deliverRuns (endStall s r.ch who) who seed t (k + 1)
    | .stall => (noteStall s r.ch who, k, false)

/-- A target table entry (Table 6.10): chip, window, generation, offset, row stride. -/
def targetAt (s : State) (targets i : Nat) : Nat × Nat × Nat × Nat × Nat :=
  let a := targets + 32 * i
  (readLe s a 2 % 4096, readLe s (a + 2) 2 % 4096, readLe s (a + 4) 2, readLe s (a + 8) 8, readLe s (a + 16) 4)

/-- Runs of consecutive tokens. -/
def consecutive : List (Nat × List Byte) → List (Nat × List (List Byte))
  | [] => []
  | (t, b) :: rest =>
    match consecutive rest with
    | (u, bs) :: more => if u = t + 1 then (t, b :: bs) :: more else (t, [b]) :: (u, bs) :: more
    | [] => [(t, [b])]

/-- The writes of a SEND_PEER for a block: consecutive rows packed within 4,096 B, or pieces of one row (R160, R278). -/
def peerPackets (s : State) (id : CmdId) (tg : Nat × Nat × Nat × Nat × Nat) (col0 : Nat) (rows : List (Nat × List Byte)) :
    List Packet :=
  let one := fun (off rb n : Nat) (data : List Byte) =>
    { ctlPacket s 0x01 (BitVec.ofNat 12 tg.1) with
      vc := 1, window := BitVec.ofNat 12 tg.2.1, gen := BitVec.ofNat 16 tg.2.2.1, offset := BitVec.ofNat 64 off
      rowBytes := BitVec.ofNat 16 rb, rows := BitVec.ofNat 16 n, stride := BitVec.ofNat 32 tg.2.2.2.2
      context := BitVec.ofNat 64 id, payload := data }
  let rb := ((rows.head?).map (fun r => r.2.length)).getD 0
  (consecutive rows).flatMap (fun g =>
    (cut rb g.2.length).map (fun p =>
      let off := tg.2.2.2.1 + (g.1 + p.1) * tg.2.2.2.2 + col0 + p.2.2.1
      one off p.2.2.2 p.2.1
        ((List.range p.2.1).flatMap (fun i => ((g.2.getD (p.1 + i) []).drop p.2.2.1).take p.2.2.2))))
where
  cut (rb rows : Nat) : List (Nat × Nat × Nat × Nat) :=
    if rb ≤ 4096 then
      let per := max 1 (4096 / max 1 rb)
      (List.range (ceilDiv rows per)).map (fun i => (i * per, min per (rows - i * per), 0, rb))
    else
      (List.range rows).flatMap (fun r =>
        (List.range (ceilDiv rb 4096)).map (fun j => (r, 1, 4096 * j, min 4096 (rb - 4096 * j))))

end Sys2Proof.Machine
end

