-- ==== Sys2Proof/Machine/WinOps.lean ====
section
/-!
DEFINITION. Windows and the receiving side of flows (R279, R280, R286 to R290), matched transfers (R295, R296), sending
rows (R294, R301).
-/
namespace Sys2Proof.Machine

/-- A kind of access to a window. -/
inductive WinKind where
  | thl
  | rdmaWrite
  | rdmaRead
deriving DecidableEq, Repr

/-- WFLAGS allows a kind of access (R287). -/
def winAllows (x : Window) (k : WinKind) : Bool :=
  match k with
  | .thl => x.thl
  | .rdmaWrite => x.rdmaWrite
  | .rdmaRead => x.rdmaRead

/-- Why a window refuses an access, as the AUX code of R290: 1 DRAINING, 2 CLOSED, 3 STALE, 4 RANGE, 5 NOT_ALLOWED. `last`
is the end of the furthest byte. -/
def winRefuses (x : Window) (gen : W16) (k : WinKind) (last : Nat) : Option Nat :=
  match x.st with
  | .draining => some 1
  | .closed => some 2
  | .open =>
    if x.gen != gen then some 3
    else if !winAllows x k then some 5
    else if x.bytes < last then some 4
    else none

/-- A write that a window has admitted, or a READ, waits in a receive buffer. -/
def windowBusy (s : State) (w : Nat) : Bool :=
  s.net.inbound.any (fun e => match e with
    | .write _ _ k => k.window.toNat = w
    | .roce _ _ (.write n _ _ _ _) => n = w
    | .roce _ _ (.read n _ _ _) => n = w
    | .roce _ _ _ => false)

/-- A window that drains closes once time has moved on and the writes admitted before the close have finished; its
`WINDOW_CLOSE` completes with the writes refused meanwhile (R288, Table 11.6; log entry 25). -/
def closeNext (s : State) : Option State :=
  match s.net.windows.find? (fun p => p.2.st = .draining && p.2.drainFrom < s.clk.ticks && !windowBusy s p.1) with
  | none => none
  | some (n, x) =>
    let s := putWindow s n { x with st := .closed }
    some { s with cmds := s.cmds.map (fun c => match c.work with
      | .windowClose w => if w = n then { c with work := .done (x.drainRefused % 2 ^ 32) } else c
      | _ => c) }

/-- Count a refused access (R290). -/
def countRefused (s : State) (w : Nat) : State :=
  let x := getWindow s w
  let s := putWindow s w { x with
    refused := x.refused + 1, drainRefused := if x.st = .draining then x.drainRefused + 1 else x.drainRefused }
  { s with net := { s.net with windowRefused := true, windowRefusedCount := s.net.windowRefusedCount + 1 } }

/-- End of the furthest byte that a write packet reaches in its window (R278). -/
def packetEnd (k : Packet) : Nat :=
  if k.rows.toNat = 0 then k.offset.toNat
  else k.offset.toNat + (k.rows.toNat - 1) * k.stride.toNat + k.rowBytes.toNat

/-- Write a packet's rows at a base address (R278). -/
def writeRows (s : State) (base : Nat) (k : Packet) : State :=
  (List.range k.rows.toNat).foldl (fun s i =>
    let a := base + k.offset.toNat + i * k.stride.toNat
    writeMem (ddrTake s .remote false a k.rowBytes.toNat) a
      ((k.payload.drop (i * k.rowBytes.toNat)).take k.rowBytes.toNat)) s

/-- Collective sequence and chunk as AUX2 carries them (log entry 20). A multicast `SEND` has 1 for the chunk, an
`ALLGATHER` 0. -/
def collAux (seq chunk : Nat) : W32 := BitVec.ofNat 32 (chunk + seq % 2048 * 2 ^ 21)
def auxSeq (x : W32) : Nat := x.toNat / 2 ^ 21
def auxChunk (x : W32) : Nat := x.toNat % 2 ^ 21

/-- The collective command of a group and sequence (its low 11 bits). -/
def collCmd (s : State) (g seq : Nat) : Option (Cmd × CollWork) :=
  s.cmds.findSome? (fun c => match c.work with
    | .coll w => if w.group = g && w.seq % 2048 = seq % 2048 && w.started then some (c, w) else none
    | _ => none)

/-- The rank of a multicast's next member in ring order (R301). -/
def nextRank (s : State) (g : Nat) : Nat := (groupRank s g + 1) % groupSize s g

/-- A member passes an admitted MCAST_WRITE on to its successor, unless that is the origin (R301, R302). CONTEXT names the origin's
command, FWD_EVENT and the last packet. -/
def passMcast (s : State) (k : Packet) (ingress : Option Ingress) : State :=
  let g := k.group.toNat
  let succ := nextRank s g
  if succ = k.aux.toNat then s
  else passWrite s { k with
      dst := memberChip s g succ, cls := false, window := BitVec.ofNat 12 (memberWindow s g succ)
      gen := BitVec.ofNat 16 (memberGen s g succ) }
    (if bitOf k.context.toNat 48 then .fwd (bitsOf k.context.toNat 47 32) else .none)
    (ingress.map (fun i => { i with key := none }))

/-- What waited in a flow takes effect: a counter, the last packet of a ring multicast, or the acknowledgement of the whole by this
member, which an `ALLGATHER` here sends as its own (R279 to R281, R301). -/
def applyDue (s : State) (x : FlowDue) : State :=
  match x with
  | .event n => addEvent s n 1
  | .pass k g => passMcast s k g
  | .mcast origin context group aux2 =>
    routePacket s { ctlPacket s 0x10 origin with
      context := context, group := group, flowSeq := aux2, aux := 0xFFFF, aux2 := BitVec.ofNat 32 (groupRank s group.toNat) }
      (match collCmd s group.toNat (auxSeq aux2) with | some (c, _) => .cmd c.id | none => .none) none

/-- Apply the signals of a flow whose writes below `done` are all written or refused (R279). -/
def flowSignals (s : State) (key : Nat) : State :=
  let f := getFlowRx s key
  let due := f.signals.filter (fun x => x.1 < f.done)
  due.foldl (fun s x => applyDue s x.2) (putFlowRx s key { f with signals := f.signals.filter (fun x => !(x.1 < f.done)) })

/-- Advance `done` over landed sequences. -/
def flowAdvance : Nat → Nat → List Nat → Nat × List Nat
  | 0, d, l => (d, l)
  | n + 1, d, l => if l.contains d then flowAdvance n (d + 1) (l.filter (· != d)) else (d, l)

/-- A write of a flow is written, refused, or given up: signals that are due apply, and an ACK carries the highest sequence up to
which all are done, with the flow's VC in AUX (R279, R280, log entry 20). A signal between a lost write and the one with which the
sender went on never applies (R281; log entry 21). -/
def flowLand (s : State) (src : BitVec 12) (vc q : Nat) (due : List FlowDue) : State :=
  let key := flowKey src.toNat vc
  let f := getFlowRx s key
  let fresh := f.done ≤ q && !f.landed.contains q
  let r := flowAdvance (f.landed.length + 2) f.done (if fresh then f.landed ++ [q] else f.landed)
  let heard := fresh && !f.gone.any (fun x => x.1 ≤ q && q < x.2)
  let s := putFlowRx s key { f with
    done := r.1, landed := r.2, gone := f.gone.filter (fun x => r.1 < x.2)
    signals := if heard then f.signals ++ due.map (fun x => (q, x)) else f.signals }
  let s := flowSignals s key
  if 0 < r.1 then
    routeCtl s { ctlPacket s 0x10 src with flowSeq := BitVec.ofNat 32 (r.1 - 1), aux := BitVec.ofNat 16 vc }
  else s

/-- A write packet has been written or refused. -/
def flowDone (s : State) (k : Packet) (due : List FlowDue) : State := flowLand s k.src k.vc.val k.flowSeq.toNat due

/-- Refuse a write (R290): counted, dropped, answered; in the flow it counts as refused. -/
def refuseWrite (s : State) (k : Packet) (dst : BitVec 12) (reason : Nat) : State :=
  let s := countRefused s k.window.toNat
  let s := routeCtl s { ctlPacket s 0x11 dst with
    window := k.window, gen := k.gen, context := k.context, flowSeq := k.flowSeq, aux := BitVec.ofNat 16 reason }
  flowDone s k []

/-- Bytes of a write that land for a matched `RECV` are counted (R296, R369). -/
def countRecv (s : State) (k : Packet) : State :=
  match s.cmds.find? (fun c => match c.work with
    | .recv w => w.matched && w.src = k.src.toNat && w.window = k.window.toNat && w.context = k.context.toNat
    | _ => false) with
  | none => s
  | some c => modCmd s c.id (fun c => { c with
      progress := s.clk.ticks
      work := match c.work with
        | .recv w => .recv { w with got := w.got + k.rowBytes.toNat * k.rows.toNat }
        | w => w })

/-- 64-byte accesses of LPDDR5X that a packet's rows take at a base (R215). -/
def rowAccesses (base : Nat) (k : Packet) : Nat :=
  ((List.range k.rows.toNat).map (fun i =>
    ddrAccesses (base + k.offset.toNat + i * k.stride.toNat) k.rowBytes.toNat)).sum

/-- The REMOTE class takes a write of `n` accesses in the present window; more than a window's ceiling begin with a whole one
(R215; log entry 121). -/
def remoteFits (s : State) (n : Nat) : Bool := min n (ddrCeiling s .remote) ≤ ddrLeft s .remote

/-- An admitted write of `n` accesses waits in its receive buffer: behind earlier ones, or because the REMOTE class is at its
ceiling (R215). -/
def remoteWaits (s : State) (n : Nat) : Bool := 0 < n && (!s.net.inbound.isEmpty || !remoteFits s n)

/-- An admitted WRITE or WRITE_SIGNAL lands at a base (R278, R279, R296). -/
def landWrite (s : State) (base : Nat) (k : Packet) : State :=
  flowDone (countRecv (writeRows s base k) k) k (if k.kind = 0x02 then [.event k.eventId.toNat] else [])

/-- Cut rows into writes (R294): pieces of at most 4,096 B; consecutive rows that fit together are packed. The list
gives (first row, rows, offset in the row, bytes). -/
def cutRows (rowBytes rows : Nat) : List (Nat × Nat × Nat × Nat) :=
  if rowBytes ≤ 4096 then
    let per := max 1 (4096 / max 1 rowBytes)
    (List.range (ceilDiv rows per)).map (fun i => (i * per, min per (rows - i * per), 0, rowBytes))
  else
    (List.range rows).flatMap (fun r =>
      (List.range (ceilDiv rowBytes 4096)).map (fun j => (r, 1, 4096 * j, min 4096 (rowBytes - 4096 * j))))

/-- The source bytes of a piece. -/
def pieceData (s : State) (src stride : Nat) (x : Nat × Nat × Nat × Nat) : List Byte :=
  (List.range x.2.1).flatMap (fun i => readMem s (src + (x.1 + i) * stride + x.2.2.1) x.2.2.2)

/-- Where a transfer goes: chip, window, generation, first offset, row stride, VC, kind of its writes. -/
structure Target where
  chip : BitVec 12
  window : Nat
  gen : Nat
  offset : Nat
  stride : Nat
  vc : Fin 5
  kind : Nat

/-- The packet of a piece. -/
def piecePacket (s : State) (t : Target) (x : Nat × Nat × Nat × Nat) (data : List Byte) (context : Nat) : Packet :=
  { ctlPacket s t.kind t.chip with
    vc := t.vc, window := BitVec.ofNat 12 t.window, gen := BitVec.ofNat 16 t.gen
    offset := BitVec.ofNat 64 (t.offset + x.1 * t.stride + x.2.2.1)
    rowBytes := BitVec.ofNat 16 x.2.2.2, rows := BitVec.ofNat 16 x.2.1, stride := BitVec.ofNat 32 t.stride
    context := BitVec.ofNat 64 context, payload := data }

/-- The first granule of a source's rows at which reads meet an error (R222). -/
def srcBad (s : State) (src stride rowBytes rows : Nat) : Option Nat :=
  if s.mem.bad.isEmpty then none
  else (List.range rows).findSome? (fun r => badAt s (src + r * stride) rowBytes)

/-- Send the rows of a `SEND` as writes of one flow (R294); with SIGNAL the last is a WRITE_SIGNAL. -/
def sendRows (s : State) (id : CmdId) (urgent : Bool) (w : SendWork) (t : Target) (rows : Nat) : State :=
  match srcBad s w.src w.srcStride w.rowBytes rows with
  | some a => exhaustAll s id (otherTile 0 0) a
  | none =>
    let ps := cutRows w.rowBytes rows
    (ps.zipIdx).foldl (fun s p =>
      if gone s id then s
      else
        let data := pieceData s w.src w.srcStride p.1
        let s := ddrTake s .read urgent (w.src + p.1.1 * w.srcStride) data.length
        let last := p.2 + 1 = ps.length
        let k := piecePacket s t p.1 data id
        let k := if last && bitOf w.sflags 0 then { k with kind := 0x02, eventId := BitVec.ofNat 16 w.event } else k
        sendWrite s k (.cmd id)) s

/-- Send an RTS (R295): group, rank, tag and the transfer's total bytes. -/
def sendRts (s : State) (id : CmdId) (w : SendWork) : State :=
  let me := groupRank s w.group
  let s := modCmd s id (fun c => { c with work := .send { w with rtsSent := true, rtsRefused := none, started := true } })
  routePacket s { ctlPacket s 0x14 (memberChip s w.group w.rank) with
    group := BitVec.ofNat 16 w.group, aux := BitVec.ofNat 16 me, aux2 := BitVec.ofNat 32 w.tag
    offset := BitVec.ofNat 64 (w.rowBytes * w.rows), context := BitVec.ofNat 64 id
    stride := BitVec.ofNat 32 w.dstStride, payload := leBytes 4 w.rowBytes ++ leBytes 4 w.rows } (.cmd id) none

/-- The rows of a transfer that lie whole within a capacity (R295). -/
def fitRows (rowBytes rows stride cap : Nat) : Nat :=
  if cap < rowBytes then 0 else if stride = 0 then rows else min rows ((cap - rowBytes) / stride + 1)

/-- The bytes that a matched transfer will write (R295, R296; log entry 23). -/
def Rts.expect (r : Rts) (cap : Nat) : Nat :=
  if r.rowBytes = 0 then min r.total cap else r.rowBytes * fitRows r.rowBytes r.rows r.stride cap

/-- Whether an unmatched `RECV` takes an RTS (R295). -/
def recvTakes (c : Cmd) (r : Rts) : Bool :=
  match c.work with
  | .recv w => !w.matched && w.group = r.group && w.rank = r.rank && w.tag = r.tag
  | _ => false

/-- Match an RTS with a `RECV`: the CTS names its window, generation, offset and capacity (R295), and returns the RTS's CONTEXT
(log entry 20). -/
def matchRts (s : State) (c : Cmd) (r : Rts) : State :=
  match c.work with
  | .recv w =>
    let s := modCmd s c.id (fun c => { c with
      work := .recv { w with
        matched := true, src := r.src, context := r.context, total := r.total, expect := r.expect w.capacity } })
    routePacket s { ctlPacket s 0x15 (BitVec.ofNat 12 r.src) with
      window := BitVec.ofNat 12 w.window, gen := (getWindow s w.window).gen, offset := BitVec.ofNat 64 w.offset
      group := BitVec.ofNat 16 w.group, aux2 := BitVec.ofNat 32 w.tag, context := BitVec.ofNat 64 c.id
      payload := leBytes 8 w.capacity ++ leBytes 8 r.context } (.cmd c.id) none
  | _ => s

/-- The earliest-dispatched `RECV` that takes an RTS (R295). -/
def recvFor (s : State) (r : Rts) : Option Cmd :=
  (s.cmds.filter (fun c => recvTakes c r)).foldl (fun a c =>
    match a with
    | none => some c
    | some d => if c.order < d.order then some c else some d) none

end Sys2Proof.Machine
end

