-- ==== Sys2Proof/Machine/EpiRun.lean ====
section
/-!
DEFINITION. CHAIN and VECTOR: parameters and tiers (R139 to R148, R157, R158, R164), column blocks of products on their way
to the vector unit, and the vector unit's steps (R150 to R162).
-/
namespace Sys2Proof.Machine

/-- A stream descriptor (Table 6.5). -/
def streamOf (b : List Byte) : StreamDesc :=
  { addr := fieldLe b 0 8, ld := fieldLe b 8 4, fmt := fieldLe b 12 1, kind := fieldLe b 13 1, stage := fieldLe b 14 1
    scale := fieldLe b 16 8 }

/-- Three stream descriptors from an offset of a block. -/
def streamsOf (b : List Byte) (o : Nat) : List StreamDesc :=
  (List.range 3).map (fun i => streamOf ((b.drop (o + 24 * i)).take 24))

/-- A product stage of a `CHAIN` (Table 6.3). -/
def chainProd (b : List Byte) (o : Nat) (shape m : Nat) (mask : Bool) (rowMask : Nat) : Prod :=
  let f := fieldLe b (o + 86) 1
  { x := fieldLe b o 8, w := fieldLe b (o + 8) 8, y := fieldLe b (o + 16) 8, xs := fieldLe b (o + 24) 8
    ws := fieldLe b (o + 32) 8, ys := fieldLe b (o + 40) 8, init := fieldLe b (o + 48) 8, n := fieldLe b (o + 56) 4
    k := fieldLe b (o + 60) 4, xLd := fieldLe b (o + 64) 4, wLd := fieldLe b (o + 68) 4, yLd := fieldLe b (o + 72) 4
    initLd := fieldLe b (o + 76) 4, xFmt := fieldLe b (o + 80) 1, wFmt := fieldLe b (o + 81) 1
    yCvt := fieldLe b (o + 82) 1, initFmt := fieldLe b (o + 83) 1, nk := fieldLe b (o + 84) 1 = 1
    nTile := fieldLe b (o + 85) 1, pair := bitOf f 0, wKmajor := bitOf f 1, initEn := bitOf f 2, writeY := bitOf f 3
    hold := bitOf f 4, progLen := fieldLe b (o + 87) 1
    progAddr := fieldLe b 32 8 + 8 * fieldLe b (o + 88) 2, rsId := fieldLe b (o + 90) 2
    shape := shape, m := m, rowMaskEn := mask, rowMask := rowMask }

/-- The parameters of `CHAIN` beyond its products (Tables 6.1, 6.2, 6.4, 6.5). -/
def chainPar (b : List Byte) : ChainPar :=
  { stageMask := fieldLe b 0 1, shape := fieldLe b 1 1, m := fieldLe b 8 4, rowMaskEn := bitOf (fieldLe b 3 1) 0
    rowMask := fieldLe b 16 8, spillAddr := fieldLe b 24 8, spillStride := fieldLe b 12 4, targets := fieldLe b 40 8
    rope := fieldLe b 48 8, pos := fieldLe b 56 8
    inAddr := fieldLe b 64 8, inScale := fieldLe b 72 8, inLd := fieldLe b 80 4, inFmt := fieldLe b 84 1
    inCvt := fieldLe b 85 1, inLen := fieldLe b 86 1, inProg := fieldLe b 32 8 + 8 * fieldLe b 88 2
    inRs := fieldLe b 90 2, inWidth := fieldLe b (112 + 60) 4
    outAddr := fieldLe b 304 8, outScale := fieldLe b 312 8, outLd := fieldLe b 320 4, outCvt := fieldLe b 324 1
    outLen := fieldLe b 325 1, outProg := fieldLe b 32 8 + 8 * fieldLe b 326 2, outRs := fieldLe b 328 2
    streams := streamsOf b 336 }

/-- Presence of the stages. -/
def ChainPar.hasPro (p : ChainPar) : Bool := bitOf p.stageMask 0
def ChainPar.hasTwo (p : ChainPar) : Bool := bitOf p.stageMask 1
def ChainPar.hasFin (p : ChainPar) : Bool := bitOf p.stageMask 2

/-- The hand-over tier of Table 6.6: 0 none, 1 berm, 2 accumulator, 3 spill. `bermUnits` is 16, or 4 for priority 0
(R355). -/
def handTierOf (two : Bool) (pa h units rows bermUnits : Nat) (pair : Bool) : Nat :=
  if !two then 0
  else if pa + h ≤ bermUnits then 1
  else if ceilDiv (rows * 4 * 128) 65536 + ceilDiv (rows * 4 * (if pair then 256 else 128)) 65536 + h ≤ units then 2
  else 3

/-- Tiers, tiles and strips of a `CHAIN`, decided at dispatch (R119, R143, R144, R148, R157). -/
def chainPlan (s : State) (urgent : Bool) (par : ChainPar) (ps : List Prod) : ChainPar × List Prod :=
  let rows := rowsOf par.shape
  let p1 := ps.headD {}
  let avail := accAvail s urgent
  let berm := if urgent then 4 else 16
  let pa := if par.hasPro then areaUnits rows p1.k (par.inCvt % 16) else 0
  let h := if par.hasTwo then areaUnits rows p1.width (p1.yCvt % 16) else 0
  let tier := handTierOf par.hasTwo pa h (avail / 65536) rows berm p1.pair
  let avail := if tier = 2 then avail - 65536 * h else avail
  let ps := ps.map (fun p => p.cut rows avail)
  let last := ps.getLast?.getD {}
  let resident := !last.nk && last.strips = 1 && ceilDiv (rows * last.width * 4) 65536 ≤ avail / 65536
  ({ par with handTier := tier, proSpilled := berm < pa, heldSpilled := last.hold && !resident }, ps)

/-- Stationary loads added by N splitting (Table 5.5). -/
def addedLoads (t : Bool) (ps : List Prod) : Nat :=
  ps.foldl (fun a p => a + (if prodRanges p = 0 then 0 else prodTiles t p * (p.strips - 1) * prodSlices t p)) 0

/-- DETAIL of `CHAIN` on `OK` (Table 6.5a). -/
def chainDetail (par : ChainPar) (ps : List Prod) : Nat :=
  satTo (2 ^ 32 - 1) (addedLoads false ps) + par.handTier * 2 ^ 32 + bit01 par.proSpilled * 2 ^ 34 +
    bit01 par.heldSpilled * 2 ^ 35 + (ps.getLast?.getD {}).effTile * 2 ^ 48

/-- DETAIL of `GEMM`, `GEMM_T` and `GEMM_LIST` on `OK` (Table 5.5); a strip count that does not fit its 16 bits is taken
modulo 65,536 (DESIGN CHOICE, log entry 125). -/
def gemmDetail (t : Bool) (ps : List Prod) (tile : Nat) : Nat :=
  satTo (2 ^ 32 - 1) (addedLoads t ps) +
    (ps.foldl (fun a p => max a (if prodRanges p = 0 then 1 else p.strips)) 1) % 65536 * 2 ^ 32 + tile * 2 ^ 48

/-- The stage environment of a stage of a `CHAIN` or of `VECTOR` (R149, R150). The program is read from memory whenever it is
needed, as the target table is (DESIGN CHOICE, log entry 144). -/
def stageEnv (s : State) (c : Cmd) (w : ArrayWork) (stage : Nat) : StageEnv :=
  let p := w.par
  let base : StageEnv :=
    { ops := [], prog := 0, stage := stage, width := 0, pair := false, cvt := 0, rs := 0, seed := c.hdr.seed
      streams := p.streams, targets := p.targets, vector := w.kind = .vector }
  match stage with
  | 0 => { base with
      ops := readOps s p.inProg p.inLen, prog := p.inProg, width := (w.prods.headD {}).k, cvt := p.inCvt, rs := p.inRs }
  | 3 => { base with
      ops := readOps s p.outProg p.outLen, prog := p.outProg, cvt := p.outCvt, rs := p.outRs
      width := if w.kind = .vector then p.inWidth else (w.prods.getLast?.getD {}).width }
  | i =>
    let q := w.prods.getD (i - 1) {}
    { base with
      ops := readOps s q.progAddr q.progLen, prog := q.progAddr, width := q.width, pair := q.pair, cvt := q.yCvt
      rs := q.rsId }

/-- The stages of a work that run programs. -/
def stagesOf (w : ArrayWork) : List Nat :=
  if w.kind = .vector then [3]
  else (if w.par.hasPro then [0] else []) ++ [1] ++ (if w.par.hasTwo then [2] else []) ++
    (if w.par.hasFin then [3] else [])

/-- Bytes that a program occupies: none is read where it has no operation. -/
def progBytes (len : Nat) : Nat := if len = 0 then 0 else 64 + 8 * len

/-- Where the programs of a work lie. -/
def progRanges (w : ArrayWork) : List (Nat × Nat) :=
  if w.kind = .vector then [(w.par.outProg, progBytes w.par.outLen)]
  else (if w.par.hasPro then [(w.par.inProg, progBytes w.par.inLen)] else []) ++
    w.prods.map (fun p => (p.progAddr, progBytes p.progLen)) ++
    (if w.par.hasFin then [(w.par.outProg, progBytes w.par.outLen)] else [])

/-- Rows of an item of `CHAIN` or `VECTOR`, its first token and its tokens. -/
def progRows (w : ArrayWork) : Nat := if w.kind = .vector then 128 else rowsOf w.par.shape
def progToken (w : ArrayWork) (x : Item) : Nat := x.tile * progRows w
def progTokens (w : ArrayWork) (x : Item) : Nat := min (progRows w) (w.par.m - progToken w x)

/-- Every operation of a work's programs. -/
def allOps (s : State) (c : Cmd) (w : ArrayWork) : List ProgOp := (stagesOf w).flatMap (fun k => (stageEnv s c w k).ops)

/-- Entries of the rotary table that a work's programs use, and whether they use positions (R154, R161). -/
def ropeLen (s : State) (c : Cmd) (w : ArrayWork) : Nat :=
  (allOps s c w).foldl (fun n o => if o.op = 0x22 then max n o.mod else n) 0
def usesPos (s : State) (c : Cmd) (w : ArrayWork) : Bool := (allOps s c w).any (fun o => o.op = 0x22 || o.op = 0x41)

/-- What is read once for an item: row mask, rotary table, positions (R153). -/
def onceRanges (s : State) (c : Cmd) (w : ArrayWork) (x : Item) : List (Nat × Nat) :=
  let n := progTokens w x
  let t0 := progToken w x
  (if w.par.rowMaskEn then [(w.par.rowMask + t0 / 8, ceilDiv (t0 % 8 + n) 8)] else []) ++
    (if 0 < ropeLen s c w then [(w.par.rope, 4 * ropeLen s c w)] else []) ++
    (if usesPos s c w then [(w.par.pos + 4 * t0, 4 * n)] else [])

/-- An item with what is read once for it. -/
def readOnce (s : State) (c : Cmd) (w : ArrayWork) (x : Item) : Item :=
  let t0 := progToken w x
  { x with
    rows := (List.range (progRows w)).map (fun r => tokenPresent s w.par.rowMaskEn w.par.rowMask w.par.m (t0 + r))
    rope := wordTable s w.par.rope (ropeLen s c w)
    poss := if usesPos s c w then wordTable s (w.par.pos + 4 * t0) (progTokens w x) else [] }

/-- Blocks of a sweep of a prologue, a finish or `VECTOR`: 128 columns, more where heads or blocks need it (R152). -/
def sweepBlocks (s : State) (id : CmdId) (x : Item) (kind : EpiKind) (e : StageEnv) : List Epi :=
  let u := Nat.lcm 128 (epiUnit s e)
  (List.range (sweeps e.ops)).flatMap (fun k =>
    (List.range (ceilDiv e.width u)).map (fun i =>
      { cmd := id, item := x.idx, kind := kind, sweep := k + 1, c0 := i * u, w := min u (e.width - i * u) }))

/-- Queue blocks of sweeps for a core's vector unit, behind what is queued. DESIGN CHOICE (log entry 108): R152 orders
committed blocks; the blocks of an item's sweeps queue at once when the sweep is due. -/
def pushEpi (s : State) (core : Nat) (es : List Epi) : State :=
  let k := getCore s core
  putCore s core { k with epiQ := k.epiQ ++ es }

/-- Queue a committed block: in commit order, TA0's before those that TA1 committed in the same tick and that have not begun
(R152). -/
def commitEpi (s : State) (core : Nat) (e : Epi) : State :=
  let k := getCore s core
  let late := if e.arr = 0 then (k.epiQ.reverse.takeWhile (fun y =>
    y.arr = 1 && y.tick = s.clk.ticks && y.handed = 0 && y.reruns = 0)).length else 0
  let n := k.epiQ.length - late
  putCore s core { k with epiQ := k.epiQ.take n ++ { e with tick := s.clk.ticks } :: k.epiQ.drop n }

/-- Begin an item of `CHAIN` or `VECTOR`: the prologue's or the program's blocks are due (R148, R164). -/
def beginItem (s : State) (c : Cmd) (w : ArrayWork) (x : Item) : State :=
  match w.kind with
  | .chain => if w.par.hasPro then pushEpi s x.core (sweepBlocks s c.id x .prologue (stageEnv s c w 0)) else s
  | .vector => pushEpi s x.core (sweepBlocks s c.id x .vec (stageEnv s c w 3))
  | _ => s

/-- Columns of a stage result that can be formed from `n` committed columns of its product (R145). -/
def outColumns (p : Prod) (n : Nat) : Nat := if p.pair then n / 256 * 128 else n

/-- Give the vector unit the columns that have become ready (R145, R150, R154). -/
def queueEpi (s : State) (c : Cmd) (w : ArrayWork) (x : Item) (committed : Nat) : State :=
  let p := w.prods.getD (x.stage - 1) {}
  let e := stageEnv s c w x.stage
  let n := outColumns p committed
  let upto := if p.width ≤ n then p.width else n / epiUnit s e * epiUnit s e
  let s := modItem s c.id x.idx (fun x => { x with committed := committed, queued := max x.queued upto })
  if x.queued < upto then
    commitEpi s x.core { cmd := c.id, item := x.idx, kind := .product x.stage, sweep := 1, c0 := x.queued
                         w := upto - x.queued, arr := x.arr }
  else s

/-- The product and columns of the block in flight on an array (R62, R119). -/
def blockOf (w : ArrayWork) (q : Pass) : Prod × Nat × Nat :=
  let p := w.prods.getD q.spec.load.prod {}
  let n0 := q.spec.n0 + q.done
  (p, n0, min p.blockCols (q.spec.n0 + q.spec.w - n0))

/-- The head of a chain reads the stream of a grant as far as a position, once for the chain (R130). -/
def readStream (s : State) (c : Cmd) (w : ArrayWork) (x : Item) (core pos : Nat) (rs : List (Nat × Nat)) : State :=
  if core = x.head && tabGet w.read 0 x.grant < pos then
    takeReads (setArray s c.id { w with read := tabSet w.read x.grant pos }) c.urgent rs
  else s

/-- The accumulator locations that a block writes, with their prior values (R64). -/
def blockPrior (t : Bool) (p : Prod) (x : Item) (tile : Tile) (n0 w : Nat) : Tab (Option W32) :=
  (passRows t p tile).flatMap (fun r => (List.range w).map (fun i => (rc r.1 (n0 + i), tabFind? x.acc (rc r.1 (n0 + i)))))

/-- The load port's claim ends when no pass that follows uses the tile (R358): its slots, or those of the area that it comes
from, are EMPTY. -/
def endClaim (s : State) (w : ArrayWork) (id : CmdId) (x : Item) (l : LoadSpec) (rest : List PassSpec) : State :=
  if fromMemory w l then
    if (rest.head?.map (·.load)) = some l then s else releaseTile s x.core { cmd := id, item := x.idx, load := l }
  else if w.kind = .attendB then moveSlots s x.core (areaSlots w x l) .empty none
  else if rest.any (fun p => p.load.prod = l.prod) then s
  else modItem (freeSlots s x.core (areaSlots w x l)) id x.idx (fun x =>
    if l.prod = 0 then { x with proSlots := [] } else { x with handSlots := [] })

/-- An array has committed a block of `n` columns of its pass: the block's undo area is released and the next block takes the
other one (R63, R64). `halt`: a priority-0 tile is loaded, so the pass has reached the boundary at which it stops (R356). -/
def blockDone (s : State) (core arr : Nat) (q : Pass) (n : Nat) (halt : Bool) : State :=
  let a := (getArray s core arr).closeUndo
  putArray s core arr (if q.done + n = q.spec.w then { a with pass := none, lastCast := s.clk.ticks }
    else { a.openUndo with
      pass := some { q with done := q.done + n, reruns := 0, halt := halt }, lastCast := s.clk.ticks })

/-- The outputs of a `GEMM` item up to a column are written as far as they can be formed; the item ends with the last
(R117, R120, R127). -/
def gemmOut (s : State) (c : Cmd) (w : ArrayWork) (x : Item) (p : Prod) (upto : Nat) : State :=
  let from' := if x.queued = 0 then x.n0 else x.queued
  let to' := alignedPrefix (if isMx (p.yCvt % 16) then 32 else 1) upto x.n0 x.n1
  let s := if from' < to' then writeProduct s c w x from' (to' - from') else s
  let s := modItem s c.id x.idx (fun x => { x with queued := max to' from', written := to' - x.n0 })
  if x.n1 ≤ to' then itemDone s c.id x.idx else s

/-- What the block in flight of a product's pass leaves in the accumulator, or in S2 for the vector unit: its results, with the
prior values of the accumulator locations that it writes (R63, R64, R70, R95 to R99). -/
def productResults (s : State) (w : ArrayWork) (x : Item) (q : Pass) (tile : Tile) : Tab W32 × Tab (Option W32) :=
  let t := w.transposed
  let b := blockOf w q
  if b.1.shape = 2 then (blockAcc s t b.1 { x with acc := x.acc2 } tile b.2.1 b.2.2, [])
  else (blockAcc s t b.1 x tile b.2.1 b.2.2, blockPrior t b.1 x tile b.2.1 b.2.2)

/-- The values that enter a program for one row of a block (Table 6.8). -/
def rowIn (s : State) (w : ArrayWork) (x : Item) (e : StageEnv) (stage c0 n r : Nat) : RowIn :=
  let p := w.par
  let token := progToken w x + r
  let cols := (List.range n).map (c0 + ·)
  let q := w.prods.getD (stage - 1) {}
  let src := fun (n : Nat) => if q.pair then n / 128 * 256 + n % 128 else n
  let input := fun (n : Nat) =>
    let sc := if isMx p.inFmt then (readByte s (p.inScale + token * scaleRow e.width + n / 32)).toNat else 0x7F
    elemF32 p.inFmt sc (readElem s p.inFmt (p.inAddr + token * p.inLd) n)
  let acc := if p.shape = 2 then x.acc2 else x.acc
  { row := r, token := token, pos := signedOf 32 (x.poss.getD r 0).toNat, rope := x.rope, c0 := c0
    ins :=
      if stage = 0 || w.kind = .vector then cols.map input
      else if stage = 3 then
        if p.heldSpilled then
          cols.map (fun n => BitVec.ofNat 32 (readLe s (heldSpillAt w x.core x.arr + 4 * (r * e.width + n)) 4))
        else cols.map (fun n => tabGet x.held 0 (rc r n))
      else cols.map (fun n => accToF32 q.int (tabGet acc 0 (rc r (src n))))
    pairs :=
      if q.pair && (stage = 1 || stage = 2) then cols.map (fun n => accToF32 q.int (tabGet acc 0 (rc r (src n + 128))))
      else []
    stats := fun k => tabGet x.stats 0 (k * 128 + r) }

/-- The present rows of an item (R114, R150). -/
def itemRows (x : Item) : List Nat := ((x.rows.zipIdx).filter (·.1)).map (·.2)

/-- The bytes that a block's program reads: its input or held values, its streams, their scales (R148, R153, R157). -/
def epiRanges (w : ArrayWork) (x : Item) (e : StageEnv) (ins : List RowIn) (n : Nat) : List (Nat × Nat) :=
  let p := w.par
  let run := fun (fmt a sc ld scLd t c n : Nat) =>
    (a + t * ld + c * fmtBits fmt / 8, fmtBytes fmt n) ::
      (if isMx fmt then [(sc + t * scLd + c / 32, scaleRow (c % 32 + n))] else [])
  let inputs :=
    if e.stage = 0 || w.kind = .vector then
      ins.flatMap (fun r => run p.inFmt p.inAddr p.inScale p.inLd (scaleRow e.width) r.token r.c0 n)
    else if e.stage = 3 && p.heldSpilled then
      ins.map (fun r => (heldSpillAt w x.core x.arr + 4 * (r.row * e.width + r.c0), 4 * n))
    else []
  let used := (e.ops.flatMap (·.sources)).eraseDups
  inputs ++ (e.streams.zipIdx).flatMap (fun d =>
    let f := d.1.fmt
    if !used.contains (0x10 + d.2) then []
    else if d.1.kind = 1 then ins.flatMap (fun r => run f d.1.addr d.1.scale d.1.ld (scaleRow e.width) r.token r.c0 n)
    else if d.1.kind = 2 then ins.flatMap (fun r => run f d.1.addr d.1.scale 0 0 0 r.token 1)
    else (ins.take 1).flatMap (fun r => run f d.1.addr d.1.scale 0 0 0 r.c0 n))

/-- The first address at which those reads meet an error. -/
def epiBad (s : State) (w : ArrayWork) (x : Item) (e : StageEnv) (ins : List RowIn) (n : Nat) : Option Nat :=
  if s.mem.bad.isEmpty then none
  else ((epiRanges w x e ins n).find? (fun r => rangeBad s r.1 r.2)).map (·.1)

/-- Fold the reductions of a sweep into the row slots (R155, R156). DESIGN CHOICE (log entry 109): of two RROWs of one sweep
that name the same slot, the later one's result stands. -/
def foldStats (x : Item) (ops : List (ProgOp × Nat)) (width : Nat) (rows : List Nat) : Tab W32 :=
  (ops.filter (fun o => o.1.op = 0x30)).foldl (fun st o =>
    rows.foldl (fun st r =>
      tabSet st (o.1.imm * 128 + r)
        (foldRow o.1.mod width (fun n => tabGet x.rrow (redIdentity o.1.mod) (prc o.2 r n)))) st) x.stats

/-- The width of a stage's column blocks: its product's (R62), 128 in a prologue, a finish or `VECTOR` (R152). -/
def stageBlock (w : ArrayWork) (stage : Nat) : Nat :=
  if stage = 0 || stage = 3 then 128 else (w.prods.getD (stage - 1) {}).blockCols

/-- Write the RCOL rows of a block, masked rows counting as the identity (R156). -/
def writeRcol (s : State) (u : Bool) (id : CmdId) (x : Item) (e : StageEnv) (bw : Nat) (ep : Epi) (outs : List (RowIn × RowOut)) :
    State :=
  (((sweepOps e.ops ep.sweep).filter (fun o => o.1.op = 0x31)).zipIdx).foldl (fun s o =>
    let tg := targetAt s e.targets o.1.1.imm
    let a := tg.2.2.2.1 + x.tile * tg.2.2.2.2 + 4 * ep.c0
    let sums := (List.range ep.w).map (fun i =>
      (foldCol o.1.1.mod (outs.map (fun y => (y.1.row, (((y.2.rcol.getD o.2 (0, o.1.1, [])).2.2).getD i 0))))).toNat)
    let bytes := sums.flatMap (leBytes 4)
    let s := writeMem (ddrTake s .write u a bytes.length) a bytes
    logRun s id x.idx 2 bw 0 a ep.c0 0 sums []) s

/-- Send the SEND_PEER values of a block (R160). -/
def sendPeer (s : State) (id : CmdId) (x : Item) (e : StageEnv) (bw c0 : Nat) (outs : List (RowIn × RowOut)) : State :=
  let ops := ((outs.head?).map (fun o => o.2.peer)).getD []
  (ops.zipIdx).foldl (fun s o =>
    let fmt := o.1.1.mod % 16
    let rows := outs.map (fun y =>
      let v := ((y.2.peer.getD o.2 (o.1.1, [])).2)
      let cs := convertRun false o.1.1.mod e.seed (e.rs % 65536 * 65536) (stageIndex e y.1.token) c0 v
      (y.1.token, cs.1))
    let tg := targetAt s e.targets o.1.1.imm
    let s := rows.foldl (fun s r => logRun s id x.idx 3 bw r.1
      ((tg.1 * 4096 + tg.2.1) * 2 ^ 64 + tg.2.2.2.1 + r.1 * tg.2.2.2.2 + c0 * fmtBits fmt / 8) c0 fmt r.2 []) s
    (peerPackets s id tg (c0 * fmtBits fmt / 8)
        (rows.map (fun r => (r.1, runBytes fmt r.2 [])))).foldl (fun s k =>
      if gone s id then s else sendWrite s k (.cmd id)) s) s

/-- Write a run of one row into an area of the spill slot: rows one after another, then their scales (R158; log entry 105).
It is no output (R162). -/
def spillRun (s : State) (u : Bool) (fmt a rows width row c0 : Nat) (codes scales : List Nat) : State :=
  writeRun s u fmt (a + row * fmtBytes fmt width) (a + rows * fmtBytes fmt width + row * scaleRow width) c0 codes scales

/-- Put the stage result of one row where the stage keeps it: stationary areas, held strip, spill slot, output (R139, R143,
R148, R157). PRESUMED (log entry 110): the value of an integer pairing passes through FP32 (R150, Table 6.8) also where the
target is INT32. -/
def putResult (s : State) (c : Cmd) (w : ArrayWork) (x : Item) (e : StageEnv) (r : RowIn) (o : RowOut) : State :=
  let cs := convertRun false e.cvt e.seed (e.rs % 65536 * 65536) (stageIndex e r.token) r.c0 (o.regs.headD [])
  let codes := cs.1.take r.ins.length
  let fmt := e.cvt % 16
  let keep := fun (t : Tab Nat) => (codes.zipIdx).foldl (fun t c => tabSet t (rc r.row (r.c0 + c.2)) c.1) t
  let keepSc := fun (t : Tab Nat) => (cs.2.zipIdx).foldl (fun t c => tabSet t (rc r.row (r.c0 / 32 + c.2)) c.1) t
  let p := w.par
  let spill := fun (s : State) (a : Nat) => spillRun s c.urgent fmt a (rowsOf p.shape) e.width r.row r.c0 codes cs.2
  let write := fun (s : State) (y ld ys kind : Nat) =>
    logRun (writeRun s c.urgent fmt (y + r.token * ld) (ys + r.token * scaleRow e.width) r.c0 cs.1 cs.2) c.id x.idx kind
      (stageBlock w e.stage) r.token (y + r.token * ld + r.c0 * fmtBits fmt / 8) r.c0 fmt cs.1 cs.2
  match e.stage with
  | 0 =>
    if p.proSpilled then spill s (proSpillAt w x.core x.arr)
    else modItem s c.id x.idx (fun x => { x with pro := keep x.pro, proScale := keepSc x.proScale })
  | 3 => write s p.outAddr p.outLd p.outScale (if w.kind = .vector then 0 else 1)
  | i =>
    let q := w.prods.getD (i - 1) {}
    let s :=
      if !(i = 1 && p.hasTwo) then s
      else if p.handTier = 3 then spill s (handSpillAt w x.core x.arr)
      else modItem s c.id x.idx (fun x => { x with hand := keep x.hand, handScale := keepSc x.handScale })
    let held := (codes.zipIdx).map (fun y => elemF32 fmt (cs.2.getD (y.2 / 32) 0x7F) y.1)
    let s :=
      if !q.hold then s
      else if p.heldSpilled then
        spillRun s c.urgent 0 (heldSpillAt w x.core x.arr) (rowsOf p.shape) e.width r.row r.c0 (held.map (·.toNat)) []
      else modItem s c.id x.idx (fun x => { x with
        held := (held.zipIdx).foldl (fun t y => tabSet t (rc r.row (r.c0 + y.2)) y.1) x.held })
    if q.writeY then write s q.y q.yLd q.ys 0 else s

/-- The berm slots of the area that a stage writes: its thread claims them as a writer when its first block runs (R203,
R204). -/
def resultSlots (w : ArrayWork) (x : Item) (k : EpiKind) : List Nat :=
  match k with
  | .prologue => x.proSlots
  | .product 1 => if w.par.hasTwo then x.handSlots else []
  | _ => []

/-- A thread of a command may write slots: each is EMPTY, or FILLING within its own claim (Table 8.3). -/
def slotsOpen (s : State) (core : Nat) (id : CmdId) (ks : List Nat) : Bool :=
  ks.all (fun k =>
    let x := getSlot s (64 * core + k)
    x.st = .empty || (x.st = .filling && x.claimant = some id))

/-- Berm slots that the area a stage writes needs (R143, R148). -/
def areaNeed (w : ArrayWork) (k : EpiKind) : Nat :=
  match k with
  | .prologue => if w.par.proSpilled then 0 else proUnits w
  | .product 1 => if w.par.handTier = 1 then handUnits w else 0
  | _ => 0

/-- The thread of a stage claims the slots of the area that it writes: the scheduler allots the lowest EMPTY ones at the first
block (R204). None while it must stall. -/
def claimArea (s : State) (core : Nat) (c : Cmd) (w : ArrayWork) (x : Item) (k : EpiKind) : Option State :=
  let n := areaNeed w k
  let mine := resultSlots w x k
  if n = 0 then some s
  else if mine.isEmpty then
    let ks := (slotsFree s core c.urgent).take n
    if ks.length < n then none
    else
      let s := modItem (allotSlots s core c.id x.idx ks) c.id x.idx (fun x => match k with
        | .prologue => { x with proSlots := ks }
        | _ => { x with handSlots := ks })
      some (moveSlots s core ks .filling (some c.id))
  else if slotsOpen s core c.id mine then some (moveSlots s core mine .filling (some c.id))
  else none

/-- The item after an epilogue has read its product's columns up to one: strips that lie below are released; a held strip that
is resident stays until the finish has read it (R144, R157). -/
def freeStrips (w : ArrayWork) (k upto : Nat) (x : Item) : Item :=
  let p := w.prods.getD k {}
  if p.hold && !w.par.heldSpilled then x
  else { x with strips := x.strips.filter (fun h => !(h.1 = k && min p.n ((h.2 + 1) * p.range) ≤ upto)) }

/-- The stage or sweep that a block belongs to has ended: slots are complete and the item moves on (R139, R155). -/
def stageEnd (s : State) (c : Cmd) (w : ArrayWork) (idx : Nat) (e : StageEnv) (ep : Epi) : State :=
  match getItem s c.id idx with
  | none => s
  | some (_, _, x) =>
    let s := modItem s c.id idx (fun x => { x with
      stats := foldStats x (sweepOps e.ops ep.sweep) e.width (itemRows x), rrow := [] })
    let s := if ep.sweep = sweeps e.ops then moveSlots s x.core (resultSlots w x ep.kind) .full none else s
    if ep.sweep < sweeps e.ops then s
    else match ep.kind with
      | .prologue => modItem s c.id idx (fun x => { x with stage := 1, queued := 0, epiDone := 0, committed := 0 })
      | .product 1 =>
        if w.par.hasTwo then
          modItem s c.id idx (fun x => { x with stage := 2, queued := 0, epiDone := 0, committed := 0, acc := [] })
        else if w.par.hasFin then
          pushEpi (modItem s c.id idx (fun x => { x with stage := 3, epiDone := 0 })) x.core
            (sweepBlocks s c.id x .finish (stageEnv s c w 3))
        else itemDone s c.id idx
      | .product _ =>
        if w.par.hasFin then
          pushEpi (modItem s c.id idx (fun x => { x with stage := 3, epiDone := 0 })) x.core
            (sweepBlocks s c.id x .finish (stageEnv s c w 3))
        else itemDone s c.id idx
      | _ => itemDone s c.id idx

/-- The stage number of a block. -/
def EpiKind.stageNo : EpiKind → Nat
  | .prologue => 0
  | .product n => n
  | _ => 3

/-- Change the block at the head of a core's queue. -/
def modHead (s : State) (core : Nat) (f : Epi → Epi) : State :=
  let k := getCore s core
  putCore s core { k with epiQ := match k.epiQ with | [] => [] | e :: t => f e :: t }

/-- Remove the block at the head. -/
def popEpi (s : State) (core : Nat) : State :=
  let k := getCore s core
  putCore s core { k with epiQ := k.epiQ.drop 1 }

/-- Run the program of the block at the head of a core's queue (R150 to R162). A block whose read meets an error, or
whose hand-off finds no buffer, stays at the head. -/
def runProgram (s : State) (core : Nat) (c : Cmd) (w : ArrayWork) (x : Item) (ep : Epi) : Out :=
  let e := stageEnv s c w ep.kind.stageNo
  let ops := sweepOps e.ops ep.sweep
  let rows := itemRows x
  if rows.any (fun r => (slotsRead ops).any (fun k => (tabFind? x.stats (k * 128 + r)).isNone)) ||
      (slotsRead ops).any (fun k => ops.any (fun o => o.1.op = 0x30 && o.1.imm = k)) then
    .fault (.badParameter c.hdr.opcode.toNat)
  else
    let ins := rows.map (rowIn s w x e ep.kind.stageNo ep.c0 ep.w)
    match (if (epiBad s w x e ins ep.w).isSome then none else claimArea s core c w x ep.kind) with
    | none => .next s
    | some s =>
      let outs := ins.map (fun r => (r, runRow s e ep.sweep r))
      let runs := outs.flatMap (fun o => o.2.culvert.flatMap (fun y => culvertRuns s o.1 y.1 y.2))
      let d := deliverRuns s (c.id, x.idx + 1) e.seed (runs.drop ep.handed) 0
      if !d.2.2 then
        let s := modHead d.1 core (fun h => { h with handed := ep.handed + d.2.1 })
        .next (if 0 < d.2.1 then progress s c.id else s)
      else
        let s := takeReads (popEpi d.1 core) c.urgent (epiRanges w x e ins ep.w)
        let s := outs.foldl (fun s o => o.2.culvert.foldl (fun s y =>
          (culvertRuns s o.1 y.1 y.2).foldl (fun s r =>
            let b := exportConvert (getChannel s r.ch) e.seed r.part r.head r.i0 r.pos r.layer r.vals
            logRun s c.id x.idx 4 (stageBlock w e.stage) o.1.token (r.part * 2 ^ 40 + r.head * 2 ^ 20 + r.i0)
              (r.head * (getChannel s r.ch).dim + r.i0) (getChannel s r.ch).fmt b.1 b.2) s) s) s
        let final := ep.sweep = sweeps e.ops
        let s := if final then outs.foldl (fun s o => putResult s c w x e o.1 o.2) s else s
        let s := modItem s c.id x.idx (fun x => { x with
          rrow := outs.foldl (fun t o => o.2.rrow.foldl (fun t q =>
            (q.2.zipIdx).foldl (fun t v => tabSet t (prc q.1 o.1.row (ep.c0 + v.2)) v.1) t) t) x.rrow
          epiDone := x.epiDone + ep.w })
        let s := match ep.kind with
          | .product k => modItem s c.id x.idx (freeStrips w (k - 1) ((ep.c0 + ep.w) * (if e.pair then 2 else 1)))
          | _ => s
        let bw := stageBlock w e.stage
        let s := writeRcol s c.urgent c.id x e bw ep outs
        let s := sendPeer s c.id x e bw ep.c0 outs
        let q := w.prods.getD (e.stage - 1) {}
        let wrote := (final && (e.stage = 3 || (e.stage != 0 && q.writeY))) ||
          ops.any (fun o => o.1.op = 0x31) || outs.any (fun o => !o.2.peer.isEmpty || !o.2.culvert.isEmpty)
        let s := if wrote then modItem s c.id x.idx (fun x => { x with written := x.written + 1 }) else s
        let s := progress s c.id
        if gone s c.id then .next s
        else if ep.c0 + ep.w = e.width then .next (stageEnd s c w x.idx e ep) else .next s

end Sys2Proof.Machine
end

