-- ==== Sys2Proof/Machine/AttOps.lean ====
section
/-!
DEFINITION. ATTEND: parameters, masks and key blocks, the cache, online softmax (R165 to R188).
-/
namespace Sys2Proof.Machine

/-- The control part of `ATTEND` (Table 7.1). -/
def attPar (b : List Byte) : AttPar :=
  { d := fieldLe b 0 2, g := fieldLe b 2 1, aflags := fieldLe b 3 1, hkv := fieldLe b 4 2, rotHalf := fieldLe b 6 2
    inFmt := fieldLe b 8 1, qCvt := fieldLe b 9 1, kCvt := fieldLe b 10 1, vCvt := fieldLe b 11 1
    pCvt := fieldLe b 12 1, outCvt := fieldLe b 13 1, rsId := fieldLe b 14 2, scale := BitVec.ofNat 32 (fieldLe b 16 4)
    cap := BitVec.ofNat 32 (fieldLe b 20 4), capInv2 := BitVec.ofNat 32 (fieldLe b 24 4), window := fieldLe b 28 4
    seqAddr := fieldLe b 32 8, seqs := fieldLe b 40 2, expChannel := fieldLe b 45 1 % 16
    expLayer := fieldLe b 46 2 % 4096, rope := fieldLe b 48 8, layout := fieldLe b 56 1 }

/-- A sequence descriptor (Table 7.2). -/
def seqOf (b : List Byte) : SeqDesc :=
  { q := fieldLe b 0 8, k := fieldLe b 8 8, v := fieldLe b 16 8, out := fieldLe b 24 8, stats := fieldLe b 32 8
    kBase := fieldLe b 40 8, vBase := fieldLe b 48 8, doc := fieldLe b 56 8, list := fieldLe b 64 8
    inLd := fieldLe b 72 4, outLd := fieldLe b 76 4, c := fieldLe b 80 4, pos0 := fieldLe b 84 4
    hstride := fieldLe b 88 4, docs := fieldLe b 92 4, listN := fieldLe b 96 4 }

/-- Flags of AFLAGS. -/
def AttPar.causal (a : AttPar) : Bool := bitOf a.aflags 0
def AttPar.windowed (a : AttPar) : Bool := bitOf a.aflags 1
def AttPar.byDoc (a : AttPar) : Bool := bitOf a.aflags 2
def AttPar.byList (a : AttPar) : Bool := bitOf a.aflags 3
def AttPar.softcap (a : AttPar) : Bool := bitOf a.aflags 4
def AttPar.export' (a : AttPar) : Bool := bitOf a.aflags 6
def AttPar.withStats (a : AttPar) : Bool := bitOf a.aflags 7

/-- Query heads; keys of a sequence (R165). -/
def AttPar.hq (a : AttPar) : Nat := a.hkv * a.g
def SeqDesc.kend (q : SeqDesc) : Nat := q.pos0 + q.c

/-- Element sizes of the caches. -/
def AttPar.eK (a : AttPar) : Nat := fmtBits (a.kCvt % 16) / 8
def AttPar.eV (a : AttPar) : Nat := fmtBits (a.vCvt % 16) / 8

/-- A pairing that `ATTEND` accepts: rows 1, 9 and 10 of Table 4.3 (R168). -/
def attPair (x w : Nat) : Bool := (isFp8 x && isFp8 w) || (x = 0x1 && w = 0x1) || (x = 0x2 && w = 0x2)

/-- The page of a block in the paged layout (R170). -/
def pageAt (s : State) (q : SeqDesc) (b : Nat) : Nat := readLe s (q.kBase + 8 * b) 8

/-- Bytes of a page. -/
def AttPar.pageBytes (a : AttPar) : Nat := a.hkv * 512 * a.d * (a.eK + a.eV)

/-- The address of a cache vector (Table 7.3). -/
def kAddr (s : State) (a : AttPar) (q : SeqDesc) (h p : Nat) : Nat :=
  if a.layout = 0 then q.kBase + h * q.hstride + p * a.d * a.eK
  else pageAt s q (p / 512) + (h * 512 + p % 512) * a.d * a.eK
def vAddr (s : State) (a : AttPar) (q : SeqDesc) (h p : Nat) : Nat :=
  if a.layout = 0 then q.vBase + h * q.hstride + p * a.d * a.eV
  else pageAt s q (p / 512) + a.hkv * 512 * a.d * a.eK + (h * 512 + p % 512) * a.d * a.eV

/-- The values of the control part that Table 7.1 and R168 allow. -/
def attOk (b : List Byte) (a : AttPar) : Bool :=
  [64, 96, 128, 192, 256].contains a.d && 1 ≤ a.g && a.g ≤ 16 && 1 ≤ a.hkv && a.hkv ≤ 256 && a.hq ≤ 4096 &&
    2 * a.rotHalf ≤ a.d && a.inFmt ≤ 4 && a.qCvt < 64 && a.kCvt < 64 && a.vCvt < 64 && a.pCvt < 64 && a.outCvt < 64 &&
    a.outCvt % 16 < 0xD && !isMx (a.outCvt % 16) && attPair (a.qCvt % 16) (a.kCvt % 16) &&
    attPair (a.pCvt % 16) (a.vCvt % 16) && (!a.softcap || lt32 0 a.cap) &&
    (!a.windowed || (1 ≤ a.window && a.window ≤ 2 ^ 24)) && a.seqAddr % 64 = 0 && 1 ≤ a.seqs && a.seqs ≤ 256 &&
    fieldLe b 44 1 ≤ 16 && fieldLe b 45 1 < 16 && fieldLe b 46 2 < 4096 && a.layout ≤ 1 && fieldLe b 57 7 = 0

/-- The document starts ascend from 0 (Table 7.2). -/
def docsAscend (s : State) (q : SeqDesc) : Bool :=
  let at' := fun i => readLe s (q.doc + 4 * i) 4
  at' 0 = 0 && (List.range q.docs).all (fun i => at' i < 2 ^ 31 && (i = 0 || at' (i - 1) ≤ at' i))

/-- The regions and limits of a sequence descriptor (Tables 7.2 to 7.4, R168 to R172). -/
def seqOk (s : State) (a : AttPar) (b : List Byte) (q : SeqDesc) : Bool :=
  let e := fmtBits a.inFmt / 8
  fieldLe b 100 28 = 0 && q.c ≤ 2 ^ 20 && q.kend ≤ 2 ^ 24 &&
    (q.c = 0 ||
      (tensorOk rangeRead q.q q.inLd q.c (a.hq * a.d * e) && tensorOk rangeRead q.k q.inLd q.c (a.hkv * a.d * e) &&
        tensorOk rangeRead q.v q.inLd q.c (a.hkv * a.d * e) &&
        tensorOk rangeOk q.out q.outLd q.c (fmtBytes (a.outCvt % 16) (a.hq * a.d)) &&
        (!a.withStats || rangeOk q.stats (8 * q.c * a.hq)) &&
        (!a.byDoc || (1 ≤ q.docs && rangeRead q.doc (4 * q.docs) && docsAscend s q)) &&
        (!a.byList || rangeRead q.list (16 * q.listN)) &&
        (if a.layout = 0 then
          q.hstride % 64 = 0 && tensorOk rangeOk q.kBase q.hstride a.hkv (q.kend * a.d * a.eK) &&
            tensorOk rangeOk q.vBase q.hstride a.hkv (q.kend * a.d * a.eV)
        else
          rangeRead q.kBase (8 * ceilDiv q.kend 512) && (List.range (ceilDiv q.kend 512)).all (fun i =>
            pageAt s q i % 4096 = 0 && rangeOk (pageAt s q i) a.pageBytes))))

/-- Documents: the largest index with an entry at or below a position (R171). -/
def docAt (s : State) (q : SeqDesc) (p : Nat) : Nat :=
  ((List.range q.docs).filter (fun i => readLe s (q.doc + 4 * i) 4 ≤ p)).length - 1

/-- A rectangle of the list (Table 7.4). -/
def rectAt (s : State) (q : SeqDesc) (i : Nat) : Nat × Nat × Nat × Nat :=
  (readLe s (q.list + 16 * i) 4, readLe s (q.list + 16 * i + 4) 4, readLe s (q.list + 16 * i + 8) 4,
    readLe s (q.list + 16 * i + 12) 4)

/-- The mask (R171). DESIGN CHOICE (log entry 111): a list of rectangles that is not sorted by Q0, or of which more than 8 meet
a tile and block (R172), counts in the same way. -/
def allowedPair (s : State) (a : AttPar) (q : SeqDesc) (qp kp : Nat) : Bool :=
  kp < q.kend && (!a.causal || kp ≤ qp) && (!a.windowed || qp < kp + a.window) &&
    (!a.byDoc || docAt s q kp = docAt s q qp) &&
    (!a.byList || (List.range q.listN).any (fun i =>
      let r := rectAt s q i
      r.1 ≤ qp && qp < r.2.1 && r.2.2.1 ≤ kp && kp < r.2.2.2))

/-- What a kind of mask, or all of them, leave of a block (Table 7.5). -/
inductive BlockClass where
  | empty
  | full
  | partly
deriving DecidableEq, Repr

/-- A class from its two tests. -/
def classOf (empty full : Bool) : BlockClass := if empty then .empty else if full then .full else .partly

/-- The class of a block for each kind selected, for tokens at positions qa to qb (Table 7.5). A rectangle without a pair meets
nothing. -/
def kindClasses (s : State) (a : AttPar) (q : SeqDesc) (qa qb b : Nat) : List BlockClass :=
  let ka := 512 * b
  let kb := min (512 * b + 511) (q.kend - 1)
  let d := docAt s q
  let rects := ((List.range q.listN).map (rectAt s q)).filter (fun r => r.1 < r.2.1 && r.2.2.1 < r.2.2.2)
  (if a.causal then [classOf (qb < ka) (kb ≤ qa)] else []) ++
    (if a.windowed then [classOf (kb + a.window ≤ qa) (qb < ka + a.window)] else []) ++
    (if a.byDoc then [classOf (d kb < d qa || d qb < d ka) (d ka = d kb && d kb = d qa && d qa = d qb)] else []) ++
    (if a.byList then
      [classOf (!rects.any (fun r => r.1 ≤ qb && qa < r.2.1 && r.2.2.1 ≤ kb && ka < r.2.2.2))
        (rects.any (fun r => r.1 ≤ qa && qb < r.2.1 && r.2.2.1 ≤ ka && kb < r.2.2.2))] else [])

/-- The class of a block (R173). -/
def blockClass (s : State) (a : AttPar) (q : SeqDesc) (qa qb b : Nat) : BlockClass :=
  let l := kindClasses s a q qa qb b
  classOf (l.any (fun k => k = .empty)) (l.all (fun k => k = .full))

/-- The token and query head of a row of a tile, when the row is in use (R177). -/
def attRow (a : AttPar) (q : SeqDesc) (tile h r : Nat) : Option (Nat × Nat) :=
  let t := a.tau * tile + r / a.g
  if r < a.tau * a.g && t < q.c then some (t, h * a.g + r % a.g) else none

/-- The rows of a tile in use: row, token, head. -/
def attRows (a : AttPar) (q : SeqDesc) (tile h : Nat) : List (Nat × Nat × Nat) :=
  (List.range 128).filterMap (fun r => (attRow a q tile h r).map (fun x => (r, x.1, x.2)))

/-- The class of a block for a row tile: of the positions that its present tokens span (R173). -/
def tileClass (s : State) (a : AttPar) (q : SeqDesc) (tile b : Nat) : BlockClass :=
  blockClass s a q (q.pos0 + a.tau * tile) (q.pos0 + min (a.tau * tile + a.tau) q.c - 1) b

/-- The non-empty blocks of a tile, ascending (R173). -/
def tileBlocks (s : State) (a : AttPar) (q : SeqDesc) (tile : Nat) : List Nat :=
  (List.range (ceilDiv q.kend 512)).filter (fun b => tileClass s a q tile b != .empty)

/-- A block that the grant streams is empty for the item's tile (R174). -/
def vacant (s : State) (a : AttPar) (q : SeqDesc) (x : Item) (b : Nat) : Bool := tileClass s a q x.tile b = .empty

/-- Keys of a block. -/
def blockKeys (q : SeqDesc) (b : Nat) : Nat := min 512 (q.kend - 512 * b)

/-- An input vector as FP32, rotated where it is a query or key (R154, R169, R175, R180). -/
def attInput (s : State) (a : AttPar) (q : SeqDesc) (base t head : Nat) (rotate : Bool) : List W32 :=
  let xs := (List.range a.d).map (fun i =>
    let c := readElem s a.inFmt (base + t * q.inLd) (head * a.d + i)
    if a.inFmt = 0 then BitVec.ofNat 32 c else elemF32 a.inFmt 0 c)
  if rotate && 0 < a.rotHalf then ropeRow (wordTable s a.rope a.rotHalf) ((q.pos0 + t : Nat) : Int) a.d a.rotHalf xs else xs

/-- Convert a vector under a control byte with a rounding stream of Table 7.8. -/
def attConvert (cb : Nat) (seed : W64) (rs : Nat) (index0 : Nat) (xs : List W32) : List Nat :=
  (xs.zipIdx).map (fun x => cvtTo cb (rndOf cb seed (index0 + x.2) (rs % 65536 * 65536)) x.1)

/-- The stationary codes of an item's queries: by row and dimension (R180). -/
def queryCodes (s : State) (seed : W64) (a : AttPar) (q : SeqDesc) (x : Item) : Tab Nat :=
  (attRows a q x.tile x.n0).foldl (fun t r =>
    let v := attConvert a.qCvt seed (a.rsId + 4) (((q.pos0 + r.2.1) * a.hq + r.2.2) * a.d)
      (attInput s a q q.q r.2.1 r.2.2 true)
    (v.zipIdx).foldl (fun t c => tabSet t (rc r.1 c.2) c.1) t) []

/-- The row of a block's area: the two areas one after the other. -/
def areaRow (x : Item) (b r : Nat) : Nat := attArea x b * 128 + r

/-- The row of a block among all that the item streams, for what its softmax leaves to its combine (R183). -/
def blockRow (x : Item) (b r : Nat) : Nat := attOrd x b * 128 + r

/-- The tiles of `ATTEND`: queries for TA0, the probabilities of a block for TA1 (R180, R184). -/
def attTile (w : ArrayWork) (id : CmdId) (x : Item) (l : LoadSpec) : StagedTile :=
  let a := w.att
  let q := w.seqs.getD x.entry {}
  let n := if l.prob then blockKeys q l.slice else a.d
  let code := fun (r i : Nat) => if l.prob then tabGet x.prob 0 (rc (areaRow x l.slice r) i) else tabGet x.query 0 (rc r i)
  let here := fun r =>
    if l.prob then tabGet x.live 0 (blockRow x l.slice r) = 1 else (attRow a q x.tile x.n0 r).isSome
  { tag := { cmd := id, item := x.idx, load := l }
    x := (List.range 128).map (fun r => (List.range n).map (code r))
    present := (List.range 128).map (fun r => here r), kCount := n }

/-- The present rows of a register set with their operands in a format. -/
def attOperands (fmt shape : Nat) (tile : Tile) : List (Nat × List (Option FVal)) :=
  ((tile.present.zipIdx).filter (·.1)).map (fun r =>
    (r.2, (List.range tile.kCount).map (fun k => some (decElem fmt (codeOf tile shape false r.2 k)))))

/-- Shape of the score pass: S2 for D ≤ 128, S1 above (R180). -/
def scoreShape (a : AttPar) : Nat := if a.d ≤ 128 then 2 else 1

/-- Scores of the rows against keys [k0, k0 + w) of a block, by row of the area and key (R180). -/
def attScores (s : State) (a : AttPar) (q : SeqDesc) (x : Item) (tile : Tile) (b k0 w : Nat) (area : Tab W32) : Tab W32 :=
  let cls := (pairing (a.qCvt % 16) (a.kCvt % 16)).getD .single
  let groups := if a.d ≤ 128 then 4 else 16
  let rows := attOperands (a.qCvt % 16) (scoreShape a) tile
  (List.range w).foldl (fun t i =>
    let ad := kAddr s a q x.n0 (k0 + i)
    let ks := (List.range a.d).map (fun j => decElem (a.kCvt % 16) (readElem s (a.kCvt % 16) ad j))
    rows.foldl (fun t r => tabSet t (rc (areaRow x b r.1) ((k0 + i) % 512)) (passT false cls groups (pairAt r.2 ks))) t) area

/-- Results of the PV pass for dimensions [i0, i0 + w) of a block, by row of the T area (R184). -/
def attPv (s : State) (a : AttPar) (q : SeqDesc) (x : Item) (tile : Tile) (b i0 w : Nat) : Tab W32 :=
  let cls := (pairing (a.pCvt % 16) (a.vCvt % 16)).getD .single
  let rows := attOperands (a.pCvt % 16) 1 tile
  (List.range w).foldl (fun t i =>
    let vs := (List.range (blockKeys q b)).map (fun k =>
      decElem (a.vCvt % 16) (readElem s (a.vCvt % 16) (vAddr s a q x.n0 (512 * b + k)) (i0 + i)))
    rows.foldl (fun t r => tabSet t (rc (areaRow x b r.1) (i0 + i)) (passT false cls 16 (pairAt r.2 vs))) t) x.acc

/-- Cache bytes that a block's stream reads: keys, or values (R170). -/
def attRanges (s : State) (a : AttPar) (q : SeqDesc) (x : Item) (prob : Bool) (b n0 w : Nat) : List (Nat × Nat) :=
  (if a.layout = 1 then [(q.kBase + 8 * b, 8)] else []) ++
    (if prob then
      (List.range (blockKeys q b)).map (fun k => (vAddr s a q x.n0 (512 * b + k) + n0 * a.eV, w * a.eV))
    else [(kAddr s a q x.n0 n0, w * a.d * a.eK)])

/-- A scaled, capped score, masked in a block that is not full (R174, R183). -/
def scoreX (s : State) (a : AttPar) (q : SeqDesc) (full : Bool) (qp kp : Nat) (sc : W32) : W32 :=
  let x := mul32 sc a.scale
  let x := if a.softcap then capped a x else x
  if full || allowedPair s a q qp kp then x else 0xFF800000
where
  /-- FMA(2 × CAP, σ(x × CAP_INV2), −CAP); the factor 2 × CAP is exact, so it may exceed FP32. -/
  capped (a : AttPar) (x : W32) : W32 :=
    match dec32 (sigmoid32 (mul32 x a.capInv2)), dec32 a.cap with
    | .fin n m e, .fin cn cm ce =>
      let d := dyAdd (dyMul (FVal.fin n m e).dy (FVal.fin cn cm (ce + 1)).dy) (FVal.fin (!cn) cm ce).dy
      rneDy d
    | _, _ => fma32 (mul32 0x40000000 a.cap) (sigmoid32 (mul32 x a.capInv2)) (neg32 a.cap)

/-- The score area of the vector unit that a block uses: 2 for priority 0 (R181, R191). -/
def scoreArea (c : Cmd) (x : Item) (b : Nat) : Nat := if c.urgent then 2 else attArea x b

/-- The scores of a block: in the vector unit's score buffer, above D = 128 in TA0's accumulator (R181). -/
def blockScores (s : State) (c : Cmd) (a : AttPar) (x : Item) (b : Nat) : Tab W32 :=
  if a.d ≤ 128 then tabGet (getCore s x.core).score [] (scoreArea c x b) else x.acc2

/-- One row's part of the softmax of a block: the new item (R183, R186). -/
def softmaxRow (s : State) (seed : W64) (a : AttPar) (q : SeqDesc) (b : Nat) (scores : Tab W32) (x : Item)
    (row : Nat × Nat × Nat) : Item :=
  let r := row.1
  let n := blockKeys q b
  let qp := q.pos0 + row.2.1
  let full := tileClass s a q x.tile b = .full
  let xs := (List.range n).map (fun k => scoreX s a q full qp (512 * b + k) (tabGet scores 0 (rc (areaRow x b r) k)))
  let mb := xs.foldl max32 0xFF800000
  if mb = 0xFF800000 then { x with live := tabSet x.live (blockRow x b r) 0 }
  else if a.twoPass && x.sweep = 1 then
    { x with stats := tabSet x.stats (256 + r) (max32 (tabGet x.stats 0xFF800000 (256 + r)) mb) }
  else
    let m := tabGet x.rowMax 0xFF800000 r
    let mn := if a.twoPass then tabGet x.stats 0xFF800000 (256 + r) else max32 m mb
    let f := exp32 (add32 m (neg32 mn))
    let pq := (xs.zipIdx).map (fun v =>
      cvtTo a.pCvt (rndOf a.pCvt seed ((qp * 4096 + row.2.2) * 2 ^ 24 + (512 * b + v.2))
        ((a.rsId + 1) % 65536 * 65536)) (exp32 (add32 v.1 (neg32 mn))))
    let vals := pq.map (fun c => toF32 (decElem (a.pCvt % 16) c))
    let lb := foldRow 0 n (fun k => vals.getD k 0)
    { x with
      rowMax := tabSet x.rowMax r mn, rowSum := tabSet x.rowSum r (fma32 (tabGet x.rowSum 0 r) f lb)
      fact := tabSet x.fact (blockRow x b r) f, live := tabSet x.live (blockRow x b r) 1
      prob := (pq.zipIdx).foldl (fun t c => tabSet t (rc (areaRow x b r) c.2) c.1) x.prob }

/-- The combine of a block (R183, R184). -/
def combineRow (a : AttPar) (b : Nat) (x : Item) (r : Nat) : Item :=
  if tabGet x.live 0 (blockRow x b r) = 1 then
    { x with out := (List.range a.d).foldl (fun t i =>
      tabSet t (rc r i) (fma32 (tabGet x.out 0 (rc r i)) (tabGet x.fact 0 (blockRow x b r))
        (tabGet x.acc 0 (rc (areaRow x b r) i)))) x.out }
  else x

/-- The output codes and statistics of a row (R183). -/
def outRowOf (seed : W64) (a : AttPar) (q : SeqDesc) (x : Item) (row : Nat × Nat × Nat) : List Nat × W32 × W32 :=
  let l := tabGet x.rowSum 0 row.1
  if l = 0 then ((List.range a.d).map (fun _ => cvtTo a.outCvt none 0), 0xFF800000, 0)
  else
    let r := recip32 l
    (attConvert a.outCvt seed a.rsId (((q.pos0 + row.2.1) * a.hq + row.2.2) * a.d)
      ((List.range a.d).map (fun i => mul32 (tabGet x.out 0 (rc row.1 i)) r)), tabGet x.rowMax 0xFF800000 row.1, l)

/-- The next score pass of an item is due when its area is free: the block that used it last has had its softmax, for priority 0
every block before it (R181, R191). -/
def attFeed (s : State) (c : Cmd) (w : ArrayWork) (idx : Nat) : State :=
  match getItem s c.id idx with
  | none => s
  | some (_, _, x) =>
    if x.passes.isEmpty && x.fed < x.union.length && x.fed < x.soft + (if c.urgent then 1 else 2) then
      let b := x.union.getD x.fed 0
      modItem s c.id idx (fun x => { x with
        fed := x.fed + 1
        passes := [{ load := { prod := 0, slice := 0 }, n0 := 512 * b, w := blockKeys (w.seqs.getD x.entry {}) b, last := true }] })
    else s

/-- What an item of `ATTEND` does when a step of a block has ended: its next score pass, the second sweep, or the output when
every block is combined (R183, R186). -/
def attNext (s : State) (c : Cmd) (w : ArrayWork) (idx : Nat) : State :=
  match getItem s c.id idx with
  | none => s
  | some (_, _, x) =>
    let n := x.union.length
    if !lastSweep w x && 0 < n && n ≤ x.soft then
      attFeed (modItem s c.id idx (fun x => { x with sweep := 2, fed := 0, soft := 0 })) c w idx
    else if (lastSweep w x || n = 0) && n ≤ x.combined && x.stage != 3 then
      pushEpi (modItem s c.id idx (fun x => { x with stage := 3 })) x.core
        [{ cmd := c.id, item := idx, kind := .attOut, sweep := 1, c0 := 0, w := w.att.d }]
    else attFeed s c w idx

/-- Begin an item of `ATTEND`: phase A's vector work, or the queries of phase B (R175, R180). -/
def attBegin (s : State) (c : Cmd) (w : ArrayWork) (x : Item) : State :=
  let kind := if w.kind = .attendA then EpiKind.phaseA else .query
  pushEpi s x.core [{ cmd := c.id, item := x.idx, kind := kind, sweep := 1, c0 := 0, w := w.att.d }]

/-- Columns of a full column block of a score or PV pass (R62, R180, R184). -/
def attBlock (a : AttPar) (prob : Bool) : Nat :=
  let half := fmtBits ((if prob then a.vCvt else a.kCvt) % 16) = 16
  (if prob || 128 < a.d then 128 else 512) / (if half then 2 else 1)

/-- The key block of a pass of `ATTEND`. -/
def blockOfPass (p : PassSpec) : Nat := if p.load.prob then p.load.slice else p.n0 / 512

/-- The columns of the block in flight of a score or PV pass: its key block, first column and width. -/
def attColumns (a : AttPar) (q : Pass) : Nat × Nat × Nat :=
  (blockOfPass q.spec, q.spec.n0 + q.done, min (attBlock a q.spec.load.prob) (q.spec.w - q.done))

/-- A tile as its pass broadcasts against a block: no row is present where the block is empty for the item (R174). -/
def attLive (s : State) (w : ArrayWork) (x : Item) (tile : Tile) (b : Nat) : Tile :=
  if vacant s w.att (w.seqs.getD x.entry {}) x b then { tile with present := [] } else tile

/-- Put the scores of columns [n0, n0 + n) of a block into its area of the vector unit's score buffer, which the block's first
columns find empty (R181). -/
def putScores (s : State) (c : Cmd) (w : ArrayWork) (x : Item) (tile : Tile) (b n0 n : Nat) : State :=
  let k := getCore s x.core
  let old := if n0 = 512 * b then [] else tabGet k.score [] (scoreArea c x b)
  putCore s x.core { k with
    score := tabSet k.score (scoreArea c x b) (attScores s w.att (w.seqs.getD x.entry {}) x (attLive s w x tile b) b n0 n old) }

/-- What the block in flight of a score or PV pass leaves in the accumulator that it writes: T of TA1, or above D = 128 the
scores in TA0's (R181, R184); with the prior values of the locations that it writes (R64). -/
def attResults (s : State) (w : ArrayWork) (x : Item) (q : Pass) (tile : Tile) : Tab W32 × Tab (Option W32) :=
  let a := w.att
  let d := w.seqs.getD x.entry {}
  let b := attColumns a q
  if q.spec.load.prob then
    (attPv s a d x tile b.1 b.2.1 b.2.2, (attOperands 0 1 tile).flatMap (fun r => (List.range b.2.2).map (fun i =>
      (rc (areaRow x b.1 r.1) (b.2.1 + i), tabFind? x.acc (rc (areaRow x b.1 r.1) (b.2.1 + i))))))
  else if a.d ≤ 128 then (x.acc2, [])
  else
    let t := attLive s w x tile b.1
    (attScores s a d x t b.1 b.2.1 b.2.2 x.acc2, (attOperands 0 1 t).flatMap (fun r => (List.range b.2.2).map (fun i =>
      (rc (areaRow x b.1 r.1) ((b.2.1 + i) % 512), tabFind? x.acc2 (rc (areaRow x b.1 r.1) ((b.2.1 + i) % 512))))))

/-- The hand-offs of a phase A item: for each token and KV head the key, then the value (R175). -/
def phaseARuns (s : State) (w : ArrayWork) (x : Item) (q : SeqDesc) : List HandRun :=
  let a := w.att
  (List.range (min 128 (q.c - 128 * x.tile))).flatMap (fun i =>
    let t := 128 * x.tile + i
    (List.range a.hkv).flatMap (fun h =>
      [{ ch := a.expChannel, part := 0, head := h, i0 := 0, pos := q.pos0 + t, layer := a.expLayer
         vals := attInput s a q q.k t h true },
       { ch := a.expChannel, part := 1, head := h, i0 := 0, pos := q.pos0 + t, layer := a.expLayer
         vals := attInput s a q q.v t h false }]))

/-- Write the new keys and values of a phase A item to the cache (R175, R188). -/
def phaseAWrite (s : State) (c : Cmd) (w : ArrayWork) (x : Item) (q : SeqDesc) : State :=
  let a := w.att
  (List.range (min 128 (q.c - 128 * x.tile))).foldl (fun s i =>
    let t := 128 * x.tile + i
    (List.range a.hkv).foldl (fun s h =>
      let ix := ((q.pos0 + t) * a.hkv + h) * a.d
      let k := attConvert a.kCvt c.hdr.seed (a.rsId + 2) ix (attInput s a q q.k t h true)
      let v := attConvert a.vCvt c.hdr.seed (a.rsId + 3) ix (attInput s a q q.v t h false)
      let s := writeRun s c.urgent (a.kCvt % 16) (kAddr s a q h (q.pos0 + t)) 0 0 k []
      let s := writeRun s c.urgent (a.vCvt % 16) (vAddr s a q h (q.pos0 + t)) 0 0 v []
      let s := logRun s c.id x.idx 0 128 t (kAddr s a q h (q.pos0 + t)) (h * a.d) (a.kCvt % 16) k []
      logRun s c.id x.idx 0 128 t (vAddr s a q h (q.pos0 + t)) (h * a.d) (a.vCvt % 16) v []) s) s

/-- Phase B follows when every item of phase A is complete (R175), on the chains that dispatch formed for it (R129, R178),
less the cores lost since (R133). -/
def attendTurn (s : State) (id : CmdId) : State :=
  match arrayWork s id with
  | none => s
  | some (_, w) =>
    if w.kind = .attendA && itemCount w ≤ w.finished.length then
      setArray s id { w with
        kind := .attendB, chains := w.chainsB, chainsB := [], counter := 0, returned := [], once := [], pool := none, read := []
        items := [], finished := [] }
    else s

/-- The device memory that a vector step of `ATTEND` reads: its inputs and tables. -/
def attReads (w : ArrayWork) (x : Item) (k : EpiKind) : List (Nat × Nat) :=
  let a := w.att
  let q := w.seqs.getD x.entry {}
  let e := fmtBits a.inFmt / 8
  let rope := if 0 < a.rotHalf then [(a.rope, 4 * a.rotHalf)] else []
  match k with
  | .phaseA =>
    rope ++ (List.range (min 128 (q.c - 128 * x.tile))).flatMap (fun i =>
      let t := 128 * x.tile + i
      [(q.k + t * q.inLd, a.hkv * a.d * e), (q.v + t * q.inLd, a.hkv * a.d * e)])
  | .query =>
    rope ++ (attRows a q x.tile x.n0).map (fun (r : Nat × Nat × Nat) => (q.q + r.2.1 * q.inLd + r.2.2 * a.d * e, a.d * e))
  | .softmax =>
    (if a.byDoc then [(q.doc, 4 * q.docs)] else []) ++ (if a.byList then [(q.list, 16 * q.listN)] else [])
  | _ => []

/-- The first address at which it meets an error. -/
def attBad (s : State) (w : ArrayWork) (x : Item) (k : EpiKind) : Option Nat :=
  if s.mem.bad.isEmpty then none else ((attReads w x k).find? (fun r => rangeBad s r.1 r.2)).map (·.1)

/-- The softmax of a block (R183, R186): the P tile is written into its slots, which the thread claims when they are EMPTY
(R203, R204), and its PV pass is due. -/
def runSoftmax (s : State) (core : Nat) (c : Cmd) (w : ArrayWork) (x : Item) (b : Nat) : State :=
  let a := w.att
  let q := w.seqs.getD x.entry {}
  let ks := if lastSweep w x then probSlots x (attArea x b) else []
  if !slotsOpen s core c.id ks then s
  else
    let none' := vacant s a q x b
    let y := if none' then { x with live := (List.range 128).foldl (fun t r => tabSet t (blockRow x b r) 0) x.live }
      else (attRows a q x.tile x.n0).foldl (softmaxRow s c.hdr.seed a q b (blockScores s c a x b)) x
    let y := { y with soft := x.soft + 1 }
    let l : LoadSpec := { prod := 0, slice := b, prob := true }
    let y := if lastSweep w x then { y with passes1 := x.passes1 ++ [{ load := l, n0 := 0, w := a.d, last := true }] } else y
    let s := if none' then s else takeReads s c.urgent (attReads w x .softmax)
    let s := modItem (moveSlots (popEpi s core) core ks .full none) c.id x.idx (fun _ => y)
    attNext (progress s c.id) c w x.idx

/-- The combine of a block. -/
def runCombine (s : State) (core : Nat) (c : Cmd) (w : ArrayWork) (x : Item) (b : Nat) : State :=
  let y := (attRows w.att (w.seqs.getD x.entry {}) x.tile x.n0).foldl (fun y r => combineRow w.att b y r.1) x
  let s := modItem (popEpi s core) c.id x.idx (fun _ => { y with combined := x.combined + 1 })
  attNext (progress s c.id) c w x.idx

/-- Write the outputs and statistics of an item (R169, R183). -/
def writeAttend (s : State) (c : Cmd) (w : ArrayWork) (x : Item) : State :=
  let a := w.att
  let q := w.seqs.getD x.entry {}
  (attRows a q x.tile x.n0).foldl (fun s r =>
    let o := outRowOf c.hdr.seed a q x r
    let fmt := a.outCvt % 16
    let s := writeRun s c.urgent fmt (q.out + r.2.1 * q.outLd) 0 (r.2.2 * a.d) o.1 []
    let s := logRun s c.id x.idx 2 (attBlock a true) r.1 (q.out + r.2.1 * q.outLd + r.2.2 * a.d * fmtBits fmt / 8) 0 fmt o.1 []
    if a.withStats then
      let b := leBytes 4 o.2.1.toNat ++ leBytes 4 o.2.2.toNat
      let ad := q.stats + 8 * (r.2.1 * a.hq + r.2.2)
      logOut (writeMem (ddrTake s .write c.urgent ad 8) ad b) c.id x.idx (outKey 3 0 r.1 ad) b
    else s) s

/-- Run the vector step of `ATTEND` at the head of a core's queue (R175, R180, R183, R184). -/
def runAttend (s : State) (core : Nat) (c : Cmd) (w : ArrayWork) (x : Item) (ep : Epi) : State :=
  let a := w.att
  let q := w.seqs.getD x.entry {}
  let seed := c.hdr.seed
  if (attBad s w x ep.kind).isSome then s
  else match ep.kind with
    | .phaseA =>
      let runs := if a.export' then phaseARuns s w x q else []
      let d := deliverRuns s (c.id, x.idx + 1) seed (runs.drop ep.handed) 0
      if !d.2.2 then
        let s := modHead d.1 core (fun h => { h with handed := ep.handed + d.2.1 })
        if 0 < d.2.1 then progress s c.id else s
      else
        let s := takeReads (popEpi d.1 core) c.urgent (attReads w x .phaseA)
        let s := runs.foldl (fun s r =>
          let ch := getChannel s r.ch
          let b := exportConvert ch seed r.part r.head r.i0 r.pos r.layer r.vals
          logRun s c.id x.idx 1 128 (r.pos - q.pos0) (r.part * 2 ^ 40) (r.head * a.d) ch.fmt b.1 b.2) s
        attendTurn (itemDone (phaseAWrite s c w x q) c.id x.idx) c.id
    | .query =>
      let s := takeReads (popEpi s core) c.urgent (attReads w x .query)
      let s := modItem s c.id x.idx (fun x => { x with query := queryCodes s seed a q x, sweep := 1 })
      attNext (progress s c.id) c w x.idx
    | .softmax => runSoftmax s core c w x ep.c0
    | .combine => runCombine s core c w x ep.c0
    | .attOut => itemDone (writeAttend (popEpi s core) c w x) c.id x.idx
    | _ => popEpi s core

end Sys2Proof.Machine
end

