-- ==== Sys2Proof/Machine/CollOps.lean ====
section
/-!
DEFINITION. Collectives, the barrier and ring multicast (R291, R292, R297 to R302, R318).
-/
namespace Sys2Proof.Machine

/-- Levels of the tree over n members, ⌈log2 n⌉ (R297). -/
def treeLevels (n : Nat) : Nat := if n ≤ 1 then 0 else Nat.log2 (n - 1) + 1

/-- Levels at which a rank is the joining module or passes its value up: below its lowest set bit; all for the root
(R297). -/
def ownLevels (n r : Nat) : Nat :=
  if r = 0 then treeLevels n else ((List.range 13).find? (fun L => bitOf r L)).getD 0

/-- The levels at which a rank joins a right operand that exists (R297). -/
def joinLevels (n r : Nat) : List Nat :=
  ((List.range (ownLevels n r)).map (· + 1)).filter (fun L => r + 2 ^ (L - 1) < n)

/-- The rank that supplies the right operand at a level, and the rank to which a rank sends up. -/
def childAt (r L : Nat) : Nat := r + 2 ^ (L - 1)
def parentOf (n r : Nat) : Nat := r - 2 ^ ownLevels n r

/-- The key of what arrived for a collective before the command here started: kind 0 arrivals of a barrier by level, 1
credits, 2 gathered bytes by rank, 3 the chip that has ended it (its ID and 1). -/
def earlyKey (kind g seq idx : Nat) : Nat := ((kind * 256 + g) * 2048 + seq % 2048) * 4096 + idx

/-- Take an early count. -/
def takeEarly (s : State) (k : Nat) : Nat × State :=
  (tabGet s.net.early 0 k, { s with net := { s.net with early := tabErase s.net.early k } })

/-- Add to an early count. -/
def addEarly (s : State) (k n : Nat) : State :=
  { s with net := { s.net with early := tabModify s.net.early 0 k (fun v => v + n) } }

/-- The next collective sequence number of a group (R292). -/
def takeSeq (s : State) (g : Nat) : Nat × State :=
  let q := tabGet s.net.collSeq 0 g
  (q, { s with net := { s.net with collSeq := tabSet s.net.collSeq g (q + 1) } })

/-- Group and sequence of a command that runs as a collective operation, and whether it has started (R292). -/
def opOf (c : Cmd) : Option (Nat × Nat × Bool) :=
  match c.work with
  | .coll w => some (w.group, w.seq, w.started)
  | .dike w => some (w.group, w.seq, w.started)
  | .send w => if w.mode = 2 then some (w.group, w.seq, w.started) else none
  | _ => none

/-- The chip that has ended an operation before the command here starts, and 1 (R300). -/
def abortedBy (s : State) (g seq : Nat) : Nat := tabGet s.net.early 0 (earlyKey 3 g seq 0)

/-- The operation may start: no earlier one of its group is in flight (R292); one that another member has ended is due at
once. -/
def opTurn (s : State) (c : Cmd) : Bool :=
  match opOf c with
  | some (g, q, false) =>
    abortedBy s g q != 0 ||
      !s.cmds.any (fun d => match opOf d with | some (g', q', _) => g' = g && q' < q | none => false)
  | _ => false

/-- The window base of the own rank in a group. -/
def ownBase (s : State) (g : Nat) : Nat := (getWindow s (memberWindow s g (groupRank s g))).base

/-- The barrier of a group and sequence. -/
def dikeCmd (s : State) (g seq : Nat) : Option (Cmd × DikeWork) :=
  s.cmds.findSome? (fun c => match c.work with
    | .dike w => if w.group = g && w.seq % 2048 = seq % 2048 && w.started then some (c, w) else none
    | _ => none)

/-- Chunks of an `ALLREDUCE` (R299). -/
def CollWork.chunks (w : CollWork) : Nat := ceilDiv w.count 1024

/-- Elements of a chunk. -/
def CollWork.chunkLen (w : CollWork) (c : Nat) : Nat := min 1024 (w.count - 1024 * c)

/-- An input element: kept for FP32 and INT32, else converted exactly to FP32 (R299). -/
def CollWork.input (w : CollWork) (code : Nat) : W32 :=
  if w.elem = 0x1 || w.elem = 0x2 then elemF32 w.elem 0 code else BitVec.ofNat 32 code

/-- A join (R299). -/
def CollWork.join (w : CollWork) (a b : W32) : W32 :=
  if w.elem = 0xC then
    match w.op with
    | 0 => a + b
    | 1 => if a.slt b then b else a
    | _ => if a.slt b then a else b
  else match w.op with
    | 0 => add32 a b
    | 1 => max32 a b
    | _ => min32 a b

/-- Join a chunk as far as its operands have arrived: the new work and the levels joined. -/
def joinLoop : Nat → CollWork → Nat → List Nat → CollWork × List Nat
  | 0, w, _, l => (w, l)
  | f + 1, w, c, l =>
    let L := tabGet w.level 0 c + 1
    if ownLevels w.n w.rank < L then (w, l)
    else if w.n ≤ childAt w.rank L then joinLoop f { w with level := tabSet w.level c L } c l
    else match tabFind? w.arrived (L * 2 ^ 24 + c) with
      | none => (w, l)
      | some b =>
        joinLoop f { w with
          level := tabSet w.level c L
          node := tabSet w.node c ((tabGet w.node [] c).zipWith w.join b)
          arrived := tabErase w.arrived (L * 2 ^ 24 + c) } c (l ++ [L])

/-- Consecutive encodings packed as Table 4.2 packs them. -/
def packElems (fmt : Nat) (codes : List Nat) : List Byte :=
  leBytes (fmtBytes fmt codes.length)
    ((codes.zipIdx).foldl (fun a x => a + x.1 % 2 ^ fmtBits fmt * 2 ^ (fmtBits fmt * x.2)) 0)

/-- A chunk's result, converted once under OUT_CVT with the root's SEED (R299). Elements of an MX format are converted in
blocks of 32 (R105); no place is given for their scales, which are not written (log entry 26). -/
def rootBytes (w : CollWork) (seed : W64) (c : Nat) (v : List W32) : List Byte :=
  let rnd := fun (n : Nat) => rndOf w.outCvt seed (1024 * c + n) (w.rsId * 2 ^ 16)
  let f := v.map (accToF32 (w.elem = 0xC))
  packElems (w.outCvt % 16)
    (if isMx (w.outCvt % 16) then
      ((List.range (ceilDiv f.length 32)).flatMap (fun b =>
        let x := (f.drop (32 * b)).take 32
        (cvtBlock w.outCvt (fun j => rnd (32 * b + j)) (x ++ List.replicate (32 - x.length) 0)).2)).take f.length
    else (v.zipIdx).map (fun x =>
      if w.elem = 0xC && w.outCvt % 16 = 0xC then x.1.toNat
      else cvtTo w.outCvt (rnd x.2) (accToF32 (w.elem = 0xC) x.1)))

/-- A collective packet to a member: VC 2, its group window (Table 11.3). -/
def collPacket (s : State) (g r : Nat) (kind : Nat) (id : CmdId) (off : Nat) (data : List Byte) (aux : Nat)
    (aux2 : W32) : Packet :=
  { ctlPacket s kind (memberChip s g r) with
    vc := 2, window := BitVec.ofNat 12 (memberWindow s g r), gen := BitVec.ofNat 16 (memberGen s g r)
    offset := BitVec.ofNat 64 off, rowBytes := BitVec.ofNat 16 data.length, rows := 1, context := BitVec.ofNat 64 id
    group := BitVec.ofNat 16 g, aux := BitVec.ofNat 16 aux, aux2 := aux2, payload := data }

/-- A COLL_CREDIT of a command for `n` chunk places at a level (R299); OFFSET carries the number (log entry 20). -/
def sendCredit (s : State) (id : CmdId) (w : CollWork) (L n : Nat) : State :=
  routePacket s { ctlPacket s 0x16 (memberChip s w.group (childAt w.rank L)) with
    group := BitVec.ofNat 16 w.group, aux := BitVec.ofNat 16 L, aux2 := collAux w.seq 0, offset := BitVec.ofNat 64 n
    context := BitVec.ofNat 64 id } (.cmd id) none

/-- A chunk's result reaches this member: it is written in its group window and passed to the ranks that supplied right
operands, in descending level (R299). -/
def deliverDown (s : State) (id : CmdId) (w : CollWork) (k : DdrClass) (c : Nat) (data : List Byte) : State :=
  let off := w.dstOffset + fmtBytes (w.outCvt % 16) (1024 * c)
  let a := ownBase s w.group + off
  let s := writeMem (ddrTake s k false a data.length) a data
  let s := setWork s id (.coll { w with written := w.written ++ [c] })
  let s := modCmd s id (fun k => { k with outs := k.outs ++ [(a, data.length)], progress := s.clk.ticks })
  (joinLevels w.n w.rank).reverse.foldl (fun s L =>
    sendWrite s (collPacket s w.group (childAt w.rank L) 0x04 id off data (0x100 + L) (collAux w.seq c)) (.cmd id)) s

/-- Send up or finish the chunks that are joined, in order (R299). -/
def upLoop : Nat → State → CmdId → State
  | 0, s, _ => s
  | f + 1, s, id =>
    match findCmd s id with
    | none => s
    | some k => match k.work with
      | .coll w =>
        let c := w.sentUp
        if w.chunks ≤ c || tabGet w.level 0 c < ownLevels w.n w.rank then s
        else
          let v := tabGet w.node [] c
          let w' := { w with sentUp := c + 1, node := tabErase w.node c }
          if w.rank = 0 then upLoop f (deliverDown s id w' .write c (rootBytes w k.hdr.seed c v)) id
          else if w.credits = 0 then s
          else
            let L := ownLevels w.n w.rank + 1
            let s := setWork s id (.coll { w' with credits := w.credits - 1 })
            upLoop f (sendWrite s (collPacket s w.group (parentOf w.n w.rank) 0x04 id
              (w.stageOffset + 65536 * (L - 1) + 4096 * (c % 16)) (v.flatMap (fun x => leBytes 4 x.toNat)) L
              (collAux w.seq c)) (.cmd id)) id
      | _ => s

/-- Join one chunk, return its places' credits and send on. -/
def joinChunk (s : State) (id : CmdId) (c : Nat) : State :=
  match findCmd s id with
  | none => s
  | some k => match k.work with
    | .coll w =>
      let r := joinLoop 13 w c []
      let s := setWork s id (.coll r.1)
      let s := r.2.foldl (fun s L => if c + 16 < w.chunks then sendCredit s id w L 1 else s) s
      upLoop (w.chunks + 1) s id
    | _ => s

/-- The operation of R301's origin: a run of rows goes to the successor as MCAST_WRITE packets. The last carries
PEER_EVENT, and CONTEXT names the origin's command, FWD_EVENT and the last packet (log entry 20). -/
def mcastRows (s : State) (id : CmdId) (urgent : Bool) (g me : Nat) (src rowBytes rows srcStride dstStride off ev fwd : Nat)
    (aux2 : W32) : State :=
  let succ := (me + 1) % groupSize s g
  match srcBad s src srcStride rowBytes rows with
  | some a => exhaustAll s id (otherTile 0 0) a
  | none =>
      let ps := cutRows rowBytes rows
      (ps.zipIdx).foldl (fun s p =>
        if gone s id then s
        else
          let data := pieceData s src srcStride p.1
          let s := ddrTake s .read urgent (src + p.1.1 * srcStride) data.length
          let last := p.2 + 1 = ps.length
          sendWrite s { piecePacket s
              { chip := memberChip s g succ, window := memberWindow s g succ, gen := memberGen s g succ, offset := off
                stride := dstStride, vc := 2, kind := 0x03 } p.1 data
              (id + fwd * 2 ^ 32 + bit01 last * 2 ^ 48) with
            eventId := if last then BitVec.ofNat 16 ev else 0
            group := BitVec.ofNat 16 g, aux := BitVec.ofNat 16 me, aux2 := aux2 } (.cmd id)) s

/-- Rank 0 picks the release count; other ranks pass ARRIVE up, once every operand has arrived (R318). -/
def dikeRun (s : State) (id : CmdId) : State :=
  match findCmd s id with
  | none => s
  | some k => match k.work with
    | .dike w =>
      if w.sentUp || !w.started || !(joinLevels w.n w.rank).all (fun L => w.arrived.contains L) then s
      else if w.rank = 0 then
        let r := (s.tide.count + BitVec.ofNat 64 s.tide.dikeMargin.toNat).toNat
        let s := setWork s id (.dike { w with sentUp := true, release := some r })
        ((List.range w.n).filter (· != 0)).foldl (fun s m =>
          routePacket s { ctlPacket s 0x21 (memberChip s w.group m) with
            group := BitVec.ofNat 16 w.group, aux2 := collAux w.seq 0, offset := BitVec.ofNat 64 r
            context := BitVec.ofNat 64 id } (.cmd id) none) s
      else
        routePacket (setWork s id (.dike { w with sentUp := true }))
          { ctlPacket s 0x20 (memberChip s w.group (parentOf w.n w.rank)) with
            group := BitVec.ofNat 16 w.group, aux := BitVec.ofNat 16 (ownLevels w.n w.rank + 1)
            aux2 := collAux w.seq 0, context := BitVec.ofNat 64 id } (.cmd id) none
    | _ => s

/-- Start a barrier: arrivals that came before it count. -/
def dikeStart (s : State) (id : CmdId) (w : DikeWork) : State :=
  let keys := (joinLevels w.n w.rank).map (fun L => (L, earlyKey 0 w.group w.seq L))
  let here := (keys.filter (fun k => 0 < tabGet s.net.early 0 k.2)).map (·.1)
  let s := keys.foldl (fun s k => (takeEarly s k.2).2) s
  dikeRun (setWork s id (.dike { w with started := true, arrived := here })) id

/-- Start an `ALLREDUCE`: inputs read, places offered to the ranks below (R299). -/
def reduceStart (s : State) (id : CmdId) (urgent : Bool) (w : CollWork) : State :=
  let bytes := w.count * (fmtBits w.elem / 8)
  match badAt s w.src bytes with
  | some a => exhaustAll s id (otherTile 0 0) a
  | none =>
    let s := ddrTake s .read urgent w.src bytes
    let node := (List.range w.chunks).map (fun c =>
      (c, (List.range (w.chunkLen c)).map (fun i => w.input (readElem s w.elem w.src (1024 * c + i)))))
    let e := takeEarly s (earlyKey 1 w.group w.seq 0)
    let s := setWork e.2 id (.coll { w with started := true, node := node, credits := e.1 })
    let s := (joinLevels w.n w.rank).foldl (fun s L => sendCredit s id w L (min 16 w.chunks)) s
    (List.range w.chunks).foldl (fun s c => joinChunk s id c) s

/-- Start an `ALLGATHER`: the own block is copied into the own window and goes round the ring (R300). -/
def gatherStart (s : State) (id : CmdId) (urgent : Bool) (w : CollWork) : State :=
  let off := w.dstOffset + w.rank * w.count
  let a := ownBase s w.group + off
  match badAt s w.src w.count with
  | some a => exhaustAll s id (otherTile 0 0) a
  | none =>
    let s := writeMem (ddrTake s .write urgent a w.count) a (readMem s w.src w.count)
    let keys := (List.range w.n).map (fun r => (r, earlyKey 2 w.group w.seq r))
    let got := keys.map (fun k => (k.1, tabGet s.net.early 0 k.2))
    let s := keys.foldl (fun s k => (takeEarly s k.2).2) s
    let s := setWork s id (.coll { w with started := true, got := tabSet got w.rank w.count })
    let s := modCmd s id (fun k => { k with outs := [(ownBase s w.group + w.dstOffset, w.n * w.count)] })
    if w.n = 1 then s
    else mcastRows s id urgent w.group w.rank w.src w.count 1 0 0 off 0 0 (collAux w.seq 0)

/-- Start a ring multicast (R301). -/
def mcastStart (s : State) (id : CmdId) (urgent : Bool) (w : SendWork) : State :=
  let n := groupSize s w.group
  let me := groupRank s w.group
  let s := setWork s id (.send { w with
    started := true, issued := true, bytes := w.rowBytes * w.rows, waiting := (List.range n).filter (· != me) })
  if n ≤ 1 then s
  else mcastRows s id urgent w.group me w.src w.rowBytes w.rows w.srcStride w.dstStride w.dstOffset w.event w.fwdEvent
    (collAux w.seq 1)

/-- Start a collective operation whose turn has come, or end it when another member has (R292, R300). -/
def opStart (s : State) (c : Cmd) : State :=
  match opOf c with
  | none => s
  | some (g, q, _) =>
    let chip := abortedBy s g q
    if chip != 0 then
      failCmd (takeEarly s (earlyKey 3 g q 0)).2 c.id { code := .collAbort, chip := BitVec.ofNat 12 (chip - 1), arg := BitVec.ofNat 16 g }
    else match c.work with
      | .dike w => dikeStart s c.id w
      | .coll w => if w.gather then gatherStart s c.id c.urgent w else reduceStart s c.id c.urgent w
      | .send w => mcastStart s c.id c.urgent w
      | _ => s

/-- An admitted REDUCE_DATA packet lands: joined, or passed down (R299). -/
def landReduce (s : State) (base : Nat) (k : Packet) : State :=
  let g := k.group.toNat
  let c := auxChunk k.aux2
  if k.aux.toNat < 0x100 then
    let s := flowDone (writeRows s base k) k []
    match collCmd s g (auxSeq k.aux2) with
    | none => s
    | some (cmd, w) =>
      let v := (List.range (k.payload.length / 4)).map (fun i => BitVec.ofNat 32 (fieldLe k.payload (4 * i) 4))
      let s := setWork s cmd.id (.coll { w with arrived := tabSet w.arrived (k.aux.toNat * 2 ^ 24 + c) v })
      joinChunk (progress s cmd.id) cmd.id c
  else
    match collCmd s g (auxSeq k.aux2) with
    | none => flowDone (writeRows s base k) k []
    | some (cmd, w) => flowDone (deliverDown s cmd.id w .remote c k.payload) k []

/-- A COLL_CREDIT: places at the parent, or kept until the command here starts (R299). -/
def recvCredit (s : State) (k : Packet) : State :=
  match collCmd s k.group.toNat (auxSeq k.aux2) with
  | none => addEarly s (earlyKey 1 k.group.toNat (auxSeq k.aux2) 0) k.offset.toNat
  | some (c, w) =>
    upLoop (w.chunks + 1) (setWork s c.id (.coll { w with credits := w.credits + k.offset.toNat })) c.id

/-- A COLL_ABORT ends the same operation with `LINK_BREACH` and a cause that names the reporting chip (R300); one that comes
before the command here is kept for it. -/
def recvCollAbort (s : State) (k : Packet) : State :=
  let g := k.group.toNat
  let q := k.aux2.toNat
  match s.cmds.find? (fun c => match opOf c with
    | some (g', q', _) => g' = g && q' % 2 ^ 32 = q
    | none => false) with
  | some c => failCmd s c.id { code := .collAbort, chip := k.src, arg := k.group }
  | none =>
    if (k.aux2 - BitVec.ofNat 32 (tabGet s.net.collSeq 0 g)).toNat < 2048 then
      { s with net := { s.net with early := tabSet s.net.early (earlyKey 3 g q 0) (k.src.toNat + 1) } }
    else s

/-- An ARRIVE (R318). -/
def recvArrive (s : State) (k : Packet) : State :=
  match dikeCmd s k.group.toNat (auxSeq k.aux2) with
  | none => addEarly s (earlyKey 0 k.group.toNat (auxSeq k.aux2) k.aux.toNat) 1
  | some (c, w) => dikeRun (setWork s c.id (.dike { w with arrived := w.arrived ++ [k.aux.toNat] })) c.id

/-- A RELEASE: one that comes after its count releases at once and counts as late (R318, Table 12.3). -/
def recvRelease (s : State) (k : Packet) : State :=
  match dikeCmd s k.group.toNat (auxSeq k.aux2) with
  | none => s
  | some (c, w) =>
    if masterAt s k.offset.toNat < s.tide.count.toNat then
      setWork (timingEvent s .late 1) c.id (.done k.offset.toNat)
    else setWork s c.id (.dike { w with release := some k.offset.toNat })

/-- The last packet of a ring multicast (log entry 20). -/
def lastOfMcast (k : Packet) : Bool := bitOf k.context.toNat 48

/-- An admitted MCAST_WRITE lands at a member (R300, R301): written and counted for an `ALLGATHER`. With the last packet, its
passing on, PEER_EVENT, at the last member FWD_EVENT, and the acknowledgement to the origin follow the flow's order, so that no
later member takes it before an earlier packet (log entry 151). -/
def landMcast (s : State) (base : Nat) (k : Packet) (ingress : Option Ingress) : State :=
  let g := k.group.toNat
  let n := k.rowBytes.toNat * k.rows.toNat
  let s := writeRows s base k
  let s := match collCmd s g (auxSeq k.aux2) with
    | some (c, w) =>
      if w.gather then
        progress (setWork s c.id (.coll { w with got := tabModify w.got 0 k.aux.toNat (fun v => v + n) })) c.id
      else s
    | none => if auxChunk k.aux2 = 0 then addEarly s (earlyKey 2 g (auxSeq k.aux2) k.aux.toNat) n else s
  flowDone s k
    (if lastOfMcast k then
      .pass k ingress :: .event k.eventId.toNat ::
        ((if nextRank s g = k.aux.toNat then [.event (bitsOf k.context.toNat 47 32)] else []) ++
          [.mcast (memberChip s g k.aux.toNat) k.context k.group k.aux2])
    else [])

/-- A member's acknowledgement of a whole multicast reaches its origin (R300, R301). -/
def mcastAck (s : State) (id rank : Nat) : State :=
  match findCmd s id with
  | none => s
  | some c => match c.work with
    | .send w => progress (setWork s id (.send { w with waiting := w.waiting.filter (· != rank) })) id
    | .coll w => progress (setWork s id (.coll { w with ackedBy := w.ackedBy ++ [rank] })) id
    | _ => s

/-- An `ALLREDUCE` or `ALLGATHER` has done all it must (R299, R300). -/
def collComplete (s : State) (id : CmdId) (w : CollWork) : Bool :=
  w.started && !hasUnacked s id &&
    (if w.gather then
      (List.range w.n).all (fun r => w.count ≤ tabGet w.got 0 r) && w.ackedBy.eraseDups.length + 1 ≥ w.n
    else w.written.length ≥ w.chunks)

/-- DETAIL of a collective on `OK`. -/
def collDetail (w : CollWork) : Nat := if w.gather then w.n * w.count else w.count

end Sys2Proof.Machine
end

