-- ==== Sys2Proof/Machine/RecvOps.lean ====
section
/-!
DEFINITION. The control packets that reach this module (R280, R281, R290, R295) and the packets that it delivers to itself
(R282).
-/
namespace Sys2Proof.Machine

/-- CONTEXT of the writes of a culvert destination: bit 63 set, bind, channel and destination (log entry 20); a command's writes
carry its number in bits 31:0. -/
def pageContext (ch bind d : Nat) : W64 := BitVec.ofNat 64 (2 ^ 63 + bind * 4096 + ch * 256 + d)

/-- The channel, bind and destination that a CONTEXT names, or the command. -/
inductive Ref where
  | page (ch : Nat) (bind : W16) (d : Nat)
  | cmd (id : CmdId)
deriving DecidableEq, Repr

/-- Read a CONTEXT. -/
def refOf (c : W64) : Ref :=
  if c.msb then .page (bitsOf c.toNat 11 8) (BitVec.ofNat 16 (bitsOf c.toNat 27 12)) (bitsOf c.toNat 7 0) else .cmd (c.toNat % 2 ^ 32)

/-- An ACK (R280): of a flow, or of a whole multicast at a member (R301). -/
def recvAck (s : State) (k : Packet) : State :=
  if k.aux = 0xFFFF then mcastAck s (k.context.toNat % 2 ^ 32) k.aux2.toNat
  else ackFlow s (flowKey k.src.toNat (k.aux.toNat % 8)) k.flowSeq.toNat

/-- A REFUSE (R290, R242, R295): of a write, which ends the command or fails the destination, or of an RTS, which is sent
again later. -/
def recvRefuse (s : State) (k : Packet) : State :=
  match refOf k.context with
  | .page ch b d => failBind s ch b d .window
  | .cmd id => match findCmd s id with
    | none => s
    | some c =>
      let lost := { code := .windowRefused, chip := k.src
                    arg := BitVec.ofNat 16 (k.window.toNat + k.aux.toNat % 8 * 2 ^ 12) : Cause }
      match c.work with
      | .send w =>
        if w.mode = 1 && !w.issued then
          setWork s id (.send { w with rtsSent := false, rtsRefused := some s.clk.ticks })
        else failNet s id lost false
      | _ => failNet s id lost false

/-- The command here whose packet a BREACH_NOTICE tells to be lost (R281), by the kind of the packet: the one that its CONTEXT
names; the `ALLGATHER` that acknowledged a multicast; none for an acknowledgement or refusal, or for a packet that no command
sends (log entry 20). -/
def noticeCmd (s : State) (k : Packet) : Option Cmd :=
  if [0x01, 0x02, 0x03, 0x04, 0x14, 0x15, 0x16, 0x20, 0x21].contains k.rowBytes.toNat then
    match refOf k.context with
    | .cmd id => findCmd s id
    | .page _ _ _ => none
  else if k.rowBytes = 0x10 && k.rows = 0xFFFF then (collCmd s k.group.toNat (auxSeq k.aux2)).map (·.1)
  else none

/-- The loss that a BREACH_NOTICE tells reaches its owner (R281, R363, R373): the command posts BREACH, logged here in a record of
class 0x15, or the destination fails. -/
def noticeOwner (s : State) (k : Packet) : State :=
  let cause : Cause := { code := .breach, chip := k.src, arg := k.aux }
  match noticeCmd s k with
  | some c => failTold s c cause
  | none =>
    let s := lostBeyond s cause
    match refOf k.context with
    | .page ch b d => if isFlowKind (k.rowBytes.truncate 8) then failBind s ch b d .link else s
    | .cmd _ => s

/-- A BREACH_NOTICE (R281): the flow of a lost write is reset and the owner told; a member of a ring multicast passes the loss of a copy that
it had sent on to the origin. -/
def recvNotice (s : State) (k : Packet) : State :=
  let g := k.group.toNat
  let copy := k.rowBytes = 0x03 && k.rows.toNat < groupSize s g && k.rows.toNat != groupRank s g
  let s := if copy then routeCtl s { k with dst := memberChip s g k.rows.toNat, gen := 0xFFFF } else noticeOwner s k
  if k.gen.toNat < 5 && isFlowKind (k.rowBytes.truncate 8) then
    resetFlow s (flowKey k.window.toNat k.gen.toNat) [k.aux2.toNat]
  else s

/-- A FLOW_RESET (R281): the lost write that it names is given up, unless it has landed, and signals that wait on it never apply;
those of writes that the sender has begun since are not touched (log entry 21). -/
def recvFlowReset (s : State) (k : Packet) : State :=
  let vc := k.aux.toNat % 8
  let key := flowKey k.src.toNat vc
  let f := getFlowRx s key
  let q := k.aux2.toNat
  if q < f.done || f.landed.contains q then s
  else
    let n := k.flowSeq.toNat
    flowLand (putFlowRx s key { f with
      gone := f.gone ++ [(q, n)], signals := f.signals.filter (fun x => !(q < x.1 && x.1 < n)) }) k.src vc q []

/-- An RTS (R295): matched, held, or refused beyond 1,024. -/
def recvRts (s : State) (k : Packet) : State :=
  let r : Rts :=
    { src := k.src.toNat, group := k.group.toNat, rank := k.aux.toNat, tag := k.aux2.toNat, total := k.offset.toNat
      context := k.context.toNat, rowBytes := fieldLe k.payload 0 4, rows := fieldLe k.payload 4 4
      stride := k.stride.toNat }
  match recvFor s r with
  | some c => matchRts s c r
  | none =>
    if s.net.rts.length < 1024 then { s with net := { s.net with rts := s.net.rts ++ [r] } }
    else routeCtl s { ctlPacket s 0x11 k.src with context := k.context, group := k.group }

/-- A CTS (R295): the matched `SEND` writes the whole rows that fit the capacity. -/
def recvCts (s : State) (k : Packet) : State :=
  match findCmd s (fieldLe k.payload 8 8) with
  | none => s
  | some c => match c.work with
    | .send w =>
      if w.mode = 1 && !w.issued then
        let n := fitRows w.rowBytes w.rows w.dstStride (fieldLe k.payload 0 8)
        let w := { w with issued := true, rtsSent := true, bytes := n * w.rowBytes }
        sendRows (progress (setWork s c.id (.send w)) c.id) c.id c.urgent w
          { chip := k.src, window := k.window.toNat, gen := k.gen.toNat, offset := k.offset.toNat, stride := w.dstStride
            vc := 1, kind := 0x01 } n
      else s
    | _ => s

/-- An admitted write lands. -/
def landData (s : State) (base : Nat) (k : Packet) (ingress : Option Ingress) : State :=
  match k.kind.toNat with
  | 0x03 => landMcast s base k ingress
  | 0x04 => landReduce s base k
  | _ => landWrite s base k

/-- An arriving write (R215, R289, R290): one that its window refuses is dropped; an admitted one is passed on at once if it is a
multicast and not its last packet, and lands, or waits in the receive buffer, which it leaves as it lands. -/
def recvData (s : State) (k : Packet) (ingress : Option Ingress) : State :=
  let x := getWindow s k.window.toNat
  match winRefuses x k.gen .thl (packetEnd k) with
  | some r => refuseWrite (freePacket s ingress k) k (if k.kind = 0x03 then memberChip s k.group.toNat k.aux.toNat else k.src) r
  | none =>
    let s := if k.kind = 0x03 && !lastOfMcast k then passMcast s k ingress else s
    if remoteWaits s (rowAccesses x.base k) then
      { s with net := { s.net with inbound := s.net.inbound ++ [.write ingress x.base k] } }
    else landData (freePacket s ingress k) x.base k ingress

/-- Take a packet whose destination is this chip, from a port or from this module itself (Table 11.3). -/
def receive (s : State) (k : Packet) (ingress : Option Ingress) : State :=
  if isFlowKind k.kind then recvData s k ingress
  else
    let s := freePacket s ingress k
    match k.kind.toNat with
    | 0x10 => recvAck s k
    | 0x11 => recvRefuse s k
    | 0x12 => recvNotice s k
    | 0x13 => recvFlowReset s k
    | 0x14 => recvRts s k
    | 0x15 => recvCts s k
    | 0x16 => recvCredit s k
    | 0x17 => recvCollAbort s k
    | 0x20 => recvArrive s k
    | 0x21 => recvRelease s k
    | _ => s

end Sys2Proof.Machine
end

