-- ==== Sys2Proof/Machine/CulvertRun.lean ====
section
/-!
DEFINITION. The culvert's SOURCE and copy streams (R233 to R245) and the RoCEv2 engine (R246 to R256).
-/
namespace Sys2Proof.Machine

/-- The cache that a SOURCE reads, as Table 7.3 addresses it. -/
def sourceAtt (c : Channel) (w : SourceWork) : AttPar :=
  { d := c.dim, hkv := c.heads, kCvt := w.kFmt, vCvt := w.vFmt, layout := w.layout }
def sourceSeq (w : SourceWork) : SeqDesc := { kBase := w.kBase, vBase := w.vBase, hstride := w.hstride }

/-- Part, head and position of a SOURCE's `n`-th vector. -/
def sourceAt (c : Channel) (w : SourceWork) (n : Nat) : Nat × Nat × Nat :=
  (n % 2, n % (2 * c.heads) / 2, w.pos + n / (2 * c.heads))

/-- Vectors of a SOURCE. -/
def sourceCount (c : Channel) (w : SourceWork) : Nat := 2 * c.heads * (w.posB - w.pos)

/-- Address and bytes of a SOURCE's `n`-th vector. -/
def sourceRange (s : State) (w : SourceWork) (n : Nat) : Nat × Nat :=
  let c := getChannel s w.channel
  let x := sourceAt c w n
  let a := sourceAtt c w
  if x.1 = 0 then (kAddr s a (sourceSeq w) x.2.1 x.2.2, c.dim * a.eK)
  else (vAddr s a (sourceSeq w) x.2.1 x.2.2, c.dim * a.eV)

/-- The read of a SOURCE's next vector, or of the block table under it, meets an error. -/
def sourceBad (s : State) (w : SourceWork) : Bool :=
  let x := sourceAt (getChannel s w.channel) w w.next
  let r := sourceRange s w w.next
  rangeBad s r.1 r.2 || (w.layout = 1 && rangeBad s (w.kBase + 8 * (x.2.2 / 512)) 8)

/-- Hand over the next vector of a SOURCE; none while its read meets an error or its page finds no buffer (R245). -/
def sourceStep (s : State) (k : Cmd) (w : SourceWork) : Option (State × SourceWork) :=
  let c := getChannel s w.channel
  let x := sourceAt c w w.next
  let r := sourceRange s w w.next
  let fmt := if x.1 = 0 then w.kFmt else w.vFmt
  if sourceBad s w then none
  else
    let s := ddrTake s .read k.urgent r.1 r.2
    let vals := (List.range c.dim).map (fun i => elemF32 fmt 0 (readElem s fmt r.1 i))
    let e := exportConvert c k.hdr.seed x.1 x.2.1 0 x.2.2 w.layer vals
    let kept := c.st = .bound && !c.discard && c.firstPos ≤ x.2.2 && x.2.2 < c.endPos && c.layer0 ≤ w.layer &&
      w.layer < c.layer0 + c.layers
    match handOff s w.channel x.1 x.2.1 0 x.2.2 w.layer e.1 e.2 with
    | .taken s => some (endStall s w.channel (k.id, 0), { w with next := w.next + 1, accepted := w.accepted + (if kept then c.dim else 0) })
    | .stall => none

/-- Hand over vectors until all are accepted, or one stalls; the channel then remembers the stall (R241). -/
def sourceLoop : Nat → State → Cmd → SourceWork → State × SourceWork
  | 0, s, _, w => (s, w)
  | f + 1, s, k, w =>
    match sourceStep s k w with
    | some r => sourceLoop f r.1 k r.2
    | none => (s, w)

/-- Run a SOURCE on. It is done when every value is accepted (R245). -/
def sourceRun (s : State) (k : Cmd) (w : SourceWork) : State :=
  let n := sourceCount (getChannel s w.channel) w
  let r := sourceLoop (n - w.next) s k w
  let s := if r.2.next = w.next then r.1 else progress r.1 k.id
  if n ≤ r.2.next then setWork s k.id (.done r.2.accepted)
  else
    let s := setWork s k.id (.source r.2)
    if sourceBad s r.2 then s else noteStall s w.channel (k.id, 0)

/-- A SOURCE that can go on, or that has just come to stall (R241, R245). -/
def sourceNext (s : State) : Option State :=
  s.cmds.findSome? (fun k => match k.work with
    | .source w =>
      let c := getChannel s w.channel
      if sourceCount c w ≤ w.next || (sourceStep s k w).isSome ||
          (!sourceBad s w && !c.stalls.any (fun p => p.1 = (k.id, 0))) then some (sourceRun s k w) else none
    | _ => none)

/-- A field of a queue pair's parameters (Table 9.10). -/
def Qp.field (x : Qp) (o n : Nat) : Nat := fieldLe x.par o n

/-- Port, flags, path MTU, counts and rates of a queue pair. -/
def Qp.port (x : Qp) : Nat := x.field 2 1 % 16
def Qp.flag (x : Qp) (b : Nat) : Bool := bitOf (x.field 3 1) b
def Qp.mtu (x : Qp) : Nat := 128 * 2 ^ x.field 4 1
def Qp.retry (x : Qp) : Nat := x.field 7 1 % 8
def Qp.rnrRetry (x : Qp) : Nat := bitsOf (x.field 7 1) 6 4
def Qp.maxRd (x : Qp) : Nat := x.field 31 1
def orElse (v d : Nat) : Nat := if v = 0 then d else v
def Qp.ecnDec (x : Qp) : Nat := orElse (x.field 73 1) 64
def Qp.ecnPeriod (x : Qp) : Nat := orElse (x.field 76 2) 50
def Qp.ecnAi (x : Qp) : Nat := orElse (x.field 78 2) 10
def Qp.cnpInterval (x : Qp) : Nat := orElse (x.field 80 2) 50
def Qp.minRate (x : Qp) : Nat := orElse (x.field 82 2) 10

/-- The MAC rate of a queue pair's port, 100 Mb/s (R248). -/
def macRate (s : State) (x : Qp) : Nat := if s.rcd.portMode.getD x.port 0 = 2 then 8000 else 16000

/-- Ticks of the local ACK timeout, 4.096 us * 2^TIMEOUT, rounded up. -/
def Qp.timeout (x : Qp) : Nat := ceilDiv (28672 * 2 ^ x.field 6 1) 10

/-- A request of a queue pair is an RDMA READ. -/
def QpKind.isRead : QpKind → Bool
  | .read _ _ _ => true
  | _ => false

/-- Cut a message at the path MTU. -/
def mtuCuts (mtu n : Nat) : List (Nat × Nat) :=
  (List.range (max 1 (ceilDiv n mtu))).map (fun i => (i * mtu, min mtu (n - i * mtu)))

/-- Packets of an inbound or outbound message of `n` bytes. -/
def Qp.packets (x : Qp) (n : Nat) : Nat := max 1 (ceilDiv n x.mtu)

/-- Packet sequence numbers that a request uses: one for each packet of its message; a READ one for each response packet. -/
def psnsOf (x : Qp) (k : QpKind) : Nat :=
  match k with
  | .read _ _ n => x.packets n
  | .write _ _ d => x.packets d.length
  | .writeImm _ _ d _ => x.packets d.length
  | .send d => x.packets d.length

/-- Packets that a request puts on the line. -/
def requestPackets (x : Qp) (k : QpKind) : Nat := if k.isRead then 1 else psnsOf x k

/-- Half-port of a queue pair on a split port, and the priority of its frames where they carry a tag (Table 9.10). -/
def Qp.half (x : Qp) : Nat := x.field 2 1 / 16 % 2
def Qp.prio (x : Qp) : Option Nat := if x.flag 1 then some (x.field 20 2 / 8192) else none

/-- Bytes of a RoCEv2 frame from destination MAC to FCS, with `n` payload bytes and `ext` bytes of extended headers (R249,
R256; log entry 116). -/
def frameBytes (x : Qp) (ext n : Nat) : Nat :=
  14 + (if x.flag 1 then 4 else 0) + (if x.flag 0 then 40 else 20) + 8 + 12 + ext + roundUp n 4 + 8

/-- The frames of a message of `n` bytes whose first packet carries `a` bytes of extended headers and whose last `b`. -/
def messageFrames (x : Qp) (a b n : Nat) : List Nat :=
  let l := mtuCuts x.mtu n
  (l.zipIdx).map (fun p => frameBytes x ((if p.2 = 0 then a else 0) + (if p.2 + 1 = l.length then b else 0)) p.1.2)

/-- The frames of a request, of a read's response, and of an acknowledgement, NAK or CNP. -/
def requestFrames (x : Qp) (k : QpKind) : List Nat :=
  match k with
  | .write _ _ d => messageFrames x 16 0 d.length
  | .writeImm _ _ d _ => messageFrames x 16 4 d.length
  | .send d => messageFrames x 0 0 d.length
  | .read _ _ _ => [frameBytes x 16 0]

/-- Weir classes of Ethernet frames: culvert pages are EXPORT, other requests and read responses OTHER (Table 8.7). -/
def weirClassOf (o : RoceOut) : Option Nat :=
  match o with
  | .request _ p => match p.owner with
    | .page _ _ _ _ _ => some 2
    | _ => some 3
  | .response _ _ _ => some 3
  | _ => none

/-- The frames that a packet or message takes, of a request those not acknowledged yet. -/
def framesOf (x : Qp) (o : RoceOut) : List Nat :=
  match o with
  | .request _ p => (requestFrames x p.kind).drop p.acked
  | .response _ _ d => messageFrames x 4 4 d.length
  | _ => []

/-- Count frames of a class on a queue pair's port or half-port; a frame that finds the class at its ceiling leaves in the next
window (R214, R215, R248). -/
def takeFrames (s : State) (x : Qp) (k : Nat) (l : List Nat) : State :=
  l.foldl (fun s b =>
    weirCount (if halfLeft s x.port x.half k < b then weirBoundary s else s) (portUse x.port x.half k) b) s

/-- A pause holds the frames of a queue pair's priority (R256). -/
def qpPaused (s : State) (q : Nat) : Bool :=
  let x := getQp s q
  (getPort s x.port).paused && x.prio.isSome && x.prio = s.rcd.pfc.getD x.port none

/-- A packet of a queue pair leaves; a class without a share sends nothing (R214). -/
def emitRoce (s : State) (q : Nat) (o : RoceOut) : State :=
  let x := getQp s q
  match weirClassOf o with
  | some k =>
    if portShare s x.port k = 0 then s
    else
      let s := takeFrames s x k (framesOf x o)
      { s with wire := s.wire ++ [.roce o] }
  | none => { s with wire := s.wire ++ [.roce o] }

/-- A packet of a queue pair leaves at once, or when the pause for its priority ends (R256). -/
def sendRoce (s : State) (q : Nat) (o : RoceOut) : State :=
  if qpPaused s q then putQp s q { getQp s q with out := (getQp s q).out ++ [o] } else emitRoce s q o

/-- Packets of a queue pair that are on the line without an acknowledgement (R254). -/
def Qp.onLine (x : Qp) : Nat := (x.unacked.map (fun p => requestPackets x p.kind - p.acked)).sum

/-- The next waiting request may leave (R250, R254), and its class has a share (R214). -/
def qpRoom (s : State) (x : Qp) (q : Nat) (p : QpPacket) : Bool :=
  (x.onLine + requestPackets x p.kind ≤ 512 || x.unacked.isEmpty) &&
    (!p.kind.isRead || x.unacked.countP (fun u => u.kind.isRead) < x.maxRd) &&
    0 < portShare s x.port ((weirClassOf (.request q p)).getD 3)

/-- Send the requests of a queue pair that may leave, in order, while no pause holds them (R254, R256). -/
def qpFlush : Nat → State → Nat → State
  | 0, s, _ => s
  | f + 1, s, q =>
    let x := getQp s q
    match x.waiting with
    | [] => s
    | p :: t =>
      if qpRoom s x q p && x.st = .ready && !qpPaused s q then
        let p := { p with psn := x.psn }
        let s := putQp s q { x with
          waiting := t, unacked := x.unacked ++ [p], psn := x.psn + BitVec.ofNat 24 (psnsOf x p.kind)
          lastProgress := if x.unacked.isEmpty then s.clk.ticks else x.lastProgress }
        qpFlush f (emitRoce s q (.request q p)) q
      else s

/-- Queue a request on a queue pair and send what may leave. -/
def qpSend (s : State) (q : Nat) (k : QpKind) (o : Owner) : State :=
  let x := getQp s q
  let s := putQp s q { x with waiting := x.waiting ++ [{ psn := 0, kind := k, owner := o }] }
  qpFlush (x.waiting.length + 1) s q

/-- Send all unacknowledged requests again from the first packet not acknowledged, go-back-N (R254). -/
def qpResend (s : State) (q : Nat) : State :=
  (getQp s q).unacked.foldl (fun s p => sendRoce s q (.request q p)) s

/-- An attempt without progress: again, or ERROR after RETRY of them (R254). -/
def qpRetry (s : State) (q : Nat) : State :=
  let x := getQp s q
  if x.retry ≤ x.tries then qpLose s q .error .qpError
  else qpResend (putQp s q { x with tries := x.tries + 1, lastProgress := s.clk.ticks }) q

/-- A PSN is at or before another, modulo 2^24. -/
def psnUpto (p upto : BitVec 24) : Bool := (upto - p).toNat < 2 ^ 23

/-- An acknowledged request reaches its owner: a trailer's page, a MESSAGE. -/
def qpOwner (s : State) (o : Owner) : State :=
  match o with
  | .page ch b d q true => ackPage s ch b d q
  | .cmd id => setWork (progress s id) id (.done 0)
  | _ => s

/-- A request whose last packet a PSN covers. -/
def coveredBy (x : Qp) (psn : BitVec 24) (p : QpPacket) : Bool :=
  !p.kind.isRead && psnUpto (p.psn + BitVec.ofNat 24 (psnsOf x p.kind - 1)) psn

/-- A request with the packets that a PSN covers counted as acknowledged. -/
def partBy (psn : BitVec 24) (p : QpPacket) : QpPacket :=
  if !p.kind.isRead && psnUpto p.psn psn then { p with acked := max p.acked ((psn - p.psn).toNat + 1) } else p

/-- Every packet up to a PSN is acknowledged; READs wait for their responses. -/
def qpAck (s : State) (q : Nat) (psn : BitVec 24) : State :=
  let x := getQp s q
  let got := x.unacked.filter (coveredBy x psn)
  let rest := (x.unacked.filter (fun p => !coveredBy x psn p)).map (partBy psn)
  if rest = x.unacked then s
  else
    let s := putQp s q { x with unacked := rest, tries := 0, rnrTries := 0, lastProgress := s.clk.ticks }
    let s := got.foldl (fun s p => qpOwner s p.owner) s
    qpFlush ((getQp s q).waiting.length + 1) s q

/-- Merge byte ranges in ascending order. -/
def mergeRuns : List (Nat × Nat) → List (Nat × Nat)
  | [] => []
  | (a, n) :: t =>
    match mergeRuns t with
    | (b, m) :: rest => if b = a + n then (a, n + m) :: rest else (a, n) :: (b, m) :: rest
    | [] => [(a, n)]

/-- The bytes [lo, hi) of the items `step` bytes long from `base` that belong to in-range vectors. -/
def itemRuns (c : Channel) (g base step lo hi : Nat) (vs : List Nat) : List (Nat × Nat) :=
  (vs.filter (vecInRange c g)).filterMap (fun v =>
    let a := max lo (base + v * step)
    let b := min hi (base + (v + 1) * step)
    if a < b then some (a, b - a) else none)

/-- The maximal runs of in-range bytes of a page between two offsets (R233, R235). -/
def pageRuns (c : Channel) (g lo hi : Nat) : List (Nat × Nat) :=
  mergeRuns (itemRuns c g 0 c.vecBytes lo hi (List.range c.vecs) ++
    (if c.fmt = 0x9 then itemRuns c g c.scaleBase (c.dim / 32) lo hi (List.range c.vecs) else []))

/-- The in-range bytes of a page in ascending offset order. -/
def pageBytes (s : State) (c : Channel) (x : Page) (g : Nat) : List Byte :=
  (pageRuns c g 0 c.extent).flatMap (fun r => readMem s (bufAddr c x.buffer + r.1) r.2)

/-- A page's trailer (Table 9.5). -/
def trailerOf (s : State) (c : Channel) (x : Page) (q : Nat) : List Byte :=
  let g := pageOf c q
  let first := max c.firstPos (g * c.pageTokens)
  let last := min c.endPos ((g + 1) * c.pageTokens)
  let b := pageBytes s c x g
  leBytes 4 c.tag ++ leBytes 2 c.bindSeq.toNat ++ leBytes 2 (layerOf c q) ++ leBytes 4 g ++
    leBytes 2 (first - g * c.pageTokens) ++ leBytes 2 (last - first) ++ leBytes 1 c.fmt ++ leBytes 1 c.layout ++
    leBytes 2 c.heads ++ leBytes 2 c.dim ++
    leBytes 2 (bit01 c.crc + 2 * bit01 (g = c.firstPage + c.npages - 1)) ++
    leBytes 4 (if c.crc then (crc32 b).toNat else 0) ++ leBytes 4 b.length

/-- A write of a copy stream to a Thondlink peer, on VC 3 (R279, R281). -/
def peerWrite (s : State) (ch d : Nat) (x : Dest) (off : Nat) (data : List Byte) (signal : Bool) (o : Owner) : State :=
  sendWrite s { ctlPacket s (if signal then 0x02 else 0x01) (BitVec.ofNat 12 x.chip) with
    vc := 3, window := BitVec.ofNat 12 x.window, gen := BitVec.ofNat 16 x.gen
    eventId := if signal then BitVec.ofNat 16 x.event else 0, offset := BitVec.ofNat 64 off
    rowBytes := BitVec.ofNat 16 data.length, rows := 1, context := pageContext ch (getChannel s ch).bindSeq.toNat d, payload := data } o

/-- Send one run of a segment to a destination: one RDMA WRITE, or one Thondlink write (R235). -/
def destWrite (s : State) (ch d : Nat) (x : Dest) (a : Nat) (data : List Byte) (o : Owner) : State :=
  if x.kind = 1 then qpSend s x.qp (.write x.rkey a data) o else peerWrite s ch d x a data false o

/-- Send a page's trailer (R234): one WRITE with immediate, or one signalled write. -/
def sendTrailer (s : State) (ch d : Nat) (x : Dest) (q : Nat) (data : List Byte) : State :=
  let c := getChannel s ch
  let a := x.trailerBase + 32 * q
  if x.kind = 1 then
    qpSend s x.qp (.writeImm x.rkey a data (BitVec.ofNat 32 (layerOf c q * 2 ^ 20 + pageOf c q))) (.page ch c.bindSeq d q true)
  else peerWrite s ch d x a data true (.page ch c.bindSeq d q true)

/-- A destination's copy stream may send: it has not failed, no pause holds its frames, and the EXPORT class of its port has a
share. -/
def streamOpen (s : State) (x : Dest) : Bool :=
  x.failed.isNone && !(x.kind = 1 && (qpPaused s x.qp || portShare s (getQp s x.qp).port 2 = 0))

/-- Send the next complete segment of a destination's stream; with the page's last segment, its trailer (R235). A staging
error that persists fails the destination (Table 9.7); so does one in its page table (log entry 30). -/
def sendSegment (s : State) (ch d : Nat) : State :=
  let c := getChannel s ch
  match c.dests[d]? with
  | none => s
  | some x =>
    match c.ready[x.sent]? with
    | none => s
    | some (q, k) =>
      match tabFind? c.pages q with
      | none => putChannel s ch { c with dests := listSet c.dests d { x with sent := x.sent + 1 } }
      | some pg =>
        if !streamOpen s x then s
        else if x.kind = 1 && (getQp s x.qp).st != .ready then failDest s ch d .qpError
        else if rangeBad s (bufAddr c pg.buffer + 4096 * k) (min 4096 (c.extent - 4096 * k)) ||
            ((tabFind? x.bodies q).isNone && rangeBad s (x.pageTable + 8 * q) 8) then failDest s ch d .staging
        else
          let g := pageOf c q
          let body := match tabFind? x.bodies q with
            | some a => a
            | none => readLe s (x.pageTable + 8 * q) 8
          let runs := pageRuns c g (4096 * k) (min c.extent (4096 * k + 4096))
          let x := { x with sent := x.sent + 1, bodies := tabSet x.bodies q body }
          let whole := (neededSegs c g).all (fun j => ((c.ready.take x.sent).contains (q, j)))
          let x := if whole then { x with trailers := x.trailers ++ [q] } else x
          let s := putChannel s ch { c with dests := listSet c.dests d x }
          let s := runs.foldl (fun s r =>
            let a := bufAddr c pg.buffer + r.1
            let data := readMem s a r.2
            destWrite (ddrTake s .read false a r.2) ch d x (body + r.1) data (.page ch c.bindSeq d q false)) s
          if whole then sendTrailer s ch d x q (trailerOf s c pg q) else s

/-- The tick at which a destination's oldest complete page that it has not acknowledged times out (R240). -/
def timeoutAt (c : Channel) (x : Dest) : Option Nat :=
  (c.pages.filterMap (fun p =>
    if x.acked.contains p.1 then none else p.2.completeAt.map (fun t => t + us c.timeoutUs))).min?

/-- A destination that has not acknowledged a page complete for TIMEOUT_US fails, once the tick of the expiry, whose
acknowledgements count, is over (R240). -/
def timeoutDest (s : State) (ch d : Nat) : State :=
  let c := getChannel s ch
  match c.dests[d]? with
  | none => s
  | some x =>
    if x.failed.isSome then s
    else match timeoutAt c x with
      | none => s
      | some t => failDest (advanceTo s (t + 1)) ch d .timeout

/-- The oldest page in staging. -/
def oldestPage (c : Channel) : Option (Nat × Page) :=
  c.pages.foldl (fun a p => match a with
    | none => some p
    | some o => if p.2.takenAt < o.2.takenAt then some p else some o) none

/-- Several destinations of a channel fail at once; RoCEv2 ones take their queue pairs into ERROR (R242). -/
def failDests (s : State) (ch : Nat) (ds : List Nat) (r : FailReason) : State :=
  let c := getChannel s ch
  let s := ds.foldl (fun s d => markFailed s ch d r) s
  sealAll ((ds.filterMap (fun d => c.dests[d]?)).foldl (fun s x =>
    if x.kind = 1 && (getQp s x.qp).st = .ready then qpLose s x.qp .error .qpError else s) s)

/-- The producers of a channel that are still at work: a SOURCE in flight, an item of a command. -/
def stalledSince (s : State) (c : Channel) : Option Nat :=
  ((c.stalls.filter (fun p =>
    if p.1.2 = 0 then (findCmd s p.1.1).isSome else (getItem s p.1.1 (p.1.2 - 1)).isSome)).map (·.2)).min?

/-- A producer has been stalled for STALL_US (R241). A staging area without a page holds none that is complete. -/
def stallOut (s : State) (ch : Nat) : State :=
  let c := getChannel s ch
  match stalledSince s c with
  | none => s
  | some t =>
    let s := advanceTo s (t + us c.stallUs)
    let live := (List.range c.dests.length).filter (fun d => ((c.dests[d]?).map (·.failed)) = some none)
    match (oldestPage c).bind (fun p => p.2.completeAt.map (fun _ => p.1)) with
    | some q => failDests s ch (live.filter (fun d => !((c.dests[d]?).map (fun x => x.acked.contains q)).getD true)) .laggard
    | none =>
      let s := failDests s ch live .staging
      putChannel s ch { getChannel s ch with discard := true, stalls := [] }

/-- The window of an R_Key, its generation, and whether the key has the form of R252. -/
def keyWindow (k : W32) : Nat := k.toNat % 4096
def keyGen (k : W32) : W16 := BitVec.ofNat 16 (k.toNat / 65536)
def keyForm (k : W32) : Bool := k.toNat / 4096 % 16 = 0

/-- Why an inbound access is refused, or none (R252). -/
def keyRefuses (s : State) (x : Qp) (rkey : W32) (k : WinKind) (last : Nat) : Bool :=
  !keyForm rkey || (match k with | .rdmaRead => !x.flag 3 | _ => !x.flag 2) ||
    (winRefuses (getWindow s (keyWindow rkey)) (keyGen rkey) k last).isSome

/-- An inbound request meets its queue pair: READY and in sequence. A request behind is acknowledged again, one ahead gets
a sequence-error NAK; a queue pair that is not READY drops it (R251). -/
inductive Inbound where
  | drop
  | again
  | ahead
  | take
deriving DecidableEq, Repr

/-- How an inbound PSN stands. -/
def inboundOf (x : Qp) (psn : BitVec 24) : Inbound :=
  if x.st != .ready then .drop
  else if psn = x.rq then .take
  else if psnUpto psn x.rq then .again
  else .ahead

/-- Answer an inbound request that is not taken. -/
def inboundElse (s : State) (q : Nat) (i : Inbound) : State :=
  match i with
  | .again => sendRoce s q (.ack q ((getQp s q).rq - 1))
  | .ahead => sendRoce s q (.nakSequence q (getQp s q).rq)
  | _ => s

/-- The immediate of an inbound WRITE goes to the receive ring and RECV_EVENT counts (R253). -/
def inboundImm (s : State) (q : Nat) (imm : W32) : State :=
  let x := getQp s q
  let s := writeLe s (x.field 64 8 + 4 * (x.imms % 2 ^ x.field 72 1)) 4 imm.toNat
  addEvent (putQp s q { getQp s q with imms := x.imms + 1 }) (x.field 74 2) 1

/-- The data of an inbound WRITE lands in its window in the REMOTE class, its immediate follows, and it is acknowledged
(R215, R252, R253); a READ is served in the REMOTE class; a refusal is counted and answered (R252). -/
def serveRoce (s : State) (q : Nat) (psn : BitVec 24) (ask : RoceAsk) : State :=
  match ask with
  | .write _ base va data imm =>
    let a := base + va.toNat
    let s := writeMem (ddrTake s .remote false a data.length) a data
    let s := sendRoce s q (.ack q (psn + BitVec.ofNat 24 ((getQp s q).packets data.length - 1)))
    match imm with
    | some v => inboundImm s q v
    | none => s
  | .read _ base va n =>
    sendRoce (ddrTake s .remote false (base + va.toNat) n) q (.response q psn (readMem s (base + va.toNat) n))
  | .refused w => sendRoce (countRefused s w) q (.nakAccess q psn)
  | .invalid => sendRoce s q (.nakInvalid q psn)

/-- LPDDR5X accesses that an inbound request's data takes as it lands. -/
def RoceAsk.accesses (ask : RoceAsk) : Nat :=
  match ask with
  | .write _ base va data _ => ddrAccesses (base + va.toNat) data.length
  | _ => 0

/-- An inbound request of a queue pair waits: behind an earlier one of its queue pair, or because the REMOTE class is at its
ceiling (R215). -/
def roceWaits (s : State) (q : Nat) (ask : RoceAsk) : Bool :=
  s.net.inbound.any (fun e => match e with | .roce r _ _ => r = q | _ => false) || remoteWaits s ask.accesses

/-- Bytes of the frames of a request that waits in a receive buffer (R249, R256). -/
def RoceAsk.frames (x : Qp) (ask : RoceAsk) : List Nat :=
  match ask with
  | .write _ _ _ d imm => messageFrames x 16 (if imm.isSome then 4 else 0) d.length
  | .read .. => [frameBytes x 16 0]
  | _ => []

/-- Bytes of the requests that wait in a port's receive buffer, of one priority or of all (R256). -/
def waitingBytes (s : State) (p : Nat) (prio : Option Nat) : Nat :=
  (s.net.inbound.map (fun e => match e with
    | .roce q _ ask =>
      let x := getQp s q
      if x.port = p && (prio.isNone || x.prio = prio) then (ask.frames x).sum else 0
    | _ => 0)).sum

/-- A remote write that came in on a port is held by the REMOTE class (R215, R256). -/
def heldWrite (s : State) (p : Nat) : Bool :=
  s.net.inbound.any (fun e => match e with
    | .roce q _ (.write ..) => (getQp s q).port = p
    | _ => false)

/-- PFC frames of a port (R256): a pause while its priority takes more than three quarters of the receive buffer or inbound
writes are held by the REMOTE class; its end after that. -/
def pfcCheck (s : State) (p : Nat) : State :=
  match s.rcd.pfc.getD p none with
  | none => s
  | some k =>
    let want := decide (786432 < waitingBytes s p (some k)) || heldWrite s p
    let x := getPort s p
    if want = x.pausing then s
    else { putPort s p { x with pausing := want } with wire := s.wire ++ [.pfc p k want] }

/-- An inbound request in sequence is taken: the sequence moves on over the packets of one that is not refused, and it is
served, or waits in the receive buffer. No response carries data that reads as bad (log entry 28). -/
def inboundTake (s : State) (q : Nat) (psn : BitVec 24) (ask : RoceAsk) : State :=
  let x := getQp s q
  let n := match ask with
    | .write _ _ _ d _ => x.packets d.length
    | .read _ base va n => if rangeBad s (base + va.toNat) n then 0 else x.packets n
    | _ => 0
  let drop := match ask with
    | .read .. => n == 0
    | _ => false
  if drop then s
  else
    let s := putQp s q { x with rq := psn + BitVec.ofNat 24 n }
    if roceWaits s q ask then
      pfcCheck { s with net := { s.net with inbound := s.net.inbound ++ [.roce q psn ask] } } x.port
    else serveRoce s q psn ask

/-- The oldest of what waits in the receive buffers goes on once the REMOTE class takes it (R215, R274): a write lands and
leaves the buffer; a request of a queue pair that is no longer READY is dropped (R251). -/
def inboundNext (s : State) : Option State :=
  match s.net.inbound with
  | [] => none
  | e :: t =>
    let r := { s with net := { s.net with inbound := t } }
    match e with
    | .write i base k =>
      if remoteFits s (rowAccesses base k) then some (landData (freePacket r i k) base k i) else none
    | .roce q psn ask =>
      if (getQp s q).st != .ready then some (pfcCheck r (getQp s q).port)
      else if remoteFits s ask.accesses then some (pfcCheck (serveRoce r q psn ask) (getQp s q).port)
      else none

/-- Response data of a queue pair's oldest READ arrives (R246): a READ gets its bytes in order; those of a command that
has ended are discarded (R370). -/
def pullData (s : State) (q : Nat) (data : List Byte) : State :=
  let x := getQp s q
  match x.unacked.find? (fun p => p.kind.isRead) with
  | none => s
  | some rd => match rd.kind with
    | .read rkey va n =>
      let m := min data.length n
      let rest := x.unacked.erase rd
      let later := x.unacked.map (fun u => if u = rd then { rd with kind := .read rkey (va + m) (n - m) } else u)
      let s := putQp s q { x with
        unacked := if m < n then later else rest, tries := 0, rnrTries := 0, lastProgress := s.clk.ticks }
      let s := match rd.owner with
        | .cmd id => match findCmd s id with
          | none => s
          | some c => match c.work with
            | .pull p addr bytes got =>
              let s := writeMem (ddrTake s .write c.urgent (addr + got) m) (addr + got) (data.take m)
              modCmd s id (fun k => { k with
                progress := s.clk.ticks, outs := [(addr, bytes)]
                work := if bytes ≤ got + m then .done 0 else .pull p addr bytes (got + m) })
            | _ => s
        | _ => s
      qpFlush ((getQp s q).waiting.length + 1) s q
    | _ => s

/-- The READ requests of a PULL, at most 4 KiB each (R246). -/
def pullReads (s : State) (id : CmdId) (q rkey va bytes : Nat) : State :=
  (List.range (ceilDiv bytes 4096)).foldl (fun s i =>
    qpSend s q (.read rkey (va + 4096 * i) (min 4096 (bytes - 4096 * i))) (.cmd id)) s

/-- A PULL or MESSAGE whose queue pair is not READY ends as one whose queue pair enters ERROR (R246, R247; log entry
29). -/
def qpFails (s : State) (id : CmdId) (ch : Nat) : State :=
  failCmd s id (localCause s .exportDest 0 (FailReason.qpError.code * 2 ^ 8 + ch * 2 ^ 12))

/-- A RoCEv2 acknowledgement (R254): READY queue pairs alone react. -/
def recvRoceAck (s : State) (q : Nat) (a : RoceAck) : State :=
  if (getQp s q).st != .ready then s
  else match a with
    | .ack psn => qpAck s q psn
    | .nakSequence psn =>
      let s := qpAck s q (psn - 1)
      if (getQp s q).unacked.isEmpty then s else qpRetry s q
    | .nakRnr psn =>
      let s := qpAck s q (psn - 1)
      let x := getQp s q
      if x.rnrRetry = 7 then qpResend s q
      else if x.rnrRetry ≤ x.rnrTries then qpLose s q .error .qpError
      else qpResend (putQp s q { x with rnrTries := x.rnrTries + 1 }) q
    | .nakOther => qpLose s q .error .qpError

/-- A rate of whole units is below another. -/
def rateLt (a b : Nat × Nat) : Bool := a.1 * 2 ^ b.2 < b.1 * 2 ^ a.2

/-- RC × (1 − d / 256), with a floor (R255). -/
def rateCut (r : Nat × Nat) (d floor : Nat) : Nat × Nat :=
  let c := (r.1 * (256 - d), r.2 + 8)
  if rateLt c (floor, 0) then (floor, 0) else c

/-- The lesser of the MAC rate and RC + (RT − RC) / 2 + AI (R255). -/
def rateRaise (rc rt : Nat × Nat) (ai mac : Nat) : Nat × Nat :=
  let e := max rc.2 rt.2
  let r := (rc.1 * 2 ^ (e - rc.2) + rt.1 * 2 ^ (e - rt.2) + ai * 2 ^ (e + 1), e + 1)
  if rateLt r (mac, 0) then r else (mac, 0)

/-- A tick is at least `us n` after another, if there was another. -/
def spaced (s : State) (last : Option Nat) (n : Nat) : Bool :=
  match last with
  | some t => t + us n ≤ s.clk.ticks
  | none => true

/-- A CNP arrives (R255): the cut, unless one was made within CNP_INTERVAL_US. DESIGN CHOICE (log entry 150): a CNP that is
ignored ends a period without one as any other does. -/
def recvCnp (s : State) (q : Nat) : State :=
  let x := getQp s q
  if x.st != .ready || !x.flag 4 then s
  else
    let x := { x with lastPeriod := s.clk.ticks }
    if spaced s x.lastCut x.cnpInterval then
      putQp s q { x with rt := x.rc, rc := rateCut x.rc x.ecnDec x.minRate, lastCut := some s.clk.ticks }
    else putQp s q x

/-- ECN_PERIOD_US without a CNP have passed (R255). -/
def ecnRaise (s : State) (q : Nat) : State :=
  let x := getQp s q
  if x.st != .ready || !x.flag 4 then s
  else
    let s := advanceTo s (x.lastPeriod + us x.ecnPeriod)
    putQp s q { x with rc := rateRaise x.rc x.rt x.ecnAi (macRate s x), lastPeriod := s.clk.ticks }

/-- A CE-marked packet of a queue pair is answered with a CNP, at most one per CNP_INTERVAL_US (R255). -/
def answerCe (s : State) (q : Nat) : State :=
  let x := getQp s q
  if x.st = .ready && x.flag 4 && spaced s x.lastCnpSent x.cnpInterval then
    sendRoce (putQp s q { x with lastCnpSent := some s.clk.ticks }) q (.cnp q)
  else s

/-- A frame that R249 does not drop: of the form, intact, addressed to the MAC on which it came (R248). -/
def frameKept (s : State) (p : Nat) (f : Frame) : Bool :=
  f.roceForm && f.bytes ≤ 4224 && f.fcsOk && f.icrcOk && f.dmac.toNat = s.rcd.macs.getD (2 * p + f.half.val) 0

/-- Every queue pair of a port sends what waited for the end of a pause (R256). -/
def unpause (s : State) (p : Nat) : State :=
  (s.qps.map (·.1)).foldl (fun s q =>
    if (getQp s q).port = p then
      let l := (getQp s q).out
      let s := l.foldl (fun s o => emitRoce s q o) (putQp s q { getQp s q with out := [] })
      qpFlush ((getQp s q).waiting.length + 1) s q
    else s) s

end Sys2Proof.Machine
end

