-- ==== Sys2Proof/Machine/Keccak.lean ====
section
/-!
DEFINITION. SHAKE256 and SHAKE128 (FIPS 202) and KMAC256 (SP 800-185), which R257, R377, R378 and R383 name. Round constants and rotation offsets are computed as the
standard defines them, by its shift register and its walk over the lanes.
-/
namespace Sys2Proof.Machine

/-- The lane at column `x` of row `y` of the 5 x 5 lanes, coordinates modulo 5. -/
def laneAt (a : List W64) (x y : Nat) : W64 := a.getD (5 * (y % 5) + x % 5) 0

/-- The lanes that a rule gives, row by row. -/
def lanesOf (f : Nat → Nat → W64) : List W64 := (List.range 25).map (fun i => f (i % 5) (i / 5))

/-- One shift of the eight-bit register behind the round constants. -/
def shiftReg (r : Nat) : Nat := if r < 128 then 2 * r else (2 * r - 256) ^^^ 0x71

/-- Bit 0 of the register after `t` shifts from 1. -/
def shiftBit (t : Nat) : Bool := (t.repeat shiftReg 1) % 2 = 1

/-- The constant of a round: bit 2^j - 1 is the register's bit after j + 7 rounds shifts, j from 0 to 6. -/
def roundConst (r : Nat) : W64 :=
  BitVec.ofNat 64 ((List.range 7).foldl (fun v j => if shiftBit (7 * r + j) then v + 2 ^ (2 ^ j - 1) else v) 0)

/-- The rotation of a lane: the walk (x, y) to (y, 2 x + 3 y) from (1, 0) meets it at step `t`, with offset
(t + 1) (t + 2) / 2; the lane at the origin is never met and stays. -/
def rotWalk : Nat → Nat → Nat → Nat → Nat → Nat → Nat
  | 0, _, _, _, _, _ => 0
  | n + 1, t, px, py, x, y =>
    if px = x && py = y then (t + 1) * (t + 2) / 2 else rotWalk n (t + 1) py ((2 * px + 3 * py) % 5) x y

/-- The column parities enter every lane. -/
def stepTheta (a : List W64) : List W64 :=
  let p := (List.range 5).map (fun x => (List.range 5).foldl (fun v y => v ^^^ laneAt a x y) 0)
  lanesOf (fun x y => laneAt a x y ^^^ laneAt p (x + 4) 0 ^^^ (laneAt p (x + 1) 0).rotateLeft 1)

/-- Each lane moves and turns. -/
def stepRhoPi (a : List W64) : List W64 :=
  lanesOf (fun x y => (laneAt a (x + 3 * y) x).rotateLeft (rotWalk 24 0 1 0 ((x + 3 * y) % 5) x % 64))

/-- Each row is mixed; the first lane takes the round's constant. -/
def stepChiIota (a : List W64) (r : Nat) : List W64 :=
  lanesOf (fun x y =>
    laneAt a x y ^^^ (laneAt a (x + 2) y &&& ~~~laneAt a (x + 1) y) ^^^ (if x + y = 0 then roundConst r else 0))

/-- The permutation of the 1,600 bits: 24 rounds. -/
def permute (a : List W64) : List W64 :=
  (List.range 24).foldl (fun b r => stepChiIota (stepRhoPi (stepTheta b)) r) a

/-- Bytes of a block of SHAKE256, and of SHAKE128. -/
def shakeRate : Nat := 136
def shakeRate128 : Nat := 168

/-- The sponge takes in `n` blocks of bytes, one permutation each. -/
def sponge (rate : Nat) : Nat → List Byte → List W64 → List W64
  | 0, _, a => a
  | n + 1, b, a =>
    let blk := b.take rate
    sponge rate n (b.drop rate) (permute (lanesOf (fun x y =>
      laneAt a x y ^^^ BitVec.ofNat 64 (fieldLe blk (8 * (5 * y + x)) 8))))

/-- The sponge gives `n` blocks of bytes, with a permutation between them. -/
def squeeze (rate : Nat) : Nat → List W64 → List Byte
  | 0, _ => []
  | n + 1, a => (a.flatMap (fun w => leBytes 8 w.toNat)).take rate ++ squeeze rate n (permute a)

/-- The message with a suffix and the padding 1, zeros, 1, up to whole blocks. -/
def shakePad (rate : Nat) (suffix : Byte) (m : List Byte) : List Byte :=
  let z := rate - 1 - m.length % rate
  let body := m ++ [suffix] ++ List.replicate z 0
  body.take (body.length - 1) ++ [body.getLastD 0 ||| 0x80]

/-- The first `n` bytes of a sponge over a message. -/
def keccakXof (rate : Nat) (suffix : Byte) (m : List Byte) (n : Nat) : List Byte :=
  let b := shakePad rate suffix m
  (squeeze rate (ceilDiv n rate) (sponge rate (b.length / rate) b (lanesOf (fun _ _ => 0)))).take n

/-- The first `n` bytes of SHAKE256, and of SHAKE128: the suffix is 1111 and the first 1 of the padding. -/
def shake256 (m : List Byte) (n : Nat) : List Byte := keccakXof shakeRate 0x1F m n
def shake128 (m : List Byte) (n : Nat) : List Byte := keccakXof shakeRate128 0x1F m n

/-- A length in bits as SP 800-185 writes it, for less than 2^16, most significant byte first. -/
def bitLength (n : Nat) : List Byte :=
  if n < 256 then [BitVec.ofNat 8 n] else [BitVec.ofNat 8 (n / 256), BitVec.ofNat 8 (n % 256)]
def leftEncode (n : Nat) : List Byte := BitVec.ofNat 8 (bitLength n).length :: bitLength n
def rightEncode (n : Nat) : List Byte := bitLength n ++ [BitVec.ofNat 8 (bitLength n).length]

/-- A string with its length, and a string padded to whole blocks of SHAKE256 (SP 800-185). -/
def encodeString (b : List Byte) : List Byte := leftEncode (8 * b.length) ++ b
def bytepad (b : List Byte) : List Byte :=
  let x := leftEncode shakeRate ++ b
  x ++ List.replicate ((shakeRate - x.length % shakeRate) % shakeRate) 0

/-- KMAC256 of a message under a key, `n` bytes, without customisation (SP 800-185; R378, R383). -/
def kmac256 (key m : List Byte) (n : Nat) : List Byte :=
  keccakXof shakeRate 0x04 (bytepad (encodeString [0x4B, 0x4D, 0x41, 0x43] ++ encodeString []) ++
    (bytepad (encodeString key) ++ m ++ rightEncode (8 * n))) n

/-- "Digest" of chapter 15: the first 64 bytes of SHAKE256 (R377). -/
def digest64 (m : List Byte) : List Byte := shake256 m 64

end Sys2Proof.Machine
end

