-- ==== Sys2Proof/Machine/MlDsa.lean ====
section
/-!
DEFINITION. Pure ML-DSA-65 of FIPS 204, which R377 and R383 name: key generation from a seed, the deterministic signature and its
verification. A polynomial is a list of 256 coefficients modulo q, a vector a list of polynomials. Loops that reject samples are
bounded as the standard's Appendix C allows.
-/
namespace Sys2Proof.Machine

/-- The modulus q. -/
def mlQ : Nat := 8380417

/-- Polynomials and vectors of them. -/
abbrev Poly := List Nat
abbrev PolyVec := List Poly

/-- Sums, differences, products and multiples of coefficients. -/
def polyAdd (a b : Poly) : Poly := List.zipWith (fun x y => (x + y) % mlQ) a b
def polySub (a b : Poly) : Poly := List.zipWith (fun x y => (x + (mlQ - y)) % mlQ) a b
def polyMul (a b : Poly) : Poly := List.zipWith (fun x y => x * y % mlQ) a b
def polyScale (k : Nat) (a : Poly) : Poly := a.map (fun x => k * x % mlQ)
def vecAdd (a b : PolyVec) : PolyVec := List.zipWith polyAdd a b
def vecSub (a b : PolyVec) : PolyVec := List.zipWith polySub a b

/-- A coefficient as the integer nearest zero, and the residue of an integer. -/
def centred (x : Nat) : Int := if x ≤ (mlQ - 1) / 2 then x else (x : Int) - mlQ
def residue (x : Int) : Nat := (x % mlQ).toNat

/-- The largest size of a vector's coefficients. -/
def vecNorm (v : PolyVec) : Nat := (v.flatMap (fun p => p.map (fun x => (centred x).natAbs))).foldl max 0

/-- The eight bits of a number in reverse. -/
def bitRev8 (m : Nat) : Nat := (List.range 8).foldl (fun v i => 2 * v + m / 2 ^ i % 2) 0

/-- 1753^e modulo q; 1753 is a root of unity of order 512. -/
def zetaPow (e : Nat) : Nat := 1753 ^ (e % 512) % mlQ

/-- The number-theoretic transform of a block of 2^d coefficients, the `m`-th twiddle first. -/
def nttBlock : Nat → Nat → Poly → Poly
  | 0, _, w => w
  | d + 1, m, w =>
    let lo := w.take (2 ^ d)
    let t := polyScale (zetaPow (bitRev8 m)) (w.drop (2 ^ d))
    nttBlock d (2 * m) (polyAdd lo t) ++ nttBlock d (2 * m + 1) (polySub lo t)

/-- Its inverse, but for a factor of 2^d. -/
def inttBlock : Nat → Nat → Poly → Poly
  | 0, _, w => w
  | d + 1, m, w =>
    let a := inttBlock d (2 * m) (w.take (2 ^ d))
    let b := inttBlock d (2 * m + 1) (w.drop (2 ^ d))
    polyAdd a b ++ polyScale (zetaPow (512 - bitRev8 m)) (polySub a b)

/-- The transform of a polynomial and its inverse; 8347681 is the inverse of 256. -/
def ntt (p : Poly) : Poly := nttBlock 8 1 p
def intt (p : Poly) : Poly := polyScale 8347681 (inttBlock 8 1 p)

/-- A matrix times a vector, both transformed. -/
def matVec (a : List PolyVec) (v : PolyVec) : PolyVec :=
  a.map (fun row => (List.zipWith polyMul row v).foldl polyAdd (List.replicate 256 0))

/-- Pack values of `w` bits each, and unpack `n` of them. -/
def packBits (w : Nat) (l : List Nat) : List Byte :=
  leBytes (w * l.length / 8) (l.foldr (fun x v => x % 2 ^ w + 2 ^ w * v) 0)
def unpackBits (w n : Nat) (b : List Byte) : List Nat :=
  let v := leNat b
  (List.range n).map (fun i => v / 2 ^ (w * i) % 2 ^ w)

/-- Three bytes as a coefficient, if it lies below q. -/
def coeffOf3 (b : List Byte) : Option Nat :=
  let z := leNat b % 2 ^ 23
  if z < mlQ then some z else none

/-- The first coefficients below q of a stream of bytes. -/
def rejCoeffs : Nat → List Byte → List Nat
  | 0, _ => []
  | n + 1, b => match coeffOf3 (b.take 3) with
    | some z => z :: rejCoeffs n (b.drop 3)
    | none => rejCoeffs n (b.drop 3)

/-- A polynomial sampled in the transformed domain from 34 bytes. -/
def rejNttPoly (seed : List Byte) : Poly := (rejCoeffs 298 (shake128 seed 894)).take 256

/-- A coefficient between -4 and 4 from half a byte, if that is below 9. -/
def coeffOfHalf (b : Nat) : Option Nat := if b < 9 then some (residue (4 - (b : Int))) else none

/-- A polynomial with coefficients between -4 and 4 from 66 bytes. -/
def rejBoundedPoly (seed : List Byte) : Poly :=
  ((shake256 seed 481).flatMap (fun b =>
    ([b.toNat % 16, b.toNat / 16]).filterMap coeffOfHalf)).take 256

/-- The public matrix of a seed: 6 rows of 5. -/
def expandA (rho : List Byte) : List PolyVec :=
  (List.range 6).map (fun r => (List.range 5).map (fun c => rejNttPoly (rho ++ leBytes 1 c ++ leBytes 1 r)))

/-- Short vectors of a seed, from a number on. -/
def expandS (rho : List Byte) (from_ n : Nat) : PolyVec :=
  (List.range n).map (fun r => rejBoundedPoly (rho ++ leBytes 2 (from_ + r)))

/-- The mask of an attempt at a signature. -/
def expandMask (rho : List Byte) (kappa : Nat) : PolyVec :=
  (List.range 5).map (fun r =>
    (unpackBits 20 256 (shake256 (rho ++ leBytes 2 (kappa + r)) 640)).map (fun (v : Nat) => residue (524288 - v)))

/-- Place the signs of a challenge: index `i` counts from 207, and takes the next byte that is at most `i`. -/
def ballFill : Nat → Nat → List Byte → Nat → Poly → Poly
  | 0, _, _, _, c => c
  | _, _, [], _, c => c
  | f + 1, i, b :: t, signs, c =>
    if 255 < i then c
    else if i < b.toNat then ballFill f i t signs c
    else
      let j := b.toNat
      let c := (c.set i (c.getD j 0)).set j (if signs % 2 = 1 then mlQ - 1 else 1)
      ballFill f (i + 1) t (signs / 2) c

/-- The challenge polynomial of a hash: 49 coefficients are 1 or -1. -/
def sampleInBall (h : List Byte) : Poly :=
  let s := shake256 h 129
  ballFill 121 207 (s.drop 8) (leNat (s.take 8)) (List.replicate 256 0)

/-- The high and low parts of a coefficient of t: 13 low bits, nearest zero. -/
def power2Round (x : Nat) : Nat × Int :=
  let r := x % 8192
  let r0 : Int := if r ≤ 4096 then r else (r : Int) - 8192
  (((x : Int) - r0).toNat / 8192, r0)

/-- The high and low parts of a coefficient by 2 gamma2 = 523776. -/
def decompose (x : Nat) : Nat × Int :=
  let r := x % 523776
  let r0 : Int := if r ≤ 261888 then r else (r : Int) - 523776
  if (x : Int) - r0 = mlQ - 1 then (0, r0 - 1) else (((x : Int) - r0).toNat / 523776, r0)

def highBits (v : PolyVec) : PolyVec := v.map (fun p => p.map (fun x => (decompose x).1))
def lowBits (v : PolyVec) : PolyVec := v.map (fun p => p.map (fun x => residue (decompose x).2))

/-- The high part as a hint corrects it. -/
def useHint (h : Nat) (x : Nat) : Nat :=
  let d := decompose x
  if h = 0 then d.1 else if 0 < d.2 then (d.1 + 1) % 16 else (d.1 + 15) % 16

/-- The hints: 1 where adding `z` changes the high part. -/
def makeHint (z r : PolyVec) : PolyVec :=
  List.zipWith (fun a b => List.zipWith (fun x y =>
    if (decompose y).1 = (decompose ((x + y) % mlQ)).1 then 0 else 1) a b) z r

/-- The bytes of w1, four bits a coefficient. -/
def w1Encode (w : PolyVec) : List Byte := w.flatMap (packBits 4)

/-- The places of the ones of a hint, and their bytes: 55 places, then a running count for each polynomial. -/
def onesOf (p : Poly) : List Nat := ((p.zipIdx).filter (fun x => x.1 != 0)).map (·.2)
def hintPack (h : PolyVec) : List Byte :=
  let ones := h.flatMap onesOf
  ((ones.map (BitVec.ofNat 8)) ++ List.replicate (55 - ones.length) 0) ++
    (List.range h.length).map (fun i => BitVec.ofNat 8 ((h.take (i + 1)).flatMap onesOf).length)

/-- A list of numbers rises strictly. -/
def rises : List Nat → Bool
  | a :: b :: t => a < b && rises (b :: t)
  | _ => true

/-- The hint that 61 bytes stand for, if they are of the form. -/
def hintUnpack (y : List Byte) : Option PolyVec :=
  let ends := 0 :: ((y.drop 55).take 6).map (·.toNat)
  let parts := (List.range 6).map (fun i =>
    ((y.take 55).map (·.toNat)).take (ends.getD (i + 1) 0) |>.drop (ends.getD i 0))
  let ok := (List.range 6).all (fun i => ends.getD i 0 ≤ ends.getD (i + 1) 0 && ends.getD (i + 1) 0 ≤ 55) &&
    parts.all rises && ((y.take 55).drop (ends.getD 6 0)).all (· = 0)
  if ok then some (parts.map (fun l => (List.range 256).map (fun j => if l.contains j then 1 else 0))) else none

/-- A signing key: the seed of the matrix, the key of the mask, the digest of the public key, the secrets and t0. -/
structure MlKey where
  rho : List Byte
  key : List Byte
  tr : List Byte
  s1 : PolyVec
  s2 : PolyVec
  t0 : PolyVec
deriving DecidableEq, Repr

/-- ML-DSA.KeyGen_internal: the public key, 1,952 B, and the signing key of a 32-byte seed. -/
def mlKeyGen (xi : List Byte) : List Byte × MlKey :=
  let h := shake256 (xi ++ leBytes 1 6 ++ leBytes 1 5) 128
  let rho := h.take 32
  let s1 := expandS ((h.drop 32).take 64) 0 5
  let s2 := expandS ((h.drop 32).take 64) 5 6
  let t := vecAdd ((matVec (expandA rho) (s1.map ntt)).map intt) s2
  let pk := rho ++ t.flatMap (fun p => packBits 10 (p.map (fun x => (power2Round x).1)))
  (pk, { rho := rho, key := (h.drop 96).take 32, tr := shake256 pk 64, s1 := s1, s2 := s2
         t0 := t.map (fun p => p.map (fun x => residue (power2Round x).2)) })

/-- A message as pure ML-DSA hashes it, with its context. -/
def mlMessage (ctx m : List Byte) : List Byte := leBytes 1 0 ++ leBytes 1 ctx.length ++ ctx ++ m

/-- The bytes of a signature: challenge hash, z, hint. -/
def sigEncode (c : List Byte) (z h : PolyVec) : List Byte :=
  c ++ z.flatMap (fun p => packBits 20 (p.map (fun x => (524288 - centred x).toNat))) ++ hintPack h

/-- One attempt at a signature: gamma1 - beta is 524092, gamma2 - beta 261692. -/
def mlAttempt (k : MlKey) (a : List PolyVec) (mu rho2 : List Byte) (kappa : Nat) : Option (List Byte) :=
  let y := expandMask rho2 kappa
  let w := (matVec a (y.map ntt)).map intt
  let c := shake256 (mu ++ w1Encode (highBits w)) 48
  let ch := ntt (sampleInBall c)
  let mul := fun (v : PolyVec) => v.map (fun p => intt (polyMul ch (ntt p)))
  let z := vecAdd y (mul k.s1)
  let r := vecSub w (mul k.s2)
  let ct0 := mul k.t0
  let h := makeHint (ct0.map (fun p => p.map (fun x => (mlQ - x) % mlQ))) (vecAdd r ct0)
  if 524092 ≤ vecNorm z || 261692 ≤ vecNorm (lowBits r) || 261888 ≤ vecNorm ct0 ||
    55 < (h.flatMap onesOf).length then none
  else some (sigEncode c z h)

/-- Attempts at a signature until one holds. -/
def mlLoop (k : MlKey) (a : List PolyVec) (mu rho2 : List Byte) : Nat → Nat → List Byte
  | 0, _ => []
  | f + 1, kappa => match mlAttempt k a mu rho2 kappa with
    | some s => s
    | none => mlLoop k a mu rho2 f (kappa + 5)

/-- The deterministic signature of a message under a context: context and message are hashed with the digest of the key. -/
def mlSign (k : MlKey) (ctx m : List Byte) : List Byte :=
  let mu := shake256 (k.tr ++ mlMessage ctx m) 64
  mlLoop k (expandA k.rho) mu (shake256 (k.key ++ List.replicate 32 0 ++ mu) 64) 814 0

/-- Verification of a signature under a public key and a context. -/
def mlVerify (pk ctx m sig : List Byte) : Bool :=
  if pk.length != 1952 || sig.length != 3309 || 255 < ctx.length then false
  else match hintUnpack (sig.drop 3248) with
    | none => false
    | some h =>
      let c := sig.take 48
      let z := (List.range 5).map (fun i =>
        (unpackBits 20 256 ((sig.drop (48 + 640 * i)).take 640)).map (fun (v : Nat) => residue (524288 - v)))
      let t1 := (List.range 6).map (fun i =>
        (unpackBits 10 256 ((pk.drop (32 + 320 * i)).take 320)).map (fun x => x * 8192 % mlQ))
      let ch := ntt (sampleInBall c)
      let w := (vecSub (matVec (expandA (pk.take 32)) (z.map ntt)) (t1.map (fun p => polyMul ch (ntt p)))).map intt
      let w1 := List.zipWith (fun a b => List.zipWith useHint a b) h w
      let mu := shake256 (shake256 pk 64 ++ mlMessage ctx m) 64
      vecNorm z < 524092 && c = shake256 (mu ++ w1Encode w1) 48

end Sys2Proof.Machine
end

