-- ==== Sys2Proof/Machine/SecOps.lean ====
section
/-!
DEFINITION. The security block: keys and certificates (R377, R383, R384), sections and the protected partition of the flash
(R378), image verification (R379, R380), the attestation report (R390, R391), the mailbox (R393),
debug unlock (R392).
-/
namespace Sys2Proof.Machine

/-- Signature contexts as ASCII bytes (Table 15.1): `ovp-fw-v`, `ovp-fw-o`, `ovp-dbg`, `ovp-own`, `ovp-att`. -/
def ctxFwV : List Byte := [0x6F, 0x76, 0x70, 0x2D, 0x66, 0x77, 0x2D, 0x76]
def ctxFwO : List Byte := [0x6F, 0x76, 0x70, 0x2D, 0x66, 0x77, 0x2D, 0x6F]
def ctxDbg : List Byte := [0x6F, 0x76, 0x70, 0x2D, 0x64, 0x62, 0x67]
def ctxOwn : List Byte := [0x6F, 0x76, 0x70, 0x2D, 0x6F, 0x77, 0x6E]
def ctxAtt : List Byte := [0x6F, 0x76, 0x70, 0x2D, 0x61, 0x74, 0x74]

/-- Bytes [o, o + n) of a block. -/
def slice (b : List Byte) (o n : Nat) : List Byte := (b.drop o).take n

/-- A block of exactly `n` bytes. -/
def fit (n : Nat) (b : List Byte) : List Byte := (b ++ List.replicate n 0).take n

/-- Fields of an image (Table 15.3). -/
def imgSvn (b : List Byte) : Nat := fieldLe b 4 4
def imgBody (b : List Byte) : Nat := fieldLe b 8 4
def imgVendorKey (b : List Byte) : List Byte := slice b 256 1952
def imgVendorSig (b : List Byte) : List Byte := slice b 2208 3309
def imgOwnerSig (b : List Byte) : List Byte := slice b 5517 3309

/-- The identity key pair, derived from the seed s at every boot: ML-DSA.KeyGen_internal of the first 32 bytes of
SHAKE256(s ‖ "id") (R383). -/
def identityPair : List Byte × MlKey := mlKeyGen (shake256 (fit 32 Config.pufSeed ++ [0x69, 0x64]) 32)

/-- The identity public key, and the deterministic signature under the identity key (R377). -/
def identityKey : List Byte := identityPair.1
def identitySign (ctx m : List Byte) : List Byte := mlSign identityPair.2 ctx m

/-- The replay-protection key: the first 32 bytes of SHAKE256(s ‖ "rp") (R383). -/
def replayKey : List Byte := shake256 (fit 32 Config.pufSeed ++ [0x72, 0x70]) 32

/-- The module certificate: it carries the subject serial OVP-6420-M1 with the module's number, and the identity public key (R384). -/
def moduleCert : List Byte :=
  Config.certHead ++ [0x4F, 0x56, 0x50, 0x2D, 0x36, 0x34, 0x32, 0x30, 0x2D, 0x4D, 0x31] ++ Config.moduleSerial ++
    Config.certMid ++ identityKey ++ Config.certTail

/-- The identity certificate chain: two certificates, each behind its length in 4 bytes; at most 16,384 B (R384). -/
def certChain : List Byte :=
  (leBytes 4 moduleCert.length ++ moduleCert ++ leBytes 4 Config.caCert.length ++ Config.caCert).take 16384

/-- The copy of a section that is in force, with its sequence number: the newer, if it is intact (R378). -/
def Section.used (x : Section) : List Byte × Nat := if x.intact then (x.body, x.seq) else (x.oldBody, x.oldSeq)

/-- A write of a section goes to the copy that is not in force, with the next sequence number (R378). -/
def writeSection (x : Section) (b : List Byte) : Section :=
  { body := b, seq := (x.used.2 + 1) % 2 ^ 32, oldBody := x.used.1, oldSeq := x.used.2 }

/-- A tag of the replay-protected partition under a writer's key: over the data and the write counter, and on a read the reader's
nonce (R378). -/
def partTag (key data nonce : List Byte) (counter : Nat) : List Byte := kmac256 key (data ++ leBytes 4 counter ++ nonce) 32

/-- The flash takes a write whose tag and counter match its own (R378). -/
def partTakes (key data tag : List Byte) (counter writes : Nat) : Bool := counter = writes && tag = partTag key data [] writes

/-- The first owner check of the boot ROM: it uses a key whose digest equals that in the partition (R378). -/
def usedOwner (w : Warden) : Option (List Byte) := w.ownerKey.filter (fun k => digest64 k = w.ownerDigest)

/-- The FORMAT check of R380. -/
def imgFormat (b : List Byte) : Bool :=
  fieldLe b 0 2 = 1 && 4096 ≤ imgBody b && imgBody b ≤ 1036288 && imgBody b % 64 = 0 &&
    digest64 (slice b 12288 (imgBody b)) = slice b 24 64 && digest64 (imgVendorKey b) = Config.rootKeyDigest

/-- The owner's signature over an image. -/
def imgOwned (b key sig : List Byte) : Bool := mlVerify key ctxFwO (slice b 0 5517) sig

/-- The first failing check of an image, as the AUTH cause names it (R380, Table 15.5). -/
def verifyImage (w : Warden) (b : List Byte) : Option Nat :=
  if !imgFormat b then some 1
  else if !mlVerify (imgVendorKey b) ctxFwV (slice b 0 2208) (imgVendorSig b) then some 2
  else if (match w.ownerKey with | some k => !imgOwned b k (imgOwnerSig b) | none => false) then some 3
  else if imgSvn b < w.minSvn then some 4
  else none

/-- An image as the boot ROM verifies it (R378, R380). -/
def bootVerify (w : Warden) (b : List Byte) : Option Nat := verifyImage { w with ownerKey := usedOwner w } b

/-- Codes of the device state (Table 2.5). -/
def DevState.code : DevState → Nat
  | .standby => 0
  | .booting => 1
  | .ready => 2
  | .active => 3
  | .quiescing => 4
  | .lowPower => 5
  | .fault => 6

/-- An entry of a report (Table 15.7). -/
def reportEntry (kind value : Nat) (digest : List Byte) : List Byte :=
  leBytes 2 kind ++ leBytes 2 0 ++ leBytes 4 value ++ leBytes 8 0 ++ digest

/-- The signed bytes of a report (Tables 15.7 and 15.8). -/
def reportBody (s : State) (nonce : List Byte) : List Byte :=
  let z := List.replicate 64 (0 : Byte)
  let owner := s.sec.bootOwner
  leBytes 2 1 ++ leBytes 2 8 ++ leBytes 2 s.rcd.chipId.toNat ++ leBytes 1 s.dev.state.code ++
    leBytes 1 (bit01 s.sec.fallback + 2 * bit01 s.warden.ownerKey.isSome + 4 * bit01 (0 < s.sec.debugLevel)) ++
    leBytes 8 s.tide.count.toNat ++ leBytes 8 s.warden.bootCount ++ leBytes 8 0 ++ fit 32 nonce ++
    reportEntry 1 0 (fit 64 Config.romDigest) ++
    reportEntry 2 s.sec.svnActive (digest64 (slice s.sec.image 0 2208)) ++
    reportEntry 3 s.sec.calibrationSeq (digest64 s.sec.calibration) ++
    reportEntry 4 s.sec.operatorSeq (digest64 s.sec.operator) ++
    reportEntry 5 (bit01 owner.isSome) (match owner with | some k => digest64 k | none => z) ++
    reportEntry 6 s.sec.bootC z ++
    reportEntry 7 s.sec.unlocks s.sec.debugDigest ++
    reportEntry 8 Config.wardenVersion (fit 64 Config.wardenDigest) ++ fit 1952 identityKey

/-- The report of Table 15.7. -/
def report (s : State) (nonce : List Byte) : List Byte :=
  let b := reportBody s nonce
  b ++ fit 3309 (identitySign ctxAtt b) ++ leBytes 3 0

/-- A fresh challenge from the hardware random source: a free value (R393; log entry 5). -/
def freshBytes (s : State) : List Byte × State :=
  (leBytes 32 (drawFree s).1, (drawFree s).2)

/-- The response of a mailbox operation (Table 15.10); none for an operation or request outside it. -/
def mailboxDo (s : State) (op : Nat) (req : List Byte) : Option (List Byte × State) :=
  match op with
  | 1 =>
    let r := freshBytes s
    some (r.1, { r.2 with sec := { r.2.sec with challenge := some r.1 } })
  | 2 =>
    if fieldLe req 0 1 = 0 then some (s.sec.calibration, s)
    else if fieldLe req 0 1 = 1 then some (s.sec.operator, s)
    else none
  | 3 => some (certChain, s)
  | 4 => if req.length = 32 then some (report s req, s) else none
  | _ => none

/-- A command that waits for the security block (R385). -/
def secWaits (c : Cmd) : Bool :=
  match c.work with
  | .fwStage _ false | .attestWait _ _ | .unlockWait _ => true
  | _ => false

/-- An image is being written (Table 15.6). -/
def imageWriting (s : State) : Bool := s.cmds.any (fun c => match c.work with | .fwStage _ true => true | _ => false)

/-- The security block has requests before a new one (R385). -/
def secBusy (s : State) : Bool := imageWriting s || s.cmds.any secWaits || !s.sec.mbxWait.isEmpty

/-- A reply of the warden: completion byte and data. -/
def replyWith (s : State) (code : Nat) (data : List Byte) : State :=
  { s with warden := { s.warden with reply := (code, data) } }

/-- A mailbox request waits its turn (R385). -/
def mailboxWait (s : State) (relay : Bool) (op : Nat) (req : List Byte) : State :=
  { s with sec := { s.sec with
      mbxWait := s.sec.mbxWait ++ [{ relay := relay, op := op, req := req, before := s.clk.dispatched }] } }

/-- A mailbox request is done (R393). -/
def mailboxEnd (s : State) (rsp : List Byte) : State :=
  { s with sec := { s.sec with
      mbxState := 2, result := 0, rsp := rsp, rspBytes := BitVec.ofNat 16 rsp.length
      mbxDone := true, mbxDoneCount := s.sec.mbxDoneCount + 1 } }

/-- GO (R393): the request runs, or waits for what the security block has before it (R385). One in an operation or form
outside Table 15.10, or while STATE reads 1, is unpredictable. -/
def mailboxRun (s : State) (op : Nat) (req : List Byte) : Out :=
  let s := { s with sec := { s.sec with op := BitVec.ofNat 8 op } }
  match mailboxDo s op req with
  | none => .fault .badMailbox
  | some r =>
    if s.sec.mbxState = 1 then .fault .badMailbox
    else if secBusy s then
      .next (mailboxWait { s with sec := { s.sec with mbxState := 1 } } false op req)
    else .next (mailboxEnd r.2 r.1)

/-- A host's whole mailbox request: request bytes, length, operation and GO (R393). A link that does not answer takes
none. -/
def mailboxHost (s : State) (op : Nat) (req : List Byte) : Out :=
  if !hostUp s then .next s
  else
    let reg := (req.zipIdx).foldl (fun t p => tabSet t p.2 p.1) s.sec.req
    mailboxRun { s with sec := { s.sec with req := reg, reqBytes := BitVec.ofNat 16 req.length } } op req

/-- The request bytes that MBX_REQ holds. -/
def mailboxReq (s : State) : List Byte := (List.range s.sec.reqBytes.toNat).map (fun k => tabGet s.sec.req 0 k)

/-- The first check of Table 15.5 that a debug response record fails (R386, R392; log entry 129). -/
def verifyDebug (s : State) (r : List Byte) : Option Nat :=
  let level := fieldLe r 32 1
  if (slice r 33 31).any (· != 0) then some 1
  else if !mlVerify (imgVendorKey s.sec.image) ctxDbg (slice r 0 128) (slice r 128 3309) then some 2
  else if (match s.warden.ownerKey with
    | some k => !mlVerify k ctxDbg (slice r 0 3437) (slice r 3437 3309)
    | none => false) then some 3
  else if s.sec.challenge != some (slice r 0 32) then some 5
  else if slice r 64 64 != digest64 (fit 1952 identityKey) then some 6
  else if level != 1 && level != 2 then some 7
  else none

/-- A response record is accepted (R392). -/
def debugAccept (s : State) (r : List Byte) : State :=
  { s with
    sec := { s.sec with
      debugLevel := max s.sec.debugLevel (fieldLe r 32 1), unlocks := s.sec.unlocks + 1
      debugDigest := digest64 (s.sec.debugDigest ++ slice r 0 128)
      debugUnlocked := true, debugUnlockedCount := s.sec.debugUnlockedCount + 1 }
    warden := { s.warden with bridgeOpen := true } }

end Sys2Proof.Machine
end

