-- ==== Sys2Proof/Machine/SecRun.lean ====
section
/-!
DEFINITION. The security block runs its requests one at a time, in the order of their dispatch or GO (R385).
-/
namespace Sys2Proof.Machine

/-- The report of an `ATTEST` is written and the command is done (R390). -/
def attestNow (s : State) (id : CmdId) (urgent : Bool) (nonce : List Byte) (a : Nat) : State :=
  modCmd (writeMem (ddrTake s .write urgent a 5968) a (report s nonce)) id (fun k =>
    { k with work := .done 5968, outs := [(a, 5968)] })

/-- An accepted `DEBUG_UNLOCK` takes effect; DETAIL is the new level (R392). -/
def unlockNow (s : State) (id : CmdId) (r : List Byte) : State :=
  let s := debugAccept s r
  setWork s id (.done s.sec.debugLevel)

/-- The writing of a verified image begins (Table 15.6). -/
def writingNow (s : State) (id : CmdId) (img : List Byte) : State :=
  setWork { s with warden := partWrite { s.warden with fwState := .writing } } id (.fwStage img true)

/-- The request of a command runs. -/
def secRun (s : State) (c : Cmd) : State :=
  match c.work with
  | .fwStage img false => writingNow s c.id img
  | .attestWait nonce a => attestNow s c.id c.urgent nonce a
  | .unlockWait r => unlockNow s c.id r
  | _ => s

/-- The mailbox request that has waited longest runs; the warden replies to what it has relayed (R385, R395). -/
def mailboxNow (s : State) (m : MbxWait) : State :=
  let s := { s with sec := { s.sec with mbxWait := s.sec.mbxWait.drop 1 } }
  match mailboxDo s m.op m.req with
  | some r => if m.relay then replyWith r.2 0 r.1 else mailboxEnd r.2 r.1
  | none => s

/-- The waiting command that was dispatched first. -/
def secFirst (s : State) : Option Cmd :=
  (s.cmds.filter secWaits).foldl (fun a c => match a with
    | none => some c
    | some d => if c.order < d.order then some c else some d) none

/-- The next request of the security block, when no image is being written. -/
def secNext (s : State) : Option State :=
  if imageWriting s then none
  else match s.sec.mbxWait, secFirst s with
    | m :: _, some c => some (if c.order < m.before then secRun s c else mailboxNow s m)
    | m :: _, none => some (mailboxNow s m)
    | [], some c => some (secRun s c)
    | [], none => none

end Sys2Proof.Machine
end

