-- ==== Sys2Proof/Machine/CoreOps.lean ====
section
/-!
DEFINITION. What the tile scheduler and the cores do for array commands: requests for work, stationary loads, pass starts,
block commits, epilogues, pre-emption and resume; cores that leave and enter service (R125 to R138, R356 to R368).
-/
namespace Sys2Proof.Machine

/-- The berm slots for which the thread whose epilogue heads a core's queue stalls: how many it needs (R204). -/
def epiStall (s : State) (core : Nat) : Option (CmdId × Nat) :=
  match (getCore s core).epiQ with
  | [] => none
  | e :: _ => match getItem s e.cmd e.item with
    | none => none
    | some (c, w, x) =>
      if w.kind = .attendB then
        if e.kind = .softmax && lastSweep w x && !slotsOpen s core c.id (probSlots x (attArea x e.c0)) then some (c.id, 0)
        else none
      else
        let n := areaNeed w e.kind
        if 0 < n && (claimArea s core c w x e.kind).isNone then some (c.id, n) else none

/-- A command's next pass on an array needs what an epilogue leaves: no pass is due yet, its tile comes from an area of the item,
or its strip or T area is not free. -/
def wantsEpilogue (s : State) (id : CmdId) (core arr : Nat) : Bool :=
  match nextPass s id core arr with
  | none => true
  | some (_, w, x, p) =>
    !(stripThere w x p && areaThere w x p) || (!tileThere s core arr id x.idx p.load && fromItem w p.load.prod) ||
      (w.kind = .attendB && !tileThere s core arr id x.idx p.load)

/-- A command waits for an epilogue of its own at or behind one that stalls for slots which only another thread's passes can free
(R308). -/
def behindStall (s : State) (core arr : Nat) (id : CmdId) : Bool :=
  wantsEpilogue s id core arr && (getCore s core).epiQ.any (fun e => e.cmd = id) && match epiStall s core with
    | none => false
    | some (d, n) => if n = 0 then d != id else slotsComing s d core arr < n

/-- A command waits for what only an issue of an array by another thread can free (R308). -/
def waitsForOthers (s : State) (core arr : Nat) (id : CmdId) : Bool :=
  wantsSlot s id core arr || wantsUnits s id core arr || behindStall s core arr id

/-- The scoreboard's choice for an array: among the threads with an eligible pass (R137), in repeatable mode the first thread
whose next pass is or will become eligible without another thread's issue, for which the array waits (R308). -/
def chosen (s : State) (core arr : Nat) : Option CmdId :=
  let l := holders s core arr
  let l := if s.lock.repeatable then l.filter (fun c => passEligible s c.id core arr || !waitsForOthers s core arr c.id)
    else l.filter (fun c => passEligible s c.id core arr)
  (l.foldl (fun (a : Option Cmd) c => match a with
    | none => some c
    | some d => if before s core arr c d then some c else some d) none).map (·.id)

/-- The tiles that a command's passes on an array still need, in order: of its pre-empted passes, then of its items' passes, one
for each change of tile (R117, R118, R359). -/
def upcoming (s : State) (id : CmdId) (core arr : Nat) : List (Cmd × ArrayWork × Item × LoadSpec) :=
  let l := myItems s id core arr
  let first := ((getArray s core arr).preempted.filter (fun q => q.cmd = id)).filterMap (fun q =>
    (l.find? (fun y => y.2.2.idx = q.item)).map (fun y => (y.1, y.2.1, y.2.2, q.spec.load)))
  first ++ l.flatMap (fun y => (loadsOf (y.2.2.passesOn arr)).map (fun k => (y.1, y.2.1, y.2.2, k)))

/-- The next load of a command on an array: the first of those tiles that no register set of it holds. -/
def nextLoad (s : State) (id : CmdId) (core arr : Nat) : Option (Cmd × ArrayWork × Item × LoadSpec) :=
  (upcoming s id core arr).find? (fun y => !tileThere s core arr id y.2.2.1.idx y.2.2.2)

/-- The shadow registers can take a tile of a command: no pass is to use what they hold, or they hold another command's tile
that this one may replace: a priority-0 one, one whose pre-empted pass waits there, the scoreboard's choice (R67, R137, R356,
R359). -/
def shadowOpen (s : State) (core arr : Nat) (c : Cmd) : Bool :=
  match (getArray s core arr).shadow.owner with
  | none => true
  | some t =>
    t.cmd != c.id && (c.urgent || (!urgentCmd s t.cmd &&
      ((getArray s core arr).preempted.any (fun q => q.cmd = c.id) || chosen s core arr = some c.id)))

/-- The contents of a load's tile: from its berm slot, or from the area or item that holds it. -/
def loadContents (s : State) (w : ArrayWork) (id : CmdId) (x : Item) (l : LoadSpec) : StagedTile :=
  if w.kind = .attendB then attTile w id x l
  else if fromMemory w l then
    (stagedTile s x.core { cmd := id, item := x.idx, load := l }).getD (areaTile w id x l)
  else areaTile w id x l

/-- The shape under which a load's tile stands in the registers, and whether two values share a register (R69, Table 3.1). -/
def loadShape (w : ArrayWork) (l : LoadSpec) : Nat × Bool :=
  if w.kind = .attendB then (if l.prob then 1 else scoreShape w.att, false)
  else ((w.prods.getD l.prod {}).shape, (w.prods.getD l.prod {}).cls.isDouble)

/-- Load the next stationary tile of a command into an array's shadow registers, once it is full in its slots, which the load
port claims (R57, R66, R67, R136, R358). -/
def loadTile (s : State) (core arr : Nat) (id : CmdId) : State :=
  match nextLoad s id core arr with
  | none => s
  | some (c, w, x, l) =>
    if tileStaged s w id x l && shadowOpen s core arr c then
      let g : TileTag := { cmd := id, item := x.idx, load := l }
      let t := loadContents s w id x l
      let k := loadShape w l
      let a := getArray s core arr
      let s := putArray s core arr { a with shadow := loadRegs a.shadow g k.1 k.2 t }
      moveSlots s core (if fromMemory w l then tileSlots s core g else areaSlots w x l) .draining (some id)
    else s

/-- Tiles that the scheduler fetches ahead for each command and array (log entry 113). -/
def tilesAhead : Nat := 2

/-- The next tile from device memory that a command's passes on an array need, and its slots: of the first tiles that they need,
one that is neither in registers nor in slots; the lowest EMPTY slots of its class, beside those for which a stalled thread
waits (R204, R206, R353). -/
def tileDue (s : State) (id : CmdId) (core arr : Nat) : Option (Nat × TileJob) :=
  ((upcoming s id core arr).take tilesAhead).findSome? (fun y =>
    let c := y.1
    let w := y.2.1
    let x := y.2.2.1
    let l := y.2.2.2
    let p := w.prods.getD l.prod {}
    let n := slotsOfTile p.cls (isMx p.xFmt)
    let free := slotsFree s core c.urgent
    let wait := match epiStall s core with | some (d, k) => if urgentCmd s d = c.urgent then k else 0 | none => 0
    if fromMemory w l && loadReady w x l && !tileThere s core arr id x.idx l &&
        (tileSlots s core { cmd := id, item := x.idx, load := l }).isEmpty && n + wait ≤ free.length then
      (idleCore s core c.urgent).map (fun k => (k, jobOf s w id x l (free.take n)))
    else none)

/-- A tile whose fetch can begin: of the commands in the order of their dispatch (R212), core by core, TA0 before TA1. -/
def tileNext (s : State) : Option State :=
  ((s.cmds.filter (fun c => match c.work with | .array w => !w.items.isEmpty | _ => false)).mergeSort
      (fun a b => a.order ≤ b.order)).findSome? (fun c => match c.work with
    | .array w => ((w.items.map (·.core)).eraseDups).findSome? (fun k => (List.range 2).findSome? (fun arr =>
        (tileDue s c.id k arr).map (fun j => startJob s j.1 j.2)))
    | _ => none)

/-- Every member of a chain has a thread for the command, or a free one (R135). -/
def threadsThere (s : State) (id : CmdId) (u : Bool) (members : List Nat) : Bool :=
  members.all (fun k => holdsThread (getCore s k) id || (freeThread (getCore s k) u).isSome)

/-- Berm slots of one P tile (R179). -/
def probUnits (a : AttPar) : Nat := if fmtBits (a.pCvt % 16) = 16 then 2 else 1

/-- What every member of a phase B chain must have free: accumulator units on both arrays, TA1's statistics buffer, the score
areas of its class, two P slots (R179, R191). -/
def attRoom (s : State) (c : Cmd) (w : ArrayWork) (core : Nat) : Bool :=
  let x : Item := { mkItem w 0 core 0 0 core 1 0 with core := core }
  arrayCanTake s c w x 0 && arrayCanTake s c w x 1 &&
    !((itemsOn s core).any (fun y => y.1.urgent = c.urgent && y.2.1.kind = .attendB)) &&
    2 * probUnits w.att ≤ (slotsFree s core c.urgent).length

/-- A chain's members can take the items of a grant (R135, R144, R179). -/
def roomFor (s : State) (c : Cmd) (w : ArrayWork) (members : List Nat) (items : List Item) : Bool :=
  if w.kind = .attendB then members.all (attRoom s c w)
  else items.all (fun x => arrayCanTake s c w x 0 && arrayCanTake s c w x 1)

/-- The blocks that a phase B grant streams: the union over its items, ascending (R178). -/
def grantUnion (s : State) (w : ArrayWork) (items : List Item) : List Nat :=
  if w.kind = .attendB then
    ((items.flatMap (fun x => tileBlocks s w.att (w.seqs.getD x.entry {}) x.tile)).eraseDups).mergeSort (fun a b => a ≤ b)
  else []

/-- The grant that a request of a chain of a command would take now, as items: none where it cannot request (R125, R135). -/
def requestItems (s : State) (id : CmdId) (j : Nat) : Option (Cmd × ArrayWork × WChain × List Nat × List Item) :=
  match arrayWork s id with
  | none => none
  | some (c, w) => match w.chains[j]? with
    | none => none
    | some ch =>
      let g := nextGrant s w j
      let items := grantItems w j ch.members g
      if g.isEmpty || !threadsThere s id c.urgent ch.members || !roomFor s c w ch.members items then none
      else some (c, w, ch, g, items)

/-- The two P slots of an item of `ATTEND` are allotted to it (R179). -/
def takeProbSlots (s : State) (c : Cmd) (w : ArrayWork) (x : Item) : State :=
  if w.kind != .attendB then s
  else
    let n := probUnits w.att
    let ks := (slotsFree s x.core c.urgent).take (2 * n)
    modItem (allotSlots s x.core c.id x.idx ks) c.id x.idx (fun x => { x with proSlots := ks.take n, handSlots := ks.drop n })

/-- A granted item begins. -/
def beginAny (s : State) (c : Cmd) (w : ArrayWork) (x : Item) : State :=
  if w.kind = .attendA || w.kind = .attendB then attBegin (takeProbSlots s c w x) c w x else beginItem s c w x

/-- Whether a work's items run programs (R139, R164). -/
def ArrKind.programs : ArrKind → Bool
  | .chain | .vector => true
  | _ => false

/-- What is read once for the items of a grant (R153). -/
def grantReads (s : State) (c : Cmd) (w : ArrayWork) (items : List Item) : List (Nat × Nat) :=
  if w.kind.programs then items.flatMap (onceRanges s c w) else []

/-- A chain requests work: it takes the next grant, threads on its cores, and its items begin (R125, R132, R134, R178). The
blocks of a grant count once among those streamed, under TWO_PASS too (R192; DESIGN CHOICE, log entry 145). -/
def requestWork (s : State) (id : CmdId) (j : Nat) : Out :=
  match requestItems s id j with
  | none => .next s
  | some (c, w, ch, g, items) =>
    match items.find? (fun x => w.kind = .chain &&
        !rangeWindow (proSpillAt w x.core x.arr) (spillEnd w x.core x.arr - proSpillAt w x.core x.arr)),
      (grantReads s c w items).findSome? (fun r => badAt s r.1 r.2) with
    | some x, _ => .fault (.badAddress (proSpillAt w x.core x.arr))
    | none, some a => .next (exhaustAll s id (otherTile 0 0) a)
    | none, none =>
      let union := grantUnion s w items
      let items := items.map (fun x => if w.kind.programs then readOnce s c w x else { x with union := union })
      let s := ch.members.foldl (fun s k => takeThread s k id c.urgent) s
      let w' := afterGrant s w j g
      let w' := { w' with items := w'.items ++ items, streamed := w'.streamed + union.length }
      let s := takeReads (setArray s id w') c.urgent (grantReads s c w items)
      .next (releaseThreads (items.foldl (fun s x => beginAny s c w' x) s) id)

/-- An array and, for a pair of passes on one stream, its sister are free and ramped up for a command's next pass. -/
def arraysFree (s : State) (id : CmdId) (core arr : Nat) : Bool :=
  let ok := fun (a : Nat) => (getArray s core a).pass.isNone && (getArray s core a).ramped
  ok arr && match nextPass s id core arr with
    | none => false
    | some (_, _, x, p) => match pairOf s id core arr x p with
      | some _ => ok (1 - arr)
      | none => true

/-- The tile of a command's next pass is in the registers of its array, and of the sister array for a pair of passes (R68). -/
def tilesReady (s : State) (id : CmdId) (core arr : Nat) : Bool :=
  match nextPass s id core arr with
  | none => false
  | some (_, _, x, p) =>
    tileThere s core arr id x.idx p.load && match pairOf s id core arr x p with
      | some y => tileThere s core (1 - arr) id y.idx p.load
      | none => true

/-- No pre-empted pass goes ahead of a command's passes on an array, or on the sister array for a pair (R359). -/
def notBehind (s : State) (id : CmdId) (core arr : Nat) : Bool :=
  let ok := fun a => (getArray s core a).preempted.isEmpty
  urgentCmd s id || (ok arr && match nextPass s id core arr with
    | none => false
    | some (_, _, x, p) => (pairOf s id core arr x p).isNone || ok (1 - arr))

/-- A command is the scoreboard's choice for an array, and for the sister array where a pair of passes starts on both (R137). -/
def choice (s : State) (id : CmdId) (core arr : Nat) : Bool :=
  chosen s core arr = some id && match nextPass s id core arr with
    | none => false
    | some (_, _, x, p) => (pairOf s id core arr x p).isNone || chosen s core (1 - arr) = some id

/-- Columns that an item has still to stream on an array, when its pass there has committed `done` of them: of its passes, or in
`ATTEND` of the blocks of its sweeps whose score or PV pass is not done. -/
def streamLeft (w : ArrayWork) (x : Item) (arr done : Nat) : Nat :=
  if w.kind = .attendB then
    let n := x.union.length
    if arr = 0 then
      let keys := fun (l : List Nat) => (l.map (blockKeys (w.seqs.getD x.entry {}))).sum
      keys (x.union.drop (x.fed - x.passes.length)) + (if lastSweep w x then 0 else keys x.union) - done
    else (n - (if lastSweep w x then x.soft - x.passes1.length else 0)) * w.att.d - done
  else ((x.passesOn arr).map (·.w)).sum - done

/-- An item stalls because another member of its chain holds a pre-empted pass (R131, R357): its next `n` columns would go
beyond what a member before it, or of its own core, has streamed, or more than 16 columns ahead of a member behind it. -/
def chainStalls (s : State) (id : CmdId) (w : ArrayWork) (x : Item) (arr done n : Nat) : Bool :=
  let place := fun (core : Nat) => (((w.chains[x.chain]?).map (·.members)).getD []).idxOf core
  let mine := streamLeft w x arr done - n
  w.items.any (fun y => y.grant = x.grant && y.idx != x.idx && (
    let a := if w.kind = .attendB then arr else y.arr
    match (getArray s y.core a).preempted.find? (fun r => r.cmd = id && r.item = y.idx) with
    | none => false
    | some r =>
      let stop := streamLeft w y a r.done
      if place y.core ≤ place x.core then mine < stop else mine + 16 < stop))

/-- The first column of a command's next pass reaches its array: no pre-empted member of the chain holds the stream up (R131,
R136). -/
def streamComes (s : State) (id : CmdId) (core arr : Nat) : Bool :=
  match nextPass s id core arr with
  | none => false
  | some (_, w, x, _) => !chainStalls s id w x arr 0 1

/-- A pass of a command may start on an array: it is the scoreboard's choice and eligible, its tile is loaded, and no pre-empted
pass goes ahead of it (R68, R136, R137, R308, R359). -/
def mayStart (s : State) (core arr : Nat) (id : CmdId) : Bool :=
  choice s id core arr && passEligible s id core arr && tilesReady s id core arr && arraysFree s id core arr &&
    notBehind s id core arr && streamComes s id core arr

/-- The pass in progress on an array with its command, work, item and tile, when the tile is in the active registers. -/
def passHere (s : State) (core arr : Nat) : Option (Cmd × ArrayWork × Item × Pass × Tile) :=
  let a := getArray s core arr
  match a.pass with
  | none => none
  | some q =>
    if tileFor a.active q.cmd q.item q.spec.load then
      (getItem s q.cmd q.item).map (fun y => (y.1, y.2.1, y.2.2, q, a.active))
    else none

/-- The address at which the stream of the block in flight meets an error. -/
def blockBad (s : State) (w : ArrayWork) (x : Item) (q : Pass) (t : Tile) : Option Nat :=
  if w.kind = .attendB then
    if s.mem.bad.isEmpty then none
    else
      let d := w.seqs.getD x.entry {}
      ((attRanges s w.att d x q.spec.load.prob (blockOfPass q.spec) (q.spec.n0 + q.done) (q.spec.w - q.done)).find? (fun r =>
        rangeBad s r.1 r.2)).map (·.1)
  else
    let b := blockOf w q
    columnsBad s w.transposed b.1 x t b.2.1 b.2.2

/-- The priority-0 command whose tile is fully loaded in an array's shadow registers. -/
def urgentShadow (s : State) (core arr : Nat) : Option Cmd :=
  match (getArray s core arr).shadow.owner with
  | none => none
  | some t => match findCmd s t.cmd with
    | some c => if c.urgent then some c else none
    | none => none

/-- Whether two passes of one core share a stream (R132). -/
def sharesStream (s : State) (a b : Pass) : Bool :=
  a.cmd = b.cmd && a.spec = b.spec && match getItem s a.cmd a.item, getItem s b.cmd b.item with
    | some x, some y => x.2.2.grant = y.2.2.grant
    | _, _ => false

/-- The pass in progress on the sister array that shares a pass's stream. -/
def sister (s : State) (core arr : Nat) (q : Pass) : Option Pass :=
  match (getArray s core (1 - arr)).pass with
  | none => none
  | some r => if sharesStream s q r then some r else none

/-- The priority-0 load that pre-empts a lower pass of an array is complete, and where that pass shares its stream with the
sister array's, the load of the sister array as well, if there is one to come (R356). -/
def urgentLoaded (s : State) (core arr : Nat) : Bool :=
  match lowerPass s core arr, urgentShadow s core arr with
  | some q, some c => (sister s core arr q).isNone || (nextPass s c.id core (1 - arr)).isNone ||
      (urgentShadow s core (1 - arr)).map (·.id) = some c.id
  | _, _ => false

/-- The block in flight of a pass does not commit now: the pass has reached the boundary at which a loaded priority-0 tile
pre-empts it and broadcasts no column of its next block (R356); it would run ahead of the pass that shares its stream (R132); or
its chain stalls (R131). -/
def blockHeld (s : State) (core arr : Nat) (w : ArrayWork) (x : Item) (q : Pass) (n : Nat) : Bool :=
  (q.halt && urgentLoaded s core arr) || (match sister s core arr q with | some r => r.done < q.done | none => false) ||
    chainStalls s q.cmd w x arr q.done n

/-- The block in flight is the last before the pass is pre-empted: the priority-0 loads are complete; of two passes that share a
stream, the one that commits first says so for both (R356). -/
def lastBlock (s : State) (core arr : Nat) (q : Pass) (n : Nat) : Bool :=
  urgentLoaded s core arr && match sister s core arr q with
    | some r => r.halt || r.done < q.done + n
    | none => true

/-- Columns of the block in flight of a pass. -/
def blockWidth (w : ArrayWork) (q : Pass) : Nat :=
  if w.kind = .attendB then (attColumns w.att q).2.2 else (blockOf w q).2.2

/-- A pass writes into the item's second accumulator: the scores of `ATTEND`, the results of S2. -/
def inAcc2 (w : ArrayWork) (q : Pass) : Bool :=
  if w.kind = .attendB then !q.spec.load.prob else (blockOf w q).1.shape = 2

/-- The block in flight is written in place: results into the accumulator, the prior values of their locations into the undo area
of the block (R64); scores of D ≤ 128 into the score buffer (R181). -/
def writeBlock (s : State) (core arr : Nat) (c : Cmd) (w : ArrayWork) (x : Item) (q : Pass) (tile : Tile) : State :=
  let b := if w.kind = .attendB then attResults s w x q tile else productResults s w x q tile
  let s := if w.kind = .attendB && !q.spec.load.prob && w.att.d ≤ 128 then
      putScores s c w x tile (attColumns w.att q).1 (attColumns w.att q).2.1 (attColumns w.att q).2.2
    else s
  let s := modItem s q.cmd q.item (fun x => if inAcc2 w q then { x with acc2 := b.1 } else { x with acc := b.1 })
  putArray s core arr ((getArray s core arr).setUndo { inUse := true, prior := b.2 })

/-- Every prior value that the undo area of the block in flight holds is written back (R64). -/
def undoBlock (s : State) (core arr : Nat) (w : ArrayWork) (q : Pass) : State :=
  let a := getArray s core arr
  let prior := (a.undoArea a.area).prior
  modItem s q.cmd q.item (fun x =>
    if inAcc2 w q then { x with acc2 := writeBack x.acc2 prior } else { x with acc := writeBack x.acc prior })

/-- The accumulator locations that the block wrote keep their values, whatever becomes of the item (R198). -/
def keepBlock (s : State) (core arr : Nat) (w : ArrayWork) (q : Pass) : State :=
  let a := getArray s core arr
  match getItem s q.cmd q.item with
  | none => s
  | some (_, _, x) =>
    let o : AccOwner := { cmd := q.cmd, item := q.item, arr := arr }
    let acc := if inAcc2 w q then x.acc2 else x.acc
    let k := getCore s core
    let old := ((k.kept.find? (fun p => p.1 = o)).map (·.2)).getD []
    let new := (a.undoArea a.area).prior.foldl (fun t p => tabSet t p.1 (tabGet acc 0 p.1)) old
    if new.isEmpty then s
    else putCore s core { k with kept := (o, new) :: k.kept.filter (fun p => p.1 != o) }

/-- Commit the next block of a product's pass: results accumulated, in S2 handed to the vector unit; in the last slice `GEMM`
writes its outputs and `CHAIN` hands the block to the vector unit (R63, R70, R95 to R99, R117, R151). -/
def commitProduct (s : State) (core arr : Nat) (c : Cmd) (w : ArrayWork) (x : Item) (q : Pass) (tile : Tile) (halt : Bool) :
    State :=
  let t := w.transposed
  let b := blockOf w q
  let s := readStream s c w x core ((2 ^ 21 - x.passes.length) * 2 ^ 25 + q.done + b.2.2)
    (columnRanges t b.1 tile b.2.1 b.2.2)
  let s := takeReads s c.urgent (initRanges t b.1 x tile b.2.1 b.2.2)
  let s := keepBlock (writeBlock s core arr c w x q tile) core arr w q
  let rest := if q.done + b.2.2 = q.spec.w then x.passes.drop 1 else x.passes
  let s := modItem s c.id x.idx (fun x => { x with passes := rest })
  let s := blockDone s core arr q b.2.2 halt
  let s := if q.done + b.2.2 = q.spec.w then endClaim s w c.id x q.spec.load rest else s
  let s := progress s c.id
  if !q.spec.last then s
  else match getItem s c.id x.idx with
    | none => s
    | some (c, w, x) => if w.kind = .chain then queueEpi s c w x (b.2.1 + b.2.2) else gemmOut s c w x b.1 (b.2.1 + b.2.2)

/-- Commit the next block of a score or PV pass (R63, R130, R181, R184). -/
def commitAttend (s : State) (core arr : Nat) (c : Cmd) (w : ArrayWork) (x : Item) (q : Pass) (tile : Tile) (halt : Bool) :
    State :=
  let prob := q.spec.load.prob
  let b := attColumns w.att q
  let s := if core = x.head then takeReads s c.urgent (attRanges s w.att (w.seqs.getD x.entry {}) x prob b.1 b.2.1 b.2.2) else s
  let s := keepBlock (writeBlock s core arr c w x q tile) core arr w q
  let s := progress (blockDone s core arr q b.2.2 halt) c.id
  if q.done + b.2.2 = q.spec.w then
    let rest := (x.passesOn arr).drop 1
    let s := modItem s c.id x.idx (fun x => x.setPasses arr rest)
    let s := endClaim s w c.id x q.spec.load rest
    let s := commitEpi s core { cmd := c.id, item := x.idx, kind := if prob then .combine else .softmax, sweep := 1, c0 := b.1
                                w := b.2.2, arr := arr }
    attFeed s c w x.idx
  else s

/-- Commit the block in flight on an array (R63), which took the next open slot of the core's duty (R335). A block whose stream
meets an error, that LEAD_LIMIT holds back, or that may not run on, does not commit. -/
def commitBlock (s : State) (core arr : Nat) : State :=
  match passHere s core arr with
  | none => s
  | some (c, w, x, q, t) =>
    if leadHeld s c || (blockBad s w x q t).isSome || blockHeld s core arr w x q (blockWidth w q) then s
    else
      let halt := lastBlock s core arr q (blockWidth w q)
      let s := takeSlot s core arr
      if w.kind = .attendB then commitAttend s core arr c w x q t halt
      else commitProduct s core arr c w x q t halt

/-- A block of an item that has a pre-empted pass waits for the resume, unless its program was running when the pass was stopped
(R151). -/
def epiWaits (k : Core) (e : Epi) : Bool :=
  let mine := fun (q : Pass) => q.cmd = e.cmd && q.item = e.item
  !e.running && (k.ta0.preempted.any mine || k.ta1.preempted.any mine)

/-- Bring the first block that may run to the head of a core's queue. -/
def headUp (s : State) (core : Nat) : State :=
  let k := getCore s core
  match k.epiQ.findIdx? (fun e => !epiWaits k e) with
  | none => s
  | some i => putCore s core { k with epiQ := (k.epiQ.drop i).take 1 ++ k.epiQ.eraseIdx i }

/-- The block at the head of a core's vector-unit queue with its command, work and item. -/
def epiHere (s : State) (core : Nat) : Option (Cmd × ArrayWork × Item × Epi) :=
  match (getCore s core).epiQ with
  | [] => none
  | e :: _ => if epiWaits (getCore s core) e then none
    else (getItem s e.cmd e.item).map (fun y => (y.1, y.2.1, y.2.2, e))

/-- Run the next block of a core's queue (R151, R152). -/
def runEpilogue (s : State) (core : Nat) : Out :=
  let s := headUp s core
  match epiHere s core with
  | none => .next s
  | some (c, w, x, e) =>
    if w.kind = .attendA || w.kind = .attendB then .next (runAttend s core c w x e) else runProgram s core c w x e

/-- A step of a block that is empty for its item, due on a core: it takes no vector-unit cycles (R174). -/
def vacantNext (s : State) : Option State :=
  s.cores.findSome? (fun p => match epiHere s p.1 with
    | some (c, w, x, e) =>
      if w.kind = .attendB && (e.kind = .softmax || e.kind = .combine) &&
          vacant s w.att (w.seqs.getD x.entry {}) x e.c0 then
        if e.kind = .combine then some (runCombine s p.1 c w x e.c0)
        else if (epiStall s p.1).isSome then none else some (runSoftmax s p.1 c w x e.c0)
      else none
    | none => none)

/-- A strip of some `CHAIN` item that can be allocated now (R144). -/
def stripNext (s : State) : Option State :=
  s.cmds.findSome? (fun c => match c.work with
    | .array w => if w.kind != .chain then none
      else (w.items.find? (fun x => (nextStrip s c w x).isSome)).map (fun x => takeStrips s c.id x.idx)
    | _ => none)

/-- Some array holds a pre-empted pass of a command. -/
def holdsPreempted (s : State) (id : CmdId) : Bool :=
  s.cores.any (fun p => p.2.ta0.preempted.any (fun q => q.cmd = id) || p.2.ta1.preempted.any (fun q => q.cmd = id))

/-- The watchdog of a command counts on when no array holds a pre-empted pass of it; the time since then is not counted
(R369). -/
def resumeWatch (s : State) (id : CmdId) : State :=
  if holdsPreempted s id then s
  else modCmd s id (fun c => match c.pausedAt with
    | some t => { c with pausedAt := none, progress := c.progress + (s.clk.ticks - max t c.progress) }
    | none => c)

/-- A stopped array: the pass is kept (R357); the undo area that its next block had taken is free. -/
def TArray.stop (a : TArray) (q : Pass) : TArray :=
  { a with
    pass := none, preempted := a.preempted ++ [{ q with halt := false }]
    undo0 := { a.undo0 with inUse := false }, undo1 := { a.undo1 with inUse := false } }

/-- The program at the head of a core's queue runs on when an item's pass is stopped (R151; log entry 114). -/
def markRunning (s : State) (core : Nat) (q : Pass) : State :=
  modHead s core (fun e => if e.cmd = q.cmd && e.item = q.item then { e with running := true } else e)

/-- Stop the pass on an array: it is kept, and a priority-0 tile in the shadow registers is swapped in; its own tile is then to be
loaded again from its slot (R356 to R359). -/
def stopPass (s : State) (core arr : Nat) : State :=
  let a := getArray s core arr
  match a.pass with
  | none => s
  | some q =>
    let a := if (urgentShadow s core arr).isSome then a.swap else a
    let s := markRunning (putArray s core arr (a.stop q)) core q
    let s := modCmd s q.cmd (fun c => { c with pausedAt := some (c.pausedAt.getD s.clk.ticks) })
    { s with err := { s.err with preempts := s.err.preempts + 1 } }

/-- A pass stands at a column-block boundary: it halts there for a priority-0 tile, or LEAD_LIMIT holds its next block back. -/
def atBoundary (s : State) (q : Pass) : Bool :=
  q.halt || match findCmd s q.cmd with | some c => leadHeld s c | none => false

/-- Pre-empt the lower pass of an array at the column-block boundary after the priority-0 load; where it shares its stream with
the sister array's pass, both stop there (R356). -/
def preemptArray (s : State) (core arr : Nat) : State :=
  match lowerPass s core arr with
  | none => s
  | some q =>
    if !(urgentLoaded s core arr && atBoundary s q) then s
    else match sister s core arr q with
      | some r => if atBoundary s r && r.done = q.done then stopPass (stopPass s core arr) core (1 - arr) else s
      | none => stopPass s core arr

/-- No priority-0 pass is eligible on an array (R359). -/
def noUrgent (s : State) (core arr : Nat) : Bool :=
  !s.cmds.any (fun c => c.urgent && passEligible s c.id core arr)

/-- Put a pre-empted pass back on its array. -/
def putBack (s : State) (core arr : Nat) (q : Pass) : State :=
  let s := putPass s core arr q.cmd q.item q.spec q.done
  let a := getArray s core arr
  resumeWatch (putArray s core arr { a with pass := some { q with reruns := 0 }, preempted := a.preempted.drop 1 }) q.cmd

/-- A pre-empted pass can resume on an array: the array is free and ramped, its tile is there again. -/
def canResume (s : State) (core arr : Nat) (q : Pass) : Bool :=
  (getArray s core arr).pass.isNone && (getArray s core arr).ramped && tileThere s core arr q.cmd q.item q.spec.load &&
    noUrgent s core arr

/-- Resume the pre-empted pass of an array at its first uncommitted block, with the other array's where they share one
stream (R359). -/
def resumePass (s : State) (core arr : Nat) : State :=
  match (getArray s core arr).preempted with
  | [] => s
  | q :: _ =>
    if canResume s core arr q then
      match (getArray s core (1 - arr)).preempted with
      | r :: _ =>
        if sharesStream s q r then
          if canResume s core (1 - arr) r then putBack (putBack s core arr q) core (1 - arr) r else s
        else putBack s core arr q
      | [] => putBack s core arr q
    else s

/-- The scheduler's sluices of a core move on by one segment of a tile. -/
def pushTiles (s : State) (core : Nat) : State :=
  (List.range 4).foldl (fun s j =>
    let n := 8 * core + j
    match (getSluice s n).active with
    | some c => match c.job with
      | some g => jobSegment s n c g
      | none => s
    | none => s) s

/-- Resume a pre-empted pass, or start the next pass of a command, where the array is free for it. -/
def pushPass (s : State) (id : CmdId) (core arr : Nat) : State :=
  let a := getArray s core arr
  if a.pass.isSome then s
  else match a.preempted with
    | q :: _ => if tileThere s core arr q.cmd q.item q.spec.load then putBack s core arr q else s
    | [] => if passEligible s id core arr && tilesReady s id core arr then startPass s core arr id else s

/-- Drive the work of commands on a core on, one round (R127): tiles, loads, pre-emption, passes, blocks and epilogues. -/
def pushCore (s : State) (ids : List CmdId) (core : Nat) : Out :=
  let s := pushTiles (((stripNext s).orElse (fun _ => tileNext s)).getD s) core
  let s := (List.range 2).foldl (fun s arr =>
    commitBlock (ids.foldl (fun s id => pushPass (loadTile s core arr id) id core arr) (preemptArray s core arr)) core arr) s
  let s := (vacantNext s).getD s
  runEpilogue s core

/-- Such a round, when anything moved. -/
def pushMoves (s : State) (ids : List CmdId) (core : Nat) : Option State :=
  match pushCore s ids core with
  | .next t => if t = s then none else some t
  | _ => none

/-- The cores of an item's chain, its own first. -/
def chainCores (w : ArrayWork) (x : Item) : List Nat :=
  x.core :: (((w.chains[x.chain]?).map (·.members)).getD []).filter (· != x.core)

/-- One round of an item that is to complete: its command's work on its core, then on the other cores of its chain; where
nothing of it moves, the work of every command there, since another's tile or pass may stand in its way. None when it is
complete or nothing moved. -/
def pushRound (s : State) (id : CmdId) (idx : Nat) : Option State :=
  match getItem s id idx with
  | none => none
  | some (_, w, x) =>
    ((chainCores w x).findSome? (pushMoves s [id])).orElse (fun _ =>
      (chainCores w x).findSome? (pushMoves s (s.cmds.map (·.id))))

/-- Complete an item's writes before its core is lost (R127): rounds until it is complete, at most `fuel` of them. -/
def completeItem : Nat → State → CmdId → Nat → State
  | 0, s, _, _ => s
  | f + 1, s, id, idx => match pushRound s id idx with
    | none => s
    | some t => completeItem f t id idx

/-- An item has written some output (R127, R162, R176). -/
def wroteSome (s : State) (id : CmdId) (x : Item) : Bool :=
  0 < x.written || (getCore s x.core).epiQ.any (fun e => e.cmd = id && e.item = x.idx && 0 < e.handed)

/-- A core forgets an item: tiles, passes, epilogues. -/
def Core.forget (k : Core) (id : CmdId) (idx : Nat) : Core :=
  let f := fun (a : TArray) =>
    { a with
      active := a.active.disown (fun t => t.cmd = id && t.item = idx)
      shadow := a.shadow.disown (fun t => t.cmd = id && t.item = idx)
      pass := a.pass.filter (fun p => !(p.cmd = id && p.item = idx))
      preempted := a.preempted.filter (fun p => !(p.cmd = id && p.item = idx)) }
  { k with ta0 := f k.ta0, ta1 := f k.ta1, epiQ := k.epiQ.filter (fun e => !(e.cmd = id && e.item = idx)) }

/-- A sluice that fetches a tile of an item ends with it (Table 8.6). -/
def Sluice.forget (x : Sluice) (id : CmdId) (idx : Nat) : Sluice :=
  match x.active.bind (·.job) with
  | some j => if j.tag.cmd = id && j.tag.item = idx then { x with st := .idle, active := none } else x
  | none => x

/-- Slots allotted to an item are nobody's; each keeps its state and contents (R202). -/
def disownSlots (s : State) (id : CmdId) (x : Item) : State :=
  { s with slots := s.slots.map (fun p =>
    if p.1 / 64 = x.core && p.2.holder = some (id, x.idx) then (p.1, { p.2 with holder := none }) else p) }

/-- An item is given up: its core, its slots and the sluices that fetch for it let go of it. `off`: its core leaves service, so
its slots stay as they are (R202). -/
def forgetItem (s : State) (id : CmdId) (x : Item) (off : Bool) : State :=
  let s := if off then disownSlots s id x else freeHeld s id x
  { s with
    cores := s.cores.map (fun p => (p.1, p.2.forget id x.idx))
    sluices := s.sluices.map (fun p => (p.1, p.2.forget id x.idx)) }

/-- Cut chains at a lost core (R133). -/
def cutAt (core : Nat) (l : List WChain) : List WChain :=
  l.flatMap (fun c =>
    if c.members.contains core then
      let a := c.members.takeWhile (· != core)
      let b := (c.members.dropWhile (· != core)).drop 1
      (if a.isEmpty then [] else [{ c with members := a }]) ++ (if b.isEmpty then [] else [{ c with members := b }])
    else [c])

/-- The items that go when a core is lost: those on it, and every item of a chain of which it is a member (R126). A chain
that still holds items has not been cut, so it is the one in which the item's core stands. -/
def itemsLost (w : ArrayWork) (core : Nat) : List Item :=
  w.items.filter (fun x =>
    x.core = core || w.chains.any (fun c => c.members.contains x.core && c.members.contains core))

/-- A command loses a core (R126 to R128, R133, R138, R368). `reset`: the core's contents go at once. -/
def loseCoreOf (s : State) (core : Nat) (reset : Bool) (id : CmdId) : State :=
  match arrayWork s id with
  | none => s
  | some (_, w) =>
    let part := (itemsLost w core).filter (fun x => wroteSome s id x)
    let s := part.foldl (fun s x => if reset && x.core = core then s else completeItem (2 ^ 20) s id x.idx) s
    match arrayWork s id with
    | none => s
    | some (_, w) =>
      match part.find? (fun x => w.items.any (fun y => y.idx = x.idx)) with
      | some x => failCmd s id (localCause s .unwritten x.core x.core)
      | none =>
        let gone := itemsLost w core
        let s := resumeWatch (gone.foldl (fun s x => forgetItem s id x (x.core = core && !reset)) s) id
        let w := { w with
          items := w.items.filter (fun x => !gone.any (fun y => y.idx = x.idx)), chains := cutAt core w.chains
          chainsB := cutAt core w.chainsB, lost := w.lost ||| 2 ^ core
          read := w.read.filter (fun r => !gone.any (fun y => y.grant = r.1)) }
        let w := returnItems s w (gone.map (·.idx))
        let s := setArray s id w
        let k := getCore s core
        let s := putCore s core { k with threads := k.threads.filter (fun t => t.2.1 != id) }
        if w.chains.isEmpty && (w.kind != .attendA || w.chainsB.isEmpty) && !(w.items.isEmpty && (ungranted s w).isEmpty) then
          failCmd s id (localCause s .coreLost core w.lost)
        else releaseThreads s id

/-- A core's sluices go OFFLINE; the commands of their chains end with CORE_LOST (Table 8.6). -/
def sluicesOff (s : State) (core : Nat) : State :=
  let ns := (List.range 8).map (8 * core + ·)
  let ids := (ns.filter (fun n => 4 ≤ n % 8)).flatMap (fun n =>
    let x := getSluice s n
    (x.active.map (·.cmd)).toList ++ (x.shadow.map (·.cmd)).toList)
  let s := ns.foldl (fun s n => putSluice s n { st := .offline }) s
  postAll s ids (localCause s .coreLost core (2 ^ core))

/-- A core's sluices come back (Table 8.6). -/
def sluicesOn (s : State) (core : Nat) : State :=
  ((List.range 8).map (8 * core + ·)).foldl (fun s n => putSluice s n { st := .idle }) s

/-- Every claim on a core's slots ends (R202, R203). -/
def endClaims (s : State) (core : Nat) : State :=
  let mine := fun (c : SlChain) =>
    { c with
      srcClaimed := c.srcClaimed && !(c.desc.srcSlot && slotOf c.desc.src / 64 = core)
      dstClaimed := c.dstClaimed && !(c.desc.dstSlot && slotOf c.desc.dst / 64 = core) }
  { s with
    slots := s.slots.map (fun p => if p.1 / 64 = core && p.2.claimant.isSome then (p.1, {}) else p)
    sluices := s.sluices.map (fun p => (p.1, { p.2 with active := p.2.active.map mine })) }

/-- The core error word (Table 14.9). -/
def coreErr (k : Core) : Nat :=
  k.reruns.toNat + k.exhausted.toNat * 2 ^ 16 +
    (match k.outReason with
      | .inService => 0
      | .host => 1
      | .errors => 2
      | .ageing => 3
      | .selfTest => 4) * 2 ^ 24

/-- Commands that use a core. -/
def cmdsOnCore (s : State) (core : Nat) : List CmdId :=
  (s.cmds.filter (fun c => match c.work with
    | .array w => (w.chains ++ w.chainsB).any (fun j => j.members.contains core) || w.items.any (fun x => x.core = core)
    | _ => false)).map (·.id)

/-- Every array command loses a core. -/
def loseCore (s : State) (core : Nat) (reset : Bool) : State :=
  (cmdsOnCore s core).foldl (fun s id => loseCoreOf s core reset id) s

/-- ERR_FLAGS.CORE_OUT. -/
def setCoreOut (s : State) : State :=
  { s with err := { s.err with coreOut := true, coreOutCount := s.err.coreOutCount + 1 } }

/-- A core leaves service (R364, R365): items returned, chains cut, sluices OFFLINE, claims ended; a record of class 0x30
with CORE_ERR in EXTRA, CORE_OUT, a timing event. -/
def takeOffline (s : State) (core : Nat) (why : OutReason) : State :=
  let s := loseCore s core false
  let k := getCore s core
  let s := putCore s core { k with st := .outOfService, outReason := why, threads := [], ta0 := {}, ta1 := {}, epiQ := [] }
  let s := endClaims (sluicesOff s core) core
  let s := setCoreOut (logFault s 0x30 4 1 core none 0 0 (coreErr (getCore s core)))
  timingEvent s .coreMask 1

/-- Firmware takes a core out of service; the last one in service takes the device into FAULT instead (R364, R349). -/
def firmwareOffline (s : State) (core : Nat) (why : OutReason) : State :=
  if !coreIn s core then s
  else if coreCount s ≤ 1 then enterFault s 1 core
  else takeOffline s core why

/-- Offlining by the error counts of the present period: of the first core that has reached one (R364). -/
def offlineNext (s : State) : Option State :=
  if !s.err.autoOffline || s.dev.state = .fault then none
  else (s.cores.find? (fun p => coreIn s p.1 && (64 ≤ p.2.reruns.toNat || 3 ≤ p.2.exhausted.toNat))).map (fun p =>
    firmwareOffline s p.1 .errors)

/-- A reset of a core begins (R367). -/
def beginReset (s : State) (core : Nat) : State :=
  let inn := coreIn s core
  let s := loseCore s core true
  let s := sluicesOff s core
  let k := getCore s core
  let s := putCore s core { k with
    st := if inn then .beingReset else k.st, busy := some s.clk.ticks, threads := [], ta0 := {}, ta1 := {}, epiQ := [] }
  let s := loseBerm (endClaims s core) core
  let s := logFault s 0x31 6 1 core none 0 0 0
  if inn then timingEvent s .coreMask 1 else s

/-- The reset of a core is done (R367). -/
def endReset (s : State) (core : Nat) : State :=
  let k := getCore s core
  match k.busy, k.st with
  | none, _ => s
  | some t, .beingReset =>
    let s := if s.clk.ticks ≤ t then advanceTo s (t + 1) else s
    let s := putCore s core { k with busy := none, st := .inService, outReason := .inService }
    timingEvent (brakeCore (sluicesOn s core) core) .coreMask 1
  | some _, _ => putCore s core { k with busy := none }

/-- A core returns to service after a self-test that it passed (R366). -/
def bringOnline (s : State) (core : Nat) : State :=
  let s := loseBerm s core
  let k := getCore s core
  let s := putCore s core { k with st := .inService, outReason := .inService }
  timingEvent (brakeCore (sluicesOn s core) core) .coreMask 1

end Sys2Proof.Machine
end

