-- ==== Sys2Proof/Machine/StallOps.lean ====
section
/-!
DEFINITION. The parties that stall on berm slots, and since when (R204, R205).
-/
namespace Sys2Proof.Machine

/-- The slot of a berm that a stalled chain waits for: 64 core + slot. -/
def waitsFor (c : SlChain) : Option Nat :=
  if c.plain then none
  else if c.desc.srcSlot && !c.srcClaimed then some (slotOf c.desc.src)
  else if c.desc.dstSlot && !c.dstClaimed then some (slotOf c.desc.dst)
  else none

/-- The slot for which a thread's epilogue at the head of a core's queue stalls (R204): the lowest one of its class that is not
EMPTY, or the first of its P tile's. -/
def threadStall (s : State) (core t : Nat) : Option (Cmd × Nat) :=
  match epiStall s core, (getCore s core).threads.find? (fun p => p.1 = t) with
  | some (id, n), some (_, own, _) =>
    match (if own = id then findCmd s id else none), (getCore s core).epiQ.head? with
    | some c, some e =>
      let ks := if 0 < n then slotsFor c.urgent else match getItem s id e.item with
        | some (_, _, x) => probSlots x (attArea x e.c0)
        | none => []
      (ks.find? (fun k => (getSlot s (64 * core + k)).st != .empty)).map (fun k => (c, 64 * core + k))
    | _, _ => none
  | _, _ => none

/-- The slots for which a load port stalls: for each command the first slot of its next tile there that is not FULL (R204). -/
def portStalls (s : State) (core arr : Nat) : List (Cmd × Nat) :=
  s.cmds.filterMap (fun c => match nextLoad s c.id core arr with
    | some (_, w, x, l) =>
      let ks := if fromMemory w l then tileSlots s core { cmd := c.id, item := x.idx, load := l } else areaSlots w x l
      if tileStaged s w c.id x l then none
      else (ks.find? (fun k => (getSlot s (64 * core + k)).st != .full)).map (fun k => (c, 64 * core + k))
    | none => none)

/-- The command of a sluice's active chain and the slot that it waits for, when the chain is stalled on a slot. -/
def slotStall (s : State) (n : Nat) : Option (Cmd × Nat) :=
  match (getSluice s n).active with
  | none => none
  | some ch => match findCmd s ch.cmd, waitsFor ch with
    | some c, some k =>
      let src := ch.desc.srcSlot && !ch.srcClaimed
      if !claimable s (if src then ch.desc.src else ch.desc.dst) src then some (c, k) else none
    | _, _ => none

/-- The code of a party in a cause's ARG (Table 14.7). -/
def partyCode (p : StallParty) : Nat :=
  match p with
  | .thread _ t => t.val
  | .loadPort _ r => 8 + r.val
  | .sluice n => 16 + n.val

/-- The number of a party among all of them. -/
def partyKey (p : StallParty) : Nat :=
  match p with
  | .thread c t => 32 * c.val + t.val
  | .loadPort c r => 32 * c.val + 8 + r.val
  | .sluice n => 512 + n.val

/-- The commands of a party and the slots on which it is stalled for them. -/
def partyStalls (s : State) (p : StallParty) : List (Cmd × Nat) :=
  match p with
  | .thread c t => (threadStall s c.val t.val).toList
  | .loadPort c r => portStalls s c.val r.val
  | .sluice n => (slotStall s n.val).toList

/-- Every party that is stalled, with the command and the slot. -/
def allStalls (s : State) : List (Nat × Cmd × Nat) :=
  s.cores.flatMap (fun p =>
    (p.2.threads.flatMap (fun t => ((threadStall s p.1 t.1).toList).map (fun x => (32 * p.1 + t.1, x)))) ++
      (List.range 2).flatMap (fun r => (portStalls s p.1 r).map (fun x => (32 * p.1 + 8 + r, x)))) ++
    s.sluices.flatMap (fun p => ((slotStall s p.1).toList).map (fun x => (512 + p.1, x)))

/-- The stall of a party for a command on a slot, if it had begun before. -/
def stallOf (s : State) (party : Nat) (id : CmdId) (slot : Nat) : Option Stall :=
  s.stalls.find? (fun x => x.party = party && x.cmd = id && x.slot = slot)

/-- The stalls of this moment: those that go on, and those that begin now (R205). -/
def noteStalls (s : State) : State :=
  { s with stalls := (allStalls s).map (fun x => (stallOf s x.1 x.2.1.id x.2.2).getD
      { party := x.1, cmd := x.2.1.id, slot := x.2.2, since := s.clk.ticks }) }

/-- The tick at which a stall of a party has lasted 700,000 ticks in which its command made no progress (R205). -/
def deadlockAt (s : State) (p : StallParty) (c : Cmd) (slot : Nat) : Nat :=
  max (((stallOf s (partyKey p) c.id slot).map (·.since)).getD s.clk.ticks) c.progress + 700000

end Sys2Proof.Machine
end

