-- ==== Sys2Proof/Machine/Settle.lean ====
section
/-!
DEFINITION. What follows from a command at once: packets that the module sends to itself arrive, waiting transfers take
idle sluices, collective operations start in turn, and commands whose conditions hold complete (R25, R28, R37, R206, R282,
R292).
-/
namespace Sys2Proof.Machine

/-- DETAIL of an array command on `OK`. -/
def arrayDetail (w : ArrayWork) : Nat :=
  if w.kind = .attendA || w.kind = .attendB then w.streamed % 2 ^ 32 + w.maxLen * 2 ^ 32 else w.detail

/-- Every item of an array command has written its last output and every remote write is acknowledged (R25, R127). -/
def arrayDone (s : State) (id : CmdId) (w : ArrayWork) : Bool :=
  w.kind != .attendA && w.items.isEmpty && itemCount w ≤ w.finished.length && !hasUnacked s id

/-- Status and DETAIL of a dispatched command that can complete now. -/
def completion (s : State) (c : Cmd) : Option (Status × Nat) :=
  match c.work with
  | .done d => some (.ok, d)
  | .waitEvents ws => if ws.all (fun w => w.2.2) then some (.ok, 0) else none
  | .fence all => if s.cmds.any (fun d => (all || d.inlet = c.inlet) && d.id < c.id) then none else some (.ok, 0)
  | .abort named n => if s.cmds.any (fun d => named.contains d.id) then none else some (.ok, n)
  | .array w => if arrayDone s c.id w then some (.ok, arrayDetail w) else none
  | .send w => if w.issued && w.waiting.isEmpty && !hasUnacked s c.id then some (.ok, w.bytes) else none
  | .recv w =>
    if w.matched && w.expect ≤ w.got then some (.ok, w.got % 2 ^ 32 + satTo (2 ^ 32 - 1) w.total * 2 ^ 32) else none
  | .coll w => if collComplete s c.id w then some (.ok, collDetail w) else none
  | _ => none

/-- A command that can complete does: one without items is digested first, and ends once its digest has met the partner's; an
array command that has items has digested those (R320, R322). -/
def endDone (s : State) (c : Cmd) (r : Status × Nat) : State :=
  let s := match c.work with
    | .array w => if w.finished.isEmpty then cmdDigest s c.id r.1 r.2 else s
    | _ => cmdDigest s c.id r.1 r.2
  if digestWaits s c.id then s else endCmd s c.id r.1 r.2

/-- What the tile scheduler and the sluices do at once, tiles and threads before sluices (R204): strips that fit (R144),
steps of blocks that are empty for their item (R174), fetches of stationary tiles (R136, R206), slot claims; and what a new
weir window brings (R214, R217). -/
def unitsNext (s : State) : Option State :=
  if s.weir.served != weirWindow s then some (weirServe s)
  else (((stripNext s).orElse (fun _ => vacantNext s)).orElse (fun _ => claimNext s)).orElse (fun _ => tileNext s)

/-- The program of an ending command that is in progress at the head of a core's queue runs to its end (R151, R370), as far as its
hand-offs find buffers. -/
def runOut (s : State) (id : CmdId) (core : Nat) : State :=
  match epiHere s core with
  | some (c, w, x, e) =>
    if c.id = id && (e.running || 0 < e.handed) then
      if w.kind = .attendA || w.kind = .attendB then runAttend s core c w x e
      else match runProgram s core c w x e with
        | .next t => t
        | _ => s
    else s
  | none => s

/-- An ending command ends: programs in progress run out, everything is released, its completion is written (R370, R371). -/
def finishEnding (s : State) (id : CmdId) : State :=
  let s := (s.cores.map (·.1)).foldl (fun s core => runOut s id core) s
  match findCmd s id with
  | none => s
  | some c => match c.ending with
    | some e => endCmd s id e.status (e.detail c.laterCause)
    | none => s

/-- The next thing that follows at once, if any. -/
def settleNext (s : State) : Option State :=
  match s.net.loop with
  | k :: t => some (receive { s with net := { s.net with loop := t } } k none)
  | [] =>
    match s.cmds.find? (fun c => c.ending.isSome) with
    | some c => some (finishEnding s c.id)
    | none =>
    match (offlineNext s).orElse (fun _ => closeNext s) with
    | some t => some t
    | none =>
    match s.cmds.findSome? (fun c => if digestWaits s c.id then none else (completion s c).map (fun r => (c, r))) with
    | some (c, r) => some (endDone s c r)
    | none =>
      match s.cmds.find? (opTurn s) with
      | some c => some (opStart s c)
      | none =>
        match sourceNext s with
        | some t => some t
        | none =>
          ((((secNext s).orElse (fun _ => inboundNext s)).orElse (fun _ => xferNext s)).orElse (fun _ => unitsNext s)).orElse
            (fun _ => returnNext s)

/-- Everything that follows at once, at most `n` such things (log entry 24). -/
def settleRun : Nat → State → State
  | 0, s => s
  | n + 1, s => match settleNext s with
    | none => s
    | some t => settleRun n t

/-- How many things may follow in one step; what is left follows in the next (log entry 24). -/
def settleFuel : Nat := 2 ^ 20

/-- The state when everything that follows at once has happened, with the stalls that have begun. -/
def settle (s : State) : State := noteStalls (settleRun settleFuel s)

/-- An outcome with what follows. -/
def settled (o : Out) : Out :=
  match o with
  | .next s => .next (settle s)
  | o => o

/-- A row that leaves the machine running. -/
def ok (s : State) : Out := .next (settle s)

end Sys2Proof.Machine
end

