-- ==== Sys2Proof/Machine/Issue.lean ====
section
/-!
DEFINITION. Dispatch of a command (R28 to R31, R44, R45): selection, the checks of every command, rejection,
authentication failure, named cores, and how a dispatch row takes a parameter block.
-/
namespace Sys2Proof.Machine

/-- A command of an opcode (Table 2.6). -/
def opSel (op : Nat) (c : Cmd) : Bool := c.hdr.opcode.toNat = op

/-- An `EXPORT_KV` of an operation (byte 0 of its parameters, R244). -/
def exportSel (op : Nat) (c : Cmd) : Bool := c.hdr.opcode.toNat = 0x0306 && fieldLe c.params 0 1 = op

/-- A field of a command's parameter block. -/
def Cmd.par (c : Cmd) (o n : Nat) : Nat := fieldLe c.params o n

/-- The command at its dispatch: its watchdog and its DURATION start (R29, R35); it takes its inlet's next lock-step
sequence number (R320). -/
def beginCmd (s : State) (c : Cmd) : Cmd :=
  { c with
    work := .done 0, dispatchTick := s.clk.ticks, order := s.clk.dispatched, progress := s.clk.ticks
    capUnreachable := c.capUnreachable || s.pump.unreachable, lockSeq := (getInlet s c.inlet).lockSeq }

/-- The state once a command is dispatched and before its effect (R30, R320). -/
def dispatchCmd (s : State) (c : Cmd) : State :=
  let x := getInlet s c.inlet
  let s' := { s with clk := { s.clk with
    dispTurn := tabSet s.clk.dispTurn (prio s c.inlet) c.inlet, dispatched := s.clk.dispatched + 1 } }
  let s' := if flagSet c.hdr 3 && s.lock.established then putInlet s' c.inlet { x with lockSeq := x.lockSeq + 1 } else s'
  modCmd s' c.id (beginCmd s)

/-- State code of scope 0x05: bit 0 repeatable mode, bit 1 lock-step established (R307, Table 2.4). -/
def modeCode (s : State) : Nat := bit01 s.lock.repeatable + 2 * bit01 s.lock.established

/-- End a command with `STATE_REJECT` (R36, R44). -/
def reject (s : State) (id : CmdId) (scope code index : Nat) : State :=
  finish s id .stateReject (rejectWord scope code index)

/-- End a command with `AUTH_FAIL` and cause AUTH: SEC_FLAGS.AUTH_FAILED is set (R386, Table 15.12). -/
def authFail (s : State) (id : CmdId) (arg : Nat) : State :=
  failCmd { s with sec := { s.sec with authFailed := true, authFailedCount := s.sec.authFailedCount + 1 } } id
    (localCause s .auth 0 arg)

/-- Dispatch the next command of an inlet when it is one of the row's: the checks of every command come first (Table 2.8),
then the row's own effect `k` on the state and the command. -/
def issue (s : State) (i : Fin 64) (sel : Cmd → Bool) (k : State → Cmd → Out) : Out :=
  match dispatchable s i.val sel with
  | none => .next s
  | some c =>
    if flagSet c.hdr 1 && !s.lock.repeatable then ok (reject (dispatchCmd s c) c.id 0x05 (modeCode s) 0)
    else if flagSet c.hdr 3 && !s.lock.established then ok (reject (dispatchCmd s c) c.id 0x05 (modeCode s) 0)
    else settled (k (dispatchCmd s c) (beginCmd s c))

/-- Go on when a parameter block has a length and values that its table allows; anything else is unpredictable (R46). -/
def checked (c : Cmd) (words : Nat) (good : Bool) (k : Out) : Out :=
  if c.hdr.paramLen = words && good then k else .fault (.badParameter c.hdr.opcode.toNat)

/-- Go on when every range can be reached; else the first start that cannot be (R194, R46). -/
def reaches (ok : Bool) (a : Nat) (k : Out) : Out := if ok then k else .fault (.badAddress a)

/-- The check of named cores (Table 2.8): a command that names a core out of service ends with `CORE_OFFLINE`. -/
def namedCores (s : State) (c : Cmd) (mask : Nat) (k : Out) : Out :=
  if coresMissing s mask = 0 then k else .next (finish s c.id .coreOffline (coresMissing s mask))

/-- The step that a read of a dispatch belongs to: the read of at most 64 B, or the 4 KiB piece of a `COMPARE_COUNT` scan
(Table 8.9). -/
def readStep (c : Cmd) (a : Nat) : Nat :=
  let k := a - fieldLe c.params 0 8
  let b := [4, 4, 4, 2, 2, 1, 1, 8, 16].getD (fieldLe c.params 28 1) 0
  if c.hdr.opcode.toNat = 0x0104 && fieldLe c.params 0 8 ≤ a && k < fieldLe c.params 24 4 * b then 2 ^ 40 + k / 4096 else a / 64

/-- The errors that reads of ranges meet in those reads alone: list entry and address. -/
def flawsIn (c : Cmd) (l : List (Nat × Nat × Nat)) : List (Nat × Nat) :=
  c.flaws.filterMap (fun a => (l.find? (fun r => r.2.1 ≤ a && a < r.2.1 + r.2.2)).map (fun r => (r.1, a)))

/-- Go on after the re-runs of reads that meet errors of their own; a step whose fourth attempt meets one ends the command
(R222). -/
def meetFlaws (s : State) (c : Cmd) (l : List (Nat × Nat × Nat)) (k : State → Out) : Out :=
  let hits := flawsIn c l
  match hits.find? (fun h => 4 ≤ hits.countP (fun g => readStep c g.2 = readStep c h.2)) with
  | some h => .next (exhaustAll s c.id (otherTile 0 h.1) h.2)
  | none => k (hits.foldl (fun s h => noteRerun s c.id (otherTile 0 h.1) h.2) s)

/-- Make the reads of a dispatch, which count in the READ class (Table 8.7), and go on when none meets an error that lasts: of
each range the index of its list entry, sequence, prompt or record, its address and its bytes. Stored data that reads as bad
ends the command after its re-runs, with the entry in the tile coordinates (R222). -/
def readsWell (s : State) (c : Cmd) (l : List (Nat × Nat × Nat)) (k : State → Out) : Out :=
  match l.findSome? (fun r => (badAt s r.2.1 r.2.2).map (fun a => (r.1, a))) with
  | some r => .next (exhaustAll s c.id (otherTile 0 r.1) r.2)
  | none => meetFlaws s c l (fun s => k (takeReads s c.urgent (l.map (·.2))))

/-- Put a command's work in place. -/
def startWork (s : State) (c : Cmd) (w : Work) : State := setWork s c.id w

/-- A command done with a DETAIL. -/
def doneWith (s : State) (c : Cmd) (detail : Nat) : Out := .next (setWork s c.id (.done detail))

/-- A command done that wrote device ranges. -/
def doneWriting (s : State) (c : Cmd) (outs : List (Nat × Nat)) (detail : Nat) : Out :=
  .next (modCmd s c.id (fun k => { k with work := .done detail, outs := outs }))

end Sys2Proof.Machine
end

