-- ==== Sys2Proof/Machine/Memory.lean ====
section
/-!
DEFINITION. The rows of sluices, copies, operations at the polders, the weir and LPDDR5X (chapter 08).
-/
namespace Sys2Proof.Machine

/-- Begin a transfer over chip-level sluices (R213): its parts wait for sluices. -/
def startParts (s : State) (c : Cmd) (d : Desc) (fill : Option W64) (parts : List (Nat × Nat)) (outs : List (Nat × Nat)) :
    Out :=
  let l := parts.map (fun p =>
    { cmd := c.id, desc := d, lo := p.1, hi := p.2, pos := p.1, fill := fill, plain := true : SlChain })
  .next (modCmd s c.id (fun k => { k with
    work := if l.isEmpty then .done 0 else .xfer l.length l 0, outs := outs }))

/-- The descriptor of `COPY`, `GATHER_ROWS` and `SCATTER_ROWS`: CHAIN, slots and SIGNAL are ignored; gather and scatter
give the mode. -/
def plainDesc (c : Cmd) (mode : Option Nat) : Desc :=
  let d := descOf (c.params.drop 8)
  { d with dflags := d.dflags / 8 % 2 * 8 + d.dflags / 32 * 32, mode := mode.getD d.mode }

/-- The common effect of `COPY`, `GATHER_ROWS` and `SCATTER_ROWS` (R213). -/
def transferCmd (s : State) (c : Cmd) (mode : Option Nat) : Out :=
  let d := plainDesc c mode
  checked c 9 (c.par 0 1 ≤ 16 && c.par 1 7 = 0 && d.ok && (mode.isSome || d.mode ≤ 2))
    (startParts s c d none (descParts d (c.par 0 1)) (descOuts s d))

/-- COPY (R213). -/
def execCopy (i : Fin 64) (s : State) : Out := issue s i (opSel 0x0100) (fun s c => transferCmd s c none)

/-- GATHER_ROWS (R213). -/
def execGatherRows (i : Fin 64) (s : State) : Out := issue s i (opSel 0x0106) (fun s c => transferCmd s c (some 3))

/-- SCATTER_ROWS (R213). -/
def execScatterRows (i : Fin 64) (s : State) : Out := issue s i (opSel 0x0107) (fun s c => transferCmd s c (some 4))

/-- FILL (R213). -/
def execFill (i : Fin 64) (s : State) : Out :=
  issue s i (opSel 0x0101) (fun s c =>
    let a := c.par 0 8
    let n := c.par 8 8
    let w := if c.par 16 1 = 0 then 16 else c.par 16 1
    let d : Desc := { descOf [] with dst := a, rowBytes := n, rows := 1 }
    checked c 4 (a % 16 = 0 && n % 16 = 0 && n < 2 ^ 40 && c.par 16 1 ≤ 16 && c.par 17 7 = 0)
      (startParts s c d (some (BitVec.ofNat 64 (c.par 24 8)))
        (partBounds n (ceilDiv n (w * 4096) * 4096) w) (if n = 0 then [] else [(a, n)])))

/-- The sluices that a host may arm (R206). -/
def hostSluice (n : Nat) : Bool := (n < 128 && 4 ≤ n % 8) || (144 ≤ n && n < 160)

/-- The chain that a `SLUICE_ARM` or `SLUICE_REARM` brings. -/
def armChain (c : Cmd) : SlChain :=
  let d := descOf (c.params.drop 8)
  { cmd := c.id, desc := d, lo := 0, hi := d.total, pos := 0 }

/-- The values of an arm or re-arm (R206 to R208). -/
def armOk (c : Cmd) : Bool := hostSluice (c.par 0 2) && c.par 2 6 = 0 && (armChain c).desc.ok

/-- SLUICE_ARM (R210). -/
def execSluiceArm (i : Fin 64) (s : State) : Out :=
  issue s i (opSel 0x0102) (fun s c =>
    let n := c.par 0 2
    let x := getSluice s n
    checked c 9 (hostSluice n)
      (match x.st with
        | .idle => checked c 9 (armOk c)
          (fetchNext (startWork (putSluice s n { st := .running, active := some (armChain c) }) c (.arm n)) n)
        | .running => .next (reject s c.id 0x03 1 n)
        | .shadowPending => .next (reject s c.id 0x03 2 n)
        | .offline => .next (reject s c.id 0x03 3 n)))

/-- A command carries OVERTOPPED (R211). -/
def overtop (s : State) (id : CmdId) : State := modCmd s id (fun c => { c with secondary := c.secondary ||| 0x20 })

/-- A pending shadow is replaced: its command completes with DETAIL 0, and both carry OVERTOPPED (R211). -/
def replaceShadow (s : State) (id : CmdId) (old : Option SlChain) : State :=
  match old with
  | some o => overtop (setWork (overtop s o.cmd) o.cmd (.done 0)) id
  | none => s

/-- SLUICE_REARM (R211). -/
def execSluiceRearm (i : Fin 64) (s : State) : Out :=
  issue s i (opSel 0x0103) (fun s c =>
    let n := c.par 0 2
    let x := getSluice s n
    checked c 9 (hostSluice n)
      (match x.st with
        | .running | .shadowPending => checked c 9 (armOk c)
          (let s := replaceShadow s c.id x.shadow
           .next (startWork (putSluice s n { x with st := .shadowPending, shadow := some (armChain c) }) c (.rearm n)))
        | .idle => .next (reject s c.id 0x03 0 n)
        | .offline => .next (reject s c.id 0x03 3 n)))

/-- Bytes of an element of `COMPARE_COUNT`, and its floating-point format (Table 4.2). -/
def ccBytes (e : Nat) : Nat := [4, 4, 4, 2, 2, 1, 1, 8, 16].getD e 0
def ccFloat (e : Nat) : Option Nat :=
  match e with
  | 2 => some 0x0
  | 3 => some 0x1
  | 4 => some 0x2
  | 5 => some 0x3
  | _ => none

/-- The order of an element and a key: none when either is a NaN (R219). -/
def ccCompare (e x k : Nat) : Option Ordering :=
  match ccFloat e with
  | some f =>
    let a := elemF32 f 0 x
    let b := elemF32 f 0 k
    if isNan32 a || isNan32 b then none
    else some (if lt32 a b then .lt else if lt32 b a then .gt else .eq)
  | none =>
    let w := 8 * ccBytes e
    let v := fun (n : Nat) => if e = 0 || e = 6 then signedOf w n else (n : Int)
    some (compare (v x) (v k))

/-- An element is a NaN. -/
def ccNan (e x : Nat) : Bool := match ccFloat e with | some f => isNan32 (elemF32 f 0 x) | none => false

/-- The counts less, equal and greater for a key over the elements (R219). -/
def ccCounts (e k : Nat) (xs : List Nat) : List Nat :=
  let n := fun (o : Ordering) => xs.countP (fun x => ccCompare e x k = some o)
  [n .lt, n .eq, n .gt]

/-- COMPARE_COUNT (R219). -/
def execCompareCount (i : Fin 64) (s : State) : Out :=
  issue s i (opSel 0x0104) (fun s c =>
    let a := c.par 0 8
    let ka := c.par 8 8
    let ra := c.par 16 8
    let n := c.par 24 4
    let e := c.par 28 1
    let m := c.par 29 1
    let b := ccBytes e
    checked c 4 (1 ≤ n && e ≤ 8 && 1 ≤ m && m ≤ 16 && c.par 30 2 = 0 && a % b = 0 && ra % 4 = 0 && rangePolder a (n * b))
      (reaches (rangeRead ka (m * b)) ka (reaches (rangeOk ra (12 * m)) ra
        (readsWell s c [(0, a, n * b), (0, ka, m * b)] (fun s =>
          (let xs := (List.range n).map (fun j => readLe s (a + j * b) b)
           let out := (List.range m).flatMap (fun j => ccCounts e (readLe s (ka + j * b) b) xs)
           let s := ddrTake s .write c.urgent ra (12 * m)
           doneWriting (writeMem s ra (out.flatMap (leBytes 4))) c [(ra, 12 * m)] (xs.countP (ccNan e))))))))

/-- COMPARE_SWAP (R220). -/
def execCompareSwap (i : Fin 64) (s : State) : Out :=
  issue s i (opSel 0x0105) (fun s c =>
    let a := c.par 0 8
    checked c 3 (a % 8 = 0 && rangePolder a 8)
      (readsWell s c [(0, a, 8)] (fun s =>
        (let v := readLe s a 8
         if v = c.par 8 8 then doneWriting (writeLe s a 8 (c.par 16 8)) c [(a, 8)] v else doneWith s c v))))

/-- SEGMENT_COMPLETE (R209). -/
def execSegmentComplete (n : Fin 160) (s : State) : Out := settled (runSegment s n.val)

/-- Post an advisory cause: logged, and ends nothing (R371). -/
def postAdvisory (s : State) (c : Cmd) (k : Cause) : State :=
  let k := { k with log := BitVec.ofNat 16 (s.err.seq + 1) }
  modCmd (logFault s k.code.cls 2 0 0 (some c) 0 (causeWord k false) 0) c.id (fun c => { c with advisory := some k })

/-- The detector posts BERM_DEADLOCK against a command that a party's stall on a slot has held for 700,000 ticks, without
progress of the command in that time (R205). -/
def postDeadlock (s : State) (p : StallParty) (c : Cmd) (k : Nat) : State :=
  postAdvisory (advanceTo s (deadlockAt s p c k)) c (localCause s .bermDeadlock (k / 64) (k % 64 + partyCode p * 2 ^ 8))

/-- BERM_DEADLOCK (R205): the party has been stalled on the slot for 700,000 ticks without progress of its command, against which
nothing has been posted yet. -/
def execBermDeadlock (p : StallParty) (slot : Fin 64) (s : State) : Out :=
  match (partyStalls s p).find? (fun x => x.2 % 64 = slot.val && x.1.advisory.isNone) with
  | some (c, k) => ok (postDeadlock s p c k)
  | none => .next s

/-- WEIR_WINDOW (R214). -/
def execWeirWindow (s : State) : Out := ok (weirBoundary s)

/-- URGENT_CREDIT (R216): the reserve earns its next credit, at its time; it holds at most one unused. -/
def execUrgentCredit (s : State) : Out := ok (earnCredit s)

/-- The LPDDR5X controllers run: the device has booted and LPDDR5X is not in self-refresh (Table 8.10). -/
def ddrRuns (s : State) : Bool :=
  !s.selfRefresh && match s.dev.state with | .ready | .active | .quiescing | .fault => true | _ => false

/-- The clock reaches the next of the counts, modulo 716,800 ticks, at which a channel's schedule has it run (R310); none
where the schedule has none. -/
def toSchedule (s : State) (l : List Nat) : Option State :=
  let away := fun (x : Nat) => (x % 716800 + 716800 - s.tide.count.toNat % 716800 - 1) % 716800 + 1
  (l.map away).min?.map (advance s)

/-- DDR_REFRESH: in repeatable mode at counts of the fixed schedule (R310; log entry 118). -/
def execDdrRefresh (ch : Fin 64) (s : State) : Out :=
  if !ddrRuns s then .next s
  else
    match (if s.lock.repeatable then toSchedule s (Config.refreshCounts ch.val) else some s) with
    | some t => ok (putDdr t ch.val { getDdr t ch.val with refreshed := t.clk.ticks })
    | none => .next s

/-- WCK2DQ_TRACKING (R225): every 256 us; in repeatable mode at counts of the fixed schedule (R310; log entry 118). The
offset is kept for the ageing model (R348). -/
def execWck2dqTracking (ch : Tracking) (s : State) : Out :=
  if !ddrRuns s then .next s
  else
    match (if s.lock.repeatable then toSchedule s (Config.trackCounts ch.channel.val)
        else some (advanceTo s ((getDdr s ch.channel.val).tracked + us 256))) with
    | some t => ok (putDdr t ch.channel.val { getDdr t ch.channel.val with tracked := t.clk.ticks, offset := ch.offset })
    | none => .next s

end Sys2Proof.Machine
end

