-- ==== Sys2Proof/Machine/Arrays.lean ====
section
/-!
DEFINITION. The rows of array commands: GEMM, GEMM_LIST, GEMM_T, CHAIN, VECTOR and ATTEND, requests for work, passes,
stationary loads, column blocks, epilogues, pre-emption and ramps (chapters 03, 05, 06, 07, 14).
-/
namespace Sys2Proof.Machine

/-- MAX_CHAIN of Table 5.1: 0 means 16. -/
def maxChainOf (v : Nat) : Nat := if v = 0 then 16 else v

/-- Chain length for T row tiles over n cores (R129). -/
def chainLen (maxChain n T : Nat) : Nat := min maxChain (min n (max 1 (ceilDiv T 2)))

/-- Form a command's chains and begin its work (R129), with what its completion carries in SECONDARY. -/
def startArray (s : State) (c : Cmd) (w : ArrayWork) (L : Nat) (sec : BitVec 6) : State :=
  let chains := formChains (eligible s w.mask) L
  modCmd s c.id (fun k => { k with
    work := .array { w with chains := chains, total := chains.length }, secondary := k.secondary ||| sec })

/-- The chains of phase B of an `ATTEND` (R129, R178). Where no sequence has a token, T is taken as 1 (DESIGN CHOICE, log
entry 146). -/
def attChains (s : State) (a : AttPar) (qs : List SeqDesc) (mask maxChain : Nat) : List WChain :=
  let cores := eligible s mask
  let T := qs.foldl (fun m q => max m (attTiles a q)) 1
  formChains cores (min maxChain (min cores.length T))

/-- SPLIT_N: some entry is cut into more than one strip (R119). -/
def splitsN (ps : List Prod) : Bool := ps.any (fun p => prodRanges p != 0 && 1 < p.strips)

/-- The largest number of row tiles of any entry (R129). -/
def mostTiles (t : Bool) (ps : List Prod) : Nat :=
  ps.foldl (fun m p => if prodRanges p = 0 then m else max m (prodTiles t p)) 0

/-- The effective tile that DETAIL names: of the entry with the most strips (Table 5.5). -/
def detailTile (ps : List Prod) : Nat :=
  let n := fun (p : Prod) => if prodRanges p = 0 then 1 else p.strips
  (ps.foldl (fun (a : Option Prod) p => match a with
    | none => some p
    | some q => if n q < n p then some p else some q) none).elim 0 (·.effTile)

/-- Start the products of `GEMM`, `GEMM_T` or `GEMM_LIST` (R114 to R129). -/
def startGemm (s : State) (c : Cmd) (t : Bool) (ps : List Prod) : Out :=
  let mask := c.par 10 2
  let w : ArrayWork :=
    { kind := if t then .gemmT else .gemm, prods := ps, mask := mask, maxChain := maxChainOf (c.par 8 1)
      detail := gemmDetail t ps (detailTile ps) }
  .next (startArray s c w (chainLen w.maxChain (eligible s mask).length (mostTiles t ps))
    (if splitsN ps then 0x04 else 0))

/-- Row masks of products, by entry. -/
def maskRanges (ps : List Prod) : List (Nat × Nat × Nat) :=
  ps.filterMap (fun p => if p.rowMaskEn then some (p.entry, p.rowMask, ceilDiv p.m 8) else none)

/-- The common effect of `GEMM` and `GEMM_T` (R110 to R122). -/
def gemmCmd (s : State) (c : Cmd) (t : Bool) : Out :=
  let d := c.params.drop 16
  let p := prodOf c.params d 0
  let p := p.cut (accRows t p.shape) (accAvail s c.urgent)
  namedCores s c (c.par 10 2)
    (checked c 14 (ctlOk c.params t && fieldLe d 92 4 = 0 && prodOk p t)
      (readsWell s c (maskRanges [p]) (fun s => startGemm s c t [p])))

/-- GEMM (R110). -/
def execGemm (i : Fin 64) (s : State) : Out := issue s i (opSel 0x0200) (fun s c => gemmCmd s c false)

/-- GEMM_T (R122). -/
def execGemmT (i : Fin 64) (s : State) : Out := issue s i (opSel 0x0205) (fun s c => gemmCmd s c true)

/-- The entries of a `GEMM_LIST` (R123). -/
def listEntries (s : State) (c : Cmd) : List (List Byte) :=
  (List.range (c.par 24 2)).map (fun e => readMem s (c.par 16 8 + 96 * e) 96)

/-- The products of a `GEMM_LIST`. -/
def listProds (s : State) (c : Cmd) : List Prod :=
  ((listEntries s c).zipIdx).map (fun b =>
    let p := prodOf c.params b.1 b.2
    p.cut (accRows false p.shape) (accAvail s c.urgent))

/-- GEMM_LIST (R123). -/
def execGemmList (i : Fin 64) (s : State) : Out :=
  issue s i (opSel 0x0201) (fun s c =>
    let a := c.par 16 8
    let n := c.par 24 2
    namedCores s c (c.par 10 2)
      (checked c 4 (ctlOk c.params false && a % 64 = 0 && 1 ≤ n && n ≤ 4096 && c.par 26 6 = 0)
        (reaches (rangeRead a (96 * n)) a (readsWell s c ((List.range n).map (fun e => (e, a + 96 * e, 96))) (fun s =>
          (let ps := listProds s c
           checked c 4 ((listEntries s c).all (fun b => fieldLe b 92 4 = 0) &&
               ps.all (fun p => prodRanges p = 0 || prodOk p false))
             (readsWell s c (maskRanges (ps.filter (fun p => prodRanges p != 0))) (fun s => startGemm s c false ps))))))))

/-- The source ranges of a stream that a stage of `m` tokens and a width reads (R153). -/
def streamRanges (d : StreamDesc) (m width : Nat) : Bool :=
  match d.kind with
  | 1 => tensorOk rangeRead d.addr d.ld m (fmtBytes d.fmt width) &&
      (!isMx d.fmt || rangeRead d.scale (m * scaleRow width))
  | 2 => rangeRead d.addr (fmtBytes d.fmt m) && (!isMx d.fmt || rangeRead d.scale (ceilDiv m 32))
  | _ => rangeRead d.addr (fmtBytes d.fmt width) && (!isMx d.fmt || rangeRead d.scale (ceilDiv width 32))

/-- The operations' operands can be reached: streams, rotary and position tables, target entries (R153, R154, R156,
R159). -/
def operandsOk (s : State) (p : ChainPar) (e : StageEnv) (m tiles : Nat) : Bool :=
  (e.ops.flatMap (·.sources)).eraseDups.all (fun k =>
      !(0x10 ≤ k && k ≤ 0x12) || streamRanges (e.streams.getD (k - 0x10) {}) m e.width) &&
    e.ops.all (fun o => match o.op with
      | 0x22 =>
        rangeRead p.rope (4 * o.mod) && rangeRead p.pos (4 * m) && (List.range m).all (fun t =>
          (signedOf 32 (readLe s (p.pos + 4 * t) 4)).natAbs < 2 ^ 24)
      | 0x41 => rangeRead p.pos (4 * m)
      | 0x31 =>
        let a := e.targets + 32 * o.imm
        rangeRead a 32 && readLe s (a + 6) 2 = 0 && readLe s (a + 20) 12 = 0 &&
          tensorOk rangeOk (readLe s (a + 8) 8) (readLe s (a + 16) 4) tiles (4 * e.width)
      | 0x40 =>
        let a := e.targets + 32 * o.imm
        rangeRead a 32 && readLe s (a + 6) 2 = 0 && readLe s (a + 20) 12 = 0 && readLe s a 2 < 4096 &&
          readLe s (a + 2) 2 < 4096
      | _ => true)

/-- Every program of a work is one that Tables 6.7 to 6.9 allow, and its operands can be reached. -/
def programsOk (s : State) (c : Cmd) (w : ArrayWork) (tiles : Nat) : Bool :=
  (stagesOf w).all (fun k => let e := stageEnv s c w k; progOk e && operandsOk s w.par e w.par.m tiles)

/-- A conversion control byte (Table 4.4). -/
def cvtOk (b : Nat) : Bool := b < 64 && b % 16 < 0xD

/-- A stream descriptor of Table 6.5. -/
def streamOk (b : List Byte) (o : Nat) : Bool :=
  fieldLe b (o + 15) 1 = 0 && (fieldLe b (o + 13) 1 = 0 ||
    (fieldLe b (o + 13) 1 ≤ 3 && fieldLe b (o + 12) 1 < 0xD && fieldLe b (o + 14) 1 ≤ 3))

/-- A product stage descriptor: its fields (Table 6.3) and the limits of Table 5.3. -/
def stageProdOk (b : List Byte) (o : Nat) (p : Prod) (ownX : Bool) : Bool :=
  fieldLe b (o + 84) 1 ≤ 1 && p.nTile ≤ 4 && fieldLe b (o + 86) 1 < 32 && p.progLen ≤ 64 && fieldLe b (o + 92) 4 = 0 &&
    cvtOk p.yCvt && p.xFmt < 0xD && p.wFmt < 0xD && fmtsOk p false && limitsOk p false true && wOk p false &&
    (!ownX || xOk p false) && (!p.writeY || (yOk p.y p.yLd p.ys p.yCvt p.m p.width && apartOk p false ownX p.m p.width)) &&
    (if p.writeY then initOk p p.m p.n else initOk { p with y := p.init, yLd := p.initLd, yCvt := p.initFmt } p.m p.n) &&
    (!p.pair || (p.n % 256 = 0 && 256 ≤ p.effTile))

/-- The prologue descriptor (Table 6.2). X_FMT, which names the stationary format, is taken as none of the X fields that are
ignored: it is the format of the prologue's conversion (DEDUCED, log entry 126). -/
def prologueOk (b : List Byte) (par : ChainPar) (p : Prod) : Bool :=
  par.inFmt < 0xD && cvtOk par.inCvt && par.inLen ≤ 64 && fieldLe b 87 1 = 0 && fieldLe b 92 20 = 0 &&
    par.inCvt % 16 = p.xFmt && tensorOk rangeRead par.inAddr par.inLd par.m (fmtBytes par.inFmt p.k) &&
    (!isMx par.inFmt || (par.inScale % 8 = 0 && rangeRead par.inScale (par.m * scaleRow p.k)))

/-- The rules of Table 6.1 and of the paragraph after Table 6.5. Product 2's X_FMT is checked as Table 6.3 has it (DEDUCED,
log entry 126). -/
def chainOk (b : List Byte) (par : ChainPar) (ps : List Prod) : Bool :=
  let p1 := ps.headD {}
  let last := ps.getLast?.getD {}
  par.stageMask < 8 && 1 ≤ par.shape && par.shape ≤ 5 && fieldLe b 2 1 ≤ 16 && fieldLe b 3 1 ≤ 1 && fieldLe b 6 2 = 0 &&
    1 ≤ par.m && par.m ≤ 2 ^ 24 && fieldLe b 32 8 % 64 = 0 && par.targets % 32 = 0 &&
    maskOk par.rowMaskEn par.rowMask par.m && (par.shape != 2 || (!par.hasTwo && p1.k ≤ 128 && !p1.cls.isDouble)) &&
    (!par.hasPro || prologueOk b par p1) && stageProdOk b 112 p1 (!par.hasPro) &&
    (!par.hasTwo || (stageProdOk b 208 last false && last.k = p1.width && last.xFmt = p1.yCvt % 16 && !p1.hold)) &&
    last.hold = par.hasFin &&
    (!par.hasFin || (cvtOk par.outCvt && par.outLen ≤ 64 && fieldLe b 330 6 = 0 &&
      yOk par.outAddr par.outLd par.outScale par.outCvt par.m last.width)) &&
    streamOk b 336 && streamOk b 360 && streamOk b 384

/-- The products of a `CHAIN` block before tiles are cut. -/
def chainProds (b : List Byte) (par : ChainPar) : List Prod :=
  chainProd b 112 par.shape par.m par.rowMaskEn par.rowMask ::
    (if par.hasTwo then [chainProd b 208 par.shape par.m par.rowMaskEn par.rowMask] else [])

/-- SPILLED of a `CHAIN` (R143, R148, R157). -/
def ChainPar.spilled (p : ChainPar) : Bool := p.handTier = 3 || p.proSpilled || p.heldSpilled

/-- The work of a `CHAIN`, as planned at dispatch. -/
def chainWork (s : State) (c : Cmd) : ArrayWork :=
  let par := chainPar c.params
  let plan := chainPlan s c.urgent par (chainProds c.params par)
  { kind := .chain, prods := plan.2, par := plan.1, mask := c.par 4 2, maxChain := maxChainOf (c.par 2 1)
    detail := chainDetail plan.1 plan.2 }

/-- Start a work that runs programs, once they are checked. -/
def startPrograms (s : State) (c : Cmd) (w : ArrayWork) (words tiles L : Nat) (sec : BitVec 6) : Out :=
  let rs := (progRanges w) ++ (if w.par.rowMaskEn then [(w.par.rowMask, ceilDiv w.par.m 8)] else [])
  reaches (rs.all (fun r => rangeRead r.1 r.2)) ((rs.find? (fun r => !rangeRead r.1 r.2)).elim 0 (·.1))
    (readsWell s c (rs.map (fun r => (0, r))) (fun s =>
      (checked c words (programsOk s c w tiles) (.next (startArray s c w L sec)))))

/-- CHAIN (R139 to R162). -/
def execChain (i : Fin 64) (s : State) : Out :=
  issue s i (opSel 0x0202) (fun s c =>
    let w := chainWork s c
    let T := ceilDiv w.par.m (rowsOf w.par.shape)
    namedCores s c w.mask
      (checked c 51 (chainOk c.params w.par w.prods &&
          (!w.par.spilled || (w.par.spillAddr % 65536 = 0 && w.par.spillStride % 65536 = 0 &&
            spillEnd w 0 0 - w.par.spillAddr ≤ w.par.spillStride)))
        (startPrograms s c w 51 T (chainLen w.maxChain (eligible s w.mask).length T)
          ((if splitsN w.prods then 0x04 else 0) ||| (if w.par.spilled then 0x08 else 0)))))

/-- The parameters of `VECTOR` (Table 6.11). -/
def vectorPar (b : List Byte) : ChainPar :=
  { m := fieldLe b 40 4, rowMaskEn := fieldLe b 64 8 != 0, rowMask := fieldLe b 64 8, rope := fieldLe b 152 8
    pos := fieldLe b 160 8, inAddr := fieldLe b 0 8, inScale := fieldLe b 8 8, inLd := fieldLe b 48 4
    inFmt := fieldLe b 56 1, inWidth := fieldLe b 44 4, outAddr := fieldLe b 16 8, outScale := fieldLe b 24 8
    outLd := fieldLe b 52 4, outCvt := fieldLe b 57 1, outProg := fieldLe b 32 8, outLen := fieldLe b 60 1
    outRs := fieldLe b 58 2, streams := streamsOf b 80 }

/-- The values of Table 6.11. -/
def vectorOk (b : List Byte) (p : ChainPar) : Bool :=
  1 ≤ p.inWidth && p.inWidth ≤ 2 ^ 24 && p.inFmt < 0xD && cvtOk p.outCvt && p.outLen ≤ 64 && fieldLe b 61 3 = 0 &&
    fieldLe b 74 6 = 0 && streamOk b 80 && streamOk b 104 && streamOk b 128 &&
    (p.m = 0 || (tensorOk rangeRead p.inAddr p.inLd p.m (fmtBytes p.inFmt p.inWidth) &&
      (!isMx p.inFmt || rangeRead p.inScale (p.m * scaleRow p.inWidth)) &&
      tensorOk rangeOk p.outAddr p.outLd p.m
        (fmtBytes (p.outCvt % 16) (if isMx (p.outCvt % 16) then roundUp p.inWidth 32 else p.inWidth)) &&
      (!isMx (p.outCvt % 16) || rangeOk p.outScale (p.m * scaleRow p.inWidth))))

/-- VECTOR (R164). -/
def execVector (i : Fin 64) (s : State) : Out :=
  issue s i (opSel 0x0204) (fun s c =>
    let p := vectorPar c.params
    let w : ArrayWork := { kind := .vector, par := p, mask := c.par 72 2, maxChain := 1 }
    namedCores s c w.mask
      (checked c 21 (vectorOk c.params p && (p.inAddr != p.outAddr || sweeps (readOps s p.outProg p.outLen) = 1))
        (startPrograms s c w 21 (ceilDiv p.m 128) 1 0)))

/-- Tables of a sequence that dispatch reads (R170 to R172). -/
def seqTables (a : AttPar) (q : SeqDesc) : List (Nat × Nat) :=
  if q.c = 0 then []
  else
    (if a.byDoc then [(q.doc, 4 * q.docs)] else []) ++ (if a.byList then [(q.list, 16 * q.listN)] else []) ++
      (if a.layout = 1 then [(q.kBase, 8 * ceilDiv q.kend 512)] else [])

/-- The sequence descriptors of an `ATTEND` (R167). -/
def seqBlocks (s : State) (a : AttPar) : List (List Byte) :=
  (List.range a.seqs).map (fun n => readMem s (a.seqAddr + 128 * n) 128)

/-- ATTEND (R165 to R188): phase A first; with no token to cache, phase B at once. -/
def execAttend (i : Fin 64) (s : State) : Out :=
  issue s i (opSel 0x0203) (fun s c =>
    let a := attPar c.params
    let mask := c.par 42 2
    namedCores s c mask
      (checked c 8 (attOk c.params a && (a.rotHalf = 0 || rangeRead a.rope (4 * a.rotHalf)))
        (reaches (rangeRead a.seqAddr (128 * a.seqs)) a.seqAddr
          (readsWell s c ((List.range a.seqs).map (fun n => (n, a.seqAddr + 128 * n, 128))) (fun s =>
            (let bs := seqBlocks s a
             let qs := bs.map seqOf
             readsWell s c ((if a.rotHalf = 0 then [] else [(0, a.rope, 4 * a.rotHalf)]) ++
                 (qs.zipIdx).flatMap (fun q => (seqTables a q.1).map (fun r => (q.2, r)))) (fun s =>
              (checked c 8 ((bs.zip qs).all (fun b => seqOk s a b.1 b.2))
                (let maxChain := maxChainOf (c.par 44 1)
                 let chains := attChains s a qs mask maxChain
                 let w : ArrayWork :=
                  { kind := .attendA, att := a, seqs := qs, mask := mask, maxChain := maxChain, chainsB := chains
                    maxLen := chains.foldl (fun m c => max m c.members.length) 0 }
                 .next (attendTurn (startArray s c w 1 0) c.id))))))))))

/-- WORK_REQUEST (R125, R135): the chain takes the command's next grant, when it may ask. -/
def execWorkRequest (c : CmdId) (chain : Nat) (s : State) : Out := settled (requestWork s c chain)

/-- PASS_START (R136, R137). -/
def execPassStart (core : Fin 16) (arr : Fin 2) (c : CmdId) (s : State) : Out :=
  if mayStart s core.val arr.val c then ok (startPass s core.val arr.val c) else .next s

/-- STATIONARY_LOAD (R57, R66, R67). -/
def execStationaryLoad (core : Fin 16) (arr : Fin 2) (c : CmdId) (s : State) : Out :=
  ok (loadTile s core.val arr.val c)

/-- BLOCK_COMMIT (R63, R151). -/
def execBlockCommit (core : Fin 16) (arr : Fin 2) (s : State) : Out := ok (commitBlock s core.val arr.val)

/-- EPILOGUE_BLOCK (R152). -/
def execEpilogueBlock (core : Fin 16) (s : State) : Out := settled (runEpilogue s core.val)

/-- PREEMPT (R356). -/
def execPreempt (core : Fin 16) (arr : Fin 2) (s : State) : Out := ok (preemptArray s core.val arr.val)

/-- PREEMPT_RESUME (R359). -/
def execPreemptResume (core : Fin 16) (arr : Fin 2) (s : State) : Out := ok (resumePass s core.val arr.val)

/-- RAMP_UP (R84, R85): the row groups are enabled ahead of a pass that is due. -/
def execRampUp (core : Fin 16) (arr : Fin 2) (s : State) : Out :=
  let a := getArray s core.val arr.val
  if a.pass.isNone && (!(holders s core.val arr.val).isEmpty || !a.preempted.isEmpty) then
    .next (putArray s core.val arr.val { a with ramped := true })
  else .next s

/-- A next pass is predicted on an array within 64 cycles (R85, R86): a pre-empted pass, or a thread's pass that is eligible; in
repeatable mode that of the thread which comes next in the fixed order (R89, R307). The model has no cycles: a pass whose tile is
staged counts as due, one whose tile is still being fetched does not (DESIGN CHOICE, log entry 143). -/
def passPredicted (s : State) (core arr : Nat) : Bool :=
  !(getArray s core arr).preempted.isEmpty ||
    (if s.lock.repeatable then match chosen s core arr with
      | some id => passEligible s id core arr
      | none => false
    else (holders s core arr).any (fun c => passEligible s c.id core arr))

/-- RAMP_DOWN (R84 to R86): the row groups are gated off when no pass is in progress and none is predicted. -/
def execRampDown (core : Fin 16) (arr : Fin 2) (s : State) : Out :=
  let a := getArray s core.val arr.val
  if a.pass.isNone && !passPredicted s core.val arr.val then
    .next (putArray s core.val arr.val { a with ramped := false })
  else .next s

end Sys2Proof.Machine
end

