-- ==== Sys2Proof/Machine/RegOps.lean ====
section
/-!
DEFINITION. The host's registers: write-1-to-clear flags with their companion counters (R8 to R10, R49) and the effect of
writing each register (Tables 2.10 to 2.14, 11.10, 12.4, 13.5, 13.7, 14.9, 15.12).
-/
namespace Sys2Proof.Machine

/-- A flag after a write-1-to-clear of its bit `n`. -/
def w1c (f : Bool) (m : W32) (n : Nat) : Bool := f && !m.getLsbD n

/-- A flag after hardware sets of its bit, and its companion counter. -/
def hwSet (f : Bool) (m : W32) (n : Nat) : Bool := f || m.getLsbD n
def hwCount (c : W32) (m : W32) (n : Nat) : W32 := if m.getLsbD n then c + 1 else c

/-- The counters of TELEMETRY saturate (R352). -/
def hwCountSat (c : W32) (m : W32) (n : Nat) : W32 :=
  if m.getLsbD n then BitVec.ofNat 32 (satTo (2 ^ 32 - 1) (c.toNat + 1)) else c

/-- Set flags of a register, counting each set (R9). -/
def setFlags (s : State) (r : FlagReg) (m : W32) : State :=
  match r with
  | .devFlags =>
    let s := { s with dev := { s.dev with
      stateChanged := hwSet s.dev.stateChanged m 0, stateChangedCount := hwCount s.dev.stateChangedCount m 0
      faultFlag := hwSet s.dev.faultFlag m 1, faultCount := hwCount s.dev.faultCount m 1 } }
    let s := if m.getLsbD 0 then raiseCause s 0 else s
    if m.getLsbD 1 then raiseCause s 1 else s
  | .inletStatus i =>
    let x := getInlet s i.val
    let s := putInlet s i.val { x with
      refused := hwSet x.refused m 8, refusedCount := hwCount x.refusedCount m 8
      ignored := hwSet x.ignored m 9, ignoredCount := hwCount x.ignoredCount m 9
      halted := hwSet x.halted m 10, haltedCount := hwCount x.haltedCount m 10 }
    if m.getLsbD 8 || m.getLsbD 9 || m.getLsbD 10 then raiseCause s 3 else s
  | .outfallStatus i =>
    let x := getOutfall s i.val
    putOutfall s i.val { x with
      fullStall := hwSet x.fullStall m 0, fullStallCount := hwCount x.fullStallCount m 0 }
  | .portsFlags =>
    let x := s.net
    { s with net := { x with
      windowRefused := hwSet x.windowRefused m 0, windowRefusedCount := hwCount x.windowRefusedCount m 0
      noRoute := hwSet x.noRoute m 1, noRouteCount := hwCount x.noRouteCount m 1
      groupRefused := hwSet x.groupRefused m 2, groupRefusedCount := hwCount x.groupRefusedCount m 2 } }
  | .portFlags p =>
    let x := getPort s p.val
    putPort s p.val { x with
      breach := hwSet x.breach m 0, breachCount := hwCount x.breachCount m 0
      linkDown := hwSet x.linkDown m 1, linkDownCount := hwCount x.linkDownCount m 1
      linkUp := hwSet x.linkUp m 2, linkUpCount := hwCount x.linkUpCount m 2 }
  | .tideFlags =>
    let x := s.tide
    { s with tide := { x with
      syncLost := hwSet x.syncLost m 0, syncLostCount := hwCount x.syncLostCount m 0
      syncAcquired := hwSet x.syncAcquired m 1, syncAcquiredCount := hwCount x.syncAcquiredCount m 1
      timingEvent := hwSet x.timingEvent m 2, timingEventCount := hwCount x.timingEventCount m 2 } }
  | .pumpFlags =>
    let x := s.pump
    { s with pump := { x with
      unreachableFlag := hwSet x.unreachableFlag m 0, unreachableCount := hwCount x.unreachableCount m 0
      brakeFlag := hwSet x.brakeFlag m 1, brakeCount := hwCount x.brakeCount m 1
      throttleFlag := hwSet x.throttleFlag m 2, throttleCount := hwCount x.throttleCount m 2 } }
  | .teleFlags =>
    let x := s.tele
    { s with tele := { x with
      eolWarn := hwSet x.eolWarn m 0, eolWarnCount := hwCountSat x.eolWarnCount m 0
      eolCrit := hwSet x.eolCrit m 1, eolCritCount := hwCountSat x.eolCritCount m 1
      maxLowered := hwSet x.maxLowered m 2, maxLoweredCount := hwCountSat x.maxLoweredCount m 2 } }
  | .errFlags =>
    let x := s.err
    let s := { s with err := { x with
      new := hwSet x.new m 0, newCount := hwCount x.newCount m 0
      overrun := hwSet x.overrun m 1, overrunCount := hwCount x.overrunCount m 1
      coreOut := hwSet x.coreOut m 2, coreOutCount := hwCount x.coreOutCount m 2 } }
    if m.getLsbD 0 then raiseCause s 2 else s
  | .secFlags =>
    let x := s.sec
    { s with sec := { x with
      fallbackFlag := hwSet x.fallbackFlag m 0, fallbackCount := hwCount x.fallbackCount m 0
      authFailed := hwSet x.authFailed m 1, authFailedCount := hwCount x.authFailedCount m 1
      debugUnlocked := hwSet x.debugUnlocked m 2, debugUnlockedCount := hwCount x.debugUnlockedCount m 2
      mbxDone := hwSet x.mbxDone m 3, mbxDoneCount := hwCount x.mbxDoneCount m 3 } }

/-- Clear flags of a register. -/
def clearFlags (s : State) (r : FlagReg) (m : W32) : State :=
  match r with
  | .devFlags =>
    { s with dev := { s.dev with stateChanged := w1c s.dev.stateChanged m 0, faultFlag := w1c s.dev.faultFlag m 1 } }
  | .inletStatus i =>
    let x := getInlet s i.val
    putInlet s i.val { x with refused := w1c x.refused m 8, ignored := w1c x.ignored m 9, halted := w1c x.halted m 10 }
  | .outfallStatus i =>
    let x := getOutfall s i.val
    putOutfall s i.val { x with fullStall := w1c x.fullStall m 0 }
  | .portsFlags =>
    { s with net := { s.net with
      windowRefused := w1c s.net.windowRefused m 0, noRoute := w1c s.net.noRoute m 1
      groupRefused := w1c s.net.groupRefused m 2 } }
  | .portFlags p =>
    let x := getPort s p.val
    putPort s p.val { x with breach := w1c x.breach m 0, linkDown := w1c x.linkDown m 1, linkUp := w1c x.linkUp m 2 }
  | .tideFlags =>
    { s with tide := { s.tide with
      syncLost := w1c s.tide.syncLost m 0, syncAcquired := w1c s.tide.syncAcquired m 1
      timingEvent := w1c s.tide.timingEvent m 2 } }
  | .pumpFlags =>
    { s with pump := { s.pump with
      unreachableFlag := w1c s.pump.unreachableFlag m 0, brakeFlag := w1c s.pump.brakeFlag m 1
      throttleFlag := w1c s.pump.throttleFlag m 2 } }
  | .teleFlags =>
    { s with tele := { s.tele with
      eolWarn := w1c s.tele.eolWarn m 0, eolCrit := w1c s.tele.eolCrit m 1, maxLowered := w1c s.tele.maxLowered m 2 } }
  | .errFlags =>
    { s with err := { s.err with
      new := w1c s.err.new m 0, overrun := w1c s.err.overrun m 1, coreOut := w1c s.err.coreOut m 2 } }
  | .secFlags =>
    { s with sec := { s.sec with
      fallbackFlag := w1c s.sec.fallbackFlag m 0, authFailed := w1c s.sec.authFailed m 1
      debugUnlocked := w1c s.sec.debugUnlocked m 2, mbxDone := w1c s.sec.mbxDone m 3 } }

/-- A write-1-to-clear with hardware sets in the same mesh cycle: each set counts and wins over the clear (R9); causes
clear with their sources (Table 2.13). -/
def clearWithSets (s : State) (r : FlagReg) (mask sets : W32) : State :=
  lowerCauses (clearFlags (setFlags s r sets) r (mask &&& ~~~sets))

/-- An inlet opens: its ring and its outfall start again at 0 (R21). -/
def openInlet (s : State) (i : Nat) : State :=
  let s := putInlet s i { getInlet s i with state := .open, head := 0, tail := 0 }
  putOutfall s i { getOutfall s i with head := 0, tail := 0, reserved := 0, stalled := false }

/-- The device is in a state in which an inlet may open (Table 2.5c). -/
def mayOpen (s : State) : Bool :=
  match s.dev.state with
  | .ready | .active | .quiescing | .lowPower => true
  | _ => false

/-- The effect of an ENABLE write by Table 2.5c. -/
def enableEffect (s : State) (i : Nat) (en : Bool) : State :=
  match (getInlet s i).state, en with
  | .closed, true => if mayOpen s then openInlet s i else setInletFlag s i .refused
  | .draining, true => setInletFlag s i .refused
  | .open, true | .halted, true | .closed, false | .draining, false => s
  | .open, false | .halted, false =>
    putInlet s i { getInlet s i with state := if inFlight s i = 0 then .closed else .draining }

/-- RESUME: HALTED to OPEN, unless the device is in FAULT (Table 2.5c). -/
def resumeInlet (s : State) (i : Nat) : State :=
  let x := getInlet s i
  if x.state = .halted && s.dev.state != .fault then putInlet s i { x with state := .open } else s

/-- Whether a write of ENABLE is accepted (Table 2.5c); one that is refused is ignored (Table 2.8). -/
def enableTaken (s : State) (i : Nat) (en : Bool) : Bool :=
  match (getInlet s i).state with
  | .closed => !en || mayOpen s
  | .draining => !en
  | _ => true

/-- A write to INLET_CTL: its fields, then ENABLE, then RESUME (R41, Table 2.11; log entry 84). SIZE_LOG2 is written only
while CLOSED (R16). -/
def inletCtl (s : State) (i : Nat) (v : W32) : State :=
  let x := getInlet s i
  let s := putInlet s i { x with
    enable := if enableTaken s i (v.getLsbD 0) then v.getLsbD 0 else x.enable
    priority := BitVec.ofNat 2 (bitsOf v.toNat 2 1), haltOnError := v.getLsbD 3, exempt := v.getLsbD 4
    sizeLog2 := if x.state = .closed then BitVec.ofNat 5 (bitsOf v.toNat 12 8) else x.sizeLog2 }
  let s := enableEffect s i (v.getLsbD 0)
  if v.getLsbD 5 then resumeInlet s i else s

/-- DEV_CTL.QUIESCE written (Table 2.5a, R39). -/
def writeQuiesce (s : State) (q : Bool) : State :=
  let t := { s with dev := { s.dev with quiesce := q } }
  match s.dev.state with
  | .ready => { t with dev := { t.dev with quiesced := q } }
  | .active => if q then setDevState t .quiescing else t
  | .quiescing => if q then t else setDevState t .active
  | _ => t

/-- A wake trigger in LOW_POWER (Table 2.5a, R347). -/
def wakeTrigger (s : State) : State :=
  if s.dev.state = .lowPower && s.dev.wakeFrom.isNone then
    { s with
      dev := { s.dev with wakeFrom := some s.clk.ticks }
      ports := s.ports.map (fun p => (p.1, { p.2 with widen := p.2.widen || p.2.link = .keepAlive })) }
  else s

/-- Half of a 64-bit register is written. -/
def setHalf (old : W64) (hi : Bool) (v : W32) : W64 :=
  if hi then BitVec.ofNat 64 (old.toNat % 2 ^ 32 + v.toNat * 2 ^ 32)
  else BitVec.ofNat 64 (old.toNat / 2 ^ 32 * 2 ^ 32 + v.toNat)

/-- Clear the low bits of a register that are reserved (R10). -/
def maskLow (v : W64) (n : Nat) : W64 := BitVec.ofNat 64 (v.toNat / 2 ^ n * 2 ^ n)

/-- A write to OUTFALL_HEAD: it may not pass OUTFALL_TAIL (R32, R46). -/
def writeHead (s : State) (i : Nat) (h : Nat) : Out :=
  let o := getOutfall s i
  let n := 2 ^ o.sizeLog2.toNat
  if h < n && (h + n - o.head.toNat) % n ≤ (o.tail.toNat + n - o.head.toNat) % n then
    .next (putOutfall s i { o with head := BitVec.ofNat 16 h })
  else .fault (.badRegister (0x20014 + 0x100 * i))

/-- Whether a command in flight names a group (R291). -/
def namesGroup (c : Cmd) (g : Nat) : Bool :=
  [0x0005, 0x0302, 0x0303, 0x0304, 0x0305].contains c.hdr.opcode.toNat && fieldLe c.params 0 2 = g

/-- The descriptor at GROUP_ADDR is one that Table 11.8 allows. -/
def groupOk (s : State) (a : Nat) : Bool :=
  let n := readLe s a 2
  rangeRead a 16 && 1 ≤ n && n ≤ 4096 && readLe s (a + 2) 2 < n && rangeRead a (16 + 8 * n)

/-- A GROUP_CMD write that names a group of a command in flight is ignored (R291). -/
def groupCmd (s : State) (g : Nat) (remove : Bool) : Out :=
  if s.cmds.any (fun c => namesGroup c g) then
    .next { s with net := { s.net with groupRefused := true, groupRefusedCount := s.net.groupRefusedCount + 1 } }
  else if remove then .next { s with net := { s.net with groups := tabErase s.net.groups g } }
  else if groupOk s s.net.groupAddr.toNat then
    .next { s with net := { s.net with groups := tabSet s.net.groups g s.net.groupAddr.toNat } }
  else .fault (.badGroup g)

/-- PORT_CTL.RETRAIN: breach is declared and the port retrains (R277). -/
def retrainPort (s : State) (p : Nat) : State := if portUp s p then breachPort s p else s

/-- PORT_CTL.DISABLE: a port held down has gone down (R304); one released trains. -/
def disablePort (s : State) (p : Nat) (v : Bool) : State :=
  let x := getPort s p
  if x.disable = v then s
  else
    let s := putPort s p { x with disable := v }
    if v then (if portUp s p then downPort s p else putPort s p { getPort s p with link := .down })
    else putPort s p { getPort s p with link := .training, trainedAt := s.clk.ticks }

/-- JOB_ENERGY_CLEAR (R344, Table 13.5); the ticks counted in a slot go with its energy (log entry 101). -/
def clearSlot (s : State) (k : Nat) : State :=
  { s with pump := { s.pump with
    jobEnergy := tabErase s.pump.jobEnergy k, jobTicks := tabErase s.pump.jobTicks k } }
def clearJobs (s : State) : State :=
  { s with
    pump := { s.pump with jobEnergy := [], jobTicks := [] }
    inlets := s.inlets.map (fun p => (p.1, { p.2 with energy := 0 })) }

/-- CORE_RESET bit `c` (R367); a reset in progress goes on. -/
def coreResetWrite (s : State) (c : Nat) : State := if (getCore s c).busy.isSome then s else beginReset s c

/-- Change the tide state; leaving and entering TRACKING set their flags (Table 12.4). -/
def setTideState (s : State) (st : TideState) : State :=
  let t := s.tide
  if t.st = st then s
  else
    let lost := decide (t.st = .tracking)
    let got := decide (st = .tracking)
    { s with tide := { t with
      st := st
      syncLost := t.syncLost || lost, syncLostCount := if lost then t.syncLostCount + 1 else t.syncLostCount
      syncAcquired := t.syncAcquired || got
      syncAcquiredCount := if got then t.syncAcquiredCount + 1 else t.syncAcquiredCount } }

/-- A write to TIDE_CTL (R315): the reference of the ring's time tracks at once; any other changed setting starts from
UNSYNC. -/
def tideCtl (s : State) (master : Bool) (source : Nat) (en : Bool) : State :=
  let t := s.tide
  if t.master = master && t.source.toNat = source && t.syncEn = en then s
  else
    let s := { s with tide := { t with master := master, source := BitVec.ofNat 2 source, syncEn := en, refEdges := 0 } }
    if master && source = 0 && en then
      setTideState { s with tide := { s.tide with offset := 0, masterChip := s.rcd.chipId } } .tracking
    else setTideState s .unsync

/-- Write a GLOBAL register (Table 2.10). -/
def writeGlobal (s : State) (o : Nat) (v : W32) : Out :=
  if o = 0x20 then
    let s := writeQuiesce s (v.getLsbD 0)
    let s := { s with dev := { s.dev with
      lowPowerEn := v.getLsbD 1, idleEntry := BitVec.ofNat 16 (v.toNat / 65536), idleFrom := s.clk.ticks } }
    .next (if v.getLsbD 2 then wakeTrigger s else s)
  else if o = 0x24 then .next (clearWithSets s .devFlags v 0)
  else .next s

/-- Write a register of an inlet (Table 2.11). -/
def writeInletReg (s : State) (i : Fin 64) (o : Nat) (v : W32) : Out :=
  let x := getInlet s i.val
  match o with
  | 0x00 | 0x04 =>
    .next (if x.state = .closed then putInlet s i.val { x with base := maskLow (setHalf x.base (o = 4) v) 12 } else s)
  | 0x08 => .next (inletCtl s i.val v)
  | 0x0C => .next (clearWithSets s (.inletStatus i) v 0)
  | _ => .next s

/-- Write a register of an outfall (Table 2.12). -/
def writeOutfallReg (s : State) (i : Fin 64) (o : Nat) (v : W32) : Out :=
  let x := getOutfall s i.val
  let closed := (getInlet s i.val).state = .closed
  match o with
  | 0x00 | 0x04 =>
    .next (if closed then putOutfall s i.val { x with base := maskLow (setHalf x.base (o = 4) v) 12 } else s)
  | 0x08 | 0x0C =>
    .next (if closed then putOutfall s i.val { x with wb := maskLow (setHalf x.wb (o = 0xC) v) 3 } else s)
  | 0x10 =>
    .next (putOutfall s i.val { x with
      sizeLog2 := if closed then BitVec.ofNat 5 (bitsOf v.toNat 4 0) else x.sizeLog2
      vector := BitVec.ofNat 8 (bitsOf v.toNat 15 8), coalesceCount := BitVec.ofNat 8 (bitsOf v.toNat 23 16)
      coalesceTime := BitVec.ofNat 8 (bitsOf v.toNat 31 24) })
  | 0x14 => writeHead s i.val (v.toNat % 65536)
  | 0x1C => .next (clearWithSets s (.outfallStatus i) v 0)
  | _ => .next s

/-- Write 32 bits of the MSI-X table: of Vector Control only the mask bit exists (R10, R52). A pending vector that the
write leaves unmasked is sent. -/
def writeMsix (s : State) (o : Nat) (v : W32) : State :=
  let v := if o % 16 = 12 then v.toNat % 2 else v.toNat
  releaseVector
    { s with irq := { s.irq with
      table := ((leBytes 4 v).zipIdx).foldl (fun t p => tabSet t (o + p.2) p.1) s.irq.table } } (o / 16)

/-- Write a register of the INTERRUPT block (R52, Table 2.13). -/
def writeIrqReg (s : State) (o : Nat) (v : W32) : Out :=
  let q := s.irq
  if o < 0x1000 then .next (writeMsix s o v)
  else if o = 0x2000 then .next { s with irq := { q with vector := BitVec.ofNat 8 v.toNat } }
  else if o = 0x2004 then
    .next { s with irq := { q with
      maskState := v.getLsbD 0, maskFault := v.getLsbD 1, maskLog := v.getLsbD 2, maskInlet := v.getLsbD 3 } }
  else .next s

/-- Write a register of the PUMPING block (Table 13.5). -/
def writePumpReg (s : State) (o : Nat) (v : W32) : Out :=
  match o with
  | 0x08 =>
    let m := bitsOf v.toNat 4 0
    if 8 ≤ m && m ≤ 20 then
      .next ((List.range 16).foldl capM { s with pump := { s.pump with mCeiling := BitVec.ofNat 5 m, learn := v.getLsbD 8 } })
    else .fault (.badRegister 0x80008)
  | 0x18 => .next (clearWithSets s .pumpFlags v 0)
  | 0x28 => .next (if v.getLsbD 31 then clearJobs s else clearSlot s (bitsOf v.toNat 11 0))
  | _ => .next s

/-- Write a register of the TIDE block (Table 12.4). -/
def writeTideReg (s : State) (o : Nat) (v : W32) : Out :=
  match o with
  | 0x08 =>
    .next (tideCtl s (v.getLsbD 0) (bitsOf v.toNat 2 1) (v.getLsbD 3))
  | 0x18 => .next (clearWithSets s .tideFlags v 0)
  | 0x28 =>
    .next { s with tide := { s.tide with dikeMargin := BitVec.ofNat 16 v.toNat } }
  | _ => .next s

/-- Write four ROUTE entries (R282, Table 11.10). -/
def writeRoute (s : State) (k : Nat) (v : W32) : State :=
  { s with net := { s.net with route := (List.range 4).foldl (fun t i =>
    tabSet t (4 * k + i) (BitVec.ofNat 4 (bitsOf v.toNat (8 * i + 3) (8 * i)))) s.net.route } }

/-- Write a register of the PORTS block (R305, Table 11.10). -/
def writePortsReg (s : State) (o : Nat) (v : W32) : Out :=
  let x := s.net
  if o = 0x008 || o = 0x00C then
    .next (partnerCheck { s with net := { x with
      bundleMap := BitVec.ofNat 48 (setHalf (x.bundleMap.zeroExtend 64) (o = 0x00C) v).toNat } })
  else if o = 0x010 then .next { s with net := { x with dateline := BitVec.ofNat 8 v.toNat } }
  else if o = 0x014 then
    .next { s with net := { x with e2eUs := BitVec.ofNat 24 v.toNat } }
  else if o = 0x018 then .next (clearWithSets s .portsFlags v 0)
  else if o = 0x030 || o = 0x034 then
    let a := maskLow (setHalf (x.groupAddr.zeroExtend 64) (o = 0x034) v) 6
    .next { s with net := { x with groupAddr := BitVec.ofNat 40 a.toNat } }
  else if o = 0x038 then groupCmd s (bitsOf v.toNat 7 0) (v.getLsbD 8)
  else if 0x1000 ≤ o && o < 0x2000 then .next (partnerCheck (writeRoute s ((o - 0x1000) / 4) v))
  else if h : 0x2000 ≤ o ∧ o < 0x2C00 then
    have hp : (o - 0x2000) / 0x100 < 12 := by omega
    let p : Fin 12 := ⟨(o - 0x2000) / 0x100, hp⟩
    match o % 0x100 with
    | 0x04 =>
      let s := if v.getLsbD 0 then retrainPort s p.val else s
      .next (disablePort s p.val (v.getLsbD 1))
    | 0x08 => .next (clearWithSets s (.portFlags p) v 0)
    | _ => .next s
  else .next s

/-- Write a register of the SECURITY block (R393, Table 15.12). -/
def writeSecReg (s : State) (o : Nat) (v : W32) : Out :=
  let x := s.sec
  if o = 0x0000 then .next { s with sec := { x with op := BitVec.ofNat 8 v.toNat } }
  else if o = 0x0004 then if v.getLsbD 0 then mailboxRun s x.op.toNat (mailboxReq s) else .next s
  else if o = 0x000C then
    .next { s with sec := { x with reqBytes := BitVec.ofNat 16 v.toNat } }
  else if o = 0x0030 then .next (clearWithSets s .secFlags v 0)
  else if 0x4000 ≤ o && o < 0x8000 then
    .next { s with sec := { x with
      req := ((leBytes 4 v.toNat).zipIdx).foldl (fun t p => tabSet t (o - 0x4000 + p.2) p.1) x.req } }
  else .next s

/-- Write a register of the ERROR block (R376, Table 14.9). URGENT_RESERVE takes effect when no command is in flight
(R354). -/
def writeErrReg (s : State) (o : Nat) (v : W32) : Out :=
  let x := s.err
  match o with
  | 0x08 | 0x0C => .next { s with err := { x with ack := setHalf x.ack (o = 0xC) v } }
  | 0x10 => .next (clearWithSets s .errFlags v 0)
  | 0x20 => .next { s with err := { x with watchdogUs := v } }
  | 0x24 =>
    let r := bitsOf v.toNat 4 0
    if 1 ≤ r && r ≤ 16 then
      .next { s with err := { x with
        reserve := BitVec.ofNat 5 r, autoOffline := v.getLsbD 8
        reserveActive := if s.cmds.isEmpty then BitVec.ofNat 5 r else x.reserveActive } }
    else .fault (.badRegister 0xD0024)
  | 0x2C => .next ((List.range 16).foldl (fun s c => if v.getLsbD c then coreResetWrite s c else s) s)
  | _ => .next s

/-- Write 32 bits of BAR0 at a block's offset (Table 2.9). Registers that are not writable, and reserved ones, ignore the
write (R8, R10). -/
def writeReg (s : State) (a : Nat) (v : W32) : Out :=
  let o := a % 0x10000
  match a / 0x10000 with
  | 0x0 => writeGlobal s o v
  | 0x1 => if h : o / 0x100 < 64 then writeInletReg s ⟨o / 0x100, h⟩ (o % 0x100) v else .next s
  | 0x2 => if h : o / 0x100 < 64 then writeOutfallReg s ⟨o / 0x100, h⟩ (o % 0x100) v else .next s
  | 0x3 => writeIrqReg s o v
  | 0x4 | 0x5 | 0x6 | 0x7 => .next (setEvent s ((a - 0x40000) / 4) v)
  | 0x8 => writePumpReg s o v
  | 0x9 => if o = 0x154 then .next (clearWithSets s .teleFlags v 0) else .next s
  | 0xA => writeTideReg s o v
  | 0xB => writePortsReg s o v
  | 0xC => writeSecReg s o v
  | 0xD => writeErrReg s o v
  | 0xE =>
    if o = 0 || o = 4 then
      let b := setHalf (BitVec.ofNat 64 (s.ap.base.toNat * 2 ^ 30)) (o = 4) v
      .next { s with ap := { s.ap with base := BitVec.ofNat 10 (b.toNat / 2 ^ 30) } }
    else .next s
  | _ => .next s

/-- A register write of 32 or 64 bits; an access that is not naturally aligned is unpredictable (R47). A 64-bit write is
both halves, the lower first. -/
def writeBar (s : State) (a : Nat) (wide : Bool) (v : W64) : Out :=
  if a % (if wide then 8 else 4) != 0 then .fault (.badRegister a)
  else match writeReg s a (BitVec.ofNat 32 v.toNat) with
    | .next t => if wide then writeReg t (a + 4) (BitVec.ofNat 32 (v.toNat / 2 ^ 32)) else .next t
    | o => o

end Sys2Proof.Machine
end

