-- ==== Sys2Proof/Machine/CtlOps.lean ====
section
/-!
DEFINITION. Operations of the control commands: fetch (R27, R30, R31, R39), state codes (Table 2.4), lock-step pairing
(R319), modes (R306), caps (R332, R334), what ABORT names (R374).
-/
namespace Sys2Proof.Machine

/-- The opcodes of Table 2.6. -/
def opcodes : List Nat :=
  [0x0001, 0x0002, 0x0003, 0x0004, 0x0005, 0x0006, 0x0008, 0x0010, 0x0011, 0x0012, 0x0013, 0x0014, 0x0015, 0x0100, 0x0101,
   0x0102, 0x0103, 0x0104, 0x0105, 0x0106, 0x0107, 0x0200, 0x0201, 0x0202, 0x0203, 0x0204, 0x0205, 0x0300, 0x0301, 0x0302,
   0x0303, 0x0304, 0x0305, 0x0306, 0x0307, 0x0308, 0x0309, 0x0400, 0x0401, 0x0402, 0x0403, 0x0500, 0x0501, 0x0502, 0x0504]

/-- The header of a slot (Table 2.1). -/
def headerOf (b : List Byte) : Header :=
  { opcode := BitVec.ofNat 16 (fieldLe b 0 2), flags := BitVec.ofNat 8 (fieldLe b 2 1)
    version := BitVec.ofNat 8 (fieldLe b 3 1), tag := BitVec.ofNat 32 (fieldLe b 4 4)
    jobId := BitVec.ofNat 12 (fieldLe b 8 2), phase := BitVec.ofNat 6 (fieldLe b 10 1), paramLen := fieldLe b 12 2
    waits := (List.range 4).map (fun k => (fieldLe b (16 + 4 * k) 2, fieldLe b (18 + 4 * k) 2))
    signalId := BitVec.ofNat 16 (fieldLe b 32 2), signalInc := BitVec.ofNat 16 (fieldLe b 34 2)
    watchdogUs := fieldLe b 36 4, seed := BitVec.ofNat 64 (fieldLe b 40 8) }

/-- A header that R22 and Table 2.6 allow; anything else is unpredictable (R46). `EXPORT_KV` has operations 0 to 3
(R244). -/
def headerOk (b : List Byte) : Bool :=
  opcodes.contains (fieldLe b 0 2) && fieldLe b 2 1 < 16 && fieldLe b 3 1 = 1 && fieldLe b 8 2 < 4096 &&
    fieldLe b 10 1 < 64 && fieldLe b 11 1 = 0 && fieldLe b 12 2 ≤ 56 && fieldLe b 14 2 = 0 && fieldLe b 48 8 = 0 &&
    fieldLe b 56 8 = 0 && (fieldLe b 0 2 != 0x0306 || fieldLe b 64 1 < 4)

/-- An inlet from which a command could be fetched, outfall and priorities apart (R27, R39, R353, Table 2.5b). -/
def wantsFetch (s : State) (i : Nat) : Bool :=
  let x := getInlet s i
  x.state = .open && x.head != x.tail && inFlight s i < 32 &&
    s.cmds.length < (if x.priority = 0 then 1024 else 992) &&
    (match s.dev.state with | .ready | .active | .quiescing => true | _ => false) && (!s.dev.quiesce || x.exempt)

/-- It has a command ready to be fetched: an outfall entry is free as well (R31). -/
def fetchable (s : State) (i : Nat) : Bool := wantsFetch s i && 0 < outfallRoom (getOutfall s i)

/-- Fetch stops for want of an outfall entry: the flag is set once for the stop (R31). -/
def stallFetch (s : State) (i : Nat) : State :=
  let o := getOutfall s i
  if o.stalled then s
  else putOutfall s i { o with stalled := true, fullStall := true, fullStallCount := o.fullStallCount + 1 }

/-- The command that a slot holds. -/
def cmdOf (s : State) (i : Nat) (slot : List Byte) : Cmd :=
  let h := headerOf slot
  { id := s.clk.fetched, inlet := i, hdr := h, params := (slot.drop 64).take (8 * h.paramLen)
    met := [false, false, false, false], urgent := (getInlet s i).priority = 0, capUnreachable := s.pump.unreachable }

/-- The device leaves READY at a fetch (Table 2.5a). -/
def leaveReady (s : State) : State :=
  if s.dev.state = .ready then
    setDevState s (if s.dev.quiesce then .quiescing else .active)
  else s

/-- Where slot `INLET_HEAD` lies in host memory (R16). -/
def slotAddr (x : Inlet) : Nat := x.base.toNat + 512 * x.head.toNat

/-- What the device reads of a slot: the header and the declared parameter bytes (R17). -/
def slotRead (slot : List Byte) : List Byte := slot.take (64 + 8 * (headerOf slot).paramLen)

/-- Copy the slot at INLET_HEAD from host memory into the device, reserve its outfall entry and advance INLET_HEAD (R16, R17,
R20, R27, R31). -/
def fetchSlot (s : State) (i : Nat) (slot : List Byte) : State :=
  let c := cmdOf s i slot
  let x := getInlet s i
  let o := getOutfall s i
  let s := hostWrite s (slotAddr x) (slotRead slot)
  let s := putInlet s i { x with head := BitVec.ofNat 16 ((x.head.toNat + 1) % 2 ^ x.sizeLog2.toNat) }
  let s := putOutfall s i { o with reserved := o.reserved + 1, stalled := false }
  let s := { s with
    clk := { s.clk with fetched := s.clk.fetched + 1, fetchTurn := tabSet s.clk.fetchTurn x.priority.toNat i }
    cmds := s.cmds ++ [c] }
  latch (leaveReady s)

/-- State codes of inlets, windows, sluices, queue pairs, channels, cores, staging and the tide (Table 2.4). -/
def InletState.code : InletState → Nat
  | .closed => 0
  | .open => 1
  | .draining => 2
  | .halted => 3

def WindowState.code : WindowState → Nat
  | .closed => 0
  | .open => 1
  | .draining => 2

def SluiceState.code : SluiceState → Nat
  | .idle => 0
  | .running => 1
  | .shadowPending => 2
  | .offline => 3

def QpState.code : QpState → Nat
  | .free => 0
  | .ready => 1
  | .error => 2

def ChannelState.code : ChannelState → Nat
  | .free => 0
  | .bound => 1
  | .sealing => 2

def CoreState.code : CoreState → Nat
  | .outOfService => 0
  | .inService => 1
  | .beingReset => 2

def FwState.code : FwState → Nat
  | .none => 0
  | .staged => 1
  | .pending => 2
  | .writing => 3

def TideState.code : TideState → Nat
  | .unsync => 0
  | .acquiring => 1
  | .tracking => 2

/-- The state code of an object by scope and index; none where the index names no object (Table 2.4). -/
def scopeCode (s : State) (scope idx : Nat) : Option Nat :=
  let at' := fun (n v : Nat) => if idx < n then some v else none
  match scope with
  | 0x00 => some s.dev.state.code
  | 0x01 => at' 64 (getInlet s idx).state.code
  | 0x02 => at' 4096 (getWindow s idx).st.code
  | 0x03 => at' 160 (getSluice s idx).st.code
  | 0x04 => at' 16384 (getQp s idx).st.code
  | 0x05 => some (modeCode s)
  | 0x06 => some s.tide.st.code
  | 0x07 => some s.warden.fwState.code
  | 0x08 => at' 16 (getCore s idx).st.code
  | 0x09 => at' 256 (bit01 (tabFind? s.net.groups idx).isSome)
  | 0x0A => at' 16 (getChannel s idx).st.code
  | _ => none

/-- The result of a `QUERY` (Table 2.4a); none for an item or object outside it. -/
def queryResult (s : State) (item idx scope : Nat) : Option Nat :=
  match item with
  | 0 => some s.dev.state.code
  | 1 => some (coreMask s)
  | 2 => some s.cmds.length
  | 3 => some (modeCode s)
  | 4 => some s.tide.count.toNat
  | 5 => (scopeCode s scope idx).map (fun v => v + scope * 2 ^ 56)
  | _ => none

/-- An entry of `EVENT_SIGNAL`: counter, mode, value (R37). -/
def signalEntries (c : Cmd) : List (Nat × Nat × Nat) :=
  (List.range c.hdr.paramLen).map (fun k => (c.par (8 * k) 2, c.par (8 * k + 2) 2, c.par (8 * k + 4) 4))

/-- Apply an entry of `EVENT_SIGNAL`. -/
def applySignal (s : State) (e : Nat × Nat × Nat) : State :=
  if e.2.1 = 0 then addEvent s e.1 e.2.2 else setEvent s e.1 (BitVec.ofNat 32 e.2.2)

/-- The waits of `EVENT_WAIT` (R37). -/
def waitEntries (s : State) (c : Cmd) : List (Nat × Nat × Bool) :=
  (List.range (2 * c.hdr.paramLen)).map (fun k =>
    (c.par (4 * k) 2, c.par (4 * k + 2) 2, waitMet s (c.par (4 * k) 2) (c.par (4 * k + 2) 2)))

/-- Whether a group is configured (R291). -/
def groupThere (s : State) (g : Nat) : Bool := (tabFind? s.net.groups g).isSome

/-- Go on when a command's group is configured; else scope 0x09 (Table 2.8). -/
def withGroup (s : State) (c : Cmd) (g : Nat) (k : Out) : Out :=
  if groupThere s g then k else .next (reject s c.id 0x09 0 g)

/-- The commands that an `ABORT` names (R374). -/
def abortNames (s : State) (id : CmdId) (scope inlet tag : Nat) (own : Nat) : List CmdId :=
  let l := s.cmds.filter (fun c => c.id != id)
  match scope with
  | 0 => ((l.find? (fun c => c.inlet = inlet && c.hdr.tag.toNat = tag)).map (·.id)).toList
  | 1 => (l.filter (fun c => c.inlet = inlet)).map (·.id)
  | _ => (l.filter (fun c => c.inlet != own)).map (·.id)

/-- An inlet that an `ABORT` names halts (Table 2.5c). -/
def haltInlet (s : State) (i : Nat) : State :=
  let x := getInlet s i
  if x.state = .open || x.state = .draining then putInlet s i { x with state := .halted } else s

/-- The inlets that an `ABORT` halts. -/
def abortHalts (s : State) (scope inlet own : Nat) : State :=
  match scope with
  | 0 => s
  | 1 => haltInlet s inlet
  | _ => ((List.range 64).filter (· != own)).foldl haltInlet s

/-- Both modules have set LOCKSTEP, each naming the other, and the partner's PAIR has arrived: pairing is established and
sequence numbers count from 0 (R319, R320). -/
def pairUpCheck (s : State) : State :=
  let l := s.lock
  if l.set && !l.established && l.pairFrom = some l.partner then
    { s with
      lock := { l with established := true, compared := 0, own := [], theirs := [] }
      inlets := s.inlets.map (fun p => (p.1, { p.2 with lockSeq := 0 })) }
  else s

/-- Every core runs at m = 15 in repeatable mode (Table 12.2, R314), and never above M_CEILING (R326). -/
def pinClocks (s : State) : State :=
  (List.range 16).foldl (fun s c =>
    let m := min 15 (topM s c)
    putPower s c { getPower s c with m := m, raising := none, railMv := railFor s c m }) s

/-- The lock-step part of `SET_MODE` (R306, R319): PAIR to the partner named, UNPAIR when LOCKSTEP is cleared. -/
def setLockstep (s : State) (on : Bool) (partner : BitVec 12) (lead : Nat) : State :=
  if on then
    let s := if s.lock.set && s.lock.partner != partner then lapse s else s
    let s := { s with lock := { s.lock with
      set := true, partner := partner, leadLimit := if lead = 0 then 256 else lead } }
    pairUpCheck (routeCtl s (partnerPacket s 0x25 (leBytes 2 partner.toNat)))
  else if s.lock.set then
    let s := routeCtl s (partnerPacket s 0x26 [])
    let s := lapse s
    { s with lock := { s.lock with set := false } }
  else s

/-- The directory clock as the mode changes (R263): the periods that have passed count if repeatable mode was off, and its
steps go on in the same rhythm. -/
def dirPeriods (s : State) : State :=
  let n := (s.clk.ticks - s.dir.stepped) / s.dir.clockStep
  { s with dir := { s.dir with
      stepped := s.dir.stepped + n * s.dir.clockStep
      clock := if s.lock.repeatable then s.dir.clock else s.dir.clock + BitVec.ofNat 16 n } }

/-- `SET_MODE` (R306, R307); a brake that holds applies to throughput mode at once (R341). -/
def applyMode (s : State) (repeatable lock : Bool) (partner : BitVec 12) (lead : Nat) : State :=
  let s := if repeatable && !s.lock.repeatable then pinClocks s else s
  let s := if repeatable = s.lock.repeatable then s else dirPeriods s
  let s := (List.range 16).foldl brakeCore { s with lock := { s.lock with repeatable := repeatable } }
  setLockstep s lock partner lead

/-- MFLAGS in force. -/
def modeFlags (s : State) : Nat := bit01 s.lock.repeatable + 2 * bit01 s.lock.set

/-- The effective caps in W (R332). -/
def peakCap (s : State) : Nat := min s.pump.capPeak.toNat s.pump.wardenPeak.toNat
def sustainedCap (s : State) : Nat := min s.pump.capSustained.toNat s.pump.wardenSustained.toNat

/-- Change the caps; intervals before a change that lowers the peak cap count as equal to the new one (R334). -/
def changeCaps (s : State) (f : Pump → Pump) : State :=
  let old := peakCap s
  let s := { s with pump := f s.pump }
  if peakCap s < old then
    { s with pump := { s.pump with peakHist := s.pump.peakHist.map (fun _ => 10 * peakCap s) } }
  else s

/-- The caps as DETAIL of `SET_CAP` (R333). -/
def capWord (p : Pump) : Nat := p.capPeak.toNat + p.capSustained.toNat * 2 ^ 16

/-- `SET_WEIR`'s values (R217). -/
def weirOk (b : List Byte) : Bool :=
  let f := fun o => fieldLe b o 1
  2 ≤ f 0 && f 0 ≤ 14 && 1 ≤ f 1 && f 1 ≤ 13 && 1 ≤ f 2 && f 2 ≤ 13 && f 0 + f 1 + f 2 = 16 && f 3 = 0 &&
    f 4 + f 5 + f 6 + f 7 = 16 && f 8 + f 9 + f 10 + f 11 = 16 && fieldLe b 12 4 = 0

/-- The weir's setting as DETAIL (R217). -/
def weirWord (w : Weir) : Nat :=
  let five := fun (l : List Nat) => (l.zipIdx).foldl (fun a x => a + x.1 % 32 * 2 ^ (5 * x.2)) 0
  w.ddrRead + w.ddrWrite * 2 ^ 5 + w.ddrRemote * 2 ^ 10 + five w.thl * 2 ^ 15 + five w.eth * 2 ^ 35

/-- The class-0x32 record of a failed self-test (R366). -/
def selfTestFailed (s : State) (core : Nat) : State :=
  let s := loseBerm s core
  let s := putCore s core { getCore s core with outReason := .selfTest }
  logFault s 0x32 4 1 core none 0 0 (coreErr (getCore s core))

end Sys2Proof.Machine
end

