-- ==== Sys2Proof/Machine/BootOps.lean ====
section
/-!
DEFINITION. Resets and chip power (R411 to R415), what a device reset keeps and initialises (Table 16.8a), the boot ROM's
choice of a slot and trial boots (R381, R382), the brake and LOW_POWER (R341, R347).
-/
namespace Sys2Proof.Machine

/-- The inactive slot, the content of a slot and its validity (R387). -/
def slotImage (w : Warden) (slot : Bool) : List Byte := if slot then w.slot1 else w.slot0
def slotValid (w : Warden) (slot : Bool) : Bool := if slot then w.valid1 else w.valid0
def setSlotValid (w : Warden) (slot v : Bool) : Warden := if slot then { w with valid1 := v } else { w with valid0 := v }
def setSlotImage (w : Warden) (slot : Bool) (b : List Byte) : Warden :=
  if slot then { w with slot1 := b } else { w with slot0 := b }

/-- FW_SVN_STAGED: the SVN in the inactive slot, or 0 (Table 15.12). -/
def svnStaged (w : Warden) : Nat := if slotValid w (!w.activeSlot) then imgSvn (slotImage w (!w.activeSlot)) else 0

/-- What the operator section in force gives (R378; log entry 33). -/
def recordOf (r : Record) (b : List Byte) : Record :=
  { r with
    chipId := BitVec.ofNat 12 (Config.operatorChip b)
    portMode := (List.range 12).map (fun p => Config.operatorPort b p % 3)
    pfc := (List.range 12).map (Config.operatorPfc b)
    macs := (List.range 24).map (fun k => (Config.operatorMac b (k / 2) (k % 2)).toNat)
    smbAddr := Config.operatorSmb b, autoPower := Config.operatorAuto b, subsystem := Config.operatorSubsystem b }
def dirOf (d : Directory) (b : List Byte) : Directory :=
  let x := Config.operatorDir b
  { d with
    log2e := 20 + x.1 % 3, tableBase := x.2.1, tagsBase := x.2.2.1, hotLines := 1024 * 2 ^ (x.2.2.2.1 % 11)
    hotBase := x.2.2.2.2.1, clockStep := max 1 x.2.2.2.2.2 }

/-- What a core's power state keeps over a device reset: values from the record and the warden (Tables 13.5, 13.7); m is 16, or
M_MAX where that lies below it (R326). -/
def CorePower.kept (x : CorePower) : CorePower :=
  { m := min 16 x.mMax, mMax := x.mMax, mMaxShip := x.mMaxShip, eolMonths := x.eolMonths, margin := x.margin }

/-- The warden over a device reset: an interrupted `FW_STAGE` leaves NONE and an invalid slot (R414). -/
def Warden.kept (w : Warden) : Warden :=
  let w :=
    if w.fwState = .writing then partWrite (setSlotValid { w with fwState := .none } (!w.activeSlot) false) else w
  { w with trial := false, bridgeOpen := false }

/-- A device reset (R413): every block at its reset values but for what Table 16.8a keeps; the configuration record's
sections, as rewritten since the last one, take effect (R378). Nothing of the outside is undone (R414). A relayed mailbox request
that was waiting is refused for state (R395). -/
def deviceReset (s : State) : State :=
  let w := s.warden.kept
  let w := if s.sec.mbxWait.any (·.relay) then { w with reply := (1, []) } else w
  let op := w.operator.used
  let new := op.2 != s.sec.operatorSeq
  let rcd := if new then recordOf s.rcd op.1 else s.rcd
  { host := s.host, msix := s.msix, wire := s.wire, free := s.free, pending := s.pending, pins := s.pins, warden := w
    rcd := rcd, pci := { subsystem := rcd.subsystem }
    dir :=
      let d : Directory :=
        { log2e := s.dir.log2e, tableBase := s.dir.tableBase, tagsBase := s.dir.tagsBase, hotBase := s.dir.hotBase
          hotLines := s.dir.hotLines, clockStep := s.dir.clockStep }
      if new then dirOf d op.1 else d
    power := s.power.map (fun p => (p.1, p.2.kept))
    pump := { wardenPeak := s.pump.wardenPeak, wardenSustained := s.pump.wardenSustained }
    tele := { eolMonths := s.tele.eolMonths, eolSource := s.tele.eolSource, portMonths := s.tele.portMonths }
    sec := { calibration := w.calibration.used.1, calibrationSeq := w.calibration.used.2
             operator := op.1, operatorSeq := op.2 } }

/-- A device reset that holds the chip, when it is powered (R411, R412). -/
def resetIf (s : State) : State := if s.pins.powered then deviceReset s else s

/-- The warden powers the chip (Table 2.5a, R346): THERM_TRIP_N is released; the chip is in BOOTING. -/
def powerOn (s : State) : State :=
  let s := deviceReset s
  { s with
    dev := { s.dev with state := .booting }, pins := { s.pins with powered := true, thermTrip := false }
    warden := { s.warden with tripped := false, fallbackDue := false } }

/-- The warden removes chip power: STANDBY (Table 2.5a, Table 16.8a). -/
def powerOff (s : State) : State :=
  let s := deviceReset s
  { s with dev := { s.dev with state := .standby }, pins := { s.pins with powered := false, linkReset := false } }

/-- The trip rule of R346: after a trip, both standby diodes must read below 90 degrees. What they read is a free value
(log entry 5). -/
def tripAllows (s : State) : Bool × State :=
  if s.warden.tripped then ((drawFree s).1 % 2 = 0, (drawFree s).2) else (true, s)

/-- A power-on request: whether it is granted (R346, R415). -/
def requestPower (s : State) : Bool × State :=
  let r := tripAllows s
  if r.1 then (true, powerOn r.2) else r

/-- A trial boot fails (R382): chip power is removed, the trial slot marked invalid, PENDING cleared; the next boot is of
the previous active slot, and is a fallback. -/
def trialFails (s : State) : State :=
  let s := powerOff s
  { s with warden := { partWrite (setSlotValid { s.warden with fwState := .none } (!s.warden.activeSlot) false) with
      fallbackDue := true, fallbackNext := true } }

/-- A trial boot succeeds (R382): the trial slot is active, C is raised, the previous slot stays valid only at an SVN of at
least C. -/
def trialWorks (s : State) : State :=
  let w := s.warden
  let c := max w.minSvn (imgSvn (slotImage w (!w.activeSlot)))
  let w := if imgSvn (slotImage w w.activeSlot) < c then setSlotValid w w.activeSlot false else w
  { s with warden := partWrite { w with activeSlot := !w.activeSlot, minSvn := c, fwState := .none, trial := false } }

/-- FW_STATE.FALLBACK and SEC_FLAGS.FALLBACK (R382). -/
def setFallback (s : State) : State :=
  { s with sec := { s.sec with fallback := true, fallbackFlag := true, fallbackCount := s.sec.fallbackCount + 1 } }

/-- The ports train once firmware runs (R381, R417). -/
def trainPorts (s : State) : State :=
  (List.range 12).foldl (fun s p => putPort s p { getPort s p with link := .training, trainedAt := s.clk.ticks }) s

/-- The boot ROM measures and starts an image (R381, R391): the PCIe link answers. -/
def startImage (s : State) (b : List Byte) : State :=
  trainPorts { s with
    dev := { s.dev with firmware := true }
    sec := { s.sec with
      image := b, svnActive := imgSvn b, keys := true, bootOwner := usedOwner s.warden, bootC := s.warden.minSvn } }

/-- The warden's log records the failing check of an image (R382). -/
def logBoot (s : State) (check : Nat) : State :=
  { s with warden := { s.warden with history := s.warden.history ++ [BitVec.ofNat 8 check] } }

/-- BOOTING fails (Table 2.5a): FAULT, of which the warden tells by ALERT_N (R394); in a trial boot that is its failure (R382). -/
def bootFails (s : State) : State :=
  let trial := s.warden.trial
  let s := enterFault s 6 0
  if trial then trialFails s else s

/-- The boot ROM's choice of a slot (R382): the pending slot as a trial; the active slot; else the other slot, when it is
marked valid, which is then the active one (log entry 34). -/
def chooseSlot (s : State) : State :=
  let w := s.warden
  let other := slotImage w (!w.activeSlot)
  if w.fwState = .pending then
    let s := { s with warden := { w with trial := true } }
    match bootVerify w other with
    | none => startImage s other
    | some k => trialFails (logBoot s k)
  else
    let s := if w.fallbackNext then setFallback { s with warden := { w with fallbackNext := false } } else s
    match bootVerify w (slotImage w w.activeSlot) with
    | none => startImage s (slotImage w w.activeSlot)
    | some k =>
      if slotValid w (!w.activeSlot) && (bootVerify w other).isNone then
        let s := setFallback s
        startImage { s with warden := partWrite { s.warden with activeSlot := !w.activeSlot } } other
      else bootFails (logBoot s k)

/-- The boot start (R412): the resets that held the chip have ended. -/
def bootStart (s : State) (seedOk : Bool) : State :=
  let s := { s with
    dev := { s.dev with bootFrom := some s.clk.ticks }
    pins := { s.pins with perst := false, linkReset := false }
    warden := { s.warden with bootCount := s.warden.bootCount + 1 } }
  if seedOk then chooseSlot s
  else bootFails (if s.warden.fwState = .pending then { s with warden := { s.warden with trial := true } } else s)

/-- A core fails its self-test in BOOTING (R364). -/
def bootCoreOut (s : State) (c : Nat) : State :=
  let s := putCore s c { getCore s c with st := .outOfService, outReason := .selfTest }
  let s := ((List.range 8).map (8 * c + ·)).foldl (fun s n => putSluice s n { st := .offline }) s
  setCoreOut (logFault s 0x32 4 1 c none 0 0 (coreErr (getCore s c)))

/-- PWR_BRAKE_N takes effect (R341): every core in service at duty 1/8, and m = 8 in throughput mode. -/
def applyBrake (s : State) : State :=
  let s := { s with pump := { s.pump with
    brake := true, brakeDuty := 1, brakeFlag := true, brakeCount := s.pump.brakeCount + 1 } }
  (List.range 16).foldl brakeCore s

/-- The tick at which a trial boot has failed for want of READY: 3 s after the boot start. -/
def trialLimit (s : State) : Nat := s.dev.bootFrom.getD 0 + us 3000000

end Sys2Proof.Machine
end

