-- ==== Sys2Proof/Machine/Boot.lean ====
section
/-!
DEFINITION. The rows of resets, chip power, boot, LOW_POWER and device faults (chapters 02, 15, 16).
-/
namespace Sys2Proof.Machine

/-- LOW_POWER ends: the rails return from the 0.60 V of retention to what each core's m needs, and LPDDR5X leaves self-refresh
(R328, R347). -/
def leaveLowPower (s : State) : State :=
  let s := (List.range 16).foldl (fun s c => putPower s c { getPower s c with railMv := railFor s c (getPower s c).m }) s
  { s with dev := { s.dev with wakeFrom := none }, selfRefresh := false }

/-- DEVICE_FAULT (R40, Table 2.5a): an uncorrectable fault of a chip-level unit. -/
def execDeviceFault (unit : BitVec 8) (s : State) : Out :=
  match s.dev.state with
  | .ready | .active | .quiescing => ok (enterFault s unit.toNat 0)
  | .lowPower => ok (enterFault (leaveLowPower s) unit.toNat 0)
  | .standby | .booting | .fault => .next s

/-- LOW_POWER_ENTRY (Table 2.5a, R303, R347): IDLE_ENTRY after the latest of its three moments; never in repeatable mode. A
rail that was being raised falls to 0.60 V with the others, and its divider stays (R328). -/
def execLowPowerEntry (s : State) : Out :=
  if s.dev.state = .ready && s.dev.lowPowerEn && !s.lock.repeatable then
    let s := advanceTo s (s.dev.idleFrom + us s.dev.idleEntry.toNat)
    let s := setDevState { s with dev := { s.dev with wakeFrom := none }, selfRefresh := true } .lowPower
    let s := (List.range 16).foldl (fun s c => putPower s c { getPower s c with railMv := 600, raising := none }) s
    ok ((List.range 12).foldl (fun s p =>
      let x := getPort s p
      if x.link = .up && !isEth s p then putPort s p { x with link := .keepAlive, widen := false } else s) s)
  else .next s

/-- WAKE_COMPLETE (R347): READY after a wake trigger. -/
def execWakeComplete (s : State) : Out :=
  if s.dev.state = .lowPower && s.dev.wakeFrom.isSome then ok (setDevState (leaveLowPower s) .ready) else .next s

/-- PERST_N_ASSERT (R412): a device reset that holds the chip; no effect in STANDBY (R415). -/
def execPerstNAssert (s : State) : Out :=
  if s.pins.powered then .next (deviceReset { s with pins := { s.pins with perst := true } }) else .next s

/-- MOD_RESET_N_ASSERT (R412). -/
def execModResetNAssert (s : State) : Out := .next (resetIf { s with pins := { s.pins with modReset := true } })

/-- MOD_RESET_N_RELEASE (R415): in STANDBY a request for power, which a refusal does not remember. -/
def execModResetNRelease (s : State) : Out :=
  let was := s.pins.modReset
  let s := { s with pins := { s.pins with modReset := false } }
  .next (if was && s.pins.vin && !s.pins.powered then (requestPower s).2 else s)

/-- A link event of R411 on a link that is up. -/
def linkReset (s : State) : Out :=
  if s.pins.powered && hostUp s then .next (deviceReset { s with pins := { s.pins with linkReset := true } }) else .next s

/-- PCIE_HOT_RESET (R411). -/
def execPcieHotReset (s : State) : Out := linkReset s

/-- D3HOT_TO_D0 (R411). -/
def execD3hotToD0 (s : State) : Out := linkReset s

/-- PCIE_LINK_LOSS (R411). -/
def execPcieLinkLoss (s : State) : Out := linkReset s

/-- VIN_RISE (R413): the warden restarts with its default caps; AUTO_POWER of the operator section powers the chip, unless a trip is
latched, for which only a request does (R346, R378). `intact` is whether the newer copy of that section is intact: a loss of
standby power during its write leaves the older one in force. -/
def execVinRise (intact : Bool) (s : State) : Out :=
  if s.pins.vin then .next s
  else
    let o := s.warden.operator
    let s := deviceReset { s with warden := { s.warden with operator := { o with intact := o.intact && intact } } }
    let s := { s with
      dev := { s.dev with state := .standby }
      pins := { s.pins with vin := true, thermTrip := s.warden.tripped }
      pump := { s.pump with wardenPeak := 1650, wardenSustained := 1650 }
      warden := { s.warden with challenge := [], alert := false, fallbackDue := false } }
    .next (if s.rcd.autoPower && !s.warden.tripped then powerOn s else s)

/-- VIN_LOSS (R407): the module is unpowered. -/
def execVinLoss (s : State) : Out :=
  if s.pins.vin then
    let s := powerOff s
    .next { s with
      pins := { s.pins with vin := false, thermTrip := false }
      warden := { s.warden with alert := false, fallbackDue := false } }
  else .next s

/-- BOOT_START (R381, R412): the last reset that held a powered chip ends. -/
def execBootStart (seedOk : Bool) (s : State) : Out :=
  if s.pins.powered && !s.pins.modReset && s.dev.state = .booting && s.dev.bootFrom.isNone then ok (bootStart s seedOk)
  else .next s

/-- BOOT_COMPLETE (R364, R381, Table 2.5a): READY with the cores that passed, or the failure of BOOTING. -/
def execBootComplete (r : BootResult) (s : State) : Out :=
  if s.dev.state = .booting && s.dev.firmware then
    if s.warden.trial && trialLimit s < s.clk.ticks then .next (trialFails s)
    else if r.ddrTrained && r.polderOk && r.coresOk != 0 then
      let s := (List.range 16).foldl (fun s c => if r.coresOk.getLsbD c then s else bootCoreOut s c) s
      let s := if s.warden.trial then trialWorks s else s
      let s := setDevState s .ready
      ok (if s.pins.brake then applyBrake s else s)
    else ok (bootFails s)
  else .next s

/-- TRIAL_TIMEOUT (R382): 3 s after the boot start without READY. -/
def execTrialTimeout (s : State) : Out :=
  if s.warden.trial && s.dev.state = .booting then .next (trialFails (advanceTo s (trialLimit s))) else .next s

/-- FALLBACK_POWER_ON (R382): the warden powers the chip again after a failed trial. -/
def execFallbackPowerOn (s : State) : Out :=
  if s.warden.fallbackDue && s.pins.vin && !s.pins.powered then .next (powerOn s) else .next s

end Sys2Proof.Machine
end

