-- ==== Sys2Proof/Machine/Control.lean ====
section
/-!
DEFINITION. The rows of the command processor and the control commands (chapters 02, 12, 13, 14): fetch, coalescing, NOP to
CORE_ONLINE.
-/
namespace Sys2Proof.Machine

/-- COMMAND_FETCH (R27): the inlet's next slot, when it is the one served. -/
def execCommandFetch (i : Fin 64) (slot : List Byte) (s : State) : Out :=
  if !wantsFetch s i.val then .next s
  else if outfallRoom (getOutfall s i.val) = 0 then .next (stallFetch s i.val)
  else if pickInlet s ((List.range 64).filter (fetchable s)) s.clk.fetchTurn != some i.val then .next s
  else if headerOk slot then ok (fetchSlot s i.val slot)
  else .fault (.badHeader (fieldLe slot 0 2))

/-- COALESCE_TIMER (R34): COALESCE_TIME after the oldest entry not yet signalled. -/
def execCoalesceTimer (i : Fin 64) (s : State) : Out :=
  let o := getOutfall s i.val
  match o.oldest with
  | some t =>
    if o.coalesceTime = 0 then .next s else ok (raiseVector (advanceTo s (t + us o.coalesceTime.toNat)) i.val)
  | none => .next s

/-- NOP (R37): complete at dispatch. -/
def execNop (i : Fin 64) (s : State) : Out :=
  issue s i (opSel 0x0001) (fun s c => checked c 0 true (.next s))

/-- EVENT_SIGNAL (R37): the entries are applied in order at dispatch. -/
def execEventSignal (i : Fin 64) (s : State) : Out :=
  issue s i (opSel 0x0002) (fun s c =>
    checked c c.hdr.paramLen (0 < c.hdr.paramLen && (signalEntries c).all (fun e => e.2.1 ≤ 1))
      (.next ((signalEntries c).foldl applySignal s)))

/-- EVENT_WAIT (R37). -/
def execEventWait (i : Fin 64) (s : State) : Out :=
  issue s i (opSel 0x0003) (fun s c =>
    checked c c.hdr.paramLen (0 < c.hdr.paramLen) (.next (startWork s c (.waitEvents (waitEntries s c)))))

/-- FENCE (R37). -/
def execFence (i : Fin 64) (s : State) : Out :=
  issue s i (opSel 0x0004) (fun s c =>
    checked c 1 (c.par 0 1 ≤ 1) (.next (startWork s c (.fence (c.par 0 1 = 1)))))

/-- QUERY (R37). -/
def execQuery (i : Fin 64) (s : State) : Out :=
  issue s i (opSel 0x0013) (fun s c =>
    match queryResult s (c.par 0 2) (c.par 2 2) (c.par 4 1) with
    | some d => checked c 1 (c.par 5 3 = 0) (doneWith s c d)
    | none => checked c 1 false (.next s))

/-- DIKE (R318). -/
def execDike (i : Fin 64) (s : State) : Out :=
  issue s i (opSel 0x0005) (fun s c =>
    let g := c.par 0 2
    checked c 1 (g < 256) (withGroup s c g (checked c 1 (c.par 2 6 = 0)
      (let q := takeSeq s g
       .next (startWork q.2 c (.dike { group := g, seq := q.1, n := groupSize s g, rank := groupRank s g }))))))

/-- TIDE_LAUNCH (R317): rejected unless the module tracks and the count, rounded under ALIGN, is yet to come. -/
def execTideLaunch (i : Fin 64) (s : State) : Out :=
  issue s i (opSel 0x0006) (fun s c =>
    let n := if bitOf (c.par 8 1) 0 then roundUp (c.par 0 8) 716800 else c.par 0 8
    checked c 2 true
      (if s.tide.st != .tracking || n ≤ s.tide.count.toNat then .next (reject s c.id 0x06 s.tide.st.code 0)
       else checked c 2 (c.par 8 1 ≤ 1 && c.par 9 7 = 0 && n < 2 ^ 64) (.next (startWork s c (.launch n)))))

/-- Let the tide counter reach the master's tick `n`, if it is not past (R317, R318). -/
def reachCount (s : State) (n : Nat) : State := advance s (masterAt s n - s.tide.count.toNat)

/-- LAUNCH_FIRE (R317): the launch, where the offset estimate places the master's tick; DETAIL is the count used. -/
def execLaunchFire (c : CmdId) (s : State) : Out :=
  match findCmd s c with
  | none => .next s
  | some k => match k.work with
    | .launch n => ok (setWork (reachCount s n) c (.done n))
    | _ => .next s

/-- ABORT (R374). -/
def execAbort (i : Fin 64) (s : State) : Out :=
  issue s i (opSel 0x0008) (fun s c =>
    let scope := c.par 0 1
    checked c 2 (scope ≤ 2 && c.par 1 1 = 0 && (scope = 2 || c.par 2 2 < 64) && c.par 8 8 = 0)
      (let names := abortNames s c.id scope (c.par 2 2) (c.par 4 4) c.inlet
       let s := abortHalts s scope (c.par 2 2) c.inlet
       let s := names.foldl (fun s id => failCmd s id (localCause s .abortCmd 0 c.inlet)) s
       .next (startWork s c (.abort names names.length))))

/-- SET_MODE (R306): rejected while another command is in flight; DETAIL is the MFLAGS in force before. -/
def execSetMode (i : Fin 64) (s : State) : Out :=
  issue s i (opSel 0x0010) (fun s c =>
    if 1 < s.cmds.length then .next (reject s c.id 0x00 s.dev.state.code 0)
    else
      let f := c.par 0 1
      let lead := c.par 4 2
      checked c 2 (f < 4 && c.par 1 1 = 0 && c.par 2 2 < 4096 && (lead = 0 || (16 ≤ lead && lead ≤ 4096)) &&
          c.par 6 8 = 0 && c.par 14 2 = 0)
        (doneWith (applyMode s (bitOf f 0) (bitOf f 1) (BitVec.ofNat 12 (c.par 2 2)) lead) c (modeFlags s)))

/-- SET_CAP (R333): the caps change now; it completes at the next slow-loop boundary. -/
def execSetCap (i : Fin 64) (s : State) : Out :=
  issue s i (opSel 0x0011) (fun s c =>
    let p := c.par 0 2
    let u := c.par 2 2
    let peak := if p = 0 then s.pump.capPeak.toNat else p
    checked c 1 ((p = 0 || (500 ≤ p && p ≤ 1650)) && (u = 0 || (500 ≤ u && u ≤ peak)) && c.par 4 4 = 0)
      (.next (startWork (changeCaps s (fun q => { q with
          capPeak := if p = 0 then q.capPeak else BitVec.ofNat 16 p
          capSustained := if u = 0 then q.capSustained else BitVec.ofNat 16 u })) c (.setCap (capWord s.pump)))))

/-- SET_WEIR (R217): rejected while another command is in flight; it takes effect at the next window boundary, after what the
present window brought. -/
def execSetWeir (i : Fin 64) (s : State) : Out :=
  issue s i (opSel 0x0012) (fun s c =>
    if 1 < s.cmds.length then .next (reject s c.id 0x00 s.dev.state.code 0)
    else checked c 2 (weirOk c.params) (.next (startWork (weirServe s) c (.setWeir (weirWord s.weir)))))

/-- CORE_OFFLINE (R365). -/
def execCoreOffline (i : Fin 64) (s : State) : Out :=
  issue s i (opSel 0x0014) (fun s c =>
    let k := c.par 0 1
    checked c 1 (k < 16)
      (if !coreIn s k || coreCount s ≤ 1 then .next (reject s c.id 0x08 (getCore s k).st.code k)
       else checked c 1 (c.par 1 7 = 0)
        (let s := takeOffline s k .host
         doneWith s c (coreMask s))))

/-- CORE_ONLINE (R366): `pass` is the outcome of the self-test. A core that is being reset while out of service stays so through
the reset (R421): the test begins once that has ended (DESIGN CHOICE, log entry 152). -/
def execCoreOnline (i : Fin 64) (pass : Bool) (s : State) : Out :=
  issue s i (opSel 0x0015) (fun s c =>
    let k := c.par 0 1
    checked c 1 (k < 16)
      (if (getCore s k).st != .outOfService then .next (reject s c.id 0x08 (getCore s k).st.code k)
       else checked c 1 (c.par 1 7 = 0)
        (let s := endReset s k
         if pass then
          let s := bringOnline s k
          doneWith s c (coreMask s)
         else .next (finish (selfTestFailed s k) c.id .coreOffline (2 ^ k)))))

end Sys2Proof.Machine
end

