-- ==== Sys2Proof/Machine/Culvert.lean ====
section
/-!
DEFINITION. The rows of KV export and RoCEv2 (chapter 09): channels, `EXPORT_KV`, queue pairs, copy streams, frames, and
inbound requests and acknowledgements.
-/
namespace Sys2Proof.Machine

/-- A destination descriptor (Table 9.3). -/
def destOf (b : List Byte) : Dest :=
  { kind := fieldLe b 0 1, qp := fieldLe b 2 2, chip := fieldLe b 4 2, window := fieldLe b 6 2, gen := fieldLe b 8 2
    event := fieldLe b 10 2, rkey := fieldLe b 12 4, pageTable := fieldLe b 16 8, trailerBase := fieldLe b 24 8 }

/-- The descriptors of an `EXPORT_BIND`. -/
def bindDests (c : Cmd) : List Dest := (List.range (c.par 1 1)).map (fun d => destOf ((c.params.drop (64 + 48 * d)).take 48))

/-- The values of a descriptor (Table 9.3). -/
def destOk (c : Cmd) (d : Nat) : Bool :=
  let b := (c.params.drop (64 + 48 * d)).take 48
  let x := destOf b
  (x.kind = 1 && x.qp < 16384 || x.kind = 2 && x.chip < 4096 && x.window < 4096) && fieldLe b 1 1 = 0 && fieldLe b 32 16 = 0

/-- The channel that an `EXPORT_BIND` binds (Table 9.2). -/
def bindOf (c : Cmd) (seq : W16) : Channel :=
  { st := .bound, bindSeq := seq, cvt := c.par 2 1, layout := c.par 3 1, pageTokens := c.par 4 2, heads := c.par 6 2
    dim := c.par 8 2, layer0 := c.par 10 2, layers := c.par 12 2, rsId := c.par 14 2, tag := c.par 16 4
    firstPos := c.par 20 4, endPos := c.par 24 4, timeoutUs := orElse (c.par 28 4) 100000
    stallUs := orElse (c.par 32 4) 1000, kCol := c.par 36 4, vCol := c.par 40 4, crc := bitOf (c.par 44 2) 0
    stageAddr := c.par 48 8, stageBytes := c.par 56 8, dests := bindDests c }

/-- The values of an `EXPORT_BIND` (Tables 9.2, 9.3). -/
def bindOk (c : Cmd) : Bool :=
  let t := c.par 28 4
  let u := c.par 32 4
  c.par 0 1 < 16 && c.par 2 1 < 64 && [0x1, 0x3, 0x9].contains (c.par 2 1 % 16) && c.par 3 1 < 4 &&
    [16, 32, 64, 128, 256, 512, 1024].contains (c.par 4 2) && 1 ≤ c.par 6 2 && c.par 6 2 ≤ 256 &&
    [64, 96, 128, 192, 256].contains (c.par 8 2) && c.par 10 2 < 4096 && 1 ≤ c.par 12 2 && c.par 12 2 ≤ 4096 &&
    c.par 20 4 < c.par 24 4 && c.par 24 4 ≤ 2 ^ 24 && (t = 0 || (1000 ≤ t && t ≤ 10000000)) &&
    (u = 0 || (10 ≤ u && u ≤ 1000000)) && c.par 44 2 < 2 && c.par 46 2 = 0 && c.par 48 8 % 65536 = 0 &&
    c.par 56 8 % 65536 = 0 && (List.range (c.par 1 1)).all (destOk c)

/-- The first destination that the check of Table 2.8 refuses: scope, state code and index (R227). -/
def destRefused (s : State) (x : Dest) : Option (Nat × Nat × Nat) :=
  if x.kind = 1 then
    if (getQp s x.qp).st = .free then some (0x04, (getQp s x.qp).st.code, x.qp) else none
  else if x.chip = s.rcd.chipId.toNat && (getWindow s x.window).st != .open then
    some (0x02, (getWindow s x.window).st.code, x.window)
  else none

/-- Every page table of an export can be read. -/
def tablesOk (x : Channel) : Bool := x.dests.all (fun d => rangeRead d.pageTable (8 * (x.npages * x.layers)))

/-- EXPORT_BIND (R227). -/
def execExportBind (i : Fin 64) (s : State) : Out :=
  issue s i (opSel 0x0307) (fun s c =>
    let n := c.par 1 1
    let ch := c.par 0 1
    checked c (8 + 6 * n) (ch < 16)
      (let x := getChannel s ch
       if x.st != .free then .next (reject s c.id 0x0A x.st.code ch)
       else checked c (8 + 6 * n) (1 ≤ n && n ≤ 8 && (List.range n).all (destOk c))
        (match (bindDests c).findSome? (destRefused s) with
          | some r => .next (reject s c.id r.1 r.2.1 r.2.2)
          | none => checked c (8 + 6 * n) (bindOk c)
            (let b := bindOf c (x.bindSeq + 1)
             reaches (rangeOk b.stageAddr b.stageBytes) b.stageAddr
              (reaches (tablesOk b) 0 (doneWith (putChannel s ch b) c b.bindSeq.toNat))))))

/-- Go on when the channel that an `EXPORT_KV` names is bound; else scope 0x0A (Table 2.8). -/
def withBound (s : State) (c : Cmd) (k : Out) : Out :=
  let ch := c.par 1 1
  checked c 5 (ch < 16)
    (if (getChannel s ch).st = .bound then k else .next (reject s c.id 0x0A (getChannel s ch).st.code ch))

/-- The parameter block that every operation of `EXPORT_KV` shares (Table 9.8). -/
def exportOk (c : Cmd) : Bool := c.par 1 1 < 16 && c.par 5 1 = 0 && c.par 36 4 = 0

/-- The work of a SOURCE (Table 9.8). -/
def sourceOf' (c : Cmd) : SourceWork :=
  { channel := c.par 1 1, layout := c.par 2 1, kFmt := c.par 3 1, vFmt := c.par 4 1, layer := c.par 6 2, kBase := c.par 8 8
    vBase := c.par 16 8, hstride := c.par 24 4, pos := c.par 28 4, posB := c.par 32 4 }

/-- Every vector that a SOURCE reads lies in memory that can be read. -/
def sourceReads (s : State) (w : SourceWork) : Bool :=
  (List.range (sourceCount (getChannel s w.channel) w)).all (fun n =>
    let r := sourceRange s w n
    rangeRead r.1 r.2)

/-- SOURCE (R245). -/
def execSource (i : Fin 64) (s : State) : Out :=
  issue s i (exportSel 0) (fun s c =>
    let w := sourceOf' c
    withBound s c
      (checked c 5 (exportOk c)
        (checked c 5 ([1, 2, 3, 4].contains w.kFmt && [1, 2, 3, 4].contains w.vFmt && w.layout ≤ 1 && w.pos ≤ w.posB && w.posB ≤ 2 ^ 24)
          (reaches (sourceReads s w) w.kBase (.next (startWork s c (.source w)))))))

/-- A bound channel is sealed: pages that are not complete are dropped and counted; nothing waits for a buffer (R243,
Table 9.1; log entry 31). -/
def sealChannel (x : Channel) : Channel :=
  { x with
    st := .sealing, stalls := [], incomplete := x.pages.countP (fun p => p.2.completeAt.isNone)
    pages := x.pages.filter (fun p => p.2.completeAt.isSome) }

/-- SEAL (R243). -/
def execSeal (i : Fin 64) (s : State) : Out :=
  issue s i (exportSel 1) (fun s c =>
    let ch := c.par 1 1
    withBound s c
      (checked c 5 (exportOk c)
        (.next (sealCheck (startWork (putChannel s ch (releasePages (sealChannel (getChannel s ch)))) c (.seal ch)) ch))))

/-- PULL (R246). -/
def execPull (i : Fin 64) (s : State) : Out :=
  issue s i (exportSel 2) (fun s c =>
    let q := c.par 6 2
    let n := c.par 28 4
    withBound s c
      (checked c 5 (exportOk c && q < 16384 && 1 ≤ n && n ≤ 2 ^ 31)
        (reaches (rangeOk (c.par 8 8) n) (c.par 8 8)
          (if (getQp s q).st != .ready then .next (qpFails s c.id (c.par 1 1))
           else .next (pullReads (startWork s c (.pull q (c.par 8 8) n 0)) c.id q (c.par 24 4) (c.par 16 8) n)))))

/-- MESSAGE (R247). -/
def execMessage (i : Fin 64) (s : State) : Out :=
  issue s i (exportSel 3) (fun s c =>
    let q := c.par 6 2
    let a := c.par 8 8
    let n := c.par 28 4
    withBound s c
      (checked c 5 (exportOk c && q < 16384 && 1 ≤ n && n ≤ 256)
        (reaches (rangeRead a n) a
          (if (getQp s q).st != .ready then .next (qpFails s c.id (c.par 1 1))
           else readsWell s c [(0, a, n)] (fun s =>
            (let s := startWork s c (.message q)
             .next (qpSend s q (.send (readMem s a n)) (.cmd c.id))))))))

/-- The values of `QP_SETUP` (Table 9.10). -/
def qpOk (s : State) (c : Cmd) : Bool :=
  let p := c.par 2 1
  let v4 := !bitOf (c.par 3 1) 0
  c.par 0 2 < 16384 && p < 32 && p % 16 < 12 && (p < 16 || !isEth s (p % 16) || s.rcd.portMode.getD (p % 16) 0 = 2) &&
    c.par 3 1 < 32 && 1 ≤ c.par 4 1 && c.par 4 1 ≤ 5 && c.par 5 1 < 64 && 1 ≤ c.par 6 1 && c.par 6 1 ≤ 20 &&
    c.par 7 1 < 128 && !bitOf (c.par 7 1) 3 && c.par 8 4 < 2 ^ 24 && c.par 12 4 < 2 ^ 24 && c.par 16 4 < 2 ^ 24 &&
    !bitOf (c.par 20 2) 12 && 1 ≤ c.par 31 1 && c.par 31 1 ≤ 16 &&
    (!v4 || (c.par 36 12 = 0 && c.par 52 12 = 0)) && c.par 64 8 % 64 = 0 && 4 ≤ c.par 72 1 && c.par 72 1 ≤ 12 &&
    c.par 84 12 = 0

/-- The queue pair that `QP_SETUP` brings to READY (R251). -/
def qpOf (s : State) (c : Cmd) : Qp :=
  let x : Qp :=
    { st := .ready, par := c.params, psn := BitVec.ofNat 24 (c.par 12 4), rq := BitVec.ofNat 24 (c.par 16 4)
      lastProgress := s.clk.ticks, lastPeriod := s.clk.ticks }
  { x with rc := (macRate s x, 0), rt := (macRate s x, 0) }

/-- QP_SETUP (R251). -/
def execQpSetup (i : Fin 64) (s : State) : Out :=
  issue s i (opSel 0x0308) (fun s c =>
    let q := c.par 0 2
    checked c 12 (q < 16384 && c.par 2 1 % 16 < 12)
      (if (getQp s q).st != .free || !isEth s (c.par 2 1 % 16) then .next (reject s c.id 0x04 (getQp s q).st.code q)
       else checked c 12 (qpOk s c)
        (reaches (rangeOk (c.par 64 8) (4 * 2 ^ c.par 72 1)) (c.par 64 8) (doneWith (putQp s q (qpOf s c)) c 0))))

/-- A queue pair is torn down: its requests leave the receive buffer unserved, and no packet of it leaves again (R251). -/
def tearDown (s : State) (q : Nat) : State :=
  let p := (getQp s q).port
  let s := putQp (qpLose s q .free .qpTornDown) q {}
  let l := s.net.inbound.filter (fun e => match e with | .roce r _ _ => r != q | _ => true)
  pfcCheck { s with net := { s.net with inbound := l } } p

/-- QP_TEARDOWN (R251). -/
def execQpTeardown (i : Fin 64) (s : State) : Out :=
  issue s i (opSel 0x0309) (fun s c =>
    let q := c.par 0 2
    checked c 1 (q < 16384)
      (if (getQp s q).st = .free then .next (reject s c.id 0x04 0 q)
       else checked c 1 (c.par 2 6 = 0) (doneWith (tearDown s q) c 0)))

/-- SEGMENT_SEND (R235): a destination's next complete segment, with the page's trailer after its last. -/
def execSegmentSend (ch : Fin 16) (dest : Fin 8) (s : State) : Out := ok (sendSegment s ch.val dest.val)

/-- EXPORT_TIMEOUT (R240). -/
def execExportTimeout (ch : Fin 16) (dest : Fin 8) (s : State) : Out := ok (timeoutDest s ch.val dest.val)

/-- STALL_LIMIT (R241). -/
def execStallLimit (ch : Fin 16) (s : State) : Out := ok (stallOut s ch.val)

/-- The receive buffer of an Ethernet port, 1 MiB, has room for a frame; without PFC one that finds it full is dropped
(R256). -/
def bufferRoom (s : State) (p n : Nat) : Bool :=
  (s.rcd.pfc.getD p none).isSome || waitingBytes s p none + n ≤ 2 ^ 20

/-- FRAME_RECEIVE (R249, R251, R255, R256): dropped and counted, or kept; a CE mark is answered with a CNP. -/
def execFrameReceive (p : Fin 12) (f : Frame) (s : State) : Out :=
  if !(isEth s p.val && portUp s p.val) then .next s
  else
  let s := noteFec s p.val f.fec
  if frameKept s p.val f && bufferRoom s p.val f.bytes then
    let q := f.qpn.toNat - 0x4000
    let s := wakeTrigger s
    .next (if f.ce && 0x4000 ≤ f.qpn.toNat && q < 16384 then answerCe s q else s)
  else
    let x := getPort s p.val
    .next (putPort s p.val { x with framesDropped := x.framesDropped + 1 })

/-- An inbound request of a queue pair in sequence is taken; any other is answered or dropped (R251, R254). -/
def inboundThen (s : State) (q : Nat) (psn : BitVec 24) (ask : State → RoceAsk) : Out :=
  let s := wakeTrigger s
  match inboundOf (getQp s q) psn with
  | .take => ok (inboundTake s q psn (ask s))
  | o => .next (inboundElse s q o)

/-- What a WRITE asks, with or without an immediate (R252, R253). -/
def askWrite (q : Nat) (rkey : W32) (va : W64) (data : List Byte) (imm : Option W32) (s : State) : RoceAsk :=
  if keyRefuses s (getQp s q) rkey .rdmaWrite (va.toNat + data.length) then .refused (keyWindow rkey)
  else .write (keyWindow rkey) (getWindow s (keyWindow rkey)).base va data imm

/-- RDMA_WRITE_RECEIVE (R252). -/
def execRdmaWriteReceive (q : Fin 16384) (psn : BitVec 24) (rkey : W32) (va : W64) (data : List Byte) (s : State) : Out :=
  inboundThen s q.val psn (askWrite q.val rkey va data none)

/-- WRITE_IMMEDIATE_RECEIVE (R252, R253). -/
def execWriteImmediateReceive (q : Fin 16384) (psn : BitVec 24) (rkey : W32) (va : W64) (data : List Byte) (imm : W32)
    (s : State) : Out :=
  inboundThen s q.val psn (askWrite q.val rkey va data (some imm))

/-- RDMA_READ_RECEIVE (R252). -/
def execRdmaReadReceive (q : Fin 16384) (psn : BitVec 24) (rkey : W32) (va : W64) (n : Nat) (s : State) : Out :=
  inboundThen s q.val psn (fun s =>
    if keyRefuses s (getQp s q.val) rkey .rdmaRead (va.toNat + n) then .refused (keyWindow rkey)
    else .read (keyWindow rkey) (getWindow s (keyWindow rkey)).base va n)

/-- ROCE_SEND_RECEIVE (R250): a SEND or atomic is refused with NAK invalid request. -/
def execRoceSendReceive (q : Fin 16384) (psn : BitVec 24) (s : State) : Out := inboundThen s q.val psn (fun _ => .invalid)

/-- ROCE_ACK_RECEIVE (R254). -/
def execRoceAckReceive (q : Fin 16384) (a : RoceAck) (s : State) : Out := ok (recvRoceAck (wakeTrigger s) q.val a)

/-- READ_RESPONSE_RECEIVE (R246). -/
def execReadResponseReceive (q : Fin 16384) (data : List Byte) (s : State) : Out :=
  let s := wakeTrigger s
  if (getQp s q.val).st = .ready then ok (pullData s q.val data) else .next s

/-- LOCAL_ACK_TIMEOUT (R254): 4.096 us * 2^TIMEOUT without progress while packets are unacknowledged. -/
def execLocalAckTimeout (q : Fin 16384) (s : State) : Out :=
  let x := getQp s q.val
  if x.st = .ready && !x.unacked.isEmpty then ok (qpRetry (advanceTo s (x.lastProgress + x.timeout)) q.val) else .next s

/-- CNP_RECEIVE (R255). -/
def execCnpReceive (q : Fin 16384) (s : State) : Out := .next (recvCnp (wakeTrigger s) q.val)

/-- ECN_PERIOD (R255). -/
def execEcnPeriod (q : Fin 16384) (s : State) : Out := ok (ecnRaise s q.val)

/-- PFC_PAUSE_RECEIVE (R256): counted; honoured for the priority for which PFC is enabled on the port. -/
def execPfcPauseReceive (p : Fin 12) (prio : BitVec 3) (pause : Bool) (s : State) : Out :=
  if !(isEth s p.val && portUp s p.val) then .next s
  else
    let x := getPort s p.val
    let x := { x with pfcPauseRx := x.pfcPauseRx + 1 }
    if (s.rcd.pfc.getD p.val none) = some prio.toNat then
      let s := putPort s p.val { x with paused := pause }
      ok (if pause then s else unpause s p.val)
    else .next (putPort s p.val x)

end Sys2Proof.Machine
end

