-- ==== Sys2Proof/Machine/HostAccess.lean ====
section
/-!
DEFINITION. The rows of host accesses: doorbells, register writes, the aperture, the security mailbox (chapters 02, 08, 11,
13, 14, 15). A link that does not answer takes no access (Table 2.5).
-/
namespace Sys2Proof.Machine

/-- A host access: without an answering link it has no effect; otherwise what follows from it follows at once. -/
def host (s : State) (k : State → Out) : Out := if hostUp s then settled (k s) else .next s

/-- A doorbell at offset 0 of an inlet's page (R19, R21, R46); it wakes the device (Table 2.5a). -/
def ring (s : State) (i : Nat) (v : W32) : Out :=
  let s := wakeTrigger s
  let x := getInlet s i
  let t := v.toNat % 65536
  if x.state != .open then .next (setInletFlag s i .ignored)
  else if t < 2 ^ x.sizeLog2.toNat then .next (putInlet s i { x with tail := BitVec.ofNat 16 t })
  else .fault (.badTail i)

/-- DOORBELL (R19). Writes to other offsets of the page are ignored. -/
def execDoorbell (i : Fin 64) (off : BitVec 12) (v : W32) (s : State) : Out :=
  host s (fun s => if off = 0 then ring s i.val v else .next s)

/-- ENABLE_WRITE (R41): a write to INLET_CTL. -/
def execEnableWrite (i : Fin 64) (v : W32) (s : State) : Out := host s (fun s => .next (inletCtl s i.val v))

/-- RESUME (R41). -/
def execResume (i : Fin 64) (s : State) : Out := host s (fun s => .next (resumeInlet s i.val))

/-- QUIESCE_WRITE (R39). -/
def execQuiesceWrite (q : Bool) (s : State) : Out := host s (fun s => .next (writeQuiesce s q))

/-- WAKE (R38). -/
def execWake (s : State) : Out := host s (fun s => .next (wakeTrigger s))

/-- W1C_CLEAR (R9). -/
def execW1cClear (r : FlagReg) (mask coincident : W32) (s : State) : Out :=
  host s (fun s => .next (clearWithSets s r mask coincident))

/-- EVENT_COUNTER_WRITE (R26): the host's value first, then the increments of the same cycle. -/
def execEventCounterWrite (n : W16) (v inc : W32) (s : State) : Out :=
  host s (fun s => .next (setEvent s n.toNat (v + inc)))

/-- REGISTER_WRITE (R8, R10, R47). -/
def execRegisterWrite (addr : BitVec 20) (wide : Bool) (v : W64) (s : State) : Out :=
  host s (fun s => writeBar s addr.toNat wide v)

/-- A byte of a slot that an array command holds on its core (R198). -/
def heldSlot (s : State) (a : Nat) : Bool := inStride 0x1000000000 0x400000 a && (getSlot s (slotOf a)).holder.isSome

/-- A range that touches such a slot. -/
def heldRange (s : State) (a n : Nat) : Bool :=
  (List.range (n / 65536 + 2)).any (fun i => 0 < n && heldSlot s (min (a + n - 1) (a + 65536 * i)))

/-- The device address that a BAR4 offset stands for (R54, R199). -/
def apAddr (s : State) (off : BitVec 30) : Nat := s.ap.base.toNat * 2 ^ 30 + off.toNat

/-- A write through the aperture (R198, R199). -/
def apWrite (s : State) (a : Nat) (data : List Byte) : Out :=
  if isAcc a && rangeRead a data.length then .next s
  else if !rangeOk a data.length || heldRange s a data.length then .fault (.badAddress a)
  else .next (writeMem (ddrTake s .remote false a data.length) a data)

/-- APERTURE_WRITE (R199). -/
def execApertureWrite (off : BitVec 30) (data : List Byte) (s : State) : Out :=
  host s (fun s => apWrite s (apAddr s off) data)

/-- A read through the aperture (R198, R224): a read of an accumulator view gives free bytes (log entry 5); one that meets
an error is poisoned, with a record of class 0x03. -/
def apRead (s : State) (a n : Nat) : Out :=
  if !rangeRead a n then .fault (.badAddress a)
  else
    let s := ddrTake s .remote false a n
    let keys := (granules a n).map badKey
    if rangeBad s a n || s.ap.flaws.any keys.contains then
      .next (logFault { s with ap := { s.ap with
          read := { data := [], poisoned := true }, flaws := s.ap.flaws.filter (fun k => !keys.contains k) } } 0x03 2 (sourceOf a).1
        (sourceOf a).2 none a 0 0)
    else
      let s' := { s with ap := { s.ap with read := { data := readMem s a n } } }
      .next (if isAcc a then { s' with free := s'.free + 1 } else s')

/-- APERTURE_READ (R198). -/
def execApertureRead (off : BitVec 30) (n : Nat) (s : State) : Out :=
  host s (fun s => apRead s (apAddr s off) n)

/-- GROUP_CONFIGURE (R291): from the descriptor at GROUP_ADDR. -/
def execGroupConfigure (g : Fin 256) (s : State) : Out := host s (fun s => groupCmd s g.val false)

/-- GROUP_REMOVE (R291). -/
def execGroupRemove (g : Fin 256) (s : State) : Out := host s (fun s => groupCmd s g.val true)

/-- RETRAIN (R277). -/
def execRetrain (p : Fin 12) (s : State) : Out := host s (fun s => .next (retrainPort s p.val))

/-- PORT_DISABLE (R304, Table 11.10). -/
def execPortDisable (p : Fin 12) (v : Bool) (s : State) : Out := host s (fun s => .next (disablePort s p.val v))

/-- JOB_ENERGY_CLEAR_SLOT (R344). -/
def execJobEnergyClearSlot (slot : BitVec 12) (s : State) : Out := host s (fun s => .next (clearSlot s slot.toNat))

/-- JOB_ENERGY_CLEAR_ALL (R351). -/
def execJobEnergyClearAll (s : State) : Out := host s (fun s => .next (clearJobs s))

/-- CORE_RESET (R367). -/
def execCoreReset (c : Fin 16) (s : State) : Out := host s (fun s => .next (coreResetWrite s c.val))

/-- CORE_RESET_DONE (R367). -/
def execCoreResetDone (c : Fin 16) (s : State) : Out := ok (endReset s c.val)

/-- MBX_GET_CHALLENGE (R393). -/
def execMbxGetChallenge (s : State) : Out := mailboxHost s 0x01 []

/-- MBX_CONFIG_READ (R393): the calibration section, or the operator section. -/
def execMbxConfigRead (sect : Bool) (s : State) : Out := mailboxHost s 0x02 [if sect then 1 else 0]

/-- MBX_CERTS (R384). -/
def execMbxCerts (s : State) : Out := mailboxHost s 0x03 []

/-- MBX_ATTEST (R390). -/
def execMbxAttest (nonce : List Byte) (s : State) : Out := mailboxHost s 0x04 nonce

end Sys2Proof.Machine
end

