-- ==== Sys2Proof/Machine/Links.lean ====
section
/-!
DEFINITION. The rows of Thondlink ports and arriving packets (chapter 11): flits, replay, breach, training, packets by
kind, forwarding, retries and the end-to-end timeout.
-/
namespace Sys2Proof.Machine

/-- Flits sent and not yet acknowledged. -/
def Port.outstanding (x : Port) : Nat := (x.txSeq - x.txBase).toNat

/-- A flit of the replay buffer, by its sequence number (R276). -/
def Port.replayFlit (x : Port) (q : BitVec 12) : Option Flit :=
  (x.replay ++ x.queue.filter (fun t => 0 < t.sent)).findSome? (fun t =>
    let j := (q - (BitVec.ofNat 12 t.endSeq - BitVec.ofNat 12 t.sent)).toNat
    if j < t.sent then some { packetFlit t.pkt t.flits j with seq := q } else none)

/-- Replay from the first flit not acknowledged (R276): counted, a timing event (Table 12.3); the eighth that brings no
advance is a breach (R277). -/
def replayPort (s : State) (p : Nat) : State :=
  let x := getPort s p
  if x.outstanding = 0 then s
  else if 8 ≤ x.tries then breachPort s p
  else
    let s := timingEvent (putPort s p { x with
      replays := x.replays + 1, tries := x.tries + 1, flitsTx := x.flitsTx + BitVec.ofNat 64 x.outstanding
      firstTry := if x.tries = 0 then s.clk.ticks else x.firstTry, advanced := s.clk.ticks }) .replay 1
    ((List.range x.outstanding).filterMap (fun j => x.replayFlit (x.txBase + BitVec.ofNat 12 j))).foldl
      (fun s f => emitFlit s p f) s

/-- The ACK field covers flits up to a sequence: they leave the replay buffer (R276). -/
def ackFlits (s : State) (p : Nat) (ack : BitVec 12) : State :=
  let x := getPort s p
  let n := (ack + 1 - x.txBase).toNat
  if n = 0 || x.outstanding < n then s
  else putPort s p { x with
    txBase := ack + 1, tries := 0, advanced := s.clk.ticks
    replay := x.replay.filter (fun t => n < (BitVec.ofNat 12 t.endSeq - x.txBase).toNat) }

/-- The CREDIT fields return credits of a virtual channel (R274). -/
def takeCredits (s : State) (p : Nat) (f : Flit) : State :=
  let x := getPort s p
  let key := 2 * f.creditVc + bit01 f.creditCls
  let max := creditsOf f.creditVc
  if 4 < f.creditVc || f.creditCnt = 0 then s
  else putPort s p { x with credits := tabSet x.credits key (min max (tabGet x.credits max key + f.creditCnt)) }

/-- A receiver discards a flit and every later one until the expected one arrives, and returns a NAK (R276; log entry 122). -/
def Port.discard (x : Port) : Port := { x with nak := x.nak || !x.discarding, discarding := true }

/-- A head or body flit that is intact counts (Table 11.10); one in order is accepted into the receive buffer and will be
acknowledged, any other is discarded (R274, R276). -/
def acceptFlit (s : State) (p : Nat) (f : Flit) : State :=
  let x := { getPort s p with flitsRx := (getPort s p).flitsRx + 1 }
  if f.seq = x.rxSeq then
    putPort s p { x with
      rxSeq := x.rxSeq + 1, nak := false, discarding := false, ackDue := true
      rxBuf := tabModify x.rxBuf 0 (2 * f.vc + bit01 f.cls) (· + 1) }
  else putPort s p x.discard

/-- A Thondlink port that carries flits. -/
def thlUp (s : State) (p : Nat) : Bool := portUp s p && !isEth s p

/-- FLIT_RX (R273, R274, R276): the CRC, the ACK, credits and NAK of the flit, then the flit itself. A head flit on VC 1 to
VC 4 wakes the module (R303). -/
def execFlitRx (p : Fin 12) (f : FlitIn) (s : State) : Out :=
  let n := p.val
  if !thlUp s n then .next s
  else
    let s := noteFec s n f.fec
    match flitOf f.bytes with
    | none => ok (putPort s n { (getPort s n).discard with crcErrors := (getPort s n).crcErrors + 1, nak := true })
    | some f =>
      let s := takeCredits (ackFlits s n f.ack) n f
      let s := if f.nak then replayPort s n else s
      let s := if f.kind = .idle || !portUp s n then s else acceptFlit s n f
      let s := if f.kind = .head && f.vc != 0 then wakeTrigger s else s
      ok (transmit s n)

/-- REPLAY_TIMEOUT (R276): 2 us without an advance of ACK while flits are outstanding. -/
def execReplayTimeout (p : Fin 12) (s : State) : Out :=
  let x := getPort s p.val
  if thlUp s p.val && 0 < x.outstanding then ok (replayPort (advanceTo s (x.advanced + us 2)) p.val) else .next s

/-- BREACH (R277): eight replays have failed, or 20 us have passed since the first. -/
def execBreach (p : Fin 12) (s : State) : Out :=
  let x := getPort s p.val
  if thlUp s p.val && 0 < x.outstanding && 0 < x.tries then
    let t := x.firstTry + us 20
    ok (breachPort (advanceTo s (if 8 ≤ x.tries then min t (x.advanced + us 2) else t)) p.val)
  else .next s

/-- A port that is up or in training (R277, R304). -/
def linkAlive (s : State) (p : Nat) : Bool := (getPort s p).link != .down

/-- LINK_DOWN (R304): loss of signal, or codewords that the FEC cannot correct; after a breach, of a partner that is not
operable (R277). -/
def execLinkDown (p : LinkLoss) (s : State) : Out :=
  if linkAlive s p.port.val then ok (downPort (noteFec s p.port.val p.fec) p.port.val) else .next s

/-- A port that is not up and is not held down trains once firmware runs (R304, R417, Table 11.10). -/
def trains (s : State) (p : Nat) : Bool := s.dev.firmware && !(getPort s p).disable && !portUp s p

/-- TRAINING_RETRY (R304): 50 ms after the last attempt. -/
def execTrainingRetry (p : Fin 12) (s : State) : Out :=
  if trains s p.val then
    let s := advanceTo s ((getPort s p.val).trainedAt + us 50000)
    ok (putPort s p.val { getPort s p.val with link := .training, trainedAt := s.clk.ticks })
  else .next s

/-- LINK_UP (R272): training has ended; the partner of a Thondlink port is recorded, credits are full (R274), and the eye
margin measured in training is kept (R348). -/
def execLinkUp (p : Fin 12) (chip : BitVec 12) (port : Trained) (s : State) : Out :=
  if trains s p.val then
    let x := getPort s p.val
    let s := { s with tele := { s.tele with eyeMv := tabSet s.tele.eyeMv p.val port.eyeMv.toNat } }
    let eth := isEth s p.val
    let s := putPort s p.val { x with
      link := .up, linkUp := true, linkUpCount := x.linkUpCount + 1
      partnerChip := if eth then x.partnerChip else chip
      partnerPort := if eth then x.partnerPort else port.port
      credits := [], txSeq := 0, txBase := 0, rxSeq := 0, tries := 0, nak := false, ackDue := false, owed := []
      discarding := false, rxBuf := [], widen := false }
    ok (transmit s p.val)
  else .next s

/-- LANE_WIDEN (R303): after a wake of either end the link widens from keep-alive to eight lanes; it stays in keep-alive while
this module is in LOW_POWER and no wake is due. Where the module at the other end enters LOW_POWER, a Thondlink port that is up
agrees keep-alive; the table has no row of its own for that (log entry 120). -/
def execLaneWiden (p : LaneChange) (s : State) : Out :=
  let n := p.port.val
  let x := getPort s n
  .next (if p.narrow then
      if x.link = .up && !isEth s n then putPort s n { x with link := .keepAlive, widen := false } else s
    else if x.link = .keepAlive && (x.widen || s.dev.state != .lowPower) then putPort s n { x with link := .up, widen := false }
    else s)

/-- A packet of a kind for this chip arrives on a port that is up: it is taken; one on VC 1 to VC 4 wakes the module
(R282, R303). -/
def arrives (s : State) (p : Nat) (k : Packet) (kind : Nat) : Out :=
  if thlUp s p && k.dst = s.rcd.chipId && k.kind.toNat = kind then
    ok (receive (if k.vc.val = 0 then s else wakeTrigger s) k (some { bundle := bundleOf s p, port := p }))
  else .next s

/-- WRITE_RECEIVE (R289). -/
def execWriteReceive (p : Fin 12) (k : Packet) (s : State) : Out := arrives s p.val k 0x01

/-- WRITE_SIGNAL_RECEIVE (R279). -/
def execWriteSignalReceive (p : Fin 12) (k : Packet) (s : State) : Out := arrives s p.val k 0x02

/-- MCAST_WRITE_RECEIVE (R301). -/
def execMcastWriteReceive (p : Fin 12) (k : Packet) (s : State) : Out := arrives s p.val k 0x03

/-- REDUCE_DATA_RECEIVE (R299). -/
def execReduceDataReceive (p : Fin 12) (k : Packet) (s : State) : Out := arrives s p.val k 0x04

/-- ACK_RECEIVE (R280). -/
def execAckReceive (p : Fin 12) (k : Packet) (s : State) : Out := arrives s p.val k 0x10

/-- REFUSE_RECEIVE (R290). -/
def execRefuseReceive (p : Fin 12) (k : Packet) (s : State) : Out := arrives s p.val k 0x11

/-- BREACH_NOTICE_RECEIVE (R281). -/
def execBreachNoticeReceive (p : Fin 12) (k : Packet) (s : State) : Out := arrives s p.val k 0x12

/-- FLOW_RESET_RECEIVE (R281). -/
def execFlowResetReceive (p : Fin 12) (k : Packet) (s : State) : Out := arrives s p.val k 0x13

/-- RTS_RECEIVE (R295). -/
def execRtsReceive (p : Fin 12) (k : Packet) (s : State) : Out := arrives s p.val k 0x14

/-- CTS_RECEIVE (R295). -/
def execCtsReceive (p : Fin 12) (k : Packet) (s : State) : Out := arrives s p.val k 0x15

/-- COLL_CREDIT_RECEIVE (R299). -/
def execCollCreditReceive (p : Fin 12) (k : Packet) (s : State) : Out := arrives s p.val k 0x16

/-- COLL_ABORT_RECEIVE (R300). -/
def execCollAbortReceive (p : Fin 12) (k : Packet) (s : State) : Out := arrives s p.val k 0x17

/-- ARRIVE_RECEIVE (R318). -/
def execArriveReceive (p : Fin 12) (k : Packet) (s : State) : Out := arrives s p.val k 0x20

/-- RELEASE_RECEIVE (R318). -/
def execReleaseReceive (p : Fin 12) (k : Packet) (s : State) : Out := arrives s p.val k 0x21

/-- PACKET_FORWARD (R282 to R285): a packet for another chip leaves on the bundle that ROUTE names. -/
def execPacketForward (p : Fin 12) (k : Packet) (s : State) : Out :=
  if thlUp s p.val && k.dst != s.rcd.chipId then
    ok (routePacket (if k.vc.val = 0 then s else wakeTrigger s) k .none
      (some { bundle := bundleOf s p.val, port := p.val, key := some (2 * k.vc.val + bit01 k.cls) }))
  else .next s

/-- RTS_RETRY (R295): 5 us after the refusal. -/
def execRtsRetry (c : CmdId) (s : State) : Out :=
  match findCmd s c with
  | none => .next s
  | some k => match k.work with
    | .send w => match w.rtsRefused with
      | some t => ok (sendRts (advanceTo s (t + us 5)) c w)
      | none => .next s
    | _ => .next s

/-- The oldest write of a command that is not acknowledged: its tick and the flow. -/
def oldestWrite (s : State) (id : CmdId) : Option (Nat × Nat) :=
  (s.net.flowTx.flatMap (fun p => p.2.unacked.filterMap (fun u =>
    if u.2.1 = .cmd id then some (u.2.2, p.1) else none))).foldl (fun (a : Option (Nat × Nat)) x => match a with
      | none => some x
      | some y => if x.1 < y.1 then some x else some y) none

/-- The writes of a command in a flow that have not been acknowledged for E2E_TIMEOUT_US. -/
def overdue (s : State) (id : CmdId) (key : Nat) : List Nat :=
  ((getFlowTx s key).unacked.filter (fun u => u.2.1 = .cmd id && u.2.2 + us s.net.e2eUs.toNat ≤ s.clk.ticks)).map (·.1)

/-- E2E_TIMEOUT (R281): a write of the command has not been acknowledged for E2E_TIMEOUT_US. -/
def execE2eTimeout (c : CmdId) (s : State) : Out :=
  match oldestWrite s c with
  | none => .next s
  | some (t, key) =>
    let s := advanceTo s (t + us s.net.e2eUs.toNat)
    ok (resetFlow (failNet s c (localCause s .e2eTimeout 0 (key / 8)) false) key (overdue s c key))

end Sys2Proof.Machine
end

