-- ==== Sys2Proof/Machine/PowerOps.lean ====
section
/-!
DEFINITION. Operations of the pumping station (chapter 13): the estimate (R330), the projection and the fast limiter
(R309, R336, R340), the prediction and the division of the cap (R337 to R339), changes of m (R328), energy (R344), trips
(R346), ageing (R348 to R350). Powers are in 0.1 W.
-/
namespace Sys2Proof.Machine

/-- The pumping station runs: the chip is powered and booted, and its mesh clock is not stopped (R324, R347). -/
def pumps (s : State) : Bool :=
  match s.dev.state with
  | .ready | .active | .quiescing | .fault => true
  | .standby | .booting | .lowPower => false

/-- Cores in service, ascending. -/
def coresIn (s : State) : List Nat := (List.range 16).filter (coreIn s)

/-- PUMP_STATUS (Table 13.5). -/
def pumpStatus (s : State) : Nat :=
  bit01 s.pump.unreachable + 2 * bit01 s.pump.brake +
    4 * bit01 ((List.range 16).any (fun c => (getPower s c).thermalDuty < 8)) +
    8 * bit01 ((List.range 16).any (fun c => (getPower s c).capDuty < 8))

/-- TELE_FLAGS (Table 13.7). -/
def teleFlags (t : Telemetry) : Nat := bit01 t.eolWarn + 2 * bit01 t.eolCrit + 4 * bit01 t.maxLowered

/-- Input power of a load on the converter: divided by 1 - lambda, lambda in thousandths (R330). -/
def throughConverter (p loss : Nat) : Nat := p * 1000 / (1000 - loss)

/-- The projection of the next interval at the present duties, from the last interval's figures (R336). -/
def projection (s : State) : Nat :=
  throughConverter ((List.range 16).foldl (fun a c => a + (getPower s c).full * dutyOf s c) 0 / 8 + s.pump.chip) s.pump.loss

/-- The lowest m of a core: 8, or 15 in repeatable mode (R340). -/
def floorM (s : State) : Nat := if s.lock.repeatable then 15 else 8

/-- The sustained cap is the fast limiter's concern (R336). -/
def testsSustained (s : State) : Bool :=
  s.lock.repeatable || (coresIn s).all (fun c => (getPower s c).m ≤ 8)

/-- What the next interval may draw: what the peak cap leaves over 500 intervals (R334) and, where it is tested, the
sustained cap, against which the projection itself is held (R336 with its worked example). Below 0, no projection
passes. -/
def allowance (s : State) : Int :=
  let p := (500 * (10 * peakCap s) : Int) - ((s.pump.peakHist.take 499).sum : Int)
  if testsSustained s then min p (10 * sustainedCap s : Nat) else p

/-- The projection passes. -/
def passes (s : State) (limit : Int) : Bool := (projection s : Int) ≤ limit

/-- Change a core's cap duty. -/
def setCapDuty (s : State) (c k : Nat) : State := putPower s c { getPower s c with capDuty := k }

/-- The core whose duty is lowered next: of the highest estimated power, lowest number among equals (R336); in repeatable
mode the next of the rotation C0 to C15 (R309). -/
def lowerNext (s : State) : Option Nat :=
  let l := (coresIn s).filter (fun c => 1 < (getPower s c).capDuty)
  if s.lock.repeatable then
    match l.find? (fun c => s.pump.turn ≤ c) with
    | some c => some c
    | none => l.head?
  else
    let top := l.foldl (fun a c => max a ((getPower s c).full * dutyOf s c)) 0
    l.find? (fun c => (getPower s c).full * dutyOf s c = top)

/-- Lower duties by one step at a time until the projection passes or every core is at 1/8 (R336). -/
def lowerDuties : Nat → State → Int → State
  | 0, s, _ => s
  | n + 1, s, limit =>
    if passes s limit then s
    else match lowerNext s with
      | none => s
      | some c =>
        let s := setCapDuty s c ((getPower s c).capDuty - 1)
        lowerDuties n { s with pump := { s.pump with turn := (c + 1) % 16 } } limit

/-- Raise each core's cap duty by one step, ascending, for as long as the projection still passes (R336). -/
def raiseDuties : List Nat → State → Int → State
  | [], s, _ => s
  | c :: t, s, limit =>
    let k := (getPower s c).capDuty
    if k < 8 then
      let u := setCapDuty s c (k + 1)
      if passes u limit then raiseDuties t u limit else s
    else raiseDuties t s limit

/-- The fast limiter at the end of an interval (R336); while the brake holds no duty is raised (R341). -/
def fastLimiter (s : State) : State :=
  let limit := allowance s
  if passes s limit then (if s.pump.brake then s else raiseDuties (coresIn s) s limit) else lowerDuties 128 s limit

/-- Every core in service stands at the floor (R340). -/
def atFloor (s : State) : Bool :=
  (coresIn s).all (fun c => (getPower s c).m ≤ floorM s && dutyOf s c ≤ 1)

/-- CAP_UNREACHABLE begins: the flag, the record, and the bit of every command in flight (R340). -/
def setUnreachable (s : State) : State :=
  let q := s.pump
  let s := { s with pump := { q with
    unreachable := true, unreachableFlag := true, unreachableCount := q.unreachableCount + 1 } }
  let s := logFault s 0x50 6 6 0 none 0 0 (pumpStatus s)
  { s with cmds := s.cmds.map (fun c => { c with capUnreachable := true }) }

/-- The test of R340 after the limiter; a failure at the brake floor does not set the bit (R341). -/
def floorTest (s : State) : State :=
  let fails := atFloor s && !passes s (allowance s)
  if !fails then { s with pump := { s.pump with unreachable := false } }
  else if s.pump.unreachable || s.pump.brake then s
  else setUnreachable s

/-- DEMAND of a phase class (R338). -/
def demandOf (s : State) (k : Nat) : Nat := tabGet s.pump.demand 544 k

/-- The phase classes of the commands that hold threads on a core. -/
def threadClasses (s : State) (c : Nat) : List Nat :=
  (threadCmds s c).filterMap (fun id => (findCmd s id).map (fun k => k.hdr.phase.toNat))

/-- D_c (R339): the largest DEMAND of the classes that hold threads, or 2.0 W. -/
def coreDemand (s : State) (c : Nat) : Nat :=
  match threadClasses s c with
  | [] => 20
  | l => l.foldl (fun a k => max a (demandOf s k)) 0

/-- The prediction of R337 for a core at m: D (m / 16) (V(m) / V(16))^2, rounded down to 0.1 W. -/
def predicted (s : State) (c m : Nat) : Nat :=
  let v := railFor s c m
  let w := railFor s c 16
  coreDemand s c * m * (v * v) / (16 * (w * w))

/-- The budget of the cores (R339). -/
def coreBudget (s : State) : Nat := sustainedCap s * 10 * (1000 - s.pump.loss) / 1000 - s.pump.chip

/-- A core's share before the excess of others: budget D_c / sum of D. -/
def rawShare (s : State) (c : Nat) : Nat :=
  coreBudget s * coreDemand s c / ((coresIn s).foldl (fun a k => a + coreDemand s k) 0)

/-- Give the excess to cores that can use it, ascending; a core that exceeds its prediction keeps only that (R339). -/
def dealShares : List Nat → State → Nat → State
  | [], s, _ => s
  | c :: t, s, excess =>
    let top := predicted s c (topM s c)
    let raw := min top (rawShare s c)
    let more := min excess (top - raw)
    let s' := putPower s c { getPower s c with share := BitVec.ofNat 16 (raw + more), heldBy := threadCmds s c }
    dealShares t s' (excess - more)

/-- The division of the cap (R339). -/
def divideCap (s : State) : State :=
  dealShares (coresIn s) s
    ((coresIn s).foldl (fun a c => a + (rawShare s c - predicted s c (topM s c))) 0)

/-- The highest m whose prediction fits the core's share, at least 8 (R337). -/
def fittingM (s : State) (c : Nat) : Nat :=
  (((List.range 13).map (· + 8)).filter (fun m =>
    m ≤ topM s c && predicted s c m ≤ (getPower s c).share.toNat)).foldl max 8

/-- Raise a core's m: the rail first; the divider follows when it has settled (R328). -/
def raiseM (s : State) (c m : Nat) : State :=
  putPower s c { getPower s c with raising := some m, railMv := railFor s c m }

/-- The slow loop on one core (R337): down by any number of steps, up by one; a throttled core comes down by one step
(R345). -/
def slowCore (s : State) (c : Nat) : State :=
  let x := getPower s c
  let fit := fittingM s c
  let t := if x.thermalDuty < 8 then min fit (max 8 (x.m - 1)) else fit
  if t < x.m then lowerM s c t
  else if x.m < t && x.raising.isNone then raiseM s c (x.m + 1)
  else s

/-- A recomputation at a thread change that lowers a core's m applies at once (R339). -/
def lowerNow (s : State) (c : Nat) : State := if fittingM s c < (getPower s c).m then lowerM s c (fittingM s c) else s

/-- The clocks follow the slow loop: throughput mode without the brake (R337, R341). -/
def clocksMove (s : State) : Bool := !s.lock.repeatable && !s.pump.brake

/-- Divide the cap again where a thread has been taken or released since the last division (R339). -/
def rebalance (s : State) : State :=
  if (coresIn s).all (fun c => (getPower s c).heldBy = threadCmds s c) || s.lock.repeatable then s
  else
    let s := divideCap s
    if clocksMove s then (coresIn s).foldl lowerNow s else s

/-- Learn a class's DEMAND from one core's estimate over the period (R338). -/
def learnCore (s : State) (c : Nat) : State :=
  let p := getPower s c
  match p.classes with
  | [k] =>
    if p.sampleN = 0 then s
    else
      let d := demandOf s k
      let x : Int := (p.sampleSum / p.sampleN : Nat) - (d : Int)
      let n := (d + x.fdiv 8).toNat
      { s with pump := { s.pump with
        demand := tabSet s.pump.demand k n
        samples := tabModify s.pump.samples 0 k (fun m => satTo 65535 (m + 1)) } }
  | _ => s

/-- A new period begins, with the classes of threads held now. -/
def renewClasses (s : State) (c : Nat) : State :=
  putPower s c { getPower s c with classes := (threadClasses s c).eraseDups, sampleSum := 0, sampleN := 0 }

/-- Where the energy of a command goes: its inlet and job slot, also when it ended within the interval (R344). -/
def energyHome (s : State) (id : CmdId) : Option (Nat × Nat) :=
  match findCmd s id with
  | some c => some (c.inlet, c.hdr.jobId.toNat)
  | none => (s.pump.ended.find? (fun p => p.1 = id)).map (·.2)

/-- Attribute energy to a command, in microjoules: its total, its job slot and its inlet (R344). -/
def creditEnergy (s : State) (id : CmdId) (uj : Nat) : State :=
  match energyHome s id with
  | none => { s with pump := { s.pump with idleEnergy := s.pump.idleEnergy + BitVec.ofNat 64 uj } }
  | some (i, j) =>
    let x := getInlet s i
    let s := modCmd s id (fun c => { c with energy := c.energy + uj })
    let s := putInlet s i { x with energy := x.energy + BitVec.ofNat 64 uj }
    { s with pump := { s.pump with jobEnergy := tabModify s.pump.jobEnergy 0 j (fun e => (e + uj) % 2 ^ 64) } }

/-- A weighted sum of counts. -/
def weighted (w : Nat → Nat) (l : List Nat) : Nat := (l.zipIdx).foldl (fun a x => a + w x.2 * x.1) 0

/-- Power in 0.1 W of femtojoules in an interval of 2 microseconds (R330). -/
def powerOf (fj : Nat) : Nat := fj / 200000000

/-- A core's hottest sensor temperature (R330). -/
def hottestOf (x : CorePower) : Int := (x.logicTemp ++ x.sramTemp).foldl max (x.logicTemp.headD 0)

/-- The power of a core in an interval: activity and leakage (R330). -/
def coreEstimate (s : State) (c : Nat) : Nat :=
  let x := getPower s c
  let b := s.sec.calibration
  powerOf (weighted (Config.coreWeight b c) (s.pump.act.getD c [])) + Config.coreLeak b c (hottestOf x) x.railMv

/-- Chip-level and fixed power of an interval (R330). -/
def chipEstimate (s : State) : Nat :=
  powerOf (weighted (Config.chipWeight s.sec.calibration) s.pump.chipAct) + Config.fixedPower s.sec.calibration

/-- An estimate scaled to m = 16 and full duty by the prediction of R337 (R338). -/
def scaled (s : State) (c p : Nat) : Nat :=
  let x := getPower s c
  let v := railFor s c x.m
  let w := railFor s c 16
  p * 8 * 16 * (w * w) / (dutyOf s c * x.m * (v * v))

/-- One core's figures of an interval (R330, R336, R338). -/
def estimateCore (s : State) (c : Nat) : State :=
  let x := getPower s c
  let p := coreEstimate s c
  putPower s c { x with
    full := p * 8 / dutyOf s c, est := BitVec.ofNat 16 (satTo 65535 p)
    sampleSum := x.sampleSum + scaled s c p, sampleN := x.sampleN + 1 }

/-- The input power of an interval: cores and chip through the converter (R330). -/
def inputPower (s : State) : Nat :=
  throughConverter ((List.range 16).foldl (fun a c => a + coreEstimate s c) 0 + s.pump.chip) s.pump.loss

/-- The estimate of an interval (R330): counters, per core, chip-level, and the module's. -/
def estimate (s : State) (e : IntervalEst) : State :=
  let s := { s with pump := { s.pump with act := e.act, chipAct := e.chip } }
  let chip := chipEstimate s
  let load := (List.range 16).foldl (fun a c => a + coreEstimate s c) 0 + chip
  let s := { s with pump := { s.pump with
    chip := chip, loss := Config.converterLoss s.sec.calibration load % 1000 } }
  let p := inputPower s
  let s := (List.range 16).foldl estimateCore s
  let sus := (p :: s.pump.susHist).take 50000
  let mean := fun (l : List Nat) => satTo 65535 (l.sum / (10 * l.length))
  { s with pump := { s.pump with
    susHist := sus, peakHist := (p :: s.pump.peakHist).take 500
    estInterval := BitVec.ofNat 16 (satTo 65535 (p / 10))
    est1ms := BitVec.ofNat 16 (mean (sus.take 500)), est100ms := BitVec.ofNat 16 (mean sus) } }

/-- A quantity dealt over parts in proportion, each rounded down; nothing where all parts are 0. -/
def dealOut (q : Nat) (parts : List (CmdId × Nat)) : List (CmdId × Nat) :=
  let n := (parts.map (·.2)).sum
  parts.map (fun p => (p.1, q * p.2 / n))

/-- Energy by command of what the cores and the chip-level terms used, in nanojoules (R344): a core's by the cycles that
each command issued there, a chip-level term's by the part of its count that a command caused. -/
def directShares (s : State) (e : IntervalEst) : List (CmdId × Nat) :=
  (List.range 16).flatMap (fun c =>
    dealOut (200 * coreEstimate s c) ((e.issued.filter (fun x => x.1 = c)).map (·.2))) ++
    e.traffic.map (fun x => (x.2.1, Config.chipWeight s.sec.calibration x.1 * x.2.2 / 1000000))

/-- The sum of the parts of one command. -/
def partOf (l : List (CmdId × Nat)) (id : CmdId) : Nat := ((l.filter (fun x => x.1 = id)).map (·.2)).sum

/-- Energy by command, in microjoules (R344): fixed term and converter loss go in proportion to what is attributed
already. -/
def energyShares (s : State) (e : IntervalEst) : List (CmdId × Nat) :=
  let d := directShares s e
  let sum := (d.map (·.2)).sum
  let ids := (d.map (·.1)).eraseDups
  let all := 200 * inputPower s
  let used := (List.range 16).foldl (fun a c => a + 200 * coreEstimate s c) 0 +
    weighted (Config.chipWeight s.sec.calibration) e.chip / 1000000
  ids.map (fun id => (id, partOf d id * (sum + (all - used)) / sum / 1000))

/-- The energy of an interval (R344): what no command gets, with every rounding remainder, goes to IDLE_ENERGY. -/
def attributeEnergy (s : State) (e : IntervalEst) : State :=
  let l := energyShares s e
  let total := 200 * inputPower s / 1000
  let s := l.foldl (fun s p => creditEnergy s p.1 p.2) s
  { s with pump := { s.pump with
    ended := []
    idleEnergy := s.pump.idleEnergy + BitVec.ofNat 64 (total - (l.map (·.2)).sum)
    moduleEnergy := s.pump.moduleEnergy + BitVec.ofNat 64 (max total (l.map (·.2)).sum) } }

/-- Thermal duty in one interval: a hot core's falls by one step (R345); the first step is the beginning of throttling. -/
def coolDown (s : State) (c : Nat) : State :=
  let x := getPower s c
  if x.hot && 1 < x.thermalDuty then
    let s := putPower s c { x with thermalDuty := x.thermalDuty - 1 }
    if x.thermalDuty = 8 then
      { s with pump := { s.pump with throttleFlag := true, throttleCount := s.pump.throttleCount + 1 } }
    else s
  else s

/-- The brake's duty in one interval: 1/8 while it holds, one step up after it (R341). -/
def brakeStep (s : State) : State :=
  { s with pump := { s.pump with brakeDuty := if s.pump.brake then 1 else min 8 (s.pump.brakeDuty + 1) } }

/-- The next interval boundary, strictly ahead: a tide count in repeatable mode, else a local tick (R330, Table 12.2). -/
def toInterval (s : State) : State :=
  let now := if s.lock.repeatable then s.tide.count.toNat else s.clk.ticks
  advance s (1400 - now % 1400)

/-- Move on to the next multiple of a number of local ticks. -/
def toMultiple (s : State) (n : Nat) : State := advance s (n - s.clk.ticks % n)

/-- `SET_CAP` commands dispatched before now complete (R333). -/
def capsDone (s : State) : State :=
  { s with cmds := s.cmds.map (fun c => match c.work with
    | .setCap prev => if c.dispatchTick < s.clk.ticks then { c with work := .done prev } else c
    | _ => c) }

/-- Cap duties return toward 8/8 after a change of clocks (R337). -/
def restoreDuties (s : State) : State :=
  if s.pump.brake then s
  else
    let limit := allowance s
    (List.range 7).foldl (fun s _ => raiseDuties (coresIn s) s limit) s

/-- M_MAX of a core is lowered by one (R349): into the configuration record, with the flag and a record of class 0x50; m
follows (R326). -/
def lowerMax (s : State) (c : Nat) : State :=
  let x := getPower s c
  let n := x.mMax - 1
  let s := putPower s c { x with mMax := n }
  let w := s.warden
  let s := { s with warden := { w with calibration := writeSection w.calibration (Config.calibrationWith w.calibration.used.1 c n) } }
  let t := s.tele
  let s := { s with tele := { t with
    maxLowered := true, maxLoweredCount := BitVec.ofNat 32 (satTo (2 ^ 32 - 1) (t.maxLoweredCount.toNat + 1)) } }
  logFault (capM s c) 0x50 6 1 c none 0 0 (teleFlags s.tele)

/-- A core whose margin lies below its threshold (R349): not below 16 while months remain, then to 15, then out of
service. -/
def ageCore (s : State) (c : Nat) : State :=
  let x := getPower s c
  if !coreIn s c then s
  else if 16 < x.mMax then lowerMax s c
  else if s.tele.eolMonths != 0 then s
  else if x.mMax = 16 then lowerMax s c
  else firmwareOffline s c .ageing

/-- A trip (R346): clocks stop, THERM_TRIP_N is asserted, the warden removes chip power, logs the trip and asserts
ALERT_N (R394). Commands in flight write nothing. -/
def tripChip (s : State) : State :=
  let s := powerOff s
  { s with
    pins := { s.pins with thermTrip := true }
    warden := { s.warden with
      tripped := true, tripLog := s.warden.tripLog + 1, alert := true
      history := s.warden.history ++ [0x80] } }

end Sys2Proof.Machine
end

