-- ==== Sys2Proof/Machine/Power.lean ====
section
/-!
DEFINITION. The rows of the pumping station (chapter 13): intervals, the slow loop, rails, trims, droop, the brake,
sensors, trips, ageing, eye margins.
-/
namespace Sys2Proof.Machine

/-- ESTIMATE_INTERVAL (R330, R336, R344): the estimate, energy, thermal and brake steps, the limiter, the floor, and the
division of the cap where threads have changed. -/
def execEstimateInterval (e : IntervalEst) (s : State) : Out :=
  if pumps s then
    let s := toInterval s
    let s := attributeEnergy (estimate s e) e
    let t := brakeStep ((coresIn s).foldl coolDown s)
    ok (renumber s (rebalance (floorTest (fastLimiter t))))
  else .next s

/-- SLOW_LOOP (R337 to R339, R349): the boundary of 1 ms. -/
def execSlowLoop (d : SlowLoopData) (s : State) : Out :=
  if pumps s then
    let s := toMultiple s 700000
    let s := if s.pump.learn && !s.lock.repeatable then (coresIn s).foldl learnCore s else s
    let s := (List.range 16).foldl renewClasses s
    let s := (d.aged.map (·.val)).foldl ageCore s
    let s := if s.lock.repeatable then s else divideCap s
    let t := if clocksMove s then restoreDuties ((coresIn s).foldl slowCore s) else s
    ok (capsDone (renumber s t))
  else .next s

/-- RAIL_SETTLED (R328): the divider takes the value that its rail has settled for; where M_MAX or M_CEILING has come to
lie below it (R326), the rail goes back. -/
def execRailSettled (c : Fin 16) (s : State) : Out :=
  match (getPower s c.val).raising with
  | some m =>
    if !pumps s then .next s
    else if m ≤ topM s c.val then .next (writeDivider s c.val m)
    else .next (lowerM s c.val (getPower s c.val).m)
  | none => .next s

/-- VOLTAGE_TRIM (R327): 5 mV, at most 30 mV either side; the rail follows. -/
def execVoltageTrim (c : Fin 16) (up : Bool) (s : State) : Out :=
  if pumps s then
    let x := getPower s c.val
    let t := if up then min 6 (x.trim + 1) else max (-6) (x.trim - 1)
    let s := putPower s c.val { x with trim := t }
    .next (putPower s c.val { x with trim := t, railMv := railFor s c.val (x.raising.getD x.m) })
  else .next s

/-- DROOP (R329): a stretch begins; it is counted, and marks commands (R343). -/
def execDroop (c : Fin 16) (s : State) : Out :=
  let x := getPower s c.val
  if pumps s && !x.stretched then
    let s := putPower s c.val { x with
      stretched := true, droops := BitVec.ofNat 32 (satTo (2 ^ 32 - 1) (x.droops.toNat + 1)) }
    .next (timingEvent (markCapEvent s c.val) .droop 1)
  else .next s

/-- DROOP_END (R329). -/
def execDroopEnd (c : Fin 16) (s : State) : Out := .next (putPower s c.val { getPower s c.val with stretched := false })

/-- PWR_BRAKE_ASSERT (R341). -/
def execPwrBrakeAssert (s : State) : Out :=
  let was := s.pins.brake
  let s := { s with pins := { s.pins with brake := true } }
  .next (if !was && (pumps s || s.dev.state = .lowPower) then renumber s (applyBrake s) else s)

/-- PWR_BRAKE_RELEASE (R341): duty and m follow in the next intervals and slow loops. -/
def execPwrBrakeRelease (s : State) : Out :=
  .next { s with pins := { s.pins with brake := false }, pump := { s.pump with brake := false } }

/-- Sensors of core `c` among 64: the four of its tile, or of its polder (R345). -/
def sensorsOf (l : List Int) (c : Nat) : List Int := (l.drop (4 * c)).take 4

/-- The hottest reading and its sensor. -/
def hottest (l : List Int) : Int × Nat :=
  (l.zipIdx).foldl (fun a x => if a.1 < x.1 then x else a) (l.headD 0, 0)

/-- One core's sensors (R345): hot at or above a threshold; cool when all lie 2 degrees below, and one step of duty back
for every 1 ms of that. -/
def readCore (d : SensorData) (s : State) (c : Nat) : State :=
  let x := getPower s c
  let a := sensorsOf d.logic c
  let b := sensorsOf d.sram c
  let hot := a.any (784 ≤ ·) || b.any (760 ≤ ·)
  let cool := a.all (· ≤ 768) && b.all (· ≤ 744)
  let now := s.clk.ticks
  let rise := cool && x.thermalDuty < 8 && x.coolFrom + 700000 ≤ now
  putPower s c { x with
    logicTemp := a, sramTemp := b, hot := hot
    thermalDuty := if rise then x.thermalDuty + 1 else x.thermalDuty
    coolFrom := if !cool || rise then now else x.coolFrom }

/-- SENSOR_READ (R345, R346, R352): every 50 us, with what the warden measures of the input; a reading of 110 degrees is a
trip. -/
def execSensorRead (d : SensorData) (s : State) : Out :=
  if s.pins.powered && s.dev.state != .booting then
    let s := toMultiple s 35000
    let s := renumber s ((List.range 16).foldl (readCore d) s)
    let h := hottest (d.logic ++ d.sram)
    let s := { s with tele := { s.tele with tempMax := h.1, tempMaxSensor := h.2, vin := d.vin, pinMeasured := d.pin } }
    .next (if 880 ≤ h.1 then tripChip s else s)
  else .next s

/-- THERMAL_TRIP (R346). -/
def execThermalTrip (s : State) : Out := if s.pins.powered then .next (tripChip s) else .next s

/-- The least of the predictions, and its source: cores in service, ports in use, LPDDR5X (R348, Table 13.7). -/
def leastMonths (s : State) (d : AgeingData) : Nat × Nat :=
  let l := (coresIn s).map (fun c => (satTo 255 (d.coreMonths.getD c 255), c)) ++
    ((List.range 12).filter (portUp s)).map (fun p => (satTo 255 (d.portMonths.getD p 255), 16 + p)) ++
    [(satTo 255 d.ddrMonths, 32)]
  l.foldl (fun a x => if x.1 < a.1 then x else a) (255, 32)

/-- EOL_WARN and EOL_CRIT (R350): a record of class 0x50 each, and ALERT_N. -/
def eolNotice (s : State) (crit : Bool) : State :=
  let t := s.tele
  let n := fun (x : W32) => BitVec.ofNat 32 (satTo (2 ^ 32 - 1) (x.toNat + 1))
  let t := if crit then { t with eolCrit := true, eolCritCount := n t.eolCritCount }
    else { t with eolWarn := true, eolWarnCount := n t.eolWarnCount }
  let s := { s with tele := t }
  raiseAlert (logFault s 0x50 6 6 0 none 0 0 (teleFlags t))

/-- What a reading adds to the warden's history: margins and months of the cores, months of the ports and of LPDDR5X, a byte
each (R348; log entry 35). -/
def ageingRecord (d : AgeingData) : List Byte :=
  let b := fun (l : List Nat) (n : Nat) => (List.range n).map (fun k => BitVec.ofNat 8 (satTo 255 (l.getD k 255)))
  b d.coreMargin 16 ++ b d.coreMonths 16 ++ b d.portMonths 12 ++ [BitVec.ofNat 8 (satTo 255 d.ddrMonths)]

/-- The entry of the warden's power and telemetry log: input voltage and power, the estimate over 100 ms, the hottest reading in
units of 0.125 degrees (Table 15.2; log entry 35). -/
def powerRecord (s : State) : List Byte :=
  leBytes 2 s.tele.vin.toNat ++ leBytes 2 s.tele.pinMeasured.toNat ++ leBytes 2 s.pump.est100ms.toNat ++
    leBytes 2 s.tele.tempMax.toNat

/-- AGEING_MONITOR (R348, R350): every 60 s. -/
def execAgeingMonitor (d : AgeingData) (s : State) : Out :=
  if pumps s then
    let s := toMultiple s 42000000000
    let s := (List.range 16).foldl (fun s c => putPower s c { getPower s c with
      margin := BitVec.ofNat 8 (satTo 255 (d.coreMargin.getD c 0))
      eolMonths := BitVec.ofNat 8 (satTo 255 (d.coreMonths.getD c 255)) }) s
    let s := { s with warden := { s.warden with history := s.warden.history ++ ageingRecord d ++ powerRecord s } }
    let old := s.tele.eolMonths.toNat
    let r := leastMonths s d
    let s := { s with tele := { s.tele with
      eolMonths := BitVec.ofNat 8 r.1, eolSource := BitVec.ofNat 8 r.2
      portMonths := (List.range 12).foldl (fun t p => tabSet t p (satTo 255 (d.portMonths.getD p 255))) s.tele.portMonths } }
    let s := if r.1 ≤ 12 && 12 < old then eolNotice s false else s
    .next (if r.1 = 0 && 0 < old then eolNotice s true else s)
  else .next s

/-- EYE_MEASURE (R348): the worst lane of a port. -/
def execEyeMeasure (p : Fin 12) (mv : W16) (s : State) : Out :=
  if pumps s then .next { s with tele := { s.tele with eyeMv := tabSet s.tele.eyeMv p.val mv.toNat } } else .next s

end Sys2Proof.Machine
end

