-- ==== Sys2Proof/Machine/DirOps.lean ====
section
/-!
DEFINITION. The prefix directory's engine (chapter 10): block hashes, the table and the tags in device memory, the hot set,
single steps of lookup, insertion and release.
-/
namespace Sys2Proof.Machine

/-- Entry, table and tag addresses (Table 10.2). -/
def entryAddr (s : State) (e : Nat) : Nat := s.dir.tableBase + 32 * e
def tagAddr (s : State) (e : Nat) : Nat := s.dir.tagsBase + 2 * e

/-- Fields of a LOC word and of a SPAN (R262, Table 10.3). -/
def DirEntry.valid (x : DirEntry) : Bool := bitOf x.loc 56
def DirEntry.peer (x : DirEntry) : Bool := bitOf x.loc 57
def DirEntry.tokens (x : DirEntry) : Nat := bitsOf x.span 9 0 + 1
def DirEntry.layerFirst (x : DirEntry) : Nat := bitsOf x.span 21 10
def DirEntry.layerCount (x : DirEntry) : Nat := bitsOf x.span 31 22 + 1

/-- The 32 bytes of an entry (Table 10.3). -/
def DirEntry.bytes (x : DirEntry) : List Byte :=
  leBytes 16 x.hash ++ leBytes 8 x.loc ++ leBytes 4 x.span ++ leBytes 2 x.ref ++ leBytes 2 x.age

/-- Read an entry from bytes. -/
def entryOf (b : List Byte) : DirEntry :=
  { hash := fieldLe b 0 16, loc := fieldLe b 16 8, span := fieldLe b 24 4, ref := fieldLe b 28 2, age := fieldLe b 30 2 }

/-- The hot-set line of an entry, where it lies, and whether it holds the entry (R264, Table 10.2). -/
def hotLine (s : State) (e : Nat) : Nat := e / 2 % s.dir.hotLines
def hotAddr (s : State) (e : Nat) : Nat := s.dir.hotBase + 64 * hotLine s e
def hotHas (s : State) (e : Nat) : Bool := tabFind? s.dir.hot (hotLine s e) = some (e / 2)

/-- Where an entry is read: in its hot line, if that is present (R264). -/
def entryPlace (s : State) (e : Nat) : Nat := if hotHas s e then hotAddr s e + 32 * (e % 2) else entryAddr s e

/-- An entry of the table. -/
def dirAt (s : State) (e : Nat) : DirEntry := entryOf (readMem s (entryPlace s e) 32)

/-- The tag of a hash, and the set that may hold it (R261). -/
def hashTag (h : Nat) : Nat := bitsOf h 127 112
def hashSet (s : State) (h : Nat) : Nat := h % 2 ^ (s.dir.log2e - 3)

/-- The entries of a hash's set, by way. -/
def setEntries (s : State) (h : Nat) : List Nat := (List.range 8).map (fun w => 8 * hashSet s h + w)

/-- The line that holds an entry comes into the hot set; an absent line is read from LPDDR5X (R264). -/
def hotRead (s : State) (urgent : Bool) (e : Nat) : State :=
  if hotHas s e then s
  else
    let a := s.dir.tableBase + 64 * (e / 2)
    let s := ddrTake s .read urgent a 64
    writeMem { s with dir := { s.dir with hot := tabSet s.dir.hot (hotLine s e) (e / 2) } } (hotAddr s e) (readMem s a 64)

/-- Write an entry to the table, to its hot line if that is present, and its tag to the tag array (R261, R264). -/
def dirPut (s : State) (urgent : Bool) (e : Nat) (x : DirEntry) : State :=
  let s := writeMem (ddrTake s .write urgent (entryAddr s e) 32) (entryAddr s e) x.bytes
  let s := if hotHas s e then writeMem s (entryPlace s e) x.bytes else s
  writeLe s (tagAddr s e) 2 (if x.valid then hashTag x.hash else 0)

/-- Why the engine stops on a list: a read met an error, with the tile coordinates, or went to no memory. -/
inductive DirStop where
  | bad (tile addr : Nat)
  | unmapped (addr : Nat)
deriving DecidableEq, Repr

/-- Tile coordinates of a directory read: the list index in the row-tile field (R265). -/
def dirTile (idx : Nat) : Nat := tileWord 0 0 0 idx 0 0

/-- The ways of a set whose tags equal a hash's: those that a probe reads. -/
def taggedWays (s : State) (h : Nat) : List Nat :=
  (setEntries s h).filter (fun e => readLe s (tagAddr s e) 2 = hashTag h)

/-- Re-runs of a step of the engine: those of directory reads are re-runs of segments, at no core (R265, R313). -/
def dirReruns (s : State) (seg : Bool) (n : Nat) : State := if seg && n != 0 then timedReruns s 16 n else s

/-- Reads of a step of the engine, with their tile coordinates, of the directory (`seg`) or of a list: stored data that reads as bad
stops the command, as do four errors of the reads alone; fewer of these are re-run (R222, R265). -/
def dirReads (s : State) (c : Cmd) (seg : Bool) (tile : Nat) (l : List (Nat × Nat)) : State × Option DirStop :=
  match l.findSome? (fun r => badAt s r.1 r.2) with
  | some g => (dirReruns s seg 3, some (.bad tile g))
  | none =>
    let here := fun (a : Nat) => l.any (fun r => r.1 ≤ a && a < r.1 + r.2)
    let hits := ((findCmd s c.id).elim [] (·.flaws)).filter here
    let s := modCmd s c.id (fun k => { k with flaws := k.flaws.filter (fun a => !here a) })
    match hits with
    | _ :: _ :: _ :: a :: _ => (dirReruns s seg 3, some (.bad tile a))
    | _ => (hits.foldl (fun s a => noteRerun s c.id tile a) (dirReruns s seg hits.length), none)

/-- What a read of an entry reads: its place in the hot line, or the line in the table. -/
def entryRange (s : State) (e : Nat) : Nat × Nat :=
  if hotHas s e then (entryPlace s e, 32) else (s.dir.tableBase + 64 * (e / 2), 64)

/-- What a probe reads: the set's tags, and the ways whose tags match (R267). -/
def probeReads (s : State) (h : Nat) : List (Nat × Nat) :=
  (tagAddr s (8 * hashSet s h), 16) :: (taggedWays s h).map (entryRange s)

/-- What a lookup asks for (`PREFIX_LOOKUP`). -/
structure LookArg where
  acquire : Bool
  localOnly : Bool
  layerFirst : Nat
  layerCount : Nat
deriving DecidableEq, Repr

/-- An entry covers the layers, and may be a peer's (R266). -/
def covers (q : LookArg) (x : DirEntry) : Bool :=
  x.layerFirst ≤ q.layerFirst && q.layerFirst + q.layerCount ≤ x.layerFirst + x.layerCount && (!q.localOnly || !x.peer)

/-- The outcome of a probe: the entry taken, or why none is usable: STOP of R267. -/
inductive Probe where
  | hit (e : Nat) (x : DirEntry)
  | miss (stop : Nat)
deriving DecidableEq, Repr

/-- Probe for a hash (R266, R267): of the usable entries a local one first, then the lowest way. -/
def probe (s : State) (q : LookArg) (h : Nat) : Probe :=
  let l := ((taggedWays s h).map (fun e => (e, dirAt s e))).filter (fun p => p.2.valid && p.2.hash = h)
  let l2 := l.filter (fun p => covers q p.2)
  let l3 := l2.filter (fun p => !q.acquire || p.2.ref < 65535)
  match l3.find? (fun p => !p.2.peer), l3.head? with
  | some p, _ => .hit p.1 p.2
  | none, some p => .hit p.1 p.2
  | none, none => .miss (if l.isEmpty then 1 else if l2.isEmpty then 2 else 3)

/-- The step of a hit: AGE, REF under ACQUIRE (R266). -/
def takeHit (s : State) (urgent : Bool) (q : LookArg) (e : Nat) (x : DirEntry) : State :=
  dirPut s urgent e { x with age := s.dir.clock.toNat, ref := if q.acquire then x.ref + 1 else x.ref }

/-- The record of a matched block (R267). -/
def hitBytes (e : Nat) (x : DirEntry) : List Byte :=
  leBytes 4 e ++ leBytes 2 x.tokens ++ leBytes 1 (x.loc / 2 ^ 56) ++ [0] ++ leBytes 8 x.loc

/-- The outcome of one probe of a lookup: it ends, with STOP or a reason to stop the command, or a block matched, with the
bytes of its record. -/
inductive LookStep where
  | ends (s : State) (stop : Nat) (why : Option DirStop)
  | more (s : State) (bytes : List Byte)

/-- Probe the hash at an address (R266). -/
def lookStep (s : State) (c : Cmd) (q : LookArg) (idx a : Nat) : LookStep :=
  if !rangeRead a 16 then .ends s 0 (some (.unmapped a))
  else
    let r := dirReads s c false (otherTile 0 idx) [(a, 16)]
    match r.2 with
    | some x => .ends r.1 0 (some x)
    | none =>
      let h := readLe s a 16
      let r := dirReads r.1 c true (dirTile idx) (probeReads s h)
      match r.2 with
      | some x => .ends r.1 0 (some x)
      | none =>
        let s := (taggedWays s h).foldl (fun s e => hotRead s c.urgent e) (ddrTake r.1 .read c.urgent a 16)
        match probe s q h with
        | .miss stop => .ends s stop none
        | .hit e x => .more (takeHit s c.urgent q e x) (hitBytes e x)

/-- Probe the hashes of a prompt in order, from the `j`-th, while they match (R266). The answer gives the number of blocks
matched, their records and STOP. -/
def lookLoop : Nat → State → Cmd → LookArg → Nat → Nat → Nat → List Byte → State × Nat × List Byte × Nat × Option DirStop
  | 0, s, _, _, _, _, j, out => (s, j, out, 0, none)
  | n + 1, s, c, q, idx, a, j, out => match lookStep s c q idx (a + 16 * j) with
    | .ends t stop why => (t, j, out, stop, why)
    | .more t bytes => lookLoop n t c q idx a (j + 1) (out ++ bytes)

/-- One prompt of a lookup: its header and records at RESULT_ADDR (R267). The answer gives the blocks matched. -/
def lookPrompt (s : State) (c : Cmd) (q : LookArg) (idx : Nat) (b : List Byte) : State × Nat × Option DirStop :=
  let res := fieldLe b 8 8
  let r := lookLoop (fieldLe b 16 4) s c q idx (fieldLe b 0 8) 0 []
  match r.2.2.2.2 with
  | some x => (r.1, 0, some x)
  | none =>
    let out := leBytes 4 r.2.1 ++ leBytes 1 r.2.2.2.1 ++ List.replicate 11 0 ++ r.2.2.1
    if !rangeOk res out.length then (r.1, 0, some (.unmapped res))
    else
      let s := writeMem (ddrTake r.1 .write c.urgent res out.length) res out
      (modCmd s c.id (fun k => { k with outs := k.outs ++ [(res, out.length)] }), r.2.1, none)

/-- The prompts of a lookup in list order (R265): the blocks matched. -/
def lookAll : List (List Byte × Nat) → State → Cmd → LookArg → Nat → State × Nat × Option DirStop
  | [], s, _, _, m => (s, m, none)
  | b :: t, s, c, q, m =>
    match lookPrompt s c q b.2 b.1 with
    | (s, _, some r) => (s, m, some r)
    | (s, k, none) => lookAll t s c q (m + k)

/-- End a command as the engine's stop says, or go on. -/
def dirEnd (s : State) (c : Cmd) (stop : Option DirStop) (k : Out) : Out :=
  match stop with
  | none => k
  | some (.bad tile a) => .next (exhaustAll s c.id tile a)
  | some (.unmapped a) => .fault (.badAddress a)

/-- The age of an entry (R263). -/
def dirAge (s : State) (x : DirEntry) : Nat := (s.dir.clock.toNat + 65536 - x.age % 65536) % 65536

/-- The entry that an insertion evicts: the oldest with REF 0, the lowest way among equals (R263, R269). -/
def dirVictim (s : State) (l : List (Nat × DirEntry)) : Option (Nat × DirEntry) :=
  (l.filter (fun p => p.2.ref = 0)).foldl (fun a p => match a with
    | none => some p
    | some y => if dirAge s y.2 < dirAge s p.2 then some p else some y) none

/-- What inserting a record does: its outcome, entry and evicted LOC, or none when the set is full of references. -/
def insertStep (s : State) (urgent acquire : Bool) (x : DirEntry) : Option (State × Nat × Nat × Nat) :=
  let s := (setEntries s x.hash).foldl (fun s e => hotRead s urgent e) s
  let l := (setEntries s x.hash).map (fun e => (e, dirAt s e))
  let new : DirEntry := { x with age := s.dir.clock.toNat, ref := bit01 acquire }
  match l.find? (fun p => p.2.valid && p.2.hash = x.hash && p.2.span = x.span && p.2.peer = x.peer) with
  | some (e, y) =>
    some (dirPut s urgent e { y with
      age := s.dir.clock.toNat, ref := if acquire && y.ref < 65535 then y.ref + 1 else y.ref }, 2, e, 0)
  | none =>
    match l.find? (fun p => !p.2.valid) with
    | some (e, _) => some (dirPut s urgent e new, 0, e, 0)
    | none => (dirVictim s l).map (fun p => (dirPut s urgent p.1 new, 1, p.1, p.2.loc))

/-- What an insertion reads: the tags and entries of the record's set. -/
def setReads (s : State) (h : Nat) : List (Nat × Nat) :=
  (tagAddr s (8 * hashSet s h), 16) :: (setEntries s h).map (entryRange s)

/-- Insert the records of a list in order (R269): records inserted, evictions, and where it stopped: an error, or the
record whose set is full of references. -/
def insertRecords : List (DirEntry × Nat) → State → Cmd → Bool → Nat → Nat → Nat → State × Nat × Nat × Option (DirStop ⊕ Nat)
  | [], s, _, _, _, n, v => (s, n, v, none)
  | (x, r) :: t, s, c, acq, res, n, v =>
    let q := dirReads s c true (dirTile r) (setReads s x.hash)
    match q.2 with
    | some y => (q.1, n, v, some (.inl y))
    | none => match insertStep q.1 c.urgent acq x with
      | none => (q.1, n, v, some (.inr r))
      | some (s, o, e, old) =>
        let a := res + 16 * r
        let s := writeMem (ddrTake s .write c.urgent a 16) a (leBytes 1 o ++ [0, 0, 0] ++ leBytes 4 e ++ leBytes 8 old)
        insertRecords t s c acq res (if o = 2 then n else n + 1) (if o = 1 then v + 1 else v)

/-- One release (R270): 0 acted, 1 mismatch, 2 counted under the REF rules. -/
def releaseStep (s : State) (urgent inval : Bool) (e h : Nat) : State × Nat :=
  if 2 ^ s.dir.log2e ≤ e then (s, 1)
  else
    let s := hotRead s urgent e
    let x := dirAt s e
    if !x.valid || x.hash != h then (s, 1)
    else if inval then
      if x.ref = 0 then (dirPut s urgent e { x with loc := x.loc - 2 ^ 56 }, 0) else (s, 2)
    else if x.ref = 0 then (s, 2)
    else (dirPut s urgent e { x with ref := x.ref - 1 }, 0)

/-- Release the records of a list in order: (entry, hash, index), with how many acted, mismatched and were counted. -/
def releaseRecords : List (Nat × Nat × Nat) → State → Cmd → Bool → Nat × Nat × Nat →
    State × (Nat × Nat × Nat) × Option DirStop
  | [], s, _, _, n => (s, n, none)
  | (e, h, r) :: t, s, c, inval, n =>
    let d := dirReads s c true (dirTile r) (if e < 2 ^ s.dir.log2e then [entryRange s e] else [])
    match d.2 with
    | some x => (d.1, n, some x)
    | none =>
      let q := releaseStep d.1 c.urgent inval e h
      releaseRecords t q.1 c inval (match q.2 with
        | 0 => (n.1 + 1, n.2.1, n.2.2)
        | 1 => (n.1, n.2.1 + 1, n.2.2)
        | _ => (n.1, n.2.1, n.2.2 + 1))

/-- The hashes of a prompt's blocks (R257): `n` blocks of `b` tokens from an address, each over the hash before it. -/
def blockHashes : Nat → State → Nat → Nat → W64 → List Byte → List Byte
  | 0, _, _, _, _, _ => []
  | n + 1, s, a, b, tag, prev =>
    let h := shake256 (prev ++ readMem s a (4 * b) ++ leBytes 8 tag.toNat) 16
    h ++ blockHashes n s (a + 4 * b) b tag h

/-- One prompt of a `PREFIX_HASH` (R258); its reads have been taken (R259). -/
def hashPrompt (s : State) (c : Cmd) (b : Nat) (tag : W64) (d : List Byte) : State :=
  let n := fieldLe d 24 4 / b
  let p := fieldLe d 16 8
  let prev := if p = 0 then List.replicate 16 0 else readMem s p 16
  let out := blockHashes n s (fieldLe d 0 8) b tag prev
  let a := fieldLe d 8 8
  let s := ddrTake s .write c.urgent a out.length
  modCmd (writeMem s a out) c.id (fun k => { k with outs := k.outs ++ (if n = 0 then [] else [(a, 16 * n)]) })

/-- The directory clock takes a step (R263). -/
def dirStep (s : State) : State := { s with dir := { s.dir with clock := s.dir.clock + 1 } }

end Sys2Proof.Machine
end

