-- ==== Sys2Proof/Machine/Prefix.lean ====
section
/-!
DEFINITION. The rows of the prefix directory (chapter 10). Each command runs whole at its dispatch: its single steps reach
the table in list order (R265; log entry 32).
-/
namespace Sys2Proof.Machine

/-- The entries of a list in device memory. -/
def listAt (s : State) (a size n : Nat) : List (List Byte) :=
  (List.range n).map (fun k => readMem s (a + size * k) size)

/-- The reads of a list, by entry. -/
def listReads (a size n : Nat) : List (Nat × Nat × Nat) := (List.range n).map (fun k => (k, a + size * k, size))

/-- The values of a prompt descriptor (Table 10.1). -/
def promptOk (d : List Byte) : Bool :=
  fieldLe d 8 8 % 16 = 0 && fieldLe d 24 4 ≤ 2 ^ 24 && fieldLe d 28 4 = 0

/-- The ranges that a prompt's hashing reads and writes can be reached. -/
def promptReach (b : Nat) (d : List Byte) : Bool :=
  let n := fieldLe d 24 4 / b
  rangeRead (fieldLe d 0 8) (4 * b * n) && (fieldLe d 16 8 = 0 || n = 0 || rangeRead (fieldLe d 16 8) 16) &&
    rangeOk (fieldLe d 8 8) (16 * n)

/-- What a prompt's hashing reads: tokens, and the hash that it starts from. -/
def promptReads (b idx : Nat) (d : List Byte) : List (Nat × Nat × Nat) :=
  let n := fieldLe d 24 4 / b
  if n = 0 then []
  else (if fieldLe d 16 8 = 0 then [] else [(idx, fieldLe d 16 8, 16)]) ++ [(idx, fieldLe d 0 8, 4 * b * n)]

/-- PREFIX_HASH (R257, R258). -/
def execPrefixHash (i : Fin 64) (s : State) : Out :=
  issue s i (opSel 0x0400) (fun s c =>
    let a := c.par 0 8
    let n := c.par 16 2
    let b := c.par 18 2
    checked c 3 (a % 32 = 0 && 1 ≤ n && n ≤ 4096 && [64, 128, 256, 512, 1024].contains b && c.par 20 4 = 0)
      (reaches (rangeRead a (32 * n)) a
        (readsWell s c (listReads a 32 n) (fun s =>
          (let ds := listAt s a 32 n
           checked c 3 (ds.all promptOk)
            (reaches (ds.all (promptReach b)) ((ds.find? (fun d => !promptReach b d)).elim 0 (fun d => fieldLe d 0 8))
              (readsWell s c ((ds.zipIdx).flatMap (fun d => promptReads b d.2 d.1)) (fun s =>
                (let s := ds.foldl (fun s d => hashPrompt s c b (BitVec.ofNat 64 (c.par 8 8)) d) s
                 doneWith s c (ds.foldl (fun m d => m + fieldLe d 24 4 / b) 0))))))))))

/-- PREFIX_LOOKUP (R266, R267). -/
def execPrefixLookup (i : Fin 64) (s : State) : Out :=
  issue s i (opSel 0x0401) (fun s c =>
    let a := c.par 0 8
    let n := c.par 8 2
    let f := c.par 10 1
    let q : LookArg :=
      { acquire := bitOf f 0, localOnly := bitOf f 1, layerFirst := c.par 12 2, layerCount := c.par 14 2 }
    checked c 2 (a % 32 = 0 && 1 ≤ n && n ≤ 4096 && f < 4 && c.par 11 1 = 0 && q.layerFirst < 4096 && 1 ≤ q.layerCount &&
        q.layerCount ≤ 1024)
      (reaches (rangeRead a (32 * n)) a
        (readsWell s c (listReads a 32 n) (fun s =>
          (let ds := listAt s a 32 n
           checked c 2 (ds.all (fun d => fieldLe d 8 8 % 16 = 0 && fieldLe d 20 12 = 0))
            (let r := lookAll ds.zipIdx s c q 0
             dirEnd r.1 c r.2.2 (doneWith r.1 c (r.2.1 + (if q.acquire then r.2.1 else 0) * 2 ^ 32))))))))

/-- A record that R262 allows: VALID set, reserved bits zero. -/
def recordOk (x : DirEntry) : Bool :=
  x.valid && bitsOf x.loc 63 58 = 0 && (x.peer || (bitsOf x.loc 55 40 = 0 && x.loc % 65536 = 0))

/-- PREFIX_INSERT (R269); in repeatable mode the directory clock steps with it (R263). -/
def execPrefixInsert (i : Fin 64) (s : State) : Out :=
  issue s i (opSel 0x0402) (fun s c =>
    let a := c.par 0 8
    let res := c.par 8 8
    let n := c.par 16 4
    let f := c.par 20 1
    checked c 3 (a % 32 = 0 && res % 16 = 0 && 1 ≤ n && n ≤ 65536 && f < 2 && c.par 21 3 = 0)
      (reaches (rangeRead a (32 * n)) a (reaches (rangeOk res (16 * n)) res
        (let s := if s.lock.repeatable then dirStep s else s
         readsWell s c (listReads a 32 n) (fun s =>
          (let xs := (listAt s a 32 n).map entryOf
           checked c 3 (xs.all recordOk)
            (let r := insertRecords xs.zipIdx s c (f = 1) res 0 0
             match r.2.2.2 with
             | none => doneWriting r.1 c [(res, 16 * n)] (r.2.1 + r.2.2.1 * 2 ^ 32)
             | some (.inl y) => dirEnd r.1 c (some y) (.next r.1)
             | some (.inr k) => .next (failCmd r.1 c.id (localCause s .dirSetFull 0 k)))))))))

/-- PREFIX_RELEASE (R270). -/
def execPrefixRelease (i : Fin 64) (s : State) : Out :=
  issue s i (opSel 0x0403) (fun s c =>
    let a := c.par 0 8
    let n := c.par 8 4
    let m := c.par 12 1
    checked c 2 (a % 8 = 0 && 1 ≤ n && n ≤ 65536 && m < 2 && c.par 13 3 = 0)
      (reaches (rangeRead a (24 * n)) a
        (readsWell s c (listReads a 24 n) (fun s =>
          (let ds := listAt s a 24 n
           checked c 2 (ds.all (fun d => fieldLe d 4 4 = 0))
            (let r := releaseRecords ((ds.zipIdx).map (fun d => (fieldLe d.1 0 4, fieldLe d.1 8 16, d.2)))
              s c (m = 1) (0, 0, 0)
             dirEnd r.1 c r.2.2 (doneWith r.1 c
              (satTo (2 ^ 32 - 1) r.2.1.1 + satTo 65535 r.2.1.2.1 * 2 ^ 32 + satTo 65535 r.2.1.2.2 * 2 ^ 48))))))))

/-- DIRECTORY_CLOCK (R263): every 2^24 ticks, the step of Table 10.2, while repeatable mode is off; a step that is overdue is
taken at once, and the rhythm stays. -/
def execDirectoryClock (s : State) : Out :=
  if s.lock.repeatable then .next s
  else
    let t := s.dir.stepped + s.dir.clockStep
    let s := dirStep (advanceTo s t)
    ok { s with dir := { s.dir with stepped := t } }

end Sys2Proof.Machine
end

