-- ==== Sys2Proof/Machine/Recovery.lean ====
section
/-!
DEFINITION. The rows of faults and recovery (chapters 08, 14): the command watchdog (R369 to R371), errors detected in a
read (R222), the period of the error counts (R364).
-/
namespace Sys2Proof.Machine

/-- The period of a command's watchdog in microseconds (R369, R243). -/
def watchdogUs (s : State) (c : Cmd) : Nat :=
  if c.hdr.watchdogUs = 0 then
    match c.work with
    | .seal ch => 2 * (getChannel s ch).timeoutUs
    | _ => s.err.watchdogUs.toNat
  else min 60000000 (max 1000 c.hdr.watchdogUs)

/-- The command is a `SLUICE_REARM` whose chain is pending as a shadow. -/
def isShadow (s : State) (id : CmdId) : Bool := s.sluices.any (fun p => (p.2.shadow.map (·.cmd)) = some id)

/-- The watchdog of a command counts (R369). -/
def watched (s : State) (c : Cmd) : Bool :=
  match c.work with
  | .held | .waitEvents _ | .fence _ | .launch _ => false
  | _ => !holdsPreempted s c.id && !isShadow s c.id

/-- Expiry (R369, R371): the cause WATCHDOG, logged as class 0x21, ends the command; DETAIL is an advisory cause posted
before it, if there was one. -/
def expire (s : State) (c : Cmd) : State :=
  let k := { localCause s .watchdog 0 0 with log := BitVec.ofNat 16 (s.err.seq + 1) }
  let s := { s with err := { s.err with watchdogs := s.err.watchdogs + 1 } }
  postEnding s c.id { causeEnding k with cause := some (c.advisory.getD k) } (fun s c sev =>
    logFault s k.code.cls sev 0 0 (some c) 0 (causeWord k false) 0)

/-- Every party that the detector watches: the threads and load ports of the cores, and the sluices (R205). -/
def allParties : List StallParty :=
  (List.finRange 16).flatMap (fun c => (List.finRange 8).map (StallParty.thread c) ++ (List.finRange 2).map (StallParty.loadPort c)) ++
    (List.finRange 160).map StallParty.sluice

/-- The deadlock detector has posted by a tick at which a watchdog expires, or posts in that tick, which goes first (R205): of the
stalls of the command that have lasted 1 ms by then, the earliest. -/
def detectorFirst (s : State) (c : CmdId) (t : Nat) : State :=
  let due := allParties.flatMap (fun p => ((partyStalls s p).filter (fun x =>
    x.1.id = c && x.1.advisory.isNone && deadlockAt s p x.1 x.2 ≤ t)).map (fun x => (p, x)))
  match due.foldl (fun (a : Option (StallParty × Cmd × Nat)) x => match a with
    | none => some x
    | some y => if deadlockAt s x.1 x.2.1 x.2.2 < deadlockAt s y.1 y.2.1 y.2.2 then some x else some y) none with
  | some (p, c, k) => postDeadlock s p c k
  | none => s

/-- WATCHDOG (R369): what the detector has posted by then is the DETAIL. -/
def execWatchdog (c : CmdId) (s : State) : Out :=
  match findCmd s c with
  | some k =>
    if watched s k then
      let t := k.progress + us (watchdogUs s k)
      let s := detectorFirst s c t
      match findCmd s c with
      | some k => ok (expire (advanceTo s t) k)
      | none => .next s
    else .next s
  | none => .next s

/-- The granule or access of an address reads as bad from now on (R221, R223). -/
def markBad (s : State) (a : Nat) : State :=
  let g := a / granuleBytes a * granuleBytes a
  if ((canon g).isNone && !isAcc g) || s.mem.bad.contains (badKey g) then s
  else { s with mem := { s.mem with bad := s.mem.bad ++ [badKey g] } }

/-- Where a failing read of a step lies: in a core's own memories (R364), or at an address. -/
structure FailAt where
  own : Option Nat := none
  addr : Nat

/-- One detected error of a step that has been re-run `n` times, with the step's coordinates (R222): an error in the stored
data recurs until the command ends; a transient one is a re-run, which `count` counts, or after three of them the end.
`timed` is the core, 16 where there is none, on which a column block or a segment is re-run, a timing event (R313). -/
def stepError (s : State) (timed : Option Nat) (id : CmdId) (tile n : Nat) (at' : FailAt) (stored : Bool) (count : State → State) :
    State :=
  let time := fun (s : State) (k : Nat) => match timed with | some core => timedReruns s core k | none => s
  if stored then recursAt (time (if at'.own.isSome then s else markBad s at'.addr) 3) at'.own id tile at'.addr
  else if n < 3 then count (rerunAt (time s 1) at'.own id tile at'.addr)
  else exhaustAt s at'.own id tile at'.addr

/-- Coordinates of a column block of an item (Table 2.3); a stage is a `CHAIN`'s. -/
def itemTile (s : State) (id : CmdId) (idx col stage : Nat) : Nat :=
  match getItem s id idx with
  | some (_, w, x) => tileWord x.core x.arr x.entry x.tile (col / 128) (if w.kind = .chain then stage else 0)
  | none => 0

/-- A block is abandoned: what it has written stands in the accumulator, with the prior values in its undo area; the undo store
writes every prior value back, and the block begins again from its first column with the area empty (R64, R65). -/
def abandonBlock (s : State) (core arr : Nat) (q : Pass) : State :=
  let s := match passHere s core arr with
    | some (c, w, x, q, t) => undoBlock (writeBlock s core arr c w x q t) core arr w q
    | none => s
  putArray s core arr { (getArray s core arr).openUndo with pass := some { q with reruns := q.reruns + 1 } }

/-- An error in a read of the pass in progress on an array. -/
def passError (s : State) (core arr : Nat) (at' : FailAt) (stored : Bool) : State :=
  match (getArray s core arr).pass with
  | none => s
  | some q =>
    stepError s (some core) q.cmd (itemTile s q.cmd q.item (q.spec.n0 + q.done) (q.spec.load.prod + 1)) q.reruns at' stored
      (fun s => abandonBlock s core arr q)

/-- An error in a read of the epilogue at the head of a core's queue; `block` where what is re-run is the column block. -/
def epiError (s : State) (core : Nat) (at' : FailAt) (stored block : Bool) : State :=
  match (getCore s core).epiQ with
  | [] => s
  | e :: t =>
    let stage := match e.kind with
      | .product n => n
      | .finish => 3
      | _ => 0
    stepError s (if block then some core else none) e.cmd (itemTile s e.cmd e.item e.c0 stage) e.reruns at' stored (fun s =>
      putCore s core { getCore s core with epiQ := { e with reruns := e.reruns + 1 } :: t })

/-- An error in a read of score or T areas (R222): the step is the column block whose area it is. -/
def scoreError (s : State) (core arr a : Nat) (stored : Bool) : State :=
  let at' : FailAt := { own := some core, addr := a }
  match (getArray s core arr).pass with
  | some _ => passError s core arr at' stored
  | none => epiError s core at' stored true

/-- The coordinates of a segment in flight on a sluice, the oldest being 0 (R222): of a stationary tile that the scheduler
fetches, the command's own; of a descriptor, its index and the segment's, counted from the start of the sluice's part (DESIGN
CHOICE, log entry 149). -/
def segTile (s : State) (n : Nat) (c : SlChain) (k : Nat) : Nat :=
  match c.job with
  | some j => itemTile s j.tag.cmd j.tag.item 0 (j.tag.load.prod + 1)
  | none => tileWord (if n < 128 then n / 8 else 0) 0 0 c.idx ((c.pos - c.lo) / 4096 + k) 0

/-- The segments in flight from one on are re-run (R222). -/
def rerunFrom (c : SlChain) (k : Nat) : SlChain :=
  { c with reruns := (List.range 4).map (fun i => c.reruns.getD i 0 + (if k ≤ i && c.pos + 4096 * i < c.hi then 1 else 0)) }

/-- An error in a read by a sluice, in one of its segments in flight: that segment and those after it are re-run. -/
def segError (s : State) (n k a : Nat) (stored : Bool) : State :=
  let x := getSluice s n
  match x.active with
  | none => s
  | some c =>
    if c.hi ≤ c.pos + 4096 * k then s
    else
      stepError s (some (if n < 128 then n / 8 else 16)) c.cmd (segTile s n c k) (c.reruns.getD k 0) { addr := a } stored (fun s =>
        putSluice s n { getSluice s n with active := some (rerunFrom c k) })

/-- An error in any other read of a command: one that its dispatch is about to make waits for it (R222); a later one re-runs
that read alone. -/
def otherError (s : State) (id : CmdId) (tile a : Nat) (stored : Bool) : State :=
  match findCmd s id with
  | none => s
  | some c =>
    if isHeld c then
      if stored then markBad s a else modCmd s id (fun c => { c with flaws := c.flaws ++ [a] })
    else stepError s none id tile c.tries { addr := a } stored (fun s => modCmd s id (fun c => { c with tries := c.tries + 1 }))

/-- The read that merges the next partial write into a granule will meet an error (R221). -/
def mergeError (s : State) (a : Nat) (stored : Bool) : State :=
  if stored then markBad s a
  else { s with mem := { s.mem with mergeFlaws := s.mem.mergeFlaws ++ [badKey (a / granuleBytes a * granuleBytes a)] } }

/-- The next aperture read of a granule will meet an error (R224). -/
def apertureError (s : State) (a : Nat) (stored : Bool) : State :=
  if stored then markBad s a
  else { s with ap := { s.ap with flaws := s.ap.flaws ++ [badKey (a / granuleBytes a * granuleBytes a)] } }

/-- The coordinates of the next stationary load of a command on an array (Table 2.3). -/
def loadTileAt (s : State) (core arr : Nat) (id : CmdId) : Nat :=
  match nextLoad s id core arr with
  | some (_, _, x, l) => itemTile s id x.idx 0 (l.prod + 1)
  | none => tileWord core arr 0 0 0 0

/-- A detected error of a read, by the site of the read (R222). -/
def readError (s : State) (site : ErrSite) (a : Nat) (stored : Bool) : State :=
  match site with
  | .pass c r => passError s c.val r.val { addr := a } stored
  | .array c r => passError s c.val r.val { own := some c.val, addr := a } stored
  | .load c r id => otherError s id (loadTileAt s c.val r.val id) a stored
  | .epilogue c => epiError s c.val { addr := a } stored false
  | .statistic c => epiError s c.val { own := some c.val, addr := a } stored false
  | .score c r => scoreError s c.val r.val a stored
  | .segment n k => segError s n.val k.val a stored
  | .other id c e => otherError s id (otherTile c.val e.toNat) a stored
  | .merge => mergeError s a stored
  | .aperture => apertureError s a stored

/-- A single-bit error of an LPDDR5X access is corrected and counted on its channel (R223, Table 13.7). -/
def countCorrected (s : State) (a : Nat) : State :=
  if isDdr a then
    let ch := (a - ddrBase) / 256 % 64
    let x := getDdr s ch
    putDdr s ch { x with corrected := BitVec.ofNat 32 (satTo (2 ^ 32 - 1) (x.corrected.toNat + 1)) }
  else s

/-- A site whose reads lie in a core's own memories, which no address names. -/
def ownSite : ErrSite → Bool
  | .array _ _ | .statistic _ | .score _ _ => true
  | _ => false

/-- READ_ERROR (R222, R223): a single-bit LPDDR5X error is corrected; any other is detected. Data that reads as bad already
is an error in the stored data. -/
def execReadError (site : ErrSite) (addr : BitVec 40) (flaw : ReadFlaw) (s : State) : Out :=
  match flaw with
  | .corrected => .next (countCorrected s addr.toNat)
  | .transient => ok (readError s site addr.toNat (!ownSite site && rangeBad s addr.toNat 1))
  | .stored => ok (readError s site addr.toNat true)

/-- ERROR_PERIOD (R364): every 600 s from device reset. -/
def execErrorPeriod (s : State) : Out :=
  let n := s.err.periods + 1
  let s := advanceTo s (us (600000000 * n))
  .next { s with
    err := { s.err with periods := n }
    cores := s.cores.map (fun p => (p.1, { p.2 with reruns := 0, exhausted := 0 })) }

end Sys2Proof.Machine
end

