-- ==== Sys2Proof/Machine/Security.lean ====
section
/-!
DEFINITION. The rows of the security commands and of flash writes (chapter 15): ATTEST, FW_STAGE, FW_COMMIT, DEBUG_UNLOCK.
-/
namespace Sys2Proof.Machine

/-- ATTEST (R390). -/
def execAttest (i : Fin 64) (s : State) : Out :=
  issue s i (opSel 0x0500) (fun s c =>
    let a := c.par 32 8
    checked c 6 (a % 64 = 0 && c.par 40 8 = 0)
      (reaches (rangeOk a 5968) a
        (.next (if secBusy s then startWork s c (.attestWait (slice c.params 0 32) a)
          else attestNow s c.id c.urgent (slice c.params 0 32) a))))

/-- The staging of a verified image begins (Table 15.6): WRITING, or it waits for the security block (R385). -/
def stageImage (s : State) (c : Cmd) (img : List Byte) : State :=
  if secBusy s then startWork s c (.fwStage img false) else writingNow s c.id img

/-- FW_STAGE (R388): a failed verification leaves every slot and the staging state untouched. -/
def execFwStage (i : Fin 64) (s : State) : Out :=
  issue s i (opSel 0x0501) (fun s c =>
    let a := c.par 0 8
    let n := c.par 8 4
    checked c 2 (a % 64 = 0 && n ≤ 2 ^ 20 && c.par 12 4 = 0)
      (reaches (rangeRead a n) a
        (readsWell s c [(0, a, n)] (fun s =>
          (let img := readMem s a n
           match verifyImage s.warden img with
           | some k => .next (authFail s c.id k)
           | none => .next (stageImage s c img))))))

/-- FLASH_WRITE_COMPLETE (R387, R388): STAGED; DETAIL is SVN and slot. -/
def execFlashWriteComplete (s : State) : Out :=
  match s.cmds.findSome? (fun c => match c.work with | .fwStage img true => some (c.id, img) | _ => none) with
  | some (id, img) =>
    if s.warden.fwState = .writing then
      let slot := !s.warden.activeSlot
      let w := partWrite (setSlotValid (setSlotImage { s.warden with fwState := .staged } slot img) slot true)
      ok (setWork { s with warden := w } id (.done (imgSvn img + bit01 slot * 2 ^ 32)))
    else .next s
  | none => .next s

/-- FW_COMMIT (R389): PENDING; DETAIL is the staged SVN. -/
def execFwCommit (i : Fin 64) (s : State) : Out :=
  issue s i (opSel 0x0502) (fun s c =>
    checked c 0 true
      (match s.warden.fwState with
        | .none | .writing => .next (reject s c.id 0x07 s.warden.fwState.code 0)
        | .staged | .pending =>
          doneWith { s with warden := partWrite { s.warden with fwState := .pending } } c (svnStaged s.warden)))

/-- Bytes of a response record: with the owner's signature when a key is registered (Table 15.9). -/
def recordBytes (s : State) : Nat := if s.warden.ownerKey.isSome then 6746 else 3437

/-- DEBUG_UNLOCK (R392, R393): acceptance or any failure consumes the challenge, an error of its read too. -/
def execDebugUnlock (i : Fin 64) (s : State) : Out :=
  issue s i (opSel 0x0504) (fun s c =>
    let a := c.par 0 8
    let n := recordBytes s
    checked c 2 (c.par 8 8 = 0)
      (reaches (rangeRead a n) a
        (readsWell { s with sec := { s.sec with challenge := none } } c [(0, a, n)] (fun t =>
          (let r := readMem t a n
           match verifyDebug { t with sec := { t.sec with challenge := s.sec.challenge } } r with
           | some k => .next (authFail t c.id k)
           | none => .next (if secBusy t then startWork t c (.unlockWait r) else unlockNow t c.id r))))))

end Sys2Proof.Machine
end

