-- ==== Sys2Proof/Machine/TideRows.lean ====
section
/-!
DEFINITION. The rows of the tide and of lock-step (chapter 12, R409): SYNC and delay measurement, corrections, TIDE_REF,
the release of DIKE, PAIR, UNPAIR, DIGEST, DIVERGE.
-/
namespace Sys2Proof.Machine

/-- The module that is the master of a ring's time by its own settings (R315). -/
def isReference (t : Tide) : Bool := t.master && t.source = 0 && t.syncEn

/-- It sends SYNC: the reference, or the module that reads TIDE_REF (R315). -/
def sendsSync (t : Tide) : Bool := isReference t || (t.source = 1 && t.syncEn)

/-- The bundles with a Thondlink port up. -/
def upBundles (s : State) : List Nat := (List.range 6).filter (fun b => (bundlePorts s b).any (portUp s))

/-- The chip at the other end of a bundle. -/
def bundleChip (s : State) (b : Nat) : BitVec 12 :=
  match (bundlePorts s b).filter (portUp s) with
  | p :: _ => (getPort s p).partnerChip
  | [] => 0

/-- SYNC, kind 0x22, with the master's chip and count and the delay of the links it has crossed, out of a bundle (R315; log
entries 20, 123). -/
def sendSync (chip : BitVec 12) (count : W64) (way : Nat) (s : State) (b : Nat) : State :=
  onBundle s b
    { ctlPacket s 0x22 (bundleChip s b) with
      aux := chip.zeroExtend 16, payload := leBytes 8 count.toNat ++ leBytes 8 way } .none none

/-- A packet of delay measurement out of one port (R315): DELAY_REQ 0x23, DELAY_RESP 0x24 (log entry 20). -/
def sendDelay (kind : Nat) (b : List Byte) (s : State) (p : Nat) : State :=
  enqueue s p { pkt := { ctlPacket s kind (getPort s p).partnerChip with payload := b } }

/-- The tide counter steps to a count. -/
def setCount (s : State) (n : Nat) : State := { s with tide := { s.tide with count := BitVec.ofNat 64 n } }

/-- Set the estimated offset, in units of 1/28 ns. -/
def setOffset (s : State) (d : Int) : State := { s with tide := { s.tide with offset := d } }

/-- SYNC_PERIOD (R315): at the next multiple of 2^14 ticks the master sends SYNC, and every link is measured. -/
def execSyncPeriod (s : State) : Out :=
  if s.tide.syncEn then
    let n := s.tide.periods + 1
    let s := advanceTo s (16384 * n)
    let s := { s with tide := { s.tide with periods := n } }
    let s := if sendsSync s.tide then (upBundles s).foldl (sendSync s.rcd.chipId s.tide.count 0) s else s
    ok (((List.range 12).filter (thlUp s)).foldl (sendDelay 0x23 (leBytes 8 s.tide.count.toNat)) s)
  else .next s

/-- The master's count as its SYNC arrives after a way, in units of 1/28 ns: a tick is 40, a delay unit 7. -/
def masterNow (count : W64) (way : Nat) : Nat := 40 * count.toNat + 7 * way

/-- What a SYNC does to a module that follows the ring's messages (R315): UNSYNC begins acquiring, ACQUIRING steps the
counter once and tracks, TRACKING estimates the offset. `m` is the master's count in units of 1/28 ns. -/
def followSync (s : State) (chip : BitVec 12) (m : Nat) : State :=
  let s := { s with tide := { s.tide with lastSync := s.clk.ticks, masterChip := chip } }
  match s.tide.st with
  | .unsync => setTideState s .acquiring
  | .acquiring =>
    let n := (m + 20) / 40
    setTideState (setOffset (setCount s n) ((40 * n : Nat) - (m : Int))) .tracking
  | .tracking => setOffset s ((40 * s.tide.count.toNat : Nat) - (m : Int))

/-- SYNC_RECEIVE (R315): forwarded out of every other bundle with the delay of the links crossed, and followed. -/
def execSyncReceive (p : Fin 12) (chip : BitVec 12) (count : SyncCount) (s : State) : Out :=
  if thlUp s p.val && s.tide.syncEn && !sendsSync s.tide then
    let way := count.way + (getPort s p.val).delay
    let s := ((upBundles s).filter (· != bundleOf s p.val)).foldl (sendSync chip count.count way) s
    ok (if s.tide.source = 0 then followSync s chip (masterNow count.count way) else s)
  else .next s

/-- DELAY_REQ_RECEIVE (R315): answered with the request's stamp. -/
def execDelayReqReceive (p : Fin 12) (stamp : W64) (s : State) : Out :=
  if thlUp s p.val then ok (sendDelay 0x24 (leBytes 8 stamp.toNat) s p.val) else .next s

/-- DELAY_RESP_RECEIVE (R315): the link's delay, in 0.25 ns. -/
def execDelayRespReceive (p : Fin 12) (quarterNs : Nat) (s : State) : Out :=
  if thlUp s p.val && s.tide.syncEn then .next (putPort s p.val { getPort s p.val with delay := quarterNs }) else .next s

/-- One correction: a tick skipped moves the count on by one, a tick repeated holds it back by one; it is a timing event
(R315, Table 12.3). -/
def correct (s : State) (skip : Bool) : State :=
  let t := s.tide
  let n := if skip then t.count + 1 else t.count - 1
  timingEvent { s with tide := { t with
    count := n, offset := if skip then t.offset + 40 else t.offset - 40
    lastCorrection := some s.clk.ticks } } .correction 1

/-- A module that corrects its counter: one in TRACKING that is not the reference, or one that TIDE_REF aligns (R315,
R409). -/
def corrects (t : Tide) : Bool := !isReference t && (t.st = .tracking || (t.source = 1 && t.syncEn && t.st != .unsync))

/-- TIDE_CORRECTION (R315): where the estimate lies half a tick or more off the master (log entry 124), one tick is repeated
by a module ahead, skipped by one behind, at least 1,024 ticks after the last. The row names the direction; one that the
offset does not ask for cannot arise (log entry 1). -/
def execTideCorrection (skip : Bool) (s : State) : Out :=
  if corrects s.tide && 20 ≤ s.tide.offset.natAbs && skip = decide (s.tide.offset < 0) then
    let s := match s.tide.lastCorrection with
      | some k => advanceTo s (k + 1024)
      | none => s
    ok (correct s skip)
  else .next s

/-- SYNC_LOST (R315): 16 SYNC messages in a row have been missed. -/
def execSyncLost (s : State) : Out :=
  let t := s.tide
  if t.source = 0 && t.syncEn && !t.master && t.st != .unsync then
    let s := advanceTo s (t.lastSync + 16 * 16384)
    let s := if s.tide.st = .tracking then s
      else { s with tide := { s.tide with syncLost := true, syncLostCount := s.tide.syncLostCount + 1 } }
    ok (setTideState s .unsync)
  else .next s

/-- A later edge of TIDE_REF (R409): the count is corrected toward a multiple of 716,800 under the rule of TRACKING. -/
def alignEdge (s : State) : State :=
  let r := s.tide.count.toNat % 716800
  let late := 358400 ≤ r
  let s := setOffset s (if late then 40 * ((r : Int) - 716800) else 40 * (r : Int))
  let due := match s.tide.lastCorrection with
    | some k => k + 1024 ≤ s.clk.ticks
    | none => true
  if r = 0 || !due then s else correct s late

/-- One more edge that needed no step; at the second the module tracks (R409). -/
def countEdge (s : State) : State :=
  let s := { s with tide := { s.tide with refEdges := s.tide.refEdges + 1 } }
  if 2 ≤ s.tide.refEdges then setTideState s .tracking else s

/-- TIDE_REF_EDGE (R409): the first edge steps the counter to the next multiple of 716,800; later ones correct it. -/
def execTideRefEdge (s : State) : Out :=
  if s.tide.source = 1 && s.tide.syncEn then
    let s := { s with tide := { s.tide with masterChip := s.rcd.chipId } }
    let r := s.tide.count.toNat % 716800
    ok (match s.tide.st with
      | .unsync =>
        let s := setTideState s .acquiring
        if r = 0 then countEdge (setOffset s 0) else setOffset (setCount s (s.tide.count.toNat + (716800 - r))) 0
      | _ => countEdge (alignEdge s))
  else .next s

/-- DIKE_RELEASE (R318): at its estimate of the master's tick R the member releases, with DETAIL R. -/
def execDikeRelease (c : CmdId) (s : State) : Out :=
  match findCmd s c with
  | some k => match k.work with
    | .dike w => match w.release with
      | some r => ok (setWork (reachCount s r) c (.done r))
      | none => .next s
    | _ => .next s
  | none => .next s

/-- PAIR_RECEIVE (R319). -/
def execPairReceive (p : Fin 12) (chip : BitVec 12) (names : BitVec 12) (s : State) : Out :=
  if thlUp s p.val && names = s.rcd.chipId then
    ok (pairUpCheck { s with lock := { s.lock with pairFrom := some chip } })
  else .next s

/-- UNPAIR_RECEIVE (R319): the lock-step commands in flight end with `ABORTED`, and the pairing lapses. -/
def execUnpairReceive (p : Fin 12) (chip : BitVec 12) (s : State) : Out :=
  if !thlUp s p.val then .next s
  else if s.lock.established && chip = s.lock.partner then
    let k := { localCause s .abortCmd 0 0 with chip := chip }
    ok (lapse ((lockCmds s).foldl (fun s id => failCmd s id k) s))
  else if s.lock.pairFrom = some chip then .next { s with lock := { s.lock with pairFrom := none } }
  else .next s

/-- DIGEST_RECEIVE (R321). -/
def execDigestReceive (p : Fin 12) (inlet : Fin 64) (seq item : Nat) (digest : W64) (s : State) : Out :=
  if thlUp s p.val && s.lock.established then
    ok (theirDigest s { inlet := inlet.val, seq := seq, item := item, value := digest })
  else .next s

/-- The coordinates of an item on this module, where it ran or runs (R322). -/
def namedTile (c : Cmd) (item : Nat) : Nat :=
  match c.work with
  | .array w =>
    let off := if w.kind = .attendB then w.phaseA else 0
    match w.items.find? (fun x => off + x.idx = item) with
    | some x => tileWord x.core x.arr x.entry x.tile 0 0
    | none => tabGet w.places 0 item
  | _ => 0

/-- The lock-step command in flight of an inlet and sequence. -/
def lockCmd (s : State) (inlet seq : Nat) : Option Cmd :=
  s.cmds.find? (fun c => c.inlet = inlet && c.lockSeq = seq && flagSet c.hdr 3 && !isHeld c)

/-- DIVERGE_RECEIVE (R322): the named command ends, unless it has ended on a mismatch of its own. -/
def execDivergeReceive (p : Fin 12) (inlet : Fin 64) (seq item : Nat) (s : State) : Out :=
  if thlUp s p.val && s.lock.established then
    match lockCmd s inlet.val seq with
    | some c => ok (endDiverged s c.id (namedTile c item))
    | none => .next s
  else .next s

end Sys2Proof.Machine
end

