-- ==== Sys2Proof/Machine/Transfers.lean ====
section
/-!
DEFINITION. The rows of windows, point-to-point transfers and collectives that a host dispatches (chapter 11).
-/
namespace Sys2Proof.Machine

/-- State code of a window by number (Table 11.6). -/
def winCode (s : State) (w : Nat) : Nat := (getWindow s w).st.code

/-- WINDOW_OPEN (R286, R287). -/
def execWindowOpen (i : Fin 64) (s : State) : Out :=
  issue s i (opSel 0x0300) (fun s c =>
    let w := c.par 0 2
    let f := c.par 2 1
    let base := c.par 8 8
    let n := c.par 16 8
    let x := getWindow s w
    checked c 3 (w < 4096)
      (if x.st != .closed then .next (reject s c.id 0x02 (winCode s w) w)
       else checked c 3 (f < 8 && c.par 3 5 = 0 && base % 4096 = 0 && n % 4096 = 0 && 4096 ≤ n && n ≤ 2 ^ 38)
        (reaches (rangeWindow base n) base
          (let gen : W16 := if x.gen = 0xFFFF then 1 else x.gen + 1
           doneWith (putWindow s w { x with
            st := .open, gen := gen, thl := bitOf f 0, rdmaWrite := bitOf f 1, rdmaRead := bitOf f 2
            base := base, bytes := n, drainRefused := 0 }) c gen.toNat))))

/-- WINDOW_CLOSE (R288): the window drains; it closes, and the command completes, once time has moved on. -/
def execWindowClose (i : Fin 64) (s : State) : Out :=
  issue s i (opSel 0x0301) (fun s c =>
    let w := c.par 0 2
    checked c 1 (w < 4096)
      (let x := getWindow s w
       if x.st != .open then .next (reject s c.id 0x02 (winCode s w) w)
       else checked c 1 (c.par 2 6 = 0) (.next (startWork (putWindow s w { x with st := .draining, drainRefused := 0, drainFrom := s.clk.ticks }) c
        (.windowClose w)))))

/-- The parameters of `SEND` (R293). -/
def sendOf (b : List Byte) : SendWork :=
  { group := fieldLe b 0 2, mode := fieldLe b 2 1, sflags := fieldLe b 3 1, rank := fieldLe b 4 2, event := fieldLe b 6 2
    src := fieldLe b 8 8, rowBytes := fieldLe b 16 4, rows := fieldLe b 20 4, srcStride := fieldLe b 24 4
    dstStride := fieldLe b 28 4, dstOffset := fieldLe b 32 8, window := fieldLe b 40 2, gen := fieldLe b 42 2
    tag := fieldLe b 44 4, fwdEvent := fieldLe b 48 2 }

/-- The values of `SEND` (R293). -/
def sendOk (s : State) (b : List Byte) (w : SendWork) : Bool :=
  w.mode ≤ 2 && w.sflags ≤ 1 && (w.mode = 2 || w.rank < groupSize s w.group) && 16 ≤ w.rowBytes && w.rowBytes ≤ 2 ^ 24 &&
    w.rowBytes % 16 = 0 && 1 ≤ w.rows && w.rows ≤ 2 ^ 24 && (w.mode != 0 || w.window < 4096) && fieldLe b 50 6 = 0

/-- Begin a `SEND` in its mode (R294, R295, R301). -/
def sendStart (s : State) (c : Cmd) (w : SendWork) : State :=
  match w.mode with
  | 0 =>
    let w := { w with started := true, issued := true, bytes := w.rowBytes * w.rows }
    sendRows (startWork s c (.send w)) c.id c.urgent w
      { chip := memberChip s w.group w.rank, window := w.window, gen := w.gen, offset := w.dstOffset
        stride := w.dstStride, vc := 1, kind := 0x01 } w.rows
  | 1 => sendRts (startWork s c (.send w)) c.id w
  | _ =>
    let q := takeSeq s w.group
    startWork q.2 c (.send { w with seq := q.1 })

/-- SEND (R293 to R295, R301). -/
def execSend (i : Fin 64) (s : State) : Out :=
  issue s i (opSel 0x0302) (fun s c =>
    let w := sendOf c.params
    checked c 7 (w.group < 256)
      (withGroup s c w.group
        (checked c 7 (sendOk s c.params w)
          (reaches (tensorOk rangeRead w.src w.srcStride w.rows w.rowBytes) w.src (.next (sendStart s c w))))))

/-- Match a posted `RECV` with the oldest RTS that it takes (R295). -/
def recvMatch (s : State) (c : Cmd) : State :=
  match s.net.rts.find? (recvTakes c) with
  | none => s
  | some r => matchRts { s with net := { s.net with rts := s.net.rts.erase r } } c r

/-- RECV (R295, R296). -/
def execRecv (i : Fin 64) (s : State) : Out :=
  issue s i (opSel 0x0303) (fun s c =>
    let g := c.par 0 2
    let w := c.par 8 2
    checked c 4 (g < 256)
      (withGroup s c g
        (checked c 4 (w < 4096 && c.par 10 6 = 0 && c.par 2 2 < groupSize s g && (getWindow s w).st = .open)
          (let k : Work := .recv
            { group := g, rank := c.par 2 2, tag := c.par 4 4, window := w, offset := c.par 16 8, capacity := c.par 24 8 }
           .next (recvMatch (startWork s c k) { c with work := k })))))

/-- The group window of this member is open and holds bytes [off, off + n) (R291). -/
def ownWindowOk (s : State) (g off n : Nat) : Bool :=
  let x := getWindow s (memberWindow s g (groupRank s g))
  x.st = .open && off + n ≤ x.bytes

/-- ALLREDUCE (R298, R299). -/
def execAllreduce (i : Fin 64) (s : State) : Out :=
  issue s i (opSel 0x0304) (fun s c =>
    let g := c.par 0 2
    let e := c.par 2 1
    let n := c.par 16 4
    let cv := c.par 4 1
    checked c 5 (g < 256)
      (withGroup s c g
        (checked c 5 ([0x0, 0x1, 0x2, 0xC].contains e && c.par 3 1 ≤ 2 && cv < 64 && cv % 16 < 0xD && c.par 5 1 = 0 &&
            1 ≤ n && n ≤ 2 ^ 31 && c.par 20 4 = 0 && ownWindowOk s g (c.par 24 8) (fmtBytes (cv % 16) n) &&
            ownWindowOk s g (c.par 32 8) (65536 * treeLevels (groupSize s g)))
          (reaches (rangeRead (c.par 8 8) (n * (fmtBits e / 8))) (c.par 8 8)
            (let q := takeSeq s g
             .next (startWork q.2 c (.coll
              { gather := false, group := g, seq := q.1, n := groupSize s g, rank := groupRank s g, elem := e
                op := c.par 3 1, outCvt := cv, rsId := c.par 6 2, src := c.par 8 8, count := n, dstOffset := c.par 24 8
                stageOffset := c.par 32 8 })))))))

/-- ALLGATHER (R300). -/
def execAllgather (i : Fin 64) (s : State) : Out :=
  issue s i (opSel 0x0305) (fun s c =>
    let g := c.par 0 2
    let n := c.par 16 8
    checked c 4 (g < 256)
      (withGroup s c g
        (checked c 4 (c.par 2 6 = 0 && n % 16 = 0 && ownWindowOk s g (c.par 24 8) (groupSize s g * n))
          (reaches (rangeRead (c.par 8 8) n) (c.par 8 8)
            (let q := takeSeq s g
             .next (startWork q.2 c (.coll
              { gather := true, group := g, seq := q.1, n := groupSize s g, rank := groupRank s g, src := c.par 8 8
                count := n, dstOffset := c.par 24 8 })))))))

end Sys2Proof.Machine
end

