-- ==== Sys2Proof/Machine/WardenRows.lean ====
section
/-!
DEFINITION. The rows of the warden's messages and its alert (R394, R395, R406). A reply is its completion byte and its data;
the order and widths of a reply's fields are the model's (log entry 35).
-/
namespace Sys2Proof.Machine

/-- The warden answers while standby power is present (R394). -/
def wardenDo (s : State) (k : State → State) : Out := if s.pins.vin then ok (k s) else .next s

/-- The warden's outstanding challenge; a fresh one when the last has been consumed (R395; log entry 5). -/
def wardenChallenge (s : State) : State :=
  if s.warden.challenge.isEmpty then
    let r := freshBytes s
    { r.2 with warden := { r.2.warden with challenge := r.1 } }
  else s

/-- GET_STATUS (Table 15.11). -/
def execGetStatus (s : State) : Out :=
  wardenDo s (fun s =>
    let s := wardenChallenge s
    replyWith s 0 (leBytes 1 s.dev.state.code ++ leBytes 1 s.warden.fwState.code ++ leBytes 1 (bit01 s.sec.fallback) ++
      leBytes 1 (bit01 s.pins.thermTrip) ++ leBytes 8 s.warden.bootCount ++ s.warden.challenge))

/-- GET_TELEMETRY (R394, Table 15.11): input voltage, current, power, four temperatures, EOL_MONTHS_MODULE. What the warden
measures itself is free (log entry 5). -/
def execGetTelemetry (s : State) : Out :=
  wardenDo s (fun s =>
    let r := drawFree s
    replyWith r.2 0 (leBytes 14 r.1 ++ leBytes 1 s.tele.eolMonths.toNat))

/-- SET_CAPS (R332, Table 15.11). -/
def execSetCaps (peak sustained : W16) (s : State) : Out :=
  wardenDo s (fun s =>
    if 500 ≤ sustained.toNat && sustained.toNat ≤ peak.toNat && peak.toNat ≤ 1650 then
      replyWith (changeCaps s (fun p => { p with wardenPeak := peak, wardenSustained := sustained })) 0 []
    else replyWith s 3 [])

/-- A power-on request of the management controller. -/
def powerRequest (s : State) : State :=
  let r := requestPower s
  replyWith r.2 (if r.1 then 0 else 1) []

/-- POWER (R346, Table 15.11). -/
def execPower (op : PowerOp) (s : State) : Out :=
  wardenDo s (fun s => match op with
    | .on => if s.pins.powered then replyWith s 0 [] else powerRequest s
    | .off => replyWith (if s.pins.powered then powerOff s else s) 0 []
    | .cycle => powerRequest (if s.pins.powered then powerOff s else s))

/-- READ_HISTORY (Table 15.11): 64 bytes of the history region of 32 MiB. -/
def execReadHistory (off : Nat) (s : State) : Out :=
  wardenDo s (fun s =>
    if off + 64 ≤ 2 ^ 25 then replyWith s 0 (fit 64 (s.warden.history.drop off)) else replyWith s 3 [])

/-- The code of a mailbox operation (Table 15.10). -/
def mbxCode : MbxOp → Nat
  | .getChallenge => 1
  | .configRead => 2
  | .certs => 3
  | .attest => 4

/-- MAILBOX (Table 15.11): relayed while the chip is in READY, ACTIVE or QUIESCING; it waits its turn with the other requests of the
security block (R385). -/
def execMailbox (op : MbxOp) (req : List Byte) (s : State) : Out :=
  wardenDo s (fun s => match s.dev.state with
    | .ready | .active | .quiescing => match mailboxDo s (mbxCode op) req with
      | some r => if secBusy s then mailboxWait s true (mbxCode op) req else replyWith r.2 0 r.1
      | none => replyWith s 3 []
    | .standby | .booting | .lowPower | .fault => replyWith s 1 [])

/-- The warden's challenge is consumed by a request (R395). -/
def consumeChallenge (s : State) : State := { s with warden := { s.warden with challenge := [] } }

/-- The owner key becomes a key or none (R395, Table 15.6): the signature goes into the active slot, the inactive slot is
invalid, and STAGED and PENDING end. -/
def setOwner (s : State) (key : Option (List Byte)) (sig : List Byte) : State :=
  let w := s.warden
  let img := slotImage w w.activeSlot
  let img := img.take 5517 ++ fit 3309 sig ++ img.drop 8826
  let w := setSlotValid (setSlotImage { w with ownerKey := key } w.activeSlot img) (!w.activeSlot) false
  { s with warden := { partWrite w with
      ownerDigest := match key with
        | some k => digest64 k
        | none => List.replicate 64 0
      fwState := match w.fwState with
        | .staged | .pending => .none
        | f => f } }

/-- A signature over the active image verifies under a key (R380, Table 15.11). -/
def ownsActive (s : State) (key sig : List Byte) : Bool := imgOwned (slotImage s.warden s.warden.activeSlot) key sig

/-- OWNER_REGISTER (Table 15.11). -/
def execOwnerRegister (r : OwnerReq) (s : State) : Out :=
  wardenDo s (fun s =>
    let t := consumeChallenge s
    if !(r.key.length = 1952 && r.imageSig.length = 3309) then replyWith t 3 []
    else if s.warden.ownerKey.isSome then replyWith t 1 []
    else if ownsActive s r.key r.imageSig then replyWith (setOwner t (some r.key) r.imageSig) 0 []
    else replyWith t 2 [])

/-- OWNER_CHANGE (Table 15.11): an empty key clears the owner. -/
def execOwnerChange (r : OwnerReq) (s : State) : Out :=
  wardenDo s (fun s =>
    let t := consumeChallenge s
    let clear := r.key.isEmpty
    if !((clear || (r.key.length = 1952 && r.imageSig.length = 3309)) && r.ownerSig.length = 3309) then replyWith t 3 []
    else match s.warden.ownerKey with
      | none => replyWith t 1 []
      | some old =>
        let msg := s.warden.challenge ++ (if clear then List.replicate 64 0 else digest64 r.key)
        if !s.warden.challenge.isEmpty && mlVerify old ctxOwn msg r.ownerSig &&
            (clear || ownsActive s r.key r.imageSig) then
          replyWith (setOwner t (if clear then none else some r.key) (if clear then [] else r.imageSig)) 0 []
        else replyWith t 2 [])

/-- CONFIG_WRITE (Table 15.11). -/
def execConfigWrite (sect sig : List Byte) (s : State) : Out :=
  wardenDo s (fun s =>
    let t := consumeChallenge s
    if !(sect.length ≤ 16384 && Config.operatorOk sect) then replyWith t 3 []
    else
      let signed := match s.warden.ownerKey with
        | none => true
        | some k => !s.warden.challenge.isEmpty && mlVerify k ctxOwn (s.warden.challenge ++ sect) sig
      if signed then
        replyWith { t with warden := { t.warden with operator := writeSection t.warden.operator sect } } 0 []
      else replyWith t 2 [])

/-- ALERT_RESPONSE (R406): ALERT_N is released once the warden has answered. -/
def execAlertResponse (s : State) : Out :=
  wardenDo s (fun s => { s with warden := { s.warden with alert := false } })

end Sys2Proof.Machine
end

