-- ==== Sys2Proof/Machine/Dispatch.lean ====
section
/-!
DEFINITION. One arm per command: a direct call of its meaning, or its rejection by name.
-/
namespace Sys2Proof.Machine

/-- The effect of a command on everything but the queue. -/
def exec (i : Instr) (s : State) : Host.Outcome State Fault Refusal :=
  match i with
  | .doorbell inlet off v => Sys2Proof.Machine.execDoorbell inlet off v s
  | .enableWrite inlet v => Sys2Proof.Machine.execEnableWrite inlet v s
  | .resume inlet => Sys2Proof.Machine.execResume inlet s
  | .quiesceWrite q => Sys2Proof.Machine.execQuiesceWrite q s
  | .wake => Sys2Proof.Machine.execWake s
  | .w1cClear r mask coincident => Sys2Proof.Machine.execW1cClear r mask coincident s
  | .eventCounterWrite n v inc => Sys2Proof.Machine.execEventCounterWrite n v inc s
  | .registerWrite addr wide v => Sys2Proof.Machine.execRegisterWrite addr wide v s
  | .apertureWrite off data => Sys2Proof.Machine.execApertureWrite off data s
  | .apertureRead off n => Sys2Proof.Machine.execApertureRead off n s
  | .groupConfigure g => Sys2Proof.Machine.execGroupConfigure g s
  | .groupRemove g => Sys2Proof.Machine.execGroupRemove g s
  | .retrain p => Sys2Proof.Machine.execRetrain p s
  | .portDisable p v => Sys2Proof.Machine.execPortDisable p v s
  | .jobEnergyClearSlot slot => Sys2Proof.Machine.execJobEnergyClearSlot slot s
  | .jobEnergyClearAll => Sys2Proof.Machine.execJobEnergyClearAll s
  | .coreReset c => Sys2Proof.Machine.execCoreReset c s
  | .coreResetDone c => Sys2Proof.Machine.execCoreResetDone c s
  | .mbxGetChallenge => Sys2Proof.Machine.execMbxGetChallenge s
  | .mbxConfigRead sect => Sys2Proof.Machine.execMbxConfigRead sect s
  | .mbxCerts => Sys2Proof.Machine.execMbxCerts s
  | .mbxAttest nonce => Sys2Proof.Machine.execMbxAttest nonce s
  | .commandFetch inlet slot => Sys2Proof.Machine.execCommandFetch inlet slot s
  | .coalesceTimer inlet => Sys2Proof.Machine.execCoalesceTimer inlet s
  | .nop inlet => Sys2Proof.Machine.execNop inlet s
  | .eventSignal inlet => Sys2Proof.Machine.execEventSignal inlet s
  | .eventWait inlet => Sys2Proof.Machine.execEventWait inlet s
  | .fence inlet => Sys2Proof.Machine.execFence inlet s
  | .query inlet => Sys2Proof.Machine.execQuery inlet s
  | .dike inlet => Sys2Proof.Machine.execDike inlet s
  | .tideLaunch inlet => Sys2Proof.Machine.execTideLaunch inlet s
  | .launchFire c => Sys2Proof.Machine.execLaunchFire c s
  | .abort inlet => Sys2Proof.Machine.execAbort inlet s
  | .setMode inlet => Sys2Proof.Machine.execSetMode inlet s
  | .setCap inlet => Sys2Proof.Machine.execSetCap inlet s
  | .setWeir inlet => Sys2Proof.Machine.execSetWeir inlet s
  | .coreOffline inlet => Sys2Proof.Machine.execCoreOffline inlet s
  | .coreOnline inlet pass => Sys2Proof.Machine.execCoreOnline inlet pass s
  | .copy inlet => Sys2Proof.Machine.execCopy inlet s
  | .fill inlet => Sys2Proof.Machine.execFill inlet s
  | .sluiceArm inlet => Sys2Proof.Machine.execSluiceArm inlet s
  | .sluiceRearm inlet => Sys2Proof.Machine.execSluiceRearm inlet s
  | .compareCount inlet => Sys2Proof.Machine.execCompareCount inlet s
  | .compareSwap inlet => Sys2Proof.Machine.execCompareSwap inlet s
  | .gatherRows inlet => Sys2Proof.Machine.execGatherRows inlet s
  | .scatterRows inlet => Sys2Proof.Machine.execScatterRows inlet s
  | .gemm inlet => Sys2Proof.Machine.execGemm inlet s
  | .gemmList inlet => Sys2Proof.Machine.execGemmList inlet s
  | .gemmT inlet => Sys2Proof.Machine.execGemmT inlet s
  | .chain inlet => Sys2Proof.Machine.execChain inlet s
  | .attend inlet => Sys2Proof.Machine.execAttend inlet s
  | .vector inlet => Sys2Proof.Machine.execVector inlet s
  | .windowOpen inlet => Sys2Proof.Machine.execWindowOpen inlet s
  | .windowClose inlet => Sys2Proof.Machine.execWindowClose inlet s
  | .send inlet => Sys2Proof.Machine.execSend inlet s
  | .recv inlet => Sys2Proof.Machine.execRecv inlet s
  | .allreduce inlet => Sys2Proof.Machine.execAllreduce inlet s
  | .allgather inlet => Sys2Proof.Machine.execAllgather inlet s
  | .exportBind inlet => Sys2Proof.Machine.execExportBind inlet s
  | .source inlet => Sys2Proof.Machine.execSource inlet s
  | .seal inlet => Sys2Proof.Machine.execSeal inlet s
  | .pull inlet => Sys2Proof.Machine.execPull inlet s
  | .message inlet => Sys2Proof.Machine.execMessage inlet s
  | .qpSetup inlet => Sys2Proof.Machine.execQpSetup inlet s
  | .qpTeardown inlet => Sys2Proof.Machine.execQpTeardown inlet s
  | .prefixHash inlet => Sys2Proof.Machine.execPrefixHash inlet s
  | .prefixLookup inlet => Sys2Proof.Machine.execPrefixLookup inlet s
  | .prefixInsert inlet => Sys2Proof.Machine.execPrefixInsert inlet s
  | .prefixRelease inlet => Sys2Proof.Machine.execPrefixRelease inlet s
  | .attest inlet => Sys2Proof.Machine.execAttest inlet s
  | .fwStage inlet => Sys2Proof.Machine.execFwStage inlet s
  | .fwCommit inlet => Sys2Proof.Machine.execFwCommit inlet s
  | .debugUnlock inlet => Sys2Proof.Machine.execDebugUnlock inlet s
  | .watchdog c => Sys2Proof.Machine.execWatchdog c s
  | .bermDeadlock p slot => Sys2Proof.Machine.execBermDeadlock p slot s
  | .workRequest c chain => Sys2Proof.Machine.execWorkRequest c chain s
  | .passStart core arr c => Sys2Proof.Machine.execPassStart core arr c s
  | .stationaryLoad core arr c => Sys2Proof.Machine.execStationaryLoad core arr c s
  | .blockCommit core arr => Sys2Proof.Machine.execBlockCommit core arr s
  | .epilogueBlock core => Sys2Proof.Machine.execEpilogueBlock core s
  | .preempt core arr => Sys2Proof.Machine.execPreempt core arr s
  | .preemptResume core arr => Sys2Proof.Machine.execPreemptResume core arr s
  | .rampUp core arr => Sys2Proof.Machine.execRampUp core arr s
  | .rampDown core arr => Sys2Proof.Machine.execRampDown core arr s
  | .readError site addr flaw => Sys2Proof.Machine.execReadError site addr flaw s
  | .segmentComplete n => Sys2Proof.Machine.execSegmentComplete n s
  | .segmentSend ch dest => Sys2Proof.Machine.execSegmentSend ch dest s
  | .exportTimeout ch dest => Sys2Proof.Machine.execExportTimeout ch dest s
  | .stallLimit ch => Sys2Proof.Machine.execStallLimit ch s
  | .flitRx p f => Sys2Proof.Machine.execFlitRx p f s
  | .replayTimeout p => Sys2Proof.Machine.execReplayTimeout p s
  | .breach p => Sys2Proof.Machine.execBreach p s
  | .linkDown p => Sys2Proof.Machine.execLinkDown p s
  | .trainingRetry p => Sys2Proof.Machine.execTrainingRetry p s
  | .linkUp p chip port => Sys2Proof.Machine.execLinkUp p chip port s
  | .laneWiden p => Sys2Proof.Machine.execLaneWiden p s
  | .writeReceive p k => Sys2Proof.Machine.execWriteReceive p k s
  | .writeSignalReceive p k => Sys2Proof.Machine.execWriteSignalReceive p k s
  | .mcastWriteReceive p k => Sys2Proof.Machine.execMcastWriteReceive p k s
  | .reduceDataReceive p k => Sys2Proof.Machine.execReduceDataReceive p k s
  | .ackReceive p k => Sys2Proof.Machine.execAckReceive p k s
  | .refuseReceive p k => Sys2Proof.Machine.execRefuseReceive p k s
  | .breachNoticeReceive p k => Sys2Proof.Machine.execBreachNoticeReceive p k s
  | .flowResetReceive p k => Sys2Proof.Machine.execFlowResetReceive p k s
  | .rtsReceive p k => Sys2Proof.Machine.execRtsReceive p k s
  | .rtsRetry c => Sys2Proof.Machine.execRtsRetry c s
  | .ctsReceive p k => Sys2Proof.Machine.execCtsReceive p k s
  | .collCreditReceive p k => Sys2Proof.Machine.execCollCreditReceive p k s
  | .collAbortReceive p k => Sys2Proof.Machine.execCollAbortReceive p k s
  | .packetForward p k => Sys2Proof.Machine.execPacketForward p k s
  | .e2eTimeout c => Sys2Proof.Machine.execE2eTimeout c s
  | .syncPeriod => Sys2Proof.Machine.execSyncPeriod s
  | .syncReceive p chip count => Sys2Proof.Machine.execSyncReceive p chip count s
  | .delayReqReceive p stamp => Sys2Proof.Machine.execDelayReqReceive p stamp s
  | .delayRespReceive p quarterNs => Sys2Proof.Machine.execDelayRespReceive p quarterNs s
  | .tideCorrection skip => Sys2Proof.Machine.execTideCorrection skip s
  | .syncLost => Sys2Proof.Machine.execSyncLost s
  | .tideRefEdge => Sys2Proof.Machine.execTideRefEdge s
  | .arriveReceive p k => Sys2Proof.Machine.execArriveReceive p k s
  | .releaseReceive p k => Sys2Proof.Machine.execReleaseReceive p k s
  | .dikeRelease c => Sys2Proof.Machine.execDikeRelease c s
  | .pairReceive p chip names => Sys2Proof.Machine.execPairReceive p chip names s
  | .unpairReceive p chip => Sys2Proof.Machine.execUnpairReceive p chip s
  | .digestReceive p inlet seq item digest => Sys2Proof.Machine.execDigestReceive p inlet seq item digest s
  | .divergeReceive p inlet seq item => Sys2Proof.Machine.execDivergeReceive p inlet seq item s
  | .frameReceive p f => Sys2Proof.Machine.execFrameReceive p f s
  | .rdmaWriteReceive q psn rkey va data => Sys2Proof.Machine.execRdmaWriteReceive q psn rkey va data s
  | .writeImmediateReceive q psn rkey va data imm => Sys2Proof.Machine.execWriteImmediateReceive q psn rkey va data imm s
  | .rdmaReadReceive q psn rkey va n => Sys2Proof.Machine.execRdmaReadReceive q psn rkey va n s
  | .roceSendReceive q psn => Sys2Proof.Machine.execRoceSendReceive q psn s
  | .roceAckReceive q a => Sys2Proof.Machine.execRoceAckReceive q a s
  | .readResponseReceive q data => Sys2Proof.Machine.execReadResponseReceive q data s
  | .localAckTimeout q => Sys2Proof.Machine.execLocalAckTimeout q s
  | .cnpReceive q => Sys2Proof.Machine.execCnpReceive q s
  | .ecnPeriod q => Sys2Proof.Machine.execEcnPeriod q s
  | .pfcPauseReceive p prio pause => Sys2Proof.Machine.execPfcPauseReceive p prio pause s
  | .weirWindow => Sys2Proof.Machine.execWeirWindow s
  | .urgentCredit => Sys2Proof.Machine.execUrgentCredit s
  | .ddrRefresh ch => Sys2Proof.Machine.execDdrRefresh ch s
  | .wck2dqTracking ch => Sys2Proof.Machine.execWck2dqTracking ch s
  | .directoryClock => Sys2Proof.Machine.execDirectoryClock s
  | .estimateInterval e => Sys2Proof.Machine.execEstimateInterval e s
  | .slowLoop d => Sys2Proof.Machine.execSlowLoop d s
  | .railSettled c => Sys2Proof.Machine.execRailSettled c s
  | .voltageTrim c up => Sys2Proof.Machine.execVoltageTrim c up s
  | .droop c => Sys2Proof.Machine.execDroop c s
  | .droopEnd c => Sys2Proof.Machine.execDroopEnd c s
  | .pwrBrakeAssert => Sys2Proof.Machine.execPwrBrakeAssert s
  | .pwrBrakeRelease => Sys2Proof.Machine.execPwrBrakeRelease s
  | .sensorRead d => Sys2Proof.Machine.execSensorRead d s
  | .thermalTrip => Sys2Proof.Machine.execThermalTrip s
  | .ageingMonitor d => Sys2Proof.Machine.execAgeingMonitor d s
  | .eyeMeasure p mv => Sys2Proof.Machine.execEyeMeasure p mv s
  | .errorPeriod => Sys2Proof.Machine.execErrorPeriod s
  | .deviceFault unit => Sys2Proof.Machine.execDeviceFault unit s
  | .lowPowerEntry => Sys2Proof.Machine.execLowPowerEntry s
  | .wakeComplete => Sys2Proof.Machine.execWakeComplete s
  | .perstNAssert => Sys2Proof.Machine.execPerstNAssert s
  | .modResetNAssert => Sys2Proof.Machine.execModResetNAssert s
  | .modResetNRelease => Sys2Proof.Machine.execModResetNRelease s
  | .pcieHotReset => Sys2Proof.Machine.execPcieHotReset s
  | .d3hotToD0 => Sys2Proof.Machine.execD3hotToD0 s
  | .pcieLinkLoss => Sys2Proof.Machine.execPcieLinkLoss s
  | .vinRise intact => Sys2Proof.Machine.execVinRise intact s
  | .vinLoss => Sys2Proof.Machine.execVinLoss s
  | .bootStart seedOk => Sys2Proof.Machine.execBootStart seedOk s
  | .bootComplete r => Sys2Proof.Machine.execBootComplete r s
  | .trialTimeout => Sys2Proof.Machine.execTrialTimeout s
  | .fallbackPowerOn => Sys2Proof.Machine.execFallbackPowerOn s
  | .getStatus => Sys2Proof.Machine.execGetStatus s
  | .getTelemetry => Sys2Proof.Machine.execGetTelemetry s
  | .setCaps peak sustained => Sys2Proof.Machine.execSetCaps peak sustained s
  | .power op => Sys2Proof.Machine.execPower op s
  | .readHistory off => Sys2Proof.Machine.execReadHistory off s
  | .mailbox op req => Sys2Proof.Machine.execMailbox op req s
  | .ownerRegister r => Sys2Proof.Machine.execOwnerRegister r s
  | .ownerChange r => Sys2Proof.Machine.execOwnerChange r s
  | .configWrite sect sig => Sys2Proof.Machine.execConfigWrite sect sig s
  | .alertResponse => Sys2Proof.Machine.execAlertResponse s
  | .flashWriteComplete => Sys2Proof.Machine.execFlashWriteComplete s

end Sys2Proof.Machine
end

