-- ==== Sys2Proof/Machine/RegRead.lean ====
section
/-!
DEFINITION. What a read of a BAR0 register returns (R8, R10, R47 to R54, R305, R323, R351, R352, R376, R396; Tables 2.10 to 2.14,
11.10, 12.4, 13.5, 13.7, 14.9, 15.12). Write-only fields and reserved bits read as zero.
-/
namespace Sys2Proof.Machine

/-- The lower or the upper half of a 64-bit register. -/
def half (v : Nat) (hi : Bool) : Nat := if hi then v / 2 ^ 32 % 2 ^ 32 else v % 2 ^ 32

/-- A bit in its place. -/
def bitAt (b : Bool) (n : Nat) : Nat := bit01 b * 2 ^ n

/-- The constants of Table 2.10: DEV_ID and STEPPING (R48). -/
def devId : Nat := 0x1F3C + 0x6420 * 2 ^ 16
def stepping : Nat := 0x10

/-- The thresholds of Table 13.7 in degrees: logic 98, SRAM 95, trip 110. -/
def thresholds : Nat := 98 + 95 * 2 ^ 8 + 110 * 2 ^ 16

/-- The GLOBAL block (Table 2.10). -/
def readGlobal (s : State) (o : Nat) : Nat :=
  let d := s.dev
  match o with
  | 0x00 => devId
  | 0x04 => d.state.code + bitAt d.quiesced 4 + bitAt s.lock.repeatable 5 + s.cmds.length % 2048 * 2 ^ 16
  | 0x08 => stepping
  | 0x0C => s.rcd.chipId.toNat
  | 0x10 => coreMask s + coreCount s * 2 ^ 16
  | 0x14 => ((List.range 12).map (fun p => bitAt (isEth s p) p)).sum
  | 0x20 => bitAt d.quiesce 0 + bitAt d.lowPowerEn 1 + d.idleEntry.toNat * 2 ^ 16
  | 0x24 => bitAt d.stateChanged 0 + bitAt d.faultFlag 1
  | 0x28 => d.stateChangedCount.toNat
  | 0x2C => d.faultCount.toNat
  | _ => 0

/-- The registers of an inlet (Table 2.11). -/
def readInlet (s : State) (i o : Nat) : Nat :=
  let x := getInlet s i
  match o with
  | 0x00 | 0x04 => half x.base.toNat (o = 0x04)
  | 0x08 => bitAt x.enable 0 + x.priority.toNat * 2 + bitAt x.haltOnError 3 + bitAt x.exempt 4 + x.sizeLog2.toNat * 2 ^ 8
  | 0x0C => x.state.code + bitAt x.refused 8 + bitAt x.ignored 9 + bitAt x.halted 10
  | 0x10 => x.head.toNat
  | 0x14 => x.tail.toNat
  | 0x18 => inFlight s i
  | 0x20 => x.refusedCount.toNat
  | 0x24 => x.ignoredCount.toNat
  | 0x28 => x.haltedCount.toNat
  | _ => 0

/-- The registers of an outfall (Table 2.12). -/
def readOutfall (s : State) (i o : Nat) : Nat :=
  let x := getOutfall s i
  match o with
  | 0x00 | 0x04 => half x.base.toNat (o = 0x04)
  | 0x08 | 0x0C => half x.wb.toNat (o = 0x0C)
  | 0x10 => x.sizeLog2.toNat + x.vector.toNat * 2 ^ 8 + x.coalesceCount.toNat * 2 ^ 16 + x.coalesceTime.toNat * 2 ^ 24
  | 0x14 => x.head.toNat
  | 0x18 => x.tail.toNat
  | 0x1C => bitAt x.fullStall 0
  | 0x20 => x.fullStallCount.toNat
  | _ => 0

/-- Four bytes of a table at an offset. -/
def tabWord (t : Tab Byte) (o : Nat) : Nat := leNat ((List.range 4).map (fun k => tabGet t 0 (o + k)))

/-- The INTERRUPT block (Table 2.13): the MSI-X table and its pending bits in the format of PCI Express, whose Vector Control
masks a vector after reset (log entry 8). -/
def readIrq (s : State) (o : Nat) : Nat :=
  let q := s.irq
  if o < 0x1000 then
    if o % 16 = 12 then (tabGet q.table 1 o).toNat % 2 else tabWord q.table o
  else if 0x1000 ≤ o && o < 0x1020 then tabWord q.pba (o - 0x1000)
  else match o with
    | 0x2000 => q.vector.toNat
    | 0x2004 => bitAt q.maskState 0 + bitAt q.maskFault 1 + bitAt q.maskLog 2 + bitAt q.maskInlet 3
    | 0x2008 => bitAt q.causeState 0 + bitAt q.causeFault 1 + bitAt q.causeLog 2 + bitAt q.causeInlet 3
    | _ => 0

/-- The PUMPING block (Table 13.5). -/
def readPump (s : State) (o : Nat) : Nat :=
  let p := s.pump
  if 0x0100 ≤ o && o < 0x0140 then
    let c := (o - 0x0100) / 4
    let x := getPower s c
    x.m % 32 + x.mMax % 32 * 2 ^ 8 + dutyOf s c % 16 * 2 ^ 16 + bitAt (x.thermalDuty < 8) 20 + x.railMv % 1024 * 2 ^ 22
  else if 0x0140 ≤ o && o < 0x0180 then
    let x := getPower s ((o - 0x0140) / 4)
    x.share.toNat + x.est.toNat * 2 ^ 16
  else if 0x0200 ≤ o && o < 0x0400 then half (getInlet s ((o - 0x0200) / 8)).energy.toNat (o % 8 = 4)
  else if 0x0400 ≤ o && o < 0x0500 then
    let k := (o - 0x0400) / 4
    tabGet p.demand 544 k % 2 ^ 16 + satTo 65535 (tabGet p.samples 0 k) * 2 ^ 16
  else if 0x8000 ≤ o then half (tabGet p.jobEnergy 0 ((o - 0x8000) / 8)) (o % 8 = 4)
  else match o with
    | 0x00 => p.capPeak.toNat + p.capSustained.toNat * 2 ^ 16
    | 0x04 => p.wardenPeak.toNat + p.wardenSustained.toNat * 2 ^ 16
    | 0x08 => p.mCeiling.toNat + bitAt p.learn 8
    | 0x0C => pumpStatus s
    | 0x10 => p.estInterval.toNat + p.est1ms.toNat * 2 ^ 16
    | 0x14 => p.est100ms.toNat
    | 0x18 => bitAt p.unreachableFlag 0 + bitAt p.brakeFlag 1 + bitAt p.throttleFlag 2
    | 0x1C => p.unreachableCount.toNat
    | 0x20 => p.brakeCount.toNat
    | 0x24 => p.throttleCount.toNat
    | 0x30 | 0x34 => half p.idleEnergy.toNat (o = 0x34)
    | 0x38 | 0x3C => half p.moduleEnergy.toNat (o = 0x3C)
    | _ => 0

/-- A signed value of 16 bits. -/
def word16 (x : Int) : Nat := (BitVec.ofInt 16 x).toNat

/-- Sensor `n` of a list kept four to a core (R345). -/
def sensorAt (f : CorePower → List Int) (s : State) (n : Nat) : Nat := word16 ((f (getPower s (n / 4))).getD (n % 4) 0)

/-- The TELEMETRY block (Table 13.7). -/
def readTele (s : State) (o : Nat) : Nat :=
  let t := s.tele
  if o < 0x80 then sensorAt (·.logicTemp) s (o / 2) + sensorAt (·.logicTemp) s (o / 2 + 1) * 2 ^ 16
  else if o < 0x100 then sensorAt (·.sramTemp) s ((o - 0x80) / 2) + sensorAt (·.sramTemp) s ((o - 0x80) / 2 + 1) * 2 ^ 16
  else if 0x110 ≤ o && o < 0x150 then
    let x := getPower s ((o - 0x110) / 4)
    x.eolMonths.toNat + x.margin.toNat * 2 ^ 8 + x.mMaxShip % 32 * 2 ^ 16
  else if 0x200 ≤ o && o < 0x300 then (getDdr s ((o - 0x200) / 4)).corrected.toNat
  else if 0x300 ≤ o && o < 0x330 then
    let p := (o - 0x300) / 4
    tabGet t.eyeMv 0 p % 2 ^ 16 + tabGet t.portMonths 60 p % 256 * 2 ^ 24
  else if 0x400 ≤ o && o < 0x440 then (getPower s ((o - 0x400) / 4)).droops.toNat
  else match o with
    | 0x100 => word16 t.tempMax + t.tempMaxSensor % 128 * 2 ^ 16
    | 0x104 => thresholds
    | 0x108 => t.vin.toNat + t.pinMeasured.toNat * 2 ^ 16
    | 0x150 => t.eolMonths.toNat + t.eolSource.toNat * 2 ^ 8
    | 0x154 => bitAt t.eolWarn 0 + bitAt t.eolCrit 1 + bitAt t.maxLowered 2
    | 0x158 => t.eolWarnCount.toNat
    | 0x15C => t.eolCritCount.toNat
    | 0x160 => t.maxLoweredCount.toNat
    | _ => 0

/-- LOCKSTEP_STATUS.STATE (Table 12.4). -/
def lockCode (l : Lockstep) : Nat := if l.established then 2 else if l.set then 1 else 0

/-- The TIDE block (Table 12.4). -/
def readTide (s : State) (o : Nat) : Nat :=
  let t := s.tide
  match o with
  | 0x00 | 0x04 => half t.count.toNat (o = 0x04)
  | 0x08 => bitAt t.master 0 + t.source.toNat * 2 + bitAt t.syncEn 3
  | 0x0C => t.st.code + t.masterChip.toNat * 2 ^ 16
  | 0x10 => (BitVec.ofInt 32 (t.offset / 7)).toNat
  | 0x14 => t.corrections.toNat
  | 0x18 => bitAt t.syncLost 0 + bitAt t.syncAcquired 1 + bitAt t.timingEvent 2
  | 0x1C => t.syncLostCount.toNat
  | 0x20 => t.syncAcquiredCount.toNat
  | 0x24 => t.timingEventCount.toNat
  | 0x28 => t.dikeMargin.toNat
  | 0x30 => t.capGate.toNat
  | 0x34 => t.thermal.toNat
  | 0x38 => t.brake.toNat
  | 0x3C => t.droop.toNat
  | 0x40 => t.rerun.toNat
  | 0x44 => t.replay.toNat
  | 0x48 => t.lateRelease.toNat
  | 0x4C => t.coreMask.toNat
  | 0x50 | 0x54 => half t.firstTick.toNat (o = 0x54)
  | 0x58 => t.firstCause.toNat
  | 0x60 => lockCode s.lock + s.lock.partner.toNat * 2 ^ 16
  | 0x64 => s.lock.own.length % 2 ^ 13
  | 0x68 | 0x6C => half s.lock.compared.toNat (o = 0x6C)
  | _ => 0

/-- The registers of a port (Table 11.10). -/
def readPort (s : State) (p o : Nat) : Nat :=
  let x := getPort s p
  match o with
  | 0x00 => portStatus x
  | 0x04 => bitAt x.disable 1
  | 0x08 => bitAt x.breach 0 + bitAt x.linkDown 1 + bitAt x.linkUp 2
  | 0x10 => x.breachCount.toNat
  | 0x14 => x.linkDownCount.toNat
  | 0x18 => x.linkUpCount.toNat
  | 0x20 | 0x24 => half x.flitsTx.toNat (o = 0x24)
  | 0x28 | 0x2C => half x.flitsRx.toNat (o = 0x2C)
  | 0x30 => x.crcErrors.toNat
  | 0x34 => x.replays.toNat
  | 0x38 => x.fecCorrected.toNat
  | 0x3C => x.fecUncorrectable.toNat
  | 0x40 => x.framesDropped.toNat
  | 0x44 => x.pfcPauseRx.toNat
  | _ => 0

/-- The PORTS block (Table 11.10). -/
def readPorts (s : State) (o : Nat) : Nat :=
  let x := s.net
  if 0x1000 ≤ o && o < 0x2000 then
    ((List.range 4).map (fun i => (tabGet x.route 0 (o - 0x1000 + i)).toNat * 2 ^ (8 * i))).sum
  else if 0x2000 ≤ o && o < 0x2C00 then readPort s ((o - 0x2000) / 0x100) (o % 0x100)
  else if 0x8000 ≤ o then
    let w := getWindow s ((o - 0x8000) / 8)
    if o % 8 = 4 then w.refused.toNat else w.st.code + w.gen.toNat * 2 ^ 16
  else if 0x40 ≤ o && o < 0x60 then
    ((List.range 32).map (fun j => bitAt (tabFind? x.groups (8 * (o - 0x40) + j)).isSome j)).sum
  else match o with
    | 0x000 => ((List.range 12).map (fun p => s.rcd.portMode.getD p 0 % 4 * 2 ^ (2 * p))).sum
    | 0x008 | 0x00C => half x.bundleMap.toNat (o = 0x00C)
    | 0x010 => x.dateline.toNat
    | 0x014 => x.e2eUs.toNat
    | 0x018 => bitAt x.windowRefused 0 + bitAt x.noRoute 1 + bitAt x.groupRefused 2
    | 0x020 => x.windowRefusedCount.toNat
    | 0x024 => x.noRouteCount.toNat
    | 0x028 => x.groupRefusedCount.toNat
    | 0x030 | 0x034 => half x.groupAddr.toNat (o = 0x034)
    | 0x03C => bitAt x.groupBusy 0
    | _ => 0

/-- A word of a list of bytes. -/
def listWord (b : List Byte) (o : Nat) : Nat := fieldLe b o 4

/-- The SECURITY block (Table 15.12). -/
def readSec (s : State) (o : Nat) : Nat :=
  let x := s.sec
  let w := s.warden
  if 0x0050 ≤ o && o < 0x0070 then listWord (x.challenge.getD []) (o - 0x0050)
  else if 0x4000 ≤ o && o < 0x8000 then tabWord x.req (o - 0x4000)
  else if 0x8000 ≤ o && o < 0xC000 then listWord x.rsp (o - 0x8000)
  else match o with
    | 0x0000 => x.op.toNat
    | 0x0008 => x.mbxState.toNat + x.result.toNat * 2 ^ 8
    | 0x000C => x.reqBytes.toNat
    | 0x0010 => x.rspBytes.toNat
    | 0x0014 => w.fwState.code + bitAt (w.activeSlot != w.trial) 8 + bitAt x.fallback 9
    | 0x0018 => x.svnActive % 2 ^ 32
    | 0x001C => w.minSvn % 2 ^ 32
    | 0x0020 => svnStaged w % 2 ^ 32
    | 0x0024 => x.debugLevel % 4 + x.unlocks % 256 * 2 ^ 8
    | 0x0028 => bitAt w.ownerKey.isSome 0
    | 0x0030 => bitAt x.fallbackFlag 0 + bitAt x.authFailed 1 + bitAt x.debugUnlocked 2 + bitAt x.mbxDone 3
    | 0x0034 => x.fallbackCount.toNat
    | 0x0038 => x.authFailedCount.toNat
    | 0x003C => x.debugUnlockedCount.toNat
    | 0x0040 => x.mbxDoneCount.toNat
    | 0x0080 | 0x0084 => half w.bootCount (o = 0x0084)
    | _ => 0

/-- The 64 bytes of an error-log record (Table 14.8). -/
def LogRecord.bytes (r : LogRecord) : List Byte :=
  leBytes 8 r.seq ++ leBytes 8 r.tick.toNat ++ [r.cls, r.severity, r.unit, r.index] ++ leBytes 2 r.opcode.toNat ++
    leBytes 2 r.inlet.toNat ++ leBytes 4 r.tag.toNat ++ leBytes 4 0 ++ leBytes 8 r.addr.toNat ++ leBytes 8 r.detail.toNat ++
    leBytes 8 r.extra.toNat ++ leBytes 8 0

/-- The ERROR block (Table 14.9). -/
def readErr (s : State) (o : Nat) : Nat :=
  let x := s.err
  if 0x40 ≤ o && o < 0x80 then coreErr (getCore s ((o - 0x40) / 4))
  else if 0x8000 ≤ o then
    match tabFind? x.records ((o - 0x8000) / 64) with
    | some r => listWord r.bytes (o % 64)
    | none => 0
  else match o with
    | 0x00 | 0x04 => half x.seq (o = 0x04)
    | 0x08 | 0x0C => half x.ack.toNat (o = 0x0C)
    | 0x10 => bitAt x.new 0 + bitAt x.overrun 1 + bitAt x.coreOut 2
    | 0x14 => x.newCount.toNat
    | 0x18 => x.overrunCount.toNat
    | 0x1C => x.coreOutCount.toNat
    | 0x20 => x.watchdogUs.toNat
    | 0x24 => x.reserve.toNat + bitAt x.autoOffline 8
    | 0x28 => x.reserveActive.toNat
    | 0x30 => ((List.range 16).map (fun c => bitAt (getCore s c).busy.isSome c)).sum
    | 0x34 => x.preempts.toNat
    | 0x38 => x.watchdogs.toNat
    | _ => 0

/-- 32 bits of BAR0 (Table 2.9) at an aligned offset. -/
def readReg (s : State) (a : Nat) : W32 :=
  let o := a % 0x10000
  BitVec.ofNat 32 (match a / 0x10000 with
    | 0x0 => readGlobal s o
    | 0x1 => if o < 0x4000 then readInlet s (o / 0x100) (o % 0x100) else 0
    | 0x2 => if o < 0x4000 then readOutfall s (o / 0x100) (o % 0x100) else 0
    | 0x3 => readIrq s o
    | 0x4 | 0x5 | 0x6 | 0x7 => (eventVal s ((a - 0x40000) / 4)).toNat
    | 0x8 => readPump s o
    | 0x9 => readTele s o
    | 0xA => readTide s o
    | 0xB => readPorts s o
    | 0xC => readSec s o
    | 0xD => readErr s o
    | 0xE => if o = 0 || o = 4 then half (s.ap.base.toNat * 2 ^ 30) (o = 4) else 0
    | _ => 0)

/-- A read of 32 or 64 bits of BAR0 where a host access is answered; none for one that is not aligned, whose outcome is
unpredictable (R47). A 64-bit read is consistent (R323, R351, R376). -/
def readBar (s : State) (a : Nat) (wide : Bool) : Option W64 :=
  if a % (if wide then 8 else 4) != 0 || !hostUp s then none
  else some (BitVec.ofNat 64 ((readReg s a).toNat + if wide then (readReg s (a + 4)).toNat * 2 ^ 32 else 0))

/-- What the carrier sees of a seated module (R418, Table 16.10). -/
structure CarrierView where
  present : Bool
  pcieUp : Bool
  smbusAnswers : Bool
  thermTrip : Bool
  alert : Bool
  portsSignal : Bool
deriving DecidableEq, Repr

/-- MOD_PRESENT_N is low while the module is seated; PCIe answers once firmware runs; the warden answers on standby power;
the ports are electrically idle until firmware runs (R304, R394, R405, R418). -/
def carrierView (s : State) : CarrierView :=
  { present := true, pcieUp := hostUp s, smbusAnswers := s.pins.vin, thermTrip := s.pins.thermTrip, alert := s.warden.alert
    portsSignal := s.dev.firmware }

end Sys2Proof.Machine
end

