-- ==== Sys2Proof/Safety.lean ====
section
/-!
DEFINITION. What the claims speak of: the command that a dispatch row runs, a machine in which nothing follows at once,
the limits of R27, and the reading that a claim about memory makes.
-/
namespace Sys2Proof.Machine

/-- The command that a dispatch row of an inlet runs now: the inlet's next command, which is served (R28, R30), is of the
row's kind, and passes the two checks that Table 2.8 makes of any command. -/
def runs (s : State) (i : Fin 64) (sel : Cmd → Bool) (c : Cmd) : Bool :=
  dispatchable s i.val sel = some c && (!flagSet c.hdr 1 || s.lock.repeatable) &&
    (!flagSet c.hdr 3 || s.lock.established)

/-- The reads of a dispatch meet no error that lasts (R222): no stored data that reads as bad, and no step whose fourth attempt
meets an error of its own. -/
def readsClean (s : State) (c : Cmd) (l : List (Nat × Nat × Nat)) : Bool :=
  l.all (fun r => (badAt s r.2.1 r.2.2).isNone) &&
    (flawsIn c l).all (fun h => (flawsIn c l).countP (fun g => readStep c g.2 = readStep c h.2) < 4)

/-- The state after those reads: errors of their own have been re-run, and the READ class has counted them. -/
def afterReads (s : State) (c : Cmd) (l : List (Nat × Nat × Nat)) : State :=
  takeReads ((flawsIn c l).foldl (fun s h => noteRerun s c.id (otherTile 0 h.1) h.2) s) c.urgent (l.map (·.2))

/-- Nothing follows at once. -/
def quiet (s : State) : Bool := (settleNext s).isNone

/-- At most 32 commands of one inlet and 1,024 in all are in flight (R27). -/
def flightOk (s : State) : Prop := s.cmds.length ≤ 1024 ∧ ∀ i, inFlight s i ≤ 32

/-- Every byte outside the ranges reads the same in both states. -/
def sameBytesBut (s t : State) (rs : List (Nat × Nat)) : Prop :=
  ∀ a, rs.all (fun r => !(r.1 ≤ a && a < r.1 + r.2)) → readByte t a = readByte s a

/-- A dispatch row, by the inlet, with the commands that it runs. -/
structure DispatchRow where
  row : Fin 64 → Instr
  sel : Cmd → Bool

/-- The dispatch rows of the table, in its order. -/
def dispatchRows : List DispatchRow :=
  [⟨.nop, opSel 0x0001⟩, ⟨.eventSignal, opSel 0x0002⟩, ⟨.eventWait, opSel 0x0003⟩, ⟨.fence, opSel 0x0004⟩,
   ⟨.query, opSel 0x0013⟩, ⟨.dike, opSel 0x0005⟩, ⟨.tideLaunch, opSel 0x0006⟩, ⟨.abort, opSel 0x0008⟩,
   ⟨.setMode, opSel 0x0010⟩, ⟨.setCap, opSel 0x0011⟩, ⟨.setWeir, opSel 0x0012⟩, ⟨.coreOffline, opSel 0x0014⟩,
   ⟨fun i => .coreOnline i true, opSel 0x0015⟩, ⟨fun i => .coreOnline i false, opSel 0x0015⟩, ⟨.copy, opSel 0x0100⟩,
   ⟨.fill, opSel 0x0101⟩, ⟨.sluiceArm, opSel 0x0102⟩, ⟨.sluiceRearm, opSel 0x0103⟩, ⟨.compareCount, opSel 0x0104⟩,
   ⟨.compareSwap, opSel 0x0105⟩, ⟨.gatherRows, opSel 0x0106⟩, ⟨.scatterRows, opSel 0x0107⟩, ⟨.gemm, opSel 0x0200⟩,
   ⟨.gemmList, opSel 0x0201⟩, ⟨.gemmT, opSel 0x0205⟩, ⟨.chain, opSel 0x0202⟩, ⟨.attend, opSel 0x0203⟩,
   ⟨.vector, opSel 0x0204⟩, ⟨.windowOpen, opSel 0x0300⟩, ⟨.windowClose, opSel 0x0301⟩, ⟨.send, opSel 0x0302⟩,
   ⟨.recv, opSel 0x0303⟩, ⟨.allreduce, opSel 0x0304⟩, ⟨.allgather, opSel 0x0305⟩, ⟨.exportBind, opSel 0x0307⟩,
   ⟨.source, exportSel 0⟩, ⟨.seal, exportSel 1⟩, ⟨.pull, exportSel 2⟩, ⟨.message, exportSel 3⟩,
   ⟨.qpSetup, opSel 0x0308⟩, ⟨.qpTeardown, opSel 0x0309⟩, ⟨.prefixHash, opSel 0x0400⟩, ⟨.prefixLookup, opSel 0x0401⟩,
   ⟨.prefixInsert, opSel 0x0402⟩, ⟨.prefixRelease, opSel 0x0403⟩, ⟨.attest, opSel 0x0500⟩, ⟨.fwStage, opSel 0x0501⟩,
   ⟨.fwCommit, opSel 0x0502⟩, ⟨.debugUnlock, opSel 0x0504⟩]

end Sys2Proof.Machine
end

