-- ==== Sys2Proof/Certificates/Slice0/Obligations.lean ====
section
/-!
DEFINITION. The statements about the model for the provers.
-/
open Sys2Proof Sys2Proof.Machine

/-- The block runs the command at the front of its queue with the rest of the queue in the state; with an empty queue one
tick of the tide clock passes (log entries 3, 16 and 19: the model's choice). -/
def Obligations.StepRunsTheFrontOfTheQueue : Prop :=
  (∀ (c : Instr) (rest : List Instr) (s : State), s.pending = c :: rest →
    step s = exec c { s with pending := rest }) ∧
  (∀ s : State, s.pending = [] → step s = .next (settle (advance s 1)))

/-- Where nothing follows at once, the state settles to itself; otherwise the next thing that follows happens first.
By the model's choice: log entry 16 (what follows at once). -/
def Obligations.SettlingTakesWhatFollowsInTurn : Prop :=
  (∀ s : State, quiet s = true → settle s = s) ∧
  (∀ (n : Nat) (s t : State), settleNext s = some t → settleRun (n + 1) s = settleRun n t)

/-- The values after a device reset that chapters 02, 08, 11 to 15 give: the device in BOOTING with no command in flight;
every inlet CLOSED with PRIORITY 3 and HALT_ON_ERROR 1; event counters 0; windows CLOSED at generation 0; sluices idle and
slots EMPTY; cores in service; repeatable mode off and no pairing; the tide UNSYNC at count 0; caps of 1,650 W and 1,400 W; the
log empty; no debug level. -/
def Obligations.ResetLeavesTheStatedValues : Prop :=
  let s := State.reset
  s.dev.state = .booting ∧ s.dev.firmware = false ∧ s.dev.idleEntry = 1000 ∧ s.dev.stateChangedCount = 0 ∧
  s.cmds = [] ∧ s.pending = [] ∧ s.mem.wf = true ∧ flightOk s ∧
  (∀ i, (getInlet s i).state = .closed ∧ (getInlet s i).priority = 3 ∧ (getInlet s i).haltOnError = true ∧
    (getOutfall s i).reserved = 0) ∧
  (∀ e, eventVal s e = 0) ∧ (∀ w, (getWindow s w).st = .closed ∧ (getWindow s w).gen = 0) ∧
  (∀ n, (getSluice s n).st = .idle) ∧ (∀ k, (getSlot s k).st = .empty) ∧ (∀ c, coreIn s c = true) ∧
  (∀ q, (getQp s q).st = .free) ∧ (∀ ch, (getChannel s ch).st = .free) ∧
  s.lock.repeatable = false ∧ s.lock.established = false ∧ s.tide.st = .unsync ∧ s.tide.count = 0 ∧
  s.pump.capPeak = 1650 ∧ s.pump.capSustained = 1400 ∧ s.err.seq = 0 ∧ s.sec.debugLevel = 0

/-- Every step keeps the canonical form of device memory: rising addresses, no entry equal to what an unlisted byte reads
as. -/
def Obligations.StepKeepsMemoryCanonical : Prop :=
  ∀ s t : State, s.mem.wf = true → step s = .next t → t.mem.wf = true

/-- A command is in flight from its fetch until its entry is written, or its reservation is released where SUPPRESS applies;
at most 32 of one inlet and 1,024 in all are in flight, which every step keeps; an inlet at its limit is not fetched (R27). -/
def Obligations.StepKeepsTheLimitsOfCommandsInFlight : Prop :=
  (∀ s t : State, flightOk s → step s = .next t → flightOk t) ∧
  (∀ (s : State) (i : Nat) (slot : List Byte), (fetchSlot s i slot).cmds.map (fun c => (c.id, c.inlet)) =
    s.cmds.map (fun c => (c.id, c.inlet)) ++ [(s.clk.fetched, i)]) ∧
  (∀ (c : Instr) (s t : State), (∀ i slot, c ≠ .commandFetch i slot) → exec c s = .next t →
    (t.cmds.map (fun c => (c.id, c.inlet))).Sublist (s.cmds.map (fun c => (c.id, c.inlet)))) ∧
  (∀ (s : State) (c : Cmd) (st : Status) (d : Nat), findCmd s c.id = some c →
    let t := endOne s c.id st d
    let o := getOutfall s c.inlet
    findCmd t c.id = none ∧ (∀ id, id ≠ c.id → (findCmd t id).isSome = (findCmd s id).isSome) ∧
    (st = .ok ∧ flagSet c.hdr 2 = true → t.host = s.host ∧ (getOutfall t c.inlet).reserved = o.reserved - 1) ∧
    (st ≠ .ok ∨ flagSet c.hdr 2 = false →
      (getOutfall t c.inlet).tail = BitVec.ofNat 16 ((o.tail.toNat + 1) % 2 ^ o.sizeLog2.toNat))) ∧
  (∀ (s : State) (i : Fin 64), 32 ≤ inFlight s i.val ∨ 1024 ≤ s.cmds.length →
    wantsFetch s i.val = false ∧ ∀ slot, exec (.commandFetch i slot) s = .next s)

/-- No command of the table changes the queue of commands that wait. -/
def Obligations.ExecLeavesTheQueueAlone : Prop :=
  ∀ (c : Instr) (s t : State), exec c s = .next t → t.pending = s.pending

/-- DOORBELL (R19, R21): at offset 0 the tail of an OPEN inlet is written; an inlet that is not OPEN ignores it and
counts it; other offsets are ignored. A tail outside the ring stops (R46). By the model's choice: log entries 1 (an
event that cannot arise), 2 (stops), 16 (what follows at once), 85 (a doorbell that is ignored wakes the device too). -/
def Obligations.DoorbellWritesTheTailOfAnOpenInlet : Prop :=
  ∀ (s : State) (i : Fin 64) (v : W32), hostUp s = true →
    ((getInlet s i.val).state = .open → v.toNat % 65536 < 2 ^ (getInlet s i.val).sizeLog2.toNat →
      exec (.doorbell i 0 v) s = .next (settle (putInlet (wakeTrigger s) i.val
        { getInlet s i.val with tail := BitVec.ofNat 16 (v.toNat % 65536) }))) ∧
    ((getInlet s i.val).state = .open → ¬ v.toNat % 65536 < 2 ^ (getInlet s i.val).sizeLog2.toNat →
      exec (.doorbell i 0 v) s = .fault (.badTail i.val)) ∧
    ((getInlet s i.val).state ≠ .open →
      exec (.doorbell i 0 v) s = .next (settle (setInletFlag (wakeTrigger s) i.val .ignored))) ∧
    (∀ off, off ≠ 0 → exec (.doorbell i off v) s = .next (settle s))

/-- The fields of INLET_CTL as a write leaves them (Table 2.11): SIZE_LOG2 only while CLOSED; a refused write of ENABLE is
ignored (R44). -/
def ctlFields (s : State) (i : Nat) (v : W32) : Inlet :=
  let x := getInlet s i
  let refused := if v.getLsbD 0 then x.state = .draining || (x.state = .closed && !mayOpen s) else false
  { x with
    enable := if refused then x.enable else v.getLsbD 0
    priority := BitVec.ofNat 2 (bitsOf v.toNat 2 1), haltOnError := v.getLsbD 3
    exempt := v.getLsbD 4, sizeLog2 := if x.state = .closed then BitVec.ofNat 5 (bitsOf v.toNat 12 8) else x.sizeLog2 }

/-- ENABLE_WRITE and RESUME by Table 2.5c: a CLOSED inlet opens with its indices at 0 where the device may open it,
and the write is refused elsewhere; an OPEN or HALTED one that is disabled drains, or closes with nothing in flight; a
DRAINING one refuses to be enabled; ENABLE 0 leaves a CLOSED or DRAINING one; RESUME brings HALTED to OPEN outside FAULT.
By the model's choice: log entries 2 (stops), 16 (what follows at once), 84 (the order within one write: the plain fields,
ENABLE, RESUME). -/
def Obligations.InletControlFollowsItsTransitions : Prop :=
  ∀ (s : State) (i : Fin 64), hostUp s = true →
    (∀ v : W32,
      let t := enableEffect (putInlet s i.val (ctlFields s i.val v)) i.val (v.getLsbD 0)
      exec (.enableWrite i v) s = .next (settle (if v.getLsbD 5 then resumeInlet t i.val else t))) ∧
    (exec (.resume i) s = .next (settle (resumeInlet s i.val))) ∧
    ((getInlet s i.val).state = .closed → mayOpen s = true →
      let t := enableEffect s i.val true
      (getInlet t i.val).state = .open ∧ (getInlet t i.val).head = 0 ∧ (getInlet t i.val).tail = 0 ∧
        (getOutfall t i.val).head = 0 ∧ (getOutfall t i.val).tail = 0 ∧ (getOutfall t i.val).reserved = 0) ∧
    ((getInlet s i.val).state = .closed → mayOpen s = false →
      enableEffect s i.val true = setInletFlag s i.val .refused) ∧
    ((getInlet s i.val).state = .draining → enableEffect s i.val true = setInletFlag s i.val .refused) ∧
    ((getInlet s i.val).state = .closed ∨ (getInlet s i.val).state = .draining → enableEffect s i.val false = s) ∧
    ((getInlet s i.val).state = .open ∨ (getInlet s i.val).state = .halted →
      enableEffect s i.val true = s ∧
      (getInlet (enableEffect s i.val false) i.val).state = if inFlight s i.val = 0 then .closed else .draining) ∧
    ((getInlet s i.val).state = .halted → s.dev.state ≠ .fault → (getInlet (resumeInlet s i.val) i.val).state = .open) ∧
    ((getInlet s i.val).state ≠ .halted ∨ s.dev.state = .fault → resumeInlet s i.val = s)

/-- QUIESCE_WRITE and WAKE by Table 2.5a: in READY only QUIESCED follows; ACTIVE and QUIESCING change into each other
with STATE_CHANGED set and counted; a wake trigger in LOW_POWER starts the wake once, and elsewhere does nothing. By
the model's choice: log entries 1 (an event that cannot arise), 16 (what follows at once). -/
def Obligations.QuiesceAndWakeFollowTheDeviceStates : Prop :=
  ∀ (s : State) (q : Bool), hostUp s = true →
    (s.dev.state = .ready → exec (.quiesceWrite q) s =
      .next (settle { s with dev := { s.dev with quiesce := q, quiesced := q } })) ∧
    (s.dev.state = .active ∨ s.dev.state = .quiescing → ∃ t, exec (.quiesceWrite q) s = .next (settle t) ∧
      t.dev.quiesce = q ∧ t.dev.state = (if q then .quiescing else .active) ∧
      (t.dev.state ≠ s.dev.state → t.dev.stateChanged = true ∧ t.dev.stateChangedCount = s.dev.stateChangedCount + 1) ∧
      t.cmds = s.cmds ∧ t.inlets = s.inlets ∧ t.mem = s.mem) ∧
    (s.dev.state ≠ .ready → s.dev.state ≠ .active → s.dev.state ≠ .quiescing → exec (.quiesceWrite q) s =
      .next (settle { s with dev := { s.dev with quiesce := q } })) ∧
    (s.dev.state = .lowPower → s.dev.wakeFrom = none → exec .wake s = .next (settle { s with
      dev := { s.dev with wakeFrom := some s.clk.ticks }
      ports := s.ports.map (fun p => (p.1, { p.2 with widen := p.2.widen || p.2.link = .keepAlive })) })) ∧
    (s.dev.state ≠ .lowPower ∨ s.dev.wakeFrom ≠ none → exec .wake s = .next (settle s))

/-- The flags of a W1C register with their bits and companion counters. -/
def flagsOf (s : State) (r : FlagReg) : List (Nat × Bool × W32) :=
  match r with
  | .devFlags => [(0, s.dev.stateChanged, s.dev.stateChangedCount), (1, s.dev.faultFlag, s.dev.faultCount)]
  | .inletStatus i =>
    let x := getInlet s i.val
    [(8, x.refused, x.refusedCount), (9, x.ignored, x.ignoredCount), (10, x.halted, x.haltedCount)]
  | .outfallStatus i => [(0, (getOutfall s i.val).fullStall, (getOutfall s i.val).fullStallCount)]
  | .portsFlags =>
    [(0, s.net.windowRefused, s.net.windowRefusedCount), (1, s.net.noRoute, s.net.noRouteCount),
     (2, s.net.groupRefused, s.net.groupRefusedCount)]
  | .portFlags p =>
    let x := getPort s p.val
    [(0, x.breach, x.breachCount), (1, x.linkDown, x.linkDownCount), (2, x.linkUp, x.linkUpCount)]
  | .tideFlags =>
    [(0, s.tide.syncLost, s.tide.syncLostCount), (1, s.tide.syncAcquired, s.tide.syncAcquiredCount),
     (2, s.tide.timingEvent, s.tide.timingEventCount)]
  | .pumpFlags =>
    [(0, s.pump.unreachableFlag, s.pump.unreachableCount), (1, s.pump.brakeFlag, s.pump.brakeCount),
     (2, s.pump.throttleFlag, s.pump.throttleCount)]
  | .teleFlags =>
    [(0, s.tele.eolWarn, s.tele.eolWarnCount), (1, s.tele.eolCrit, s.tele.eolCritCount),
     (2, s.tele.maxLowered, s.tele.maxLoweredCount)]
  | .errFlags =>
    [(0, s.err.new, s.err.newCount), (1, s.err.overrun, s.err.overrunCount), (2, s.err.coreOut, s.err.coreOutCount)]
  | .secFlags =>
    [(0, s.sec.fallbackFlag, s.sec.fallbackCount), (1, s.sec.authFailed, s.sec.authFailedCount),
     (2, s.sec.debugUnlocked, s.sec.debugUnlockedCount), (3, s.sec.mbxDone, s.sec.mbxDoneCount)]

/-- W1C_CLEAR (R9): a set that coincides with a clear wins and counts (a telemetry counter that is full stays there, R352); a
clear of 1 clears; other flags stay. The commands in flight, memory, event counters, cores and sluices stay. By the model's
choice: log entry 16 (what follows at once). -/
def Obligations.CoincidentSetWinsOverAClear : Prop :=
  ∀ (s : State) (r : FlagReg) (mask sets : W32), hostUp s = true →
    let t := clearWithSets s r mask sets
    exec (.w1cClear r mask sets) s = .next (settle t) ∧
    flagsOf t r = (flagsOf s r).map (fun f =>
      (f.1, sets.getLsbD f.1 || (f.2.1 && !mask.getLsbD f.1),
        if sets.getLsbD f.1 && !(decide (r = .teleFlags) && decide (f.2.2 = BitVec.allOnes 32)) then f.2.2 + 1 else f.2.2)) ∧
    t.cmds = s.cmds ∧ t.mem = s.mem ∧ t.events = s.events ∧ t.cores = s.cores ∧ t.sluices = s.sluices

/-- EVENT_COUNTER_WRITE (R26): the host's value is applied first and the increment of the same cycle is added to it;
increments from several sources are all applied. No other counter changes; counter 0 ignores both (R23). The statement
derives from R26; by the model's choice: log entry 16 (what follows at once). -/
def Obligations.HostWritePrecedesCoincidentIncrements : Prop :=
  ∀ (s : State) (n : W16) (v inc : W32), hostUp s = true →
    exec (.eventCounterWrite n v inc) s = .next (settle (setEvent s n.toNat (v + inc))) ∧
    (n ≠ 0 → eventVal (setEvent s n.toNat (v + inc)) n.toNat = v + inc) ∧
    (∀ m, m ≠ n.toNat → eventVal (setEvent s n.toNat (v + inc)) m = eventVal s m) ∧
    (∀ x, setEvent s 0 x = s) ∧
    (∀ (e a b : Nat), e ≠ 0 →
      eventVal (addEvent (addEvent s e a) e b) e = eventVal s e + BitVec.ofNat 32 a + BitVec.ofNat 32 b)

/-- A 32-bit write of a register. -/
def regWrite (a : Nat) (v : W32) : Instr := .registerWrite (BitVec.ofNat 20 a) false (v.setWidth 64)

/-- What a read shows of a block: the address of a register, the lowest bit and the width of one of its fields, and its
value. -/
abbrev Shown := Nat × Nat × Nat × Nat

/-- A 64-bit register in its two halves. -/
def wideShown (a v : Nat) : List Shown := [(a, 0, 32, v), (a + 4, 0, 32, v / 2 ^ 32)]

/-- GLOBAL, an inlet and its outfall, and INTERRUPT (Tables 2.10 to 2.13). -/
def hostShown (s : State) (i : Fin 64) : List Shown :=
  let d := s.dev
  let x := getInlet s i.val
  let o := getOutfall s i.val
  let a := 0x10000 + 0x100 * i.val
  let b := 0x20000 + 0x100 * i.val
  let q := s.irq
  [(0x0, 0, 16, 0x1F3C), (0x0, 16, 16, 0x6420), (0x4, 0, 4, d.state.code), (0x4, 4, 1, bit01 d.quiesced),
   (0x4, 5, 1, bit01 s.lock.repeatable), (0x4, 16, 11, s.cmds.length), (0x8, 0, 32, 0x10), (0xC, 0, 12, s.rcd.chipId.toNat),
   (0x10, 0, 16, coreMask s), (0x10, 16, 5, coreCount s), (0x20, 0, 1, bit01 d.quiesce), (0x20, 1, 1, bit01 d.lowPowerEn),
   (0x20, 2, 1, 0), (0x20, 16, 16, d.idleEntry.toNat), (0x24, 0, 1, bit01 d.stateChanged), (0x24, 1, 1, bit01 d.faultFlag),
   (0x28, 0, 32, d.stateChangedCount.toNat), (0x2C, 0, 32, d.faultCount.toNat)] ++
  wideShown a x.base.toNat ++
  [(a + 0x8, 0, 1, bit01 x.enable), (a + 0x8, 1, 2, x.priority.toNat), (a + 0x8, 3, 1, bit01 x.haltOnError),
   (a + 0x8, 4, 1, bit01 x.exempt), (a + 0x8, 5, 1, 0), (a + 0x8, 8, 5, x.sizeLog2.toNat), (a + 0xC, 0, 4, x.state.code),
   (a + 0xC, 8, 1, bit01 x.refused), (a + 0xC, 9, 1, bit01 x.ignored), (a + 0xC, 10, 1, bit01 x.halted),
   (a + 0x10, 0, 16, x.head.toNat), (a + 0x14, 0, 16, x.tail.toNat), (a + 0x18, 0, 32, inFlight s i.val),
   (a + 0x20, 0, 32, x.refusedCount.toNat), (a + 0x24, 0, 32, x.ignoredCount.toNat), (a + 0x28, 0, 32, x.haltedCount.toNat)] ++
  wideShown b o.base.toNat ++ wideShown (b + 8) o.wb.toNat ++
  [(b + 0x10, 0, 5, o.sizeLog2.toNat), (b + 0x10, 8, 8, o.vector.toNat), (b + 0x10, 16, 8, o.coalesceCount.toNat),
   (b + 0x10, 24, 8, o.coalesceTime.toNat), (b + 0x14, 0, 16, o.head.toNat), (b + 0x18, 0, 16, o.tail.toNat),
   (b + 0x1C, 0, 1, bit01 o.fullStall), (b + 0x20, 0, 32, o.fullStallCount.toNat), (0x32000, 0, 8, q.vector.toNat),
   (0x32004, 0, 1, bit01 q.maskState), (0x32004, 1, 1, bit01 q.maskFault), (0x32004, 2, 1, bit01 q.maskLog),
   (0x32004, 3, 1, bit01 q.maskInlet), (0x32008, 0, 1, bit01 q.causeState), (0x32008, 1, 1, bit01 q.causeFault),
   (0x32008, 2, 1, bit01 q.causeLog), (0x32008, 3, 1, bit01 q.causeInlet)]

/-- PUMPING and TELEMETRY for a core, with a job slot (Tables 13.5 and 13.7). -/
def powerShown (s : State) (c : Fin 16) (k : BitVec 12) : List Shown :=
  let p := s.pump
  let t := s.tele
  let x := getPower s c.val
  let m := 0x80100 + 4 * c.val
  [(0x80000, 0, 16, p.capPeak.toNat), (0x80000, 16, 16, p.capSustained.toNat), (0x80004, 0, 16, p.wardenPeak.toNat),
   (0x80004, 16, 16, p.wardenSustained.toNat), (0x80008, 0, 5, p.mCeiling.toNat), (0x80008, 8, 1, bit01 p.learn),
   (0x8000C, 0, 1, bit01 p.unreachable), (0x8000C, 1, 1, bit01 p.brake), (0x80010, 0, 16, p.estInterval.toNat),
   (0x80010, 16, 16, p.est1ms.toNat), (0x80014, 0, 16, p.est100ms.toNat), (0x80018, 0, 1, bit01 p.unreachableFlag),
   (0x80018, 1, 1, bit01 p.brakeFlag), (0x80018, 2, 1, bit01 p.throttleFlag), (0x8001C, 0, 32, p.unreachableCount.toNat),
   (0x80020, 0, 32, p.brakeCount.toNat), (0x80024, 0, 32, p.throttleCount.toNat), (0x80028, 0, 32, 0)] ++
  wideShown 0x80030 p.idleEnergy.toNat ++ wideShown 0x80038 p.moduleEnergy.toNat ++
  [(m, 0, 5, x.m), (m, 8, 5, x.mMax), (m, 22, 10, x.railMv), (m + 0x40, 0, 16, x.share.toNat), (m + 0x40, 16, 16, x.est.toNat)] ++
  wideShown (0x88000 + 8 * k.toNat) (tabGet p.jobEnergy 0 k.toNat) ++
  [(0x90104, 0, 8, 98), (0x90104, 8, 8, 95), (0x90104, 16, 8, 110), (0x90108, 0, 16, t.vin.toNat),
   (0x90108, 16, 16, t.pinMeasured.toNat), (0x90110 + 4 * c.val, 0, 8, x.eolMonths.toNat),
   (0x90110 + 4 * c.val, 8, 8, x.margin.toNat), (0x90110 + 4 * c.val, 16, 5, x.mMaxShip), (0x90150, 0, 8, t.eolMonths.toNat),
   (0x90154, 0, 1, bit01 t.eolWarn), (0x90154, 1, 1, bit01 t.eolCrit), (0x90154, 2, 1, bit01 t.maxLowered),
   (0x90158, 0, 32, t.eolWarnCount.toNat), (0x9015C, 0, 32, t.eolCritCount.toNat), (0x90160, 0, 32, t.maxLoweredCount.toNat),
   (0x90400 + 4 * c.val, 0, 32, x.droops.toNat)]

/-- TIDE and PORTS for a port and a window (Tables 12.4 and 11.10). -/
def linkShown (s : State) (p : Fin 12) (w : BitVec 12) : List Shown :=
  let t := s.tide
  let n := s.net
  let x := getPort s p.val
  let a := 0xB2000 + 0x100 * p.val
  let v := getWindow s w.toNat
  wideShown 0xA0000 t.count.toNat ++
  [(0xA0008, 0, 1, bit01 t.master), (0xA0008, 1, 2, t.source.toNat), (0xA0008, 3, 1, bit01 t.syncEn),
   (0xA000C, 0, 2, t.st.code), (0xA000C, 16, 12, t.masterChip.toNat), (0xA0014, 0, 32, t.corrections.toNat),
   (0xA0018, 0, 1, bit01 t.syncLost), (0xA0018, 1, 1, bit01 t.syncAcquired), (0xA0018, 2, 1, bit01 t.timingEvent),
   (0xA001C, 0, 32, t.syncLostCount.toNat), (0xA0020, 0, 32, t.syncAcquiredCount.toNat),
   (0xA0024, 0, 32, t.timingEventCount.toNat), (0xA0028, 0, 16, t.dikeMargin.toNat), (0xA0030, 0, 32, t.capGate.toNat),
   (0xA0034, 0, 32, t.thermal.toNat), (0xA0038, 0, 32, t.brake.toNat), (0xA003C, 0, 32, t.droop.toNat),
   (0xA0040, 0, 32, t.rerun.toNat), (0xA0044, 0, 32, t.replay.toNat), (0xA0048, 0, 32, t.lateRelease.toNat),
   (0xA004C, 0, 32, t.coreMask.toNat)] ++ wideShown 0xA0050 t.firstTick.toNat ++
  [(0xA0058, 0, 32, t.firstCause.toNat), (0xA0060, 0, 2, if s.lock.established then 2 else bit01 s.lock.set),
   (0xA0060, 16, 12, s.lock.partner.toNat)] ++ wideShown 0xA0068 s.lock.compared.toNat ++
  wideShown 0xB0008 n.bundleMap.toNat ++
  [(0xB0010, 0, 8, n.dateline.toNat), (0xB0014, 0, 24, n.e2eUs.toNat), (0xB0018, 0, 1, bit01 n.windowRefused),
   (0xB0018, 1, 1, bit01 n.noRoute), (0xB0018, 2, 1, bit01 n.groupRefused), (0xB0020, 0, 32, n.windowRefusedCount.toNat),
   (0xB0024, 0, 32, n.noRouteCount.toNat), (0xB0028, 0, 32, n.groupRefusedCount.toNat)] ++
  wideShown 0xB0030 n.groupAddr.toNat ++
  [(a, 0, 2, match x.link with | .down => 0 | .training => 1 | .up => 2 | .keepAlive => 3), (a, 16, 12, x.partnerChip.toNat),
   (a, 28, 4, x.partnerPort.toNat), (a + 0x4, 0, 1, 0), (a + 0x4, 1, 1, bit01 x.disable), (a + 0x8, 0, 1, bit01 x.breach),
   (a + 0x8, 1, 1, bit01 x.linkDown), (a + 0x8, 2, 1, bit01 x.linkUp), (a + 0x10, 0, 32, x.breachCount.toNat),
   (a + 0x14, 0, 32, x.linkDownCount.toNat), (a + 0x18, 0, 32, x.linkUpCount.toNat)] ++
  wideShown (a + 0x20) x.flitsTx.toNat ++ wideShown (a + 0x28) x.flitsRx.toNat ++
  [(a + 0x30, 0, 32, x.crcErrors.toNat), (a + 0x34, 0, 32, x.replays.toNat), (a + 0x38, 0, 32, x.fecCorrected.toNat),
   (a + 0x3C, 0, 32, x.fecUncorrectable.toNat), (a + 0x40, 0, 32, x.framesDropped.toNat), (a + 0x44, 0, 32, x.pfcPauseRx.toNat),
   (0xB8000 + 8 * w.toNat, 0, 2, v.st.code), (0xB8000 + 8 * w.toNat, 16, 16, v.gen.toNat),
   (0xB8004 + 8 * w.toNat, 0, 32, v.refused.toNat)]

/-- SECURITY, ERROR for a core, and APERTURE (Tables 15.12, 14.9 and 2.14). -/
def guardShown (s : State) (c : Fin 16) : List Shown :=
  let x := s.sec
  let w := s.warden
  let e := s.err
  let k := getCore s c.val
  [(0xC0000, 0, 8, x.op.toNat), (0xC0004, 0, 32, 0), (0xC0008, 0, 2, x.mbxState.toNat), (0xC0008, 8, 8, x.result.toNat),
   (0xC000C, 0, 16, x.reqBytes.toNat), (0xC0010, 0, 16, x.rspBytes.toNat), (0xC0014, 8, 1, bit01 (w.activeSlot != w.trial)),
   (0xC0014, 9, 1, bit01 x.fallback), (0xC0018, 0, 32, x.svnActive), (0xC001C, 0, 32, w.minSvn), (0xC0020, 0, 32, svnStaged w),
   (0xC0024, 0, 2, x.debugLevel), (0xC0024, 8, 8, x.unlocks), (0xC0028, 0, 1, bit01 w.ownerKey.isSome),
   (0xC0030, 0, 1, bit01 x.fallbackFlag), (0xC0030, 1, 1, bit01 x.authFailed), (0xC0030, 2, 1, bit01 x.debugUnlocked),
   (0xC0030, 3, 1, bit01 x.mbxDone), (0xC0034, 0, 32, x.fallbackCount.toNat), (0xC0038, 0, 32, x.authFailedCount.toNat),
   (0xC003C, 0, 32, x.debugUnlockedCount.toNat), (0xC0040, 0, 32, x.mbxDoneCount.toNat)] ++ wideShown 0xC0080 w.bootCount ++
  wideShown 0xD0000 e.seq ++ wideShown 0xD0008 e.ack.toNat ++
  [(0xD0010, 0, 1, bit01 e.new), (0xD0010, 1, 1, bit01 e.overrun), (0xD0010, 2, 1, bit01 e.coreOut),
   (0xD0014, 0, 32, e.newCount.toNat), (0xD0018, 0, 32, e.overrunCount.toNat), (0xD001C, 0, 32, e.coreOutCount.toNat),
   (0xD0020, 0, 32, e.watchdogUs.toNat), (0xD0024, 0, 5, e.reserve.toNat), (0xD0024, 8, 1, bit01 e.autoOffline),
   (0xD0028, 0, 5, e.reserveActive.toNat), (0xD002C, 0, 32, 0), (0xD0034, 0, 32, e.preempts.toNat),
   (0xD0038, 0, 32, e.watchdogs.toNat), (0xD0040 + 4 * c.val, 0, 16, k.reruns.toNat),
   (0xD0040 + 4 * c.val, 16, 8, k.exhausted.toNat)] ++ wideShown 0xE0000 (s.ap.base.toNat * 2 ^ 30)

/-- A read of BAR0 shows these fields (R8, R48 to R53, R305, R323, R351, R352, R376, R396). -/
def shows (s : State) (l : List Shown) : Prop := ∀ f ∈ l, ∃ r, readBar s f.1 false = some r ∧
  r.toNat / 2 ^ f.2.1 % 2 ^ f.2.2.1 = f.2.2.2 % 2 ^ f.2.2.1

/-- Writes of an inlet's and its outfall's registers (Tables 2.11 and 2.12): bases only while the inlet is CLOSED; a head
beyond OUTFALL_TAIL stops (log entry 2). -/
def inletWrites (s : State) (i : Fin 64) : Prop :=
  let x := getInlet s i.val
  let o := getOutfall s i.val
  let a := 0x10000 + 0x100 * i.val
  let b := 0x20000 + 0x100 * i.val
  (∀ v : W64, x.state = .closed →
    exec (.registerWrite (BitVec.ofNat 20 a) true v) s = .next (settle (putInlet s i.val { x with base := maskLow v 12 })) ∧
    exec (.registerWrite (BitVec.ofNat 20 b) true v) s = .next (settle (putOutfall s i.val { o with base := maskLow v 12 })) ∧
    exec (.registerWrite (BitVec.ofNat 20 (b + 8)) true v) s =
      .next (settle (putOutfall s i.val { o with wb := maskLow v 3 }))) ∧
  (∀ v : W64, x.state ≠ .closed → exec (.registerWrite (BitVec.ofNat 20 a) true v) s = .next (settle s) ∧
    exec (.registerWrite (BitVec.ofNat 20 b) true v) s = .next (settle s) ∧
    exec (.registerWrite (BitVec.ofNat 20 (b + 8)) true v) s = .next (settle s)) ∧
  (∀ v : W32, exec (regWrite (a + 8) v) s = exec (.enableWrite i v) s) ∧
  (∀ v : W32, exec (regWrite (b + 0x10) v) s = .next (settle (putOutfall s i.val { o with
    sizeLog2 := if x.state = .closed then BitVec.ofNat 5 (bitsOf v.toNat 4 0) else o.sizeLog2
    vector := BitVec.ofNat 8 (bitsOf v.toNat 15 8), coalesceCount := BitVec.ofNat 8 (bitsOf v.toNat 23 16)
    coalesceTime := BitVec.ofNat 8 (bitsOf v.toNat 31 24) }))) ∧
  (∀ h : W16, let n := 2 ^ o.sizeLog2.toNat
    (h.toNat < n → (h.toNat + n - o.head.toNat) % n ≤ (o.tail.toNat + n - o.head.toNat) % n →
      exec (regWrite (b + 0x14) (h.setWidth 32)) s = .next (settle (putOutfall s i.val { o with head := h }))) ∧
    (n ≤ h.toNat → exec (regWrite (b + 0x14) (h.setWidth 32)) s = .fault (.badRegister (b + 0x14))))

/-- Writes of GLOBAL and INTERRUPT (Tables 2.10 and 2.13, R52): DEV_CTL; MODULE_VECTOR and its masks; the MSI-X table, whose
bytes are kept and whose pending vector is sent once it is unmasked (log entry 8). -/
def moduleWrites (s : State) : Prop :=
  (∀ v : W32, let q := writeQuiesce s (v.getLsbD 0)
    let t := { q with dev := { q.dev with
      lowPowerEn := v.getLsbD 1, idleEntry := BitVec.ofNat 16 (v.toNat / 65536), idleFrom := q.clk.ticks } }
    exec (regWrite 0x20 v) s = .next (settle (if v.getLsbD 2 then wakeTrigger t else t)) ∧
    exec (.quiesceWrite (v.getLsbD 0)) s = .next (settle q)) ∧
  (∀ v : W32, exec (regWrite 0x32000 v) s =
    .next (settle { s with irq := { s.irq with vector := BitVec.ofNat 8 v.toNat } })) ∧
  (∀ v : W32, exec (regWrite 0x32004 v) s = .next (settle { s with irq := { s.irq with
    maskState := v.getLsbD 0, maskFault := v.getLsbD 1, maskLog := v.getLsbD 2, maskInlet := v.getLsbD 3 } })) ∧
  (∀ (n : BitVec 8) (k : Fin 4) (v : W32), let o := 16 * n.toNat + 4 * k.val
    let t := writeMsix s o v
    exec (regWrite (0x30000 + o) v) s = .next (settle t) ∧
    (readReg t (0x30000 + o)).toNat = (if k = 3 then v.toNat % 2 else v.toNat) ∧
    (k = 3 → v.getLsbD 0 = false → vectorPending s.irq n.toNat = true →
      t.msix = s.msix ++ [n.toNat] ∧ vectorPending t.irq n.toNat = false) ∧
    (vectorPending s.irq n.toNat = false → t.msix = s.msix ∧ t.irq.pba = s.irq.pba))

/-- Writes of PUMPING and TIDE (Tables 13.5 and 12.4): M_CEILING, at once in force (R326), stopping outside 8 to 20 (log
entry 2); JOB_ENERGY_CLEAR; TIDE_CTL, which begins the tide again; DIKE_MARGIN. -/
def powerWrites (s : State) : Prop :=
  (∀ v : W32, let m := bitsOf v.toNat 4 0
    (8 ≤ m → m ≤ 20 → ∃ t, exec (regWrite 0x80008 v) s = .next (settle t) ∧ t.pump.mCeiling.toNat = m ∧
      t.pump.learn = v.getLsbD 8 ∧ (∀ c, c < 16 → (getPower t c).m ≤ topM t c) ∧ t.mem = s.mem ∧ t.events = s.events) ∧
    (m < 8 ∨ 20 < m → exec (regWrite 0x80008 v) s = .fault (.badRegister 0x80008))) ∧
  (∀ v : W32, exec (regWrite 0x80028 v) s =
    exec (if v.getLsbD 31 then .jobEnergyClearAll else .jobEnergyClearSlot (BitVec.ofNat 12 v.toNat)) s) ∧
  (∀ v : W32, let m := v.getLsbD 0
    let src := BitVec.ofNat 2 (bitsOf v.toNat 2 1)
    let en := v.getLsbD 3
    ∃ t, exec (regWrite 0xA0008 v) s = .next (settle t) ∧ t.tide.master = m ∧ t.tide.source = src ∧ t.tide.syncEn = en ∧
      (s.tide.master = m → s.tide.source = src → s.tide.syncEn = en → t = s) ∧
      (s.tide.master ≠ m ∨ s.tide.source ≠ src ∨ s.tide.syncEn ≠ en →
        t.tide.st = (if m = true ∧ src = 0 ∧ en = true then .tracking else .unsync))) ∧
  (∀ v : W32, exec (regWrite 0xA0028 v) s =
    .next (settle { s with tide := { s.tide with dikeMargin := BitVec.ofNat 16 v.toNat } }))

/-- Writes of PORTS (Table 11.10): the bundle map and the routes, after which a partner out of reach is looked for;
DATELINE; E2E_TIMEOUT_US; GROUP_ADDR and GROUP_CMD; PORT_CTL. -/
def portWrites (s : State) : Prop :=
  (∀ v : W32, exec (regWrite 0xB0010 v) s =
    .next (settle { s with net := { s.net with dateline := BitVec.ofNat 8 v.toNat } })) ∧
  (∀ v : W32, exec (regWrite 0xB0014 v) s =
    .next (settle { s with net := { s.net with e2eUs := BitVec.ofNat 24 v.toNat } })) ∧
  (∀ v : W32, ∃ t, exec (regWrite 0xB0008 v) s = .next (settle (partnerCheck t)) ∧
    t = { s with net := { s.net with bundleMap := t.net.bundleMap } } ∧
    t.net.bundleMap.toNat = s.net.bundleMap.toNat / 2 ^ 32 * 2 ^ 32 + v.toNat) ∧
  (∀ v : W64, v.toNat < 2 ^ 40 → exec (.registerWrite 0xB0030 true v) s = .next (settle { s with
    net := { s.net with groupAddr := BitVec.ofNat 40 (v.toNat / 64 * 64) } })) ∧
  (∀ v : W32, let g : Fin 256 := ⟨v.toNat % 256, Nat.mod_lt _ (by decide)⟩
    exec (regWrite 0xB0038 v) s = exec (if v.getLsbD 8 then .groupRemove g else .groupConfigure g) s) ∧
  (∀ (k : BitVec 10) (v : W32), let t := writeRoute s k.toNat v
    exec (regWrite (0xB1000 + 4 * k.toNat) v) s = .next (settle (partnerCheck t)) ∧
    (∀ j, j < 4 → (tabGet t.net.route 0 (4 * k.toNat + j)).toNat = v.toNat / 2 ^ (8 * j) % 16) ∧
    (∀ n, n / 4 ≠ k.toNat → tabGet t.net.route 0 n = tabGet s.net.route 0 n)) ∧
  (∀ (p : Fin 12) (v : W32), let t := if v.getLsbD 0 then retrainPort s p.val else s
    exec (regWrite (0xB2004 + 0x100 * p.val) v) s = .next (settle (disablePort t p.val (v.getLsbD 1))) ∧
    exec (.retrain p) s = .next (settle (retrainPort s p.val)) ∧
    exec (.portDisable p (v.getLsbD 1)) s = .next (settle (disablePort s p.val (v.getLsbD 1))))

/-- Writes of SECURITY and ERROR (Tables 15.12 and 14.9): MBX_OP, GO of the request that the buffer holds, MBX_REQ_BYTES and
MBX_REQ; LOG_ACK, WATCHDOG_DEFAULT_US, SLUICE_CTL, stopping outside 1 to 16 (log entry 2), and CORE_RESET. -/
def guardWrites (s : State) : Prop :=
  (∀ v : W32, exec (regWrite 0xC0000 v) s = .next (settle { s with sec := { s.sec with op := BitVec.ofNat 8 v.toNat } })) ∧
  (∀ v : W32, v.getLsbD 0 = true → s.sec.mbxState ≠ 1 → secBusy s = false → s.sec.op = 2 → s.sec.reqBytes = 1 →
    tabGet s.sec.req 0 0 = 1 → ∃ t, exec (regWrite 0xC0004 v) s = .next (settle t) ∧ t.sec.mbxState = 2 ∧
      t.sec.rsp = s.sec.operator ∧ t.sec.mbxDoneCount = s.sec.mbxDoneCount + 1) ∧
  (∀ v : W32, v.getLsbD 0 = true → s.sec.mbxState = 1 ∨ s.sec.op = 0 → exec (regWrite 0xC0004 v) s = .fault .badMailbox) ∧
  (∀ v : W32, v.getLsbD 0 = false → exec (regWrite 0xC0004 v) s = .next (settle s)) ∧
  (∀ v : W32, exec (regWrite 0xC000C v) s =
    .next (settle { s with sec := { s.sec with reqBytes := BitVec.ofNat 16 v.toNat } })) ∧
  (∀ (k : BitVec 12) (v : W32), ∃ t, exec (regWrite (0xC4000 + 4 * k.toNat) v) s = .next (settle t) ∧
    readReg t (0xC4000 + 4 * k.toNat) = v ∧ t.mem = s.mem ∧
    (∀ j, j / 4 ≠ k.toNat → tabGet t.sec.req 0 j = tabGet s.sec.req 0 j)) ∧
  (∀ v : W64, exec (.registerWrite 0xD0008 true v) s = .next (settle { s with err := { s.err with ack := v } })) ∧
  (∀ v : W32, exec (regWrite 0xD0020 v) s = .next (settle { s with err := { s.err with watchdogUs := v } })) ∧
  (∀ v : W32, let r := bitsOf v.toNat 4 0
    (1 ≤ r → r ≤ 16 → exec (regWrite 0xD0024 v) s = .next (settle { s with err := { s.err with
      reserve := BitVec.ofNat 5 r, autoOffline := v.getLsbD 8
      reserveActive := if s.cmds.isEmpty then BitVec.ofNat 5 r else s.err.reserveActive } })) ∧
    (r = 0 ∨ 16 < r → exec (regWrite 0xD0024 v) s = .fault (.badRegister 0xD0024))) ∧
  (∀ c : Fin 16, exec (regWrite 0xD002C (BitVec.ofNat 32 (2 ^ c.val))) s = exec (.coreReset c) s)

/-- The address of each W1C register. -/
def flagAddr : FlagReg → Nat
  | .devFlags => 0x24
  | .inletStatus i => 0x1000C + 0x100 * i.val
  | .outfallStatus i => 0x2001C + 0x100 * i.val
  | .portsFlags => 0xB0018
  | .portFlags p => 0xB2008 + 0x100 * p.val
  | .tideFlags => 0xA0018
  | .pumpFlags => 0x80018
  | .teleFlags => 0x90154
  | .errFlags => 0xD0010
  | .secFlags => 0xC0030

/-- REGISTER_WRITE reaches the register at its address in every block: event counters (R53), APERTURE_BASE by one 64-bit write
(Table 2.14), the other writable registers by their tables, each W1C register as its row; GLOBAL registers that are not
writable stay (R8), and an access that is not aligned stops (R47). A read shows each field of each block, zero where a block
has no register (R8, R10), and nothing where the link does not answer. By the model's choice: log entries 1 (an event that
cannot arise), 2 (stops), 8 (masked vectors), 16 (what follows at once). -/
def Obligations.RegisterWritesReachTheirRegisters : Prop :=
  ∀ (s : State) (v : W64), hostUp s = true →
    (∀ n : Nat, n < 65536 → exec (.registerWrite (BitVec.ofNat 20 (0x40000 + 4 * n)) false v) s =
      .next (settle (setEvent s n (BitVec.ofNat 32 v.toNat)))) ∧
    (exec (.registerWrite 0xE0000 true v) s =
      .next (settle { s with ap := { s.ap with base := BitVec.ofNat 10 (v.toNat / 2 ^ 30) } })) ∧
    (∀ o : Nat, o < 0x10000 → o % 4 = 0 → o ≠ 0x20 → o ≠ 0x24 →
      exec (.registerWrite (BitVec.ofNat 20 o) false v) s = .next (settle s)) ∧
    (∀ (a : BitVec 20) (w : Bool), a.toNat % (if w then 8 else 4) ≠ 0 →
      exec (.registerWrite a w v) s = .fault (.badRegister a.toNat)) ∧
    (∀ i, inletWrites s i) ∧ moduleWrites s ∧ powerWrites s ∧ portWrites s ∧ guardWrites s ∧
    (∀ (r : FlagReg) (x : W32), exec (regWrite (flagAddr r) x) s = exec (.w1cClear r x 0) s) ∧
    (∀ i, shows s (hostShown s i)) ∧ (∀ c k, shows s (powerShown s c k)) ∧ (∀ p w, shows s (linkShown s p w)) ∧
    (∀ c, shows s (guardShown s c)) ∧
    (∀ n : Nat, 0 < n → n < 65536 → ∀ x : W32,
      readBar (setEvent s n x) (0x40000 + 4 * n) false = some (x.setWidth 64) ∧
      readBar s 0x40000 false = some 0) ∧
    (∀ o : Nat, 0x30 ≤ o → o < 0x10000 → o % 4 = 0 → readBar s o false = some 0) ∧
    (∀ (t : State) (a : Nat) (w : Bool), hostUp t = false ∨ a % (if w then 8 else 4) ≠ 0 → readBar t a w = none)

/-- APERTURE_WRITE and APERTURE_READ (R54, R198, R199, R224): BAR4 offset o stands for device address APERTURE_BASE + o; a
write stores the bytes there and leaves every other byte; one to an accumulator view is ignored, and one to a slot that an
array command holds stops; a read returns the bytes there, and one that meets an error returns poisoned data with an
error-log record, and affects no command. The statement derives from R54; by the model's choice: log entries 2 (stops), 16
(what follows at once), 88 (a write into a held slot stops). -/
def Obligations.ApertureReachesBasePlusOffset : Prop :=
  ∀ (s : State) (off : BitVec 30), hostUp s = true →
    let a := apAddr s off
    a = s.ap.base.toNat * 2 ^ 30 + off.toNat ∧
    (∀ data : List Byte, 0 < data.length → rangeOk a data.length = true → heldRange s a data.length = false →
      ∃ t, exec (.apertureWrite off data) s = .next (settle t) ∧
      (∀ k, k < data.length → readByte t (a + k) = data.getD k 0) ∧
      (∀ b, (∀ k, k < data.length → canon b ≠ canon (a + k)) → readByte t b = readByte s b) ∧
      t.cmds.map (·.id) = s.cmds.map (·.id) ∧ t.events = s.events) ∧
    (∀ data : List Byte, isAcc a = true → rangeRead a data.length = true →
      exec (.apertureWrite off data) s = .next (settle s)) ∧
    (∀ data : List Byte, isAcc a = false → rangeOk a data.length = false ∨ heldRange s a data.length = true →
      exec (.apertureWrite off data) s = .fault (.badAddress a)) ∧
    (∀ n : Nat, 0 < n → rangeRead a n = true → rangeBad s a n = false →
      s.ap.flaws.any ((granules a n).map badKey).contains = false →
      ∃ t, exec (.apertureRead off n) s = .next (settle t) ∧
      t.ap.read = { data := readMem s a n } ∧ t.mem = s.mem ∧ t.events = s.events) ∧
    (∀ n : Nat, 0 < n → rangeRead a n = true →
      rangeBad s a n = true ∨ s.ap.flaws.any ((granules a n).map badKey).contains = true →
      ∃ t, exec (.apertureRead off n) s = .next (settle t) ∧
      t.ap.read.poisoned = true ∧ t.err.seq = s.err.seq + 1 ∧ t.events = s.events ∧ t.mem = s.mem)

/-- GROUP_CONFIGURE and GROUP_REMOVE (R291): ignored and flagged while a command in flight names the group; otherwise
the group is configured at GROUP_ADDR, or unconfigured. No other group changes. By the model's choice: log entry 16
(what follows at once). -/
def Obligations.GroupCommandsSpareGroupsInUse : Prop :=
  ∀ (s : State) (g : Fin 256), hostUp s = true →
    (s.cmds.any (fun c => namesGroup c g.val) = true →
      let t := { s with net := { s.net with groupRefused := true, groupRefusedCount := s.net.groupRefusedCount + 1 } }
      exec (.groupConfigure g) s = .next (settle t) ∧ exec (.groupRemove g) s = .next (settle t)) ∧
    (s.cmds.any (fun c => namesGroup c g.val) = false →
      (groupOk s s.net.groupAddr.toNat = true →
        exec (.groupConfigure g) s =
          .next (settle { s with net := { s.net with groups := tabSet s.net.groups g.val s.net.groupAddr.toNat } })) ∧
      exec (.groupRemove g) s = .next (settle { s with net := { s.net with groups := tabErase s.net.groups g.val } })) ∧
    (∀ h, h ≠ g.val → tabFind? (tabErase s.net.groups g.val) h = tabFind? s.net.groups h) ∧
    tabFind? (tabErase s.net.groups g.val) g.val = none

/-- What is left of a port that has lost its link, in the state that it goes to (R277, R281, R304): nothing queued, in replay or
in the receive buffer, nothing outstanding; the loss has its record; each command in flight that owned a packet of the replay
buffer has a cause posted, which ends it; memory stays, and nothing else happens where the port had nothing of its own. -/
def linkLost (s t : State) (p : Nat) (link : LinkState) : Prop :=
  let x := getPort s p
  let y := getPort t p
  y.link = link ∧ y.queue = [] ∧ y.replay = [] ∧ y.outstanding = 0 ∧ y.tries = 0 ∧ (∀ key, tabGet y.rxBuf 0 key = 0) ∧
  t.cmds.map (·.id) = s.cmds.map (·.id) ∧ t.mem = s.mem ∧ s.err.seq < t.err.seq ∧
  (∀ u ∈ x.replay, ∀ id, u.owner = .cmd id → (findCmd s id).isSome → ((findCmd t id).bind (·.ending)).isSome) ∧
  (x.queue = [] → x.replay = [] → cutShort s p = [] → s.lock.established = false →
    t.cmds = s.cmds ∧ t.err.seq = s.err.seq + 1 ∧ ∀ q, q ≠ p → getPort t q = getPort s q)

/-- A breach (R277): BREACH set and counted, the link back in training. -/
def breachLeaves (s : State) (p : Nat) : Prop :=
  let t := breachPort s p
  (getPort t p).breach = true ∧ (getPort t p).breachCount = (getPort s p).breachCount + 1 ∧ linkLost s t p .training

/-- A link-down (R304): LINK_DOWN set and counted, the link down. -/
def downLeaves (s : State) (p : Nat) : Prop :=
  let t := downPort s p
  (getPort t p).linkDown = true ∧ (getPort t p).linkDownCount = (getPort s p).linkDownCount + 1 ∧ linkLost s t p .down

/-- A replay (R276): the unacknowledged flits are sent again and counted; the eighth without an advance is a breach. -/
def replayLeaves (s : State) (p : Nat) : Prop :=
  let x := getPort s p
  let t := replayPort s p
  let y := getPort t p
  (x.outstanding = 0 → t = s) ∧ (x.outstanding ≠ 0 → 8 ≤ x.tries → t = breachPort s p) ∧
  (x.outstanding ≠ 0 → x.tries < 8 → y.replays = x.replays + 1 ∧ y.tries = x.tries + 1 ∧
    y.flitsTx = x.flitsTx + BitVec.ofNat 64 x.outstanding ∧ y.advanced = s.clk.ticks ∧ y.link = x.link ∧
    y.replay = x.replay ∧ y.txSeq = x.txSeq ∧ t.mem = s.mem ∧ t.cmds.map (·.id) = s.cmds.map (·.id) ∧ s.wire <+: t.wire)

/-- RETRAIN (R277) breaches a port that is up and leaves any other; PORT_DISABLE (R304) takes a port that is up down,
holds one that is not, and lets a released port train. By the model's choice: log entries 1 (an event that cannot
arise), 16 (what follows at once). -/
def Obligations.PortControlsBreachHoldAndRelease : Prop :=
  ∀ (s : State) (p : Fin 12), hostUp s = true →
    (portUp s p.val = true → exec (.retrain p) s = .next (settle (breachPort s p.val))) ∧
    (portUp s p.val = false → exec (.retrain p) s = .next (settle s)) ∧
    breachLeaves s p.val ∧ downLeaves s p.val ∧
    (∀ v, (getPort s p.val).disable = v → exec (.portDisable p v) s = .next (settle s)) ∧
    ((getPort s p.val).disable = false → portUp s p.val = true → exec (.portDisable p true) s =
      .next (settle (downPort (putPort s p.val { getPort s p.val with disable := true }) p.val))) ∧
    ((getPort s p.val).disable = false → portUp s p.val = false → exec (.portDisable p true) s =
      .next (settle (putPort s p.val { getPort s p.val with disable := true, link := .down }))) ∧
    ((getPort s p.val).disable = true → exec (.portDisable p false) s = .next (settle
      (putPort s p.val { getPort s p.val with disable := false, link := .training, trainedAt := s.clk.ticks })))

/-- JOB_ENERGY_CLEAR (R344) clears the slot named, or every slot and every inlet's counter, with the slots' ticks; CORE_RESET
(R367) begins the reset of a core that is not being reset already, and its end returns a core that was in service. By the
model's choice: log entries 1 (an event that cannot arise), 16 (what follows at once), 101 (the ticks). -/
def Obligations.ClearsAndCoreResetsTakeEffect : Prop :=
  ∀ s : State,
    (hostUp s = true →
      (∀ k : BitVec 12, exec (.jobEnergyClearSlot k) s =
        .next (settle { s with pump := { s.pump with
          jobEnergy := tabErase s.pump.jobEnergy k.toNat, jobTicks := tabErase s.pump.jobTicks k.toNat } })) ∧
      exec .jobEnergyClearAll s = .next (settle { s with
        pump := { s.pump with jobEnergy := [], jobTicks := [] }
        inlets := s.inlets.map (fun p => (p.1, { p.2 with energy := 0 })) }) ∧
      (∀ c : Fin 16, (getCore s c.val).busy.isNone → exec (.coreReset c) s = .next (settle (beginReset s c.val))) ∧
      (∀ c : Fin 16, (getCore s c.val).busy.isSome → exec (.coreReset c) s = .next (settle s))) ∧
    (∀ c : Fin 16, (getCore s c.val).busy.isSome → (getCore s c.val).st = .beingReset →
      ∃ t, exec (.coreResetDone c) s = .next (settle t) ∧ (getCore t c.val).busy = none ∧ coreIn t c.val = true ∧
        t.mem = s.mem ∧ t.cmds = s.cmds) ∧
    (∀ c : Fin 16, (getCore s c.val).busy = none → exec (.coreResetDone c) s = .next (settle s))

/-- The security mailbox (R384, R385, R390, R393): a whole request of a security block that has nothing before it leaves DONE,
the response and its length, and MBX_DONE set and counted; a challenge is fresh and outstanding, a section or the
certificates or a report over the nonce is returned. A request waits, BUSY, behind those that the block has; GO while BUSY
stops. By the model's choice: log entries 2 (stops), 5 (free values), 11 (the bytes of identity and certificates), 59
(what waits). -/
def Obligations.MailboxAnswersItsRequests : Prop :=
  (∀ s : State, hostUp s = true → s.sec.mbxState ≠ 1 → secBusy s = false →
    (∃ t, exec .mbxGetChallenge s = .next t ∧ t.sec.challenge = some (leBytes 32 (Config.freeNat s.free)) ∧
      t.sec.rsp = leBytes 32 (Config.freeNat s.free) ∧ t.sec.mbxState = 2 ∧ t.sec.mbxDone = true ∧
      t.sec.mbxDoneCount = s.sec.mbxDoneCount + 1) ∧
    (∀ b, ∃ t, exec (.mbxConfigRead b) s = .next t ∧ t.sec.rsp = (if b then s.sec.operator else s.sec.calibration) ∧
      t.sec.challenge = s.sec.challenge ∧ t.sec.mbxState = 2 ∧ t.sec.mbxDoneCount = s.sec.mbxDoneCount + 1) ∧
    (∃ t, exec .mbxCerts s = .next t ∧ t.sec.rsp = certChain ∧ t.sec.mbxState = 2 ∧
      t.sec.mbxDoneCount = s.sec.mbxDoneCount + 1) ∧
    (∀ nonce : List Byte, nonce.length = 32 → ∃ t, exec (.mbxAttest nonce) s = .next t ∧ t.sec.mbxState = 2 ∧
      t.sec.rsp = report s nonce ∧ slice t.sec.rsp 32 32 = nonce ∧
      (s.sec.debugDigest.length = 64 → slice t.sec.rsp 0 2656 = reportBody s nonce) ∧
      t.sec.rspBytes = BitVec.ofNat 16 t.sec.rsp.length ∧ t.sec.mbxDoneCount = s.sec.mbxDoneCount + 1 ∧
      t.mem = s.mem ∧ t.cmds = s.cmds)) ∧
  (∀ s : State, hostUp s = true → s.sec.mbxState ≠ 1 → secBusy s = true →
    (∃ t, exec .mbxGetChallenge s = .next t ∧ t.sec.mbxState = 1 ∧
      t.sec.mbxWait = s.sec.mbxWait ++ [{ relay := false, op := 1, req := [], before := s.clk.dispatched }] ∧
      t.sec.mbxDoneCount = s.sec.mbxDoneCount ∧ t.sec.challenge = s.sec.challenge) ∧
    (∀ b, ∃ t, exec (.mbxConfigRead b) s = .next t ∧ t.sec.mbxState = 1 ∧ t.sec.rsp = s.sec.rsp ∧ t.sec.mbxWait = s.sec.mbxWait ++
      [{ relay := false, op := 2, req := [if b then 1 else 0], before := s.clk.dispatched }]) ∧
    (∃ t, exec .mbxCerts s = .next t ∧ t.sec.mbxState = 1 ∧ t.sec.rsp = s.sec.rsp ∧
      t.sec.mbxWait = s.sec.mbxWait ++ [{ relay := false, op := 3, req := [], before := s.clk.dispatched }]) ∧
    (∀ nonce : List Byte, nonce.length = 32 → ∃ t, exec (.mbxAttest nonce) s = .next t ∧ t.sec.mbxState = 1 ∧
      t.sec.rsp = s.sec.rsp ∧
      t.sec.mbxWait = s.sec.mbxWait ++ [{ relay := false, op := 4, req := nonce, before := s.clk.dispatched }])) ∧
  (∀ s : State, hostUp s = true → s.sec.mbxState = 1 → exec .mbxGetChallenge s = .fault .badMailbox ∧
    (∀ b, exec (.mbxConfigRead b) s = .fault .badMailbox) ∧ exec .mbxCerts s = .fault .badMailbox ∧
    (∀ nonce, exec (.mbxAttest nonce) s = .fault .badMailbox))

/-- COMMAND_FETCH (R16, R20, R27, R31, Table 2.5a): the slot at INLET_BASE + 512 INLET_HEAD of the inlet that is served is
taken: the head advances, an outfall entry is reserved, the command joins those in flight with the next number, and READY
becomes ACTIVE. Without a free entry fetch stalls, which is flagged and counted once; an inlet that wants no fetch is left
alone. COALESCE_TIMER (R34) raises the vector of entries that wait: it is sent, or pending where its entry masks it (R52). By
the model's choice: log entries 1 (an event that cannot arise), 3 (the clock), 16 (what follows at once), 4 (the slot is the
operand), 8 (masked vectors, PRESUMED from the MSI-X standard). -/
def Obligations.FetchReservesAnEntryAndCoalescingSignals : Prop :=
  ∀ (s : State) (i : Fin 64) (slot : List Byte),
    (wantsFetch s i.val = true → 0 < outfallRoom (getOutfall s i.val) →
      pickInlet s ((List.range 64).filter (fetchable s)) s.clk.fetchTurn = some i.val → headerOk slot = true →
      exec (.commandFetch i slot) s = .next (settle (fetchSlot s i.val slot)) ∧
      (fetchSlot s i.val slot).cmds = (s.cmds ++ [cmdOf s i.val slot]).map (latchCmd s) ∧
      (getOutfall (fetchSlot s i.val slot) i.val).reserved = (getOutfall s i.val).reserved + 1 ∧
      (getInlet (fetchSlot s i.val slot) i.val).head =
        BitVec.ofNat 16 (((getInlet s i.val).head.toNat + 1) % 2 ^ (getInlet s i.val).sizeLog2.toNat) ∧
      (fetchSlot s i.val slot).clk.fetched = s.clk.fetched + 1 ∧ (fetchSlot s i.val slot).mem = s.mem ∧
      (∀ k, k < (slotRead slot).length →
        tabGet (fetchSlot s i.val slot).host 0 (slotAddr (getInlet s i.val) + k) = (slotRead slot).getD k 0) ∧
      (fetchSlot s i.val slot).dev.state =
        (if s.dev.state = .ready then if s.dev.quiesce then .quiescing else .active else s.dev.state)) ∧
    slotAddr (getInlet s i.val) = (getInlet s i.val).base.toNat + 512 * (getInlet s i.val).head.toNat ∧
    (wantsFetch s i.val = true → outfallRoom (getOutfall s i.val) = 0 →
      exec (.commandFetch i slot) s = .next (stallFetch s i.val)) ∧
    ((getOutfall s i.val).stalled = true → stallFetch s i.val = s) ∧
    ((getOutfall s i.val).stalled = false → (getOutfall (stallFetch s i.val) i.val).fullStall = true ∧
      (getOutfall (stallFetch s i.val) i.val).fullStallCount = (getOutfall s i.val).fullStallCount + 1 ∧
      (getOutfall (stallFetch s i.val) i.val).stalled = true ∧ (stallFetch s i.val).cmds = s.cmds) ∧
    (wantsFetch s i.val = false → exec (.commandFetch i slot) s = .next s) ∧
    (∀ t, (getOutfall s i.val).oldest = some t → (getOutfall s i.val).coalesceTime ≠ 0 →
      let u := advanceTo s (t + us (getOutfall s i.val).coalesceTime.toNat)
      exec (.coalesceTimer i) s = .next (settle (raiseVector u i.val)) ∧
      (let v := (getOutfall s i.val).vector.toNat
       if vectorMasked s.irq v then (raiseVector u i.val).msix = s.msix ∧ vectorPending (raiseVector u i.val).irq v = true
       else (raiseVector u i.val).msix = s.msix ++ [v] ∧ (raiseVector u i.val).irq = s.irq) ∧
      (getOutfall (raiseVector u i.val) i.val).oldest = none) ∧
    ((getOutfall s i.val).oldest = none ∨ (getOutfall s i.val).coalesceTime = 0 →
      exec (.coalesceTimer i) s = .next s)

/-- NOP, EVENT_SIGNAL, EVENT_WAIT, FENCE and QUERY (R37, Table 2.4a) at their dispatch: the command's work begins; the
signals of EVENT_SIGNAL apply in order; QUERY holds its result. By the model's choice: log entry 16 (what follows at
once). -/
def Obligations.ImmediateCommandsActAtDispatch : Prop :=
  ∀ (s : State) (i : Fin 64) (c : Cmd),
    let d := dispatchCmd s c
    (runs s i (opSel 0x0001) c = true → c.hdr.paramLen = 0 →
      exec (.nop i) s = .next (settle d) ∧ (findCmd d c.id).map (·.work) = some (.done 0) ∧ d.mem = s.mem ∧
      d.events = s.events) ∧
    (runs s i (opSel 0x0002) c = true → 0 < c.hdr.paramLen → (signalEntries c).all (fun e => e.2.1 ≤ 1) = true →
      exec (.eventSignal i) s = .next (settle ((signalEntries c).foldl applySignal d)) ∧
      ((signalEntries c).foldl applySignal d).mem = s.mem) ∧
    (runs s i (opSel 0x0003) c = true → 0 < c.hdr.paramLen →
      exec (.eventWait i) s = .next (settle (setWork d c.id (.waitEvents (waitEntries s c)))) ∧
      (setWork d c.id (.waitEvents (waitEntries s c))).events = s.events) ∧
    (runs s i (opSel 0x0004) c = true → c.hdr.paramLen = 1 → c.par 0 1 ≤ 1 →
      exec (.fence i) s = .next (settle (setWork d c.id (.fence (c.par 0 1 = 1))))) ∧
    (∀ r, runs s i (opSel 0x0013) c = true → c.hdr.paramLen = 1 → c.par 5 3 = 0 →
      queryResult d (c.par 0 2) (c.par 2 2) (c.par 4 1) = some r →
      exec (.query i) s = .next (settle (setWork d c.id (.done r))))

/-- DIKE, its release, TIDE_LAUNCH and LAUNCH_FIRE (R292, R317, R318): a barrier takes the next collective number of
its group; a member releases at its estimate of the master's tick R with DETAIL R; a launch is held to its count, which is
its DETAIL, and is rejected where the module does not track or the count is not to come; both are reached at the first own
count that the offset estimate of a module in TRACKING places at or after the tick. By the model's choice: log entries 3 (the
clock), 16 (what follows at once), 37 (the sign of the offset), 90 (the instant of a release or launch). -/
def Obligations.BarriersAndLaunchesKeepToTheTide : Prop :=
  ∀ (s : State) (i : Fin 64) (c : Cmd),
    let d := dispatchCmd s c
    let g := c.par 0 2
    let n := if bitOf (c.par 8 1) 0 then roundUp (c.par 0 8) 716800 else c.par 0 8
    (runs s i (opSel 0x0005) c = true → c.hdr.paramLen = 1 → g < 256 → groupThere s g = true → c.par 2 6 = 0 →
      exec (.dike i) s = .next (settle (setWork (takeSeq d g).2 c.id (.dike
        { group := g, seq := tabGet s.net.collSeq 0 g, n := groupSize s g, rank := groupRank s g }))) ∧
      tabGet (takeSeq d g).2.net.collSeq 0 g = tabGet s.net.collSeq 0 g + 1) ∧
    (runs s i (opSel 0x0006) c = true → c.hdr.paramLen = 2 → s.tide.st = .tracking → s.tide.count.toNat < n →
      c.par 8 1 ≤ 1 → c.par 9 7 = 0 → n < 2 ^ 64 →
      exec (.tideLaunch i) s = .next (settle (setWork d c.id (.launch n)))) ∧
    (runs s i (opSel 0x0006) c = true → c.hdr.paramLen = 2 → s.tide.st ≠ .tracking ∨ n ≤ s.tide.count.toNat →
      exec (.tideLaunch i) s = .next (settle (reject d c.id 0x06 s.tide.st.code 0))) ∧
    (∀ id k m, findCmd s id = some k → k.work = .launch m →
      exec (.launchFire id) s = .next (settle (setWork (reachCount s m) id (.done m)))) ∧
    (∀ id k w r, findCmd s id = some k → k.work = .dike w → w.release = some r →
      exec (.dikeRelease id) s = .next (settle (setWork (reachCount s r) id (.done r)))) ∧
    (∀ m, s.tide.count.toNat ≤ masterAt s m → masterAt s m < 2 ^ 64 →
      (reachCount s m).tide.count.toNat = masterAt s m) ∧
    (∀ m, s.tide.st ≠ .tracking → masterAt s m = m) ∧
    (∀ m : Nat, s.tide.st = .tracking → 0 ≤ 40 * (m : Int) + s.tide.offset →
      40 * (m : Int) + s.tide.offset ≤ 40 * (masterAt s m : Int) ∧
        40 * (masterAt s m : Int) < 40 * (m : Int) + s.tide.offset + 40)

/-- ABORT (R374): every command that it names, and never the ABORT itself, posts ABORT_CMD with the aborter's inlet;
the inlets that it names halt; the ABORT waits for their ends, and DETAIL is their number. By the model's choice: log
entry 16 (what follows at once). -/
def Obligations.AbortPostsAgainstEveryNamedCommand : Prop :=
  ∀ (s : State) (i : Fin 64) (c : Cmd),
    runs s i (opSel 0x0008) c = true → c.hdr.paramLen = 2 → c.par 0 1 ≤ 2 → c.par 1 1 = 0 →
    (c.par 0 1 = 2 ∨ c.par 2 2 < 64) → c.par 8 8 = 0 →
    let d := dispatchCmd s c
    let names := abortNames d c.id (c.par 0 1) (c.par 2 2) (c.par 4 4) c.inlet
    let h := abortHalts d (c.par 0 1) (c.par 2 2) c.inlet
    exec (.abort i) s = .next (settle (setWork
      (names.foldl (fun s id => failCmd s id (localCause h .abortCmd 0 c.inlet)) h) c.id (.abort names names.length))) ∧
    c.id ∉ names ∧
    (c.par 0 1 = 2 → ∀ k ∈ s.cmds, k.id ≠ c.id → k.inlet ≠ c.inlet → k.id ∈ names) ∧
    (c.par 0 1 = 1 → ∀ k ∈ s.cmds, k.id ≠ c.id → (k.id ∈ names ↔ ∃ j ∈ s.cmds, j.id = k.id ∧ j.inlet = c.par 2 2))

/-- SET_MODE, SET_CAP and SET_WEIR (R217, R306, R333): the mode is in force at once, and DETAIL is the MFLAGS before;
new caps hold from now; a new weir waits for the window's boundary. By the model's choice: log entry 16 (what follows
at once), 86 (lock-step does not wait for the partner's PAIR). -/
def Obligations.ModesCapsAndWeirChange : Prop :=
  ∀ (s : State) (i : Fin 64) (c : Cmd),
    let d := dispatchCmd s c
    (runs s i (opSel 0x0010) c = true → s.cmds.length = 1 → c.hdr.paramLen = 2 → c.par 0 1 < 4 → c.par 1 1 = 0 →
      c.par 2 2 < 4096 → (c.par 4 2 = 0 ∨ (16 ≤ c.par 4 2 ∧ c.par 4 2 ≤ 4096)) → c.par 6 8 = 0 → c.par 14 2 = 0 →
      exec (.setMode i) s = .next (settle (setWork
        (applyMode d (bitOf (c.par 0 1) 0) (bitOf (c.par 0 1) 1) (BitVec.ofNat 12 (c.par 2 2)) (c.par 4 2)) c.id
        (.done (modeFlags s))))) ∧
    (∀ r l p n, (applyMode s r l p n).lock.repeatable = r) ∧
    (∀ (p u : Nat), runs s i (opSel 0x0011) c = true → c.hdr.paramLen = 1 → c.par 4 4 = 0 → c.par 0 2 = p →
      c.par 2 2 = u → (p = 0 ∨ (500 ≤ p ∧ p ≤ 1650)) →
      (u = 0 ∨ (500 ≤ u ∧ u ≤ (if p = 0 then s.pump.capPeak.toNat else p))) →
      ∃ t, exec (.setCap i) s = .next (settle t) ∧
        t.pump.capPeak = (if p = 0 then s.pump.capPeak else BitVec.ofNat 16 p) ∧
        t.pump.capSustained = (if u = 0 then s.pump.capSustained else BitVec.ofNat 16 u) ∧
        (findCmd t c.id).map (·.work) = some (.setCap (capWord s.pump)) ∧ t.mem = s.mem ∧ t.power = s.power) ∧
    (runs s i (opSel 0x0012) c = true → s.cmds.length = 1 → c.hdr.paramLen = 2 → weirOk c.params = true →
      exec (.setWeir i) s = .next (settle (setWork (weirServe d) c.id (.setWeir (weirWord s.weir)))))

/-- CORE_OFFLINE and CORE_ONLINE (R365, R366): the core leaves or enters service, the others stay in or out of it, and DETAIL
is the mask of the cores then in service; a core that fails its self-test stays out, and the command ends with `CORE_OFFLINE`
and its bit. By the model's choice: log entry 16 (what follows at once), 61 (which failed self-test sets CORE_OUT), 91 (what
a self-test leaves in the berm), 152 (a reset that runs). -/
def Obligations.CoresLeaveAndEnterService : Prop :=
  ∀ (s : State) (i : Fin 64) (c : Cmd),
    let d := dispatchCmd s c
    let k := c.par 0 1
    (runs s i (opSel 0x0014) c = true → c.hdr.paramLen = 1 → k < 16 → c.par 1 7 = 0 → coreIn s k = true →
      1 < coreCount s → let t := takeOffline d k .host
      exec (.coreOffline i) s = .next (settle (setWork t c.id (.done (coreMask t)))) ∧ coreIn t k = false ∧
      (getCore t k).outReason = .host ∧ (getCore t k).threads = [] ∧ (getCore t k).epiQ = [] ∧ (∀ j, j ≠ k → coreIn t j = coreIn s j) ∧
      (∀ n, n / 8 = k → n < 128 → (getSluice t n).st = .offline) ∧
      (cmdsOnCore d k = [] → ∀ j, j ≠ k → getCore t j = getCore s j)) ∧
    (runs s i (opSel 0x0015) c = true → c.hdr.paramLen = 1 → k < 16 → c.par 1 7 = 0 →
      (getCore s k).st = .outOfService →
      (let t := bringOnline (endReset d k) k
       exec (.coreOnline i true) s = .next (settle (setWork t c.id (.done (coreMask t)))) ∧ coreIn t k = true ∧
        (∀ j, j ≠ k → getCore t j = getCore s j)) ∧
      (let t := selfTestFailed (endReset d k) k
       exec (.coreOnline i false) s = .next (settle (finish t c.id .coreOffline (2 ^ k))) ∧ coreIn t k = false ∧
        (∀ j, j ≠ k → getCore t j = getCore s j)) ∧
      ((getCore s k).busy = none → endReset d k = d))

/-- Checks of Table 2.8 (R44): a command with FLAGS bit 1 outside repeatable mode, or with bit 3 without a pairing, is
rejected with scope 0x05 by every dispatch row; an inlet without a command of the row leaves the state; and the state
checks of the commands reject with the scope, state code and index of their object. By the model's choice: log entries
1 (an event that cannot arise), 16 (what follows at once). -/
def Obligations.FailedChecksRejectTheCommand : Prop :=
  (∀ r ∈ dispatchRows, ∀ (s : State) (i : Fin 64) (c : Cmd),
    (dispatchable s i.val r.sel = some c → (flagSet c.hdr 1 = true ∧ s.lock.repeatable = false) ∨
      (flagSet c.hdr 3 = true ∧ s.lock.established = false) →
      exec (r.row i) s = .next (settle (reject (dispatchCmd s c) c.id 0x05 (modeCode s) 0))) ∧
    (dispatchable s i.val r.sel = none → exec (r.row i) s = .next s)) ∧
  (∀ (s : State) (i : Fin 64) (c : Cmd),
    let d := dispatchCmd s c
    let w := c.par 0 2
    (runs s i (opSel 0x0300) c = true → c.hdr.paramLen = 3 → w < 4096 → (getWindow s w).st ≠ .closed →
      exec (.windowOpen i) s = .next (settle (reject d c.id 0x02 (winCode s w) w))) ∧
    (runs s i (opSel 0x0301) c = true → c.hdr.paramLen = 1 → w < 4096 → (getWindow s w).st ≠ .open →
      exec (.windowClose i) s = .next (settle (reject d c.id 0x02 (winCode s w) w))) ∧
    (runs s i (opSel 0x0102) c = true → c.hdr.paramLen = 9 → hostSluice w = true → (getSluice s w).st ≠ .idle →
      exec (.sluiceArm i) s = .next (settle (reject d c.id 0x03 (getSluice s w).st.code w))) ∧
    (runs s i (opSel 0x0103) c = true → c.hdr.paramLen = 9 → hostSluice w = true →
      (getSluice s w).st = .idle ∨ (getSluice s w).st = .offline →
      exec (.sluiceRearm i) s = .next (settle (reject d c.id 0x03 (getSluice s w).st.code w))) ∧
    (runs s i (opSel 0x0309) c = true → c.hdr.paramLen = 1 → w < 16384 → (getQp s w).st = .free →
      exec (.qpTeardown i) s = .next (settle (reject d c.id 0x04 0 w))) ∧
    (runs s i (opSel 0x0010) c = true → 1 < s.cmds.length →
      exec (.setMode i) s = .next (settle (reject d c.id 0x00 s.dev.state.code 0))) ∧
    (runs s i (opSel 0x0012) c = true → 1 < s.cmds.length →
      exec (.setWeir i) s = .next (settle (reject d c.id 0x00 s.dev.state.code 0))) ∧
    (runs s i (opSel 0x0005) c = true → c.hdr.paramLen = 1 → w < 256 → groupThere s w = false →
      exec (.dike i) s = .next (settle (reject d c.id 0x09 0 w))) ∧
    (runs s i (opSel 0x0014) c = true → c.hdr.paramLen = 1 → c.par 0 1 < 16 →
      coreIn s (c.par 0 1) = false ∨ coreCount s ≤ 1 →
      exec (.coreOffline i) s = .next (settle (reject d c.id 0x08 (getCore s (c.par 0 1)).st.code (c.par 0 1)))) ∧
    (runs s i (opSel 0x0502) c = true → c.hdr.paramLen = 0 →
      s.warden.fwState = .none ∨ s.warden.fwState = .writing →
      exec (.fwCommit i) s = .next (settle (reject d c.id 0x07 s.warden.fwState.code 0))) ∧
    (∀ pass, runs s i (opSel 0x0015) c = true → c.hdr.paramLen = 1 → c.par 0 1 < 16 →
      (getCore s (c.par 0 1)).st ≠ .outOfService → exec (.coreOnline i pass) s =
        .next (settle (reject d c.id 0x08 (getCore s (c.par 0 1)).st.code (c.par 0 1)))) ∧
    (runs s i (opSel 0x0308) c = true → c.hdr.paramLen = 12 → w < 16384 → c.par 2 1 % 16 < 12 →
      (getQp s w).st ≠ .free ∨ isEth s (c.par 2 1 % 16) = false →
      exec (.qpSetup i) s = .next (settle (reject d c.id 0x04 (getQp s w).st.code w))) ∧
    (let ch := c.par 0 1
     runs s i (opSel 0x0307) c = true → c.hdr.paramLen = 8 + 6 * c.par 1 1 → ch < 16 →
      ((getChannel s ch).st ≠ .free →
        exec (.exportBind i) s = .next (settle (reject d c.id 0x0A (getChannel s ch).st.code ch))) ∧
      (∀ r, (getChannel s ch).st = .free → 1 ≤ c.par 1 1 → c.par 1 1 ≤ 8 → (List.range (c.par 1 1)).all (destOk c) = true →
        (bindDests c).findSome? (destRefused s) = some r →
        exec (.exportBind i) s = .next (settle (reject d c.id r.1 r.2.1 r.2.2)))) ∧
    (∀ x : Dest, (x.kind = 1 → (getQp s x.qp).st = .free → destRefused s x = some (0x04, 0, x.qp)) ∧
      (x.kind = 1 → (getQp s x.qp).st ≠ .free → destRefused s x = none) ∧
      (x.kind ≠ 1 → x.chip = s.rcd.chipId.toNat → (getWindow s x.window).st ≠ .open →
        destRefused s x = some (0x02, winCode s x.window, x.window)) ∧
      (x.kind ≠ 1 → x.chip ≠ s.rcd.chipId.toNat ∨ (getWindow s x.window).st = .open → destRefused s x = none)) ∧
    (∀ r ∈ [((0 : Nat), Instr.source), (1, .seal), (2, .pull), (3, .message)], let ch := c.par 1 1
      runs s i (exportSel r.1) c = true → c.hdr.paramLen = 5 → ch < 16 → (getChannel s ch).st ≠ .bound →
      exec (r.2 i) s = .next (settle (reject d c.id 0x0A (getChannel s ch).st.code ch))) ∧
    (∀ r ∈ [((0x0302 : Nat), (7 : Nat), Instr.send), (0x0303, 4, .recv), (0x0304, 5, .allreduce), (0x0305, 4, .allgather)],
      let g := if r.1 = 0x0302 then (sendOf c.params).group else w
      runs s i (opSel r.1) c = true → c.hdr.paramLen = r.2.1 → g < 256 → groupThere s g = false →
      exec (r.2.2 i) s = .next (settle (reject d c.id 0x09 0 g))))

/-- A command that can complete does next when nothing goes ahead of it and none of its digests waits (R322); its end removes
it from the commands in flight, applies its signal on `OK` only (R25, R43), and writes its 32-byte entry at OUTFALL_TAIL,
which advances (R32), unless SUPPRESS is set and the status is `OK`, when only the reservation is released (R33). By the
model's choice: log entries 16 (what follows at once), 100 (the write-back), 115 (digests). -/
def Obligations.CompletionWritesOneEntry : Prop :=
  (∀ (s : State) (c : Cmd) (r : Status × Nat), s.net.loop = [] → closeNext s = none →
    s.cmds.findSome? (fun k => if digestWaits s k.id then none else (completion s k).map (fun r => (k, r))) = some (c, r) →
    settleNext s = some (endDone s c r)) ∧
  (∀ (s : State) (c : Cmd) (d : Nat), c.work = .done d →
    completion s c = some (.ok, d) ∧ (digestWaits (cmdDigest s c.id .ok d) c.id = false →
      endDone s c (.ok, d) = finish s c.id .ok d)) ∧
  (∀ (s : State) (c : Cmd) (st : Status) (d : Nat), findCmd s c.id = some c →
    let t := endOne s c.id st d
    let o := getOutfall s c.inlet
    let a := o.base.toNat + 32 * o.tail.toNat
    findCmd t c.id = none ∧ (∀ id, id ≠ c.id → (findCmd t id).isSome = (findCmd s id).isSome) ∧ t.mem = s.mem ∧
    (st = .ok → flagSet c.hdr 2 = true → t.host = s.host ∧ (getOutfall t c.inlet).tail = o.tail ∧
      (getOutfall t c.inlet).reserved = o.reserved - 1) ∧
    (st ≠ .ok ∨ flagSet c.hdr 2 = false →
      (getOutfall t c.inlet).tail = BitVec.ofNat 16 ((o.tail.toNat + 1) % 2 ^ o.sizeLog2.toNat) ∧
      (o.wb.toNat + 4 ≤ a ∨ a + 32 ≤ o.wb.toNat →
        (∀ k, k < 4 → tabGet t.host 0 (a + k) = (leBytes 4 c.hdr.tag.toNat).getD k 0) ∧
        tabGet t.host 0 (a + 4) = BitVec.ofNat 8 st.code ∧
        (∀ k, k < 8 → tabGet t.host 0 (a + 24 + k) = (leBytes 8 d).getD k 0))) ∧
    (st = .ok → flagSet c.hdr 0 = true → c.hdr.signalId ≠ 0 →
      eventVal t c.hdr.signalId.toNat = eventVal s c.hdr.signalId.toNat + BitVec.ofNat 32 c.hdr.signalInc.toNat) ∧
    (st ≠ .ok ∨ flagSet c.hdr 0 = false → t.events = s.events))

/-- A wait (E, T) is met (R24) when (C[15:0] - T) mod 65,536 < 32,768; a wait once met stays met; a command is dispatched
only when its four waits are met; a slot that names counter 0 is met. -/
def Obligations.WaitsAreMetModulo65536AndStayMet : Prop :=
  (∀ (s : State) (e t : Nat), e ≠ 0 → t < 65536 →
    (waitMet s e t = true ↔ (((eventVal s e).toNat % 65536 : Int) - (t : Int)) % 65536 < 32768)) ∧
  (∀ (s : State) (t : Nat), waitMet s 0 t = true) ∧
  (∀ (s : State) (c : Cmd) (k : Nat), c.hdr.waits.length = c.met.length → c.met.getD k false = true →
    (latchCmd s c).met.getD k false = true) ∧
  (∀ (s : State) (i : Fin 64) (sel : Cmd → Bool) (c : Cmd), dispatchable s i.val sel = some c →
    ∀ k, k < c.hdr.waits.length → k < c.met.length → c.met.getD k false = true ∨
      waitMet s (c.hdr.waits.getD k (0, 0)).1 (c.hdr.waits.getD k (0, 0)).2 = true)

/-- COPY, GATHER_ROWS, SCATTER_ROWS and FILL (R213): the transfer is cut into its parts, which wait for chip-level
sluices; no byte of memory changes at the dispatch. By the model's choice: log entry 16 (what follows at once). -/
def Obligations.TransfersAreCutIntoParts : Prop :=
  ∀ (s : State) (i : Fin 64) (c : Cmd),
    let d := dispatchCmd s c
    let start := fun (x : Desc) (fill : Option W64) (parts outs : List (Nat × Nat)) =>
      modCmd d c.id (fun k => { k with
        work := if parts.isEmpty then .done 0 else .xfer parts.length (parts.map (fun p =>
          { cmd := c.id, desc := x, lo := p.1, hi := p.2, pos := p.1, fill := fill, plain := true : SlChain })) 0
        outs := outs })
    let x := fun (m : Option Nat) => plainDesc c m
    (runs s i (opSel 0x0100) c = true → c.hdr.paramLen = 9 → c.par 0 1 ≤ 16 → c.par 1 7 = 0 → (x none).ok = true →
      (x none).mode ≤ 2 → exec (.copy i) s =
        .next (settle (start (x none) none (descParts (x none) (c.par 0 1)) (descOuts d (x none))))) ∧
    (runs s i (opSel 0x0106) c = true → c.hdr.paramLen = 9 → c.par 0 1 ≤ 16 → c.par 1 7 = 0 → (x (some 3)).ok = true →
      exec (.gatherRows i) s =
        .next (settle (start (x (some 3)) none (descParts (x (some 3)) (c.par 0 1)) (descOuts d (x (some 3)))))) ∧
    (runs s i (opSel 0x0107) c = true → c.hdr.paramLen = 9 → c.par 0 1 ≤ 16 → c.par 1 7 = 0 → (x (some 4)).ok = true →
      exec (.scatterRows i) s =
        .next (settle (start (x (some 4)) none (descParts (x (some 4)) (c.par 0 1)) (descOuts d (x (some 4)))))) ∧
    (let a := c.par 0 8
     let n := c.par 8 8
     let w := if c.par 16 1 = 0 then 16 else c.par 16 1
     runs s i (opSel 0x0101) c = true → c.hdr.paramLen = 4 → a % 16 = 0 → n % 16 = 0 → n < 2 ^ 40 → c.par 16 1 ≤ 16 →
      c.par 17 7 = 0 → exec (.fill i) s = .next (settle (start { descOf [] with dst := a, rowBytes := n, rows := 1 }
        (some (BitVec.ofNat 64 (c.par 24 8))) (partBounds n (ceilDiv n (w * 4096) * 4096) w)
        (if n = 0 then [] else [(a, n)])))) ∧
    (∀ y f p o, (start y f p o).mem = s.mem)

/-- SLUICE_ARM and SLUICE_REARM (R210, R211, Table 8.6): an idle sluice runs the chain; a running one holds it as its
pending shadow, and a shadow that it replaces completes with DETAIL 0, both commands carrying OVERTOPPED; a chain whose
last segment starts at once reads its NEXT now (R209). By the model's choice: log entry 16 (what follows at once). -/
def Obligations.SluicesTakeChains : Prop :=
  ∀ (s : State) (i : Fin 64) (c : Cmd),
    let d := dispatchCmd s c
    let n := c.par 0 2
    (runs s i (opSel 0x0102) c = true → c.hdr.paramLen = 9 → (getSluice s n).st = .idle → armOk c = true →
      let x := armChain c
      (x.desc.chain = false ∨ x.lastStarts = false → exec (.sluiceArm i) s = .next (settle (setWork
        (putSluice d n { st := .running, active := some x }) c.id (.arm n)))) ∧
      (x.desc.chain = true → x.lastStarts = true → rangeRead x.desc.next 64 = true → badAt s x.desc.next 64 = none →
        ∃ t, exec (.sluiceArm i) s = .next (settle t) ∧ (getSluice t n).st = .running ∧
          (getSluice t n).active = some { x with nxt := some (readMem s x.desc.next 64) } ∧ t.mem = s.mem)) ∧
    (runs s i (opSel 0x0103) c = true → c.hdr.paramLen = 9 →
      (getSluice s n).st = .running ∨ (getSluice s n).st = .shadowPending → armOk c = true →
      exec (.sluiceRearm i) s = .next (settle (setWork
        (putSluice (replaceShadow d c.id (getSluice s n).shadow) n
          { getSluice s n with st := .shadowPending, shadow := some (armChain c) }) c.id (.rearm n)))) ∧
    (∀ o, replaceShadow d c.id (some o) = overtop (setWork (overtop d o.cmd) o.cmd (.done 0)) c.id)

/-- SEGMENT_COMPLETE (R207, R209): the next 4 KiB of a contiguous transfer without chaining move from source to
destination; every other byte reads as before. A chain that waits for a slot only keeps its claims; a tile that the
scheduler fetches moves on by a segment. By the model's choice: log entry 16 (what follows at once). -/
def Obligations.SegmentMovesItsBytes : Prop :=
  ∀ (s : State) (n : Fin 160) (c : SlChain),
    (getSluice s n.val).st = .running ∨ (getSluice s n.val).st = .shadowPending →
    (getSluice s n.val).active = some c →
    let r := claimFor s c
    let m := c.segEnd - c.pos
    (∀ j, c.job = some j → exec (.segmentComplete n) s = .next (settle (jobSegment s n.val c j))) ∧
    (c.job = none → r.2.stalled = true → exec (.segmentComplete n) s =
      .next (settle (putSluice r.1 n.val { getSluice s n.val with active := some r.2 }))) ∧
    (c.job = none → r.2.stalled = false → c.desc.mode = 0 → c.fill = none → c.desc.chain = false → c.nxt = none →
      (c.pos + 4096 < c.hi ∨ ∀ o, (getSluice s n.val).shadow = some o → o.desc.chain = false) → c.pos < c.segEnd →
      rangeRead (c.desc.src + c.pos) m = true → rangeOk (c.desc.dst + c.pos) m = true →
      rangeBad s (c.desc.src + c.pos) m = false →
      ∃ t, exec (.segmentComplete n) s = .next (settle t) ∧
        (∀ k, k < m → readByte t (c.desc.dst + c.pos + k) = readByte s (c.desc.src + c.pos + k)) ∧
        (∀ b, (∀ k, k < m → canon b ≠ canon (c.desc.dst + c.pos + k)) → readByte t b = readByte s b) ∧
        t.cores = s.cores)

/-- COMPARE_COUNT and COMPARE_SWAP (R219, R220): the counts less, equal and greater of each key, and the number of
NaNs in DETAIL; the value read in DETAIL, and NEW stored where it equals EXPECTED. Bytes outside the result stay. By
the model's choice: log entry 16 (what follows at once), 89 (they run whole at their dispatch). -/
def Obligations.PolderOperationsCompare : Prop :=
  ∀ (s : State) (i : Fin 64) (c : Cmd),
    let a := c.par 0 8
    (let ka := c.par 8 8
     let ra := c.par 16 8
     let n := c.par 24 4
     let e := c.par 28 1
     let m := c.par 29 1
     let b := ccBytes e
     let xs := (List.range n).map (fun j => readLe s (a + j * b) b)
     let out := (List.range m).flatMap (fun j => ccCounts e (readLe s (ka + j * b) b) xs)
     runs s i (opSel 0x0104) c = true → c.hdr.paramLen = 4 → 1 ≤ n → e ≤ 8 → 1 ≤ m → m ≤ 16 → c.par 30 2 = 0 →
      a % b = 0 → ra % 4 = 0 → rangePolder a (n * b) = true → rangeRead ka (m * b) = true → rangeOk ra (12 * m) = true →
      readsClean s c [(0, a, n * b), (0, ka, m * b)] = true →
      ∃ t, exec (.compareCount i) s = .next (settle t) ∧
        (findCmd t c.id).map (·.work) = some (.done (xs.countP (ccNan e))) ∧
        (∀ k, k < 12 * m → readByte t (ra + k) = (out.flatMap (leBytes 4)).getD k 0) ∧
        (∀ x, (∀ k, k < 12 * m → canon x ≠ canon (ra + k)) → readByte t x = readByte s x)) ∧
    (runs s i (opSel 0x0105) c = true → c.hdr.paramLen = 3 → a % 8 = 0 → rangePolder a 8 = true →
      readsClean s c [(0, a, 8)] = true →
      (readLe s a 8 = c.par 8 8 → ∃ t, exec (.compareSwap i) s = .next (settle t) ∧
        (findCmd t c.id).map (·.work) = some (.done (c.par 8 8)) ∧
        (∀ k, k < 8 → readByte t (a + k) = (leBytes 8 (c.par 16 8)).getD k 0) ∧
        (∀ x, (∀ k, k < 8 → canon x ≠ canon (a + k)) → readByte t x = readByte s x)) ∧
      (readLe s a 8 ≠ c.par 8 8 → ∃ t, exec (.compareSwap i) s = .next (settle t) ∧
        (findCmd t c.id).map (·.work) = some (.done (readLe s a 8)) ∧ t.mem = s.mem))

/-- The weir, LPDDR5X and the directory's clock (R214, R216, R225, R263, R310): the window's boundary starts every
class's use again; the reserve holds one credit, earned one by one; a channel records its refresh and its tracking, in
repeatable mode at counts of its fixed schedule; CLOCK steps every period of the clock step outside repeatable mode, and its
rhythm stays. By the model's choice: log entries 1 (an event that cannot arise), 3 (the clock), 16 (what follows at once),
118 (the schedules), 137 (the rhythm of the directory clock). -/
def Obligations.MemoryHousekeepingKeepsItsTimes : Prop :=
  ∀ (s : State) (ch : Fin 64) (off : W16),
    let refreshed := fun (t : State) => putDdr t ch.val { getDdr t ch.val with refreshed := t.clk.ticks }
    let tracked := fun (t : State) => putDdr t ch.val { getDdr t ch.val with tracked := t.clk.ticks, offset := off }
    (exec .weirWindow s = .next (settle (weirBoundary s)) ∧ (s.tide.count.toNat < 2 ^ 63 →
      (weirBoundary s).tide.count.toNat % 700 = 0 ∧ s.tide.count.toNat < (weirBoundary s).tide.count.toNat) ∧
      (weirBoundary s).mem = s.mem) ∧
    (exec .urgentCredit s = .next (settle (earnCredit s)) ∧ (earnCredit s).weir.credit = 1 ∧
      s.weir.earned < (earnCredit s).weir.earned ∧
      (earnCredit s).clk.ticks = max s.clk.ticks (creditTick (earnCredit s).weir.earned)) ∧
    (ddrRuns s = true → s.lock.repeatable = false →
      exec (.ddrRefresh ch) s = .next (settle (refreshed s)) ∧
      exec (.wck2dqTracking ⟨ch, off⟩) s = .next (settle (tracked (advanceTo s ((getDdr s ch.val).tracked + us 256))))) ∧
    (ddrRuns s = true → s.lock.repeatable = true →
      (∀ t, toSchedule s (Config.refreshCounts ch.val) = some t →
        exec (.ddrRefresh ch) s = .next (settle (refreshed t))) ∧
      (∀ t, toSchedule s (Config.trackCounts ch.val) = some t →
        exec (.wck2dqTracking ⟨ch, off⟩) s = .next (settle (tracked t))) ∧
      (toSchedule s (Config.refreshCounts ch.val) = none → exec (.ddrRefresh ch) s = .next s) ∧
      (toSchedule s (Config.trackCounts ch.val) = none → exec (.wck2dqTracking ⟨ch, off⟩) s = .next s)) ∧
    (∀ l t, toSchedule s l = some t → s.tide.count.toNat < 2 ^ 63 →
      s.tide.count.toNat < t.tide.count.toNat ∧ ∃ x ∈ l, t.tide.count.toNat % 716800 = x % 716800) ∧
    (∀ l, toSchedule s l = none ↔ l = []) ∧
    (ddrRuns s = false → exec (.ddrRefresh ch) s = .next s ∧ exec (.wck2dqTracking ⟨ch, off⟩) s = .next s) ∧
    (s.lock.repeatable = false →
      let n := s.dir.stepped + s.dir.clockStep
      let u := dirStep (advanceTo s n)
      exec .directoryClock s = .next (settle { u with dir := { u.dir with stepped := n } }) ∧
        u.dir.clock = s.dir.clock + 1 ∧ u.clk.ticks = max s.clk.ticks n) ∧
    (s.lock.repeatable = true → exec .directoryClock s = .next s)

/-- WATCHDOG and BERM_DEADLOCK (R205, R369, R371): a command that is watched ends with `TIMEOUT` at its period after its last
progress, with what the detector has posted by then; a thread, load port or sluice stalled on a slot has an advisory cause
posted against its command, which ends nothing. By the model's choice: log entries 1 (an event that cannot arise), 3 (the
clock), 16 (what follows at once), 87 (which parties stall, and that the detector posts first). -/
def Obligations.WatchdogsEndAndTheDetectorAdvises : Prop :=
  (∀ (s : State) (id : CmdId) (k : Cmd), findCmd s id = some k → watched s k = true →
    let t := k.progress + us (watchdogUs s k)
    (∃ k', findCmd (detectorFirst s id t) id = some k' ∧ k'.progress = k.progress ∧
      exec (.watchdog id) s = .next (settle (expire (advanceTo (detectorFirst s id t) t) k'))) ∧
    ((∀ p ∈ allParties, ∀ x ∈ partyStalls s p, x.1.id = id → x.1.advisory.isNone → t < deadlockAt s p x.1 x.2) →
      detectorFirst s id t = s) ∧
    (expire s k).err.watchdogs = s.err.watchdogs + 1 ∧
    (k.ending = none → ∃ k' e, findCmd (expire s k) id = some k' ∧ k'.ending = some e ∧ e.status = .timeout)) ∧
  (∀ (s : State) (id : CmdId), findCmd s id = none → exec (.watchdog id) s = .next s) ∧
  (∀ (s : State) (p : StallParty) (slot : Fin 64) (c : Cmd) (k : Nat),
    (partyStalls s p).find? (fun x => x.2 % 64 = slot.val && x.1.advisory.isNone) = some (c, k) →
    let t := postDeadlock s p c k
    exec (.bermDeadlock p slot) s = .next (settle t) ∧ t.cmds.map (·.id) = s.cmds.map (·.id) ∧ t.mem = s.mem ∧
      t.clk.ticks = max s.clk.ticks (deadlockAt s p c k)) ∧
  (∀ (s : State) (p : StallParty) (slot : Fin 64),
    (partyStalls s p).find? (fun x => x.2 % 64 = slot.val && x.1.advisory.isNone) = none →
    exec (.bermDeadlock p slot) s = .next s) ∧
  (∀ (s : State) (p : StallParty) (c : Cmd) (k : Nat) (x : Stall), stallOf s (partyKey p) c.id k = some x →
    deadlockAt s p c k = max x.since c.progress + 700000) ∧
  (∀ (s : State) (x : Nat × Cmd × Nat), x ∈ allStalls s → ∃ y ∈ (noteStalls s).stalls, y.party = x.1 ∧ y.cmd = x.2.1.id ∧
    y.slot = x.2.2 ∧ (stallOf s x.1 x.2.1.id x.2.2 = none → y.since = s.clk.ticks) ∧
    (∀ z, stallOf s x.1 x.2.1.id x.2.2 = some z → y.since = z.since))

/-- A command in flight is an array command's, as it is right after its dispatch: of a kind, over products and a core
mask, with no grant made and nothing finished. -/
def freshArray (t : State) (id : CmdId) (kind : ArrKind) (prods : List Prod) (mask : Nat) : Prop :=
  ∃ w : ArrayWork, (findCmd t id).map (·.work) = some (.array w) ∧ w.kind = kind ∧ w.prods = prods ∧ w.mask = mask ∧
    w.items = [] ∧ w.finished = [] ∧ w.returned = [] ∧ w.counter = 0 ∧ w.total = w.chains.length

/-- GEMM, GEMM_T and GEMM_LIST at their dispatch (R110, R114 to R123, R129): the products are cut, the chains are
formed over the cores that CORE_MASK names, memory stays, and the cores too but for what re-runs count; a named core out of
service ends the command instead. By the model's choice: log entry 16 (what follows at once). -/
def Obligations.ProductCommandsStart : Prop :=
  ∀ (s : State) (i : Fin 64) (c : Cmd),
    let d := dispatchCmd s c
    let p := fun (t : Bool) => let q := prodOf c.params (c.params.drop 16) 0; q.cut (accRows t q.shape) (accAvail d c.urgent)
    (∀ t : Bool, runs s i (opSel (if t then 0x0205 else 0x0200)) c = true → coresMissing s (c.par 10 2) = 0 →
      c.hdr.paramLen = 14 → ctlOk c.params t = true → fieldLe (c.params.drop 16) 92 4 = 0 → prodOk (p t) t = true →
      readsClean s c (maskRanges [p t]) = true →
      ∃ u, exec (if t then .gemmT i else .gemm i) s = .next (settle u) ∧
        freshArray u c.id (if t then .gemmT else .gemm) [p t] (c.par 10 2) ∧ u.mem = s.mem ∧
        (c.flaws = [] → u.cores = s.cores)) ∧
    (let a := c.par 16 8
     let n := c.par 24 2
     let ps := listProds d c
     runs s i (opSel 0x0201) c = true → coresMissing s (c.par 10 2) = 0 → c.hdr.paramLen = 4 →
      ctlOk c.params false = true → a % 64 = 0 → 1 ≤ n → n ≤ 4096 → c.par 26 6 = 0 → rangeRead a (96 * n) = true →
      readsClean s c ((List.range n).map (fun e => (e, a + 96 * e, 96))) = true →
      (listEntries s c).all (fun b => fieldLe b 92 4 = 0) = true →
      ps.all (fun p => prodRanges p = 0 || prodOk p false) = true →
      readsClean s c (maskRanges (ps.filter (fun p => prodRanges p != 0))) = true →
      ∃ u, exec (.gemmList i) s = .next (settle u) ∧ freshArray u c.id .gemm ps (c.par 10 2) ∧ u.mem = s.mem ∧
        (c.flaws = [] → u.cores = s.cores)) ∧
    (∀ t : Bool, runs s i (opSel (if t then 0x0205 else 0x0200)) c = true → coresMissing s (c.par 10 2) ≠ 0 →
      exec (if t then .gemmT i else .gemm i) s =
        .next (settle (finish d c.id .coreOffline (coresMissing s (c.par 10 2)))))

/-- CHAIN, VECTOR and ATTEND at their dispatch (R139 to R146, R164 to R175): the plan is made, the programs and tables
are read and checked, the chains are formed; memory stays. By the model's choice: log entry 16 (what follows at once). -/
def Obligations.ProgramCommandsStart : Prop :=
  ∀ (s : State) (i : Fin 64) (c : Cmd),
    let d := dispatchCmd s c
    let ranges := fun (w : ArrayWork) =>
      progRanges w ++ (if w.par.rowMaskEn then [(w.par.rowMask, ceilDiv w.par.m 8)] else [])
    (let w := chainWork d (beginCmd s c)
     runs s i (opSel 0x0202) c = true → coresMissing s w.mask = 0 → c.hdr.paramLen = 51 →
      chainOk c.params w.par w.prods = true →
      (w.par.spilled = true → w.par.spillAddr % 65536 = 0 ∧ w.par.spillStride % 65536 = 0 ∧
        spillEnd w 0 0 - w.par.spillAddr ≤ w.par.spillStride) →
      (ranges w).all (fun r => rangeRead r.1 r.2) = true →
      readsClean s c ((ranges w).map (fun r => (0, r))) = true →
      programsOk d (beginCmd s c) w (ceilDiv w.par.m (rowsOf w.par.shape)) = true →
      ∃ u, exec (.chain i) s = .next (settle u) ∧ freshArray u c.id .chain w.prods w.mask ∧ u.mem = s.mem ∧
        (c.flaws = [] → u.cores = s.cores)) ∧
    (let p := vectorPar c.params
     let w : ArrayWork := { kind := .vector, par := p, mask := c.par 72 2, maxChain := 1 }
     runs s i (opSel 0x0204) c = true → coresMissing s w.mask = 0 → c.hdr.paramLen = 21 → vectorOk c.params p = true →
      (p.inAddr ≠ p.outAddr ∨ sweeps (readOps s p.outProg p.outLen) = 1) →
      (ranges w).all (fun r => rangeRead r.1 r.2) = true →
      readsClean s c ((ranges w).map (fun r => (0, r))) = true →
      programsOk d (beginCmd s c) w (ceilDiv p.m 128) = true →
      ∃ u, exec (.vector i) s = .next (settle u) ∧ freshArray u c.id .vector [] w.mask ∧ u.mem = s.mem ∧
        (c.flaws = [] → u.cores = s.cores)) ∧
    (let a := attPar c.params
     let bs := seqBlocks s a
     let qs := bs.map seqOf
     runs s i (opSel 0x0203) c = true → coresMissing s (c.par 42 2) = 0 → c.hdr.paramLen = 8 → attOk c.params a = true →
      (a.rotHalf = 0 ∨ rangeRead a.rope (4 * a.rotHalf) = true) → rangeRead a.seqAddr (128 * a.seqs) = true →
      readsClean s c ((List.range a.seqs).map (fun n => (n, a.seqAddr + 128 * n, 128))) = true →
      readsClean s c ((if a.rotHalf = 0 then [] else [(0, a.rope, 4 * a.rotHalf)]) ++
        (qs.zipIdx).flatMap (fun q => (seqTables a q.1).map (fun r => (q.2, r)))) = true →
      (bs.zip qs).all (fun b => seqOk d a b.1 b.2) = true →
      ∃ u w, exec (.attend i) s = .next (settle u) ∧ (findCmd u c.id).map (·.work) = some (.array w) ∧ w.att = a ∧
        w.seqs = qs ∧ w.mask = c.par 42 2 ∧ w.items = [] ∧ u.mem = s.mem)

/-- Requests, loads, passes and ramps (R57, R66 to R68, R84 to R86, R125, R135, R136, R358): a chain that may not ask leaves
the state, and a grant gives its items to the chain's cores, which hold threads; a pass in progress is the first of its item,
with its tile active, and of its pair on the sister array; a tile that is full in its slots goes into the shadow registers,
and the active ones stay; a pass starts when it is the scoreboard's choice; row groups are enabled for a pass that is due,
and gated off when none is in progress and none is predicted. By the model's choice: log entries 1 (an event that cannot
arise), 16 (what follows at once). -/
def Obligations.WorkLoadsAndPassesStart : Prop :=
  ∀ (s : State) (core : Fin 16) (arr : Fin 2) (id : CmdId),
    let a := getArray s core.val arr.val
    (∀ j, requestItems s id j = none → exec (.workRequest id j) s = .next (settle s)) ∧
    (∀ j x, requestItems s id j = some x →
      (x.2.1.kind ≠ .chain ∨ ∀ y ∈ x.2.2.2.2, rangeWindow (proSpillAt x.2.1 y.core y.arr)
        (spillEnd x.2.1 y.core y.arr - proSpillAt x.2.1 y.core y.arr) = true) →
      ∃ t, exec (.workRequest id j) s = .next (settle t) ∧ requestWork s id j = .next t ∧
      ((grantReads s x.1 x.2.1 x.2.2.2.2).all (fun r => (badAt s r.1 r.2).isNone) = true → ∃ c' w',
        arrayWork t id = some (c', w') ∧ w'.grants = x.2.1.grants + 1 ∧
        w'.items.map (·.idx) = x.2.1.items.map (·.idx) ++ x.2.2.2.2.map (·.idx) ∧
        (∀ y ∈ x.2.2.2.2, ∃ z ∈ w'.items, z.idx = y.idx ∧ z.core = y.core ∧ z.arr = y.arr ∧ z.chain = j ∧ z.grant = x.2.1.grants) ∧
        (∀ y ∈ x.2.2.2.2, y.core ∈ x.2.2.1.members → holdsThread (getCore t y.core) id = true) ∧
        t.cmds.map (·.id) = s.cmds.map (·.id) ∧ (∀ a, isAcc a = false → readByte t a = readByte s a))) ∧
    (∀ j x, requestItems s id j = some x → arrayWork s id = some (x.1, x.2.1) ∧ x.2.1.chains[j]? = some x.2.2.1 ∧
      x.2.2.2.1 = nextGrant s x.2.1 j ∧ x.2.2.2.1 ≠ [] ∧ x.2.2.2.2.map (·.idx) = x.2.2.2.1) ∧
    (∀ c w x l, nextLoad s id core.val arr.val = some (c, w, x, l) →
      (tileStaged s w id x l = true → shadowOpen s core.val arr.val c = true →
        ∃ t, exec (.stationaryLoad core arr id) s = .next (settle t) ∧
          (getArray t core.val arr.val).shadow = loadRegs a.shadow { cmd := id, item := x.idx, load := l }
            (loadShape w l).1 (loadShape w l).2 (loadContents s w id x l) ∧
          (getArray t core.val arr.val).shadow.owner = some { cmd := id, item := x.idx, load := l } ∧
          (getArray t core.val arr.val).active = a.active ∧ (getArray t core.val arr.val).pass = a.pass ∧ t.mem = s.mem) ∧
      (tileStaged s w id x l = false ∨ shadowOpen s core.val arr.val c = false →
        exec (.stationaryLoad core arr id) s = .next (settle s))) ∧
    (nextLoad s id core.val arr.val = none → exec (.stationaryLoad core arr id) s = .next (settle s)) ∧
    (mayStart s core.val arr.val id = true →
      exec (.passStart core arr id) s = .next (settle (startPass s core.val arr.val id))) ∧
    (∀ c w x q, nextPass s id core.val arr.val = some (c, w, x, q) → let t := startPass s core.val arr.val id
      (getArray t core.val arr.val).pass = some { cmd := id, item := x.idx, spec := q, done := 0 } ∧
      (pairOf s id core.val arr.val x q = none → getArray t core.val (1 - arr.val) = getArray s core.val (1 - arr.val)) ∧
      (∀ y, pairOf s id core.val arr.val x q = some y →
        (getArray t core.val (1 - arr.val)).pass = some { cmd := id, item := y.idx, spec := q, done := 0 }) ∧
      (tileFor a.active id x.idx q.load = true → (getArray t core.val arr.val).active = a.active) ∧
      (tileFor a.active id x.idx q.load = false → (getArray t core.val arr.val).active = a.shadow) ∧
      t.cmds = s.cmds ∧ t.mem = s.mem ∧ ∀ k, k ≠ core.val → getCore t k = getCore s k) ∧
    (mayStart s core.val arr.val id = false → exec (.passStart core arr id) s = .next s) ∧
    (a.pass = none → ((holders s core.val arr.val).isEmpty = false ∨ a.preempted.isEmpty = false) →
      exec (.rampUp core arr) s = .next (putArray s core.val arr.val { a with ramped := true })) ∧
    (a.pass = none → passPredicted s core.val arr.val = false → exec (.rampDown core arr) s =
      .next (putArray s core.val arr.val { a with ramped := false })) ∧
    (a.pass = none → passPredicted s core.val arr.val = true → exec (.rampDown core arr) s = .next s) ∧
    (a.pass ≠ none → exec (.rampUp core arr) s = .next s ∧ exec (.rampDown core arr) s = .next s)

/-- The work of a command in flight. -/
def workOf (s : State) (id : CmdId) : Option Work := (findCmd s id).map (·.work)

/-- A cause or another end has been posted against a command in flight. -/
def ends (s : State) (id : CmdId) : Bool := ((findCmd s id).bind (·.ending)).isSome

/-- A value m * 2^e in units of 2^e0, for e0 at most e. -/
def unitsOf (e0 : Int) (d : Dyadic') : Int := d.m * 2 ^ (d.e - e0).toNat

/-- The sums of chapter 04: a group of a floating-point pairing is the exact sum of its products, rounded once, with NaN and
the infinities of R96 (R95); joins pair neighbours level by level (R58, R70, R97); an integer pass is the plain sum modulo
2^32 (R98); a first contribution is written unchanged and a later one added (R99). -/
def sumsFollowTheirOrder : Prop :=
  (∀ ps : List (Option (FVal × FVal)),
    ((∀ x w, some (x, w) ∈ ps → ∃ n m e, prodV x w = .fin n m e) → ∃ d : Dyadic', groupFp ps = rneDy d ∧
      ∀ e0, e0 ≤ d.e → (∀ x w, some (x, w) ∈ ps → e0 ≤ (prodV x w).dy.e) →
        unitsOf e0 d = (ps.map (fun p => match p with | some (x, w) => unitsOf e0 (prodV x w).dy | none => 0)).sum) ∧
    ((∃ x w, some (x, w) ∈ ps ∧ prodV x w = .nan) → groupFp ps = nan32) ∧
    ((∃ x w, some (x, w) ∈ ps ∧ prodV x w = .inf false) → (∃ x w, some (x, w) ∈ ps ∧ prodV x w = .inf true) →
      groupFp ps = nan32) ∧
    (∀ n, (∀ x w, some (x, w) ∈ ps → prodV x w ≠ .nan ∧ prodV x w ≠ .inf (!n)) →
      (∃ x w, some (x, w) ∈ ps ∧ prodV x w = .inf n) → groupFp ps = inf32 n)) ∧
  (∀ (op : W32 → W32 → W32) (k : Nat) (l r : List W32), k ≤ 9 → l.length = 2 ^ k → r.length = 2 ^ k →
    treeJoin op (l ++ r) = op (treeJoin op l) (treeJoin op r)) ∧
  (∀ (op : W32 → W32 → W32) (a : W32), treeJoin op [a] = a) ∧
  (∀ ps : List (Option (FVal × FVal)), groupSum false .half ps =
    treeJoin add32 (ps.map (fun p => match p with | some (x, w) => mulV x w | none => 0))) ∧
  (∀ (c : RegClass) (n : Nat) (at' : Nat → Option (FVal × FVal)), n ≤ 1024 → passT true c n at' =
    BitVec.ofInt 32 (((List.range n).flatMap (groupPositions c.isDouble)).map (fun k => match at' k with
      | some (x, w) => x.int * w.int
      | none => 0)).sum) ∧
  (∀ int t, accumulate int none t = t) ∧ (∀ int a t, accumulate int (some a) t = if int then a + t else add32 a t) ∧
  (∀ x y : W32, isNan32 x = true ∨ isNan32 y = true → add32 x y = nan32) ∧
  add32 (inf32 false) (inf32 true) = nan32 ∧ (∀ n, add32 (inf32 n) (inf32 n) = inf32 n)

/-- Formats and conversions (Tables 4.1 and 4.5, R102, R104): the largest values; NaN and infinities under OVF; an 8-bit or INT4
code whose value is finite converts back to itself. -/
def conversionsFollowTheirTable : Prop :=
  (∀ r ∈ [((0x1 : Nat), (0x7F7F : Nat), (0x7F7F0000 : W32)), (0x2, 0x7BFF, 0x477FE000), (0x3, 0x7E, 0x43E00000),
    (0x4, 0x7B, 0x47600000), (0x5, 0x7E, 0x43E00000), (0x6, 0x7B, 0x47600000), (0x7, 0x1F, 0x40F00000), (0x8, 0x1F, 0x41E00000),
    (0x9, 0x7, 0x40C00000), (0xA, 0x7F, 0x42FE0000), (0xB, 0x7, 0x40E00000)], elemF32 r.1 0x7F r.2.1 = r.2.2) ∧
  (∀ (x : W32) (v : Bool) (rnd : Option Nat), isNan32 x = true → let cb := fun f => f + (if v then 16 else 0)
    cvtTo (cb 0x0) rnd x = 0x7FC00000 ∧ cvtTo (cb 0x1) rnd x = 0x7FC0 ∧ cvtTo (cb 0x2) rnd x = 0x7E00 ∧
    cvtTo (cb 0x3) rnd x = 0x7F ∧ cvtTo (cb 0x4) rnd x = 0x7F ∧ cvtTo (cb 0xA) rnd x = 0 ∧ cvtTo (cb 0xB) rnd x = 0 ∧
    cvtTo (cb 0xC) rnd x = 0) ∧
  (∀ (n : Bool) (rnd : Option Nat),
    cvtTo 0x1 rnd (inf32 n) = bit01 n * 2 ^ 15 + 0x7F80 ∧ cvtTo 0x2 rnd (inf32 n) = bit01 n * 2 ^ 15 + 0x7C00 ∧
    cvtTo 0x3 rnd (inf32 n) = bit01 n * 2 ^ 7 + 0x7E ∧ cvtTo 0x13 rnd (inf32 n) = bit01 n * 2 ^ 7 + 0x7F ∧
    cvtTo 0x4 rnd (inf32 n) = bit01 n * 2 ^ 7 + 0x7B ∧ cvtTo 0x14 rnd (inf32 n) = bit01 n * 2 ^ 7 + 0x7C ∧
    cvtTo 0xA rnd (inf32 n) = (if n then 0x80 else 0x7F) ∧ cvtTo 0xB rnd (inf32 n) = (if n then 0x8 else 0x7)) ∧
  (∀ c, c < 256 → (c % 128 ≠ 0x7F → cvtTo 0x3 none (elemF32 0x3 0x7F c) = c) ∧
    (c % 128 < 0x7C → cvtTo 0x4 none (elemF32 0x4 0x7F c) = c) ∧ cvtTo 0xA none (elemF32 0xA 0x7F c) = c) ∧
  (∀ c, c < 16 → cvtTo 0xB none (elemF32 0xB 0x7F c) = c)

/-- Address `a` holds a byte of columns c0 to c0 + n of a row at `y`, or of their scale bytes in a row at `ys`; the last
block of an MX format is written whole. -/
def inRun (fmt y ys c0 n a : Nat) : Prop :=
  let m := if isMx fmt then 32 * ceilDiv n 32 else n
  (∃ k, c0 * fmtBits fmt / 8 ≤ k ∧ k < ceilDiv ((c0 + m) * fmtBits fmt) 8 ∧ canon a = canon (y + k)) ∨
    (isMx fmt = true ∧ ∃ k, k < ceilDiv n 32 ∧ canon a = canon (ys + c0 / 32 + k))

/-- A block that a commit adds to the accumulator (R95 to R99): each present row and column of the block, and no other entry. -/
def blockAdds (s : State) (w : ArrayWork) (x : Item) (q : Pass) (tile : Tile) : Prop :=
  let p := (blockOf w q).1
  let n0 := (blockOf w q).2.1
  let n := (blockOf w q).2.2
  let t := w.transposed
  let acc := (productResults s w x q tile).1
  p.shape ≠ 2 → n0 + n ≤ 2 ^ 24 →
  (∀ r ∈ passRows t p tile, ∀ i, i < n → tabFind? acc (rc r.1 (n0 + i)) = some (accumulate p.int
    (priorValue s t p x (tile.slice = 0) r.1 (n0 + i))
    (passT p.int p.cls (groupsOf t p.shape) (pairAt r.2 (columnOf s t p tile (n0 + i)))))) ∧
  (∀ key, (∀ r ∈ passRows t p tile, ∀ i, i < n → key ≠ rc r.1 (n0 + i)) → tabFind? acc key = tabFind? x.acc key)

/-- What a commit leaves of its pass and of everything else: the pass is over after its last column, or goes on behind the
block; other commands' work, event counters and the commands in flight stay (R62, R63). -/
def passMovesOn (s t : State) (core arr : Nat) (q : Pass) (n : Nat) (halt : Bool) : Prop :=
  (getArray t core arr).pass =
    (if q.done + n = q.spec.w then none else some { q with done := q.done + n, reruns := 0, halt := halt }) ∧
  t.events = s.events ∧ t.cmds.map (·.id) = s.cmds.map (·.id) ∧ (∀ id, id ≠ q.cmd → workOf t id = workOf s id)

/-- A commit of a product's pass: the accumulator takes the block; before the last K slice nothing else follows; a CHAIN's
finished columns join the epilogues of its core, the end of the product all that is left of it; GEMM writes only the bytes of
its item's rows, of columns not written before. -/
def productCommits (s : State) (core arr : Nat) (c : Cmd) (w : ArrayWork) (x : Item) (q : Pass) (tile : Tile) (halt : Bool) :
    Prop :=
  let t := commitProduct s core arr c w x q tile halt
  let b := blockOf w q
  let upto := b.2.1 + b.2.2
  let p := w.prods.getD (x.stage - 1) {}
  let epi := fun m : Nat =>
    ({ cmd := c.id, item := x.idx, kind := .product x.stage, sweep := 1, c0 := x.queued, w := m, arr := x.arr } : Epi)
  passMovesOn s t core arr q b.2.2 halt ∧
  (q.spec.last = false ∨ w.kind = .chain → t.mem = s.mem ∧ ∃ c2 w2 x2, getItem t q.cmd q.item = some (c2, w2, x2) ∧
    (if b.1.shape = 2 then x2.acc2 = (productResults s w x q tile).1 ∧ x2.acc = x.acc
      else x2.acc = (productResults s w x q tile).1 ∧ x2.acc2 = x.acc2)) ∧
  (q.spec.last = false ∨ w.kind ≠ .chain → ∀ k, (getCore t k).epiQ = (getCore s k).epiQ) ∧
  (q.spec.last = true → w.kind = .chain →
    ((getCore t x.core).epiQ = (getCore s x.core).epiQ ∨
      ∃ m, 0 < m ∧ (getCore t x.core).epiQ = (getCore (commitEpi s x.core (epi m)) x.core).epiQ) ∧
    (p.width ≤ outColumns p upto → x.queued < p.width →
      (getCore t x.core).epiQ = (getCore (commitEpi s x.core (epi (p.width - x.queued))) x.core).epiQ)) ∧
  (q.spec.last = true → w.kind ≠ .chain → ∀ a, isAcc a = false →
    (let y := w.prods.getD x.entry {}
     let f := if x.queued = 0 then x.n0 else x.queued
     ∀ r, r < accRows w.transposed y.shape → let g := outRow w.transposed y x.tile r
      ¬ inRun (y.yCvt % 16) (y.y + g * y.yLd) (y.ys + g * scaleRow y.n) f (max upto x.n0 - f) a) →
    readByte t a = readByte s a)

/-- A commit of an ATTEND pass: memory stays; the block of a finished pass joins the epilogues of its core, softmax after scores
and the combination after probabilities (R183 to R185). -/
def attendCommits (s : State) (core arr : Nat) (c : Cmd) (w : ArrayWork) (x : Item) (q : Pass) (tile : Tile) (halt : Bool) : Prop :=
  let t := commitAttend s core arr c w x q tile halt
  let b := attColumns w.att q
  let epi : Epi := { cmd := c.id, item := x.idx, kind := if q.spec.load.prob then .combine else .softmax, sweep := 1, c0 := b.1
                     w := b.2.2, arr := arr }
  passMovesOn s t core arr q b.2.2 halt ∧ t.mem = s.mem ∧
  (∃ c2 w2 x2, getItem t q.cmd q.item = some (c2, w2, x2) ∧
    (if q.spec.load.prob then x2.acc = (attResults s w x q tile).1 ∧ x2.acc2 = x.acc2
      else x2.acc2 = (attResults s w x q tile).1 ∧ x2.acc = x.acc)) ∧
  (q.done + b.2.2 ≠ q.spec.w → ∀ k, (getCore t k).epiQ = (getCore s k).epiQ) ∧
  (q.done + b.2.2 = q.spec.w → (getCore t core).epiQ = (getCore (commitEpi s core epi) core).epiQ ∧
    ∀ k, k ≠ core → (getCore t k).epiQ = (getCore s k).epiQ)

/-- A block's epilogue joins the end of its core's queue, and of two that commit in one tick that of TA0 goes first (R152). -/
def epilogueJoins (s : State) (core : Nat) (e : Epi) : Prop :=
  let t := commitEpi s core e
  (∃ a b, (getCore t core).epiQ = a ++ { e with tick := s.clk.ticks } :: b ∧ a ++ b = (getCore s core).epiQ ∧
    ∀ y ∈ b, y.arr = 1 ∧ y.tick = s.clk.ticks ∧ e.arr = 0) ∧
  (∀ k, k ≠ core → getCore t k = getCore s k) ∧ t.mem = s.mem ∧ t.cmds = s.cmds

/-- The row slots that a block's sweep reads hold statistics, and the sweep reduces none of them (R155). -/
def slotsThere (s : State) (c : Cmd) (w : ArrayWork) (x : Item) (ep : Epi) : Bool :=
  let ops := sweepOps (stageEnv s c w ep.kind.stageNo).ops ep.sweep
  (itemRows x).all (fun r => (slotsRead ops).all (fun k => (tabFind? x.stats (k * 128 + r)).isSome)) &&
    (slotsRead ops).all (fun k => ops.all (fun o => !(o.1.op = 0x30 && o.1.imm = k)))

/-- The vector unit's program on the block at the head (R150 to R155): one that lacks its berm slots waits; otherwise the
block leaves the queue, its columns count as done, and memory changes by the last sweep and by column reductions only, a
finish stage's only in the bytes of its rows and columns. A program that hands off to the culvert is not meant here. -/
def programRuns (s : State) (core : Nat) (c : Cmd) (w : ArrayWork) (x : Item) (e : Epi) : Prop :=
  let env := stageEnv s c w e.kind.stageNo
  let ops := sweepOps env.ops e.sweep
  let ins := (itemRows x).map (rowIn s w x env e.kind.stageNo e.c0 e.w)
  slotsThere s c w x e = true → epiBad s w x env ins e.w = none → ops.all (fun o => o.1.op != 0x41) = true →
  (claimArea s core c w x e.kind = none → runProgram s core c w x e = .next s) ∧
  (claimArea s core c w x e.kind ≠ none → ∃ t, runProgram s core c w x e = .next t ∧
    (∃ l, (getCore t core).epiQ = (getCore s core).epiQ.drop 1 ++ l) ∧
    (e.c0 + e.w ≠ env.width → (getCore t core).epiQ = (getCore s core).epiQ.drop 1 ∧
      ∃ c2 w2 x2, getItem t c.id x.idx = some (c2, w2, x2) ∧ x2.epiDone = x.epiDone + e.w ∧ x2.stats = x.stats ∧
        x2.acc = x.acc) ∧
    (e.sweep ≠ sweeps env.ops → ops.all (fun o => o.1.op != 0x31) = true → t.mem = s.mem) ∧
    (env.stage = 3 → ops.all (fun o => o.1.op != 0x31) = true → ∀ a, isAcc a = false →
      (∀ r ∈ ins, ¬ inRun (env.cvt % 16) (w.par.outAddr + r.token * w.par.outLd) (w.par.outScale + r.token * scaleRow env.width) r.c0
        ((runRow s env e.sweep r).regs.headD []).length a) → readByte t a = readByte s a))

/-- The vector unit on an ATTEND block (R183 to R187): the query conversion, softmax and the combination leave memory, and a
block whose data read well and whose P slots are open leaves the queue. -/
def attendRuns (s : State) (core : Nat) (c : Cmd) (w : ArrayWork) (x : Item) (e : Epi) : Prop :=
  let t := runAttend s core c w x e
  (e.kind = .query ∨ e.kind = .softmax ∨ e.kind = .combine → t.mem = s.mem ∧ t.cmds.map (·.id) = s.cmds.map (·.id)) ∧
  (attBad s w x e.kind ≠ none → t = s) ∧
  (attBad s w x e.kind = none → e.kind = .query ∨ e.kind = .combine →
    ∃ l, (getCore t core).epiQ = (getCore s core).epiQ.drop 1 ++ l) ∧
  (attBad s w x e.kind = none → e.kind = .softmax →
    let ks := if lastSweep w x then probSlots x (attArea x e.c0) else []
    (slotsOpen s core c.id ks = false → t = s) ∧
    (slotsOpen s core c.id ks = true → ∃ l, (getCore t core).epiQ = (getCore s core).epiQ.drop 1 ++ l))

/-- BLOCK_COMMIT and EPILOGUE_BLOCK (R62, R63, R95 to R104, R151, R152, R320, R335): the block in flight of a pass whose tile
is active takes the next open slot and commits: its sums are added to the accumulator, the pass moves on, and its epilogue
joins the end of its core's queue; it is held back by LEAD_LIMIT, by an error, or where the pass halts for a more urgent one;
the vector unit runs the first block of its core's queue that may run. By the model's choice: log entries 1 (an event that
cannot arise), 16 (what follows at once), 108 (where the blocks of prologue, finish and VECTOR sweeps stand), 114 (which
epilogue is running when a pass is pre-empted). -/
def Obligations.BlocksCommitAndEpiloguesRun : Prop :=
  sumsFollowTheirOrder ∧ conversionsFollowTheirTable ∧
  ∀ (s : State) (core : Fin 16) (arr : Fin 2),
    let d := takeSlot s core.val arr.val
    let u := headUp s core.val
    (∀ c w x q t, passHere s core.val arr.val = some (c, w, x, q, t) →
      let held := leadHeld s c = true ∨ blockBad s w x q t ≠ none ∨ blockHeld s core.val arr.val w x q (blockWidth w q) = true
      let halt := lastBlock s core.val arr.val q (blockWidth w q)
      (¬ held → exec (.blockCommit core arr) s = .next (settle
        (if w.kind = .attendB then commitAttend d core.val arr.val c w x q t halt
         else commitProduct d core.val arr.val c w x q t halt))) ∧
      (held → exec (.blockCommit core arr) s = .next (settle s)) ∧
      (∃ c', getItem d q.cmd q.item = some (c', w, x)) ∧ blockAdds s w x q t ∧
      (w.kind = .attendB → attendCommits d core.val arr.val c w x q t halt) ∧
      (w.kind ≠ .attendB → productCommits d core.val arr.val c w x q t halt)) ∧
    (passHere s core.val arr.val = none → exec (.blockCommit core arr) s = .next (settle s)) ∧
    (d.mem = s.mem ∧ d.events = s.events ∧ d.cmds.map (·.id) = s.cmds.map (·.id)) ∧
    (∀ e, epilogueJoins s core.val e) ∧
    (∀ c w x e, epiHere u core.val = some (c, w, x, e) →
      (w.kind = .attendA ∨ w.kind = .attendB →
        exec (.epilogueBlock core) s = .next (settle (runAttend u core.val c w x e)) ∧ attendRuns u core.val c w x e) ∧
      (w.kind ≠ .attendA → w.kind ≠ .attendB → slotsThere u c w x e = true →
        ∃ t, exec (.epilogueBlock core) s = .next (settle t) ∧ runProgram u core.val c w x e = .next t) ∧
      (w.kind ≠ .attendA → w.kind ≠ .attendB → programRuns u core.val c w x e)) ∧
    (epiHere u core.val = none → exec (.epilogueBlock core) s = .next (settle u)) ∧
    (u.mem = s.mem ∧ u.cmds = s.cmds ∧ u.events = s.events) ∧
    (∀ i, (getCore s core.val).epiQ.findIdx? (fun e => !epiWaits (getCore s core.val) e) = some i →
      (getCore u core.val).epiQ = ((getCore s core.val).epiQ.drop i).take 1 ++ (getCore s core.val).epiQ.eraseIdx i)

/-- PREEMPT and PREEMPT_RESUME (R68, R356 to R359): a lower pass gives way to a priority-0 tile that the shadow holds
whole: it is kept, the tiles are swapped, and the pass counts as pre-empted; passes that share one stream stop and resume
together; when no priority-0 pass is eligible and its tile is there again a pass goes on at its first uncommitted block. By
the model's choice: log entries 1 (an event that cannot arise), 16 (what follows at once). -/
def Obligations.PreemptionKeepsAndResumesPasses : Prop :=
  ∀ (s : State) (core : Fin 16) (arr : Fin 2),
    let a := getArray s core.val arr.val
    let o := 1 - arr.val
    (∀ q c, lowerPass s core.val arr.val = some q → urgentShadow s core.val arr.val = some c →
      ((∀ r, lowerPass s core.val o = some r → sharesStream s q r = false) →
        ∃ t, exec (.preempt core arr) s = .next (settle t) ∧ (getArray t core.val arr.val).pass = none ∧
          (getArray t core.val arr.val).preempted = a.preempted ++ [q] ∧
          (getArray t core.val arr.val).active = a.shadow ∧ (getArray t core.val arr.val).shadow = a.active ∧
          t.err.preempts = s.err.preempts + 1 ∧ t.mem = s.mem) ∧
      (∀ r, lowerPass s core.val o = some r → sharesStream s q r = true →
        (urgentShadow s core.val o = some c → exec (.preempt core arr) s =
          .next (settle (stopPass (stopPass s core.val arr.val) core.val o))) ∧
        ((nextPass s c.id core.val o).isSome → urgentShadow s core.val o = none →
          exec (.preempt core arr) s = .next (settle s)))) ∧
    (lowerPass s core.val arr.val = none ∨ urgentShadow s core.val arr.val = none →
      exec (.preempt core arr) s = .next (settle s)) ∧
    (∀ q l, a.preempted = q :: l → canResume s core.val arr.val q = true →
      ((∀ r k, (getArray s core.val o).preempted = r :: k → sharesStream s q r = false) →
        ∃ t, exec (.preemptResume core arr) s = .next (settle t) ∧
          ((getArray t core.val arr.val).pass.map (fun p => (p.cmd, p.item, p.done))) = some (q.cmd, q.item, q.done) ∧
          (getArray t core.val arr.val).preempted = l ∧ t.mem = s.mem) ∧
      (∀ r k, (getArray s core.val o).preempted = r :: k → sharesStream s q r = true →
        (canResume s core.val o r = true → exec (.preemptResume core arr) s =
          .next (settle (putBack (putBack s core.val arr.val q) core.val o r))) ∧
        (canResume s core.val o r = false → exec (.preemptResume core arr) s = .next (settle s)))) ∧
    (∀ q l, a.preempted = q :: l → canResume s core.val arr.val q = false →
      exec (.preemptResume core arr) s = .next (settle s)) ∧
    (a.preempted = [] → exec (.preemptResume core arr) s = .next (settle s))

/-- READ_ERROR (R222, R223, R313) always completes; a single-bit error of LPDDR5X is corrected and counted; at a sluice's
segment an error in stored data, or the fourth of the segment, exhausts the re-runs of its command, and an earlier transient
one is a re-run of it and of those in flight behind it, a timing event; one that the reads of a dispatch are to meet waits
for them, and they go on after their re-runs unless an error lasts. By the model's choice: log entry 16 (what follows at
once), 53 (which re-runs are timing events), 81 (a corrected error's row), 134 (errors that wait for a dispatch's reads), 149
(the segment's index). -/
def Obligations.ReadErrorsRerunThenExhaust : Prop :=
  ∀ (s : State) (site : ErrSite) (addr : BitVec 40) (flaw : ReadFlaw),
    let a := addr.toNat
    (∃ t, exec (.readError site addr flaw) s = .next t) ∧
    (exec (.readError site addr .corrected) s = .next (countCorrected s a) ∧ (countCorrected s a).mem = s.mem ∧
      (countCorrected s a).cmds = s.cmds ∧ (countCorrected s a).err = s.err ∧
      (isDdr a = true → let ch := (a - ddrBase) / 256 % 64
        (getDdr (countCorrected s a) ch).corrected.toNat = min (2 ^ 32 - 1) ((getDdr s ch).corrected.toNat + 1))) ∧
    (∀ (n : Fin 160) (k : Fin 4) (c : SlChain), (getSluice s n.val).active = some c →
      let core := if n.val < 128 then n.val / 8 else 16
      let tile := segTile s n.val c k.val
      (c.pos + 4096 * k.val < c.hi → rangeBad s a 1 = false → c.reruns.getD k.val 0 < 3 →
        let u := noteRerun (timedReruns s core 1) c.cmd tile a
        exec (.readError (.segment n k) addr .transient) s = .next (settle
          (putSluice u n.val { getSluice u n.val with active := some (rerunFrom c k.val) }))) ∧
      (c.pos + 4096 * k.val < c.hi → rangeBad s a 1 = false → 3 ≤ c.reruns.getD k.val 0 →
        exec (.readError (.segment n k) addr .transient) s = .next (settle (exhaust s c.cmd tile a))) ∧
      (c.pos + 4096 * k.val < c.hi → exec (.readError (.segment n k) addr .stored) s =
        .next (settle (exhaustAll (timedReruns (markBad s a) core 3) c.cmd tile a))) ∧
      (c.hi ≤ c.pos + 4096 * k.val → exec (.readError (.segment n k) addr .transient) s = .next (settle s)) ∧
      (∀ j, j < 4 → (rerunFrom c k.val).reruns.getD j 0 =
        c.reruns.getD j 0 + (if k.val ≤ j ∧ c.pos + 4096 * j < c.hi then 1 else 0))) ∧
    (∀ (id : CmdId) (tile : Nat) (c : Cmd), findCmd s id = some c → c.ending = none →
      (∃ k e, findCmd (exhaust s id tile a) id = some k ∧ k.ending = some e ∧ e.status = .rerunExhausted ∧ e.tile = tile)) ∧
    (∀ (id : CmdId) (core : Fin 16) (e : BitVec 12) (c : Cmd), findCmd s id = some c →
      isHeld c = true → rangeBad s a 1 = false → exec (.readError (.other id core e) addr .transient) s =
        .next (settle (modCmd s id (fun c => { c with flaws := c.flaws ++ [a] })))) ∧
    (rangeBad s a 1 = false → exec (.readError .merge addr .transient) s = .next (settle { s with
      mem := { s.mem with mergeFlaws := s.mem.mergeFlaws ++ [badKey (a / granuleBytes a * granuleBytes a)] } }) ∧
      exec (.readError .aperture addr .transient) s = .next (settle { s with
        ap := { s.ap with flaws := s.ap.flaws ++ [badKey (a / granuleBytes a * granuleBytes a)] } })) ∧
    (∀ (c : Cmd) (l : List (Nat × Nat × Nat)) (k : State → Out),
      (readsClean s c l = true → readsWell s c l k = k (afterReads s c l) ∧ (afterReads s c l).mem = s.mem) ∧
      (∀ r, l.findSome? (fun r => (badAt s r.2.1 r.2.2).map (fun a => (r.1, a))) = some r →
        readsWell s c l k = .next (exhaustAll s c.id (otherTile 0 r.1) r.2)))

/-- FLIT_RX (R273, R274, R276): 256 bytes with a bad CRC are counted, discarded and answered with a NAK; a flit in
sequence is accepted and will be acknowledged; one out of sequence is discarded and answered with a NAK, once for a run of
them, and changes no sequence; intact head and body flits count. By the model's choice: log entries 1 (an event that cannot
arise), 16 (what follows at once), 122 (one NAK for a run). -/
def Obligations.FlitsAreAcceptedInOrder : Prop :=
  ∀ (s : State) (p : Fin 12) (b : List Byte) (fec : Fec),
    let n := noteFec s p.val fec
    let x := getPort s p.val
    (thlUp s p.val = false → exec (.flitRx p ⟨b, fec⟩) s = .next s) ∧
    (b.length ≠ 256 ∨ (crc32 (b.take 252)).toNat ≠ fieldLe b 252 4 → flitOf b = none) ∧
    (thlUp s p.val = true → flitOf b = none → ∃ t, exec (.flitRx p ⟨b, fec⟩) s = .next (settle t) ∧
      (getPort t p.val).crcErrors = x.crcErrors + 1 ∧ (getPort t p.val).nak = true ∧
      (getPort t p.val).discarding = true ∧ (getPort t p.val).rxSeq = x.rxSeq ∧ (getPort t p.val).flitsRx = x.flitsRx ∧
      t.mem = s.mem ∧ t.cmds = s.cmds) ∧
    (∀ f, thlUp s p.val = true → flitOf b = some f →
      let a := takeCredits (ackFlits n p.val f.ack) p.val f
      let r := if f.nak then replayPort a p.val else a
      let t := if f.kind = .idle || !portUp r p.val then r else acceptFlit r p.val f
      let u := if f.kind = .head && f.vc != 0 then wakeTrigger t else t
      let y := getPort t p.val
      exec (.flitRx p ⟨b, fec⟩) s = .next (settle (transmit u p.val)) ∧
      (f.nak = false → f.kind ≠ .idle → f.seq = x.rxSeq → y.rxSeq = x.rxSeq + 1 ∧ y.nak = false ∧ y.discarding = false ∧
        y.ackDue = true ∧ y.flitsRx = x.flitsRx + 1) ∧
      (f.nak = false → f.kind ≠ .idle → f.seq ≠ x.rxSeq → y.rxSeq = x.rxSeq ∧ y.discarding = true ∧
        (x.discarding = false → y.nak = true) ∧ y.flitsRx = x.flitsRx + 1) ∧
      (f.nak = false → t.mem = s.mem ∧ t.cmds = s.cmds))

/-- REPLAY_TIMEOUT, BREACH, LINK_DOWN, TRAINING_RETRY, LINK_UP and LANE_WIDEN (R272, R276, R277, R303, R304, R348): each acts
at its deadline on a port in the state that it needs, and leaves any other port; a Thondlink port that is up agrees
keep-alive where the module at the other end enters LOW_POWER. By the model's choice: log entries 1 (an event that cannot
arise), 3 (the clock), 16 (what follows at once), 120 (the row of the partner's entry), 66 (sequence numbers begin again at
LINK_UP), 68 (from which states a link comes up). -/
def Obligations.PortEventsMoveTheLink : Prop :=
  ∀ (s : State) (p : Fin 12),
    let x := getPort s p.val
    (thlUp s p.val = true → 0 < x.outstanding →
      exec (.replayTimeout p) s = .next (settle (replayPort (advanceTo s (x.advanced + us 2)) p.val))) ∧
    (x.outstanding = 0 → exec (.replayTimeout p) s = .next s ∧ exec (.breach p) s = .next s) ∧
    (thlUp s p.val = true → 0 < x.outstanding → 0 < x.tries → x.tries < 8 →
      exec (.breach p) s = .next (settle (breachPort (advanceTo s (x.firstTry + us 20)) p.val))) ∧
    (thlUp s p.val = true → 0 < x.outstanding → 8 ≤ x.tries → exec (.breach p) s =
      .next (settle (breachPort (advanceTo s (min (x.firstTry + us 20) (x.advanced + us 2))) p.val))) ∧
    (∀ fec, x.link ≠ .down → exec (.linkDown ⟨p, fec⟩) s = .next (settle (downPort (noteFec s p.val fec) p.val))) ∧
    (∀ fec, x.link = .down → exec (.linkDown ⟨p, fec⟩) s = .next s) ∧
    (∀ t, breachLeaves t p.val ∧ downLeaves t p.val ∧ replayLeaves t p.val) ∧
    (trains s p.val = true → let u := advanceTo s (x.trainedAt + us 50000)
      exec (.trainingRetry p) s =
        .next (settle (putPort u p.val { x with link := .training, trainedAt := u.clk.ticks }))) ∧
    (∀ chip port eye, trains s p.val = true →
      let eth := isEth s p.val
      exec (.linkUp p chip ⟨port, eye⟩) s = .next (settle (transmit (putPort
        { s with tele := { s.tele with eyeMv := tabSet s.tele.eyeMv p.val eye.toNat } } p.val { x with
          link := .up, linkUp := true, linkUpCount := x.linkUpCount + 1
          partnerChip := if eth then x.partnerChip else chip, partnerPort := if eth then x.partnerPort else port
          credits := [], txSeq := 0, txBase := 0, rxSeq := 0, tries := 0, nak := false, ackDue := false, owed := []
          discarding := false, rxBuf := [], widen := false }) p.val))) ∧
    (trains s p.val = false → exec (.trainingRetry p) s = .next s ∧
      ∀ chip port eye, exec (.linkUp p chip ⟨port, eye⟩) s = .next s) ∧
    (x.link = .keepAlive → x.widen = true ∨ s.dev.state ≠ .lowPower →
      exec (.laneWiden ⟨p, false⟩) s = .next (putPort s p.val { x with link := .up, widen := false })) ∧
    (x.link ≠ .keepAlive ∨ (x.widen = false ∧ s.dev.state = .lowPower) → exec (.laneWiden ⟨p, false⟩) s = .next s) ∧
    (x.link = .up → isEth s p.val = false → exec (.laneWiden ⟨p, true⟩) s =
      .next (putPort s p.val { x with link := .keepAlive, widen := false })) ∧
    (x.link ≠ .up ∨ isEth s p.val = true → exec (.laneWiden ⟨p, true⟩) s = .next s)

/-- The rows of arriving packets, by their kind (Table 11.3; that ARRIVE and RELEASE are kinds 0x20 and 0x21 of the range
that it reserves is log entry 20's choice). -/
def receiveRows : List ((Fin 12 → Packet → Instr) × Nat) :=
  [(.writeReceive, 0x01), (.writeSignalReceive, 0x02), (.mcastWriteReceive, 0x03), (.reduceDataReceive, 0x04),
   (.ackReceive, 0x10), (.refuseReceive, 0x11), (.breachNoticeReceive, 0x12), (.flowResetReceive, 0x13),
   (.rtsReceive, 0x14), (.ctsReceive, 0x15), (.collCreditReceive, 0x16), (.collAbortReceive, 0x17),
   (.arriveReceive, 0x20), (.releaseReceive, 0x21)]

/-- Each kind of control packet reaches what serves it, after its room in the receive buffer is owed back (R274, Table 11.3). -/
def packetServed (s : State) (k : Packet) : Prop := ∀ g, let u := freePacket s g k
  (k.kind = 0x10 → receive s k g = recvAck u k) ∧ (k.kind = 0x11 → receive s k g = recvRefuse u k) ∧
  (k.kind = 0x12 → receive s k g = recvNotice u k) ∧ (k.kind = 0x13 → receive s k g = recvFlowReset u k) ∧
  (k.kind = 0x14 → receive s k g = recvRts u k) ∧ (k.kind = 0x15 → receive s k g = recvCts u k) ∧
  (k.kind = 0x16 → receive s k g = recvCredit u k) ∧ (k.kind = 0x17 → receive s k g = recvCollAbort u k) ∧
  (k.kind = 0x20 → receive s k g = recvArrive u k) ∧ (k.kind = 0x21 → receive s k g = recvRelease u k) ∧
  (k.kind.toNat ∈ [1, 2, 3, 4] → receive s k g = recvData s k g) ∧ u.cmds = s.cmds ∧ u.mem = s.mem ∧ u.net = s.net

/-- ACK (R280, R300): the writes of the flow up to FLOW_SEQ are acknowledged, which is progress of their commands; a member's
acknowledgement of a block is noted in the SEND or ALLGATHER that sent it. -/
def ackServes (s : State) (k : Packet) : Prop :=
  let t := recvAck s k
  let key := flowKey k.src.toNat (k.aux.toNat % 8)
  let id := k.context.toNat % 2 ^ 32
  (k.aux ≠ 0xFFFF → (getFlowTx t key).unacked = (getFlowTx s key).unacked.filter (fun u => k.flowSeq.toNat < u.1) ∧
    (∀ u ∈ (getFlowTx s key).unacked, u.1 ≤ k.flowSeq.toNat → ∀ j c, u.2.1 = .cmd j → findCmd s j = some c →
      (findCmd t j).map (·.progress) = some s.clk.ticks)) ∧
  (∀ w, k.aux = 0xFFFF → workOf s id = some (.send w) →
    workOf t id = some (.send { w with waiting := w.waiting.filter (· != k.aux2.toNat) })) ∧
  (∀ w, k.aux = 0xFFFF → workOf s id = some (.coll w) →
    workOf t id = some (.coll { w with ackedBy := w.ackedBy ++ [k.aux2.toNat] }))

/-- REFUSE (R288, R295): a matched SEND whose RTS was refused sends it again later; another command ends, or the page's
destination fails. -/
def refuseServes (s : State) (k : Packet) : Prop :=
  let t := recvRefuse s k
  (∀ id w, refOf k.context = .cmd id → workOf s id = some (.send w) → w.mode = 1 → w.issued = false →
    workOf t id = some (.send { w with rtsSent := false, rtsRefused := some s.clk.ticks })) ∧
  (∀ id c, refOf k.context = .cmd id → findCmd s id = some c → (∀ w, c.work = .send w → w.mode ≠ 1 ∨ w.issued = true) →
    ends t id = true) ∧
  (∀ ch b d, refOf k.context = .page ch b d → t = failBind s ch b d .window) ∧ t.mem = s.mem

/-- BREACH_NOTICE (R281): the command that the notice names ends; one that no command in flight owns has its record; a lost
write leaves the flow. -/
def noticeServes (s : State) (k : Packet) : Prop :=
  let t := recvNotice s k
  (∀ c, k.rowBytes ≠ 0x03 → noticeCmd s k = some c → findCmd s c.id = some c → ends t c.id = true) ∧
  (k.rowBytes ≠ 0x03 → noticeCmd s k = none → s.err.seq < t.err.seq) ∧
  (k.gen.toNat < 5 → isFlowKind (k.rowBytes.truncate 8) = true →
    ∀ u ∈ (getFlowTx t (flowKey k.window.toNat k.gen.toNat)).unacked, u.1 ≠ k.aux2.toNat) ∧ t.mem = s.mem

/-- FLOW_RESET (R279 to R281): the lost write counts as refused, so that those behind it are applied and acknowledged;
signals of writes that the sender had sent behind it by then are dropped; one that arrived after all changes nothing. -/
def flowResetServes (s : State) (k : Packet) : Prop :=
  let t := recvFlowReset s k
  let key := flowKey k.src.toNat (k.aux.toNat % 8)
  let f := getFlowRx s key
  let g := getFlowRx t key
  let q := k.aux2.toNat
  (q < f.done ∨ f.landed.contains q = true → t = s) ∧
  (f.done ≤ q → f.landed.contains q = false → (q < g.done ∨ g.landed.contains q = true) ∧ f.done ≤ g.done ∧
    (∀ x ∈ g.signals, x ∈ f.signals ∧ ¬(q < x.1 ∧ x.1 < k.flowSeq.toNat))) ∧ t.mem = s.mem

/-- The RTS that a packet carries (R295). -/
def rtsOf (k : Packet) : Rts :=
  { src := k.src.toNat, group := k.group.toNat, rank := k.aux.toNat, tag := k.aux2.toNat, total := k.offset.toNat
    context := k.context.toNat, rowBytes := fieldLe k.payload 0 4, rows := fieldLe k.payload 4 4, stride := k.stride.toNat }

/-- RTS and CTS (R295, R296): a waiting RECV matches and answers; without one the RTS is held, or refused when 1,024 are; a CTS
lets the SEND begin its writes, of the rows that the capacity holds. -/
def matchServes (s : State) (k : Packet) : Prop :=
  let t := recvRts s k
  let u := recvCts s k
  let id := fieldLe k.payload 8 8
  (∀ c w, recvFor s (rtsOf k) = some c → findCmd s c.id = some c → c.work = .recv w → workOf t c.id = some (.recv { w with
    matched := true, src := k.src.toNat, context := k.context.toNat, total := k.offset.toNat
    expect := (rtsOf k).expect w.capacity })) ∧
  (recvFor s (rtsOf k) = none → s.net.rts.length < 1024 → t.net.rts = s.net.rts ++ [rtsOf k] ∧ t.cmds = s.cmds) ∧
  (recvFor s (rtsOf k) = none → 1024 ≤ s.net.rts.length →
    t = routeCtl s { ctlPacket s 0x11 k.src with context := k.context, group := k.group }) ∧
  (∀ w, workOf s id = some (.send w) → w.mode = 1 → w.issued = false → workOf u id = some (.send { w with
    issued := true, rtsSent := true, bytes := fitRows w.rowBytes w.rows w.dstStride (fieldLe k.payload 0 8) * w.rowBytes })) ∧
  ((∀ w, workOf s id = some (.send w) → w.mode ≠ 1 ∨ w.issued = true) → u = s) ∧ t.mem = s.mem ∧ u.mem = s.mem

/-- COLL_CREDIT and COLL_ABORT (R297 to R299): credits add up, early ones are kept, and each lets one chunk go up; an abort ends
the command of its number, or is kept for one that is near. -/
def collServes (s : State) (k : Packet) : Prop :=
  let t := recvCredit s k
  let u := recvCollAbort s k
  let g := k.group.toNat
  let key := earlyKey 1 g (auxSeq k.aux2) 0
  (collCmd s g (auxSeq k.aux2) = none → tabGet t.net.early 0 key = tabGet s.net.early 0 key + k.offset.toNat ∧
    t.cmds = s.cmds) ∧
  (∀ c w, collCmd s g (auxSeq k.aux2) = some (c, w) → findCmd s c.id = some c → w.rank ≠ 0 → ∃ w',
    workOf t c.id = some (.coll w') ∧ w.sentUp ≤ w'.sentUp ∧
    w'.credits + (w'.sentUp - w.sentUp) = w.credits + k.offset.toNat ∧
    (w.sentUp < w.chunks → ownLevels w.n w.rank ≤ tabGet w.level 0 w.sentUp → 0 < w.credits + k.offset.toNat →
      w.sentUp < w'.sentUp)) ∧
  (∀ c ∈ s.cmds, ∀ q b, opOf c = some (g, q, b) → q % 2 ^ 32 = k.aux2.toNat →
    ∃ d ∈ s.cmds, ∃ q' b', opOf d = some (g, q', b') ∧ q' % 2 ^ 32 = k.aux2.toNat ∧ ends u d.id = true) ∧
  ((∀ c ∈ s.cmds, ∀ q b, opOf c = some (g, q, b) → q % 2 ^ 32 ≠ k.aux2.toNat) →
    ((k.aux2 - BitVec.ofNat 32 (tabGet s.net.collSeq 0 g)).toNat < 2048 →
      tabGet u.net.early 0 (earlyKey 3 g k.aux2.toNat 0) = k.src.toNat + 1 ∧ u.cmds = s.cmds) ∧
    (2048 ≤ (k.aux2 - BitVec.ofNat 32 (tabGet s.net.collSeq 0 g)).toNat → u = s)) ∧ u.mem = s.mem

/-- ARRIVE and RELEASE (R318): an arrival is kept for the barrier; once all below have arrived, rank 0 fixes R at its count plus
DIKE_MARGIN, and any other rank tells its parent; a release sets R, or is late when its count is past. -/
def barrierServes (s : State) (k : Packet) : Prop :=
  let t := recvArrive s k
  let u := recvRelease s k
  let g := k.group.toNat
  let key := earlyKey 0 g (auxSeq k.aux2) k.aux.toNat
  (dikeCmd s g (auxSeq k.aux2) = none → tabGet t.net.early 0 key = tabGet s.net.early 0 key + 1 ∧ t.cmds = s.cmds ∧ u = s) ∧
  (∀ c w, dikeCmd s g (auxSeq k.aux2) = some (c, w) → findCmd s c.id = some c →
    let w1 := { w with arrived := w.arrived ++ [k.aux.toNat] }
    let all := (joinLevels w.n w.rank).all (fun L => w1.arrived.contains L)
    (w.sentUp = true ∨ all = false → workOf t c.id = some (.dike w1)) ∧
    (w.sentUp = false → all = true → workOf t c.id = some (.dike { w1 with
      sentUp := true
      release := if w.rank = 0 then some (s.tide.count + BitVec.ofNat 64 s.tide.dikeMargin.toNat).toNat else w.release })) ∧
    (s.tide.count.toNat ≤ masterAt s k.offset.toNat →
      workOf u c.id = some (.dike { w with release := some k.offset.toNat })) ∧
    (masterAt s k.offset.toNat < s.tide.count.toNat → workOf u c.id = some (.done k.offset.toNat) ∧
      (s.lock.repeatable = true → u.tide.lateRelease = s.tide.lateRelease + 1))) ∧ t.mem = s.mem ∧ u.mem = s.mem

/-- MCAST writes and REDUCE_DATA (R298 to R300): the rows land as a write's; the bytes of a block count for its ALLGATHER; a
result that comes down the tree is written at the own destination and its chunk counts as written. -/
def blockServes (s : State) (k : Packet) (base : Nat) : Prop :=
  let n := k.rowBytes.toNat
  let t := landMcast s base k none
  let u := landReduce s base k
  let at' := fun i j => base + k.offset.toNat + i * k.stride.toNat + j
  let rows := fun v : State => (∀ i j, i < k.rows.toNat → j < n →
      (∀ i' j', i < i' → i' < k.rows.toNat → j' < n → canon (at' i' j') ≠ canon (at' i j)) →
      readByte v (at' i j) = k.payload.getD (i * n + j) 0) ∧
    (∀ b, (∀ i j, i < k.rows.toNat → j < n → canon b ≠ canon (at' i j)) → readByte v b = readByte s b)
  ((∀ i, i < k.rows.toNat → rangeWindow (base + k.offset.toNat + i * k.stride.toNat) n = true) →
    k.payload.length = k.rows.toNat * n → rows t ∧ (collCmd s k.group.toNat (auxSeq k.aux2) = none → rows u)) ∧
  (∀ c w, collCmd s k.group.toNat (auxSeq k.aux2) = some (c, w) → findCmd s c.id = some c →
    (w.gather = true → workOf t c.id = some (.coll { w with
      got := tabModify w.got 0 k.aux.toNat (fun v => v + n * k.rows.toNat) })) ∧
    (0x100 ≤ k.aux.toNat → workOf u c.id = some (.coll { w with written := w.written ++ [auxChunk k.aux2] }) ∧
      (let a := ownBase s w.group + w.dstOffset + fmtBytes (w.outCvt % 16) (1024 * auxChunk k.aux2)
       rangeWindow a k.payload.length = true → ∀ j, j < k.payload.length → readByte u (a + j) = k.payload.getD j 0)))

/-- Every packet row (R282, R303): a packet of the row's kind for this chip on a Thondlink port that is up is taken and served,
and wakes the module on VC 1 to 4; any other is left; PACKET_FORWARD sends a packet for another chip on. By the
model's choice: log entries 1 (an event that cannot arise), 16 (what follows at once), 20 (kinds 0x20 and 0x21, contexts and
the fields of control packets), 21 (FLOW_RESET names one lost write). -/
def Obligations.PacketsAreTakenOrForwarded : Prop :=
  (∀ r ∈ receiveRows, ∀ (s : State) (p : Fin 12) (k : Packet),
    (thlUp s p.val = true → k.dst = s.rcd.chipId → k.kind.toNat = r.2 → exec (r.1 p k) s =
      .next (settle (receive (if k.vc.val = 0 then s else wakeTrigger s) k
        (some { bundle := bundleOf s p.val, port := p.val })))) ∧
    (thlUp s p.val = false ∨ k.dst ≠ s.rcd.chipId ∨ k.kind.toNat ≠ r.2 → exec (r.1 p k) s = .next s)) ∧
  (∀ (s : State) (p : Fin 12) (k : Packet),
    (thlUp s p.val = true → k.dst ≠ s.rcd.chipId → exec (.packetForward p k) s = .next (settle
      (routePacket (if k.vc.val = 0 then s else wakeTrigger s) k .none
        (some { bundle := bundleOf s p.val, port := p.val, key := some (2 * k.vc.val + bit01 k.cls) })))) ∧
    (thlUp s p.val = false ∨ k.dst = s.rcd.chipId → exec (.packetForward p k) s = .next s)) ∧
  (∀ (s : State) (k : Packet), packetServed s k ∧ ackServes s k ∧ refuseServes s k ∧ noticeServes s k ∧ flowResetServes s k ∧
    matchServes s k ∧ collServes s k ∧ barrierServes s k ∧ ∀ base, blockServes s k base)

/-- A WRITE (R215, R278, R289, R290): row i of an accepted write lands at OFFSET + i STRIDE of its window, a later row over an
earlier one, and every other byte reads as before; an accepted write that the REMOTE class has no room for waits in the
receive buffer; a write that the window refuses writes nothing, is counted, and sets WINDOW_REFUSED. By the model's choice:
log entry 121 (the order of what waits), 65 (the order of the checks). -/
def Obligations.WritesLandInTheirWindow : Prop :=
  ∀ (s : State) (k : Packet) (g : Option Ingress),
    let x := getWindow s k.window.toNat
    let n := k.rowBytes.toNat
    let t := recvData s k g
    let at' := fun i j => x.base + k.offset.toNat + i * k.stride.toNat + j
    (winRefuses x k.gen .thl (packetEnd k) = none → k.kind = 0x01 ∨ k.kind = 0x02 →
      (remoteWaits s (rowAccesses x.base k) = true →
        t = { s with net := { s.net with inbound := s.net.inbound ++ [.write g x.base k] } }) ∧
      (remoteWaits s (rowAccesses x.base k) = false → rangeWindow x.base x.bytes = true →
        k.payload.length = k.rows.toNat * n →
        (∀ i j, i < k.rows.toNat → j < n →
          (∀ i' j', i < i' → i' < k.rows.toNat → j' < n → canon (at' i' j') ≠ canon (at' i j)) →
          readByte t (at' i j) = k.payload.getD (i * n + j) 0) ∧
        (∀ b, (∀ i j, i < k.rows.toNat → j < n → canon b ≠ canon (at' i j)) → readByte t b = readByte s b))) ∧
    (∀ r, winRefuses x k.gen .thl (packetEnd k) = some r →
      t.mem = s.mem ∧ t.net.windowRefused = true ∧ (getWindow t k.window.toNat).refused = x.refused + 1) ∧
    (x.st = .draining → winRefuses x k.gen .thl (packetEnd k) = some 1) ∧
    (x.st = .closed → winRefuses x k.gen .thl (packetEnd k) = some 2) ∧
    (x.st = .open → x.gen ≠ k.gen → winRefuses x k.gen .thl (packetEnd k) = some 3) ∧
    (x.st = .open → x.gen = k.gen → x.thl = true → x.bytes < packetEnd k →
      winRefuses x k.gen .thl (packetEnd k) = some 4) ∧
    (x.st = .open → x.gen = k.gen → x.thl = false → winRefuses x k.gen .thl (packetEnd k) = some 5)

/-- RTS_RETRY and E2E_TIMEOUT (R281, R295): a refused RTS is sent again 5 us later; a command whose oldest write has not been
acknowledged for E2E_TIMEOUT_US ends with its cause, and the flow goes on without the writes that are overdue. By the model's
choice: log entries 1 (an event that cannot arise), 3 (the clock), 16 (what follows at once). -/
def Obligations.RetriesAndTimeoutsOfTransfers : Prop :=
  ∀ (s : State) (id : CmdId),
    (∀ k w t, findCmd s id = some k → k.work = .send w → w.rtsRefused = some t →
      exec (.rtsRetry id) s = .next (settle (sendRts (advanceTo s (t + us 5)) id w))) ∧
    (findCmd s id = none → exec (.rtsRetry id) s = .next s) ∧
    (∀ t key, oldestWrite s id = some (t, key) →
      let u := advanceTo s (t + us s.net.e2eUs.toNat)
      exec (.e2eTimeout id) s =
        .next (settle (resetFlow (failNet u id (localCause u .e2eTimeout 0 (key / 8)) false) key (overdue u id key))) ∧
      ((findCmd s id).isSome → ends (failNet u id (localCause u .e2eTimeout 0 (key / 8)) false) id = true)) ∧
    (∀ (v : State) key lost, (getFlowTx (resetFlow v key lost) key).unacked =
      (getFlowTx v key).unacked.filter (fun u => !lost.contains u.1) ∧ (resetFlow v key lost).mem = v.mem ∧
      (resetFlow v key lost).cmds = v.cmds) ∧
    (oldestWrite s id = none → exec (.e2eTimeout id) s = .next s)

/-- WINDOW_OPEN and WINDOW_CLOSE (R286 to R288, Table 11.6): a CLOSED window opens with the next generation, 0 being
skipped, which is its DETAIL; an OPEN one drains, and only a DRAINING one is closed, with memory as it was. No other
window changes at an opening. By the model's choice: log entry 16 (what follows at once). -/
def Obligations.WindowsOpenDrainAndClose : Prop :=
  ∀ (s : State) (i : Fin 64) (c : Cmd),
    let d := dispatchCmd s c
    let w := c.par 0 2
    let x := getWindow s w
    let gen : W16 := if x.gen = 0xFFFF then 1 else x.gen + 1
    (runs s i (opSel 0x0300) c = true → c.hdr.paramLen = 3 → w < 4096 → x.st = .closed → c.par 2 1 < 8 →
      c.par 3 5 = 0 → c.par 8 8 % 4096 = 0 → c.par 16 8 % 4096 = 0 → 4096 ≤ c.par 16 8 → c.par 16 8 ≤ 2 ^ 38 →
      rangeWindow (c.par 8 8) (c.par 16 8) = true →
      let t := setWork (putWindow d w { x with
        st := .open, gen := gen, thl := bitOf (c.par 2 1) 0, rdmaWrite := bitOf (c.par 2 1) 1
        rdmaRead := bitOf (c.par 2 1) 2, base := c.par 8 8, bytes := c.par 16 8, drainRefused := 0 }) c.id (.done gen.toNat)
      exec (.windowOpen i) s = .next (settle t) ∧ gen ≠ 0 ∧ (∀ v, v ≠ w → getWindow t v = getWindow s v)) ∧
    (runs s i (opSel 0x0301) c = true → c.hdr.paramLen = 1 → w < 4096 → x.st = .open → c.par 2 6 = 0 →
      exec (.windowClose i) s = .next (settle (setWork (putWindow d w
        { x with st := .draining, drainRefused := 0, drainFrom := s.clk.ticks }) c.id (.windowClose w)))) ∧
    (∀ t, closeNext s = some t → ∃ v, v < s.net.windows.length ∧
      ((s.net.windows[v]?).map (fun p => p.2.st)) = some .draining ∧ t.mem = s.mem)

/-- SEND, RECV, ALLREDUCE and ALLGATHER at their dispatch (R292 to R300): a window SEND begins its writes, a matched
one sends its RTS; a RECV waits for its match; a collective takes the next number of its group. By the model's choice:
log entry 16 (what follows at once). -/
def Obligations.NetworkCommandsStart : Prop :=
  ∀ (s : State) (i : Fin 64) (c : Cmd),
    let d := dispatchCmd s c
    let g := c.par 0 2
    (let w := sendOf c.params
     runs s i (opSel 0x0302) c = true → c.hdr.paramLen = 7 → w.group < 256 → groupThere s w.group = true →
      sendOk s c.params w = true → tensorOk rangeRead w.src w.srcStride w.rows w.rowBytes = true →
      exec (.send i) s = .next (settle (sendStart d (beginCmd s c) w)) ∧
      (w.mode = 2 → (findCmd (sendStart d (beginCmd s c) w) c.id).map (·.work) =
        some (.send { w with seq := tabGet s.net.collSeq 0 w.group }))) ∧
    (runs s i (opSel 0x0303) c = true → c.hdr.paramLen = 4 → g < 256 → groupThere s g = true → c.par 8 2 < 4096 →
      c.par 10 6 = 0 → c.par 2 2 < groupSize s g → (getWindow s (c.par 8 2)).st = .open →
      let k : Work := .recv { group := g, rank := c.par 2 2, tag := c.par 4 4, window := c.par 8 2, offset := c.par 16 8
                              capacity := c.par 24 8 }
      exec (.recv i) s = .next (settle (recvMatch (setWork d c.id k) { beginCmd s c with work := k }))) ∧
    (runs s i (opSel 0x0304) c = true → c.hdr.paramLen = 5 → g < 256 → groupThere s g = true →
      ([0x0, 0x1, 0x2, 0xC].contains (c.par 2 1) && c.par 3 1 ≤ 2 && c.par 4 1 < 64 && c.par 4 1 % 16 < 0xD &&
        c.par 5 1 = 0 && 1 ≤ c.par 16 4 && c.par 16 4 ≤ 2 ^ 31 && c.par 20 4 = 0 &&
        ownWindowOk s g (c.par 24 8) (fmtBytes (c.par 4 1 % 16) (c.par 16 4)) &&
        ownWindowOk s g (c.par 32 8) (65536 * treeLevels (groupSize s g))) = true →
      rangeRead (c.par 8 8) (c.par 16 4 * (fmtBits (c.par 2 1) / 8)) = true →
      ∃ t w, exec (.allreduce i) s = .next (settle t) ∧ (findCmd t c.id).map (·.work) = some (.coll w) ∧
        w.gather = false ∧ w.group = g ∧ w.seq = tabGet s.net.collSeq 0 g ∧ w.count = c.par 16 4 ∧ w.op = c.par 3 1 ∧
        tabGet t.net.collSeq 0 g = tabGet s.net.collSeq 0 g + 1 ∧ t.mem = s.mem) ∧
    (runs s i (opSel 0x0305) c = true → c.hdr.paramLen = 4 → g < 256 → groupThere s g = true → c.par 2 6 = 0 →
      c.par 16 8 % 16 = 0 → ownWindowOk s g (c.par 24 8) (groupSize s g * c.par 16 8) = true →
      rangeRead (c.par 8 8) (c.par 16 8) = true →
      ∃ t w, exec (.allgather i) s = .next (settle t) ∧ (findCmd t c.id).map (·.work) = some (.coll w) ∧
        w.gather = true ∧ w.group = g ∧ w.seq = tabGet s.net.collSeq 0 g ∧ w.count = c.par 16 8 ∧
        tabGet t.net.collSeq 0 g = tabGet s.net.collSeq 0 g + 1 ∧ t.mem = s.mem)

/-- SYNC_PERIOD, SYNC_RECEIVE and the delay messages (R315): the master sends SYNC at multiples of 2^14 ticks; a follower
forwards it with the delay of the links crossed, begins acquiring, steps once to the master's count, and then only estimates
its offset; delays are measured per port. By the model's choice: log entries 1 (an event that cannot arise), 3 (the clock),
16 (what follows at once), 123 (the delay in SYNC), 37 (the sign of the offset), 38 (how delays are measured). -/
def Obligations.TideMessagesDisciplineTheCounter : Prop :=
  ∀ (s : State) (p : Fin 12),
    (s.tide.syncEn = false → exec .syncPeriod s = .next s) ∧
    (s.tide.syncEn = true →
      let n := s.tide.periods + 1
      let u := advanceTo s (16384 * n)
      let v := { u with tide := { u.tide with periods := n } }
      let w := if sendsSync v.tide then (upBundles v).foldl (sendSync v.rcd.chipId v.tide.count 0) v else v
      exec .syncPeriod s = .next (settle (((List.range 12).filter (thlUp w)).foldl
        (sendDelay 0x23 (leBytes 8 w.tide.count.toNat)) w))) ∧
    (∀ chip count way, thlUp s p.val = true → s.tide.syncEn = true → sendsSync s.tide = false →
      let w := way + (getPort s p.val).delay
      let u := ((upBundles s).filter (· != bundleOf s p.val)).foldl (sendSync chip count w) s
      exec (.syncReceive p chip ⟨count, way⟩) s = .next (settle (if s.tide.source = 0 then followSync u chip (masterNow count w)
        else u)) ∧ masterNow count w = 40 * count.toNat + 7 * w) ∧
    (∀ chip count way, thlUp s p.val = false ∨ s.tide.syncEn = false ∨ sendsSync s.tide = true →
      exec (.syncReceive p chip ⟨count, way⟩) s = .next s) ∧
    (∀ chip m, s.tide.st = .unsync → (followSync s chip m).tide.st = .acquiring ∧
      (followSync s chip m).tide.count = s.tide.count) ∧
    (∀ chip m, s.tide.st = .acquiring → (followSync s chip m).tide.st = .tracking ∧
      (followSync s chip m).tide.count = BitVec.ofNat 64 ((m + 20) / 40)) ∧
    (∀ chip m, s.tide.st = .tracking → (followSync s chip m).tide.count = s.tide.count ∧
      (followSync s chip m).tide.offset = ((40 * s.tide.count.toNat : Nat) : Int) - (m : Int)) ∧
    (∀ stamp, thlUp s p.val = true → exec (.delayReqReceive p stamp) s =
      .next (settle (sendDelay 0x24 (leBytes 8 stamp.toNat) s p.val))) ∧
    (∀ q, thlUp s p.val = true → s.tide.syncEn = true →
      exec (.delayRespReceive p q) s = .next (putPort s p.val { getPort s p.val with delay := q })) ∧
    (thlUp s p.val = false → (∀ x, exec (.delayReqReceive p x) s = .next s) ∧
      (∀ q, exec (.delayRespReceive p q) s = .next s))

/-- TIDE_CORRECTION, SYNC_LOST and TIDE_REF_EDGE (R315, R316, R409, Table 12.3): where the offset is half a tick or more (log
entry 124), a module behind skips a tick and one ahead repeats one, at least 1,024 ticks after the last, which moves the
offset toward zero, and DURATION's divider does not change; SYNC_LOST leads to UNSYNC with its flag set and counted;
the first edge steps the counter to a multiple of 716,800. By the model's choice: log entries 1 (an event that cannot arise), 3
(the clock), 16 (what follows at once), 36 (the sense of a skip), 37 (the offset's sign), 39 (how an edge rounds), 124 (half a
tick). -/
def Obligations.CorrectionsAndLossOfTheTide : Prop :=
  ∀ s : State,
    (corrects s.tide = true → 20 ≤ s.tide.offset.natAbs →
      let u := match s.tide.lastCorrection with | some k => advanceTo s (k + 1024) | none => s
      ∃ t, exec (.tideCorrection (decide (s.tide.offset < 0))) s = .next (settle t) ∧
        t.tide.count = (if s.tide.offset < 0 then u.tide.count + 1 else u.tide.count - 1) ∧ t.clk = u.clk ∧
        t.tide.offset = (if s.tide.offset < 0 then s.tide.offset + 40 else s.tide.offset - 40) ∧
        t.tide.lastCorrection = some u.clk.ticks ∧ t.cmds = s.cmds ∧ t.mem = s.mem) ∧
    (corrects s.tide = false ∨ s.tide.offset.natAbs < 20 → ∀ skip, exec (.tideCorrection skip) s = .next s) ∧
    (exec (.tideCorrection (decide (0 ≤ s.tide.offset))) s = .next s) ∧
    (s.tide.source = 0 → s.tide.syncEn = true → s.tide.master = false → s.tide.st ≠ .unsync →
      ∃ t, exec .syncLost s = .next (settle t) ∧ t.tide.st = .unsync ∧ t.tide.syncLost = true ∧
        t.tide.syncLostCount = s.tide.syncLostCount + 1) ∧
    (s.tide.st = .unsync → exec .syncLost s = .next s) ∧
    (s.tide.source = 1 → s.tide.syncEn = true → s.tide.st = .unsync → s.tide.count.toNat % 716800 ≠ 0 →
      s.tide.count.toNat < 2 ^ 63 →
      ∃ t, exec .tideRefEdge s = .next (settle t) ∧ t.tide.st = .acquiring ∧ t.tide.count.toNat % 716800 = 0 ∧
        s.tide.count.toNat < t.tide.count.toNat) ∧
    (s.tide.source = 1 → s.tide.syncEn = true → s.tide.st ≠ .unsync → exec .tideRefEdge s =
      .next (settle (countEdge (alignEdge { s with tide := { s.tide with masterChip := s.rcd.chipId } })))) ∧
    (s.tide.source ≠ 1 ∨ s.tide.syncEn = false → exec .tideRefEdge s = .next s)

/-- PAIR, UNPAIR, DIGEST and DIVERGE from the partner (R319 to R322): pairing needs both modules; UNPAIR ends the lock-step
commands in flight and the pairing; digests of one item meet and count, and the first mismatch ends its command and tells the
partner; DIVERGE ends the command that it names. By the model's choice: log entries 1 (an event that cannot arise), 16 (what
follows at once), 41 (the sender is not checked), 115 (digests that wait). -/
def Obligations.LockStepMessagesPairCompareAndEnd : Prop :=
  ∀ (s : State) (p : Fin 12), thlUp s p.val = true →
    (∀ chip names, names = s.rcd.chipId → exec (.pairReceive p chip names) s =
      .next (settle (pairUpCheck { s with lock := { s.lock with pairFrom := some chip } }))) ∧
    (∀ chip names, names ≠ s.rcd.chipId → exec (.pairReceive p chip names) s = .next s) ∧
    (s.lock.set = true → s.lock.established = false → s.lock.pairFrom = some s.lock.partner →
      (pairUpCheck s).lock.established = true ∧ (pairUpCheck s).lock.compared = 0) ∧
    (s.lock.set = false → pairUpCheck s = s) ∧
    (s.lock.established = true → exec (.unpairReceive p s.lock.partner) s = .next (settle (lapse
      ((lockCmds s).foldl (fun u id => failCmd u id { localCause s .abortCmd 0 0 with chip := s.lock.partner }) s)))) ∧
    (∀ inlet seq item digest, s.lock.established = true → exec (.digestReceive p inlet seq item digest) s =
      .next (settle (theirDigest s { inlet := inlet.val, seq := seq, item := item, value := digest }))) ∧
    (∀ (inlet : Fin 64) seq item c, s.lock.established = true → lockCmd s inlet.val seq = some c →
      exec (.divergeReceive p inlet seq item) s = .next (settle (endDiverged s c.id (namedTile c item)))) ∧
    (s.lock.established = false → (∀ i q k d, exec (.digestReceive p i q k d) s = .next s) ∧
      (∀ i q k, exec (.divergeReceive p i q k) s = .next s)) ∧
    (∀ a b : Digest,
      let u := { s with lock := { s.lock with compared := s.lock.compared + 1 } }
      (a.value = b.value → meetDigests s a b = u) ∧
      (∀ id, a.value ≠ b.value → a.cmd = some id → (findCmd s id).isSome →
        meetDigests s a b = endDiverged (routeCtl u (partnerPacket u 0x28 (digestName a))) id a.tile) ∧
      (a.value ≠ b.value → a.cmd = none → meetDigests s a b = u))

/-- EXPORT_BIND and EXPORT_KV (R227, R243 to R247): a free channel is bound with the next BIND_SEQ, its DETAIL; SOURCE, PULL
and MESSAGE begin on a bound channel; a SEAL drops the pages that are not complete and counts them; a queue pair that is not
READY ends a PULL or MESSAGE. By the model's choice: log entry 16 (what follows at once), 27 (BIND_SEQ begins at 1), 29 (a
queue pair that is not READY), 31 (a SEAL drops at its dispatch). -/
def Obligations.ExportCommandsStart : Prop :=
  ∀ (s : State) (i : Fin 64) (c : Cmd),
    let d := dispatchCmd s c
    let ch := c.par 1 1
    let q := c.par 6 2
    let a := c.par 8 8
    let n := c.par 28 4
    (runs s i (opSel 0x0307) c = true → c.hdr.paramLen = 8 + 6 * ch → 1 ≤ ch → ch ≤ 8 →
      (getChannel s (c.par 0 1)).st = .free → bindOk c = true → (bindDests c).findSome? (destRefused s) = none →
      let b := bindOf c ((getChannel s (c.par 0 1)).bindSeq + 1)
      rangeOk b.stageAddr b.stageBytes = true → tablesOk b = true →
      exec (.exportBind i) s =
        .next (settle (setWork (putChannel d (c.par 0 1) b) c.id (.done b.bindSeq.toNat)))) ∧
    (c.hdr.paramLen = 5 → ch < 16 → (getChannel s ch).st = .bound → exportOk c = true →
      (let w := sourceOf' c
       runs s i (exportSel 0) c = true → [1, 2, 3, 4].contains w.kFmt = true → [1, 2, 3, 4].contains w.vFmt = true →
        w.layout ≤ 1 → w.pos ≤ w.posB → w.posB ≤ 2 ^ 24 → sourceReads s w = true →
        exec (.source i) s = .next (settle (setWork d c.id (.source w)))) ∧
      (runs s i (exportSel 1) c = true → exec (.seal i) s = .next (settle (sealCheck (setWork
        (putChannel d ch (releasePages (sealChannel (getChannel s ch)))) c.id (.seal ch)) ch))) ∧
      (runs s i (exportSel 2) c = true → q < 16384 → 1 ≤ n → n ≤ 2 ^ 31 → rangeOk a n = true →
        ((getQp s q).st = .ready → exec (.pull i) s = .next (settle
          (pullReads (setWork d c.id (.pull q a n 0)) c.id q (c.par 24 4) (c.par 16 8) n))) ∧
        ((getQp s q).st ≠ .ready → exec (.pull i) s = .next (settle (qpFails d c.id ch)))) ∧
      (runs s i (exportSel 3) c = true → q < 16384 → 1 ≤ n → n ≤ 256 → rangeRead a n = true →
        ((getQp s q).st = .ready → readsClean s c [(0, a, n)] = true →
          exec (.message i) s = .next (settle (qpSend (setWork (afterReads d c [(0, a, n)]) c.id (.message q)) q
            (.send (readMem s a n)) (.cmd c.id)))) ∧
        ((getQp s q).st ≠ .ready → exec (.message i) s = .next (settle (qpFails d c.id ch))))) ∧
    (∀ x : Channel, (sealChannel x).st = .sealing ∧ (sealChannel x).incomplete = x.pages.countP (fun p => p.2.completeAt.isNone))

/-- QP_SETUP and QP_TEARDOWN (R251): a free queue pair becomes READY with its parameters and sequence numbers; torn down, it
is FREE, what uses it fails, and its requests that wait are gone. No other queue pair changes at a set-up. By the model's
choice: log entry 16 (what follows at once). -/
def Obligations.QueuePairsAreSetUpAndTornDown : Prop :=
  ∀ (s : State) (i : Fin 64) (c : Cmd),
    let d := dispatchCmd s c
    let q := c.par 0 2
    (runs s i (opSel 0x0308) c = true → c.hdr.paramLen = 12 → q < 16384 → c.par 2 1 % 16 < 12 → (getQp s q).st = .free →
      isEth s (c.par 2 1 % 16) = true → qpOk s c = true → rangeOk (c.par 64 8) (4 * 2 ^ c.par 72 1) = true →
      let t := setWork (putQp d q (qpOf s c)) c.id (.done 0)
      exec (.qpSetup i) s = .next (settle t) ∧ (getQp t q).st = .ready ∧ (getQp t q).par = c.params ∧
        (getQp t q).psn = BitVec.ofNat 24 (c.par 12 4) ∧ (getQp t q).rq = BitVec.ofNat 24 (c.par 16 4) ∧
        (∀ r, r ≠ q → getQp t r = getQp s r)) ∧
    (runs s i (opSel 0x0309) c = true → c.hdr.paramLen = 1 → q < 16384 → (getQp s q).st ≠ .free → c.par 2 6 = 0 →
      let t := setWork (tearDown d q) c.id (.done 0)
      exec (.qpTeardown i) s = .next (settle t) ∧ (getQp t q).st = .free ∧ (getQp t q).unacked = [] ∧
        ∀ r psn ask, .roce r psn ask ∈ t.net.inbound → r ≠ q)

/-- SEGMENT_SEND, EXPORT_TIMEOUT and STALL_LIMIT (R235, R240, R241): the next complete segment of a stream is sent, a write
for each run of its bytes, with the page's trailer after its last; a destination with a page that is overdue fails with
TIMEOUT, unless it has acknowledged it; at STALL_LIMIT those that have not acknowledged a complete oldest page fail with
LAGGARD, else all with STAGING, and hand-offs are discarded; nothing happens on a channel without the condition. By the
model's choice: log entries 3 (the clock), 16 (what follows at once), 131 (the instant of EXPORT_TIMEOUT), 132 (who fails
with no complete page in staging). -/
def Obligations.ExportEventsSendAndFail : Prop :=
  ∀ (s : State) (ch : Fin 16) (d : Fin 8),
    exec (.segmentSend ch d) s = .next (settle (sendSegment s ch.val d.val)) ∧
    (∀ x q k pg, let b := getChannel s ch.val
      b.st = .bound → b.dests[d.val]? = some x → b.ready[x.sent]? = some (q, k) → tabFind? b.pages q = some pg →
      (streamOpen s x = false → sendSegment s ch.val d.val = s) ∧
      (streamOpen s x = true → x.kind ≠ 1 → rangeBad s (bufAddr b pg.buffer + 4096 * k) (min 4096 (b.extent - 4096 * k)) = false →
        rangeBad s (x.pageTable + 8 * q) 8 = false →
        let body := (tabFind? x.bodies q).getD (readLe s (x.pageTable + 8 * q) 8)
        let runs := pageRuns b (pageOf b q) (4096 * k) (min b.extent (4096 * k + 4096))
        let whole := (neededSegs b (pageOf b q)).all (fun j => ((b.ready.take (x.sent + 1)).contains (q, j)))
        let y := { x with
          sent := x.sent + 1, bodies := tabSet x.bodies q body, trailers := x.trailers ++ (if whole then [q] else []) }
        let key := flowKey (BitVec.ofNat 12 x.chip).toNat 3
        let t := sendSegment s ch.val d.val
        (∃ z, (getChannel t ch.val).dests[d.val]? = some z ∧ z.sent = y.sent ∧ z.bodies = y.bodies ∧ z.trailers = y.trailers) ∧
        (getFlowTx t key).next = (getFlowTx s key).next + runs.length + (if whole then 1 else 0) ∧ t.mem = s.mem ∧
        (let u := runs.foldl (fun v r => destWrite (ddrTake v .read false (bufAddr b pg.buffer + r.1) r.2) ch.val d.val y (body + r.1)
            (readMem v (bufAddr b pg.buffer + r.1) r.2) (.page ch.val b.bindSeq d.val q false))
          (putChannel s ch.val { b with dests := listSet b.dests d.val y })
         t = if whole then sendTrailer u ch.val d.val y q (trailerOf u b pg q) else u))) ∧
    (∀ (u : State) (x : Dest) a data o, x.kind = 1 →
      destWrite u ch.val d.val x a data o = qpSend u x.qp (.write x.rkey a data) o) ∧
    (∀ (u : State) (x : Dest) a data o, x.kind ≠ 1 → destWrite u ch.val d.val x a data o = sendWrite u
      { ctlPacket u 0x01 (BitVec.ofNat 12 x.chip) with
        vc := 3, window := BitVec.ofNat 12 x.window, gen := BitVec.ofNat 16 x.gen, offset := BitVec.ofNat 64 a
        rowBytes := BitVec.ofNat 16 data.length, rows := 1
        context := pageContext ch.val (getChannel u ch.val).bindSeq.toNat d.val, payload := data } o) ∧
    ((getChannel s ch.val).dests[d.val]? = none → sendSegment s ch.val d.val = s ∧ timeoutDest s ch.val d.val = s) ∧
    exec (.exportTimeout ch d) s = .next (settle (timeoutDest s ch.val d.val)) ∧
    (∀ x t, (getChannel s ch.val).dests[d.val]? = some x → x.failed = none → timeoutAt (getChannel s ch.val) x = some t →
      timeoutDest s ch.val d.val = failDest (advanceTo s (t + 1)) ch.val d.val .timeout) ∧
    (∀ x, (getChannel s ch.val).dests[d.val]? = some x → (getChannel s ch.val).pages.all (fun p => x.acked.contains p.1) = true →
      timeoutDest s ch.val d.val = s) ∧
    exec (.stallLimit ch) s = .next (settle (stallOut s ch.val)) ∧
    (stalledSince s (getChannel s ch.val) = none → stallOut s ch.val = s) ∧
    (∀ t, stalledSince s (getChannel s ch.val) = some t →
      let b := getChannel s ch.val
      let u := stallOut s ch.val
      let oldest := (oldestPage b).bind (fun p => p.2.completeAt.map (fun _ => p.1))
      b.stallUs * 700 + t ≤ u.clk.ticks ∧ u.mem = s.mem ∧ u.cmds.map (·.id) = s.cmds.map (·.id) ∧
      (b.st = .bound → ∀ (n : Nat) (x : Dest), b.dests[n]? = some x → x.failed = none →
        (∀ q, oldest = some q → x.acked.contains q = false →
          ((getChannel u ch.val).dests[n]?).map (·.failed) = some (some .laggard)) ∧
        (∀ q, oldest = some q → x.acked.contains q = true → (∀ z ∈ b.dests, z.kind ≠ 1) →
          ((getChannel u ch.val).dests[n]?).map (·.failed) = some none) ∧
        (oldest = none → ((getChannel u ch.val).dests[n]?).map (·.failed) = some (some .staging))) ∧
      (oldest = none → (getChannel u ch.val).discard = true ∧ (getChannel u ch.val).stalls = []))

/-- Inbound RoCEv2 requests (R215, R250 to R254): in sequence on a READY queue pair a request is taken: a WRITE that its window
allows lands there and is acknowledged, one with immediate fills the ring and counts, a READ is answered, an access that
the key or window refuses gets a remote-access NAK, a SEND an invalid-request NAK; a request behind is acknowledged again,
one ahead gets a sequence NAK, and a queue pair that is not READY drops it. What the REMOTE class has no room for waits. By
the model's choice: log entries 16 (what follows at once), 121 (the order of what waits). -/
def Obligations.InboundRequestsAreServedInOrder : Prop :=
  ∀ (s : State) (q : Fin 16384) (psn : BitVec 24) (rkey : W32) (va : W64),
    let w := wakeTrigger s
    let x := getQp s q.val
    let n := keyWindow rkey
    let base := (getWindow s n).base
    (x.st = .ready → psn = x.rq →
      (∀ data, exec (.rdmaWriteReceive q psn rkey va data) s = .next (settle (inboundTake w q.val psn
        (if keyRefuses s x rkey .rdmaWrite (va.toNat + data.length) then .refused n else .write n base va data none)))) ∧
      (∀ data imm, exec (.writeImmediateReceive q psn rkey va data imm) s = .next (settle (inboundTake w q.val psn
        (if keyRefuses s x rkey .rdmaWrite (va.toNat + data.length) then .refused n
          else .write n base va data (some imm))))) ∧
      (∀ m, exec (.rdmaReadReceive q psn rkey va m) s = .next (settle (inboundTake w q.val psn
        (if keyRefuses s x rkey .rdmaRead (va.toNat + m) then .refused n else .read n base va m)))) ∧
      exec (.roceSendReceive q psn) s = .next (settle (inboundTake w q.val psn .invalid))) ∧
    (x.st = .ready → psn ≠ x.rq →
      let o : RoceOut := if psnUpto psn x.rq then .ack q.val (x.rq - 1) else .nakSequence q.val x.rq
      (∀ data, exec (.rdmaWriteReceive q psn rkey va data) s = .next (sendRoce w q.val o)) ∧
      (∀ data imm, exec (.writeImmediateReceive q psn rkey va data imm) s = .next (sendRoce w q.val o)) ∧
      (∀ m, exec (.rdmaReadReceive q psn rkey va m) s = .next (sendRoce w q.val o)) ∧
      exec (.roceSendReceive q psn) s = .next (sendRoce w q.val o)) ∧
    (x.st ≠ .ready → (∀ data, exec (.rdmaWriteReceive q psn rkey va data) s = .next w) ∧
      (∀ data imm, exec (.writeImmediateReceive q psn rkey va data imm) s = .next w) ∧
      (∀ m, exec (.rdmaReadReceive q psn rkey va m) s = .next w) ∧ exec (.roceSendReceive q psn) s = .next w) ∧
    (∀ data : List Byte, let a := base + va.toNat
      let ask : RoceAsk := .write n base va data none
      let u := putQp s q.val { x with rq := psn + BitVec.ofNat 24 (x.packets data.length) }
      (roceWaits u q.val ask = true → (inboundTake s q.val psn ask).net.inbound = s.net.inbound ++ [.roce q.val psn ask] ∧
        (inboundTake s q.val psn ask).mem = s.mem) ∧
      (roceWaits u q.val ask = false → rangeWindow a data.length = true →
        (∀ k, k < data.length → readByte (inboundTake s q.val psn ask) (a + k) = data.getD k 0) ∧
        (∀ b, (∀ k, k < data.length → canon b ≠ canon (a + k)) →
          readByte (inboundTake s q.val psn ask) b = readByte s b))) ∧
    (inboundTake s q.val psn (.refused n)).mem = s.mem ∧ (inboundTake s q.val psn .invalid).mem = s.mem

/-- What reaches a queue pair or port otherwise (R246, R249, R251, R254 to R256): frames are kept where their form, address,
checks and the receive buffer allow, or counted as dropped;
acknowledgements, responses, the local ACK timeout, CNPs, the rate's period and PFC act on their queue pair or port
and nothing else of the row's is asked. By the model's choice: log entries 1 (an event that cannot arise), 3 (the
clock), 16 (what follows at once), 80 (the receive buffer and PFC), 116 (the sizes of RoCEv2 headers). -/
def Obligations.RepliesAndFramesReachTheirOwners : Prop :=
  ∀ (s : State) (p : Fin 12) (q : Fin 16384),
    let w := wakeTrigger s
    let x := getQp s q.val
    let y := getPort s p.val
    (isEth s p.val = true → portUp s p.val = true →
      (∀ f, let n := noteFec s p.val f.fec
        let keep := frameKept s p.val f && bufferRoom s p.val f.bytes
        (keep = false → exec (.frameReceive p f) s = .next (putPort n p.val
          { getPort n p.val with framesDropped := y.framesDropped + 1 })) ∧
        (keep = true → f.ce = false ∨ f.qpn.toNat < 0x4000 ∨ 0x8000 ≤ f.qpn.toNat →
          exec (.frameReceive p f) s = .next (wakeTrigger n)) ∧
        (keep = true → f.ce = true → 0x4000 ≤ f.qpn.toNat → f.qpn.toNat < 0x8000 →
          exec (.frameReceive p f) s = .next (answerCe (wakeTrigger n) (f.qpn.toNat - 0x4000)))) ∧
      (∀ prio pause, s.rcd.pfc.getD p.val none = some (BitVec.toNat prio) → exec (.pfcPauseReceive p prio pause) s =
        (let u := putPort s p.val { y with pfcPauseRx := y.pfcPauseRx + 1, paused := pause }
         .next (settle (if pause then u else unpause u p.val)))) ∧
      (∀ prio pause, s.rcd.pfc.getD p.val none ≠ some (BitVec.toNat prio) → exec (.pfcPauseReceive p prio pause) s =
        .next (putPort s p.val { y with pfcPauseRx := y.pfcPauseRx + 1 }))) ∧
    (isEth s p.val = false ∨ portUp s p.val = false → (∀ f, exec (.frameReceive p f) s = .next s) ∧
      ∀ prio pause, exec (.pfcPauseReceive p prio pause) s = .next s) ∧
    (∀ a, exec (.roceAckReceive q a) s = .next (settle (recvRoceAck w q.val a))) ∧
    (∀ data, x.st = .ready → exec (.readResponseReceive q data) s = .next (settle (pullData w q.val data))) ∧
    (∀ data, x.st ≠ .ready → exec (.readResponseReceive q data) s = .next w) ∧
    (x.st = .ready → x.unacked ≠ [] →
      exec (.localAckTimeout q) s = .next (settle (qpRetry (advanceTo s (x.lastProgress + x.timeout)) q.val))) ∧
    (x.st ≠ .ready ∨ x.unacked = [] → exec (.localAckTimeout q) s = .next s) ∧
    exec (.cnpReceive q) s = .next (recvCnp w q.val) ∧
    exec (.ecnPeriod q) s = .next (settle (ecnRaise s q.val))

/-- The directory's areas lie in memory, apart from one another (Table 10.2). -/
def dirLaid (s : State) : Prop :=
  let d := s.dir
  let n := 2 ^ d.log2e
  3 ≤ d.log2e ∧ 0 < d.hotLines ∧ rangeOk d.tableBase (32 * n) = true ∧ rangeOk d.tagsBase (2 * n) = true ∧
  rangeOk d.hotBase (64 * d.hotLines) = true ∧
  (∀ i j, i < 32 * n → j < 2 * n → canon (d.tableBase + i) ≠ canon (d.tagsBase + j)) ∧
  (∀ i j, i < 32 * n → j < 64 * d.hotLines → canon (d.tableBase + i) ≠ canon (d.hotBase + j)) ∧
  (∀ i j, i < 2 * n → j < 64 * d.hotLines → canon (d.tagsBase + i) ≠ canon (d.hotBase + j))

/-- Entry `e` has become `x`, with its tag, and no other entry has changed. -/
def entryBecomes (s t : State) (e : Nat) (x : DirEntry) : Prop :=
  dirAt t e = x ∧ readLe t (tagAddr s e) 2 = (if x.valid then hashTag x.hash else 0) ∧
  ∀ f, f < 2 ^ s.dir.log2e → f ≠ e → dirAt t f = dirAt s f

/-- A lookup's probe (R266, R267): the entry that it takes is usable, a local one before a peer's and the lowest way among
equals; its AGE is CLOCK, and ACQUIRE counts its REF; STOP tells why there is none; the header holds MATCHED and STOP. -/
def lookupFollows (s : State) (u : Bool) (c : Cmd) (q : LookArg) (h : Nat) : Prop :=
  let usable := fun e => e ∈ taggedWays s h ∧ (dirAt s e).valid = true ∧ (dirAt s e).hash = h ∧ covers q (dirAt s e) = true ∧
    (q.acquire = true → (dirAt s e).ref < 65535)
  (∀ e x, probe s q h = .hit e x → usable e ∧ x = dirAt s e ∧
    (∀ f, usable f → (x.peer = false ∨ (dirAt s f).peer = true) ∧ ((dirAt s f).peer = x.peer → e ≤ f)) ∧
    entryBecomes s (takeHit s u q e x) e
      { x with age := s.dir.clock.toNat, ref := if q.acquire then x.ref + 1 else x.ref }) ∧
  (∀ k, probe s q h = .miss k →
    let here := fun e => e ∈ taggedWays s h ∧ (dirAt s e).valid = true ∧ (dirAt s e).hash = h
    (k = 1 ↔ ∀ e, ¬ here e) ∧ (k = 2 ↔ (∃ e, here e) ∧ ∀ e, here e → covers q (dirAt s e) = false) ∧
    (k = 3 ↔ q.acquire = true ∧ (∃ e, here e ∧ covers q (dirAt s e) = true) ∧
      ∀ e, here e → covers q (dirAt s e) = true → 65535 ≤ (dirAt s e).ref) ∧ (k = 1 ∨ k = 2 ∨ k = 3)) ∧
  (∀ idx a t bytes, lookStep s c q idx a = .more t bytes → ∃ v e x, probe v q (readLe s a 16) = .hit e x ∧
    t = takeHit v c.urgent q e x ∧ bytes = hitBytes e x) ∧
  (∀ idx a t k, lookStep s c q idx a = .ends t k none → probe t q (readLe s a 16) = .miss k) ∧
  (∀ idx b t m, lookPrompt s c q idx b = (t, m, none) → let res := fieldLe b 8 8
    m ≤ fieldLe b 16 4 ∧ (∀ k, k < 4 → readByte t (res + k) = (leBytes 4 m).getD k 0) ∧
    ∃ stop, stop ≤ 3 ∧ (stop = 0 ↔ m = fieldLe b 16 4) ∧ readByte t (res + 4) = BitVec.ofNat 8 stop)

/-- An insertion (R269): an entry that is there stays, with its AGE and REF; else the lowest invalid way takes the record, else
the oldest entry of REF 0 gives way, its LOC told; else the set is full of references. The result names OUTCOME and ENTRY. -/
def insertFollows (s : State) (u acq : Bool) (b : List Byte) : Prop :=
  let x := entryOf b
  let set := setEntries s x.hash
  let v := set.foldl (fun v e => hotRead v u e) s
  let same := fun y : DirEntry => y.valid = true ∧ y.hash = x.hash ∧ y.span = x.span ∧ y.peer = x.peer
  (∀ t o e old, insertStep s u acq x = some (t, o, e, old) → e ∈ set ∧ o ≤ 2 ∧ (let y := dirAt v e
    (o = 2 → same y ∧ old = 0 ∧ entryBecomes v t e
      { y with age := s.dir.clock.toNat, ref := if acq = true ∧ y.ref < 65535 then y.ref + 1 else y.ref }) ∧
    (o ≠ 2 → (∀ f ∈ set, ¬ same (dirAt v f)) ∧
      entryBecomes v t e { x with age := s.dir.clock.toNat, ref := if acq then 1 else 0 }) ∧
    (o = 0 → y.valid = false ∧ old = 0 ∧ ∀ f ∈ set, f < e → (dirAt v f).valid = true) ∧
    (o = 1 → (∀ f ∈ set, (dirAt v f).valid = true) ∧ y.ref = 0 ∧ old = y.loc ∧
      ∀ f ∈ set, (dirAt v f).ref = 0 → dirAge v (dirAt v f) ≤ dirAge v y))) ∧
  (insertStep s u acq x = none → ∀ f ∈ set, (dirAt v f).valid = true ∧ 0 < (dirAt v f).ref) ∧
  (∀ c r res t n k, insertRecords [(x, r)] s c acq res 0 0 = (t, n, k, none) → rangeOk (res + 16 * r) 16 = true →
    ∃ w w' o e old, insertStep w c.urgent acq x = some (w', o, e, old) ∧ n = (if o = 2 then 0 else 1) ∧
      k = (if o = 1 then 1 else 0) ∧ ∀ j, j < 16 → readByte t (res + 16 * r + j) =
        (leBytes 1 o ++ [0, 0, 0] ++ leBytes 4 e ++ leBytes 8 old).getD j 0)

/-- A release (R270): a record whose entry is not valid with its hash is a mismatch; MODE 0 drops a reference, MODE 1
invalidates an entry of REF 0; the others are counted, and change no entry. -/
def releaseFollows (s : State) (u inval : Bool) (e h : Nat) : Prop :=
  let v := hotRead s u e
  let x := dirAt v e
  (2 ^ s.dir.log2e ≤ e → releaseStep s u inval e h = (s, 1)) ∧
  (e < 2 ^ s.dir.log2e → (x.valid = false ∨ x.hash ≠ h → releaseStep s u inval e h = (v, 1)) ∧
    (x.valid = true → x.hash = h →
      ((if inval then 0 < x.ref else x.ref = 0) → releaseStep s u inval e h = (v, 2)) ∧
      (inval = false → 0 < x.ref → ∃ t, releaseStep s u inval e h = (t, 0) ∧ entryBecomes v t e { x with ref := x.ref - 1 }) ∧
      (inval = true → x.ref = 0 → ∃ t, releaseStep s u inval e h = (t, 0) ∧
        entryBecomes v t e { x with loc := x.loc - 2 ^ 56 } ∧ (dirAt t e).valid = false)))

/-- The prefix directory's commands (R257 to R270): hashes are written and counted; lookups, insertions and releases reach
the table in list order, each a single step on one entry with its AGE, REF and tag; DETAIL counts what was done; a set
without a victim ends an insertion with DIR_SET_FULL. By the model's choice: log entry 16 (what follows at once), 32 (they
run whole at their dispatch), 57 (CLOCK steps before the records). -/
def Obligations.PrefixCommandsRunInListOrder : Prop :=
  ∀ (s : State) (i : Fin 64) (c : Cmd),
    let d := dispatchCmd s c
    let a := c.par 0 8
    (let n := c.par 16 2
     let b := c.par 18 2
     let ds := listAt s a 32 n
     runs s i (opSel 0x0400) c = true → c.hdr.paramLen = 3 → a % 32 = 0 → 1 ≤ n → n ≤ 4096 →
      [64, 128, 256, 512, 1024].contains b = true → c.par 20 4 = 0 → rangeRead a (32 * n) = true →
      readsClean s c (listReads a 32 n) = true → ds.all promptOk = true → ds.all (promptReach b) = true →
      readsClean s c ((ds.zipIdx).flatMap (fun d => promptReads b d.2 d.1)) = true →
      exec (.prefixHash i) s = .next (settle (setWork
        (ds.foldl (fun u x => hashPrompt u (beginCmd s c) b (BitVec.ofNat 64 (c.par 8 8)) x)
          (afterReads (afterReads d c (listReads a 32 n)) c ((ds.zipIdx).flatMap (fun d => promptReads b d.2 d.1)))) c.id
        (.done (ds.foldl (fun m x => m + fieldLe x 24 4 / b) 0))))) ∧
    (let n := c.par 8 2
     let f := c.par 10 1
     let q : LookArg :=
      { acquire := bitOf f 0, localOnly := bitOf f 1, layerFirst := c.par 12 2, layerCount := c.par 14 2 }
     let ds := listAt s a 32 n
     runs s i (opSel 0x0401) c = true → c.hdr.paramLen = 2 → a % 32 = 0 → 1 ≤ n → n ≤ 4096 → f < 4 → c.par 11 1 = 0 →
      q.layerFirst < 4096 → 1 ≤ q.layerCount → q.layerCount ≤ 1024 → rangeRead a (32 * n) = true →
      readsClean s c (listReads a 32 n) = true → ds.all (fun x => fieldLe x 8 8 % 16 = 0 && fieldLe x 20 12 = 0) = true →
      let r := lookAll ds.zipIdx (afterReads d c (listReads a 32 n)) (beginCmd s c) q 0
      r.2.2 = none → exec (.prefixLookup i) s = .next (settle (setWork r.1 c.id
        (.done (r.2.1 + (if q.acquire then r.2.1 else 0) * 2 ^ 32))))) ∧
    (let res := c.par 8 8
     let n := c.par 16 4
     let f := c.par 20 1
     let u := if s.lock.repeatable then dirStep d else d
     let xs := (listAt u a 32 n).map entryOf
     runs s i (opSel 0x0402) c = true → c.hdr.paramLen = 3 → a % 32 = 0 → res % 16 = 0 → 1 ≤ n → n ≤ 65536 → f < 2 →
      c.par 21 3 = 0 → rangeRead a (32 * n) = true → rangeOk res (16 * n) = true →
      readsClean s c (listReads a 32 n) = true → xs.all recordOk = true →
      let r := insertRecords xs.zipIdx (afterReads u c (listReads a 32 n)) (beginCmd s c) (f = 1) res 0 0
      (r.2.2.2 = none → exec (.prefixInsert i) s = .next (settle (modCmd r.1 c.id (fun k => { k with
        work := .done (r.2.1 + r.2.2.1 * 2 ^ 32), outs := [(res, 16 * n)] })))) ∧
      (∀ k, r.2.2.2 = some (.inr k) → exec (.prefixInsert i) s =
        .next (settle (failCmd r.1 c.id (localCause s .dirSetFull 0 k))))) ∧
    (let n := c.par 8 4
     let m := c.par 12 1
     let ds := listAt s a 24 n
     runs s i (opSel 0x0403) c = true → c.hdr.paramLen = 2 → a % 8 = 0 → 1 ≤ n → n ≤ 65536 → m < 2 → c.par 13 3 = 0 →
      rangeRead a (24 * n) = true → readsClean s c (listReads a 24 n) = true →
      ds.all (fun x => fieldLe x 4 4 = 0) = true →
      let r := releaseRecords ((ds.zipIdx).map (fun x => (fieldLe x.1 0 4, fieldLe x.1 8 16, x.2)))
        (afterReads d c (listReads a 24 n)) (beginCmd s c) (m = 1) (0, 0, 0)
      r.2.2 = none → exec (.prefixRelease i) s = .next (settle (setWork r.1 c.id (.done
        (satTo (2 ^ 32 - 1) r.2.1.1 + satTo 65535 r.2.1.2.1 * 2 ^ 32 + satTo 65535 r.2.1.2.2 * 2 ^ 48))))) ∧
    (dirLaid s → (∀ u q h, lookupFollows s u c q h) ∧ (∀ u acq b, insertFollows s u acq b) ∧
      ∀ u inval e h, releaseFollows s u inval e h)

/-- ATTEST, FW_STAGE, its flash write, FW_COMMIT and DEBUG_UNLOCK (R385 to R392, Table 15.6): the report over the nonce is
written, 5,968 bytes of DETAIL; a verified image is written to the inactive slot, and is STAGED once the write is complete; a
request waits for those that the security block has before it, and the first of them runs when none is being written; a
commit leaves PENDING and DETAIL the staged SVN; an accepted response raises the debug level and is counted, any outcome
consumes the challenge; a failed check ends the command with AUTH. By the model's choice: log entry 16 (what follows at
once), 58 (the slot becomes valid when the write is complete), 59 (what waits), 129 (the failed check that is reported). -/
def Obligations.SecurityCommandsVerifyAndStage : Prop :=
  ∀ (s : State) (i : Fin 64) (c : Cmd),
    let d := dispatchCmd s c
    (let a := c.par 32 8
     let r := report d (slice c.params 0 32)
     runs s i (opSel 0x0500) c = true → c.hdr.paramLen = 6 → a % 64 = 0 → c.par 40 8 = 0 → rangeOk a 5968 = true →
     (secBusy d = true →
      exec (.attest i) s = .next (settle (setWork d c.id (.attestWait (slice c.params 0 32) a)))) ∧
     (secBusy d = false → s.sec.debugDigest.length = 64 → ∃ t, exec (.attest i) s = .next (settle t) ∧
        (findCmd t c.id).map (·.work) = some (.done 5968) ∧
        (∀ k, k < 5968 → readByte t (a + k) = r.getD k 0) ∧
        (∀ b, (∀ k, k < 5968 → canon b ≠ canon (a + k)) → readByte t b = readByte s b))) ∧
    (let a := c.par 0 8
     let n := c.par 8 4
     let img := readMem s a n
     let u := afterReads d c [(0, a, n)]
     runs s i (opSel 0x0501) c = true → c.hdr.paramLen = 2 → a % 64 = 0 → n ≤ 2 ^ 20 → c.par 12 4 = 0 →
      rangeRead a n = true → readsClean s c [(0, a, n)] = true →
      exec (.fwStage i) s = .next (settle (match verifyImage s.warden img with
        | none => stageImage u (beginCmd s c) img
        | some k => authFail u c.id k)) ∧
      (secBusy u = true → stageImage u (beginCmd s c) img = setWork u c.id (.fwStage img false)) ∧
      (secBusy u = false → stageImage u (beginCmd s c) img = setWork { u with warden := { u.warden with fwState := .writing } }
        c.id (.fwStage img true))) ∧
    (∀ k, imageWriting s = false → secFirst s = some k → (∀ m, s.sec.mbxWait.head? = some m → k.order < m.before) →
      secNext s = some (secRun s k)) ∧
    (∀ m l, imageWriting s = false → s.sec.mbxWait = m :: l → (∀ k, secFirst s = some k → m.before ≤ k.order) →
      secNext s = some (mailboxNow s m)) ∧
    (imageWriting s = true → secNext s = none) ∧
    (∀ id img, s.cmds.findSome? (fun k => match k.work with | .fwStage x true => some (k.id, x) | _ => none) = some (id, img) →
      s.warden.fwState = .writing → ∃ t, exec .flashWriteComplete s = .next (settle t) ∧ t.warden.fwState = .staged ∧
        slotImage t.warden (!s.warden.activeSlot) = img ∧ slotValid t.warden (!s.warden.activeSlot) = true ∧
        slotImage t.warden s.warden.activeSlot = slotImage s.warden s.warden.activeSlot ∧ t.mem = s.mem) ∧
    (runs s i (opSel 0x0502) c = true → c.hdr.paramLen = 0 → s.warden.fwState = .staged ∨ s.warden.fwState = .pending →
      exec (.fwCommit i) s = .next (settle (setWork { d with warden := { s.warden with fwState := .pending } } c.id
        (.done (svnStaged s.warden))))) ∧
    (let a := c.par 0 8
     let r := readMem s a (recordBytes s)
     let w := afterReads { d with sec := { d.sec with challenge := none } } c [(0, a, recordBytes s)]
     runs s i (opSel 0x0504) c = true → c.hdr.paramLen = 2 → c.par 8 8 = 0 → rangeRead a (recordBytes s) = true →
      (readsClean s c [(0, a, recordBytes s)] = false → ∃ t, exec (.debugUnlock i) s = .next (settle t) ∧
        t.sec.challenge = none ∧ t.sec.debugLevel = s.sec.debugLevel ∧ ends t c.id = true) ∧
      (readsClean s c [(0, a, recordBytes s)] = true →
      (secBusy w = true → exec (.debugUnlock i) s = .next (settle (match verifyDebug s r with
        | none => setWork w c.id (.unlockWait r)
        | some k => authFail w c.id k))) ∧
      (secBusy w = false → ∃ u, exec (.debugUnlock i) s = .next (settle (match verifyDebug s r with
          | none => setWork u c.id (.done u.sec.debugLevel)
          | some k => authFail u c.id k)) ∧ u.sec.challenge = none ∧ u.mem = s.mem ∧
        u.sec.debugLevel = (if (verifyDebug s r).isNone then max s.sec.debugLevel (fieldLe r 32 1) else s.sec.debugLevel) ∧
        u.sec.unlocks = (if (verifyDebug s r).isNone then s.sec.unlocks + 1 else s.sec.unlocks))))

/-- ESTIMATE_INTERVAL, SLOW_LOOP, RAIL_SETTLED, VOLTAGE_TRIM, DROOP and DROOP_END (R327 to R344): an interval ends at its
boundary, a slow loop at a multiple of 700,000 ticks; the divider follows its rail; a trim stays within six steps; a raise
that M_MAX or M_CEILING no longer allows is taken back (R326); a stretch counts once. Outside the states in which the pumping
station runs, nothing changes. By the model's choice: log entries 1 (an event that cannot arise), 3 (the clock), 16 (what
follows at once), 46 (how an interval is estimated), 47 (the slow loop at multiples of 700,000 ticks), 62 (a trim and a rail
at their row). -/
def Obligations.PumpingStationKeepsItsLoops : Prop :=
  ∀ (s : State) (c : Fin 16),
    let x := getPower s c.val
    (pumps s = true → ∀ e,
      let u := attributeEnergy (estimate (toInterval s) e) e
      exec (.estimateInterval e) s = .next (settle (renumber u (rebalance (floorTest (fastLimiter
        (brakeStep ((coresIn u).foldl coolDown u)))))))) ∧
    (s.lock.repeatable = false → (toInterval s).clk.ticks % 1400 = 0 ∧ s.clk.ticks < (toInterval s).clk.ticks) ∧
    (pumps s = true → ∀ d, ∃ t, exec (.slowLoop d) s = .next (settle t) ∧ t.clk.ticks % 700000 = 0 ∧
      s.clk.ticks < t.clk.ticks) ∧
    (∀ m, x.raising = some m → pumps s = true → topM s c.val < m →
      exec (.railSettled c) s = .next (lowerM s c.val x.m) ∧ (getPower (lowerM s c.val x.m) c.val).m = x.m ∧
        (getPower (lowerM s c.val x.m) c.val).raising = none) ∧
    (∀ m, x.raising = some m → pumps s = true → m ≤ topM s c.val →
      exec (.railSettled c) s = .next (writeDivider s c.val m) ∧
      (getPower (writeDivider s c.val m) c.val).m = m ∧ (getPower (writeDivider s c.val m) c.val).raising = none) ∧
    (x.raising = none → exec (.railSettled c) s = .next s) ∧
    (pumps s = true → -6 ≤ x.trim → x.trim ≤ 6 → ∀ up, ∃ t, exec (.voltageTrim c up) s = .next t ∧
      (getPower t c.val).trim = (if up then min 6 (x.trim + 1) else max (-6) (x.trim - 1)) ∧
      (getPower t c.val).m = x.m ∧ t.cmds = s.cmds ∧ (∀ k, k ≠ c.val → getPower t k = getPower s k)) ∧
    (pumps s = true → x.stretched = false → ∃ t, exec (.droop c) s = .next t ∧
      (getPower t c.val).stretched = true ∧ t.mem = s.mem ∧
      (x.droops.toNat < 2 ^ 32 - 1 → (getPower t c.val).droops = x.droops + 1)) ∧
    (pumps s = false ∨ x.stretched = true → exec (.droop c) s = .next s) ∧
    exec (.droopEnd c) s = .next (putPower s c.val { x with stretched := false }) ∧
    (pumps s = false → (∀ e, exec (.estimateInterval e) s = .next s) ∧ (∀ d, exec (.slowLoop d) s = .next s) ∧
      (∀ up, exec (.voltageTrim c up) s = .next s))

/-- PWR_BRAKE_N, sensors, trips, ageing, eyes and the error period (R341, R345 to R350, R364): the brake takes effect
once where cores run; a reading of 110 degrees trips, and a trip removes chip power, is logged and alerts; predictions
and eye margins are recorded; the error counts start again every 600 s. By the model's choice: log entries 1 (an event
that cannot arise), 3 (the clock), 35 (the bytes of a history record), 62 (the tick of the row). -/
def Obligations.BrakeSensorsAndAgeing : Prop :=
  ∀ s : State,
    (let b := { s with pins := { s.pins with brake := true } }
     (s.pins.brake = false → pumps s = true ∨ s.dev.state = .lowPower →
        exec .pwrBrakeAssert s = .next (renumber b (applyBrake b)) ∧
        (applyBrake b).pump.brakeDuty = 1 ∧ (applyBrake b).pump.brakeCount = s.pump.brakeCount + 1) ∧
     (s.pins.brake = true ∨ (pumps s = false ∧ s.dev.state ≠ .lowPower) → exec .pwrBrakeAssert s = .next b)) ∧
    (exec .pwrBrakeRelease s =
      .next { s with pins := { s.pins with brake := false }, pump := { s.pump with brake := false } }) ∧
    (∀ d : SensorData, s.pins.powered = true → s.dev.state ≠ .booting →
      let u := renumber (toMultiple s 35000) ((List.range 16).foldl (readCore d) (toMultiple s 35000))
      let h := hottest (d.logic ++ d.sram)
      let v := { u with tele := { u.tele with tempMax := h.1, tempMaxSensor := h.2, vin := d.vin, pinMeasured := d.pin } }
      (h.1 < 880 → exec (.sensorRead d) s = .next v) ∧ (880 ≤ h.1 → exec (.sensorRead d) s = .next (tripChip v))) ∧
    (∀ d : SensorData, s.pins.powered = false ∨ s.dev.state = .booting → exec (.sensorRead d) s = .next s) ∧
    (s.pins.powered = true → exec .thermalTrip s = .next (tripChip s) ∧ (tripChip s).pins.thermTrip = true ∧
      (tripChip s).pins.powered = false ∧ (tripChip s).dev.state = .standby ∧ (tripChip s).warden.tripped = true ∧
      (tripChip s).warden.alert = true ∧ (tripChip s).warden.tripLog = s.warden.tripLog + 1 ∧ (tripChip s).host = s.host) ∧
    (s.pins.powered = false → exec .thermalTrip s = .next s) ∧
    (∀ d : AgeingData, pumps s = true → ∃ t, exec (.ageingMonitor d) s = .next t ∧ t.clk.ticks % 42000000000 = 0 ∧
      (∀ c, c < 16 → (getPower t c).eolMonths = BitVec.ofNat 8 (satTo 255 (d.coreMonths.getD c 255))) ∧
      t.warden.history = s.warden.history ++ ageingRecord d ++ powerRecord s ∧ t.cmds = s.cmds ∧ t.mem = s.mem) ∧
    (∀ d : AgeingData, pumps s = false → exec (.ageingMonitor d) s = .next s) ∧
    (∀ (p : Fin 12) mv, pumps s = true → exec (.eyeMeasure p mv) s =
      .next { s with tele := { s.tele with eyeMv := tabSet s.tele.eyeMv p.val mv.toNat } }) ∧
    (∀ (p : Fin 12) mv, pumps s = false → exec (.eyeMeasure p mv) s = .next s) ∧
    (∃ t, exec .errorPeriod s = .next t ∧ t.err.periods = s.err.periods + 1 ∧
      (∀ c, (getCore t c).reruns = 0 ∧ (getCore t c).exhausted = 0) ∧ t.cmds = s.cmds)

/-- Resets, power and faults (R40, R378, R411 to R415, Table 2.5a): a device fault takes a running device into FAULT: every
open or draining inlet halts, every command in flight is to end ABORTED with DEVICE_FAULT, and the channels are free; a reset
that holds a powered chip leaves BOOTING with no command, inlet, event, window, queue pair or channel in use, and keeps the
warden's caps and counts and each M_MAX; MOD_RESET_N released in STANDBY asks for power; losing VIN leaves the module
unpowered, and its return STANDBY or, with the AUTO_POWER of the operator section's intact copy and no trip, BOOTING. By the
model's choice: log entries 1 (an event that cannot arise), 2 (stops), 16 (what follows at once). -/
def Obligations.ResetsAndPowerFollowTheirRules : Prop :=
  ∀ s : State,
    (∀ u : BitVec 8, s.dev.state = .ready ∨ s.dev.state = .active ∨ s.dev.state = .quiescing ∨ s.dev.state = .lowPower →
      let v := if s.dev.state = .lowPower then leaveLowPower s else s
      let t := enterFault v u.toNat 0
      exec (.deviceFault u) s = .next (settle t) ∧ t.dev.state = .fault ∧ t.dev.faultFlag = true ∧ t.warden.alert = true ∧
      (∀ i, (getInlet t i).state = (match (getInlet s i).state with
        | .open | .draining => .halted
        | x => x)) ∧
      (∀ c ∈ s.cmds, ends t c.id = true ∧ (c.ending = none → (findCmd s c.id) = some c →
        ((findCmd t c.id).bind (·.ending)).map (fun e => (e.status, e.cause.map (·.code))) = some (.aborted, some .deviceFault))) ∧
      t.cmds.map (·.id) = s.cmds.map (·.id) ∧ t.mem = s.mem ∧ (∀ ch, (getChannel t ch).st = .free) ∧
      (∀ k, k < 16 → s.dev.state = .lowPower → (getPower t k).railMv = railFor s k (getPower s k).m)) ∧
    (∀ u : BitVec 8, s.dev.state = .standby ∨ s.dev.state = .booting ∨ s.dev.state = .fault →
      exec (.deviceFault u) s = .next s) ∧
    (s.pins.powered = true →
      exec .perstNAssert s = .next (deviceReset { s with pins := { s.pins with perst := true } }) ∧
      exec .modResetNAssert s = .next (deviceReset { s with pins := { s.pins with modReset := true } }) ∧
      (hostUp s = true → let t := deviceReset { s with pins := { s.pins with linkReset := true } }
        exec .pcieHotReset s = .next t ∧ exec .d3hotToD0 s = .next t ∧ exec .pcieLinkLoss s = .next t)) ∧
    (s.pins.powered = false → exec .perstNAssert s = .next s ∧ exec .pcieHotReset s = .next s ∧
      exec .d3hotToD0 s = .next s ∧ exec .pcieLinkLoss s = .next s ∧
      exec .modResetNAssert s = .next { s with pins := { s.pins with modReset := true } }) ∧
    (let t := deviceReset s
     t.dev.state = .booting ∧ t.dev.firmware = false ∧ t.cmds = [] ∧ t.inlets = [] ∧ t.events = [] ∧
      t.net.windows = [] ∧ t.qps = [] ∧ t.channels = [] ∧ t.host = s.host ∧ t.pins = s.pins ∧
      t.warden.bootCount = s.warden.bootCount ∧ t.pump.wardenPeak = s.pump.wardenPeak ∧
      (∀ c, (getPower t c).mMax = (getPower s c).mMax)) ∧
    (let r := { s with pins := { s.pins with modReset := false } }
     (s.pins.modReset = true → s.pins.vin = true → s.pins.powered = false →
        exec .modResetNRelease s = .next (requestPower r).2 ∧
        (s.warden.tripped = false → (requestPower r).2.pins.powered = true ∧ (requestPower r).2.dev.state = .booting)) ∧
     (s.pins.modReset = false ∨ s.pins.vin = false ∨ s.pins.powered = true → exec .modResetNRelease s = .next r)) ∧
    (s.pins.vin = true → (∃ t, exec .vinLoss s = .next t ∧ t.pins.vin = false ∧ t.pins.powered = false ∧ t.cmds = [] ∧
      t.dev.state = .standby) ∧ ∀ b, exec (.vinRise b) s = .next s) ∧
    (s.pins.vin = false → exec .vinLoss s = .next s ∧
      ∀ b, let o := s.warden.operator
        let r := deviceReset { s with warden := { s.warden with operator := { o with intact := o.intact && b } } }
        r.sec.operator = (if o.intact && b then o.body else o.oldBody) ∧
        ∃ t, exec (.vinRise b) s = .next t ∧ t.pins.vin = true ∧ t.pump.wardenPeak = 1650 ∧ t.sec.operator = r.sec.operator ∧
          (r.rcd.autoPower = true ∧ s.warden.tripped = false → t.pins.powered = true ∧ t.dev.state = .booting) ∧
          (r.rcd.autoPower = false ∨ s.warden.tripped = true → t.pins.powered = s.pins.powered ∧ t.dev.state = .standby ∧
            t.pins.thermTrip = s.warden.tripped))

/-- LOW_POWER, boot and trial boots (R347, R381, R382, Table 2.5a): an idle device with LOW_POWER_EN goes to LOW_POWER at its
time, outside repeatable mode, and returns to READY after a wake; a boot starts when the resets have ended, and counts; READY
follows a good result, with the cores that failed out of service; a trial that succeeds becomes the active slot and raises the
least SVN, and a slot below it is no longer valid; a trial that is late or fails removes chip power, and the
warden powers it again. By the model's choice: log entries 1 (an event that cannot arise), 2 (stops), 16 (what follows at
once), 3 (the clock), 61 (what a boot's failure is). -/
def Obligations.LowPowerAndBootFollowTheirRules : Prop :=
  ∀ s : State,
    (s.dev.state = .ready → s.dev.lowPowerEn = true → s.lock.repeatable = false →
      ∃ t, exec .lowPowerEntry s = .next (settle t) ∧ t.dev.state = .lowPower ∧ t.selfRefresh = true ∧
        (∀ c, c < 16 → (getPower t c).railMv = 600) ∧ t.clk.ticks = max s.clk.ticks (s.dev.idleFrom + us s.dev.idleEntry.toNat) ∧
        t.cmds = s.cmds ∧ t.mem = s.mem) ∧
    (s.dev.state ≠ .ready ∨ s.dev.lowPowerEn = false ∨ s.lock.repeatable = true →
      exec .lowPowerEntry s = .next s) ∧
    (s.dev.state = .lowPower → s.dev.wakeFrom ≠ none → ∃ t, exec .wakeComplete s = .next (settle t) ∧
      t.dev.state = .ready ∧ t.selfRefresh = false ∧ t.cmds = s.cmds ∧ t.mem = s.mem ∧
      (∀ c, c < 16 → (getPower t c).railMv = railFor s c (getPower s c).m)) ∧
    (s.dev.state ≠ .lowPower ∨ s.dev.wakeFrom = none → exec .wakeComplete s = .next s) ∧
    (∀ ok, s.pins.powered = true → s.pins.modReset = false → s.dev.state = .booting → s.dev.bootFrom = none →
      exec (.bootStart ok) s = .next (settle (bootStart s ok))) ∧
    (s.warden.fwState ≠ .pending → s.warden.fallbackNext = false →
      let img := slotImage s.warden s.warden.activeSlot
      (bootStart s true).warden.bootCount = s.warden.bootCount + 1 ∧
        (if (verifyImage { s.warden with ownerKey := usedOwner s.warden } img).isNone then (bootStart s true).dev.firmware = true ∧
            (bootStart s true).sec.image = img ∧ (bootStart s true).warden.activeSlot = s.warden.activeSlot
          else s.warden.trial = false → slotValid s.warden (!s.warden.activeSlot) = false →
            (bootStart s true).dev.state = .fault)) ∧
    (∀ r : BootResult, s.dev.state = .booting → s.dev.firmware = true → r.ddrTrained = true → r.polderOk = true →
      r.coresOk ≠ 0 → s.warden.trial = false → s.pins.brake = false →
      ∃ t, exec (.bootComplete r) s = .next (settle t) ∧ t.dev.state = .ready ∧ t.mem = s.mem ∧
        (∀ c, c < 16 → r.coresOk.getLsbD c = false → coreIn t c = false) ∧
        (∀ c, c < 16 → r.coresOk.getLsbD c = true → getCore t c = getCore s c)) ∧
    (∀ r : BootResult, s.dev.state = .booting → s.dev.firmware = true → r.ddrTrained = true → r.polderOk = true →
      r.coresOk ≠ 0 → s.warden.trial = true → s.clk.ticks ≤ trialLimit s → s.pins.brake = false →
      ∃ t, exec (.bootComplete r) s = .next (settle t) ∧ t.dev.state = .ready ∧ t.mem = s.mem ∧ t.warden.trial = false ∧
        t.warden.fwState = .none ∧ t.warden.activeSlot = !s.warden.activeSlot ∧
        t.warden.minSvn = max s.warden.minSvn (imgSvn (slotImage s.warden (!s.warden.activeSlot))) ∧
        (∀ k, slotImage t.warden k = slotImage s.warden k) ∧
        slotValid t.warden (!s.warden.activeSlot) = slotValid s.warden (!s.warden.activeSlot) ∧
        slotValid t.warden s.warden.activeSlot = (slotValid s.warden s.warden.activeSlot &&
          decide (t.warden.minSvn ≤ imgSvn (slotImage s.warden s.warden.activeSlot)))) ∧
    (∀ r : BootResult, s.dev.state = .booting → s.dev.firmware = true → s.warden.trial = true → trialLimit s < s.clk.ticks →
      exec (.bootComplete r) s = .next (trialFails s)) ∧
    (s.warden.fwState = .pending → let img := slotImage s.warden (!s.warden.activeSlot)
      (bootStart s true).warden.bootCount = s.warden.bootCount + 1 ∧
        (if (verifyImage { s.warden with ownerKey := usedOwner s.warden } img).isNone then (bootStart s true).dev.firmware = true ∧
            (bootStart s true).sec.image = img ∧ (bootStart s true).warden.trial = true ∧
            (bootStart s true).warden.activeSlot = s.warden.activeSlot
          else (bootStart s true).pins.powered = false ∧ (bootStart s true).warden.fallbackDue = true)) ∧
    (∀ r : BootResult, s.dev.state = .booting → s.dev.firmware = true → (s.warden.trial = false ∨ s.clk.ticks ≤ trialLimit s) →
      r.ddrTrained = false ∨ r.polderOk = false ∨ r.coresOk = 0 →
      exec (.bootComplete r) s = .next (settle (bootFails s))) ∧
    (∀ r : BootResult, s.dev.state ≠ .booting ∨ s.dev.firmware = false → exec (.bootComplete r) s = .next s) ∧
    (s.warden.trial = true → s.dev.state = .booting → ∃ t, exec .trialTimeout s = .next t ∧ t.pins.powered = false ∧
      t.warden.fallbackDue = true ∧ t.warden.fwState = .none ∧ slotValid t.warden (!s.warden.activeSlot) = false ∧
      t.warden.activeSlot = s.warden.activeSlot) ∧
    (s.warden.trial = false ∨ s.dev.state ≠ .booting → exec .trialTimeout s = .next s) ∧
    (s.warden.fallbackDue = true → s.pins.vin = true → s.pins.powered = false → exec .fallbackPowerOn s = .next (powerOn s) ∧
      (powerOn s).pins.powered = true ∧ (powerOn s).dev.state = .booting ∧ (powerOn s).warden.fallbackDue = false) ∧
    (s.warden.fallbackDue = false → exec .fallbackPowerOn s = .next s)

/-- The warden's messages (R394, R395, R406, Table 15.11): each is answered while standby power is present; a bad request is
answered 3 and changes nothing; caps, power, ownership and the operator section change only when their checks pass; a signed
request consumes the challenge; the answer to an alert releases it. Without VIN nothing is answered. By the model's choice:
log entries 1 (an event that cannot arise), 2 (stops), 16 (what follows at once), 35 (the bytes of the history), 59 (a
relayed request waits), 60 (cycle of a chip that is off). -/
def Obligations.WardenAnswersItsMessages : Prop :=
  ∀ s : State,
    (s.pins.vin = true →
      (∃ t, exec .getStatus s = .next (settle t) ∧ t.warden.reply.1 = 0 ∧ t.warden.challenge ≠ [] ∧ t.cmds = s.cmds ∧
        (s.warden.challenge ≠ [] → t.warden.challenge = s.warden.challenge)) ∧
      (∃ t, exec .getTelemetry s = .next (settle t) ∧ t.warden.reply.1 = 0 ∧ t.free = s.free + 1 ∧ t.cmds = s.cmds) ∧
      (∀ p u : W16, (500 ≤ u.toNat ∧ u.toNat ≤ p.toNat ∧ p.toNat ≤ 1650) → ∃ t, exec (.setCaps p u) s = .next (settle t) ∧
        t.pump.wardenPeak = p ∧ t.pump.wardenSustained = u ∧ t.pump.capPeak = s.pump.capPeak ∧ t.warden.reply.1 = 0) ∧
      (∀ p u : W16, ¬ (500 ≤ u.toNat ∧ u.toNat ≤ p.toNat ∧ p.toNat ≤ 1650) →
        exec (.setCaps p u) s = .next (settle (replyWith s 3 []))) ∧
      (exec (.power .off) s = .next (settle (replyWith (if s.pins.powered then powerOff s else s) 0 []))) ∧
      (s.pins.powered = true → exec (.power .on) s = .next (settle (replyWith s 0 []))) ∧
      (s.pins.powered = false → exec (.power .on) s = .next (settle (powerRequest s))) ∧
      (exec (.power .cycle) s = .next (settle (powerRequest (if s.pins.powered then powerOff s else s)))) ∧
      (∀ off, off + 64 ≤ 2 ^ 25 →
        exec (.readHistory off) s = .next (settle (replyWith s 0 (fit 64 (s.warden.history.drop off))))) ∧
      (∀ off, ¬ off + 64 ≤ 2 ^ 25 → exec (.readHistory off) s = .next (settle (replyWith s 3 []))) ∧
      (∀ op req, s.dev.state = .ready ∨ s.dev.state = .active ∨ s.dev.state = .quiescing →
        (∀ r, mailboxDo s (mbxCode op) req = some r →
          (secBusy s = false → exec (.mailbox op req) s = .next (settle (replyWith r.2 0 r.1))) ∧
          (secBusy s = true → exec (.mailbox op req) s = .next (settle (mailboxWait s true (mbxCode op) req)))) ∧
        (mailboxDo s (mbxCode op) req = none → exec (.mailbox op req) s = .next (settle (replyWith s 3 [])))) ∧
      (∀ op req, s.dev.state = .standby ∨ s.dev.state = .booting ∨ s.dev.state = .lowPower ∨ s.dev.state = .fault →
        exec (.mailbox op req) s = .next (settle (replyWith s 1 []))) ∧
      (∀ r : OwnerReq, r.key.length = 1952 → r.imageSig.length = 3309 → s.warden.ownerKey = none →
        ∃ t, exec (.ownerRegister r) s = .next (settle t) ∧ t.warden.challenge = [] ∧
          (if ownsActive s r.key r.imageSig then t.warden.ownerKey = some r.key ∧ t.warden.reply.1 = 0 ∧
              slotValid t.warden (!s.warden.activeSlot) = false
            else t.warden.ownerKey = none ∧ t.warden.reply.1 = 2)) ∧
      (∀ r : OwnerReq, s.warden.ownerKey ≠ none → r.key.length = 1952 → r.imageSig.length = 3309 →
        exec (.ownerRegister r) s = .next (settle (replyWith (consumeChallenge s) 1 []))) ∧
      (∀ (r : OwnerReq) old, s.warden.ownerKey = some old → r.key = [] → r.ownerSig.length = 3309 →
        s.warden.challenge ≠ [] →
        ∃ t, exec (.ownerChange r) s = .next (settle t) ∧ t.warden.challenge = [] ∧
          (if mlVerify old ctxOwn (s.warden.challenge ++ List.replicate 64 0) r.ownerSig then
              t.warden.ownerKey = none ∧ t.warden.reply.1 = 0
            else t.warden.ownerKey = some old ∧ t.warden.reply.1 = 2)) ∧
      (∀ (r : OwnerReq) old, s.warden.ownerKey = some old → r.key.length = 1952 → r.imageSig.length = 3309 →
        r.ownerSig.length = 3309 → s.warden.challenge ≠ [] →
        ∃ t, exec (.ownerChange r) s = .next (settle t) ∧ t.warden.challenge = [] ∧
          (if mlVerify old ctxOwn (s.warden.challenge ++ digest64 r.key) r.ownerSig &&
              ownsActive s r.key r.imageSig then t.warden.ownerKey = some r.key ∧ t.warden.reply.1 = 0
            else t.warden.ownerKey = some old ∧ t.warden.reply.1 = 2)) ∧
      (∀ sect sig, sect.length ≤ 16384 → s.warden.ownerKey = none →
        ∃ t, exec (.configWrite sect sig) s = .next (settle t) ∧ t.rcd = s.rcd ∧ t.warden.challenge = [] ∧
          (if Config.operatorOk sect then t.warden.operator.body = sect ∧
              t.warden.operator.oldBody = s.warden.operator.used.1 ∧ t.warden.reply.1 = 0
            else t.warden.operator = s.warden.operator ∧ t.warden.reply.1 = 3)) ∧
      (∀ sect sig key, sect.length ≤ 16384 → s.warden.ownerKey = some key →
        ∃ t, exec (.configWrite sect sig) s = .next (settle t) ∧ t.rcd = s.rcd ∧ t.warden.challenge = [] ∧
          (if Config.operatorOk sect then
            (if s.warden.challenge ≠ [] ∧ mlVerify key ctxOwn (s.warden.challenge ++ sect) sig = true then
              t.warden.operator.body = sect ∧ t.warden.reply.1 = 0
            else t.warden.operator = s.warden.operator ∧ t.warden.reply.1 = 2)
           else t.warden.operator = s.warden.operator ∧ t.warden.reply.1 = 3)) ∧
      (exec .alertResponse s = .next (settle { s with warden := { s.warden with alert := false } }))) ∧
    (s.pins.vin = false → exec .getStatus s = .next s ∧ exec .getTelemetry s = .next s ∧
      (∀ p u, exec (.setCaps p u) s = .next s) ∧ (∀ op, exec (.power op) s = .next s) ∧
      (∀ o, exec (.readHistory o) s = .next s) ∧ (∀ op r, exec (.mailbox op r) s = .next s) ∧
      (∀ r, exec (.ownerRegister r) s = .next s) ∧ (∀ r, exec (.ownerChange r) s = .next s) ∧
      (∀ a b, exec (.configWrite a b) s = .next s) ∧ exec .alertResponse s = .next s)
end

