-- ==== Sys2Proof/Laws/Tab.lean ====
section
/-!
SUPPORT. What a table reads after a write, an erasure or a filter, and that these keep the keys rising.
-/
namespace Sys2Proof.Machine

variable {α : Type}

@[simp] theorem tabFind?_nil (m : Nat) : tabFind? ([] : Tab α) m = none := rfl

theorem tabFind?_tabSet (t : Tab α) (n m : Nat) (v : α) :
    tabFind? (tabSet t n v) m = if m = n then some v else tabFind? t m := by
  induction t with
  | nil => simp [tabSet, tabFind?]
  | cons p t ih =>
    obtain ⟨k, w⟩ := p
    simp only [tabSet]
    split
    · simp [tabFind?]
    · split
      · subst n; simp only [tabFind?]; by_cases h : m = k <;> simp [h]
      · simp only [tabFind?, ih]; by_cases h : m = k
        · subst m; rw [if_pos rfl, if_neg (by omega)]; simp
        · simp [h]

@[simp] theorem tabFind?_tabSet_self (t : Tab α) (n : Nat) (v : α) : tabFind? (tabSet t n v) n = some v := by
  simp [tabFind?_tabSet]

theorem tabFind?_tabSet_ne (t : Tab α) {n m : Nat} (v : α) (h : m ≠ n) : tabFind? (tabSet t n v) m = tabFind? t m := by
  simp [tabFind?_tabSet, h]

theorem tabGet_tabSet (t : Tab α) (d v : α) (n m : Nat) : tabGet (tabSet t n v) d m = if m = n then v else tabGet t d m := by
  simp only [tabGet, tabFind?_tabSet]; split <;> rfl

@[simp] theorem tabGet_tabSet_self (t : Tab α) (d v : α) (n : Nat) : tabGet (tabSet t n v) d n = v := by
  simp [tabGet_tabSet]

theorem tabGet_tabSet_ne (t : Tab α) (d v : α) {n m : Nat} (h : m ≠ n) : tabGet (tabSet t n v) d m = tabGet t d m := by
  simp [tabGet_tabSet, h]

theorem tabFind?_filter (t : Tab α) (p : Nat → Bool) (m : Nat) :
    tabFind? (t.filter (fun e => p e.1)) m = if p m then tabFind? t m else none := by
  induction t with
  | nil => simp
  | cons e t ih =>
    obtain ⟨k, w⟩ := e
    simp only [List.filter_cons]
    by_cases hk : m = k
    · subst m; by_cases hp : p k <;> simp [hp, tabFind?, ih]
    · by_cases hp : p k <;> simp [hp, tabFind?, ih, hk]

theorem tabFind?_tabErase (t : Tab α) (n m : Nat) : tabFind? (tabErase t n) m = if m = n then none else tabFind? t m := by
  rw [tabErase, tabFind?_filter t (fun k => k != n)]; by_cases h : m = n <;> simp [h]

@[simp] theorem tabFind?_tabErase_self (t : Tab α) (n : Nat) : tabFind? (tabErase t n) n = none := by
  simp [tabFind?_tabErase]

theorem tabFind?_map {β : Type} (t : Tab α) (f : α → β) (m : Nat) :
    tabFind? (t.map (fun p => (p.1, f p.2))) m = (tabFind? t m).map f := by
  induction t with
  | nil => rfl
  | cons e t ih => simp only [List.map_cons, tabFind?, ih]; split <;> rfl

theorem tabGet_map {β : Type} (t : Tab α) (f : α → β) (d : α) (m : Nat) :
    tabGet (t.map (fun p => (p.1, f p.2))) (f d) m = f (tabGet t d m) := by
  simp only [tabGet, tabFind?_map]; cases tabFind? t m <;> rfl

theorem mem_of_tabFind? {t : Tab α} {m : Nat} {v : α} (h : tabFind? t m = some v) : (m, v) ∈ t := by
  induction t with
  | nil => simp at h
  | cons e t ih =>
    obtain ⟨k, w⟩ := e
    simp only [tabFind?] at h
    split at h
    · next hk => subst hk; cases h; simp
    · exact List.mem_cons_of_mem _ (ih h)

theorem mem_tabSet {t : Tab α} {n : Nat} {v : α} {p : Nat × α} (h : p ∈ tabSet t n v) : p = (n, v) ∨ p ∈ t := by
  induction t with
  | nil => simpa [tabSet] using h
  | cons e t ih =>
    obtain ⟨k, w⟩ := e
    simp only [tabSet] at h
    split at h
    · simpa using h
    · split at h
      · rcases List.mem_cons.1 h with h | h
        · exact .inl h
        · exact .inr (List.mem_cons_of_mem _ h)
      · rcases List.mem_cons.1 h with h | h
        · exact .inr (h ▸ List.mem_cons_self)
        · exact (ih h).imp_right (List.mem_cons_of_mem _)

theorem tabSorted_iff (t : Tab α) : tabSorted t = true ↔ t.Pairwise (fun a b => a.1 < b.1) := by simp [tabSorted]

theorem tabSorted_tabSet {t : Tab α} (n : Nat) (v : α) (h : tabSorted t = true) : tabSorted (tabSet t n v) = true := by
  rw [tabSorted_iff] at *
  induction t with
  | nil => simp [tabSet]
  | cons e t ih =>
    obtain ⟨k, w⟩ := e
    rw [List.pairwise_cons] at h
    simp only [tabSet]
    split
    · next hn =>
      refine List.pairwise_cons.2 ⟨fun b hb => ?_, List.pairwise_cons.2 h⟩
      rcases List.mem_cons.1 hb with rfl | hb
      · exact hn
      · exact Nat.lt_trans hn (h.1 b hb)
    · split
      · next hn => subst hn; exact List.pairwise_cons.2 ⟨h.1, h.2⟩
      · refine List.pairwise_cons.2 ⟨fun b hb => ?_, ih h.2⟩
        rcases mem_tabSet hb with rfl | hb
        · show k < n; omega
        · exact h.1 b hb

theorem tabSorted_filter {t : Tab α} (p : Nat × α → Bool) (h : tabSorted t = true) : tabSorted (t.filter p) = true := by
  rw [tabSorted_iff] at *; exact h.filter _

theorem tabSorted_tabErase {t : Tab α} (n : Nat) (h : tabSorted t = true) : tabSorted (tabErase t n) = true :=
  tabSorted_filter _ h

end Sys2Proof.Machine
end

