-- ==== Sys2Proof/Laws/State.lean ====
section
/-!
SUPPORT. What each shared update of the state leaves in every field that it does not write, and what the accessors of the
tables read after it.
-/
namespace Sys2Proof.Machine

@[simp] theorem putInlet_dev (s : State) (i : Nat) (x : Inlet) : (putInlet s i x).dev = s.dev := rfl
@[simp] theorem putInlet_outfalls (s : State) (i : Nat) (x : Inlet) : (putInlet s i x).outfalls = s.outfalls := rfl
@[simp] theorem putInlet_irq (s : State) (i : Nat) (x : Inlet) : (putInlet s i x).irq = s.irq := rfl
@[simp] theorem putInlet_ap (s : State) (i : Nat) (x : Inlet) : (putInlet s i x).ap = s.ap := rfl
@[simp] theorem putInlet_clk (s : State) (i : Nat) (x : Inlet) : (putInlet s i x).clk = s.clk := rfl
@[simp] theorem putInlet_events (s : State) (i : Nat) (x : Inlet) : (putInlet s i x).events = s.events := rfl
@[simp] theorem putInlet_cmds (s : State) (i : Nat) (x : Inlet) : (putInlet s i x).cmds = s.cmds := rfl
@[simp] theorem putInlet_mem (s : State) (i : Nat) (x : Inlet) : (putInlet s i x).mem = s.mem := rfl
@[simp] theorem putInlet_host (s : State) (i : Nat) (x : Inlet) : (putInlet s i x).host = s.host := rfl
@[simp] theorem putInlet_msix (s : State) (i : Nat) (x : Inlet) : (putInlet s i x).msix = s.msix := rfl
@[simp] theorem putInlet_wire (s : State) (i : Nat) (x : Inlet) : (putInlet s i x).wire = s.wire := rfl
@[simp] theorem putInlet_slots (s : State) (i : Nat) (x : Inlet) : (putInlet s i x).slots = s.slots := rfl
@[simp] theorem putInlet_sluices (s : State) (i : Nat) (x : Inlet) : (putInlet s i x).sluices = s.sluices := rfl
@[simp] theorem putInlet_weir (s : State) (i : Nat) (x : Inlet) : (putInlet s i x).weir = s.weir := rfl
@[simp] theorem putInlet_ddr (s : State) (i : Nat) (x : Inlet) : (putInlet s i x).ddr = s.ddr := rfl
@[simp] theorem putInlet_selfRefresh (s : State) (i : Nat) (x : Inlet) : (putInlet s i x).selfRefresh = s.selfRefresh := rfl
@[simp] theorem putInlet_cores (s : State) (i : Nat) (x : Inlet) : (putInlet s i x).cores = s.cores := rfl
@[simp] theorem putInlet_ports (s : State) (i : Nat) (x : Inlet) : (putInlet s i x).ports = s.ports := rfl
@[simp] theorem putInlet_net (s : State) (i : Nat) (x : Inlet) : (putInlet s i x).net = s.net := rfl
@[simp] theorem putInlet_channels (s : State) (i : Nat) (x : Inlet) : (putInlet s i x).channels = s.channels := rfl
@[simp] theorem putInlet_qps (s : State) (i : Nat) (x : Inlet) : (putInlet s i x).qps = s.qps := rfl
@[simp] theorem putInlet_dir (s : State) (i : Nat) (x : Inlet) : (putInlet s i x).dir = s.dir := rfl
@[simp] theorem putInlet_tide (s : State) (i : Nat) (x : Inlet) : (putInlet s i x).tide = s.tide := rfl
@[simp] theorem putInlet_lock (s : State) (i : Nat) (x : Inlet) : (putInlet s i x).lock = s.lock := rfl
@[simp] theorem putInlet_pump (s : State) (i : Nat) (x : Inlet) : (putInlet s i x).pump = s.pump := rfl
@[simp] theorem putInlet_power (s : State) (i : Nat) (x : Inlet) : (putInlet s i x).power = s.power := rfl
@[simp] theorem putInlet_tele (s : State) (i : Nat) (x : Inlet) : (putInlet s i x).tele = s.tele := rfl
@[simp] theorem putInlet_err (s : State) (i : Nat) (x : Inlet) : (putInlet s i x).err = s.err := rfl
@[simp] theorem putInlet_sec (s : State) (i : Nat) (x : Inlet) : (putInlet s i x).sec = s.sec := rfl
@[simp] theorem putInlet_warden (s : State) (i : Nat) (x : Inlet) : (putInlet s i x).warden = s.warden := rfl
@[simp] theorem putInlet_rcd (s : State) (i : Nat) (x : Inlet) : (putInlet s i x).rcd = s.rcd := rfl
@[simp] theorem putInlet_stalls (s : State) (i : Nat) (x : Inlet) : (putInlet s i x).stalls = s.stalls := rfl
@[simp] theorem putInlet_pci (s : State) (i : Nat) (x : Inlet) : (putInlet s i x).pci = s.pci := rfl
@[simp] theorem putInlet_pins (s : State) (i : Nat) (x : Inlet) : (putInlet s i x).pins = s.pins := rfl
@[simp] theorem putInlet_free (s : State) (i : Nat) (x : Inlet) : (putInlet s i x).free = s.free := rfl
@[simp] theorem putInlet_pending (s : State) (i : Nat) (x : Inlet) : (putInlet s i x).pending = s.pending := rfl
@[simp] theorem putOutfall_dev (s : State) (i : Nat) (x : Outfall) : (putOutfall s i x).dev = s.dev := rfl
@[simp] theorem putOutfall_inlets (s : State) (i : Nat) (x : Outfall) : (putOutfall s i x).inlets = s.inlets := rfl
@[simp] theorem putOutfall_irq (s : State) (i : Nat) (x : Outfall) : (putOutfall s i x).irq = s.irq := rfl
@[simp] theorem putOutfall_ap (s : State) (i : Nat) (x : Outfall) : (putOutfall s i x).ap = s.ap := rfl
@[simp] theorem putOutfall_clk (s : State) (i : Nat) (x : Outfall) : (putOutfall s i x).clk = s.clk := rfl
@[simp] theorem putOutfall_events (s : State) (i : Nat) (x : Outfall) : (putOutfall s i x).events = s.events := rfl
@[simp] theorem putOutfall_cmds (s : State) (i : Nat) (x : Outfall) : (putOutfall s i x).cmds = s.cmds := rfl
@[simp] theorem putOutfall_mem (s : State) (i : Nat) (x : Outfall) : (putOutfall s i x).mem = s.mem := rfl
@[simp] theorem putOutfall_host (s : State) (i : Nat) (x : Outfall) : (putOutfall s i x).host = s.host := rfl
@[simp] theorem putOutfall_msix (s : State) (i : Nat) (x : Outfall) : (putOutfall s i x).msix = s.msix := rfl
@[simp] theorem putOutfall_wire (s : State) (i : Nat) (x : Outfall) : (putOutfall s i x).wire = s.wire := rfl
@[simp] theorem putOutfall_slots (s : State) (i : Nat) (x : Outfall) : (putOutfall s i x).slots = s.slots := rfl
@[simp] theorem putOutfall_sluices (s : State) (i : Nat) (x : Outfall) : (putOutfall s i x).sluices = s.sluices := rfl
@[simp] theorem putOutfall_weir (s : State) (i : Nat) (x : Outfall) : (putOutfall s i x).weir = s.weir := rfl
@[simp] theorem putOutfall_ddr (s : State) (i : Nat) (x : Outfall) : (putOutfall s i x).ddr = s.ddr := rfl
@[simp] theorem putOutfall_selfRefresh (s : State) (i : Nat) (x : Outfall) : (putOutfall s i x).selfRefresh = s.selfRefresh := rfl
@[simp] theorem putOutfall_cores (s : State) (i : Nat) (x : Outfall) : (putOutfall s i x).cores = s.cores := rfl
@[simp] theorem putOutfall_ports (s : State) (i : Nat) (x : Outfall) : (putOutfall s i x).ports = s.ports := rfl
@[simp] theorem putOutfall_net (s : State) (i : Nat) (x : Outfall) : (putOutfall s i x).net = s.net := rfl
@[simp] theorem putOutfall_channels (s : State) (i : Nat) (x : Outfall) : (putOutfall s i x).channels = s.channels := rfl
@[simp] theorem putOutfall_qps (s : State) (i : Nat) (x : Outfall) : (putOutfall s i x).qps = s.qps := rfl
@[simp] theorem putOutfall_dir (s : State) (i : Nat) (x : Outfall) : (putOutfall s i x).dir = s.dir := rfl
@[simp] theorem putOutfall_tide (s : State) (i : Nat) (x : Outfall) : (putOutfall s i x).tide = s.tide := rfl
@[simp] theorem putOutfall_lock (s : State) (i : Nat) (x : Outfall) : (putOutfall s i x).lock = s.lock := rfl
@[simp] theorem putOutfall_pump (s : State) (i : Nat) (x : Outfall) : (putOutfall s i x).pump = s.pump := rfl
@[simp] theorem putOutfall_power (s : State) (i : Nat) (x : Outfall) : (putOutfall s i x).power = s.power := rfl
@[simp] theorem putOutfall_tele (s : State) (i : Nat) (x : Outfall) : (putOutfall s i x).tele = s.tele := rfl
@[simp] theorem putOutfall_err (s : State) (i : Nat) (x : Outfall) : (putOutfall s i x).err = s.err := rfl
@[simp] theorem putOutfall_sec (s : State) (i : Nat) (x : Outfall) : (putOutfall s i x).sec = s.sec := rfl
@[simp] theorem putOutfall_warden (s : State) (i : Nat) (x : Outfall) : (putOutfall s i x).warden = s.warden := rfl
@[simp] theorem putOutfall_rcd (s : State) (i : Nat) (x : Outfall) : (putOutfall s i x).rcd = s.rcd := rfl
@[simp] theorem putOutfall_stalls (s : State) (i : Nat) (x : Outfall) : (putOutfall s i x).stalls = s.stalls := rfl
@[simp] theorem putOutfall_pci (s : State) (i : Nat) (x : Outfall) : (putOutfall s i x).pci = s.pci := rfl
@[simp] theorem putOutfall_pins (s : State) (i : Nat) (x : Outfall) : (putOutfall s i x).pins = s.pins := rfl
@[simp] theorem putOutfall_free (s : State) (i : Nat) (x : Outfall) : (putOutfall s i x).free = s.free := rfl
@[simp] theorem putOutfall_pending (s : State) (i : Nat) (x : Outfall) : (putOutfall s i x).pending = s.pending := rfl
@[simp] theorem putSlot_dev (s : State) (i : Nat) (x : Slot) : (putSlot s i x).dev = s.dev := rfl
@[simp] theorem putSlot_inlets (s : State) (i : Nat) (x : Slot) : (putSlot s i x).inlets = s.inlets := rfl
@[simp] theorem putSlot_outfalls (s : State) (i : Nat) (x : Slot) : (putSlot s i x).outfalls = s.outfalls := rfl
@[simp] theorem putSlot_irq (s : State) (i : Nat) (x : Slot) : (putSlot s i x).irq = s.irq := rfl
@[simp] theorem putSlot_ap (s : State) (i : Nat) (x : Slot) : (putSlot s i x).ap = s.ap := rfl
@[simp] theorem putSlot_clk (s : State) (i : Nat) (x : Slot) : (putSlot s i x).clk = s.clk := rfl
@[simp] theorem putSlot_events (s : State) (i : Nat) (x : Slot) : (putSlot s i x).events = s.events := rfl
@[simp] theorem putSlot_cmds (s : State) (i : Nat) (x : Slot) : (putSlot s i x).cmds = s.cmds := rfl
@[simp] theorem putSlot_mem (s : State) (i : Nat) (x : Slot) : (putSlot s i x).mem = s.mem := rfl
@[simp] theorem putSlot_host (s : State) (i : Nat) (x : Slot) : (putSlot s i x).host = s.host := rfl
@[simp] theorem putSlot_msix (s : State) (i : Nat) (x : Slot) : (putSlot s i x).msix = s.msix := rfl
@[simp] theorem putSlot_wire (s : State) (i : Nat) (x : Slot) : (putSlot s i x).wire = s.wire := rfl
@[simp] theorem putSlot_sluices (s : State) (i : Nat) (x : Slot) : (putSlot s i x).sluices = s.sluices := rfl
@[simp] theorem putSlot_weir (s : State) (i : Nat) (x : Slot) : (putSlot s i x).weir = s.weir := rfl
@[simp] theorem putSlot_ddr (s : State) (i : Nat) (x : Slot) : (putSlot s i x).ddr = s.ddr := rfl
@[simp] theorem putSlot_selfRefresh (s : State) (i : Nat) (x : Slot) : (putSlot s i x).selfRefresh = s.selfRefresh := rfl
@[simp] theorem putSlot_cores (s : State) (i : Nat) (x : Slot) : (putSlot s i x).cores = s.cores := rfl
@[simp] theorem putSlot_ports (s : State) (i : Nat) (x : Slot) : (putSlot s i x).ports = s.ports := rfl
@[simp] theorem putSlot_net (s : State) (i : Nat) (x : Slot) : (putSlot s i x).net = s.net := rfl
@[simp] theorem putSlot_channels (s : State) (i : Nat) (x : Slot) : (putSlot s i x).channels = s.channels := rfl
@[simp] theorem putSlot_qps (s : State) (i : Nat) (x : Slot) : (putSlot s i x).qps = s.qps := rfl
@[simp] theorem putSlot_dir (s : State) (i : Nat) (x : Slot) : (putSlot s i x).dir = s.dir := rfl
@[simp] theorem putSlot_tide (s : State) (i : Nat) (x : Slot) : (putSlot s i x).tide = s.tide := rfl
@[simp] theorem putSlot_lock (s : State) (i : Nat) (x : Slot) : (putSlot s i x).lock = s.lock := rfl
@[simp] theorem putSlot_pump (s : State) (i : Nat) (x : Slot) : (putSlot s i x).pump = s.pump := rfl
@[simp] theorem putSlot_power (s : State) (i : Nat) (x : Slot) : (putSlot s i x).power = s.power := rfl
@[simp] theorem putSlot_tele (s : State) (i : Nat) (x : Slot) : (putSlot s i x).tele = s.tele := rfl
@[simp] theorem putSlot_err (s : State) (i : Nat) (x : Slot) : (putSlot s i x).err = s.err := rfl
@[simp] theorem putSlot_sec (s : State) (i : Nat) (x : Slot) : (putSlot s i x).sec = s.sec := rfl
@[simp] theorem putSlot_warden (s : State) (i : Nat) (x : Slot) : (putSlot s i x).warden = s.warden := rfl
@[simp] theorem putSlot_rcd (s : State) (i : Nat) (x : Slot) : (putSlot s i x).rcd = s.rcd := rfl
@[simp] theorem putSlot_stalls (s : State) (i : Nat) (x : Slot) : (putSlot s i x).stalls = s.stalls := rfl
@[simp] theorem putSlot_pci (s : State) (i : Nat) (x : Slot) : (putSlot s i x).pci = s.pci := rfl
@[simp] theorem putSlot_pins (s : State) (i : Nat) (x : Slot) : (putSlot s i x).pins = s.pins := rfl
@[simp] theorem putSlot_free (s : State) (i : Nat) (x : Slot) : (putSlot s i x).free = s.free := rfl
@[simp] theorem putSlot_pending (s : State) (i : Nat) (x : Slot) : (putSlot s i x).pending = s.pending := rfl
@[simp] theorem putSluice_dev (s : State) (i : Nat) (x : Sluice) : (putSluice s i x).dev = s.dev := rfl
@[simp] theorem putSluice_inlets (s : State) (i : Nat) (x : Sluice) : (putSluice s i x).inlets = s.inlets := rfl
@[simp] theorem putSluice_outfalls (s : State) (i : Nat) (x : Sluice) : (putSluice s i x).outfalls = s.outfalls := rfl
@[simp] theorem putSluice_irq (s : State) (i : Nat) (x : Sluice) : (putSluice s i x).irq = s.irq := rfl
@[simp] theorem putSluice_ap (s : State) (i : Nat) (x : Sluice) : (putSluice s i x).ap = s.ap := rfl
@[simp] theorem putSluice_clk (s : State) (i : Nat) (x : Sluice) : (putSluice s i x).clk = s.clk := rfl
@[simp] theorem putSluice_events (s : State) (i : Nat) (x : Sluice) : (putSluice s i x).events = s.events := rfl
@[simp] theorem putSluice_cmds (s : State) (i : Nat) (x : Sluice) : (putSluice s i x).cmds = s.cmds := rfl
@[simp] theorem putSluice_mem (s : State) (i : Nat) (x : Sluice) : (putSluice s i x).mem = s.mem := rfl
@[simp] theorem putSluice_host (s : State) (i : Nat) (x : Sluice) : (putSluice s i x).host = s.host := rfl
@[simp] theorem putSluice_msix (s : State) (i : Nat) (x : Sluice) : (putSluice s i x).msix = s.msix := rfl
@[simp] theorem putSluice_wire (s : State) (i : Nat) (x : Sluice) : (putSluice s i x).wire = s.wire := rfl
@[simp] theorem putSluice_slots (s : State) (i : Nat) (x : Sluice) : (putSluice s i x).slots = s.slots := rfl
@[simp] theorem putSluice_weir (s : State) (i : Nat) (x : Sluice) : (putSluice s i x).weir = s.weir := rfl
@[simp] theorem putSluice_ddr (s : State) (i : Nat) (x : Sluice) : (putSluice s i x).ddr = s.ddr := rfl
@[simp] theorem putSluice_selfRefresh (s : State) (i : Nat) (x : Sluice) : (putSluice s i x).selfRefresh = s.selfRefresh := rfl
@[simp] theorem putSluice_cores (s : State) (i : Nat) (x : Sluice) : (putSluice s i x).cores = s.cores := rfl
@[simp] theorem putSluice_ports (s : State) (i : Nat) (x : Sluice) : (putSluice s i x).ports = s.ports := rfl
@[simp] theorem putSluice_net (s : State) (i : Nat) (x : Sluice) : (putSluice s i x).net = s.net := rfl
@[simp] theorem putSluice_channels (s : State) (i : Nat) (x : Sluice) : (putSluice s i x).channels = s.channels := rfl
@[simp] theorem putSluice_qps (s : State) (i : Nat) (x : Sluice) : (putSluice s i x).qps = s.qps := rfl
@[simp] theorem putSluice_dir (s : State) (i : Nat) (x : Sluice) : (putSluice s i x).dir = s.dir := rfl
@[simp] theorem putSluice_tide (s : State) (i : Nat) (x : Sluice) : (putSluice s i x).tide = s.tide := rfl
@[simp] theorem putSluice_lock (s : State) (i : Nat) (x : Sluice) : (putSluice s i x).lock = s.lock := rfl
@[simp] theorem putSluice_pump (s : State) (i : Nat) (x : Sluice) : (putSluice s i x).pump = s.pump := rfl
@[simp] theorem putSluice_power (s : State) (i : Nat) (x : Sluice) : (putSluice s i x).power = s.power := rfl
@[simp] theorem putSluice_tele (s : State) (i : Nat) (x : Sluice) : (putSluice s i x).tele = s.tele := rfl
@[simp] theorem putSluice_err (s : State) (i : Nat) (x : Sluice) : (putSluice s i x).err = s.err := rfl
@[simp] theorem putSluice_sec (s : State) (i : Nat) (x : Sluice) : (putSluice s i x).sec = s.sec := rfl
@[simp] theorem putSluice_warden (s : State) (i : Nat) (x : Sluice) : (putSluice s i x).warden = s.warden := rfl
@[simp] theorem putSluice_rcd (s : State) (i : Nat) (x : Sluice) : (putSluice s i x).rcd = s.rcd := rfl
@[simp] theorem putSluice_stalls (s : State) (i : Nat) (x : Sluice) : (putSluice s i x).stalls = s.stalls := rfl
@[simp] theorem putSluice_pci (s : State) (i : Nat) (x : Sluice) : (putSluice s i x).pci = s.pci := rfl
@[simp] theorem putSluice_pins (s : State) (i : Nat) (x : Sluice) : (putSluice s i x).pins = s.pins := rfl
@[simp] theorem putSluice_free (s : State) (i : Nat) (x : Sluice) : (putSluice s i x).free = s.free := rfl
@[simp] theorem putSluice_pending (s : State) (i : Nat) (x : Sluice) : (putSluice s i x).pending = s.pending := rfl
@[simp] theorem putCore_dev (s : State) (i : Nat) (x : Core) : (putCore s i x).dev = s.dev := rfl
@[simp] theorem putCore_inlets (s : State) (i : Nat) (x : Core) : (putCore s i x).inlets = s.inlets := rfl
@[simp] theorem putCore_outfalls (s : State) (i : Nat) (x : Core) : (putCore s i x).outfalls = s.outfalls := rfl
@[simp] theorem putCore_irq (s : State) (i : Nat) (x : Core) : (putCore s i x).irq = s.irq := rfl
@[simp] theorem putCore_ap (s : State) (i : Nat) (x : Core) : (putCore s i x).ap = s.ap := rfl
@[simp] theorem putCore_clk (s : State) (i : Nat) (x : Core) : (putCore s i x).clk = s.clk := rfl
@[simp] theorem putCore_events (s : State) (i : Nat) (x : Core) : (putCore s i x).events = s.events := rfl
@[simp] theorem putCore_cmds (s : State) (i : Nat) (x : Core) : (putCore s i x).cmds = s.cmds := rfl
@[simp] theorem putCore_mem (s : State) (i : Nat) (x : Core) : (putCore s i x).mem = s.mem := rfl
@[simp] theorem putCore_host (s : State) (i : Nat) (x : Core) : (putCore s i x).host = s.host := rfl
@[simp] theorem putCore_msix (s : State) (i : Nat) (x : Core) : (putCore s i x).msix = s.msix := rfl
@[simp] theorem putCore_wire (s : State) (i : Nat) (x : Core) : (putCore s i x).wire = s.wire := rfl
@[simp] theorem putCore_slots (s : State) (i : Nat) (x : Core) : (putCore s i x).slots = s.slots := rfl
@[simp] theorem putCore_sluices (s : State) (i : Nat) (x : Core) : (putCore s i x).sluices = s.sluices := rfl
@[simp] theorem putCore_weir (s : State) (i : Nat) (x : Core) : (putCore s i x).weir = s.weir := rfl
@[simp] theorem putCore_ddr (s : State) (i : Nat) (x : Core) : (putCore s i x).ddr = s.ddr := rfl
@[simp] theorem putCore_selfRefresh (s : State) (i : Nat) (x : Core) : (putCore s i x).selfRefresh = s.selfRefresh := rfl
@[simp] theorem putCore_ports (s : State) (i : Nat) (x : Core) : (putCore s i x).ports = s.ports := rfl
@[simp] theorem putCore_net (s : State) (i : Nat) (x : Core) : (putCore s i x).net = s.net := rfl
@[simp] theorem putCore_channels (s : State) (i : Nat) (x : Core) : (putCore s i x).channels = s.channels := rfl
@[simp] theorem putCore_qps (s : State) (i : Nat) (x : Core) : (putCore s i x).qps = s.qps := rfl
@[simp] theorem putCore_dir (s : State) (i : Nat) (x : Core) : (putCore s i x).dir = s.dir := rfl
@[simp] theorem putCore_tide (s : State) (i : Nat) (x : Core) : (putCore s i x).tide = s.tide := rfl
@[simp] theorem putCore_lock (s : State) (i : Nat) (x : Core) : (putCore s i x).lock = s.lock := rfl
@[simp] theorem putCore_pump (s : State) (i : Nat) (x : Core) : (putCore s i x).pump = s.pump := rfl
@[simp] theorem putCore_power (s : State) (i : Nat) (x : Core) : (putCore s i x).power = s.power := rfl
@[simp] theorem putCore_tele (s : State) (i : Nat) (x : Core) : (putCore s i x).tele = s.tele := rfl
@[simp] theorem putCore_err (s : State) (i : Nat) (x : Core) : (putCore s i x).err = s.err := rfl
@[simp] theorem putCore_sec (s : State) (i : Nat) (x : Core) : (putCore s i x).sec = s.sec := rfl
@[simp] theorem putCore_warden (s : State) (i : Nat) (x : Core) : (putCore s i x).warden = s.warden := rfl
@[simp] theorem putCore_rcd (s : State) (i : Nat) (x : Core) : (putCore s i x).rcd = s.rcd := rfl
@[simp] theorem putCore_stalls (s : State) (i : Nat) (x : Core) : (putCore s i x).stalls = s.stalls := rfl
@[simp] theorem putCore_pci (s : State) (i : Nat) (x : Core) : (putCore s i x).pci = s.pci := rfl
@[simp] theorem putCore_pins (s : State) (i : Nat) (x : Core) : (putCore s i x).pins = s.pins := rfl
@[simp] theorem putCore_free (s : State) (i : Nat) (x : Core) : (putCore s i x).free = s.free := rfl
@[simp] theorem putCore_pending (s : State) (i : Nat) (x : Core) : (putCore s i x).pending = s.pending := rfl
@[simp] theorem putPort_dev (s : State) (i : Nat) (x : Port) : (putPort s i x).dev = s.dev := rfl
@[simp] theorem putPort_inlets (s : State) (i : Nat) (x : Port) : (putPort s i x).inlets = s.inlets := rfl
@[simp] theorem putPort_outfalls (s : State) (i : Nat) (x : Port) : (putPort s i x).outfalls = s.outfalls := rfl
@[simp] theorem putPort_irq (s : State) (i : Nat) (x : Port) : (putPort s i x).irq = s.irq := rfl
@[simp] theorem putPort_ap (s : State) (i : Nat) (x : Port) : (putPort s i x).ap = s.ap := rfl
@[simp] theorem putPort_clk (s : State) (i : Nat) (x : Port) : (putPort s i x).clk = s.clk := rfl
@[simp] theorem putPort_events (s : State) (i : Nat) (x : Port) : (putPort s i x).events = s.events := rfl
@[simp] theorem putPort_cmds (s : State) (i : Nat) (x : Port) : (putPort s i x).cmds = s.cmds := rfl
@[simp] theorem putPort_mem (s : State) (i : Nat) (x : Port) : (putPort s i x).mem = s.mem := rfl
@[simp] theorem putPort_host (s : State) (i : Nat) (x : Port) : (putPort s i x).host = s.host := rfl
@[simp] theorem putPort_msix (s : State) (i : Nat) (x : Port) : (putPort s i x).msix = s.msix := rfl
@[simp] theorem putPort_wire (s : State) (i : Nat) (x : Port) : (putPort s i x).wire = s.wire := rfl
@[simp] theorem putPort_slots (s : State) (i : Nat) (x : Port) : (putPort s i x).slots = s.slots := rfl
@[simp] theorem putPort_sluices (s : State) (i : Nat) (x : Port) : (putPort s i x).sluices = s.sluices := rfl
@[simp] theorem putPort_weir (s : State) (i : Nat) (x : Port) : (putPort s i x).weir = s.weir := rfl
@[simp] theorem putPort_ddr (s : State) (i : Nat) (x : Port) : (putPort s i x).ddr = s.ddr := rfl
@[simp] theorem putPort_selfRefresh (s : State) (i : Nat) (x : Port) : (putPort s i x).selfRefresh = s.selfRefresh := rfl
@[simp] theorem putPort_cores (s : State) (i : Nat) (x : Port) : (putPort s i x).cores = s.cores := rfl
@[simp] theorem putPort_net (s : State) (i : Nat) (x : Port) : (putPort s i x).net = s.net := rfl
@[simp] theorem putPort_channels (s : State) (i : Nat) (x : Port) : (putPort s i x).channels = s.channels := rfl
@[simp] theorem putPort_qps (s : State) (i : Nat) (x : Port) : (putPort s i x).qps = s.qps := rfl
@[simp] theorem putPort_dir (s : State) (i : Nat) (x : Port) : (putPort s i x).dir = s.dir := rfl
@[simp] theorem putPort_tide (s : State) (i : Nat) (x : Port) : (putPort s i x).tide = s.tide := rfl
@[simp] theorem putPort_lock (s : State) (i : Nat) (x : Port) : (putPort s i x).lock = s.lock := rfl
@[simp] theorem putPort_pump (s : State) (i : Nat) (x : Port) : (putPort s i x).pump = s.pump := rfl
@[simp] theorem putPort_power (s : State) (i : Nat) (x : Port) : (putPort s i x).power = s.power := rfl
@[simp] theorem putPort_tele (s : State) (i : Nat) (x : Port) : (putPort s i x).tele = s.tele := rfl
@[simp] theorem putPort_err (s : State) (i : Nat) (x : Port) : (putPort s i x).err = s.err := rfl
@[simp] theorem putPort_sec (s : State) (i : Nat) (x : Port) : (putPort s i x).sec = s.sec := rfl
@[simp] theorem putPort_warden (s : State) (i : Nat) (x : Port) : (putPort s i x).warden = s.warden := rfl
@[simp] theorem putPort_rcd (s : State) (i : Nat) (x : Port) : (putPort s i x).rcd = s.rcd := rfl
@[simp] theorem putPort_stalls (s : State) (i : Nat) (x : Port) : (putPort s i x).stalls = s.stalls := rfl
@[simp] theorem putPort_pci (s : State) (i : Nat) (x : Port) : (putPort s i x).pci = s.pci := rfl
@[simp] theorem putPort_pins (s : State) (i : Nat) (x : Port) : (putPort s i x).pins = s.pins := rfl
@[simp] theorem putPort_free (s : State) (i : Nat) (x : Port) : (putPort s i x).free = s.free := rfl
@[simp] theorem putPort_pending (s : State) (i : Nat) (x : Port) : (putPort s i x).pending = s.pending := rfl
@[simp] theorem putChannel_dev (s : State) (i : Nat) (x : Channel) : (putChannel s i x).dev = s.dev := rfl
@[simp] theorem putChannel_inlets (s : State) (i : Nat) (x : Channel) : (putChannel s i x).inlets = s.inlets := rfl
@[simp] theorem putChannel_outfalls (s : State) (i : Nat) (x : Channel) : (putChannel s i x).outfalls = s.outfalls := rfl
@[simp] theorem putChannel_irq (s : State) (i : Nat) (x : Channel) : (putChannel s i x).irq = s.irq := rfl
@[simp] theorem putChannel_ap (s : State) (i : Nat) (x : Channel) : (putChannel s i x).ap = s.ap := rfl
@[simp] theorem putChannel_clk (s : State) (i : Nat) (x : Channel) : (putChannel s i x).clk = s.clk := rfl
@[simp] theorem putChannel_events (s : State) (i : Nat) (x : Channel) : (putChannel s i x).events = s.events := rfl
@[simp] theorem putChannel_cmds (s : State) (i : Nat) (x : Channel) : (putChannel s i x).cmds = s.cmds := rfl
@[simp] theorem putChannel_mem (s : State) (i : Nat) (x : Channel) : (putChannel s i x).mem = s.mem := rfl
@[simp] theorem putChannel_host (s : State) (i : Nat) (x : Channel) : (putChannel s i x).host = s.host := rfl
@[simp] theorem putChannel_msix (s : State) (i : Nat) (x : Channel) : (putChannel s i x).msix = s.msix := rfl
@[simp] theorem putChannel_wire (s : State) (i : Nat) (x : Channel) : (putChannel s i x).wire = s.wire := rfl
@[simp] theorem putChannel_slots (s : State) (i : Nat) (x : Channel) : (putChannel s i x).slots = s.slots := rfl
@[simp] theorem putChannel_sluices (s : State) (i : Nat) (x : Channel) : (putChannel s i x).sluices = s.sluices := rfl
@[simp] theorem putChannel_weir (s : State) (i : Nat) (x : Channel) : (putChannel s i x).weir = s.weir := rfl
@[simp] theorem putChannel_ddr (s : State) (i : Nat) (x : Channel) : (putChannel s i x).ddr = s.ddr := rfl
@[simp] theorem putChannel_selfRefresh (s : State) (i : Nat) (x : Channel) : (putChannel s i x).selfRefresh = s.selfRefresh := rfl
@[simp] theorem putChannel_cores (s : State) (i : Nat) (x : Channel) : (putChannel s i x).cores = s.cores := rfl
@[simp] theorem putChannel_ports (s : State) (i : Nat) (x : Channel) : (putChannel s i x).ports = s.ports := rfl
@[simp] theorem putChannel_net (s : State) (i : Nat) (x : Channel) : (putChannel s i x).net = s.net := rfl
@[simp] theorem putChannel_qps (s : State) (i : Nat) (x : Channel) : (putChannel s i x).qps = s.qps := rfl
@[simp] theorem putChannel_dir (s : State) (i : Nat) (x : Channel) : (putChannel s i x).dir = s.dir := rfl
@[simp] theorem putChannel_tide (s : State) (i : Nat) (x : Channel) : (putChannel s i x).tide = s.tide := rfl
@[simp] theorem putChannel_lock (s : State) (i : Nat) (x : Channel) : (putChannel s i x).lock = s.lock := rfl
@[simp] theorem putChannel_pump (s : State) (i : Nat) (x : Channel) : (putChannel s i x).pump = s.pump := rfl
@[simp] theorem putChannel_power (s : State) (i : Nat) (x : Channel) : (putChannel s i x).power = s.power := rfl
@[simp] theorem putChannel_tele (s : State) (i : Nat) (x : Channel) : (putChannel s i x).tele = s.tele := rfl
@[simp] theorem putChannel_err (s : State) (i : Nat) (x : Channel) : (putChannel s i x).err = s.err := rfl
@[simp] theorem putChannel_sec (s : State) (i : Nat) (x : Channel) : (putChannel s i x).sec = s.sec := rfl
@[simp] theorem putChannel_warden (s : State) (i : Nat) (x : Channel) : (putChannel s i x).warden = s.warden := rfl
@[simp] theorem putChannel_rcd (s : State) (i : Nat) (x : Channel) : (putChannel s i x).rcd = s.rcd := rfl
@[simp] theorem putChannel_stalls (s : State) (i : Nat) (x : Channel) : (putChannel s i x).stalls = s.stalls := rfl
@[simp] theorem putChannel_pci (s : State) (i : Nat) (x : Channel) : (putChannel s i x).pci = s.pci := rfl
@[simp] theorem putChannel_pins (s : State) (i : Nat) (x : Channel) : (putChannel s i x).pins = s.pins := rfl
@[simp] theorem putChannel_free (s : State) (i : Nat) (x : Channel) : (putChannel s i x).free = s.free := rfl
@[simp] theorem putChannel_pending (s : State) (i : Nat) (x : Channel) : (putChannel s i x).pending = s.pending := rfl
@[simp] theorem putQp_dev (s : State) (i : Nat) (x : Qp) : (putQp s i x).dev = s.dev := rfl
@[simp] theorem putQp_inlets (s : State) (i : Nat) (x : Qp) : (putQp s i x).inlets = s.inlets := rfl
@[simp] theorem putQp_outfalls (s : State) (i : Nat) (x : Qp) : (putQp s i x).outfalls = s.outfalls := rfl
@[simp] theorem putQp_irq (s : State) (i : Nat) (x : Qp) : (putQp s i x).irq = s.irq := rfl
@[simp] theorem putQp_ap (s : State) (i : Nat) (x : Qp) : (putQp s i x).ap = s.ap := rfl
@[simp] theorem putQp_clk (s : State) (i : Nat) (x : Qp) : (putQp s i x).clk = s.clk := rfl
@[simp] theorem putQp_events (s : State) (i : Nat) (x : Qp) : (putQp s i x).events = s.events := rfl
@[simp] theorem putQp_cmds (s : State) (i : Nat) (x : Qp) : (putQp s i x).cmds = s.cmds := rfl
@[simp] theorem putQp_mem (s : State) (i : Nat) (x : Qp) : (putQp s i x).mem = s.mem := rfl
@[simp] theorem putQp_host (s : State) (i : Nat) (x : Qp) : (putQp s i x).host = s.host := rfl
@[simp] theorem putQp_msix (s : State) (i : Nat) (x : Qp) : (putQp s i x).msix = s.msix := rfl
@[simp] theorem putQp_wire (s : State) (i : Nat) (x : Qp) : (putQp s i x).wire = s.wire := rfl
@[simp] theorem putQp_slots (s : State) (i : Nat) (x : Qp) : (putQp s i x).slots = s.slots := rfl
@[simp] theorem putQp_sluices (s : State) (i : Nat) (x : Qp) : (putQp s i x).sluices = s.sluices := rfl
@[simp] theorem putQp_weir (s : State) (i : Nat) (x : Qp) : (putQp s i x).weir = s.weir := rfl
@[simp] theorem putQp_ddr (s : State) (i : Nat) (x : Qp) : (putQp s i x).ddr = s.ddr := rfl
@[simp] theorem putQp_selfRefresh (s : State) (i : Nat) (x : Qp) : (putQp s i x).selfRefresh = s.selfRefresh := rfl
@[simp] theorem putQp_cores (s : State) (i : Nat) (x : Qp) : (putQp s i x).cores = s.cores := rfl
@[simp] theorem putQp_ports (s : State) (i : Nat) (x : Qp) : (putQp s i x).ports = s.ports := rfl
@[simp] theorem putQp_net (s : State) (i : Nat) (x : Qp) : (putQp s i x).net = s.net := rfl
@[simp] theorem putQp_channels (s : State) (i : Nat) (x : Qp) : (putQp s i x).channels = s.channels := rfl
@[simp] theorem putQp_dir (s : State) (i : Nat) (x : Qp) : (putQp s i x).dir = s.dir := rfl
@[simp] theorem putQp_tide (s : State) (i : Nat) (x : Qp) : (putQp s i x).tide = s.tide := rfl
@[simp] theorem putQp_lock (s : State) (i : Nat) (x : Qp) : (putQp s i x).lock = s.lock := rfl
@[simp] theorem putQp_pump (s : State) (i : Nat) (x : Qp) : (putQp s i x).pump = s.pump := rfl
@[simp] theorem putQp_power (s : State) (i : Nat) (x : Qp) : (putQp s i x).power = s.power := rfl
@[simp] theorem putQp_tele (s : State) (i : Nat) (x : Qp) : (putQp s i x).tele = s.tele := rfl
@[simp] theorem putQp_err (s : State) (i : Nat) (x : Qp) : (putQp s i x).err = s.err := rfl
@[simp] theorem putQp_sec (s : State) (i : Nat) (x : Qp) : (putQp s i x).sec = s.sec := rfl
@[simp] theorem putQp_warden (s : State) (i : Nat) (x : Qp) : (putQp s i x).warden = s.warden := rfl
@[simp] theorem putQp_rcd (s : State) (i : Nat) (x : Qp) : (putQp s i x).rcd = s.rcd := rfl
@[simp] theorem putQp_stalls (s : State) (i : Nat) (x : Qp) : (putQp s i x).stalls = s.stalls := rfl
@[simp] theorem putQp_pci (s : State) (i : Nat) (x : Qp) : (putQp s i x).pci = s.pci := rfl
@[simp] theorem putQp_pins (s : State) (i : Nat) (x : Qp) : (putQp s i x).pins = s.pins := rfl
@[simp] theorem putQp_free (s : State) (i : Nat) (x : Qp) : (putQp s i x).free = s.free := rfl
@[simp] theorem putQp_pending (s : State) (i : Nat) (x : Qp) : (putQp s i x).pending = s.pending := rfl
@[simp] theorem putPower_dev (s : State) (i : Nat) (x : CorePower) : (putPower s i x).dev = s.dev := rfl
@[simp] theorem putPower_inlets (s : State) (i : Nat) (x : CorePower) : (putPower s i x).inlets = s.inlets := rfl
@[simp] theorem putPower_outfalls (s : State) (i : Nat) (x : CorePower) : (putPower s i x).outfalls = s.outfalls := rfl
@[simp] theorem putPower_irq (s : State) (i : Nat) (x : CorePower) : (putPower s i x).irq = s.irq := rfl
@[simp] theorem putPower_ap (s : State) (i : Nat) (x : CorePower) : (putPower s i x).ap = s.ap := rfl
@[simp] theorem putPower_clk (s : State) (i : Nat) (x : CorePower) : (putPower s i x).clk = s.clk := rfl
@[simp] theorem putPower_events (s : State) (i : Nat) (x : CorePower) : (putPower s i x).events = s.events := rfl
@[simp] theorem putPower_cmds (s : State) (i : Nat) (x : CorePower) : (putPower s i x).cmds = s.cmds := rfl
@[simp] theorem putPower_mem (s : State) (i : Nat) (x : CorePower) : (putPower s i x).mem = s.mem := rfl
@[simp] theorem putPower_host (s : State) (i : Nat) (x : CorePower) : (putPower s i x).host = s.host := rfl
@[simp] theorem putPower_msix (s : State) (i : Nat) (x : CorePower) : (putPower s i x).msix = s.msix := rfl
@[simp] theorem putPower_wire (s : State) (i : Nat) (x : CorePower) : (putPower s i x).wire = s.wire := rfl
@[simp] theorem putPower_slots (s : State) (i : Nat) (x : CorePower) : (putPower s i x).slots = s.slots := rfl
@[simp] theorem putPower_sluices (s : State) (i : Nat) (x : CorePower) : (putPower s i x).sluices = s.sluices := rfl
@[simp] theorem putPower_weir (s : State) (i : Nat) (x : CorePower) : (putPower s i x).weir = s.weir := rfl
@[simp] theorem putPower_ddr (s : State) (i : Nat) (x : CorePower) : (putPower s i x).ddr = s.ddr := rfl
@[simp] theorem putPower_selfRefresh (s : State) (i : Nat) (x : CorePower) : (putPower s i x).selfRefresh = s.selfRefresh := rfl
@[simp] theorem putPower_cores (s : State) (i : Nat) (x : CorePower) : (putPower s i x).cores = s.cores := rfl
@[simp] theorem putPower_ports (s : State) (i : Nat) (x : CorePower) : (putPower s i x).ports = s.ports := rfl
@[simp] theorem putPower_net (s : State) (i : Nat) (x : CorePower) : (putPower s i x).net = s.net := rfl
@[simp] theorem putPower_channels (s : State) (i : Nat) (x : CorePower) : (putPower s i x).channels = s.channels := rfl
@[simp] theorem putPower_qps (s : State) (i : Nat) (x : CorePower) : (putPower s i x).qps = s.qps := rfl
@[simp] theorem putPower_dir (s : State) (i : Nat) (x : CorePower) : (putPower s i x).dir = s.dir := rfl
@[simp] theorem putPower_tide (s : State) (i : Nat) (x : CorePower) : (putPower s i x).tide = s.tide := rfl
@[simp] theorem putPower_lock (s : State) (i : Nat) (x : CorePower) : (putPower s i x).lock = s.lock := rfl
@[simp] theorem putPower_pump (s : State) (i : Nat) (x : CorePower) : (putPower s i x).pump = s.pump := rfl
@[simp] theorem putPower_tele (s : State) (i : Nat) (x : CorePower) : (putPower s i x).tele = s.tele := rfl
@[simp] theorem putPower_err (s : State) (i : Nat) (x : CorePower) : (putPower s i x).err = s.err := rfl
@[simp] theorem putPower_sec (s : State) (i : Nat) (x : CorePower) : (putPower s i x).sec = s.sec := rfl
@[simp] theorem putPower_warden (s : State) (i : Nat) (x : CorePower) : (putPower s i x).warden = s.warden := rfl
@[simp] theorem putPower_rcd (s : State) (i : Nat) (x : CorePower) : (putPower s i x).rcd = s.rcd := rfl
@[simp] theorem putPower_stalls (s : State) (i : Nat) (x : CorePower) : (putPower s i x).stalls = s.stalls := rfl
@[simp] theorem putPower_pci (s : State) (i : Nat) (x : CorePower) : (putPower s i x).pci = s.pci := rfl
@[simp] theorem putPower_pins (s : State) (i : Nat) (x : CorePower) : (putPower s i x).pins = s.pins := rfl
@[simp] theorem putPower_free (s : State) (i : Nat) (x : CorePower) : (putPower s i x).free = s.free := rfl
@[simp] theorem putPower_pending (s : State) (i : Nat) (x : CorePower) : (putPower s i x).pending = s.pending := rfl
@[simp] theorem putDdr_dev (s : State) (i : Nat) (x : DdrChannel) : (putDdr s i x).dev = s.dev := rfl
@[simp] theorem putDdr_inlets (s : State) (i : Nat) (x : DdrChannel) : (putDdr s i x).inlets = s.inlets := rfl
@[simp] theorem putDdr_outfalls (s : State) (i : Nat) (x : DdrChannel) : (putDdr s i x).outfalls = s.outfalls := rfl
@[simp] theorem putDdr_irq (s : State) (i : Nat) (x : DdrChannel) : (putDdr s i x).irq = s.irq := rfl
@[simp] theorem putDdr_ap (s : State) (i : Nat) (x : DdrChannel) : (putDdr s i x).ap = s.ap := rfl
@[simp] theorem putDdr_clk (s : State) (i : Nat) (x : DdrChannel) : (putDdr s i x).clk = s.clk := rfl
@[simp] theorem putDdr_events (s : State) (i : Nat) (x : DdrChannel) : (putDdr s i x).events = s.events := rfl
@[simp] theorem putDdr_cmds (s : State) (i : Nat) (x : DdrChannel) : (putDdr s i x).cmds = s.cmds := rfl
@[simp] theorem putDdr_mem (s : State) (i : Nat) (x : DdrChannel) : (putDdr s i x).mem = s.mem := rfl
@[simp] theorem putDdr_host (s : State) (i : Nat) (x : DdrChannel) : (putDdr s i x).host = s.host := rfl
@[simp] theorem putDdr_msix (s : State) (i : Nat) (x : DdrChannel) : (putDdr s i x).msix = s.msix := rfl
@[simp] theorem putDdr_wire (s : State) (i : Nat) (x : DdrChannel) : (putDdr s i x).wire = s.wire := rfl
@[simp] theorem putDdr_slots (s : State) (i : Nat) (x : DdrChannel) : (putDdr s i x).slots = s.slots := rfl
@[simp] theorem putDdr_sluices (s : State) (i : Nat) (x : DdrChannel) : (putDdr s i x).sluices = s.sluices := rfl
@[simp] theorem putDdr_weir (s : State) (i : Nat) (x : DdrChannel) : (putDdr s i x).weir = s.weir := rfl
@[simp] theorem putDdr_selfRefresh (s : State) (i : Nat) (x : DdrChannel) : (putDdr s i x).selfRefresh = s.selfRefresh := rfl
@[simp] theorem putDdr_cores (s : State) (i : Nat) (x : DdrChannel) : (putDdr s i x).cores = s.cores := rfl
@[simp] theorem putDdr_ports (s : State) (i : Nat) (x : DdrChannel) : (putDdr s i x).ports = s.ports := rfl
@[simp] theorem putDdr_net (s : State) (i : Nat) (x : DdrChannel) : (putDdr s i x).net = s.net := rfl
@[simp] theorem putDdr_channels (s : State) (i : Nat) (x : DdrChannel) : (putDdr s i x).channels = s.channels := rfl
@[simp] theorem putDdr_qps (s : State) (i : Nat) (x : DdrChannel) : (putDdr s i x).qps = s.qps := rfl
@[simp] theorem putDdr_dir (s : State) (i : Nat) (x : DdrChannel) : (putDdr s i x).dir = s.dir := rfl
@[simp] theorem putDdr_tide (s : State) (i : Nat) (x : DdrChannel) : (putDdr s i x).tide = s.tide := rfl
@[simp] theorem putDdr_lock (s : State) (i : Nat) (x : DdrChannel) : (putDdr s i x).lock = s.lock := rfl
@[simp] theorem putDdr_pump (s : State) (i : Nat) (x : DdrChannel) : (putDdr s i x).pump = s.pump := rfl
@[simp] theorem putDdr_power (s : State) (i : Nat) (x : DdrChannel) : (putDdr s i x).power = s.power := rfl
@[simp] theorem putDdr_tele (s : State) (i : Nat) (x : DdrChannel) : (putDdr s i x).tele = s.tele := rfl
@[simp] theorem putDdr_err (s : State) (i : Nat) (x : DdrChannel) : (putDdr s i x).err = s.err := rfl
@[simp] theorem putDdr_sec (s : State) (i : Nat) (x : DdrChannel) : (putDdr s i x).sec = s.sec := rfl
@[simp] theorem putDdr_warden (s : State) (i : Nat) (x : DdrChannel) : (putDdr s i x).warden = s.warden := rfl
@[simp] theorem putDdr_rcd (s : State) (i : Nat) (x : DdrChannel) : (putDdr s i x).rcd = s.rcd := rfl
@[simp] theorem putDdr_stalls (s : State) (i : Nat) (x : DdrChannel) : (putDdr s i x).stalls = s.stalls := rfl
@[simp] theorem putDdr_pci (s : State) (i : Nat) (x : DdrChannel) : (putDdr s i x).pci = s.pci := rfl
@[simp] theorem putDdr_pins (s : State) (i : Nat) (x : DdrChannel) : (putDdr s i x).pins = s.pins := rfl
@[simp] theorem putDdr_free (s : State) (i : Nat) (x : DdrChannel) : (putDdr s i x).free = s.free := rfl
@[simp] theorem putDdr_pending (s : State) (i : Nat) (x : DdrChannel) : (putDdr s i x).pending = s.pending := rfl
@[simp] theorem putWindow_dev (s : State) (i : Nat) (x : Window) : (putWindow s i x).dev = s.dev := rfl
@[simp] theorem putWindow_inlets (s : State) (i : Nat) (x : Window) : (putWindow s i x).inlets = s.inlets := rfl
@[simp] theorem putWindow_outfalls (s : State) (i : Nat) (x : Window) : (putWindow s i x).outfalls = s.outfalls := rfl
@[simp] theorem putWindow_irq (s : State) (i : Nat) (x : Window) : (putWindow s i x).irq = s.irq := rfl
@[simp] theorem putWindow_ap (s : State) (i : Nat) (x : Window) : (putWindow s i x).ap = s.ap := rfl
@[simp] theorem putWindow_clk (s : State) (i : Nat) (x : Window) : (putWindow s i x).clk = s.clk := rfl
@[simp] theorem putWindow_events (s : State) (i : Nat) (x : Window) : (putWindow s i x).events = s.events := rfl
@[simp] theorem putWindow_cmds (s : State) (i : Nat) (x : Window) : (putWindow s i x).cmds = s.cmds := rfl
@[simp] theorem putWindow_mem (s : State) (i : Nat) (x : Window) : (putWindow s i x).mem = s.mem := rfl
@[simp] theorem putWindow_host (s : State) (i : Nat) (x : Window) : (putWindow s i x).host = s.host := rfl
@[simp] theorem putWindow_msix (s : State) (i : Nat) (x : Window) : (putWindow s i x).msix = s.msix := rfl
@[simp] theorem putWindow_wire (s : State) (i : Nat) (x : Window) : (putWindow s i x).wire = s.wire := rfl
@[simp] theorem putWindow_slots (s : State) (i : Nat) (x : Window) : (putWindow s i x).slots = s.slots := rfl
@[simp] theorem putWindow_sluices (s : State) (i : Nat) (x : Window) : (putWindow s i x).sluices = s.sluices := rfl
@[simp] theorem putWindow_weir (s : State) (i : Nat) (x : Window) : (putWindow s i x).weir = s.weir := rfl
@[simp] theorem putWindow_ddr (s : State) (i : Nat) (x : Window) : (putWindow s i x).ddr = s.ddr := rfl
@[simp] theorem putWindow_selfRefresh (s : State) (i : Nat) (x : Window) : (putWindow s i x).selfRefresh = s.selfRefresh := rfl
@[simp] theorem putWindow_cores (s : State) (i : Nat) (x : Window) : (putWindow s i x).cores = s.cores := rfl
@[simp] theorem putWindow_ports (s : State) (i : Nat) (x : Window) : (putWindow s i x).ports = s.ports := rfl
@[simp] theorem putWindow_channels (s : State) (i : Nat) (x : Window) : (putWindow s i x).channels = s.channels := rfl
@[simp] theorem putWindow_qps (s : State) (i : Nat) (x : Window) : (putWindow s i x).qps = s.qps := rfl
@[simp] theorem putWindow_dir (s : State) (i : Nat) (x : Window) : (putWindow s i x).dir = s.dir := rfl
@[simp] theorem putWindow_tide (s : State) (i : Nat) (x : Window) : (putWindow s i x).tide = s.tide := rfl
@[simp] theorem putWindow_lock (s : State) (i : Nat) (x : Window) : (putWindow s i x).lock = s.lock := rfl
@[simp] theorem putWindow_pump (s : State) (i : Nat) (x : Window) : (putWindow s i x).pump = s.pump := rfl
@[simp] theorem putWindow_power (s : State) (i : Nat) (x : Window) : (putWindow s i x).power = s.power := rfl
@[simp] theorem putWindow_tele (s : State) (i : Nat) (x : Window) : (putWindow s i x).tele = s.tele := rfl
@[simp] theorem putWindow_err (s : State) (i : Nat) (x : Window) : (putWindow s i x).err = s.err := rfl
@[simp] theorem putWindow_sec (s : State) (i : Nat) (x : Window) : (putWindow s i x).sec = s.sec := rfl
@[simp] theorem putWindow_warden (s : State) (i : Nat) (x : Window) : (putWindow s i x).warden = s.warden := rfl
@[simp] theorem putWindow_rcd (s : State) (i : Nat) (x : Window) : (putWindow s i x).rcd = s.rcd := rfl
@[simp] theorem putWindow_stalls (s : State) (i : Nat) (x : Window) : (putWindow s i x).stalls = s.stalls := rfl
@[simp] theorem putWindow_pci (s : State) (i : Nat) (x : Window) : (putWindow s i x).pci = s.pci := rfl
@[simp] theorem putWindow_pins (s : State) (i : Nat) (x : Window) : (putWindow s i x).pins = s.pins := rfl
@[simp] theorem putWindow_free (s : State) (i : Nat) (x : Window) : (putWindow s i x).free = s.free := rfl
@[simp] theorem putWindow_pending (s : State) (i : Nat) (x : Window) : (putWindow s i x).pending = s.pending := rfl
@[simp] theorem putArray_dev (s : State) (c a : Nat) (x : TArray) : (putArray s c a x).dev = s.dev := rfl
@[simp] theorem putArray_inlets (s : State) (c a : Nat) (x : TArray) : (putArray s c a x).inlets = s.inlets := rfl
@[simp] theorem putArray_outfalls (s : State) (c a : Nat) (x : TArray) : (putArray s c a x).outfalls = s.outfalls := rfl
@[simp] theorem putArray_irq (s : State) (c a : Nat) (x : TArray) : (putArray s c a x).irq = s.irq := rfl
@[simp] theorem putArray_ap (s : State) (c a : Nat) (x : TArray) : (putArray s c a x).ap = s.ap := rfl
@[simp] theorem putArray_clk (s : State) (c a : Nat) (x : TArray) : (putArray s c a x).clk = s.clk := rfl
@[simp] theorem putArray_events (s : State) (c a : Nat) (x : TArray) : (putArray s c a x).events = s.events := rfl
@[simp] theorem putArray_cmds (s : State) (c a : Nat) (x : TArray) : (putArray s c a x).cmds = s.cmds := rfl
@[simp] theorem putArray_mem (s : State) (c a : Nat) (x : TArray) : (putArray s c a x).mem = s.mem := rfl
@[simp] theorem putArray_host (s : State) (c a : Nat) (x : TArray) : (putArray s c a x).host = s.host := rfl
@[simp] theorem putArray_msix (s : State) (c a : Nat) (x : TArray) : (putArray s c a x).msix = s.msix := rfl
@[simp] theorem putArray_wire (s : State) (c a : Nat) (x : TArray) : (putArray s c a x).wire = s.wire := rfl
@[simp] theorem putArray_slots (s : State) (c a : Nat) (x : TArray) : (putArray s c a x).slots = s.slots := rfl
@[simp] theorem putArray_sluices (s : State) (c a : Nat) (x : TArray) : (putArray s c a x).sluices = s.sluices := rfl
@[simp] theorem putArray_weir (s : State) (c a : Nat) (x : TArray) : (putArray s c a x).weir = s.weir := rfl
@[simp] theorem putArray_ddr (s : State) (c a : Nat) (x : TArray) : (putArray s c a x).ddr = s.ddr := rfl
@[simp] theorem putArray_selfRefresh (s : State) (c a : Nat) (x : TArray) : (putArray s c a x).selfRefresh = s.selfRefresh := rfl
@[simp] theorem putArray_ports (s : State) (c a : Nat) (x : TArray) : (putArray s c a x).ports = s.ports := rfl
@[simp] theorem putArray_net (s : State) (c a : Nat) (x : TArray) : (putArray s c a x).net = s.net := rfl
@[simp] theorem putArray_channels (s : State) (c a : Nat) (x : TArray) : (putArray s c a x).channels = s.channels := rfl
@[simp] theorem putArray_qps (s : State) (c a : Nat) (x : TArray) : (putArray s c a x).qps = s.qps := rfl
@[simp] theorem putArray_dir (s : State) (c a : Nat) (x : TArray) : (putArray s c a x).dir = s.dir := rfl
@[simp] theorem putArray_tide (s : State) (c a : Nat) (x : TArray) : (putArray s c a x).tide = s.tide := rfl
@[simp] theorem putArray_lock (s : State) (c a : Nat) (x : TArray) : (putArray s c a x).lock = s.lock := rfl
@[simp] theorem putArray_pump (s : State) (c a : Nat) (x : TArray) : (putArray s c a x).pump = s.pump := rfl
@[simp] theorem putArray_power (s : State) (c a : Nat) (x : TArray) : (putArray s c a x).power = s.power := rfl
@[simp] theorem putArray_tele (s : State) (c a : Nat) (x : TArray) : (putArray s c a x).tele = s.tele := rfl
@[simp] theorem putArray_err (s : State) (c a : Nat) (x : TArray) : (putArray s c a x).err = s.err := rfl
@[simp] theorem putArray_sec (s : State) (c a : Nat) (x : TArray) : (putArray s c a x).sec = s.sec := rfl
@[simp] theorem putArray_warden (s : State) (c a : Nat) (x : TArray) : (putArray s c a x).warden = s.warden := rfl
@[simp] theorem putArray_rcd (s : State) (c a : Nat) (x : TArray) : (putArray s c a x).rcd = s.rcd := rfl
@[simp] theorem putArray_stalls (s : State) (c a : Nat) (x : TArray) : (putArray s c a x).stalls = s.stalls := rfl
@[simp] theorem putArray_pci (s : State) (c a : Nat) (x : TArray) : (putArray s c a x).pci = s.pci := rfl
@[simp] theorem putArray_pins (s : State) (c a : Nat) (x : TArray) : (putArray s c a x).pins = s.pins := rfl
@[simp] theorem putArray_free (s : State) (c a : Nat) (x : TArray) : (putArray s c a x).free = s.free := rfl
@[simp] theorem putArray_pending (s : State) (c a : Nat) (x : TArray) : (putArray s c a x).pending = s.pending := rfl
@[simp] theorem modCmd_dev (s : State) (id : CmdId) (g : Cmd → Cmd) : (modCmd s id g).dev = s.dev := rfl
@[simp] theorem modCmd_inlets (s : State) (id : CmdId) (g : Cmd → Cmd) : (modCmd s id g).inlets = s.inlets := rfl
@[simp] theorem modCmd_outfalls (s : State) (id : CmdId) (g : Cmd → Cmd) : (modCmd s id g).outfalls = s.outfalls := rfl
@[simp] theorem modCmd_irq (s : State) (id : CmdId) (g : Cmd → Cmd) : (modCmd s id g).irq = s.irq := rfl
@[simp] theorem modCmd_ap (s : State) (id : CmdId) (g : Cmd → Cmd) : (modCmd s id g).ap = s.ap := rfl
@[simp] theorem modCmd_clk (s : State) (id : CmdId) (g : Cmd → Cmd) : (modCmd s id g).clk = s.clk := rfl
@[simp] theorem modCmd_events (s : State) (id : CmdId) (g : Cmd → Cmd) : (modCmd s id g).events = s.events := rfl
@[simp] theorem modCmd_mem (s : State) (id : CmdId) (g : Cmd → Cmd) : (modCmd s id g).mem = s.mem := rfl
@[simp] theorem modCmd_host (s : State) (id : CmdId) (g : Cmd → Cmd) : (modCmd s id g).host = s.host := rfl
@[simp] theorem modCmd_msix (s : State) (id : CmdId) (g : Cmd → Cmd) : (modCmd s id g).msix = s.msix := rfl
@[simp] theorem modCmd_wire (s : State) (id : CmdId) (g : Cmd → Cmd) : (modCmd s id g).wire = s.wire := rfl
@[simp] theorem modCmd_slots (s : State) (id : CmdId) (g : Cmd → Cmd) : (modCmd s id g).slots = s.slots := rfl
@[simp] theorem modCmd_sluices (s : State) (id : CmdId) (g : Cmd → Cmd) : (modCmd s id g).sluices = s.sluices := rfl
@[simp] theorem modCmd_weir (s : State) (id : CmdId) (g : Cmd → Cmd) : (modCmd s id g).weir = s.weir := rfl
@[simp] theorem modCmd_ddr (s : State) (id : CmdId) (g : Cmd → Cmd) : (modCmd s id g).ddr = s.ddr := rfl
@[simp] theorem modCmd_selfRefresh (s : State) (id : CmdId) (g : Cmd → Cmd) : (modCmd s id g).selfRefresh = s.selfRefresh := rfl
@[simp] theorem modCmd_cores (s : State) (id : CmdId) (g : Cmd → Cmd) : (modCmd s id g).cores = s.cores := rfl
@[simp] theorem modCmd_ports (s : State) (id : CmdId) (g : Cmd → Cmd) : (modCmd s id g).ports = s.ports := rfl
@[simp] theorem modCmd_net (s : State) (id : CmdId) (g : Cmd → Cmd) : (modCmd s id g).net = s.net := rfl
@[simp] theorem modCmd_channels (s : State) (id : CmdId) (g : Cmd → Cmd) : (modCmd s id g).channels = s.channels := rfl
@[simp] theorem modCmd_qps (s : State) (id : CmdId) (g : Cmd → Cmd) : (modCmd s id g).qps = s.qps := rfl
@[simp] theorem modCmd_dir (s : State) (id : CmdId) (g : Cmd → Cmd) : (modCmd s id g).dir = s.dir := rfl
@[simp] theorem modCmd_tide (s : State) (id : CmdId) (g : Cmd → Cmd) : (modCmd s id g).tide = s.tide := rfl
@[simp] theorem modCmd_lock (s : State) (id : CmdId) (g : Cmd → Cmd) : (modCmd s id g).lock = s.lock := rfl
@[simp] theorem modCmd_pump (s : State) (id : CmdId) (g : Cmd → Cmd) : (modCmd s id g).pump = s.pump := rfl
@[simp] theorem modCmd_power (s : State) (id : CmdId) (g : Cmd → Cmd) : (modCmd s id g).power = s.power := rfl
@[simp] theorem modCmd_tele (s : State) (id : CmdId) (g : Cmd → Cmd) : (modCmd s id g).tele = s.tele := rfl
@[simp] theorem modCmd_err (s : State) (id : CmdId) (g : Cmd → Cmd) : (modCmd s id g).err = s.err := rfl
@[simp] theorem modCmd_sec (s : State) (id : CmdId) (g : Cmd → Cmd) : (modCmd s id g).sec = s.sec := rfl
@[simp] theorem modCmd_warden (s : State) (id : CmdId) (g : Cmd → Cmd) : (modCmd s id g).warden = s.warden := rfl
@[simp] theorem modCmd_rcd (s : State) (id : CmdId) (g : Cmd → Cmd) : (modCmd s id g).rcd = s.rcd := rfl
@[simp] theorem modCmd_stalls (s : State) (id : CmdId) (g : Cmd → Cmd) : (modCmd s id g).stalls = s.stalls := rfl
@[simp] theorem modCmd_pci (s : State) (id : CmdId) (g : Cmd → Cmd) : (modCmd s id g).pci = s.pci := rfl
@[simp] theorem modCmd_pins (s : State) (id : CmdId) (g : Cmd → Cmd) : (modCmd s id g).pins = s.pins := rfl
@[simp] theorem modCmd_free (s : State) (id : CmdId) (g : Cmd → Cmd) : (modCmd s id g).free = s.free := rfl
@[simp] theorem modCmd_pending (s : State) (id : CmdId) (g : Cmd → Cmd) : (modCmd s id g).pending = s.pending := rfl
@[simp] theorem setWork_dev (s : State) (id : CmdId) (w : Work) : (setWork s id w).dev = s.dev := rfl
@[simp] theorem setWork_inlets (s : State) (id : CmdId) (w : Work) : (setWork s id w).inlets = s.inlets := rfl
@[simp] theorem setWork_outfalls (s : State) (id : CmdId) (w : Work) : (setWork s id w).outfalls = s.outfalls := rfl
@[simp] theorem setWork_irq (s : State) (id : CmdId) (w : Work) : (setWork s id w).irq = s.irq := rfl
@[simp] theorem setWork_ap (s : State) (id : CmdId) (w : Work) : (setWork s id w).ap = s.ap := rfl
@[simp] theorem setWork_clk (s : State) (id : CmdId) (w : Work) : (setWork s id w).clk = s.clk := rfl
@[simp] theorem setWork_events (s : State) (id : CmdId) (w : Work) : (setWork s id w).events = s.events := rfl
@[simp] theorem setWork_mem (s : State) (id : CmdId) (w : Work) : (setWork s id w).mem = s.mem := rfl
@[simp] theorem setWork_host (s : State) (id : CmdId) (w : Work) : (setWork s id w).host = s.host := rfl
@[simp] theorem setWork_msix (s : State) (id : CmdId) (w : Work) : (setWork s id w).msix = s.msix := rfl
@[simp] theorem setWork_wire (s : State) (id : CmdId) (w : Work) : (setWork s id w).wire = s.wire := rfl
@[simp] theorem setWork_slots (s : State) (id : CmdId) (w : Work) : (setWork s id w).slots = s.slots := rfl
@[simp] theorem setWork_sluices (s : State) (id : CmdId) (w : Work) : (setWork s id w).sluices = s.sluices := rfl
@[simp] theorem setWork_weir (s : State) (id : CmdId) (w : Work) : (setWork s id w).weir = s.weir := rfl
@[simp] theorem setWork_ddr (s : State) (id : CmdId) (w : Work) : (setWork s id w).ddr = s.ddr := rfl
@[simp] theorem setWork_selfRefresh (s : State) (id : CmdId) (w : Work) : (setWork s id w).selfRefresh = s.selfRefresh := rfl
@[simp] theorem setWork_cores (s : State) (id : CmdId) (w : Work) : (setWork s id w).cores = s.cores := rfl
@[simp] theorem setWork_ports (s : State) (id : CmdId) (w : Work) : (setWork s id w).ports = s.ports := rfl
@[simp] theorem setWork_net (s : State) (id : CmdId) (w : Work) : (setWork s id w).net = s.net := rfl
@[simp] theorem setWork_channels (s : State) (id : CmdId) (w : Work) : (setWork s id w).channels = s.channels := rfl
@[simp] theorem setWork_qps (s : State) (id : CmdId) (w : Work) : (setWork s id w).qps = s.qps := rfl
@[simp] theorem setWork_dir (s : State) (id : CmdId) (w : Work) : (setWork s id w).dir = s.dir := rfl
@[simp] theorem setWork_tide (s : State) (id : CmdId) (w : Work) : (setWork s id w).tide = s.tide := rfl
@[simp] theorem setWork_lock (s : State) (id : CmdId) (w : Work) : (setWork s id w).lock = s.lock := rfl
@[simp] theorem setWork_pump (s : State) (id : CmdId) (w : Work) : (setWork s id w).pump = s.pump := rfl
@[simp] theorem setWork_power (s : State) (id : CmdId) (w : Work) : (setWork s id w).power = s.power := rfl
@[simp] theorem setWork_tele (s : State) (id : CmdId) (w : Work) : (setWork s id w).tele = s.tele := rfl
@[simp] theorem setWork_err (s : State) (id : CmdId) (w : Work) : (setWork s id w).err = s.err := rfl
@[simp] theorem setWork_sec (s : State) (id : CmdId) (w : Work) : (setWork s id w).sec = s.sec := rfl
@[simp] theorem setWork_warden (s : State) (id : CmdId) (w : Work) : (setWork s id w).warden = s.warden := rfl
@[simp] theorem setWork_rcd (s : State) (id : CmdId) (w : Work) : (setWork s id w).rcd = s.rcd := rfl
@[simp] theorem setWork_stalls (s : State) (id : CmdId) (w : Work) : (setWork s id w).stalls = s.stalls := rfl
@[simp] theorem setWork_pci (s : State) (id : CmdId) (w : Work) : (setWork s id w).pci = s.pci := rfl
@[simp] theorem setWork_pins (s : State) (id : CmdId) (w : Work) : (setWork s id w).pins = s.pins := rfl
@[simp] theorem setWork_free (s : State) (id : CmdId) (w : Work) : (setWork s id w).free = s.free := rfl
@[simp] theorem setWork_pending (s : State) (id : CmdId) (w : Work) : (setWork s id w).pending = s.pending := rfl
@[simp] theorem latch_dev (s : State)  : (latch s).dev = s.dev := rfl
@[simp] theorem latch_inlets (s : State)  : (latch s).inlets = s.inlets := rfl
@[simp] theorem latch_outfalls (s : State)  : (latch s).outfalls = s.outfalls := rfl
@[simp] theorem latch_irq (s : State)  : (latch s).irq = s.irq := rfl
@[simp] theorem latch_ap (s : State)  : (latch s).ap = s.ap := rfl
@[simp] theorem latch_clk (s : State)  : (latch s).clk = s.clk := rfl
@[simp] theorem latch_events (s : State)  : (latch s).events = s.events := rfl
@[simp] theorem latch_mem (s : State)  : (latch s).mem = s.mem := rfl
@[simp] theorem latch_host (s : State)  : (latch s).host = s.host := rfl
@[simp] theorem latch_msix (s : State)  : (latch s).msix = s.msix := rfl
@[simp] theorem latch_wire (s : State)  : (latch s).wire = s.wire := rfl
@[simp] theorem latch_slots (s : State)  : (latch s).slots = s.slots := rfl
@[simp] theorem latch_sluices (s : State)  : (latch s).sluices = s.sluices := rfl
@[simp] theorem latch_weir (s : State)  : (latch s).weir = s.weir := rfl
@[simp] theorem latch_ddr (s : State)  : (latch s).ddr = s.ddr := rfl
@[simp] theorem latch_selfRefresh (s : State)  : (latch s).selfRefresh = s.selfRefresh := rfl
@[simp] theorem latch_cores (s : State)  : (latch s).cores = s.cores := rfl
@[simp] theorem latch_ports (s : State)  : (latch s).ports = s.ports := rfl
@[simp] theorem latch_net (s : State)  : (latch s).net = s.net := rfl
@[simp] theorem latch_channels (s : State)  : (latch s).channels = s.channels := rfl
@[simp] theorem latch_qps (s : State)  : (latch s).qps = s.qps := rfl
@[simp] theorem latch_dir (s : State)  : (latch s).dir = s.dir := rfl
@[simp] theorem latch_tide (s : State)  : (latch s).tide = s.tide := rfl
@[simp] theorem latch_lock (s : State)  : (latch s).lock = s.lock := rfl
@[simp] theorem latch_pump (s : State)  : (latch s).pump = s.pump := rfl
@[simp] theorem latch_power (s : State)  : (latch s).power = s.power := rfl
@[simp] theorem latch_tele (s : State)  : (latch s).tele = s.tele := rfl
@[simp] theorem latch_err (s : State)  : (latch s).err = s.err := rfl
@[simp] theorem latch_sec (s : State)  : (latch s).sec = s.sec := rfl
@[simp] theorem latch_warden (s : State)  : (latch s).warden = s.warden := rfl
@[simp] theorem latch_rcd (s : State)  : (latch s).rcd = s.rcd := rfl
@[simp] theorem latch_stalls (s : State)  : (latch s).stalls = s.stalls := rfl
@[simp] theorem latch_pci (s : State)  : (latch s).pci = s.pci := rfl
@[simp] theorem latch_pins (s : State)  : (latch s).pins = s.pins := rfl
@[simp] theorem latch_free (s : State)  : (latch s).free = s.free := rfl
@[simp] theorem latch_pending (s : State)  : (latch s).pending = s.pending := rfl
@[simp] theorem advance_dev (s : State) (n : Nat) : (advance s n).dev = s.dev := rfl
@[simp] theorem advance_inlets (s : State) (n : Nat) : (advance s n).inlets = s.inlets := rfl
@[simp] theorem advance_outfalls (s : State) (n : Nat) : (advance s n).outfalls = s.outfalls := rfl
@[simp] theorem advance_irq (s : State) (n : Nat) : (advance s n).irq = s.irq := rfl
@[simp] theorem advance_ap (s : State) (n : Nat) : (advance s n).ap = s.ap := rfl
@[simp] theorem advance_events (s : State) (n : Nat) : (advance s n).events = s.events := rfl
@[simp] theorem advance_cmds (s : State) (n : Nat) : (advance s n).cmds = s.cmds := rfl
@[simp] theorem advance_mem (s : State) (n : Nat) : (advance s n).mem = s.mem := rfl
@[simp] theorem advance_host (s : State) (n : Nat) : (advance s n).host = s.host := rfl
@[simp] theorem advance_msix (s : State) (n : Nat) : (advance s n).msix = s.msix := rfl
@[simp] theorem advance_wire (s : State) (n : Nat) : (advance s n).wire = s.wire := rfl
@[simp] theorem advance_slots (s : State) (n : Nat) : (advance s n).slots = s.slots := rfl
@[simp] theorem advance_sluices (s : State) (n : Nat) : (advance s n).sluices = s.sluices := rfl
@[simp] theorem advance_weir (s : State) (n : Nat) : (advance s n).weir = s.weir := rfl
@[simp] theorem advance_ddr (s : State) (n : Nat) : (advance s n).ddr = s.ddr := rfl
@[simp] theorem advance_selfRefresh (s : State) (n : Nat) : (advance s n).selfRefresh = s.selfRefresh := rfl
@[simp] theorem advance_cores (s : State) (n : Nat) : (advance s n).cores = s.cores := rfl
@[simp] theorem advance_ports (s : State) (n : Nat) : (advance s n).ports = s.ports := rfl
@[simp] theorem advance_net (s : State) (n : Nat) : (advance s n).net = s.net := rfl
@[simp] theorem advance_channels (s : State) (n : Nat) : (advance s n).channels = s.channels := rfl
@[simp] theorem advance_qps (s : State) (n : Nat) : (advance s n).qps = s.qps := rfl
@[simp] theorem advance_dir (s : State) (n : Nat) : (advance s n).dir = s.dir := rfl
@[simp] theorem advance_lock (s : State) (n : Nat) : (advance s n).lock = s.lock := rfl
@[simp] theorem advance_pump (s : State) (n : Nat) : (advance s n).pump = s.pump := rfl
@[simp] theorem advance_power (s : State) (n : Nat) : (advance s n).power = s.power := rfl
@[simp] theorem advance_tele (s : State) (n : Nat) : (advance s n).tele = s.tele := rfl
@[simp] theorem advance_err (s : State) (n : Nat) : (advance s n).err = s.err := rfl
@[simp] theorem advance_sec (s : State) (n : Nat) : (advance s n).sec = s.sec := rfl
@[simp] theorem advance_warden (s : State) (n : Nat) : (advance s n).warden = s.warden := rfl
@[simp] theorem advance_rcd (s : State) (n : Nat) : (advance s n).rcd = s.rcd := rfl
@[simp] theorem advance_stalls (s : State) (n : Nat) : (advance s n).stalls = s.stalls := rfl
@[simp] theorem advance_pci (s : State) (n : Nat) : (advance s n).pci = s.pci := rfl
@[simp] theorem advance_pins (s : State) (n : Nat) : (advance s n).pins = s.pins := rfl
@[simp] theorem advance_free (s : State) (n : Nat) : (advance s n).free = s.free := rfl
@[simp] theorem advance_pending (s : State) (n : Nat) : (advance s n).pending = s.pending := rfl
@[simp] theorem advanceTo_dev (s : State) (n : Nat) : (advanceTo s n).dev = s.dev := rfl
@[simp] theorem advanceTo_inlets (s : State) (n : Nat) : (advanceTo s n).inlets = s.inlets := rfl
@[simp] theorem advanceTo_outfalls (s : State) (n : Nat) : (advanceTo s n).outfalls = s.outfalls := rfl
@[simp] theorem advanceTo_irq (s : State) (n : Nat) : (advanceTo s n).irq = s.irq := rfl
@[simp] theorem advanceTo_ap (s : State) (n : Nat) : (advanceTo s n).ap = s.ap := rfl
@[simp] theorem advanceTo_events (s : State) (n : Nat) : (advanceTo s n).events = s.events := rfl
@[simp] theorem advanceTo_cmds (s : State) (n : Nat) : (advanceTo s n).cmds = s.cmds := rfl
@[simp] theorem advanceTo_mem (s : State) (n : Nat) : (advanceTo s n).mem = s.mem := rfl
@[simp] theorem advanceTo_host (s : State) (n : Nat) : (advanceTo s n).host = s.host := rfl
@[simp] theorem advanceTo_msix (s : State) (n : Nat) : (advanceTo s n).msix = s.msix := rfl
@[simp] theorem advanceTo_wire (s : State) (n : Nat) : (advanceTo s n).wire = s.wire := rfl
@[simp] theorem advanceTo_slots (s : State) (n : Nat) : (advanceTo s n).slots = s.slots := rfl
@[simp] theorem advanceTo_sluices (s : State) (n : Nat) : (advanceTo s n).sluices = s.sluices := rfl
@[simp] theorem advanceTo_weir (s : State) (n : Nat) : (advanceTo s n).weir = s.weir := rfl
@[simp] theorem advanceTo_ddr (s : State) (n : Nat) : (advanceTo s n).ddr = s.ddr := rfl
@[simp] theorem advanceTo_selfRefresh (s : State) (n : Nat) : (advanceTo s n).selfRefresh = s.selfRefresh := rfl
@[simp] theorem advanceTo_cores (s : State) (n : Nat) : (advanceTo s n).cores = s.cores := rfl
@[simp] theorem advanceTo_ports (s : State) (n : Nat) : (advanceTo s n).ports = s.ports := rfl
@[simp] theorem advanceTo_net (s : State) (n : Nat) : (advanceTo s n).net = s.net := rfl
@[simp] theorem advanceTo_channels (s : State) (n : Nat) : (advanceTo s n).channels = s.channels := rfl
@[simp] theorem advanceTo_qps (s : State) (n : Nat) : (advanceTo s n).qps = s.qps := rfl
@[simp] theorem advanceTo_dir (s : State) (n : Nat) : (advanceTo s n).dir = s.dir := rfl
@[simp] theorem advanceTo_lock (s : State) (n : Nat) : (advanceTo s n).lock = s.lock := rfl
@[simp] theorem advanceTo_pump (s : State) (n : Nat) : (advanceTo s n).pump = s.pump := rfl
@[simp] theorem advanceTo_power (s : State) (n : Nat) : (advanceTo s n).power = s.power := rfl
@[simp] theorem advanceTo_tele (s : State) (n : Nat) : (advanceTo s n).tele = s.tele := rfl
@[simp] theorem advanceTo_err (s : State) (n : Nat) : (advanceTo s n).err = s.err := rfl
@[simp] theorem advanceTo_sec (s : State) (n : Nat) : (advanceTo s n).sec = s.sec := rfl
@[simp] theorem advanceTo_warden (s : State) (n : Nat) : (advanceTo s n).warden = s.warden := rfl
@[simp] theorem advanceTo_rcd (s : State) (n : Nat) : (advanceTo s n).rcd = s.rcd := rfl
@[simp] theorem advanceTo_stalls (s : State) (n : Nat) : (advanceTo s n).stalls = s.stalls := rfl
@[simp] theorem advanceTo_pci (s : State) (n : Nat) : (advanceTo s n).pci = s.pci := rfl
@[simp] theorem advanceTo_pins (s : State) (n : Nat) : (advanceTo s n).pins = s.pins := rfl
@[simp] theorem advanceTo_free (s : State) (n : Nat) : (advanceTo s n).free = s.free := rfl
@[simp] theorem advanceTo_pending (s : State) (n : Nat) : (advanceTo s n).pending = s.pending := rfl
@[simp] theorem hostWrite_dev (s : State) (a : Nat) (b : List Byte) : (hostWrite s a b).dev = s.dev := rfl
@[simp] theorem hostWrite_inlets (s : State) (a : Nat) (b : List Byte) : (hostWrite s a b).inlets = s.inlets := rfl
@[simp] theorem hostWrite_outfalls (s : State) (a : Nat) (b : List Byte) : (hostWrite s a b).outfalls = s.outfalls := rfl
@[simp] theorem hostWrite_irq (s : State) (a : Nat) (b : List Byte) : (hostWrite s a b).irq = s.irq := rfl
@[simp] theorem hostWrite_ap (s : State) (a : Nat) (b : List Byte) : (hostWrite s a b).ap = s.ap := rfl
@[simp] theorem hostWrite_clk (s : State) (a : Nat) (b : List Byte) : (hostWrite s a b).clk = s.clk := rfl
@[simp] theorem hostWrite_events (s : State) (a : Nat) (b : List Byte) : (hostWrite s a b).events = s.events := rfl
@[simp] theorem hostWrite_cmds (s : State) (a : Nat) (b : List Byte) : (hostWrite s a b).cmds = s.cmds := rfl
@[simp] theorem hostWrite_mem (s : State) (a : Nat) (b : List Byte) : (hostWrite s a b).mem = s.mem := rfl
@[simp] theorem hostWrite_msix (s : State) (a : Nat) (b : List Byte) : (hostWrite s a b).msix = s.msix := rfl
@[simp] theorem hostWrite_wire (s : State) (a : Nat) (b : List Byte) : (hostWrite s a b).wire = s.wire := rfl
@[simp] theorem hostWrite_slots (s : State) (a : Nat) (b : List Byte) : (hostWrite s a b).slots = s.slots := rfl
@[simp] theorem hostWrite_sluices (s : State) (a : Nat) (b : List Byte) : (hostWrite s a b).sluices = s.sluices := rfl
@[simp] theorem hostWrite_weir (s : State) (a : Nat) (b : List Byte) : (hostWrite s a b).weir = s.weir := rfl
@[simp] theorem hostWrite_ddr (s : State) (a : Nat) (b : List Byte) : (hostWrite s a b).ddr = s.ddr := rfl
@[simp] theorem hostWrite_selfRefresh (s : State) (a : Nat) (b : List Byte) : (hostWrite s a b).selfRefresh = s.selfRefresh := rfl
@[simp] theorem hostWrite_cores (s : State) (a : Nat) (b : List Byte) : (hostWrite s a b).cores = s.cores := rfl
@[simp] theorem hostWrite_ports (s : State) (a : Nat) (b : List Byte) : (hostWrite s a b).ports = s.ports := rfl
@[simp] theorem hostWrite_net (s : State) (a : Nat) (b : List Byte) : (hostWrite s a b).net = s.net := rfl
@[simp] theorem hostWrite_channels (s : State) (a : Nat) (b : List Byte) : (hostWrite s a b).channels = s.channels := rfl
@[simp] theorem hostWrite_qps (s : State) (a : Nat) (b : List Byte) : (hostWrite s a b).qps = s.qps := rfl
@[simp] theorem hostWrite_dir (s : State) (a : Nat) (b : List Byte) : (hostWrite s a b).dir = s.dir := rfl
@[simp] theorem hostWrite_tide (s : State) (a : Nat) (b : List Byte) : (hostWrite s a b).tide = s.tide := rfl
@[simp] theorem hostWrite_lock (s : State) (a : Nat) (b : List Byte) : (hostWrite s a b).lock = s.lock := rfl
@[simp] theorem hostWrite_pump (s : State) (a : Nat) (b : List Byte) : (hostWrite s a b).pump = s.pump := rfl
@[simp] theorem hostWrite_power (s : State) (a : Nat) (b : List Byte) : (hostWrite s a b).power = s.power := rfl
@[simp] theorem hostWrite_tele (s : State) (a : Nat) (b : List Byte) : (hostWrite s a b).tele = s.tele := rfl
@[simp] theorem hostWrite_err (s : State) (a : Nat) (b : List Byte) : (hostWrite s a b).err = s.err := rfl
@[simp] theorem hostWrite_sec (s : State) (a : Nat) (b : List Byte) : (hostWrite s a b).sec = s.sec := rfl
@[simp] theorem hostWrite_warden (s : State) (a : Nat) (b : List Byte) : (hostWrite s a b).warden = s.warden := rfl
@[simp] theorem hostWrite_rcd (s : State) (a : Nat) (b : List Byte) : (hostWrite s a b).rcd = s.rcd := rfl
@[simp] theorem hostWrite_stalls (s : State) (a : Nat) (b : List Byte) : (hostWrite s a b).stalls = s.stalls := rfl
@[simp] theorem hostWrite_pci (s : State) (a : Nat) (b : List Byte) : (hostWrite s a b).pci = s.pci := rfl
@[simp] theorem hostWrite_pins (s : State) (a : Nat) (b : List Byte) : (hostWrite s a b).pins = s.pins := rfl
@[simp] theorem hostWrite_free (s : State) (a : Nat) (b : List Byte) : (hostWrite s a b).free = s.free := rfl
@[simp] theorem hostWrite_pending (s : State) (a : Nat) (b : List Byte) : (hostWrite s a b).pending = s.pending := rfl
@[simp] theorem sendVector_outfalls (s : State) (v : Nat) : (sendVector s v).outfalls = s.outfalls := by unfold sendVector; split <;> rfl
@[simp] theorem sendVector_dev (s : State) (v : Nat) : (sendVector s v).dev = s.dev := by unfold sendVector; split <;> rfl
@[simp] theorem sendVector_inlets (s : State) (v : Nat) : (sendVector s v).inlets = s.inlets := by unfold sendVector; split <;> rfl
@[simp] theorem sendVector_ap (s : State) (v : Nat) : (sendVector s v).ap = s.ap := by unfold sendVector; split <;> rfl
@[simp] theorem sendVector_clk (s : State) (v : Nat) : (sendVector s v).clk = s.clk := by unfold sendVector; split <;> rfl
@[simp] theorem sendVector_events (s : State) (v : Nat) : (sendVector s v).events = s.events := by unfold sendVector; split <;> rfl
@[simp] theorem sendVector_cmds (s : State) (v : Nat) : (sendVector s v).cmds = s.cmds := by unfold sendVector; split <;> rfl
@[simp] theorem sendVector_mem (s : State) (v : Nat) : (sendVector s v).mem = s.mem := by unfold sendVector; split <;> rfl
@[simp] theorem sendVector_host (s : State) (v : Nat) : (sendVector s v).host = s.host := by unfold sendVector; split <;> rfl
@[simp] theorem sendVector_wire (s : State) (v : Nat) : (sendVector s v).wire = s.wire := by unfold sendVector; split <;> rfl
@[simp] theorem sendVector_slots (s : State) (v : Nat) : (sendVector s v).slots = s.slots := by unfold sendVector; split <;> rfl
@[simp] theorem sendVector_sluices (s : State) (v : Nat) : (sendVector s v).sluices = s.sluices := by unfold sendVector; split <;> rfl
@[simp] theorem sendVector_weir (s : State) (v : Nat) : (sendVector s v).weir = s.weir := by unfold sendVector; split <;> rfl
@[simp] theorem sendVector_ddr (s : State) (v : Nat) : (sendVector s v).ddr = s.ddr := by unfold sendVector; split <;> rfl
@[simp] theorem sendVector_selfRefresh (s : State) (v : Nat) : (sendVector s v).selfRefresh = s.selfRefresh := by unfold sendVector; split <;> rfl
@[simp] theorem sendVector_cores (s : State) (v : Nat) : (sendVector s v).cores = s.cores := by unfold sendVector; split <;> rfl
@[simp] theorem sendVector_ports (s : State) (v : Nat) : (sendVector s v).ports = s.ports := by unfold sendVector; split <;> rfl
@[simp] theorem sendVector_net (s : State) (v : Nat) : (sendVector s v).net = s.net := by unfold sendVector; split <;> rfl
@[simp] theorem sendVector_channels (s : State) (v : Nat) : (sendVector s v).channels = s.channels := by unfold sendVector; split <;> rfl
@[simp] theorem sendVector_qps (s : State) (v : Nat) : (sendVector s v).qps = s.qps := by unfold sendVector; split <;> rfl
@[simp] theorem sendVector_dir (s : State) (v : Nat) : (sendVector s v).dir = s.dir := by unfold sendVector; split <;> rfl
@[simp] theorem sendVector_tide (s : State) (v : Nat) : (sendVector s v).tide = s.tide := by unfold sendVector; split <;> rfl
@[simp] theorem sendVector_lock (s : State) (v : Nat) : (sendVector s v).lock = s.lock := by unfold sendVector; split <;> rfl
@[simp] theorem sendVector_pump (s : State) (v : Nat) : (sendVector s v).pump = s.pump := by unfold sendVector; split <;> rfl
@[simp] theorem sendVector_power (s : State) (v : Nat) : (sendVector s v).power = s.power := by unfold sendVector; split <;> rfl
@[simp] theorem sendVector_tele (s : State) (v : Nat) : (sendVector s v).tele = s.tele := by unfold sendVector; split <;> rfl
@[simp] theorem sendVector_err (s : State) (v : Nat) : (sendVector s v).err = s.err := by unfold sendVector; split <;> rfl
@[simp] theorem sendVector_sec (s : State) (v : Nat) : (sendVector s v).sec = s.sec := by unfold sendVector; split <;> rfl
@[simp] theorem sendVector_warden (s : State) (v : Nat) : (sendVector s v).warden = s.warden := by unfold sendVector; split <;> rfl
@[simp] theorem sendVector_rcd (s : State) (v : Nat) : (sendVector s v).rcd = s.rcd := by unfold sendVector; split <;> rfl
@[simp] theorem sendVector_stalls (s : State) (v : Nat) : (sendVector s v).stalls = s.stalls := by unfold sendVector; split <;> rfl
@[simp] theorem sendVector_pci (s : State) (v : Nat) : (sendVector s v).pci = s.pci := by unfold sendVector; split <;> rfl
@[simp] theorem sendVector_pins (s : State) (v : Nat) : (sendVector s v).pins = s.pins := by unfold sendVector; split <;> rfl
@[simp] theorem sendVector_free (s : State) (v : Nat) : (sendVector s v).free = s.free := by unfold sendVector; split <;> rfl
@[simp] theorem sendVector_pending (s : State) (v : Nat) : (sendVector s v).pending = s.pending := by unfold sendVector; split <;> rfl
@[simp] theorem releaseVector_outfalls (s : State) (v : Nat) : (releaseVector s v).outfalls = s.outfalls := by unfold releaseVector; split <;> rfl
@[simp] theorem releaseVector_dev (s : State) (v : Nat) : (releaseVector s v).dev = s.dev := by unfold releaseVector; split <;> rfl
@[simp] theorem releaseVector_inlets (s : State) (v : Nat) : (releaseVector s v).inlets = s.inlets := by unfold releaseVector; split <;> rfl
@[simp] theorem releaseVector_ap (s : State) (v : Nat) : (releaseVector s v).ap = s.ap := by unfold releaseVector; split <;> rfl
@[simp] theorem releaseVector_clk (s : State) (v : Nat) : (releaseVector s v).clk = s.clk := by unfold releaseVector; split <;> rfl
@[simp] theorem releaseVector_events (s : State) (v : Nat) : (releaseVector s v).events = s.events := by unfold releaseVector; split <;> rfl
@[simp] theorem releaseVector_cmds (s : State) (v : Nat) : (releaseVector s v).cmds = s.cmds := by unfold releaseVector; split <;> rfl
@[simp] theorem releaseVector_mem (s : State) (v : Nat) : (releaseVector s v).mem = s.mem := by unfold releaseVector; split <;> rfl
@[simp] theorem releaseVector_host (s : State) (v : Nat) : (releaseVector s v).host = s.host := by unfold releaseVector; split <;> rfl
@[simp] theorem releaseVector_wire (s : State) (v : Nat) : (releaseVector s v).wire = s.wire := by unfold releaseVector; split <;> rfl
@[simp] theorem releaseVector_slots (s : State) (v : Nat) : (releaseVector s v).slots = s.slots := by unfold releaseVector; split <;> rfl
@[simp] theorem releaseVector_sluices (s : State) (v : Nat) : (releaseVector s v).sluices = s.sluices := by unfold releaseVector; split <;> rfl
@[simp] theorem releaseVector_weir (s : State) (v : Nat) : (releaseVector s v).weir = s.weir := by unfold releaseVector; split <;> rfl
@[simp] theorem releaseVector_ddr (s : State) (v : Nat) : (releaseVector s v).ddr = s.ddr := by unfold releaseVector; split <;> rfl
@[simp] theorem releaseVector_selfRefresh (s : State) (v : Nat) : (releaseVector s v).selfRefresh = s.selfRefresh := by unfold releaseVector; split <;> rfl
@[simp] theorem releaseVector_cores (s : State) (v : Nat) : (releaseVector s v).cores = s.cores := by unfold releaseVector; split <;> rfl
@[simp] theorem releaseVector_ports (s : State) (v : Nat) : (releaseVector s v).ports = s.ports := by unfold releaseVector; split <;> rfl
@[simp] theorem releaseVector_net (s : State) (v : Nat) : (releaseVector s v).net = s.net := by unfold releaseVector; split <;> rfl
@[simp] theorem releaseVector_channels (s : State) (v : Nat) : (releaseVector s v).channels = s.channels := by unfold releaseVector; split <;> rfl
@[simp] theorem releaseVector_qps (s : State) (v : Nat) : (releaseVector s v).qps = s.qps := by unfold releaseVector; split <;> rfl
@[simp] theorem releaseVector_dir (s : State) (v : Nat) : (releaseVector s v).dir = s.dir := by unfold releaseVector; split <;> rfl
@[simp] theorem releaseVector_tide (s : State) (v : Nat) : (releaseVector s v).tide = s.tide := by unfold releaseVector; split <;> rfl
@[simp] theorem releaseVector_lock (s : State) (v : Nat) : (releaseVector s v).lock = s.lock := by unfold releaseVector; split <;> rfl
@[simp] theorem releaseVector_pump (s : State) (v : Nat) : (releaseVector s v).pump = s.pump := by unfold releaseVector; split <;> rfl
@[simp] theorem releaseVector_power (s : State) (v : Nat) : (releaseVector s v).power = s.power := by unfold releaseVector; split <;> rfl
@[simp] theorem releaseVector_tele (s : State) (v : Nat) : (releaseVector s v).tele = s.tele := by unfold releaseVector; split <;> rfl
@[simp] theorem releaseVector_err (s : State) (v : Nat) : (releaseVector s v).err = s.err := by unfold releaseVector; split <;> rfl
@[simp] theorem releaseVector_sec (s : State) (v : Nat) : (releaseVector s v).sec = s.sec := by unfold releaseVector; split <;> rfl
@[simp] theorem releaseVector_warden (s : State) (v : Nat) : (releaseVector s v).warden = s.warden := by unfold releaseVector; split <;> rfl
@[simp] theorem releaseVector_rcd (s : State) (v : Nat) : (releaseVector s v).rcd = s.rcd := by unfold releaseVector; split <;> rfl
@[simp] theorem releaseVector_stalls (s : State) (v : Nat) : (releaseVector s v).stalls = s.stalls := by unfold releaseVector; split <;> rfl
@[simp] theorem releaseVector_pci (s : State) (v : Nat) : (releaseVector s v).pci = s.pci := by unfold releaseVector; split <;> rfl
@[simp] theorem releaseVector_pins (s : State) (v : Nat) : (releaseVector s v).pins = s.pins := by unfold releaseVector; split <;> rfl
@[simp] theorem releaseVector_free (s : State) (v : Nat) : (releaseVector s v).free = s.free := by unfold releaseVector; split <;> rfl
@[simp] theorem releaseVector_pending (s : State) (v : Nat) : (releaseVector s v).pending = s.pending := by unfold releaseVector; split <;> rfl
@[simp] theorem raiseVector_dev (s : State) (i : Nat) : (raiseVector s i).dev = s.dev := by simp [raiseVector]
@[simp] theorem raiseVector_inlets (s : State) (i : Nat) : (raiseVector s i).inlets = s.inlets := by simp [raiseVector]
@[simp] theorem raiseVector_ap (s : State) (i : Nat) : (raiseVector s i).ap = s.ap := by simp [raiseVector]
@[simp] theorem raiseVector_clk (s : State) (i : Nat) : (raiseVector s i).clk = s.clk := by simp [raiseVector]
@[simp] theorem raiseVector_events (s : State) (i : Nat) : (raiseVector s i).events = s.events := by simp [raiseVector]
@[simp] theorem raiseVector_cmds (s : State) (i : Nat) : (raiseVector s i).cmds = s.cmds := by simp [raiseVector]
@[simp] theorem raiseVector_mem (s : State) (i : Nat) : (raiseVector s i).mem = s.mem := by simp [raiseVector]
@[simp] theorem raiseVector_host (s : State) (i : Nat) : (raiseVector s i).host = s.host := by simp [raiseVector]
@[simp] theorem raiseVector_wire (s : State) (i : Nat) : (raiseVector s i).wire = s.wire := by simp [raiseVector]
@[simp] theorem raiseVector_slots (s : State) (i : Nat) : (raiseVector s i).slots = s.slots := by simp [raiseVector]
@[simp] theorem raiseVector_sluices (s : State) (i : Nat) : (raiseVector s i).sluices = s.sluices := by simp [raiseVector]
@[simp] theorem raiseVector_weir (s : State) (i : Nat) : (raiseVector s i).weir = s.weir := by simp [raiseVector]
@[simp] theorem raiseVector_ddr (s : State) (i : Nat) : (raiseVector s i).ddr = s.ddr := by simp [raiseVector]
@[simp] theorem raiseVector_selfRefresh (s : State) (i : Nat) : (raiseVector s i).selfRefresh = s.selfRefresh := by simp [raiseVector]
@[simp] theorem raiseVector_cores (s : State) (i : Nat) : (raiseVector s i).cores = s.cores := by simp [raiseVector]
@[simp] theorem raiseVector_ports (s : State) (i : Nat) : (raiseVector s i).ports = s.ports := by simp [raiseVector]
@[simp] theorem raiseVector_net (s : State) (i : Nat) : (raiseVector s i).net = s.net := by simp [raiseVector]
@[simp] theorem raiseVector_channels (s : State) (i : Nat) : (raiseVector s i).channels = s.channels := by simp [raiseVector]
@[simp] theorem raiseVector_qps (s : State) (i : Nat) : (raiseVector s i).qps = s.qps := by simp [raiseVector]
@[simp] theorem raiseVector_dir (s : State) (i : Nat) : (raiseVector s i).dir = s.dir := by simp [raiseVector]
@[simp] theorem raiseVector_tide (s : State) (i : Nat) : (raiseVector s i).tide = s.tide := by simp [raiseVector]
@[simp] theorem raiseVector_lock (s : State) (i : Nat) : (raiseVector s i).lock = s.lock := by simp [raiseVector]
@[simp] theorem raiseVector_pump (s : State) (i : Nat) : (raiseVector s i).pump = s.pump := by simp [raiseVector]
@[simp] theorem raiseVector_power (s : State) (i : Nat) : (raiseVector s i).power = s.power := by simp [raiseVector]
@[simp] theorem raiseVector_tele (s : State) (i : Nat) : (raiseVector s i).tele = s.tele := by simp [raiseVector]
@[simp] theorem raiseVector_err (s : State) (i : Nat) : (raiseVector s i).err = s.err := by simp [raiseVector]
@[simp] theorem raiseVector_sec (s : State) (i : Nat) : (raiseVector s i).sec = s.sec := by simp [raiseVector]
@[simp] theorem raiseVector_warden (s : State) (i : Nat) : (raiseVector s i).warden = s.warden := by simp [raiseVector]
@[simp] theorem raiseVector_rcd (s : State) (i : Nat) : (raiseVector s i).rcd = s.rcd := by simp [raiseVector]
@[simp] theorem raiseVector_stalls (s : State) (i : Nat) : (raiseVector s i).stalls = s.stalls := by simp [raiseVector]
@[simp] theorem raiseVector_pci (s : State) (i : Nat) : (raiseVector s i).pci = s.pci := by simp [raiseVector]
@[simp] theorem raiseVector_pins (s : State) (i : Nat) : (raiseVector s i).pins = s.pins := by simp [raiseVector]
@[simp] theorem raiseVector_free (s : State) (i : Nat) : (raiseVector s i).free = s.free := by simp [raiseVector]
@[simp] theorem raiseVector_pending (s : State) (i : Nat) : (raiseVector s i).pending = s.pending := by simp [raiseVector]
@[simp] theorem raiseAlert_dev (s : State)  : (raiseAlert s).dev = s.dev := rfl
@[simp] theorem raiseAlert_inlets (s : State)  : (raiseAlert s).inlets = s.inlets := rfl
@[simp] theorem raiseAlert_outfalls (s : State)  : (raiseAlert s).outfalls = s.outfalls := rfl
@[simp] theorem raiseAlert_irq (s : State)  : (raiseAlert s).irq = s.irq := rfl
@[simp] theorem raiseAlert_ap (s : State)  : (raiseAlert s).ap = s.ap := rfl
@[simp] theorem raiseAlert_clk (s : State)  : (raiseAlert s).clk = s.clk := rfl
@[simp] theorem raiseAlert_events (s : State)  : (raiseAlert s).events = s.events := rfl
@[simp] theorem raiseAlert_cmds (s : State)  : (raiseAlert s).cmds = s.cmds := rfl
@[simp] theorem raiseAlert_mem (s : State)  : (raiseAlert s).mem = s.mem := rfl
@[simp] theorem raiseAlert_host (s : State)  : (raiseAlert s).host = s.host := rfl
@[simp] theorem raiseAlert_msix (s : State)  : (raiseAlert s).msix = s.msix := rfl
@[simp] theorem raiseAlert_wire (s : State)  : (raiseAlert s).wire = s.wire := rfl
@[simp] theorem raiseAlert_slots (s : State)  : (raiseAlert s).slots = s.slots := rfl
@[simp] theorem raiseAlert_sluices (s : State)  : (raiseAlert s).sluices = s.sluices := rfl
@[simp] theorem raiseAlert_weir (s : State)  : (raiseAlert s).weir = s.weir := rfl
@[simp] theorem raiseAlert_ddr (s : State)  : (raiseAlert s).ddr = s.ddr := rfl
@[simp] theorem raiseAlert_selfRefresh (s : State)  : (raiseAlert s).selfRefresh = s.selfRefresh := rfl
@[simp] theorem raiseAlert_cores (s : State)  : (raiseAlert s).cores = s.cores := rfl
@[simp] theorem raiseAlert_ports (s : State)  : (raiseAlert s).ports = s.ports := rfl
@[simp] theorem raiseAlert_net (s : State)  : (raiseAlert s).net = s.net := rfl
@[simp] theorem raiseAlert_channels (s : State)  : (raiseAlert s).channels = s.channels := rfl
@[simp] theorem raiseAlert_qps (s : State)  : (raiseAlert s).qps = s.qps := rfl
@[simp] theorem raiseAlert_dir (s : State)  : (raiseAlert s).dir = s.dir := rfl
@[simp] theorem raiseAlert_tide (s : State)  : (raiseAlert s).tide = s.tide := rfl
@[simp] theorem raiseAlert_lock (s : State)  : (raiseAlert s).lock = s.lock := rfl
@[simp] theorem raiseAlert_pump (s : State)  : (raiseAlert s).pump = s.pump := rfl
@[simp] theorem raiseAlert_power (s : State)  : (raiseAlert s).power = s.power := rfl
@[simp] theorem raiseAlert_tele (s : State)  : (raiseAlert s).tele = s.tele := rfl
@[simp] theorem raiseAlert_err (s : State)  : (raiseAlert s).err = s.err := rfl
@[simp] theorem raiseAlert_sec (s : State)  : (raiseAlert s).sec = s.sec := rfl
@[simp] theorem raiseAlert_rcd (s : State)  : (raiseAlert s).rcd = s.rcd := rfl
@[simp] theorem raiseAlert_stalls (s : State)  : (raiseAlert s).stalls = s.stalls := rfl
@[simp] theorem raiseAlert_pci (s : State)  : (raiseAlert s).pci = s.pci := rfl
@[simp] theorem raiseAlert_pins (s : State)  : (raiseAlert s).pins = s.pins := rfl
@[simp] theorem raiseAlert_free (s : State)  : (raiseAlert s).free = s.free := rfl
@[simp] theorem raiseAlert_pending (s : State)  : (raiseAlert s).pending = s.pending := rfl
@[simp] theorem lowerCauses_dev (s : State)  : (lowerCauses s).dev = s.dev := rfl
@[simp] theorem lowerCauses_inlets (s : State)  : (lowerCauses s).inlets = s.inlets := rfl
@[simp] theorem lowerCauses_outfalls (s : State)  : (lowerCauses s).outfalls = s.outfalls := rfl
@[simp] theorem lowerCauses_ap (s : State)  : (lowerCauses s).ap = s.ap := rfl
@[simp] theorem lowerCauses_clk (s : State)  : (lowerCauses s).clk = s.clk := rfl
@[simp] theorem lowerCauses_events (s : State)  : (lowerCauses s).events = s.events := rfl
@[simp] theorem lowerCauses_cmds (s : State)  : (lowerCauses s).cmds = s.cmds := rfl
@[simp] theorem lowerCauses_mem (s : State)  : (lowerCauses s).mem = s.mem := rfl
@[simp] theorem lowerCauses_host (s : State)  : (lowerCauses s).host = s.host := rfl
@[simp] theorem lowerCauses_msix (s : State)  : (lowerCauses s).msix = s.msix := rfl
@[simp] theorem lowerCauses_wire (s : State)  : (lowerCauses s).wire = s.wire := rfl
@[simp] theorem lowerCauses_slots (s : State)  : (lowerCauses s).slots = s.slots := rfl
@[simp] theorem lowerCauses_sluices (s : State)  : (lowerCauses s).sluices = s.sluices := rfl
@[simp] theorem lowerCauses_weir (s : State)  : (lowerCauses s).weir = s.weir := rfl
@[simp] theorem lowerCauses_ddr (s : State)  : (lowerCauses s).ddr = s.ddr := rfl
@[simp] theorem lowerCauses_selfRefresh (s : State)  : (lowerCauses s).selfRefresh = s.selfRefresh := rfl
@[simp] theorem lowerCauses_cores (s : State)  : (lowerCauses s).cores = s.cores := rfl
@[simp] theorem lowerCauses_ports (s : State)  : (lowerCauses s).ports = s.ports := rfl
@[simp] theorem lowerCauses_net (s : State)  : (lowerCauses s).net = s.net := rfl
@[simp] theorem lowerCauses_channels (s : State)  : (lowerCauses s).channels = s.channels := rfl
@[simp] theorem lowerCauses_qps (s : State)  : (lowerCauses s).qps = s.qps := rfl
@[simp] theorem lowerCauses_dir (s : State)  : (lowerCauses s).dir = s.dir := rfl
@[simp] theorem lowerCauses_tide (s : State)  : (lowerCauses s).tide = s.tide := rfl
@[simp] theorem lowerCauses_lock (s : State)  : (lowerCauses s).lock = s.lock := rfl
@[simp] theorem lowerCauses_pump (s : State)  : (lowerCauses s).pump = s.pump := rfl
@[simp] theorem lowerCauses_power (s : State)  : (lowerCauses s).power = s.power := rfl
@[simp] theorem lowerCauses_tele (s : State)  : (lowerCauses s).tele = s.tele := rfl
@[simp] theorem lowerCauses_err (s : State)  : (lowerCauses s).err = s.err := rfl
@[simp] theorem lowerCauses_sec (s : State)  : (lowerCauses s).sec = s.sec := rfl
@[simp] theorem lowerCauses_warden (s : State)  : (lowerCauses s).warden = s.warden := rfl
@[simp] theorem lowerCauses_rcd (s : State)  : (lowerCauses s).rcd = s.rcd := rfl
@[simp] theorem lowerCauses_stalls (s : State)  : (lowerCauses s).stalls = s.stalls := rfl
@[simp] theorem lowerCauses_pci (s : State)  : (lowerCauses s).pci = s.pci := rfl
@[simp] theorem lowerCauses_pins (s : State)  : (lowerCauses s).pins = s.pins := rfl
@[simp] theorem lowerCauses_free (s : State)  : (lowerCauses s).free = s.free := rfl
@[simp] theorem lowerCauses_pending (s : State)  : (lowerCauses s).pending = s.pending := rfl
@[simp] theorem progress_dev (s : State) (id : CmdId) : (progress s id).dev = s.dev := rfl
@[simp] theorem progress_inlets (s : State) (id : CmdId) : (progress s id).inlets = s.inlets := rfl
@[simp] theorem progress_outfalls (s : State) (id : CmdId) : (progress s id).outfalls = s.outfalls := rfl
@[simp] theorem progress_irq (s : State) (id : CmdId) : (progress s id).irq = s.irq := rfl
@[simp] theorem progress_ap (s : State) (id : CmdId) : (progress s id).ap = s.ap := rfl
@[simp] theorem progress_clk (s : State) (id : CmdId) : (progress s id).clk = s.clk := rfl
@[simp] theorem progress_events (s : State) (id : CmdId) : (progress s id).events = s.events := rfl
@[simp] theorem progress_mem (s : State) (id : CmdId) : (progress s id).mem = s.mem := rfl
@[simp] theorem progress_host (s : State) (id : CmdId) : (progress s id).host = s.host := rfl
@[simp] theorem progress_msix (s : State) (id : CmdId) : (progress s id).msix = s.msix := rfl
@[simp] theorem progress_wire (s : State) (id : CmdId) : (progress s id).wire = s.wire := rfl
@[simp] theorem progress_slots (s : State) (id : CmdId) : (progress s id).slots = s.slots := rfl
@[simp] theorem progress_sluices (s : State) (id : CmdId) : (progress s id).sluices = s.sluices := rfl
@[simp] theorem progress_weir (s : State) (id : CmdId) : (progress s id).weir = s.weir := rfl
@[simp] theorem progress_ddr (s : State) (id : CmdId) : (progress s id).ddr = s.ddr := rfl
@[simp] theorem progress_selfRefresh (s : State) (id : CmdId) : (progress s id).selfRefresh = s.selfRefresh := rfl
@[simp] theorem progress_cores (s : State) (id : CmdId) : (progress s id).cores = s.cores := rfl
@[simp] theorem progress_ports (s : State) (id : CmdId) : (progress s id).ports = s.ports := rfl
@[simp] theorem progress_net (s : State) (id : CmdId) : (progress s id).net = s.net := rfl
@[simp] theorem progress_channels (s : State) (id : CmdId) : (progress s id).channels = s.channels := rfl
@[simp] theorem progress_qps (s : State) (id : CmdId) : (progress s id).qps = s.qps := rfl
@[simp] theorem progress_dir (s : State) (id : CmdId) : (progress s id).dir = s.dir := rfl
@[simp] theorem progress_tide (s : State) (id : CmdId) : (progress s id).tide = s.tide := rfl
@[simp] theorem progress_lock (s : State) (id : CmdId) : (progress s id).lock = s.lock := rfl
@[simp] theorem progress_pump (s : State) (id : CmdId) : (progress s id).pump = s.pump := rfl
@[simp] theorem progress_power (s : State) (id : CmdId) : (progress s id).power = s.power := rfl
@[simp] theorem progress_tele (s : State) (id : CmdId) : (progress s id).tele = s.tele := rfl
@[simp] theorem progress_err (s : State) (id : CmdId) : (progress s id).err = s.err := rfl
@[simp] theorem progress_sec (s : State) (id : CmdId) : (progress s id).sec = s.sec := rfl
@[simp] theorem progress_warden (s : State) (id : CmdId) : (progress s id).warden = s.warden := rfl
@[simp] theorem progress_rcd (s : State) (id : CmdId) : (progress s id).rcd = s.rcd := rfl
@[simp] theorem progress_stalls (s : State) (id : CmdId) : (progress s id).stalls = s.stalls := rfl
@[simp] theorem progress_pci (s : State) (id : CmdId) : (progress s id).pci = s.pci := rfl
@[simp] theorem progress_pins (s : State) (id : CmdId) : (progress s id).pins = s.pins := rfl
@[simp] theorem progress_free (s : State) (id : CmdId) : (progress s id).free = s.free := rfl
@[simp] theorem progress_pending (s : State) (id : CmdId) : (progress s id).pending = s.pending := rfl
@[simp] theorem setEvent_dev (s : State) (e : Nat) (v : W32) : (setEvent s e v).dev = s.dev := by unfold setEvent; split <;> rfl
@[simp] theorem setEvent_inlets (s : State) (e : Nat) (v : W32) : (setEvent s e v).inlets = s.inlets := by unfold setEvent; split <;> rfl
@[simp] theorem setEvent_outfalls (s : State) (e : Nat) (v : W32) : (setEvent s e v).outfalls = s.outfalls := by unfold setEvent; split <;> rfl
@[simp] theorem setEvent_irq (s : State) (e : Nat) (v : W32) : (setEvent s e v).irq = s.irq := by unfold setEvent; split <;> rfl
@[simp] theorem setEvent_ap (s : State) (e : Nat) (v : W32) : (setEvent s e v).ap = s.ap := by unfold setEvent; split <;> rfl
@[simp] theorem setEvent_clk (s : State) (e : Nat) (v : W32) : (setEvent s e v).clk = s.clk := by unfold setEvent; split <;> rfl
@[simp] theorem setEvent_mem (s : State) (e : Nat) (v : W32) : (setEvent s e v).mem = s.mem := by unfold setEvent; split <;> rfl
@[simp] theorem setEvent_host (s : State) (e : Nat) (v : W32) : (setEvent s e v).host = s.host := by unfold setEvent; split <;> rfl
@[simp] theorem setEvent_msix (s : State) (e : Nat) (v : W32) : (setEvent s e v).msix = s.msix := by unfold setEvent; split <;> rfl
@[simp] theorem setEvent_wire (s : State) (e : Nat) (v : W32) : (setEvent s e v).wire = s.wire := by unfold setEvent; split <;> rfl
@[simp] theorem setEvent_slots (s : State) (e : Nat) (v : W32) : (setEvent s e v).slots = s.slots := by unfold setEvent; split <;> rfl
@[simp] theorem setEvent_sluices (s : State) (e : Nat) (v : W32) : (setEvent s e v).sluices = s.sluices := by unfold setEvent; split <;> rfl
@[simp] theorem setEvent_weir (s : State) (e : Nat) (v : W32) : (setEvent s e v).weir = s.weir := by unfold setEvent; split <;> rfl
@[simp] theorem setEvent_ddr (s : State) (e : Nat) (v : W32) : (setEvent s e v).ddr = s.ddr := by unfold setEvent; split <;> rfl
@[simp] theorem setEvent_selfRefresh (s : State) (e : Nat) (v : W32) : (setEvent s e v).selfRefresh = s.selfRefresh := by unfold setEvent; split <;> rfl
@[simp] theorem setEvent_cores (s : State) (e : Nat) (v : W32) : (setEvent s e v).cores = s.cores := by unfold setEvent; split <;> rfl
@[simp] theorem setEvent_ports (s : State) (e : Nat) (v : W32) : (setEvent s e v).ports = s.ports := by unfold setEvent; split <;> rfl
@[simp] theorem setEvent_net (s : State) (e : Nat) (v : W32) : (setEvent s e v).net = s.net := by unfold setEvent; split <;> rfl
@[simp] theorem setEvent_channels (s : State) (e : Nat) (v : W32) : (setEvent s e v).channels = s.channels := by unfold setEvent; split <;> rfl
@[simp] theorem setEvent_qps (s : State) (e : Nat) (v : W32) : (setEvent s e v).qps = s.qps := by unfold setEvent; split <;> rfl
@[simp] theorem setEvent_dir (s : State) (e : Nat) (v : W32) : (setEvent s e v).dir = s.dir := by unfold setEvent; split <;> rfl
@[simp] theorem setEvent_tide (s : State) (e : Nat) (v : W32) : (setEvent s e v).tide = s.tide := by unfold setEvent; split <;> rfl
@[simp] theorem setEvent_lock (s : State) (e : Nat) (v : W32) : (setEvent s e v).lock = s.lock := by unfold setEvent; split <;> rfl
@[simp] theorem setEvent_pump (s : State) (e : Nat) (v : W32) : (setEvent s e v).pump = s.pump := by unfold setEvent; split <;> rfl
@[simp] theorem setEvent_power (s : State) (e : Nat) (v : W32) : (setEvent s e v).power = s.power := by unfold setEvent; split <;> rfl
@[simp] theorem setEvent_tele (s : State) (e : Nat) (v : W32) : (setEvent s e v).tele = s.tele := by unfold setEvent; split <;> rfl
@[simp] theorem setEvent_err (s : State) (e : Nat) (v : W32) : (setEvent s e v).err = s.err := by unfold setEvent; split <;> rfl
@[simp] theorem setEvent_sec (s : State) (e : Nat) (v : W32) : (setEvent s e v).sec = s.sec := by unfold setEvent; split <;> rfl
@[simp] theorem setEvent_warden (s : State) (e : Nat) (v : W32) : (setEvent s e v).warden = s.warden := by unfold setEvent; split <;> rfl
@[simp] theorem setEvent_rcd (s : State) (e : Nat) (v : W32) : (setEvent s e v).rcd = s.rcd := by unfold setEvent; split <;> rfl
@[simp] theorem setEvent_stalls (s : State) (e : Nat) (v : W32) : (setEvent s e v).stalls = s.stalls := by unfold setEvent; split <;> rfl
@[simp] theorem setEvent_pci (s : State) (e : Nat) (v : W32) : (setEvent s e v).pci = s.pci := by unfold setEvent; split <;> rfl
@[simp] theorem setEvent_pins (s : State) (e : Nat) (v : W32) : (setEvent s e v).pins = s.pins := by unfold setEvent; split <;> rfl
@[simp] theorem setEvent_free (s : State) (e : Nat) (v : W32) : (setEvent s e v).free = s.free := by unfold setEvent; split <;> rfl
@[simp] theorem setEvent_pending (s : State) (e : Nat) (v : W32) : (setEvent s e v).pending = s.pending := by unfold setEvent; split <;> rfl
@[simp] theorem addEvent_dev (s : State) (e n : Nat) : (addEvent s e n).dev = s.dev := setEvent_dev s e _
@[simp] theorem addEvent_inlets (s : State) (e n : Nat) : (addEvent s e n).inlets = s.inlets := setEvent_inlets s e _
@[simp] theorem addEvent_outfalls (s : State) (e n : Nat) : (addEvent s e n).outfalls = s.outfalls := setEvent_outfalls s e _
@[simp] theorem addEvent_irq (s : State) (e n : Nat) : (addEvent s e n).irq = s.irq := setEvent_irq s e _
@[simp] theorem addEvent_ap (s : State) (e n : Nat) : (addEvent s e n).ap = s.ap := setEvent_ap s e _
@[simp] theorem addEvent_clk (s : State) (e n : Nat) : (addEvent s e n).clk = s.clk := setEvent_clk s e _
@[simp] theorem addEvent_mem (s : State) (e n : Nat) : (addEvent s e n).mem = s.mem := setEvent_mem s e _
@[simp] theorem addEvent_host (s : State) (e n : Nat) : (addEvent s e n).host = s.host := setEvent_host s e _
@[simp] theorem addEvent_msix (s : State) (e n : Nat) : (addEvent s e n).msix = s.msix := setEvent_msix s e _
@[simp] theorem addEvent_wire (s : State) (e n : Nat) : (addEvent s e n).wire = s.wire := setEvent_wire s e _
@[simp] theorem addEvent_slots (s : State) (e n : Nat) : (addEvent s e n).slots = s.slots := setEvent_slots s e _
@[simp] theorem addEvent_sluices (s : State) (e n : Nat) : (addEvent s e n).sluices = s.sluices := setEvent_sluices s e _
@[simp] theorem addEvent_weir (s : State) (e n : Nat) : (addEvent s e n).weir = s.weir := setEvent_weir s e _
@[simp] theorem addEvent_ddr (s : State) (e n : Nat) : (addEvent s e n).ddr = s.ddr := setEvent_ddr s e _
@[simp] theorem addEvent_selfRefresh (s : State) (e n : Nat) : (addEvent s e n).selfRefresh = s.selfRefresh := setEvent_selfRefresh s e _
@[simp] theorem addEvent_cores (s : State) (e n : Nat) : (addEvent s e n).cores = s.cores := setEvent_cores s e _
@[simp] theorem addEvent_ports (s : State) (e n : Nat) : (addEvent s e n).ports = s.ports := setEvent_ports s e _
@[simp] theorem addEvent_net (s : State) (e n : Nat) : (addEvent s e n).net = s.net := setEvent_net s e _
@[simp] theorem addEvent_channels (s : State) (e n : Nat) : (addEvent s e n).channels = s.channels := setEvent_channels s e _
@[simp] theorem addEvent_qps (s : State) (e n : Nat) : (addEvent s e n).qps = s.qps := setEvent_qps s e _
@[simp] theorem addEvent_dir (s : State) (e n : Nat) : (addEvent s e n).dir = s.dir := setEvent_dir s e _
@[simp] theorem addEvent_tide (s : State) (e n : Nat) : (addEvent s e n).tide = s.tide := setEvent_tide s e _
@[simp] theorem addEvent_lock (s : State) (e n : Nat) : (addEvent s e n).lock = s.lock := setEvent_lock s e _
@[simp] theorem addEvent_pump (s : State) (e n : Nat) : (addEvent s e n).pump = s.pump := setEvent_pump s e _
@[simp] theorem addEvent_power (s : State) (e n : Nat) : (addEvent s e n).power = s.power := setEvent_power s e _
@[simp] theorem addEvent_tele (s : State) (e n : Nat) : (addEvent s e n).tele = s.tele := setEvent_tele s e _
@[simp] theorem addEvent_err (s : State) (e n : Nat) : (addEvent s e n).err = s.err := setEvent_err s e _
@[simp] theorem addEvent_sec (s : State) (e n : Nat) : (addEvent s e n).sec = s.sec := setEvent_sec s e _
@[simp] theorem addEvent_warden (s : State) (e n : Nat) : (addEvent s e n).warden = s.warden := setEvent_warden s e _
@[simp] theorem addEvent_rcd (s : State) (e n : Nat) : (addEvent s e n).rcd = s.rcd := setEvent_rcd s e _
@[simp] theorem addEvent_stalls (s : State) (e n : Nat) : (addEvent s e n).stalls = s.stalls := setEvent_stalls s e _
@[simp] theorem addEvent_pci (s : State) (e n : Nat) : (addEvent s e n).pci = s.pci := setEvent_pci s e _
@[simp] theorem addEvent_pins (s : State) (e n : Nat) : (addEvent s e n).pins = s.pins := setEvent_pins s e _
@[simp] theorem addEvent_free (s : State) (e n : Nat) : (addEvent s e n).free = s.free := setEvent_free s e _
@[simp] theorem addEvent_pending (s : State) (e n : Nat) : (addEvent s e n).pending = s.pending := setEvent_pending s e _
@[simp] theorem raiseCause_dev (s : State) (n : Nat) : (raiseCause s n).dev = s.dev := by unfold raiseCause; split; rfl; dsimp only; split <;> simp
@[simp] theorem raiseCause_inlets (s : State) (n : Nat) : (raiseCause s n).inlets = s.inlets := by unfold raiseCause; split; rfl; dsimp only; split <;> simp
@[simp] theorem raiseCause_outfalls (s : State) (n : Nat) : (raiseCause s n).outfalls = s.outfalls := by unfold raiseCause; split; rfl; dsimp only; split <;> simp
@[simp] theorem raiseCause_ap (s : State) (n : Nat) : (raiseCause s n).ap = s.ap := by unfold raiseCause; split; rfl; dsimp only; split <;> simp
@[simp] theorem raiseCause_clk (s : State) (n : Nat) : (raiseCause s n).clk = s.clk := by unfold raiseCause; split; rfl; dsimp only; split <;> simp
@[simp] theorem raiseCause_events (s : State) (n : Nat) : (raiseCause s n).events = s.events := by unfold raiseCause; split; rfl; dsimp only; split <;> simp
@[simp] theorem raiseCause_cmds (s : State) (n : Nat) : (raiseCause s n).cmds = s.cmds := by unfold raiseCause; split; rfl; dsimp only; split <;> simp
@[simp] theorem raiseCause_mem (s : State) (n : Nat) : (raiseCause s n).mem = s.mem := by unfold raiseCause; split; rfl; dsimp only; split <;> simp
@[simp] theorem raiseCause_host (s : State) (n : Nat) : (raiseCause s n).host = s.host := by unfold raiseCause; split; rfl; dsimp only; split <;> simp
@[simp] theorem raiseCause_wire (s : State) (n : Nat) : (raiseCause s n).wire = s.wire := by unfold raiseCause; split; rfl; dsimp only; split <;> simp
@[simp] theorem raiseCause_slots (s : State) (n : Nat) : (raiseCause s n).slots = s.slots := by unfold raiseCause; split; rfl; dsimp only; split <;> simp
@[simp] theorem raiseCause_sluices (s : State) (n : Nat) : (raiseCause s n).sluices = s.sluices := by unfold raiseCause; split; rfl; dsimp only; split <;> simp
@[simp] theorem raiseCause_weir (s : State) (n : Nat) : (raiseCause s n).weir = s.weir := by unfold raiseCause; split; rfl; dsimp only; split <;> simp
@[simp] theorem raiseCause_ddr (s : State) (n : Nat) : (raiseCause s n).ddr = s.ddr := by unfold raiseCause; split; rfl; dsimp only; split <;> simp
@[simp] theorem raiseCause_selfRefresh (s : State) (n : Nat) : (raiseCause s n).selfRefresh = s.selfRefresh := by unfold raiseCause; split; rfl; dsimp only; split <;> simp
@[simp] theorem raiseCause_cores (s : State) (n : Nat) : (raiseCause s n).cores = s.cores := by unfold raiseCause; split; rfl; dsimp only; split <;> simp
@[simp] theorem raiseCause_ports (s : State) (n : Nat) : (raiseCause s n).ports = s.ports := by unfold raiseCause; split; rfl; dsimp only; split <;> simp
@[simp] theorem raiseCause_net (s : State) (n : Nat) : (raiseCause s n).net = s.net := by unfold raiseCause; split; rfl; dsimp only; split <;> simp
@[simp] theorem raiseCause_channels (s : State) (n : Nat) : (raiseCause s n).channels = s.channels := by unfold raiseCause; split; rfl; dsimp only; split <;> simp
@[simp] theorem raiseCause_qps (s : State) (n : Nat) : (raiseCause s n).qps = s.qps := by unfold raiseCause; split; rfl; dsimp only; split <;> simp
@[simp] theorem raiseCause_dir (s : State) (n : Nat) : (raiseCause s n).dir = s.dir := by unfold raiseCause; split; rfl; dsimp only; split <;> simp
@[simp] theorem raiseCause_tide (s : State) (n : Nat) : (raiseCause s n).tide = s.tide := by unfold raiseCause; split; rfl; dsimp only; split <;> simp
@[simp] theorem raiseCause_lock (s : State) (n : Nat) : (raiseCause s n).lock = s.lock := by unfold raiseCause; split; rfl; dsimp only; split <;> simp
@[simp] theorem raiseCause_pump (s : State) (n : Nat) : (raiseCause s n).pump = s.pump := by unfold raiseCause; split; rfl; dsimp only; split <;> simp
@[simp] theorem raiseCause_power (s : State) (n : Nat) : (raiseCause s n).power = s.power := by unfold raiseCause; split; rfl; dsimp only; split <;> simp
@[simp] theorem raiseCause_tele (s : State) (n : Nat) : (raiseCause s n).tele = s.tele := by unfold raiseCause; split; rfl; dsimp only; split <;> simp
@[simp] theorem raiseCause_err (s : State) (n : Nat) : (raiseCause s n).err = s.err := by unfold raiseCause; split; rfl; dsimp only; split <;> simp
@[simp] theorem raiseCause_sec (s : State) (n : Nat) : (raiseCause s n).sec = s.sec := by unfold raiseCause; split; rfl; dsimp only; split <;> simp
@[simp] theorem raiseCause_warden (s : State) (n : Nat) : (raiseCause s n).warden = s.warden := by unfold raiseCause; split; rfl; dsimp only; split <;> simp
@[simp] theorem raiseCause_rcd (s : State) (n : Nat) : (raiseCause s n).rcd = s.rcd := by unfold raiseCause; split; rfl; dsimp only; split <;> simp
@[simp] theorem raiseCause_stalls (s : State) (n : Nat) : (raiseCause s n).stalls = s.stalls := by unfold raiseCause; split; rfl; dsimp only; split <;> simp
@[simp] theorem raiseCause_pci (s : State) (n : Nat) : (raiseCause s n).pci = s.pci := by unfold raiseCause; split; rfl; dsimp only; split <;> simp
@[simp] theorem raiseCause_pins (s : State) (n : Nat) : (raiseCause s n).pins = s.pins := by unfold raiseCause; split; rfl; dsimp only; split <;> simp
@[simp] theorem raiseCause_free (s : State) (n : Nat) : (raiseCause s n).free = s.free := by unfold raiseCause; split; rfl; dsimp only; split <;> simp
@[simp] theorem raiseCause_pending (s : State) (n : Nat) : (raiseCause s n).pending = s.pending := by unfold raiseCause; split; rfl; dsimp only; split <;> simp
@[simp] theorem setDevState_inlets (s : State) (st : DevState) : (setDevState s st).inlets = s.inlets := by unfold setDevState; split <;> simp
@[simp] theorem setDevState_outfalls (s : State) (st : DevState) : (setDevState s st).outfalls = s.outfalls := by unfold setDevState; split <;> simp
@[simp] theorem setDevState_ap (s : State) (st : DevState) : (setDevState s st).ap = s.ap := by unfold setDevState; split <;> simp
@[simp] theorem setDevState_clk (s : State) (st : DevState) : (setDevState s st).clk = s.clk := by unfold setDevState; split <;> simp
@[simp] theorem setDevState_events (s : State) (st : DevState) : (setDevState s st).events = s.events := by unfold setDevState; split <;> simp
@[simp] theorem setDevState_cmds (s : State) (st : DevState) : (setDevState s st).cmds = s.cmds := by unfold setDevState; split <;> simp
@[simp] theorem setDevState_mem (s : State) (st : DevState) : (setDevState s st).mem = s.mem := by unfold setDevState; split <;> simp
@[simp] theorem setDevState_host (s : State) (st : DevState) : (setDevState s st).host = s.host := by unfold setDevState; split <;> simp
@[simp] theorem setDevState_wire (s : State) (st : DevState) : (setDevState s st).wire = s.wire := by unfold setDevState; split <;> simp
@[simp] theorem setDevState_slots (s : State) (st : DevState) : (setDevState s st).slots = s.slots := by unfold setDevState; split <;> simp
@[simp] theorem setDevState_sluices (s : State) (st : DevState) : (setDevState s st).sluices = s.sluices := by unfold setDevState; split <;> simp
@[simp] theorem setDevState_weir (s : State) (st : DevState) : (setDevState s st).weir = s.weir := by unfold setDevState; split <;> simp
@[simp] theorem setDevState_ddr (s : State) (st : DevState) : (setDevState s st).ddr = s.ddr := by unfold setDevState; split <;> simp
@[simp] theorem setDevState_selfRefresh (s : State) (st : DevState) : (setDevState s st).selfRefresh = s.selfRefresh := by unfold setDevState; split <;> simp
@[simp] theorem setDevState_cores (s : State) (st : DevState) : (setDevState s st).cores = s.cores := by unfold setDevState; split <;> simp
@[simp] theorem setDevState_ports (s : State) (st : DevState) : (setDevState s st).ports = s.ports := by unfold setDevState; split <;> simp
@[simp] theorem setDevState_net (s : State) (st : DevState) : (setDevState s st).net = s.net := by unfold setDevState; split <;> simp
@[simp] theorem setDevState_channels (s : State) (st : DevState) : (setDevState s st).channels = s.channels := by unfold setDevState; split <;> simp
@[simp] theorem setDevState_qps (s : State) (st : DevState) : (setDevState s st).qps = s.qps := by unfold setDevState; split <;> simp
@[simp] theorem setDevState_dir (s : State) (st : DevState) : (setDevState s st).dir = s.dir := by unfold setDevState; split <;> simp
@[simp] theorem setDevState_tide (s : State) (st : DevState) : (setDevState s st).tide = s.tide := by unfold setDevState; split <;> simp
@[simp] theorem setDevState_lock (s : State) (st : DevState) : (setDevState s st).lock = s.lock := by unfold setDevState; split <;> simp
@[simp] theorem setDevState_pump (s : State) (st : DevState) : (setDevState s st).pump = s.pump := by unfold setDevState; split <;> simp
@[simp] theorem setDevState_power (s : State) (st : DevState) : (setDevState s st).power = s.power := by unfold setDevState; split <;> simp
@[simp] theorem setDevState_tele (s : State) (st : DevState) : (setDevState s st).tele = s.tele := by unfold setDevState; split <;> simp
@[simp] theorem setDevState_err (s : State) (st : DevState) : (setDevState s st).err = s.err := by unfold setDevState; split <;> simp
@[simp] theorem setDevState_sec (s : State) (st : DevState) : (setDevState s st).sec = s.sec := by unfold setDevState; split <;> simp
@[simp] theorem setDevState_warden (s : State) (st : DevState) : (setDevState s st).warden = s.warden := by unfold setDevState; split <;> simp
@[simp] theorem setDevState_rcd (s : State) (st : DevState) : (setDevState s st).rcd = s.rcd := by unfold setDevState; split <;> simp
@[simp] theorem setDevState_stalls (s : State) (st : DevState) : (setDevState s st).stalls = s.stalls := by unfold setDevState; split <;> simp
@[simp] theorem setDevState_pci (s : State) (st : DevState) : (setDevState s st).pci = s.pci := by unfold setDevState; split <;> simp
@[simp] theorem setDevState_pins (s : State) (st : DevState) : (setDevState s st).pins = s.pins := by unfold setDevState; split <;> simp
@[simp] theorem setDevState_free (s : State) (st : DevState) : (setDevState s st).free = s.free := by unfold setDevState; split <;> simp
@[simp] theorem setDevState_pending (s : State) (st : DevState) : (setDevState s st).pending = s.pending := by unfold setDevState; split <;> simp
@[simp] theorem setInletFlag_dev (s : State) (i : Nat) (f : InletFlag) : (setInletFlag s i f).dev = s.dev := by simp [setInletFlag]
@[simp] theorem setInletFlag_outfalls (s : State) (i : Nat) (f : InletFlag) : (setInletFlag s i f).outfalls = s.outfalls := by simp [setInletFlag]
@[simp] theorem setInletFlag_ap (s : State) (i : Nat) (f : InletFlag) : (setInletFlag s i f).ap = s.ap := by simp [setInletFlag]
@[simp] theorem setInletFlag_clk (s : State) (i : Nat) (f : InletFlag) : (setInletFlag s i f).clk = s.clk := by simp [setInletFlag]
@[simp] theorem setInletFlag_events (s : State) (i : Nat) (f : InletFlag) : (setInletFlag s i f).events = s.events := by simp [setInletFlag]
@[simp] theorem setInletFlag_cmds (s : State) (i : Nat) (f : InletFlag) : (setInletFlag s i f).cmds = s.cmds := by simp [setInletFlag]
@[simp] theorem setInletFlag_mem (s : State) (i : Nat) (f : InletFlag) : (setInletFlag s i f).mem = s.mem := by simp [setInletFlag]
@[simp] theorem setInletFlag_host (s : State) (i : Nat) (f : InletFlag) : (setInletFlag s i f).host = s.host := by simp [setInletFlag]
@[simp] theorem setInletFlag_wire (s : State) (i : Nat) (f : InletFlag) : (setInletFlag s i f).wire = s.wire := by simp [setInletFlag]
@[simp] theorem setInletFlag_slots (s : State) (i : Nat) (f : InletFlag) : (setInletFlag s i f).slots = s.slots := by simp [setInletFlag]
@[simp] theorem setInletFlag_sluices (s : State) (i : Nat) (f : InletFlag) : (setInletFlag s i f).sluices = s.sluices := by simp [setInletFlag]
@[simp] theorem setInletFlag_weir (s : State) (i : Nat) (f : InletFlag) : (setInletFlag s i f).weir = s.weir := by simp [setInletFlag]
@[simp] theorem setInletFlag_ddr (s : State) (i : Nat) (f : InletFlag) : (setInletFlag s i f).ddr = s.ddr := by simp [setInletFlag]
@[simp] theorem setInletFlag_selfRefresh (s : State) (i : Nat) (f : InletFlag) : (setInletFlag s i f).selfRefresh = s.selfRefresh := by simp [setInletFlag]
@[simp] theorem setInletFlag_cores (s : State) (i : Nat) (f : InletFlag) : (setInletFlag s i f).cores = s.cores := by simp [setInletFlag]
@[simp] theorem setInletFlag_ports (s : State) (i : Nat) (f : InletFlag) : (setInletFlag s i f).ports = s.ports := by simp [setInletFlag]
@[simp] theorem setInletFlag_net (s : State) (i : Nat) (f : InletFlag) : (setInletFlag s i f).net = s.net := by simp [setInletFlag]
@[simp] theorem setInletFlag_channels (s : State) (i : Nat) (f : InletFlag) : (setInletFlag s i f).channels = s.channels := by simp [setInletFlag]
@[simp] theorem setInletFlag_qps (s : State) (i : Nat) (f : InletFlag) : (setInletFlag s i f).qps = s.qps := by simp [setInletFlag]
@[simp] theorem setInletFlag_dir (s : State) (i : Nat) (f : InletFlag) : (setInletFlag s i f).dir = s.dir := by simp [setInletFlag]
@[simp] theorem setInletFlag_tide (s : State) (i : Nat) (f : InletFlag) : (setInletFlag s i f).tide = s.tide := by simp [setInletFlag]
@[simp] theorem setInletFlag_lock (s : State) (i : Nat) (f : InletFlag) : (setInletFlag s i f).lock = s.lock := by simp [setInletFlag]
@[simp] theorem setInletFlag_pump (s : State) (i : Nat) (f : InletFlag) : (setInletFlag s i f).pump = s.pump := by simp [setInletFlag]
@[simp] theorem setInletFlag_power (s : State) (i : Nat) (f : InletFlag) : (setInletFlag s i f).power = s.power := by simp [setInletFlag]
@[simp] theorem setInletFlag_tele (s : State) (i : Nat) (f : InletFlag) : (setInletFlag s i f).tele = s.tele := by simp [setInletFlag]
@[simp] theorem setInletFlag_err (s : State) (i : Nat) (f : InletFlag) : (setInletFlag s i f).err = s.err := by simp [setInletFlag]
@[simp] theorem setInletFlag_sec (s : State) (i : Nat) (f : InletFlag) : (setInletFlag s i f).sec = s.sec := by simp [setInletFlag]
@[simp] theorem setInletFlag_warden (s : State) (i : Nat) (f : InletFlag) : (setInletFlag s i f).warden = s.warden := by simp [setInletFlag]
@[simp] theorem setInletFlag_rcd (s : State) (i : Nat) (f : InletFlag) : (setInletFlag s i f).rcd = s.rcd := by simp [setInletFlag]
@[simp] theorem setInletFlag_stalls (s : State) (i : Nat) (f : InletFlag) : (setInletFlag s i f).stalls = s.stalls := by simp [setInletFlag]
@[simp] theorem setInletFlag_pci (s : State) (i : Nat) (f : InletFlag) : (setInletFlag s i f).pci = s.pci := by simp [setInletFlag]
@[simp] theorem setInletFlag_pins (s : State) (i : Nat) (f : InletFlag) : (setInletFlag s i f).pins = s.pins := by simp [setInletFlag]
@[simp] theorem setInletFlag_free (s : State) (i : Nat) (f : InletFlag) : (setInletFlag s i f).free = s.free := by simp [setInletFlag]
@[simp] theorem setInletFlag_pending (s : State) (i : Nat) (f : InletFlag) : (setInletFlag s i f).pending = s.pending := by simp [setInletFlag]
@[simp] theorem writeLog_dev (s : State) (r : LogRecord) : (writeLog s r).dev = s.dev := by simp [writeLog]
@[simp] theorem writeLog_inlets (s : State) (r : LogRecord) : (writeLog s r).inlets = s.inlets := by simp [writeLog]
@[simp] theorem writeLog_outfalls (s : State) (r : LogRecord) : (writeLog s r).outfalls = s.outfalls := by simp [writeLog]
@[simp] theorem writeLog_ap (s : State) (r : LogRecord) : (writeLog s r).ap = s.ap := by simp [writeLog]
@[simp] theorem writeLog_clk (s : State) (r : LogRecord) : (writeLog s r).clk = s.clk := by simp [writeLog]
@[simp] theorem writeLog_events (s : State) (r : LogRecord) : (writeLog s r).events = s.events := by simp [writeLog]
@[simp] theorem writeLog_cmds (s : State) (r : LogRecord) : (writeLog s r).cmds = s.cmds := by simp [writeLog]
@[simp] theorem writeLog_mem (s : State) (r : LogRecord) : (writeLog s r).mem = s.mem := by simp [writeLog]
@[simp] theorem writeLog_host (s : State) (r : LogRecord) : (writeLog s r).host = s.host := by simp [writeLog]
@[simp] theorem writeLog_wire (s : State) (r : LogRecord) : (writeLog s r).wire = s.wire := by simp [writeLog]
@[simp] theorem writeLog_slots (s : State) (r : LogRecord) : (writeLog s r).slots = s.slots := by simp [writeLog]
@[simp] theorem writeLog_sluices (s : State) (r : LogRecord) : (writeLog s r).sluices = s.sluices := by simp [writeLog]
@[simp] theorem writeLog_weir (s : State) (r : LogRecord) : (writeLog s r).weir = s.weir := by simp [writeLog]
@[simp] theorem writeLog_ddr (s : State) (r : LogRecord) : (writeLog s r).ddr = s.ddr := by simp [writeLog]
@[simp] theorem writeLog_selfRefresh (s : State) (r : LogRecord) : (writeLog s r).selfRefresh = s.selfRefresh := by simp [writeLog]
@[simp] theorem writeLog_cores (s : State) (r : LogRecord) : (writeLog s r).cores = s.cores := by simp [writeLog]
@[simp] theorem writeLog_ports (s : State) (r : LogRecord) : (writeLog s r).ports = s.ports := by simp [writeLog]
@[simp] theorem writeLog_net (s : State) (r : LogRecord) : (writeLog s r).net = s.net := by simp [writeLog]
@[simp] theorem writeLog_channels (s : State) (r : LogRecord) : (writeLog s r).channels = s.channels := by simp [writeLog]
@[simp] theorem writeLog_qps (s : State) (r : LogRecord) : (writeLog s r).qps = s.qps := by simp [writeLog]
@[simp] theorem writeLog_dir (s : State) (r : LogRecord) : (writeLog s r).dir = s.dir := by simp [writeLog]
@[simp] theorem writeLog_tide (s : State) (r : LogRecord) : (writeLog s r).tide = s.tide := by simp [writeLog]
@[simp] theorem writeLog_lock (s : State) (r : LogRecord) : (writeLog s r).lock = s.lock := by simp [writeLog]
@[simp] theorem writeLog_pump (s : State) (r : LogRecord) : (writeLog s r).pump = s.pump := by simp [writeLog]
@[simp] theorem writeLog_power (s : State) (r : LogRecord) : (writeLog s r).power = s.power := by simp [writeLog]
@[simp] theorem writeLog_tele (s : State) (r : LogRecord) : (writeLog s r).tele = s.tele := by simp [writeLog]
@[simp] theorem writeLog_sec (s : State) (r : LogRecord) : (writeLog s r).sec = s.sec := by simp [writeLog]
@[simp] theorem writeLog_warden (s : State) (r : LogRecord) : (writeLog s r).warden = s.warden := by simp [writeLog]
@[simp] theorem writeLog_rcd (s : State) (r : LogRecord) : (writeLog s r).rcd = s.rcd := by simp [writeLog]
@[simp] theorem writeLog_stalls (s : State) (r : LogRecord) : (writeLog s r).stalls = s.stalls := by simp [writeLog]
@[simp] theorem writeLog_pci (s : State) (r : LogRecord) : (writeLog s r).pci = s.pci := by simp [writeLog]
@[simp] theorem writeLog_pins (s : State) (r : LogRecord) : (writeLog s r).pins = s.pins := by simp [writeLog]
@[simp] theorem writeLog_free (s : State) (r : LogRecord) : (writeLog s r).free = s.free := by simp [writeLog]
@[simp] theorem writeLog_pending (s : State) (r : LogRecord) : (writeLog s r).pending = s.pending := by simp [writeLog]
@[simp] theorem logFault_dev (s : State) (a b c d : Nat) (e : Option Cmd) (f g h : Nat) : (logFault s a b c d e f g h).dev = s.dev := by simp [logFault]
@[simp] theorem logFault_inlets (s : State) (a b c d : Nat) (e : Option Cmd) (f g h : Nat) : (logFault s a b c d e f g h).inlets = s.inlets := by simp [logFault]
@[simp] theorem logFault_outfalls (s : State) (a b c d : Nat) (e : Option Cmd) (f g h : Nat) : (logFault s a b c d e f g h).outfalls = s.outfalls := by simp [logFault]
@[simp] theorem logFault_ap (s : State) (a b c d : Nat) (e : Option Cmd) (f g h : Nat) : (logFault s a b c d e f g h).ap = s.ap := by simp [logFault]
@[simp] theorem logFault_clk (s : State) (a b c d : Nat) (e : Option Cmd) (f g h : Nat) : (logFault s a b c d e f g h).clk = s.clk := by simp [logFault]
@[simp] theorem logFault_events (s : State) (a b c d : Nat) (e : Option Cmd) (f g h : Nat) : (logFault s a b c d e f g h).events = s.events := by simp [logFault]
@[simp] theorem logFault_cmds (s : State) (a b c d : Nat) (e : Option Cmd) (f g h : Nat) : (logFault s a b c d e f g h).cmds = s.cmds := by simp [logFault]
@[simp] theorem logFault_mem (s : State) (a b c d : Nat) (e : Option Cmd) (f g h : Nat) : (logFault s a b c d e f g h).mem = s.mem := by simp [logFault]
@[simp] theorem logFault_host (s : State) (a b c d : Nat) (e : Option Cmd) (f g h : Nat) : (logFault s a b c d e f g h).host = s.host := by simp [logFault]
@[simp] theorem logFault_wire (s : State) (a b c d : Nat) (e : Option Cmd) (f g h : Nat) : (logFault s a b c d e f g h).wire = s.wire := by simp [logFault]
@[simp] theorem logFault_slots (s : State) (a b c d : Nat) (e : Option Cmd) (f g h : Nat) : (logFault s a b c d e f g h).slots = s.slots := by simp [logFault]
@[simp] theorem logFault_sluices (s : State) (a b c d : Nat) (e : Option Cmd) (f g h : Nat) : (logFault s a b c d e f g h).sluices = s.sluices := by simp [logFault]
@[simp] theorem logFault_weir (s : State) (a b c d : Nat) (e : Option Cmd) (f g h : Nat) : (logFault s a b c d e f g h).weir = s.weir := by simp [logFault]
@[simp] theorem logFault_ddr (s : State) (a b c d : Nat) (e : Option Cmd) (f g h : Nat) : (logFault s a b c d e f g h).ddr = s.ddr := by simp [logFault]
@[simp] theorem logFault_selfRefresh (s : State) (a b c d : Nat) (e : Option Cmd) (f g h : Nat) : (logFault s a b c d e f g h).selfRefresh = s.selfRefresh := by simp [logFault]
@[simp] theorem logFault_cores (s : State) (a b c d : Nat) (e : Option Cmd) (f g h : Nat) : (logFault s a b c d e f g h).cores = s.cores := by simp [logFault]
@[simp] theorem logFault_ports (s : State) (a b c d : Nat) (e : Option Cmd) (f g h : Nat) : (logFault s a b c d e f g h).ports = s.ports := by simp [logFault]
@[simp] theorem logFault_net (s : State) (a b c d : Nat) (e : Option Cmd) (f g h : Nat) : (logFault s a b c d e f g h).net = s.net := by simp [logFault]
@[simp] theorem logFault_channels (s : State) (a b c d : Nat) (e : Option Cmd) (f g h : Nat) : (logFault s a b c d e f g h).channels = s.channels := by simp [logFault]
@[simp] theorem logFault_qps (s : State) (a b c d : Nat) (e : Option Cmd) (f g h : Nat) : (logFault s a b c d e f g h).qps = s.qps := by simp [logFault]
@[simp] theorem logFault_dir (s : State) (a b c d : Nat) (e : Option Cmd) (f g h : Nat) : (logFault s a b c d e f g h).dir = s.dir := by simp [logFault]
@[simp] theorem logFault_tide (s : State) (a b c d : Nat) (e : Option Cmd) (f g h : Nat) : (logFault s a b c d e f g h).tide = s.tide := by simp [logFault]
@[simp] theorem logFault_lock (s : State) (a b c d : Nat) (e : Option Cmd) (f g h : Nat) : (logFault s a b c d e f g h).lock = s.lock := by simp [logFault]
@[simp] theorem logFault_pump (s : State) (a b c d : Nat) (e : Option Cmd) (f g h : Nat) : (logFault s a b c d e f g h).pump = s.pump := by simp [logFault]
@[simp] theorem logFault_power (s : State) (a b c d : Nat) (e : Option Cmd) (f g h : Nat) : (logFault s a b c d e f g h).power = s.power := by simp [logFault]
@[simp] theorem logFault_tele (s : State) (a b c d : Nat) (e : Option Cmd) (f g h : Nat) : (logFault s a b c d e f g h).tele = s.tele := by simp [logFault]
@[simp] theorem logFault_sec (s : State) (a b c d : Nat) (e : Option Cmd) (f g h : Nat) : (logFault s a b c d e f g h).sec = s.sec := by simp [logFault]
@[simp] theorem logFault_warden (s : State) (a b c d : Nat) (e : Option Cmd) (f g h : Nat) : (logFault s a b c d e f g h).warden = s.warden := by simp [logFault]
@[simp] theorem logFault_rcd (s : State) (a b c d : Nat) (e : Option Cmd) (f g h : Nat) : (logFault s a b c d e f g h).rcd = s.rcd := by simp [logFault]
@[simp] theorem logFault_stalls (s : State) (a b c d : Nat) (e : Option Cmd) (f g h : Nat) : (logFault s a b c d e f g h).stalls = s.stalls := by simp [logFault]
@[simp] theorem logFault_pci (s : State) (a b c d : Nat) (e : Option Cmd) (f g h : Nat) : (logFault s a b c d e f g h).pci = s.pci := by simp [logFault]
@[simp] theorem logFault_pins (s : State) (a b c d : Nat) (e : Option Cmd) (f g h : Nat) : (logFault s a b c d e f g h).pins = s.pins := by simp [logFault]
@[simp] theorem logFault_free (s : State) (a b c d : Nat) (e : Option Cmd) (f g h : Nat) : (logFault s a b c d e f g h).free = s.free := by simp [logFault]
@[simp] theorem logFault_pending (s : State) (a b c d : Nat) (e : Option Cmd) (f g h : Nat) : (logFault s a b c d e f g h).pending = s.pending := by simp [logFault]
@[simp] theorem timingEvent_dev (s : State) (r : TimingRow) (n : Nat) : (timingEvent s r n).dev = s.dev := by unfold timingEvent; split <;> rfl
@[simp] theorem timingEvent_inlets (s : State) (r : TimingRow) (n : Nat) : (timingEvent s r n).inlets = s.inlets := by unfold timingEvent; split <;> rfl
@[simp] theorem timingEvent_outfalls (s : State) (r : TimingRow) (n : Nat) : (timingEvent s r n).outfalls = s.outfalls := by unfold timingEvent; split <;> rfl
@[simp] theorem timingEvent_irq (s : State) (r : TimingRow) (n : Nat) : (timingEvent s r n).irq = s.irq := by unfold timingEvent; split <;> rfl
@[simp] theorem timingEvent_ap (s : State) (r : TimingRow) (n : Nat) : (timingEvent s r n).ap = s.ap := by unfold timingEvent; split <;> rfl
@[simp] theorem timingEvent_clk (s : State) (r : TimingRow) (n : Nat) : (timingEvent s r n).clk = s.clk := by unfold timingEvent; split <;> rfl
@[simp] theorem timingEvent_events (s : State) (r : TimingRow) (n : Nat) : (timingEvent s r n).events = s.events := by unfold timingEvent; split <;> rfl
@[simp] theorem timingEvent_cmds (s : State) (r : TimingRow) (n : Nat) : (timingEvent s r n).cmds = s.cmds := by unfold timingEvent; split <;> rfl
@[simp] theorem timingEvent_mem (s : State) (r : TimingRow) (n : Nat) : (timingEvent s r n).mem = s.mem := by unfold timingEvent; split <;> rfl
@[simp] theorem timingEvent_host (s : State) (r : TimingRow) (n : Nat) : (timingEvent s r n).host = s.host := by unfold timingEvent; split <;> rfl
@[simp] theorem timingEvent_msix (s : State) (r : TimingRow) (n : Nat) : (timingEvent s r n).msix = s.msix := by unfold timingEvent; split <;> rfl
@[simp] theorem timingEvent_wire (s : State) (r : TimingRow) (n : Nat) : (timingEvent s r n).wire = s.wire := by unfold timingEvent; split <;> rfl
@[simp] theorem timingEvent_slots (s : State) (r : TimingRow) (n : Nat) : (timingEvent s r n).slots = s.slots := by unfold timingEvent; split <;> rfl
@[simp] theorem timingEvent_sluices (s : State) (r : TimingRow) (n : Nat) : (timingEvent s r n).sluices = s.sluices := by unfold timingEvent; split <;> rfl
@[simp] theorem timingEvent_weir (s : State) (r : TimingRow) (n : Nat) : (timingEvent s r n).weir = s.weir := by unfold timingEvent; split <;> rfl
@[simp] theorem timingEvent_ddr (s : State) (r : TimingRow) (n : Nat) : (timingEvent s r n).ddr = s.ddr := by unfold timingEvent; split <;> rfl
@[simp] theorem timingEvent_selfRefresh (s : State) (r : TimingRow) (n : Nat) : (timingEvent s r n).selfRefresh = s.selfRefresh := by unfold timingEvent; split <;> rfl
@[simp] theorem timingEvent_cores (s : State) (r : TimingRow) (n : Nat) : (timingEvent s r n).cores = s.cores := by unfold timingEvent; split <;> rfl
@[simp] theorem timingEvent_ports (s : State) (r : TimingRow) (n : Nat) : (timingEvent s r n).ports = s.ports := by unfold timingEvent; split <;> rfl
@[simp] theorem timingEvent_net (s : State) (r : TimingRow) (n : Nat) : (timingEvent s r n).net = s.net := by unfold timingEvent; split <;> rfl
@[simp] theorem timingEvent_channels (s : State) (r : TimingRow) (n : Nat) : (timingEvent s r n).channels = s.channels := by unfold timingEvent; split <;> rfl
@[simp] theorem timingEvent_qps (s : State) (r : TimingRow) (n : Nat) : (timingEvent s r n).qps = s.qps := by unfold timingEvent; split <;> rfl
@[simp] theorem timingEvent_dir (s : State) (r : TimingRow) (n : Nat) : (timingEvent s r n).dir = s.dir := by unfold timingEvent; split <;> rfl
@[simp] theorem timingEvent_lock (s : State) (r : TimingRow) (n : Nat) : (timingEvent s r n).lock = s.lock := by unfold timingEvent; split <;> rfl
@[simp] theorem timingEvent_pump (s : State) (r : TimingRow) (n : Nat) : (timingEvent s r n).pump = s.pump := by unfold timingEvent; split <;> rfl
@[simp] theorem timingEvent_power (s : State) (r : TimingRow) (n : Nat) : (timingEvent s r n).power = s.power := by unfold timingEvent; split <;> rfl
@[simp] theorem timingEvent_tele (s : State) (r : TimingRow) (n : Nat) : (timingEvent s r n).tele = s.tele := by unfold timingEvent; split <;> rfl
@[simp] theorem timingEvent_err (s : State) (r : TimingRow) (n : Nat) : (timingEvent s r n).err = s.err := by unfold timingEvent; split <;> rfl
@[simp] theorem timingEvent_sec (s : State) (r : TimingRow) (n : Nat) : (timingEvent s r n).sec = s.sec := by unfold timingEvent; split <;> rfl
@[simp] theorem timingEvent_warden (s : State) (r : TimingRow) (n : Nat) : (timingEvent s r n).warden = s.warden := by unfold timingEvent; split <;> rfl
@[simp] theorem timingEvent_rcd (s : State) (r : TimingRow) (n : Nat) : (timingEvent s r n).rcd = s.rcd := by unfold timingEvent; split <;> rfl
@[simp] theorem timingEvent_stalls (s : State) (r : TimingRow) (n : Nat) : (timingEvent s r n).stalls = s.stalls := by unfold timingEvent; split <;> rfl
@[simp] theorem timingEvent_pci (s : State) (r : TimingRow) (n : Nat) : (timingEvent s r n).pci = s.pci := by unfold timingEvent; split <;> rfl
@[simp] theorem timingEvent_pins (s : State) (r : TimingRow) (n : Nat) : (timingEvent s r n).pins = s.pins := by unfold timingEvent; split <;> rfl
@[simp] theorem timingEvent_free (s : State) (r : TimingRow) (n : Nat) : (timingEvent s r n).free = s.free := by unfold timingEvent; split <;> rfl
@[simp] theorem timingEvent_pending (s : State) (r : TimingRow) (n : Nat) : (timingEvent s r n).pending = s.pending := by unfold timingEvent; split <;> rfl
@[simp] theorem getInlet_putInlet_self (s : State) (i : Nat) (x : Inlet) : getInlet (putInlet s i x) i = x := by
  simp [getInlet, putInlet]
theorem getInlet_putInlet_ne (s : State) {i j : Nat} (x : Inlet) (h : j ≠ i) : getInlet (putInlet s i x) j = getInlet s j := by
  simp [getInlet, putInlet, tabGet_tabSet, h]
@[simp] theorem getOutfall_putOutfall_self (s : State) (i : Nat) (x : Outfall) : getOutfall (putOutfall s i x) i = x := by
  simp [getOutfall, putOutfall]
theorem getOutfall_putOutfall_ne (s : State) {i j : Nat} (x : Outfall) (h : j ≠ i) : getOutfall (putOutfall s i x) j = getOutfall s j := by
  simp [getOutfall, putOutfall, tabGet_tabSet, h]
@[simp] theorem getSlot_putSlot_self (s : State) (i : Nat) (x : Slot) : getSlot (putSlot s i x) i = x := by
  simp [getSlot, putSlot]
theorem getSlot_putSlot_ne (s : State) {i j : Nat} (x : Slot) (h : j ≠ i) : getSlot (putSlot s i x) j = getSlot s j := by
  simp [getSlot, putSlot, tabGet_tabSet, h]
@[simp] theorem getSluice_putSluice_self (s : State) (i : Nat) (x : Sluice) : getSluice (putSluice s i x) i = x := by
  simp [getSluice, putSluice]
theorem getSluice_putSluice_ne (s : State) {i j : Nat} (x : Sluice) (h : j ≠ i) : getSluice (putSluice s i x) j = getSluice s j := by
  simp [getSluice, putSluice, tabGet_tabSet, h]
@[simp] theorem getCore_putCore_self (s : State) (i : Nat) (x : Core) : getCore (putCore s i x) i = x := by
  simp [getCore, putCore]
theorem getCore_putCore_ne (s : State) {i j : Nat} (x : Core) (h : j ≠ i) : getCore (putCore s i x) j = getCore s j := by
  simp [getCore, putCore, tabGet_tabSet, h]
@[simp] theorem getPort_putPort_self (s : State) (i : Nat) (x : Port) : getPort (putPort s i x) i = x := by
  simp [getPort, putPort]
theorem getPort_putPort_ne (s : State) {i j : Nat} (x : Port) (h : j ≠ i) : getPort (putPort s i x) j = getPort s j := by
  simp [getPort, putPort, tabGet_tabSet, h]
@[simp] theorem getChannel_putChannel_self (s : State) (i : Nat) (x : Channel) : getChannel (putChannel s i x) i = x := by
  simp [getChannel, putChannel]
theorem getChannel_putChannel_ne (s : State) {i j : Nat} (x : Channel) (h : j ≠ i) : getChannel (putChannel s i x) j = getChannel s j := by
  simp [getChannel, putChannel, tabGet_tabSet, h]
@[simp] theorem getQp_putQp_self (s : State) (i : Nat) (x : Qp) : getQp (putQp s i x) i = x := by
  simp [getQp, putQp]
theorem getQp_putQp_ne (s : State) {i j : Nat} (x : Qp) (h : j ≠ i) : getQp (putQp s i x) j = getQp s j := by
  simp [getQp, putQp, tabGet_tabSet, h]
@[simp] theorem getPower_putPower_self (s : State) (i : Nat) (x : CorePower) : getPower (putPower s i x) i = x := by
  simp [getPower, putPower]
theorem getPower_putPower_ne (s : State) {i j : Nat} (x : CorePower) (h : j ≠ i) : getPower (putPower s i x) j = getPower s j := by
  simp [getPower, putPower, tabGet_tabSet, h]
@[simp] theorem getDdr_putDdr_self (s : State) (i : Nat) (x : DdrChannel) : getDdr (putDdr s i x) i = x := by
  simp [getDdr, putDdr]
theorem getDdr_putDdr_ne (s : State) {i j : Nat} (x : DdrChannel) (h : j ≠ i) : getDdr (putDdr s i x) j = getDdr s j := by
  simp [getDdr, putDdr, tabGet_tabSet, h]
@[simp] theorem getWindow_putWindow_self (s : State) (i : Nat) (x : Window) : getWindow (putWindow s i x) i = x := by
  simp [getWindow, putWindow]
theorem getWindow_putWindow_ne (s : State) {i j : Nat} (x : Window) (h : j ≠ i) : getWindow (putWindow s i x) j = getWindow s j := by
  simp [getWindow, putWindow, tabGet_tabSet, h]
@[simp] theorem getOutfall_putInlet (s : State) (i : Nat) (x : Inlet) (j : Nat) : getOutfall (putInlet s i x) j = getOutfall s j := by simp [getOutfall]
@[simp] theorem getSlot_putInlet (s : State) (i : Nat) (x : Inlet) (j : Nat) : getSlot (putInlet s i x) j = getSlot s j := by simp [getSlot]
@[simp] theorem getSluice_putInlet (s : State) (i : Nat) (x : Inlet) (j : Nat) : getSluice (putInlet s i x) j = getSluice s j := by simp [getSluice]
@[simp] theorem getCore_putInlet (s : State) (i : Nat) (x : Inlet) (j : Nat) : getCore (putInlet s i x) j = getCore s j := by simp [getCore]
@[simp] theorem getPort_putInlet (s : State) (i : Nat) (x : Inlet) (j : Nat) : getPort (putInlet s i x) j = getPort s j := by simp [getPort]
@[simp] theorem getChannel_putInlet (s : State) (i : Nat) (x : Inlet) (j : Nat) : getChannel (putInlet s i x) j = getChannel s j := by simp [getChannel]
@[simp] theorem getQp_putInlet (s : State) (i : Nat) (x : Inlet) (j : Nat) : getQp (putInlet s i x) j = getQp s j := by simp [getQp]
@[simp] theorem getPower_putInlet (s : State) (i : Nat) (x : Inlet) (j : Nat) : getPower (putInlet s i x) j = getPower s j := by simp [getPower]
@[simp] theorem getDdr_putInlet (s : State) (i : Nat) (x : Inlet) (j : Nat) : getDdr (putInlet s i x) j = getDdr s j := by simp [getDdr]
@[simp] theorem getWindow_putInlet (s : State) (i : Nat) (x : Inlet) (j : Nat) : getWindow (putInlet s i x) j = getWindow s j := by simp [getWindow]
@[simp] theorem getInlet_putOutfall (s : State) (i : Nat) (x : Outfall) (j : Nat) : getInlet (putOutfall s i x) j = getInlet s j := by simp [getInlet]
@[simp] theorem getSlot_putOutfall (s : State) (i : Nat) (x : Outfall) (j : Nat) : getSlot (putOutfall s i x) j = getSlot s j := by simp [getSlot]
@[simp] theorem getSluice_putOutfall (s : State) (i : Nat) (x : Outfall) (j : Nat) : getSluice (putOutfall s i x) j = getSluice s j := by simp [getSluice]
@[simp] theorem getCore_putOutfall (s : State) (i : Nat) (x : Outfall) (j : Nat) : getCore (putOutfall s i x) j = getCore s j := by simp [getCore]
@[simp] theorem getPort_putOutfall (s : State) (i : Nat) (x : Outfall) (j : Nat) : getPort (putOutfall s i x) j = getPort s j := by simp [getPort]
@[simp] theorem getChannel_putOutfall (s : State) (i : Nat) (x : Outfall) (j : Nat) : getChannel (putOutfall s i x) j = getChannel s j := by simp [getChannel]
@[simp] theorem getQp_putOutfall (s : State) (i : Nat) (x : Outfall) (j : Nat) : getQp (putOutfall s i x) j = getQp s j := by simp [getQp]
@[simp] theorem getPower_putOutfall (s : State) (i : Nat) (x : Outfall) (j : Nat) : getPower (putOutfall s i x) j = getPower s j := by simp [getPower]
@[simp] theorem getDdr_putOutfall (s : State) (i : Nat) (x : Outfall) (j : Nat) : getDdr (putOutfall s i x) j = getDdr s j := by simp [getDdr]
@[simp] theorem getWindow_putOutfall (s : State) (i : Nat) (x : Outfall) (j : Nat) : getWindow (putOutfall s i x) j = getWindow s j := by simp [getWindow]
@[simp] theorem getInlet_putSlot (s : State) (i : Nat) (x : Slot) (j : Nat) : getInlet (putSlot s i x) j = getInlet s j := by simp [getInlet]
@[simp] theorem getOutfall_putSlot (s : State) (i : Nat) (x : Slot) (j : Nat) : getOutfall (putSlot s i x) j = getOutfall s j := by simp [getOutfall]
@[simp] theorem getSluice_putSlot (s : State) (i : Nat) (x : Slot) (j : Nat) : getSluice (putSlot s i x) j = getSluice s j := by simp [getSluice]
@[simp] theorem getCore_putSlot (s : State) (i : Nat) (x : Slot) (j : Nat) : getCore (putSlot s i x) j = getCore s j := by simp [getCore]
@[simp] theorem getPort_putSlot (s : State) (i : Nat) (x : Slot) (j : Nat) : getPort (putSlot s i x) j = getPort s j := by simp [getPort]
@[simp] theorem getChannel_putSlot (s : State) (i : Nat) (x : Slot) (j : Nat) : getChannel (putSlot s i x) j = getChannel s j := by simp [getChannel]
@[simp] theorem getQp_putSlot (s : State) (i : Nat) (x : Slot) (j : Nat) : getQp (putSlot s i x) j = getQp s j := by simp [getQp]
@[simp] theorem getPower_putSlot (s : State) (i : Nat) (x : Slot) (j : Nat) : getPower (putSlot s i x) j = getPower s j := by simp [getPower]
@[simp] theorem getDdr_putSlot (s : State) (i : Nat) (x : Slot) (j : Nat) : getDdr (putSlot s i x) j = getDdr s j := by simp [getDdr]
@[simp] theorem getWindow_putSlot (s : State) (i : Nat) (x : Slot) (j : Nat) : getWindow (putSlot s i x) j = getWindow s j := by simp [getWindow]
@[simp] theorem getInlet_putSluice (s : State) (i : Nat) (x : Sluice) (j : Nat) : getInlet (putSluice s i x) j = getInlet s j := by simp [getInlet]
@[simp] theorem getOutfall_putSluice (s : State) (i : Nat) (x : Sluice) (j : Nat) : getOutfall (putSluice s i x) j = getOutfall s j := by simp [getOutfall]
@[simp] theorem getSlot_putSluice (s : State) (i : Nat) (x : Sluice) (j : Nat) : getSlot (putSluice s i x) j = getSlot s j := by simp [getSlot]
@[simp] theorem getCore_putSluice (s : State) (i : Nat) (x : Sluice) (j : Nat) : getCore (putSluice s i x) j = getCore s j := by simp [getCore]
@[simp] theorem getPort_putSluice (s : State) (i : Nat) (x : Sluice) (j : Nat) : getPort (putSluice s i x) j = getPort s j := by simp [getPort]
@[simp] theorem getChannel_putSluice (s : State) (i : Nat) (x : Sluice) (j : Nat) : getChannel (putSluice s i x) j = getChannel s j := by simp [getChannel]
@[simp] theorem getQp_putSluice (s : State) (i : Nat) (x : Sluice) (j : Nat) : getQp (putSluice s i x) j = getQp s j := by simp [getQp]
@[simp] theorem getPower_putSluice (s : State) (i : Nat) (x : Sluice) (j : Nat) : getPower (putSluice s i x) j = getPower s j := by simp [getPower]
@[simp] theorem getDdr_putSluice (s : State) (i : Nat) (x : Sluice) (j : Nat) : getDdr (putSluice s i x) j = getDdr s j := by simp [getDdr]
@[simp] theorem getWindow_putSluice (s : State) (i : Nat) (x : Sluice) (j : Nat) : getWindow (putSluice s i x) j = getWindow s j := by simp [getWindow]
@[simp] theorem getInlet_putCore (s : State) (i : Nat) (x : Core) (j : Nat) : getInlet (putCore s i x) j = getInlet s j := by simp [getInlet]
@[simp] theorem getOutfall_putCore (s : State) (i : Nat) (x : Core) (j : Nat) : getOutfall (putCore s i x) j = getOutfall s j := by simp [getOutfall]
@[simp] theorem getSlot_putCore (s : State) (i : Nat) (x : Core) (j : Nat) : getSlot (putCore s i x) j = getSlot s j := by simp [getSlot]
@[simp] theorem getSluice_putCore (s : State) (i : Nat) (x : Core) (j : Nat) : getSluice (putCore s i x) j = getSluice s j := by simp [getSluice]
@[simp] theorem getPort_putCore (s : State) (i : Nat) (x : Core) (j : Nat) : getPort (putCore s i x) j = getPort s j := by simp [getPort]
@[simp] theorem getChannel_putCore (s : State) (i : Nat) (x : Core) (j : Nat) : getChannel (putCore s i x) j = getChannel s j := by simp [getChannel]
@[simp] theorem getQp_putCore (s : State) (i : Nat) (x : Core) (j : Nat) : getQp (putCore s i x) j = getQp s j := by simp [getQp]
@[simp] theorem getPower_putCore (s : State) (i : Nat) (x : Core) (j : Nat) : getPower (putCore s i x) j = getPower s j := by simp [getPower]
@[simp] theorem getDdr_putCore (s : State) (i : Nat) (x : Core) (j : Nat) : getDdr (putCore s i x) j = getDdr s j := by simp [getDdr]
@[simp] theorem getWindow_putCore (s : State) (i : Nat) (x : Core) (j : Nat) : getWindow (putCore s i x) j = getWindow s j := by simp [getWindow]
@[simp] theorem getInlet_putPort (s : State) (i : Nat) (x : Port) (j : Nat) : getInlet (putPort s i x) j = getInlet s j := by simp [getInlet]
@[simp] theorem getOutfall_putPort (s : State) (i : Nat) (x : Port) (j : Nat) : getOutfall (putPort s i x) j = getOutfall s j := by simp [getOutfall]
@[simp] theorem getSlot_putPort (s : State) (i : Nat) (x : Port) (j : Nat) : getSlot (putPort s i x) j = getSlot s j := by simp [getSlot]
@[simp] theorem getSluice_putPort (s : State) (i : Nat) (x : Port) (j : Nat) : getSluice (putPort s i x) j = getSluice s j := by simp [getSluice]
@[simp] theorem getCore_putPort (s : State) (i : Nat) (x : Port) (j : Nat) : getCore (putPort s i x) j = getCore s j := by simp [getCore]
@[simp] theorem getChannel_putPort (s : State) (i : Nat) (x : Port) (j : Nat) : getChannel (putPort s i x) j = getChannel s j := by simp [getChannel]
@[simp] theorem getQp_putPort (s : State) (i : Nat) (x : Port) (j : Nat) : getQp (putPort s i x) j = getQp s j := by simp [getQp]
@[simp] theorem getPower_putPort (s : State) (i : Nat) (x : Port) (j : Nat) : getPower (putPort s i x) j = getPower s j := by simp [getPower]
@[simp] theorem getDdr_putPort (s : State) (i : Nat) (x : Port) (j : Nat) : getDdr (putPort s i x) j = getDdr s j := by simp [getDdr]
@[simp] theorem getWindow_putPort (s : State) (i : Nat) (x : Port) (j : Nat) : getWindow (putPort s i x) j = getWindow s j := by simp [getWindow]
@[simp] theorem getInlet_putChannel (s : State) (i : Nat) (x : Channel) (j : Nat) : getInlet (putChannel s i x) j = getInlet s j := by simp [getInlet]
@[simp] theorem getOutfall_putChannel (s : State) (i : Nat) (x : Channel) (j : Nat) : getOutfall (putChannel s i x) j = getOutfall s j := by simp [getOutfall]
@[simp] theorem getSlot_putChannel (s : State) (i : Nat) (x : Channel) (j : Nat) : getSlot (putChannel s i x) j = getSlot s j := by simp [getSlot]
@[simp] theorem getSluice_putChannel (s : State) (i : Nat) (x : Channel) (j : Nat) : getSluice (putChannel s i x) j = getSluice s j := by simp [getSluice]
@[simp] theorem getCore_putChannel (s : State) (i : Nat) (x : Channel) (j : Nat) : getCore (putChannel s i x) j = getCore s j := by simp [getCore]
@[simp] theorem getPort_putChannel (s : State) (i : Nat) (x : Channel) (j : Nat) : getPort (putChannel s i x) j = getPort s j := by simp [getPort]
@[simp] theorem getQp_putChannel (s : State) (i : Nat) (x : Channel) (j : Nat) : getQp (putChannel s i x) j = getQp s j := by simp [getQp]
@[simp] theorem getPower_putChannel (s : State) (i : Nat) (x : Channel) (j : Nat) : getPower (putChannel s i x) j = getPower s j := by simp [getPower]
@[simp] theorem getDdr_putChannel (s : State) (i : Nat) (x : Channel) (j : Nat) : getDdr (putChannel s i x) j = getDdr s j := by simp [getDdr]
@[simp] theorem getWindow_putChannel (s : State) (i : Nat) (x : Channel) (j : Nat) : getWindow (putChannel s i x) j = getWindow s j := by simp [getWindow]
@[simp] theorem getInlet_putQp (s : State) (i : Nat) (x : Qp) (j : Nat) : getInlet (putQp s i x) j = getInlet s j := by simp [getInlet]
@[simp] theorem getOutfall_putQp (s : State) (i : Nat) (x : Qp) (j : Nat) : getOutfall (putQp s i x) j = getOutfall s j := by simp [getOutfall]
@[simp] theorem getSlot_putQp (s : State) (i : Nat) (x : Qp) (j : Nat) : getSlot (putQp s i x) j = getSlot s j := by simp [getSlot]
@[simp] theorem getSluice_putQp (s : State) (i : Nat) (x : Qp) (j : Nat) : getSluice (putQp s i x) j = getSluice s j := by simp [getSluice]
@[simp] theorem getCore_putQp (s : State) (i : Nat) (x : Qp) (j : Nat) : getCore (putQp s i x) j = getCore s j := by simp [getCore]
@[simp] theorem getPort_putQp (s : State) (i : Nat) (x : Qp) (j : Nat) : getPort (putQp s i x) j = getPort s j := by simp [getPort]
@[simp] theorem getChannel_putQp (s : State) (i : Nat) (x : Qp) (j : Nat) : getChannel (putQp s i x) j = getChannel s j := by simp [getChannel]
@[simp] theorem getPower_putQp (s : State) (i : Nat) (x : Qp) (j : Nat) : getPower (putQp s i x) j = getPower s j := by simp [getPower]
@[simp] theorem getDdr_putQp (s : State) (i : Nat) (x : Qp) (j : Nat) : getDdr (putQp s i x) j = getDdr s j := by simp [getDdr]
@[simp] theorem getWindow_putQp (s : State) (i : Nat) (x : Qp) (j : Nat) : getWindow (putQp s i x) j = getWindow s j := by simp [getWindow]
@[simp] theorem getInlet_putPower (s : State) (i : Nat) (x : CorePower) (j : Nat) : getInlet (putPower s i x) j = getInlet s j := by simp [getInlet]
@[simp] theorem getOutfall_putPower (s : State) (i : Nat) (x : CorePower) (j : Nat) : getOutfall (putPower s i x) j = getOutfall s j := by simp [getOutfall]
@[simp] theorem getSlot_putPower (s : State) (i : Nat) (x : CorePower) (j : Nat) : getSlot (putPower s i x) j = getSlot s j := by simp [getSlot]
@[simp] theorem getSluice_putPower (s : State) (i : Nat) (x : CorePower) (j : Nat) : getSluice (putPower s i x) j = getSluice s j := by simp [getSluice]
@[simp] theorem getCore_putPower (s : State) (i : Nat) (x : CorePower) (j : Nat) : getCore (putPower s i x) j = getCore s j := by simp [getCore]
@[simp] theorem getPort_putPower (s : State) (i : Nat) (x : CorePower) (j : Nat) : getPort (putPower s i x) j = getPort s j := by simp [getPort]
@[simp] theorem getChannel_putPower (s : State) (i : Nat) (x : CorePower) (j : Nat) : getChannel (putPower s i x) j = getChannel s j := by simp [getChannel]
@[simp] theorem getQp_putPower (s : State) (i : Nat) (x : CorePower) (j : Nat) : getQp (putPower s i x) j = getQp s j := by simp [getQp]
@[simp] theorem getDdr_putPower (s : State) (i : Nat) (x : CorePower) (j : Nat) : getDdr (putPower s i x) j = getDdr s j := by simp [getDdr]
@[simp] theorem getWindow_putPower (s : State) (i : Nat) (x : CorePower) (j : Nat) : getWindow (putPower s i x) j = getWindow s j := by simp [getWindow]
@[simp] theorem getInlet_putDdr (s : State) (i : Nat) (x : DdrChannel) (j : Nat) : getInlet (putDdr s i x) j = getInlet s j := by simp [getInlet]
@[simp] theorem getOutfall_putDdr (s : State) (i : Nat) (x : DdrChannel) (j : Nat) : getOutfall (putDdr s i x) j = getOutfall s j := by simp [getOutfall]
@[simp] theorem getSlot_putDdr (s : State) (i : Nat) (x : DdrChannel) (j : Nat) : getSlot (putDdr s i x) j = getSlot s j := by simp [getSlot]
@[simp] theorem getSluice_putDdr (s : State) (i : Nat) (x : DdrChannel) (j : Nat) : getSluice (putDdr s i x) j = getSluice s j := by simp [getSluice]
@[simp] theorem getCore_putDdr (s : State) (i : Nat) (x : DdrChannel) (j : Nat) : getCore (putDdr s i x) j = getCore s j := by simp [getCore]
@[simp] theorem getPort_putDdr (s : State) (i : Nat) (x : DdrChannel) (j : Nat) : getPort (putDdr s i x) j = getPort s j := by simp [getPort]
@[simp] theorem getChannel_putDdr (s : State) (i : Nat) (x : DdrChannel) (j : Nat) : getChannel (putDdr s i x) j = getChannel s j := by simp [getChannel]
@[simp] theorem getQp_putDdr (s : State) (i : Nat) (x : DdrChannel) (j : Nat) : getQp (putDdr s i x) j = getQp s j := by simp [getQp]
@[simp] theorem getPower_putDdr (s : State) (i : Nat) (x : DdrChannel) (j : Nat) : getPower (putDdr s i x) j = getPower s j := by simp [getPower]
@[simp] theorem getWindow_putDdr (s : State) (i : Nat) (x : DdrChannel) (j : Nat) : getWindow (putDdr s i x) j = getWindow s j := by simp [getWindow]
@[simp] theorem getInlet_putWindow (s : State) (i : Nat) (x : Window) (j : Nat) : getInlet (putWindow s i x) j = getInlet s j := by simp [getInlet]
@[simp] theorem getOutfall_putWindow (s : State) (i : Nat) (x : Window) (j : Nat) : getOutfall (putWindow s i x) j = getOutfall s j := by simp [getOutfall]
@[simp] theorem getSlot_putWindow (s : State) (i : Nat) (x : Window) (j : Nat) : getSlot (putWindow s i x) j = getSlot s j := by simp [getSlot]
@[simp] theorem getSluice_putWindow (s : State) (i : Nat) (x : Window) (j : Nat) : getSluice (putWindow s i x) j = getSluice s j := by simp [getSluice]
@[simp] theorem getCore_putWindow (s : State) (i : Nat) (x : Window) (j : Nat) : getCore (putWindow s i x) j = getCore s j := by simp [getCore]
@[simp] theorem getPort_putWindow (s : State) (i : Nat) (x : Window) (j : Nat) : getPort (putWindow s i x) j = getPort s j := by simp [getPort]
@[simp] theorem getChannel_putWindow (s : State) (i : Nat) (x : Window) (j : Nat) : getChannel (putWindow s i x) j = getChannel s j := by simp [getChannel]
@[simp] theorem getQp_putWindow (s : State) (i : Nat) (x : Window) (j : Nat) : getQp (putWindow s i x) j = getQp s j := by simp [getQp]
@[simp] theorem getPower_putWindow (s : State) (i : Nat) (x : Window) (j : Nat) : getPower (putWindow s i x) j = getPower s j := by simp [getPower]
@[simp] theorem getDdr_putWindow (s : State) (i : Nat) (x : Window) (j : Nat) : getDdr (putWindow s i x) j = getDdr s j := by simp [getDdr]
@[simp] theorem getInlet_modCmd (s : State) (id : CmdId) (g : Cmd → Cmd) (j : Nat) : getInlet (modCmd s id g) j = getInlet s j := by simp [getInlet]
@[simp] theorem getOutfall_modCmd (s : State) (id : CmdId) (g : Cmd → Cmd) (j : Nat) : getOutfall (modCmd s id g) j = getOutfall s j := by simp [getOutfall]
@[simp] theorem getSlot_modCmd (s : State) (id : CmdId) (g : Cmd → Cmd) (j : Nat) : getSlot (modCmd s id g) j = getSlot s j := by simp [getSlot]
@[simp] theorem getSluice_modCmd (s : State) (id : CmdId) (g : Cmd → Cmd) (j : Nat) : getSluice (modCmd s id g) j = getSluice s j := by simp [getSluice]
@[simp] theorem getCore_modCmd (s : State) (id : CmdId) (g : Cmd → Cmd) (j : Nat) : getCore (modCmd s id g) j = getCore s j := by simp [getCore]
@[simp] theorem getPort_modCmd (s : State) (id : CmdId) (g : Cmd → Cmd) (j : Nat) : getPort (modCmd s id g) j = getPort s j := by simp [getPort]
@[simp] theorem getChannel_modCmd (s : State) (id : CmdId) (g : Cmd → Cmd) (j : Nat) : getChannel (modCmd s id g) j = getChannel s j := by simp [getChannel]
@[simp] theorem getQp_modCmd (s : State) (id : CmdId) (g : Cmd → Cmd) (j : Nat) : getQp (modCmd s id g) j = getQp s j := by simp [getQp]
@[simp] theorem getPower_modCmd (s : State) (id : CmdId) (g : Cmd → Cmd) (j : Nat) : getPower (modCmd s id g) j = getPower s j := by simp [getPower]
@[simp] theorem getDdr_modCmd (s : State) (id : CmdId) (g : Cmd → Cmd) (j : Nat) : getDdr (modCmd s id g) j = getDdr s j := by simp [getDdr]
@[simp] theorem getWindow_modCmd (s : State) (id : CmdId) (g : Cmd → Cmd) (j : Nat) : getWindow (modCmd s id g) j = getWindow s j := by simp [getWindow]
@[simp] theorem getInlet_setWork (s : State) (id : CmdId) (w : Work) (j : Nat) : getInlet (setWork s id w) j = getInlet s j := by simp [getInlet]
@[simp] theorem getOutfall_setWork (s : State) (id : CmdId) (w : Work) (j : Nat) : getOutfall (setWork s id w) j = getOutfall s j := by simp [getOutfall]
@[simp] theorem getSlot_setWork (s : State) (id : CmdId) (w : Work) (j : Nat) : getSlot (setWork s id w) j = getSlot s j := by simp [getSlot]
@[simp] theorem getSluice_setWork (s : State) (id : CmdId) (w : Work) (j : Nat) : getSluice (setWork s id w) j = getSluice s j := by simp [getSluice]
@[simp] theorem getCore_setWork (s : State) (id : CmdId) (w : Work) (j : Nat) : getCore (setWork s id w) j = getCore s j := by simp [getCore]
@[simp] theorem getPort_setWork (s : State) (id : CmdId) (w : Work) (j : Nat) : getPort (setWork s id w) j = getPort s j := by simp [getPort]
@[simp] theorem getChannel_setWork (s : State) (id : CmdId) (w : Work) (j : Nat) : getChannel (setWork s id w) j = getChannel s j := by simp [getChannel]
@[simp] theorem getQp_setWork (s : State) (id : CmdId) (w : Work) (j : Nat) : getQp (setWork s id w) j = getQp s j := by simp [getQp]
@[simp] theorem getPower_setWork (s : State) (id : CmdId) (w : Work) (j : Nat) : getPower (setWork s id w) j = getPower s j := by simp [getPower]
@[simp] theorem getDdr_setWork (s : State) (id : CmdId) (w : Work) (j : Nat) : getDdr (setWork s id w) j = getDdr s j := by simp [getDdr]
@[simp] theorem getWindow_setWork (s : State) (id : CmdId) (w : Work) (j : Nat) : getWindow (setWork s id w) j = getWindow s j := by simp [getWindow]
@[simp] theorem getInlet_advanceTo (s : State) (n : Nat) (j : Nat) : getInlet (advanceTo s n) j = getInlet s j := by simp [getInlet]
@[simp] theorem getOutfall_advanceTo (s : State) (n : Nat) (j : Nat) : getOutfall (advanceTo s n) j = getOutfall s j := by simp [getOutfall]
@[simp] theorem getSlot_advanceTo (s : State) (n : Nat) (j : Nat) : getSlot (advanceTo s n) j = getSlot s j := by simp [getSlot]
@[simp] theorem getSluice_advanceTo (s : State) (n : Nat) (j : Nat) : getSluice (advanceTo s n) j = getSluice s j := by simp [getSluice]
@[simp] theorem getCore_advanceTo (s : State) (n : Nat) (j : Nat) : getCore (advanceTo s n) j = getCore s j := by simp [getCore]
@[simp] theorem getPort_advanceTo (s : State) (n : Nat) (j : Nat) : getPort (advanceTo s n) j = getPort s j := by simp [getPort]
@[simp] theorem getChannel_advanceTo (s : State) (n : Nat) (j : Nat) : getChannel (advanceTo s n) j = getChannel s j := by simp [getChannel]
@[simp] theorem getQp_advanceTo (s : State) (n : Nat) (j : Nat) : getQp (advanceTo s n) j = getQp s j := by simp [getQp]
@[simp] theorem getPower_advanceTo (s : State) (n : Nat) (j : Nat) : getPower (advanceTo s n) j = getPower s j := by simp [getPower]
@[simp] theorem getDdr_advanceTo (s : State) (n : Nat) (j : Nat) : getDdr (advanceTo s n) j = getDdr s j := by simp [getDdr]
@[simp] theorem getWindow_advanceTo (s : State) (n : Nat) (j : Nat) : getWindow (advanceTo s n) j = getWindow s j := by simp [getWindow]
@[simp] theorem getInlet_setEvent (s : State) (e : Nat) (v : W32) (j : Nat) : getInlet (setEvent s e v) j = getInlet s j := by simp [getInlet]
@[simp] theorem getOutfall_setEvent (s : State) (e : Nat) (v : W32) (j : Nat) : getOutfall (setEvent s e v) j = getOutfall s j := by simp [getOutfall]
@[simp] theorem getSlot_setEvent (s : State) (e : Nat) (v : W32) (j : Nat) : getSlot (setEvent s e v) j = getSlot s j := by simp [getSlot]
@[simp] theorem getSluice_setEvent (s : State) (e : Nat) (v : W32) (j : Nat) : getSluice (setEvent s e v) j = getSluice s j := by simp [getSluice]
@[simp] theorem getCore_setEvent (s : State) (e : Nat) (v : W32) (j : Nat) : getCore (setEvent s e v) j = getCore s j := by simp [getCore]
@[simp] theorem getPort_setEvent (s : State) (e : Nat) (v : W32) (j : Nat) : getPort (setEvent s e v) j = getPort s j := by simp [getPort]
@[simp] theorem getChannel_setEvent (s : State) (e : Nat) (v : W32) (j : Nat) : getChannel (setEvent s e v) j = getChannel s j := by simp [getChannel]
@[simp] theorem getQp_setEvent (s : State) (e : Nat) (v : W32) (j : Nat) : getQp (setEvent s e v) j = getQp s j := by simp [getQp]
@[simp] theorem getPower_setEvent (s : State) (e : Nat) (v : W32) (j : Nat) : getPower (setEvent s e v) j = getPower s j := by simp [getPower]
@[simp] theorem getDdr_setEvent (s : State) (e : Nat) (v : W32) (j : Nat) : getDdr (setEvent s e v) j = getDdr s j := by simp [getDdr]
@[simp] theorem getWindow_setEvent (s : State) (e : Nat) (v : W32) (j : Nat) : getWindow (setEvent s e v) j = getWindow s j := by simp [getWindow]
@[simp] theorem getInlet_raiseCause (s : State) (n : Nat) (j : Nat) : getInlet (raiseCause s n) j = getInlet s j := by simp [getInlet]
@[simp] theorem getOutfall_raiseCause (s : State) (n : Nat) (j : Nat) : getOutfall (raiseCause s n) j = getOutfall s j := by simp [getOutfall]
@[simp] theorem getSlot_raiseCause (s : State) (n : Nat) (j : Nat) : getSlot (raiseCause s n) j = getSlot s j := by simp [getSlot]
@[simp] theorem getSluice_raiseCause (s : State) (n : Nat) (j : Nat) : getSluice (raiseCause s n) j = getSluice s j := by simp [getSluice]
@[simp] theorem getCore_raiseCause (s : State) (n : Nat) (j : Nat) : getCore (raiseCause s n) j = getCore s j := by simp [getCore]
@[simp] theorem getPort_raiseCause (s : State) (n : Nat) (j : Nat) : getPort (raiseCause s n) j = getPort s j := by simp [getPort]
@[simp] theorem getChannel_raiseCause (s : State) (n : Nat) (j : Nat) : getChannel (raiseCause s n) j = getChannel s j := by simp [getChannel]
@[simp] theorem getQp_raiseCause (s : State) (n : Nat) (j : Nat) : getQp (raiseCause s n) j = getQp s j := by simp [getQp]
@[simp] theorem getPower_raiseCause (s : State) (n : Nat) (j : Nat) : getPower (raiseCause s n) j = getPower s j := by simp [getPower]
@[simp] theorem getDdr_raiseCause (s : State) (n : Nat) (j : Nat) : getDdr (raiseCause s n) j = getDdr s j := by simp [getDdr]
@[simp] theorem getWindow_raiseCause (s : State) (n : Nat) (j : Nat) : getWindow (raiseCause s n) j = getWindow s j := by simp [getWindow]
@[simp] theorem getInlet_setDevState (s : State) (st : DevState) (j : Nat) : getInlet (setDevState s st) j = getInlet s j := by simp [getInlet]
@[simp] theorem getOutfall_setDevState (s : State) (st : DevState) (j : Nat) : getOutfall (setDevState s st) j = getOutfall s j := by simp [getOutfall]
@[simp] theorem getSlot_setDevState (s : State) (st : DevState) (j : Nat) : getSlot (setDevState s st) j = getSlot s j := by simp [getSlot]
@[simp] theorem getSluice_setDevState (s : State) (st : DevState) (j : Nat) : getSluice (setDevState s st) j = getSluice s j := by simp [getSluice]
@[simp] theorem getCore_setDevState (s : State) (st : DevState) (j : Nat) : getCore (setDevState s st) j = getCore s j := by simp [getCore]
@[simp] theorem getPort_setDevState (s : State) (st : DevState) (j : Nat) : getPort (setDevState s st) j = getPort s j := by simp [getPort]
@[simp] theorem getChannel_setDevState (s : State) (st : DevState) (j : Nat) : getChannel (setDevState s st) j = getChannel s j := by simp [getChannel]
@[simp] theorem getQp_setDevState (s : State) (st : DevState) (j : Nat) : getQp (setDevState s st) j = getQp s j := by simp [getQp]
@[simp] theorem getPower_setDevState (s : State) (st : DevState) (j : Nat) : getPower (setDevState s st) j = getPower s j := by simp [getPower]
@[simp] theorem getDdr_setDevState (s : State) (st : DevState) (j : Nat) : getDdr (setDevState s st) j = getDdr s j := by simp [getDdr]
@[simp] theorem getWindow_setDevState (s : State) (st : DevState) (j : Nat) : getWindow (setDevState s st) j = getWindow s j := by simp [getWindow]
@[simp] theorem getOutfall_setInletFlag (s : State) (i : Nat) (f : InletFlag) (j : Nat) : getOutfall (setInletFlag s i f) j = getOutfall s j := by simp [getOutfall]
@[simp] theorem getSlot_setInletFlag (s : State) (i : Nat) (f : InletFlag) (j : Nat) : getSlot (setInletFlag s i f) j = getSlot s j := by simp [getSlot]
@[simp] theorem getSluice_setInletFlag (s : State) (i : Nat) (f : InletFlag) (j : Nat) : getSluice (setInletFlag s i f) j = getSluice s j := by simp [getSluice]
@[simp] theorem getCore_setInletFlag (s : State) (i : Nat) (f : InletFlag) (j : Nat) : getCore (setInletFlag s i f) j = getCore s j := by simp [getCore]
@[simp] theorem getPort_setInletFlag (s : State) (i : Nat) (f : InletFlag) (j : Nat) : getPort (setInletFlag s i f) j = getPort s j := by simp [getPort]
@[simp] theorem getChannel_setInletFlag (s : State) (i : Nat) (f : InletFlag) (j : Nat) : getChannel (setInletFlag s i f) j = getChannel s j := by simp [getChannel]
@[simp] theorem getQp_setInletFlag (s : State) (i : Nat) (f : InletFlag) (j : Nat) : getQp (setInletFlag s i f) j = getQp s j := by simp [getQp]
@[simp] theorem getPower_setInletFlag (s : State) (i : Nat) (f : InletFlag) (j : Nat) : getPower (setInletFlag s i f) j = getPower s j := by simp [getPower]
@[simp] theorem getDdr_setInletFlag (s : State) (i : Nat) (f : InletFlag) (j : Nat) : getDdr (setInletFlag s i f) j = getDdr s j := by simp [getDdr]
@[simp] theorem getWindow_setInletFlag (s : State) (i : Nat) (f : InletFlag) (j : Nat) : getWindow (setInletFlag s i f) j = getWindow s j := by simp [getWindow]
@[simp] theorem getInlet_logFault (s : State) (a b c d : Nat) (e : Option Cmd) (f g h : Nat) (j : Nat) : getInlet (logFault s a b c d e f g h) j = getInlet s j := by simp [getInlet]
@[simp] theorem getOutfall_logFault (s : State) (a b c d : Nat) (e : Option Cmd) (f g h : Nat) (j : Nat) : getOutfall (logFault s a b c d e f g h) j = getOutfall s j := by simp [getOutfall]
@[simp] theorem getSlot_logFault (s : State) (a b c d : Nat) (e : Option Cmd) (f g h : Nat) (j : Nat) : getSlot (logFault s a b c d e f g h) j = getSlot s j := by simp [getSlot]
@[simp] theorem getSluice_logFault (s : State) (a b c d : Nat) (e : Option Cmd) (f g h : Nat) (j : Nat) : getSluice (logFault s a b c d e f g h) j = getSluice s j := by simp [getSluice]
@[simp] theorem getCore_logFault (s : State) (a b c d : Nat) (e : Option Cmd) (f g h : Nat) (j : Nat) : getCore (logFault s a b c d e f g h) j = getCore s j := by simp [getCore]
@[simp] theorem getPort_logFault (s : State) (a b c d : Nat) (e : Option Cmd) (f g h : Nat) (j : Nat) : getPort (logFault s a b c d e f g h) j = getPort s j := by simp [getPort]
@[simp] theorem getChannel_logFault (s : State) (a b c d : Nat) (e : Option Cmd) (f g h : Nat) (j : Nat) : getChannel (logFault s a b c d e f g h) j = getChannel s j := by simp [getChannel]
@[simp] theorem getQp_logFault (s : State) (a b c d : Nat) (e : Option Cmd) (f g h : Nat) (j : Nat) : getQp (logFault s a b c d e f g h) j = getQp s j := by simp [getQp]
@[simp] theorem getPower_logFault (s : State) (a b c d : Nat) (e : Option Cmd) (f g h : Nat) (j : Nat) : getPower (logFault s a b c d e f g h) j = getPower s j := by simp [getPower]
@[simp] theorem getDdr_logFault (s : State) (a b c d : Nat) (e : Option Cmd) (f g h : Nat) (j : Nat) : getDdr (logFault s a b c d e f g h) j = getDdr s j := by simp [getDdr]
@[simp] theorem getWindow_logFault (s : State) (a b c d : Nat) (e : Option Cmd) (f g h : Nat) (j : Nat) : getWindow (logFault s a b c d e f g h) j = getWindow s j := by simp [getWindow]
@[simp] theorem getInlet_hostWrite (s : State) (a : Nat) (b : List Byte) (j : Nat) : getInlet (hostWrite s a b) j = getInlet s j := by simp [getInlet]
@[simp] theorem getOutfall_hostWrite (s : State) (a : Nat) (b : List Byte) (j : Nat) : getOutfall (hostWrite s a b) j = getOutfall s j := by simp [getOutfall]
@[simp] theorem getSlot_hostWrite (s : State) (a : Nat) (b : List Byte) (j : Nat) : getSlot (hostWrite s a b) j = getSlot s j := by simp [getSlot]
@[simp] theorem getSluice_hostWrite (s : State) (a : Nat) (b : List Byte) (j : Nat) : getSluice (hostWrite s a b) j = getSluice s j := by simp [getSluice]
@[simp] theorem getCore_hostWrite (s : State) (a : Nat) (b : List Byte) (j : Nat) : getCore (hostWrite s a b) j = getCore s j := by simp [getCore]
@[simp] theorem getPort_hostWrite (s : State) (a : Nat) (b : List Byte) (j : Nat) : getPort (hostWrite s a b) j = getPort s j := by simp [getPort]
@[simp] theorem getChannel_hostWrite (s : State) (a : Nat) (b : List Byte) (j : Nat) : getChannel (hostWrite s a b) j = getChannel s j := by simp [getChannel]
@[simp] theorem getQp_hostWrite (s : State) (a : Nat) (b : List Byte) (j : Nat) : getQp (hostWrite s a b) j = getQp s j := by simp [getQp]
@[simp] theorem getPower_hostWrite (s : State) (a : Nat) (b : List Byte) (j : Nat) : getPower (hostWrite s a b) j = getPower s j := by simp [getPower]
@[simp] theorem getDdr_hostWrite (s : State) (a : Nat) (b : List Byte) (j : Nat) : getDdr (hostWrite s a b) j = getDdr s j := by simp [getDdr]
@[simp] theorem getWindow_hostWrite (s : State) (a : Nat) (b : List Byte) (j : Nat) : getWindow (hostWrite s a b) j = getWindow s j := by simp [getWindow]
@[simp] theorem getInlet_raiseVector (s : State) (k : Nat) (j : Nat) : getInlet (raiseVector s k) j = getInlet s j := by simp [getInlet]
@[simp] theorem getSlot_raiseVector (s : State) (k : Nat) (j : Nat) : getSlot (raiseVector s k) j = getSlot s j := by simp [getSlot]
@[simp] theorem getSluice_raiseVector (s : State) (k : Nat) (j : Nat) : getSluice (raiseVector s k) j = getSluice s j := by simp [getSluice]
@[simp] theorem getCore_raiseVector (s : State) (k : Nat) (j : Nat) : getCore (raiseVector s k) j = getCore s j := by simp [getCore]
@[simp] theorem getPort_raiseVector (s : State) (k : Nat) (j : Nat) : getPort (raiseVector s k) j = getPort s j := by simp [getPort]
@[simp] theorem getChannel_raiseVector (s : State) (k : Nat) (j : Nat) : getChannel (raiseVector s k) j = getChannel s j := by simp [getChannel]
@[simp] theorem getQp_raiseVector (s : State) (k : Nat) (j : Nat) : getQp (raiseVector s k) j = getQp s j := by simp [getQp]
@[simp] theorem getPower_raiseVector (s : State) (k : Nat) (j : Nat) : getPower (raiseVector s k) j = getPower s j := by simp [getPower]
@[simp] theorem getDdr_raiseVector (s : State) (k : Nat) (j : Nat) : getDdr (raiseVector s k) j = getDdr s j := by simp [getDdr]
@[simp] theorem getWindow_raiseVector (s : State) (k : Nat) (j : Nat) : getWindow (raiseVector s k) j = getWindow s j := by simp [getWindow]

/-- A fold of updates that keep a reading of the state keeps it. -/
theorem foldl_field {α β : Type} (g : State → β) (f : State → α → State) (h : ∀ s a, g (f s a) = g s) (l : List α)
    (s : State) : g (l.foldl f s) = g s := by
  induction l generalizing s with
  | nil => rfl
  | cons a l ih => rw [List.foldl_cons, ih, h]

end Sys2Proof.Machine
end

