-- ==== Sys2Proof/Laws/Memory.lean ====
section
/-!
SUPPORT. Device memory: the canonical form is kept by every memory operation, a written byte reads back, every other byte
reads as before, and a range that can be written names each of its bytes once.
-/
namespace Sys2Proof.Machine

theorem Memory.wf_iff (m : Memory) : m.wf = true ↔
    tabSorted m.cells = true ∧ ∀ p ∈ m.cells, p.2 ≠ unlisted m.lost p.1 := by
  simp [Memory.wf]

theorem cellSet_wf {l : Tab Nat} {c : List Host.Cell} (k : Nat) (b : Byte) (hs : tabSorted c = true)
    (hu : ∀ p ∈ c, p.2 ≠ unlisted l p.1) :
    tabSorted (cellSet l c k b) = true ∧ ∀ p ∈ cellSet l c k b, p.2 ≠ unlisted l p.1 := by
  unfold cellSet
  split
  · exact ⟨tabSorted_tabErase k hs, fun p hp => hu p (List.mem_filter.1 hp).1⟩
  · next hb =>
    refine ⟨tabSorted_tabSet k b hs, fun p hp => ?_⟩
    rcases mem_tabSet hp with rfl | hp
    · exact hb
    · exact hu p hp

theorem cellsWrite_wf {l : Tab Nat} {c : List Host.Cell} (a : Nat) (b : List Byte) (hs : tabSorted c = true)
    (hu : ∀ p ∈ c, p.2 ≠ unlisted l p.1) :
    tabSorted (cellsWrite l c a b) = true ∧ ∀ p ∈ cellsWrite l c a b, p.2 ≠ unlisted l p.1 := by
  induction b generalizing c a with
  | nil => exact ⟨hs, hu⟩
  | cons x b ih =>
    simp only [cellsWrite]
    split
    · next k _ => exact ih (a + 1) (cellSet_wf k x hs hu).1 (cellSet_wf k x hs hu).2
    · exact ih (a + 1) hs hu

/-- A cell reads as written, an unlisted one as its zone says. -/
theorem tabGet_cellSet (l : Tab Nat) (c : List Host.Cell) (k : Nat) (b : Byte) (m : Nat) :
    tabGet (cellSet l c k b) (unlisted l m) m = if m = k then b else tabGet c (unlisted l m) m := by
  unfold cellSet
  split
  · next hb =>
    simp only [tabGet, tabFind?_tabErase]
    split
    · next h => subst h; rw [hb]; rfl
    · rfl
  · exact tabGet_tabSet c _ b k m

/-- A cell after a write of bytes, where at most one byte of the range names it. -/
theorem tabGet_cellsWrite_other (l : Tab Nat) (c : List Host.Cell) (a : Nat) (b : List Byte) (m : Nat)
    (h : ∀ k, k < b.length → canon (a + k) ≠ some m) :
    tabGet (cellsWrite l c a b) (unlisted l m) m = tabGet c (unlisted l m) m := by
  induction b generalizing c a with
  | nil => rfl
  | cons x b ih =>
    have h0 := h 0 (by simp)
    have hs : ∀ k, k < b.length → canon (a + 1 + k) ≠ some m := fun k hk => by
      have := h (k + 1) (by simpa using hk); rwa [Nat.add_assoc, Nat.add_comm 1 k]
    simp only [cellsWrite]
    rw [ih _ _ hs]
    split
    · next k hk =>
      rw [tabGet_cellSet, if_neg (fun e => h0 (by rw [Nat.add_zero, hk, e]))]
    · rfl

theorem tabGet_cellsWrite (l : Tab Nat) (c : List Host.Cell) (a : Nat) (b : List Byte) (m k : Nat) (hk : k < b.length)
    (hm : canon (a + k) = some m) (hu : ∀ j, j < b.length → j ≠ k → canon (a + j) ≠ some m) :
    tabGet (cellsWrite l c a b) (unlisted l m) m = b.getD k 0 := by
  induction b generalizing c a k with
  | nil => simp at hk
  | cons x b ih =>
    simp only [cellsWrite]
    cases k with
    | zero =>
      rw [tabGet_cellsWrite_other]
      · simp only [Nat.add_zero] at hm
        simp [hm, tabGet_cellSet]
      · intro j hj
        have := hu (j + 1) (by simpa using hj) (by omega)
        rwa [Nat.add_assoc, Nat.add_comm 1 j]
    | succ k =>
      rw [ih _ (a + 1) k (by simpa using hk) (by rw [← hm]; congr 1; omega)]
      · simp
      · intro j hj hne
        have := hu (j + 1) (by simpa using hj) (by omega)
        rwa [Nat.add_assoc, Nat.add_comm 1 j]

@[simp] theorem foldl_logFault_mem (l : List Nat) (s : State) (a b : Nat) (g : Nat → Nat × Nat) :
    (l.foldl (fun s k => logFault s a b (g k).1 (g k).2 none k 0 0) s).mem = s.mem := by
  induction l generalizing s with
  | nil => rfl
  | cons x l ih => simp [ih]

theorem writeMem_cells (s : State) (a : Nat) (b : List Byte) :
    (writeMem s a b).mem.cells = cellsWrite s.mem.lost s.mem.cells a b ∧ (writeMem s a b).mem.lost = s.mem.lost := by
  unfold writeMem
  split
  · exact ⟨rfl, rfl⟩
  · simp only [foldl_logFault_mem, and_self]

theorem writeMem_wf {s : State} (a : Nat) (b : List Byte) (h : s.mem.wf = true) : (writeMem s a b).mem.wf = true := by
  rw [Memory.wf_iff] at *
  rw [(writeMem_cells s a b).1, (writeMem_cells s a b).2]
  exact cellsWrite_wf a b h.1 h.2

/-- A fold of records keeps every reading that one record keeps. -/
theorem foldl_logFault_field {β : Type} (f : State → β) (h : ∀ s a b c d e g i j, f (logFault s a b c d e g i j) = f s)
    (l : List Nat) (s : State) (a b : Nat) (g : Nat → Nat × Nat) :
    f (l.foldl (fun s k => logFault s a b (g k).1 (g k).2 none k 0 0) s) = f s :=
  foldl_field f _ (fun s k => h s a b _ _ _ _ _ _) l s

@[simp] theorem writeMem_free (s : State) (a : Nat) (b : List Byte) : (writeMem s a b).free = s.free := by
  unfold writeMem
  split
  · rfl
  · exact foldl_logFault_field (·.free) (by simp) _ _ _ _ _

@[simp] theorem writeMem_cores (s : State) (a : Nat) (b : List Byte) : (writeMem s a b).cores = s.cores := by
  unfold writeMem
  split
  · rfl
  · exact foldl_logFault_field (·.cores) (by simp) _ _ _ _ _

/-- Every byte outside a write reads as before. -/
theorem readByte_writeMem_ne {s : State} {a x : Nat} {b : List Byte} (h : ∀ k, k < b.length → canon x ≠ canon (a + k)) :
    readByte (writeMem s a b) x = readByte s x := by
  unfold readByte accByteOf getCore
  rw [writeMem_free, writeMem_cores, (writeMem_cells s a b).1, (writeMem_cells s a b).2]
  split
  · rfl
  · cases hx : canon x with
    | none => rfl
    | some m =>
      exact tabGet_cellsWrite_other _ _ _ _ _ (fun k hk e => h k hk (by rw [hx, e]))

/-- No accumulator view can be written. -/
theorem isAcc_of_canon {a k : Nat} (h : canon a = some k) : isAcc a = false := by
  unfold canon isAcc inStride isDdr ddrBase at *
  simp only [Bool.and_eq_true, decide_eq_true_eq, Bool.and_eq_false_iff, decide_eq_false_iff_not] at *
  repeat' split at h
  all_goals first | omega | skip
  cases h

/-- A byte of a write reads as written, where no other byte of it names the same cell. -/
theorem readByte_writeMem {s : State} {a k : Nat} {b : List Byte} (hk : k < b.length) {m : Nat}
    (hm : canon (a + k) = some m) (hu : ∀ j, j < b.length → j ≠ k → canon (a + j) ≠ some m) :
    readByte (writeMem s a b) (a + k) = b.getD k 0 := by
  unfold readByte
  rw [if_neg (by rw [isAcc_of_canon hm]; simp), hm, (writeMem_cells s a b).1, (writeMem_cells s a b).2]
  exact tabGet_cellsWrite _ _ _ _ _ _ hk hm hu

/-- The interleaved view names each linear byte once (R195). -/
theorem interleave_inj {a b : Nat} (ha : a < 2 ^ 31) (hb : b < 2 ^ 31) (h : interleave a = interleave b) : a = b := by
  unfold interleave at h
  have h1 : a / 65536 < 32768 := by omega
  have h2 : b / 65536 < 32768 := by omega
  have e1 : a / 4096 % 16 = b / 4096 % 16 := by
    generalize a / 65536 = x at *; generalize b / 65536 = y at *
    generalize a / 4096 % 16 = u at *; generalize b / 4096 % 16 = v at *
    omega
  rw [e1] at h
  have e2 : a / 65536 = b / 65536 := by
    generalize a / 65536 = x at *; generalize b / 65536 = y at *
    omega
  have e3 : a % 4096 = b % 4096 := by rw [e2] at h; omega
  omega

/-- Each byte of a range that can be written has a cell of its own. -/
theorem canon_range {a n : Nat} (h : rangeOk a n = true) : (∀ k, k < n → ∃ m, canon (a + k) = some m) ∧
    (∀ j k, j < n → k < n → canon (a + j) = canon (a + k) → j = k) := by
  simp only [rangeOk, Bool.or_eq_true, Bool.and_eq_true, decide_eq_true_eq] at h
  rcases h with (((h | h) | h) | h) | h
  · subst h; exact ⟨fun k hk => absurd hk (by omega), fun j k hj => absurd hj (by omega)⟩
  · have hc : ∀ k, k < n → canon (a + k) = some (a + k) := fun k hk => by
      unfold canon; rw [if_pos (by omega)]
    refine ⟨fun k hk => ⟨_, hc k hk⟩, fun j k hj hk e => ?_⟩
    rw [hc j hj, hc k hk] at e; injection e with e; omega
  · have hc : ∀ k, k < n → canon (a + k) = some (interleave (a + k - 0x800000000)) := fun k hk => by
      unfold canon; rw [if_neg (by omega), if_pos (by simp only [Bool.and_eq_true, decide_eq_true_eq]; omega)]
    refine ⟨fun k hk => ⟨_, hc k hk⟩, fun j k hj hk e => ?_⟩
    rw [hc j hj, hc k hk] at e; have e := Option.some.inj e
    have := interleave_inj (by omega) (by omega) e; omega
  · have hc : ∀ k, k < n → canon (a + k) = some (a + k) := fun k hk => by
      have hb : ddrBase = 0x4000000000 := rfl
      unfold canon inStride isDdr
      rw [if_neg (by omega), if_neg, if_neg, if_pos] <;> simp only [Bool.and_eq_true, decide_eq_true_eq] <;> omega
    refine ⟨fun k hk => ⟨_, hc k hk⟩, fun j k hj hk e => ?_⟩
    rw [hc j hj, hc k hk] at e; injection e with e; omega
  · have hc : ∀ k, k < n → canon (a + k) = some (a + k) := fun k hk => by
      simp only [inStride, Bool.and_eq_true, decide_eq_true_eq] at h
      unfold canon
      rw [if_neg (by omega), if_neg (by simp only [Bool.and_eq_true, decide_eq_true_eq]; omega), if_pos]
      simp only [inStride, Bool.and_eq_true, decide_eq_true_eq]; omega
    refine ⟨fun k hk => ⟨_, hc k hk⟩, fun j k hj hk e => ?_⟩
    rw [hc j hj, hc k hk] at e; injection e with e; omega

/-- A write to a range that can be written: its bytes read as written. -/
theorem readByte_writeMem_range {s : State} {a k : Nat} {b : List Byte} (h : rangeOk a b.length = true) (hk : k < b.length) :
    readByte (writeMem s a b) (a + k) = b.getD k 0 := by
  obtain ⟨m, hm⟩ := (canon_range h).1 k hk
  exact readByte_writeMem hk hm (fun j hj hne e => hne ((canon_range h).2 j k hj hk (by rw [e, hm])))

end Sys2Proof.Machine
end

