-- ==== Sys2Proof/Laws/Issue.lean ====
section
/-!
SUPPORT. What a dispatch row does with the command that it runs, and what a host access does on a link that answers: the
checks that every row makes, said once.
-/
namespace Sys2Proof.Machine

@[simp] theorem settled_next (s : State) : settled (.next s) = .next (settle s) := rfl
@[simp] theorem settled_fault (f : Fault) : settled (.fault f) = .fault f := rfl
@[simp] theorem settled_refused (r : Refusal) : settled (.refused r) = .refused r := rfl
@[simp] theorem ok_eq (s : State) : ok s = .next (settle s) := rfl

theorem host_up {s : State} (h : hostUp s = true) (k : State → Out) : host s k = settled (k s) := by simp [host, h]
theorem host_down {s : State} (h : hostUp s = false) (k : State → Out) : host s k = .next s := by simp [host, h]

/-- A row on the command that it runs is its effect, after the dispatch. -/
theorem issue_runs {s : State} {i : Fin 64} {sel : Cmd → Bool} {c : Cmd} (h : runs s i sel c = true)
    (k : State → Cmd → Out) : issue s i sel k = settled (k (dispatchCmd s c) (beginCmd s c)) := by
  simp only [runs, Bool.and_eq_true, Bool.or_eq_true, Bool.not_eq_true', decide_eq_true_eq] at h
  obtain ⟨⟨h1, h2⟩, h3⟩ := h
  simp only [issue, h1]
  rw [if_neg (by rcases h2 with h | h <;> simp [h]), if_neg (by rcases h3 with h | h <;> simp [h])]

theorem issue_none {s : State} {i : Fin 64} {sel : Cmd → Bool} (h : dispatchable s i.val sel = none)
    (k : State → Cmd → Out) : issue s i sel k = .next s := by simp [issue, h]

theorem issue_rejects {s : State} {i : Fin 64} {sel : Cmd → Bool} {c : Cmd} (h : dispatchable s i.val sel = some c)
    (hm : (flagSet c.hdr 1 = true ∧ s.lock.repeatable = false) ∨ (flagSet c.hdr 3 = true ∧ s.lock.established = false))
    (k : State → Cmd → Out) :
    issue s i sel k = .next (settle (reject (dispatchCmd s c) c.id 0x05 (modeCode s) 0)) := by
  simp only [issue, h]
  rcases hm with ⟨a, b⟩ | ⟨a, b⟩
  · simp [a, b]
  · split
    · rfl
    · simp [a, b]

@[simp] theorem beginCmd_hdr (s : State) (c : Cmd) : (beginCmd s c).hdr = c.hdr := rfl
@[simp] theorem beginCmd_params (s : State) (c : Cmd) : (beginCmd s c).params = c.params := rfl
@[simp] theorem beginCmd_id (s : State) (c : Cmd) : (beginCmd s c).id = c.id := rfl
@[simp] theorem beginCmd_inlet (s : State) (c : Cmd) : (beginCmd s c).inlet = c.inlet := rfl
@[simp] theorem beginCmd_urgent (s : State) (c : Cmd) : (beginCmd s c).urgent = c.urgent := rfl
@[simp] theorem beginCmd_flaws (s : State) (c : Cmd) : (beginCmd s c).flaws = c.flaws := rfl
@[simp] theorem beginCmd_par (s : State) (c : Cmd) (o n : Nat) : (beginCmd s c).par o n = c.par o n := rfl

theorem checked_ok {c : Cmd} {n : Nat} {good : Bool} (hn : c.hdr.paramLen = n) (hg : good = true) (k : Out) :
    checked c n good k = k := by simp [checked, hn, hg]
theorem reaches_ok {good : Bool} (h : good = true) (a : Nat) (k : Out) : reaches good a k = k := by simp [reaches, h]
theorem namedCores_ok {s : State} {m : Nat} (h : coresMissing s m = 0) (c : Cmd) (k : Out) : namedCores s c m k = k := by
  simp [namedCores, h]
/-- Reads that meet no error that lasts go on after their re-runs, and count in the READ class (R222, Table 8.7). -/
theorem readsWell_ok {s : State} {c : Cmd} {l : List (Nat × Nat × Nat)} (h : readsClean s c l = true) (k : State → Out) :
    readsWell s c l k = k (afterReads s c l) := by
  simp only [readsClean, Bool.and_eq_true] at h
  have h1 : l.findSome? (fun r => (badAt s r.2.1 r.2.2).map (fun a => (r.1, a))) = none := by
    simpa [List.findSome?_eq_none_iff, List.all_eq_true] using h.1
  have h2 : (flawsIn c l).find? (fun h => decide (4 ≤ (flawsIn c l).countP (fun g => readStep c g.2 = readStep c h.2))) = none := by
    simp only [List.find?_eq_none, decide_eq_true_eq, Nat.not_le]
    intro x hx
    simpa using List.all_eq_true.mp h.2 x hx
  simp [readsWell, h1, meetFlaws, h2, afterReads]

/-- Stored data that reads as bad ends the command after its re-runs (R222). -/
theorem readsWell_bad {s : State} {c : Cmd} {l : List (Nat × Nat × Nat)} {r : Nat × Nat}
    (h : l.findSome? (fun r => (badAt s r.2.1 r.2.2).map (fun a => (r.1, a))) = some r) (k : State → Out) :
    readsWell s c l k = .next (exhaustAll s c.id (otherTile 0 r.1) r.2) := by simp [readsWell, h]

@[simp] theorem dispatchCmd_dev (s : State) (c : Cmd) : (dispatchCmd s c).dev = s.dev := by
  unfold dispatchCmd; split <;> rfl
@[simp] theorem dispatchCmd_outfalls (s : State) (c : Cmd) : (dispatchCmd s c).outfalls = s.outfalls := by
  unfold dispatchCmd; split <;> rfl
@[simp] theorem dispatchCmd_irq (s : State) (c : Cmd) : (dispatchCmd s c).irq = s.irq := by
  unfold dispatchCmd; split <;> rfl
@[simp] theorem dispatchCmd_ap (s : State) (c : Cmd) : (dispatchCmd s c).ap = s.ap := by
  unfold dispatchCmd; split <;> rfl
@[simp] theorem dispatchCmd_events (s : State) (c : Cmd) : (dispatchCmd s c).events = s.events := by
  unfold dispatchCmd; split <;> rfl
@[simp] theorem dispatchCmd_mem (s : State) (c : Cmd) : (dispatchCmd s c).mem = s.mem := by
  unfold dispatchCmd; split <;> rfl
@[simp] theorem dispatchCmd_host (s : State) (c : Cmd) : (dispatchCmd s c).host = s.host := by
  unfold dispatchCmd; split <;> rfl
@[simp] theorem dispatchCmd_msix (s : State) (c : Cmd) : (dispatchCmd s c).msix = s.msix := by
  unfold dispatchCmd; split <;> rfl
@[simp] theorem dispatchCmd_wire (s : State) (c : Cmd) : (dispatchCmd s c).wire = s.wire := by
  unfold dispatchCmd; split <;> rfl
@[simp] theorem dispatchCmd_slots (s : State) (c : Cmd) : (dispatchCmd s c).slots = s.slots := by
  unfold dispatchCmd; split <;> rfl
@[simp] theorem dispatchCmd_sluices (s : State) (c : Cmd) : (dispatchCmd s c).sluices = s.sluices := by
  unfold dispatchCmd; split <;> rfl
@[simp] theorem dispatchCmd_weir (s : State) (c : Cmd) : (dispatchCmd s c).weir = s.weir := by
  unfold dispatchCmd; split <;> rfl
@[simp] theorem dispatchCmd_ddr (s : State) (c : Cmd) : (dispatchCmd s c).ddr = s.ddr := by
  unfold dispatchCmd; split <;> rfl
@[simp] theorem dispatchCmd_selfRefresh (s : State) (c : Cmd) : (dispatchCmd s c).selfRefresh = s.selfRefresh := by
  unfold dispatchCmd; split <;> rfl
@[simp] theorem dispatchCmd_cores (s : State) (c : Cmd) : (dispatchCmd s c).cores = s.cores := by
  unfold dispatchCmd; split <;> rfl
@[simp] theorem dispatchCmd_ports (s : State) (c : Cmd) : (dispatchCmd s c).ports = s.ports := by
  unfold dispatchCmd; split <;> rfl
@[simp] theorem dispatchCmd_net (s : State) (c : Cmd) : (dispatchCmd s c).net = s.net := by
  unfold dispatchCmd; split <;> rfl
@[simp] theorem dispatchCmd_channels (s : State) (c : Cmd) : (dispatchCmd s c).channels = s.channels := by
  unfold dispatchCmd; split <;> rfl
@[simp] theorem dispatchCmd_qps (s : State) (c : Cmd) : (dispatchCmd s c).qps = s.qps := by
  unfold dispatchCmd; split <;> rfl
@[simp] theorem dispatchCmd_dir (s : State) (c : Cmd) : (dispatchCmd s c).dir = s.dir := by
  unfold dispatchCmd; split <;> rfl
@[simp] theorem dispatchCmd_tide (s : State) (c : Cmd) : (dispatchCmd s c).tide = s.tide := by
  unfold dispatchCmd; split <;> rfl
@[simp] theorem dispatchCmd_lock (s : State) (c : Cmd) : (dispatchCmd s c).lock = s.lock := by
  unfold dispatchCmd; split <;> rfl
@[simp] theorem dispatchCmd_pump (s : State) (c : Cmd) : (dispatchCmd s c).pump = s.pump := by
  unfold dispatchCmd; split <;> rfl
@[simp] theorem dispatchCmd_power (s : State) (c : Cmd) : (dispatchCmd s c).power = s.power := by
  unfold dispatchCmd; split <;> rfl
@[simp] theorem dispatchCmd_tele (s : State) (c : Cmd) : (dispatchCmd s c).tele = s.tele := by
  unfold dispatchCmd; split <;> rfl
@[simp] theorem dispatchCmd_err (s : State) (c : Cmd) : (dispatchCmd s c).err = s.err := by
  unfold dispatchCmd; split <;> rfl
@[simp] theorem dispatchCmd_sec (s : State) (c : Cmd) : (dispatchCmd s c).sec = s.sec := by
  unfold dispatchCmd; split <;> rfl
@[simp] theorem dispatchCmd_warden (s : State) (c : Cmd) : (dispatchCmd s c).warden = s.warden := by
  unfold dispatchCmd; split <;> rfl
@[simp] theorem dispatchCmd_rcd (s : State) (c : Cmd) : (dispatchCmd s c).rcd = s.rcd := by
  unfold dispatchCmd; split <;> rfl
@[simp] theorem dispatchCmd_stalls (s : State) (c : Cmd) : (dispatchCmd s c).stalls = s.stalls := by
  unfold dispatchCmd; split <;> rfl
@[simp] theorem dispatchCmd_pci (s : State) (c : Cmd) : (dispatchCmd s c).pci = s.pci := by
  unfold dispatchCmd; split <;> rfl
@[simp] theorem dispatchCmd_pins (s : State) (c : Cmd) : (dispatchCmd s c).pins = s.pins := by
  unfold dispatchCmd; split <;> rfl
@[simp] theorem dispatchCmd_free (s : State) (c : Cmd) : (dispatchCmd s c).free = s.free := by
  unfold dispatchCmd; split <;> rfl
@[simp] theorem dispatchCmd_pending (s : State) (c : Cmd) : (dispatchCmd s c).pending = s.pending := by
  unfold dispatchCmd; split <;> rfl
@[simp] theorem getOutfall_dispatchCmd (s : State) (c : Cmd) (j : Nat) : getOutfall (dispatchCmd s c) j = getOutfall s j := by
  simp [getOutfall]
@[simp] theorem getSlot_dispatchCmd (s : State) (c : Cmd) (j : Nat) : getSlot (dispatchCmd s c) j = getSlot s j := by
  simp [getSlot]
@[simp] theorem getSluice_dispatchCmd (s : State) (c : Cmd) (j : Nat) : getSluice (dispatchCmd s c) j = getSluice s j := by
  simp [getSluice]
@[simp] theorem getCore_dispatchCmd (s : State) (c : Cmd) (j : Nat) : getCore (dispatchCmd s c) j = getCore s j := by
  simp [getCore]
@[simp] theorem getPort_dispatchCmd (s : State) (c : Cmd) (j : Nat) : getPort (dispatchCmd s c) j = getPort s j := by
  simp [getPort]
@[simp] theorem getChannel_dispatchCmd (s : State) (c : Cmd) (j : Nat) : getChannel (dispatchCmd s c) j = getChannel s j := by
  simp [getChannel]
@[simp] theorem getQp_dispatchCmd (s : State) (c : Cmd) (j : Nat) : getQp (dispatchCmd s c) j = getQp s j := by
  simp [getQp]
@[simp] theorem getPower_dispatchCmd (s : State) (c : Cmd) (j : Nat) : getPower (dispatchCmd s c) j = getPower s j := by
  simp [getPower]
@[simp] theorem getDdr_dispatchCmd (s : State) (c : Cmd) (j : Nat) : getDdr (dispatchCmd s c) j = getDdr s j := by
  simp [getDdr]
@[simp] theorem getWindow_dispatchCmd (s : State) (c : Cmd) (j : Nat) : getWindow (dispatchCmd s c) j = getWindow s j := by
  simp [getWindow]
/-- `t` is `s` but for the ports, what they have sent, the weir and the clock, and the work of commands in flight: what sending and
waiting for a window may change. -/
structure Waits (s t : State) : Prop where
  dev : t.dev = s.dev
  inlets : t.inlets = s.inlets
  outfalls : t.outfalls = s.outfalls
  irq : t.irq = s.irq
  ap : t.ap = s.ap
  events : t.events = s.events
  mem : t.mem = s.mem
  host : t.host = s.host
  msix : t.msix = s.msix
  slots : t.slots = s.slots
  sluices : t.sluices = s.sluices
  ddr : t.ddr = s.ddr
  selfRefresh : t.selfRefresh = s.selfRefresh
  cores : t.cores = s.cores
  net : t.net = s.net
  channels : t.channels = s.channels
  qps : t.qps = s.qps
  dir : t.dir = s.dir
  lock : t.lock = s.lock
  pump : t.pump = s.pump
  power : t.power = s.power
  tele : t.tele = s.tele
  err : t.err = s.err
  sec : t.sec = s.sec
  warden : t.warden = s.warden
  rcd : t.rcd = s.rcd
  stalls : t.stalls = s.stalls
  pci : t.pci = s.pci
  pins : t.pins = s.pins
  free : t.free = s.free
  pending : t.pending = s.pending

/-- `t` is `s` but for the ports, what they have sent, and the weir: what sending changes. -/
structure Sends (s t : State) : Prop extends Waits s t where
  clk : t.clk = s.clk
  tide : t.tide = s.tide
  cmds : t.cmds = s.cmds

theorem Waits.rfl {s : State} : Waits s s := by constructor <;> exact Eq.refl _
theorem Sends.rfl {s : State} : Sends s s := by constructor <;> first | exact Waits.rfl | exact Eq.refl _
theorem Waits.trans {r s t : State} (h : Waits r s) (g : Waits s t) : Waits r t := by
  constructor
  · exact g.dev.trans h.dev
  · exact g.inlets.trans h.inlets
  · exact g.outfalls.trans h.outfalls
  · exact g.irq.trans h.irq
  · exact g.ap.trans h.ap
  · exact g.events.trans h.events
  · exact g.mem.trans h.mem
  · exact g.host.trans h.host
  · exact g.msix.trans h.msix
  · exact g.slots.trans h.slots
  · exact g.sluices.trans h.sluices
  · exact g.ddr.trans h.ddr
  · exact g.selfRefresh.trans h.selfRefresh
  · exact g.cores.trans h.cores
  · exact g.net.trans h.net
  · exact g.channels.trans h.channels
  · exact g.qps.trans h.qps
  · exact g.dir.trans h.dir
  · exact g.lock.trans h.lock
  · exact g.pump.trans h.pump
  · exact g.power.trans h.power
  · exact g.tele.trans h.tele
  · exact g.err.trans h.err
  · exact g.sec.trans h.sec
  · exact g.warden.trans h.warden
  · exact g.rcd.trans h.rcd
  · exact g.stalls.trans h.stalls
  · exact g.pci.trans h.pci
  · exact g.pins.trans h.pins
  · exact g.free.trans h.free
  · exact g.pending.trans h.pending
theorem Sends.trans {r s t : State} (h : Sends r s) (g : Sends s t) : Sends r t := by
  constructor
  · exact h.toWaits.trans g.toWaits
  · exact g.clk.trans h.clk
  · exact g.tide.trans h.tide
  · exact g.cmds.trans h.cmds

theorem foldl_sends {α : Type} {f : State → α → State} (hf : ∀ s a, Sends s (f s a)) (l : List α) (s : State) :
    Sends s (l.foldl f s) := by
  induction l generalizing s with
  | nil => exact Sends.rfl
  | cons a l ih => exact (hf s a).trans (ih _)

theorem foldl_waits {α : Type} {f : State → α → State} (hf : ∀ s a, Waits s (f s a)) (l : List α) (s : State) :
    Waits s (l.foldl f s) := by
  induction l generalizing s with
  | nil => exact Waits.rfl
  | cons a l ih => exact (hf s a).trans (ih _)

theorem putPort_sends (s : State) (p : Nat) (x : Port) : Sends s (putPort s p x) := by
  constructor <;> first | (constructor <;> rfl) | rfl
theorem emitFlit_sends (s : State) (p : Nat) (f : Flit) : Sends s (emitFlit s p f) := by
  constructor <;> first | (constructor <;> rfl) | rfl
theorem freeFlits_sends (s : State) (p key n : Nat) : Sends s (freeFlits s p key n) := putPort_sends _ _ _
theorem weirCount_sends (s : State) (k n : Nat) : Sends s (weirCount s k n) := by
  constructor <;> first | (constructor <;> rfl) | rfl
theorem putWire_sends (s : State) (w : List Sent) : Sends s { s with wire := w } := by
  constructor <;> first | (constructor <;> rfl) | rfl

/-- Sending flits of a packet changes only what sending may change (R274 to R276). -/
theorem txSend_sends (s : State) (p i n : Nat) (t : TxPacket) : Sends s (txSend s p i n t) := by
  unfold txSend
  extract_lets x vc key u whole x q s1 s2 s3
  have h1 : Sends s s1 := (putPort_sends s p x).trans (foldl_sends (fun s j => emitFlit_sends _ _ _) _ _)
  have h2 : Sends s s2 := by
    show Sends s (match t.arrived with | some g => _ | none => _)
    split
    · split
      · exact h1.trans (freeFlits_sends _ _ _ _)
      · exact h1
    · exact h1
  have h3 : Sends s s3 := by
    show Sends s (if vc = 0 then s2 else _)
    split
    · exact h2
    · exact h2.trans (weirCount_sends _ _ _)
  split
  · exact h3.trans (putWire_sends _ _)
  · exact h3

theorem txRun_sends (k : Nat) (s : State) (p : Nat) : Sends s (txRun k s p) := by
  induction k generalizing s with
  | zero => exact Sends.rfl
  | succ k ih =>
    unfold txRun
    split
    · split
      · exact Sends.rfl
      · exact (txSend_sends _ _ _ _ _).trans (ih _)
    · exact Sends.rfl

/-- A port that sends what it may changes only what sending may change. -/
theorem transmit_sends (s : State) (p : Nat) : Sends s (transmit s p) := txRun_sends _ _ _

theorem enqueue_sends (s : State) (p : Nat) (t : TxPacket) : Sends s (enqueue s p t) :=
  (putPort_sends _ _ _).trans (transmit_sends _ _)

theorem advance_waits (s : State) (n : Nat) : Waits s (advance s n) := by constructor <;> rfl
theorem advanceTo_waits (s : State) (n : Nat) : Waits s (advanceTo s n) := advance_waits _ _

/-- What a new window brings (R214, R217). -/
theorem weirServe_waits (s : State) : Waits s (weirServe s) := by
  unfold weirServe
  split
  · exact Waits.rfl
  · refine Waits.trans ?_ (foldl_sends (fun s p => transmit_sends s p) _ _).toWaits
    refine Waits.trans ?_ (foldl_waits (fun s w => ?_) _ _)
    · constructor <;> rfl
    · constructor <;> rfl

theorem weirBoundary_waits (s : State) : Waits s (weirBoundary s) := (advance_waits s _).trans (weirServe_waits _)

theorem spendCredit_waits (s : State) : Waits s (spendCredit s) := by constructor <;> rfl
theorem earnCredit_waits (s : State) : Waits s (earnCredit s) := by constructor <;> rfl

theorem ite_waits {s t u : State} (b : Bool) (h : Waits s t) (g : Waits s u) : Waits s (if b then t else u) := by
  split
  · exact h
  · exact g
theorem earnDue_waits (s : State) : Waits s (earnDue s) := by
  unfold earnDue
  split
  · constructor <;> rfl
  · exact Waits.rfl

theorem ddrIssue_waits (k : DdrClass) (u : Bool) (f : Nat) (s : State) (m : Nat) : Waits s (ddrIssue k u f s m) := by
  induction f generalizing s m with
  | zero => exact Waits.rfl
  | succ f ih =>
    unfold ddrIssue
    split
    · exact Waits.rfl
    · split
      · exact (spendCredit_waits s).trans (ih _ _)
      · split
        · exact (weirCount_sends s _ _).toWaits.trans (ih _ _)
        · split
          · exact ((earnCredit_waits s).trans (spendCredit_waits _)).trans (ih _ _)
          · exact (weirBoundary_waits s).trans (ih _ _)

/-- Accesses to LPDDR5X change only what waiting for a window may change (R214 to R216). -/
theorem ddrTake_waits (s : State) (k : DdrClass) (u : Bool) (a n : Nat) : Waits s (ddrTake s k u a n) :=
  (ite_waits _ (earnDue_waits s) Waits.rfl).trans (ddrIssue_waits _ _ _ _ _)

theorem takeReads_waits (s : State) (u : Bool) (l : List (Nat × Nat)) : Waits s (takeReads s u l) :=
  foldl_waits (fun s _ => ddrTake_waits s _ _ _ _) l s

@[simp] theorem transmit_dev (s : State) (p : Nat) : (transmit s p).dev = s.dev := (transmit_sends s p).dev
@[simp] theorem transmit_inlets (s : State) (p : Nat) : (transmit s p).inlets = s.inlets := (transmit_sends s p).inlets
@[simp] theorem transmit_outfalls (s : State) (p : Nat) : (transmit s p).outfalls = s.outfalls := (transmit_sends s p).outfalls
@[simp] theorem transmit_irq (s : State) (p : Nat) : (transmit s p).irq = s.irq := (transmit_sends s p).irq
@[simp] theorem transmit_ap (s : State) (p : Nat) : (transmit s p).ap = s.ap := (transmit_sends s p).ap
@[simp] theorem transmit_events (s : State) (p : Nat) : (transmit s p).events = s.events := (transmit_sends s p).events
@[simp] theorem transmit_mem (s : State) (p : Nat) : (transmit s p).mem = s.mem := (transmit_sends s p).mem
@[simp] theorem transmit_host (s : State) (p : Nat) : (transmit s p).host = s.host := (transmit_sends s p).host
@[simp] theorem transmit_msix (s : State) (p : Nat) : (transmit s p).msix = s.msix := (transmit_sends s p).msix
@[simp] theorem transmit_slots (s : State) (p : Nat) : (transmit s p).slots = s.slots := (transmit_sends s p).slots
@[simp] theorem transmit_sluices (s : State) (p : Nat) : (transmit s p).sluices = s.sluices := (transmit_sends s p).sluices
@[simp] theorem transmit_ddr (s : State) (p : Nat) : (transmit s p).ddr = s.ddr := (transmit_sends s p).ddr
@[simp] theorem transmit_selfRefresh (s : State) (p : Nat) : (transmit s p).selfRefresh = s.selfRefresh := (transmit_sends s p).selfRefresh
@[simp] theorem transmit_cores (s : State) (p : Nat) : (transmit s p).cores = s.cores := (transmit_sends s p).cores
@[simp] theorem transmit_net (s : State) (p : Nat) : (transmit s p).net = s.net := (transmit_sends s p).net
@[simp] theorem transmit_channels (s : State) (p : Nat) : (transmit s p).channels = s.channels := (transmit_sends s p).channels
@[simp] theorem transmit_qps (s : State) (p : Nat) : (transmit s p).qps = s.qps := (transmit_sends s p).qps
@[simp] theorem transmit_dir (s : State) (p : Nat) : (transmit s p).dir = s.dir := (transmit_sends s p).dir
@[simp] theorem transmit_lock (s : State) (p : Nat) : (transmit s p).lock = s.lock := (transmit_sends s p).lock
@[simp] theorem transmit_pump (s : State) (p : Nat) : (transmit s p).pump = s.pump := (transmit_sends s p).pump
@[simp] theorem transmit_power (s : State) (p : Nat) : (transmit s p).power = s.power := (transmit_sends s p).power
@[simp] theorem transmit_tele (s : State) (p : Nat) : (transmit s p).tele = s.tele := (transmit_sends s p).tele
@[simp] theorem transmit_err (s : State) (p : Nat) : (transmit s p).err = s.err := (transmit_sends s p).err
@[simp] theorem transmit_sec (s : State) (p : Nat) : (transmit s p).sec = s.sec := (transmit_sends s p).sec
@[simp] theorem transmit_warden (s : State) (p : Nat) : (transmit s p).warden = s.warden := (transmit_sends s p).warden
@[simp] theorem transmit_rcd (s : State) (p : Nat) : (transmit s p).rcd = s.rcd := (transmit_sends s p).rcd
@[simp] theorem transmit_stalls (s : State) (p : Nat) : (transmit s p).stalls = s.stalls := (transmit_sends s p).stalls
@[simp] theorem transmit_pci (s : State) (p : Nat) : (transmit s p).pci = s.pci := (transmit_sends s p).pci
@[simp] theorem transmit_pins (s : State) (p : Nat) : (transmit s p).pins = s.pins := (transmit_sends s p).pins
@[simp] theorem transmit_free (s : State) (p : Nat) : (transmit s p).free = s.free := (transmit_sends s p).free
@[simp] theorem transmit_pending (s : State) (p : Nat) : (transmit s p).pending = s.pending := (transmit_sends s p).pending
@[simp] theorem transmit_clk (s : State) (p : Nat) : (transmit s p).clk = s.clk := (transmit_sends s p).clk
@[simp] theorem transmit_tide (s : State) (p : Nat) : (transmit s p).tide = s.tide := (transmit_sends s p).tide
@[simp] theorem transmit_cmds (s : State) (p : Nat) : (transmit s p).cmds = s.cmds := (transmit_sends s p).cmds
@[simp] theorem weirBoundary_dev (s : State) : (weirBoundary s).dev = s.dev := (weirBoundary_waits s).dev
@[simp] theorem weirBoundary_inlets (s : State) : (weirBoundary s).inlets = s.inlets := (weirBoundary_waits s).inlets
@[simp] theorem weirBoundary_outfalls (s : State) : (weirBoundary s).outfalls = s.outfalls := (weirBoundary_waits s).outfalls
@[simp] theorem weirBoundary_irq (s : State) : (weirBoundary s).irq = s.irq := (weirBoundary_waits s).irq
@[simp] theorem weirBoundary_ap (s : State) : (weirBoundary s).ap = s.ap := (weirBoundary_waits s).ap
@[simp] theorem weirBoundary_events (s : State) : (weirBoundary s).events = s.events := (weirBoundary_waits s).events
@[simp] theorem weirBoundary_mem (s : State) : (weirBoundary s).mem = s.mem := (weirBoundary_waits s).mem
@[simp] theorem weirBoundary_host (s : State) : (weirBoundary s).host = s.host := (weirBoundary_waits s).host
@[simp] theorem weirBoundary_msix (s : State) : (weirBoundary s).msix = s.msix := (weirBoundary_waits s).msix
@[simp] theorem weirBoundary_slots (s : State) : (weirBoundary s).slots = s.slots := (weirBoundary_waits s).slots
@[simp] theorem weirBoundary_sluices (s : State) : (weirBoundary s).sluices = s.sluices := (weirBoundary_waits s).sluices
@[simp] theorem weirBoundary_ddr (s : State) : (weirBoundary s).ddr = s.ddr := (weirBoundary_waits s).ddr
@[simp] theorem weirBoundary_selfRefresh (s : State) : (weirBoundary s).selfRefresh = s.selfRefresh := (weirBoundary_waits s).selfRefresh
@[simp] theorem weirBoundary_cores (s : State) : (weirBoundary s).cores = s.cores := (weirBoundary_waits s).cores
@[simp] theorem weirBoundary_net (s : State) : (weirBoundary s).net = s.net := (weirBoundary_waits s).net
@[simp] theorem weirBoundary_channels (s : State) : (weirBoundary s).channels = s.channels := (weirBoundary_waits s).channels
@[simp] theorem weirBoundary_qps (s : State) : (weirBoundary s).qps = s.qps := (weirBoundary_waits s).qps
@[simp] theorem weirBoundary_dir (s : State) : (weirBoundary s).dir = s.dir := (weirBoundary_waits s).dir
@[simp] theorem weirBoundary_lock (s : State) : (weirBoundary s).lock = s.lock := (weirBoundary_waits s).lock
@[simp] theorem weirBoundary_pump (s : State) : (weirBoundary s).pump = s.pump := (weirBoundary_waits s).pump
@[simp] theorem weirBoundary_power (s : State) : (weirBoundary s).power = s.power := (weirBoundary_waits s).power
@[simp] theorem weirBoundary_tele (s : State) : (weirBoundary s).tele = s.tele := (weirBoundary_waits s).tele
@[simp] theorem weirBoundary_err (s : State) : (weirBoundary s).err = s.err := (weirBoundary_waits s).err
@[simp] theorem weirBoundary_sec (s : State) : (weirBoundary s).sec = s.sec := (weirBoundary_waits s).sec
@[simp] theorem weirBoundary_warden (s : State) : (weirBoundary s).warden = s.warden := (weirBoundary_waits s).warden
@[simp] theorem weirBoundary_rcd (s : State) : (weirBoundary s).rcd = s.rcd := (weirBoundary_waits s).rcd
@[simp] theorem weirBoundary_stalls (s : State) : (weirBoundary s).stalls = s.stalls := (weirBoundary_waits s).stalls
@[simp] theorem weirBoundary_pci (s : State) : (weirBoundary s).pci = s.pci := (weirBoundary_waits s).pci
@[simp] theorem weirBoundary_pins (s : State) : (weirBoundary s).pins = s.pins := (weirBoundary_waits s).pins
@[simp] theorem weirBoundary_free (s : State) : (weirBoundary s).free = s.free := (weirBoundary_waits s).free
@[simp] theorem weirBoundary_pending (s : State) : (weirBoundary s).pending = s.pending := (weirBoundary_waits s).pending
@[simp] theorem ddrTake_dev (s : State) (k : DdrClass) (u : Bool) (a n : Nat) : (ddrTake s k u a n).dev = s.dev :=
  (ddrTake_waits s k u a n).dev
@[simp] theorem ddrTake_inlets (s : State) (k : DdrClass) (u : Bool) (a n : Nat) : (ddrTake s k u a n).inlets = s.inlets :=
  (ddrTake_waits s k u a n).inlets
@[simp] theorem ddrTake_outfalls (s : State) (k : DdrClass) (u : Bool) (a n : Nat) : (ddrTake s k u a n).outfalls = s.outfalls :=
  (ddrTake_waits s k u a n).outfalls
@[simp] theorem ddrTake_irq (s : State) (k : DdrClass) (u : Bool) (a n : Nat) : (ddrTake s k u a n).irq = s.irq :=
  (ddrTake_waits s k u a n).irq
@[simp] theorem ddrTake_ap (s : State) (k : DdrClass) (u : Bool) (a n : Nat) : (ddrTake s k u a n).ap = s.ap :=
  (ddrTake_waits s k u a n).ap
@[simp] theorem ddrTake_events (s : State) (k : DdrClass) (u : Bool) (a n : Nat) : (ddrTake s k u a n).events = s.events :=
  (ddrTake_waits s k u a n).events
@[simp] theorem ddrTake_mem (s : State) (k : DdrClass) (u : Bool) (a n : Nat) : (ddrTake s k u a n).mem = s.mem :=
  (ddrTake_waits s k u a n).mem
@[simp] theorem ddrTake_host (s : State) (k : DdrClass) (u : Bool) (a n : Nat) : (ddrTake s k u a n).host = s.host :=
  (ddrTake_waits s k u a n).host
@[simp] theorem ddrTake_msix (s : State) (k : DdrClass) (u : Bool) (a n : Nat) : (ddrTake s k u a n).msix = s.msix :=
  (ddrTake_waits s k u a n).msix
@[simp] theorem ddrTake_slots (s : State) (k : DdrClass) (u : Bool) (a n : Nat) : (ddrTake s k u a n).slots = s.slots :=
  (ddrTake_waits s k u a n).slots
@[simp] theorem ddrTake_sluices (s : State) (k : DdrClass) (u : Bool) (a n : Nat) : (ddrTake s k u a n).sluices = s.sluices :=
  (ddrTake_waits s k u a n).sluices
@[simp] theorem ddrTake_ddr (s : State) (k : DdrClass) (u : Bool) (a n : Nat) : (ddrTake s k u a n).ddr = s.ddr :=
  (ddrTake_waits s k u a n).ddr
@[simp] theorem ddrTake_selfRefresh (s : State) (k : DdrClass) (u : Bool) (a n : Nat) : (ddrTake s k u a n).selfRefresh = s.selfRefresh :=
  (ddrTake_waits s k u a n).selfRefresh
@[simp] theorem ddrTake_cores (s : State) (k : DdrClass) (u : Bool) (a n : Nat) : (ddrTake s k u a n).cores = s.cores :=
  (ddrTake_waits s k u a n).cores
@[simp] theorem ddrTake_net (s : State) (k : DdrClass) (u : Bool) (a n : Nat) : (ddrTake s k u a n).net = s.net :=
  (ddrTake_waits s k u a n).net
@[simp] theorem ddrTake_channels (s : State) (k : DdrClass) (u : Bool) (a n : Nat) : (ddrTake s k u a n).channels = s.channels :=
  (ddrTake_waits s k u a n).channels
@[simp] theorem ddrTake_qps (s : State) (k : DdrClass) (u : Bool) (a n : Nat) : (ddrTake s k u a n).qps = s.qps :=
  (ddrTake_waits s k u a n).qps
@[simp] theorem ddrTake_dir (s : State) (k : DdrClass) (u : Bool) (a n : Nat) : (ddrTake s k u a n).dir = s.dir :=
  (ddrTake_waits s k u a n).dir
@[simp] theorem ddrTake_lock (s : State) (k : DdrClass) (u : Bool) (a n : Nat) : (ddrTake s k u a n).lock = s.lock :=
  (ddrTake_waits s k u a n).lock
@[simp] theorem ddrTake_pump (s : State) (k : DdrClass) (u : Bool) (a n : Nat) : (ddrTake s k u a n).pump = s.pump :=
  (ddrTake_waits s k u a n).pump
@[simp] theorem ddrTake_power (s : State) (k : DdrClass) (u : Bool) (a n : Nat) : (ddrTake s k u a n).power = s.power :=
  (ddrTake_waits s k u a n).power
@[simp] theorem ddrTake_tele (s : State) (k : DdrClass) (u : Bool) (a n : Nat) : (ddrTake s k u a n).tele = s.tele :=
  (ddrTake_waits s k u a n).tele
@[simp] theorem ddrTake_err (s : State) (k : DdrClass) (u : Bool) (a n : Nat) : (ddrTake s k u a n).err = s.err :=
  (ddrTake_waits s k u a n).err
@[simp] theorem ddrTake_sec (s : State) (k : DdrClass) (u : Bool) (a n : Nat) : (ddrTake s k u a n).sec = s.sec :=
  (ddrTake_waits s k u a n).sec
@[simp] theorem ddrTake_warden (s : State) (k : DdrClass) (u : Bool) (a n : Nat) : (ddrTake s k u a n).warden = s.warden :=
  (ddrTake_waits s k u a n).warden
@[simp] theorem ddrTake_rcd (s : State) (k : DdrClass) (u : Bool) (a n : Nat) : (ddrTake s k u a n).rcd = s.rcd :=
  (ddrTake_waits s k u a n).rcd
@[simp] theorem ddrTake_stalls (s : State) (k : DdrClass) (u : Bool) (a n : Nat) : (ddrTake s k u a n).stalls = s.stalls :=
  (ddrTake_waits s k u a n).stalls
@[simp] theorem ddrTake_pci (s : State) (k : DdrClass) (u : Bool) (a n : Nat) : (ddrTake s k u a n).pci = s.pci :=
  (ddrTake_waits s k u a n).pci
@[simp] theorem ddrTake_pins (s : State) (k : DdrClass) (u : Bool) (a n : Nat) : (ddrTake s k u a n).pins = s.pins :=
  (ddrTake_waits s k u a n).pins
@[simp] theorem ddrTake_free (s : State) (k : DdrClass) (u : Bool) (a n : Nat) : (ddrTake s k u a n).free = s.free :=
  (ddrTake_waits s k u a n).free
@[simp] theorem ddrTake_pending (s : State) (k : DdrClass) (u : Bool) (a n : Nat) : (ddrTake s k u a n).pending = s.pending :=
  (ddrTake_waits s k u a n).pending
@[simp] theorem takeReads_dev (s : State) (u : Bool) (l : List (Nat × Nat)) : (takeReads s u l).dev = s.dev :=
  (takeReads_waits s u l).dev
@[simp] theorem takeReads_inlets (s : State) (u : Bool) (l : List (Nat × Nat)) : (takeReads s u l).inlets = s.inlets :=
  (takeReads_waits s u l).inlets
@[simp] theorem takeReads_outfalls (s : State) (u : Bool) (l : List (Nat × Nat)) : (takeReads s u l).outfalls = s.outfalls :=
  (takeReads_waits s u l).outfalls
@[simp] theorem takeReads_irq (s : State) (u : Bool) (l : List (Nat × Nat)) : (takeReads s u l).irq = s.irq :=
  (takeReads_waits s u l).irq
@[simp] theorem takeReads_ap (s : State) (u : Bool) (l : List (Nat × Nat)) : (takeReads s u l).ap = s.ap :=
  (takeReads_waits s u l).ap
@[simp] theorem takeReads_events (s : State) (u : Bool) (l : List (Nat × Nat)) : (takeReads s u l).events = s.events :=
  (takeReads_waits s u l).events
@[simp] theorem takeReads_mem (s : State) (u : Bool) (l : List (Nat × Nat)) : (takeReads s u l).mem = s.mem :=
  (takeReads_waits s u l).mem
@[simp] theorem takeReads_host (s : State) (u : Bool) (l : List (Nat × Nat)) : (takeReads s u l).host = s.host :=
  (takeReads_waits s u l).host
@[simp] theorem takeReads_msix (s : State) (u : Bool) (l : List (Nat × Nat)) : (takeReads s u l).msix = s.msix :=
  (takeReads_waits s u l).msix
@[simp] theorem takeReads_slots (s : State) (u : Bool) (l : List (Nat × Nat)) : (takeReads s u l).slots = s.slots :=
  (takeReads_waits s u l).slots
@[simp] theorem takeReads_sluices (s : State) (u : Bool) (l : List (Nat × Nat)) : (takeReads s u l).sluices = s.sluices :=
  (takeReads_waits s u l).sluices
@[simp] theorem takeReads_ddr (s : State) (u : Bool) (l : List (Nat × Nat)) : (takeReads s u l).ddr = s.ddr :=
  (takeReads_waits s u l).ddr
@[simp] theorem takeReads_selfRefresh (s : State) (u : Bool) (l : List (Nat × Nat)) : (takeReads s u l).selfRefresh = s.selfRefresh :=
  (takeReads_waits s u l).selfRefresh
@[simp] theorem takeReads_cores (s : State) (u : Bool) (l : List (Nat × Nat)) : (takeReads s u l).cores = s.cores :=
  (takeReads_waits s u l).cores
@[simp] theorem takeReads_net (s : State) (u : Bool) (l : List (Nat × Nat)) : (takeReads s u l).net = s.net :=
  (takeReads_waits s u l).net
@[simp] theorem takeReads_channels (s : State) (u : Bool) (l : List (Nat × Nat)) : (takeReads s u l).channels = s.channels :=
  (takeReads_waits s u l).channels
@[simp] theorem takeReads_qps (s : State) (u : Bool) (l : List (Nat × Nat)) : (takeReads s u l).qps = s.qps :=
  (takeReads_waits s u l).qps
@[simp] theorem takeReads_dir (s : State) (u : Bool) (l : List (Nat × Nat)) : (takeReads s u l).dir = s.dir :=
  (takeReads_waits s u l).dir
@[simp] theorem takeReads_lock (s : State) (u : Bool) (l : List (Nat × Nat)) : (takeReads s u l).lock = s.lock :=
  (takeReads_waits s u l).lock
@[simp] theorem takeReads_pump (s : State) (u : Bool) (l : List (Nat × Nat)) : (takeReads s u l).pump = s.pump :=
  (takeReads_waits s u l).pump
@[simp] theorem takeReads_power (s : State) (u : Bool) (l : List (Nat × Nat)) : (takeReads s u l).power = s.power :=
  (takeReads_waits s u l).power
@[simp] theorem takeReads_tele (s : State) (u : Bool) (l : List (Nat × Nat)) : (takeReads s u l).tele = s.tele :=
  (takeReads_waits s u l).tele
@[simp] theorem takeReads_err (s : State) (u : Bool) (l : List (Nat × Nat)) : (takeReads s u l).err = s.err :=
  (takeReads_waits s u l).err
@[simp] theorem takeReads_sec (s : State) (u : Bool) (l : List (Nat × Nat)) : (takeReads s u l).sec = s.sec :=
  (takeReads_waits s u l).sec
@[simp] theorem takeReads_warden (s : State) (u : Bool) (l : List (Nat × Nat)) : (takeReads s u l).warden = s.warden :=
  (takeReads_waits s u l).warden
@[simp] theorem takeReads_rcd (s : State) (u : Bool) (l : List (Nat × Nat)) : (takeReads s u l).rcd = s.rcd :=
  (takeReads_waits s u l).rcd
@[simp] theorem takeReads_stalls (s : State) (u : Bool) (l : List (Nat × Nat)) : (takeReads s u l).stalls = s.stalls :=
  (takeReads_waits s u l).stalls
@[simp] theorem takeReads_pci (s : State) (u : Bool) (l : List (Nat × Nat)) : (takeReads s u l).pci = s.pci :=
  (takeReads_waits s u l).pci
@[simp] theorem takeReads_pins (s : State) (u : Bool) (l : List (Nat × Nat)) : (takeReads s u l).pins = s.pins :=
  (takeReads_waits s u l).pins
@[simp] theorem takeReads_free (s : State) (u : Bool) (l : List (Nat × Nat)) : (takeReads s u l).free = s.free :=
  (takeReads_waits s u l).free
@[simp] theorem takeReads_pending (s : State) (u : Bool) (l : List (Nat × Nat)) : (takeReads s u l).pending = s.pending :=
  (takeReads_waits s u l).pending

/-- What the reads of memory depend on. -/
theorem readByte_congr {s t : State} (hm : t.mem = s.mem) (hf : t.free = s.free) (hc : t.cores = s.cores) (a : Nat) :
    readByte t a = readByte s a := by
  simp [readByte, accByteOf, getCore, hm, hf, hc]
theorem readMem_congr {s t : State} (hm : t.mem = s.mem) (hf : t.free = s.free) (hc : t.cores = s.cores) (a n : Nat) :
    readMem t a n = readMem s a n := by
  simp [readMem, readByte_congr hm hf hc]
theorem readLe_congr {s t : State} (hm : t.mem = s.mem) (hf : t.free = s.free) (hc : t.cores = s.cores) (a n : Nat) :
    readLe t a n = readLe s a n := by
  simp [readLe, readMem_congr hm hf hc]
theorem badAt_congr {s t : State} (hm : t.mem = s.mem) (a n : Nat) : badAt t a n = badAt s a n := by simp [badAt, hm]
theorem rangeBad_congr {s t : State} (hm : t.mem = s.mem) (a n : Nat) : rangeBad t a n = rangeBad s a n := by
  simp [rangeBad, hm]

@[simp] theorem readMem_dispatchCmd (s : State) (c : Cmd) (a n : Nat) : readMem (dispatchCmd s c) a n = readMem s a n :=
  readMem_congr (by simp) (by simp) (by simp) a n
@[simp] theorem readLe_dispatchCmd (s : State) (c : Cmd) (a n : Nat) : readLe (dispatchCmd s c) a n = readLe s a n :=
  readLe_congr (by simp) (by simp) (by simp) a n
@[simp] theorem badAt_dispatchCmd (s : State) (c : Cmd) (a n : Nat) : badAt (dispatchCmd s c) a n = badAt s a n :=
  badAt_congr (by simp) a n
@[simp] theorem coresMissing_dispatchCmd (s : State) (c : Cmd) (m : Nat) : coresMissing (dispatchCmd s c) m = coresMissing s m := by
  simp [coresMissing, coreMask, coreIn]
@[simp] theorem readMem_ddrTake (s : State) (k : DdrClass) (u : Bool) (a n : Nat) (x m : Nat) : readMem (ddrTake s k u a n) x m = readMem s x m :=
  readMem_congr (by simp) (by simp) (by simp) x m
@[simp] theorem readByte_ddrTake (s : State) (k : DdrClass) (u : Bool) (a n : Nat) (x : Nat) : readByte (ddrTake s k u a n) x = readByte s x :=
  readByte_congr (by simp) (by simp) (by simp) x
@[simp] theorem rangeBad_ddrTake (s : State) (k : DdrClass) (u : Bool) (a n : Nat) (x m : Nat) : rangeBad (ddrTake s k u a n) x m = rangeBad s x m :=
  rangeBad_congr (by simp) x m
@[simp] theorem badAt_ddrTake (s : State) (k : DdrClass) (u : Bool) (a n : Nat) (x m : Nat) : badAt (ddrTake s k u a n) x m = badAt s x m :=
  badAt_congr (by simp) x m
@[simp] theorem readMem_takeReads (s : State) (u : Bool) (l : List (Nat × Nat)) (x m : Nat) : readMem (takeReads s u l) x m = readMem s x m :=
  readMem_congr (by simp) (by simp) (by simp) x m
@[simp] theorem readByte_takeReads (s : State) (u : Bool) (l : List (Nat × Nat)) (x : Nat) : readByte (takeReads s u l) x = readByte s x :=
  readByte_congr (by simp) (by simp) (by simp) x
@[simp] theorem rangeBad_takeReads (s : State) (u : Bool) (l : List (Nat × Nat)) (x m : Nat) : rangeBad (takeReads s u l) x m = rangeBad s x m :=
  rangeBad_congr (by simp) x m
@[simp] theorem badAt_takeReads (s : State) (u : Bool) (l : List (Nat × Nat)) (x m : Nat) : badAt (takeReads s u l) x m = badAt s x m :=
  badAt_congr (by simp) x m

@[simp] theorem noteRerun_dev (s : State) (id : CmdId) (t a : Nat) : (noteRerun s id t a).dev = s.dev := by
  unfold noteRerun rerunAt countRerun; split; rfl; dsimp only; split <;> simp [logFault]
@[simp] theorem noteRerun_inlets (s : State) (id : CmdId) (t a : Nat) : (noteRerun s id t a).inlets = s.inlets := by
  unfold noteRerun rerunAt countRerun; split; rfl; dsimp only; split <;> simp [logFault]
@[simp] theorem noteRerun_outfalls (s : State) (id : CmdId) (t a : Nat) : (noteRerun s id t a).outfalls = s.outfalls := by
  unfold noteRerun rerunAt countRerun; split; rfl; dsimp only; split <;> simp [logFault]
@[simp] theorem noteRerun_ap (s : State) (id : CmdId) (t a : Nat) : (noteRerun s id t a).ap = s.ap := by
  unfold noteRerun rerunAt countRerun; split; rfl; dsimp only; split <;> simp [logFault]
@[simp] theorem noteRerun_clk (s : State) (id : CmdId) (t a : Nat) : (noteRerun s id t a).clk = s.clk := by
  unfold noteRerun rerunAt countRerun; split; rfl; dsimp only; split <;> simp [logFault]
@[simp] theorem noteRerun_events (s : State) (id : CmdId) (t a : Nat) : (noteRerun s id t a).events = s.events := by
  unfold noteRerun rerunAt countRerun; split; rfl; dsimp only; split <;> simp [logFault]
@[simp] theorem noteRerun_mem (s : State) (id : CmdId) (t a : Nat) : (noteRerun s id t a).mem = s.mem := by
  unfold noteRerun rerunAt countRerun; split; rfl; dsimp only; split <;> simp [logFault]
@[simp] theorem noteRerun_host (s : State) (id : CmdId) (t a : Nat) : (noteRerun s id t a).host = s.host := by
  unfold noteRerun rerunAt countRerun; split; rfl; dsimp only; split <;> simp [logFault]
@[simp] theorem noteRerun_wire (s : State) (id : CmdId) (t a : Nat) : (noteRerun s id t a).wire = s.wire := by
  unfold noteRerun rerunAt countRerun; split; rfl; dsimp only; split <;> simp [logFault]
@[simp] theorem noteRerun_slots (s : State) (id : CmdId) (t a : Nat) : (noteRerun s id t a).slots = s.slots := by
  unfold noteRerun rerunAt countRerun; split; rfl; dsimp only; split <;> simp [logFault]
@[simp] theorem noteRerun_sluices (s : State) (id : CmdId) (t a : Nat) : (noteRerun s id t a).sluices = s.sluices := by
  unfold noteRerun rerunAt countRerun; split; rfl; dsimp only; split <;> simp [logFault]
@[simp] theorem noteRerun_weir (s : State) (id : CmdId) (t a : Nat) : (noteRerun s id t a).weir = s.weir := by
  unfold noteRerun rerunAt countRerun; split; rfl; dsimp only; split <;> simp [logFault]
@[simp] theorem noteRerun_ddr (s : State) (id : CmdId) (t a : Nat) : (noteRerun s id t a).ddr = s.ddr := by
  unfold noteRerun rerunAt countRerun; split; rfl; dsimp only; split <;> simp [logFault]
@[simp] theorem noteRerun_selfRefresh (s : State) (id : CmdId) (t a : Nat) : (noteRerun s id t a).selfRefresh = s.selfRefresh := by
  unfold noteRerun rerunAt countRerun; split; rfl; dsimp only; split <;> simp [logFault]
@[simp] theorem noteRerun_ports (s : State) (id : CmdId) (t a : Nat) : (noteRerun s id t a).ports = s.ports := by
  unfold noteRerun rerunAt countRerun; split; rfl; dsimp only; split <;> simp [logFault]
@[simp] theorem noteRerun_net (s : State) (id : CmdId) (t a : Nat) : (noteRerun s id t a).net = s.net := by
  unfold noteRerun rerunAt countRerun; split; rfl; dsimp only; split <;> simp [logFault]
@[simp] theorem noteRerun_channels (s : State) (id : CmdId) (t a : Nat) : (noteRerun s id t a).channels = s.channels := by
  unfold noteRerun rerunAt countRerun; split; rfl; dsimp only; split <;> simp [logFault]
@[simp] theorem noteRerun_qps (s : State) (id : CmdId) (t a : Nat) : (noteRerun s id t a).qps = s.qps := by
  unfold noteRerun rerunAt countRerun; split; rfl; dsimp only; split <;> simp [logFault]
@[simp] theorem noteRerun_dir (s : State) (id : CmdId) (t a : Nat) : (noteRerun s id t a).dir = s.dir := by
  unfold noteRerun rerunAt countRerun; split; rfl; dsimp only; split <;> simp [logFault]
@[simp] theorem noteRerun_tide (s : State) (id : CmdId) (t a : Nat) : (noteRerun s id t a).tide = s.tide := by
  unfold noteRerun rerunAt countRerun; split; rfl; dsimp only; split <;> simp [logFault]
@[simp] theorem noteRerun_lock (s : State) (id : CmdId) (t a : Nat) : (noteRerun s id t a).lock = s.lock := by
  unfold noteRerun rerunAt countRerun; split; rfl; dsimp only; split <;> simp [logFault]
@[simp] theorem noteRerun_pump (s : State) (id : CmdId) (t a : Nat) : (noteRerun s id t a).pump = s.pump := by
  unfold noteRerun rerunAt countRerun; split; rfl; dsimp only; split <;> simp [logFault]
@[simp] theorem noteRerun_power (s : State) (id : CmdId) (t a : Nat) : (noteRerun s id t a).power = s.power := by
  unfold noteRerun rerunAt countRerun; split; rfl; dsimp only; split <;> simp [logFault]
@[simp] theorem noteRerun_tele (s : State) (id : CmdId) (t a : Nat) : (noteRerun s id t a).tele = s.tele := by
  unfold noteRerun rerunAt countRerun; split; rfl; dsimp only; split <;> simp [logFault]
@[simp] theorem noteRerun_sec (s : State) (id : CmdId) (t a : Nat) : (noteRerun s id t a).sec = s.sec := by
  unfold noteRerun rerunAt countRerun; split; rfl; dsimp only; split <;> simp [logFault]
@[simp] theorem noteRerun_warden (s : State) (id : CmdId) (t a : Nat) : (noteRerun s id t a).warden = s.warden := by
  unfold noteRerun rerunAt countRerun; split; rfl; dsimp only; split <;> simp [logFault]
@[simp] theorem noteRerun_rcd (s : State) (id : CmdId) (t a : Nat) : (noteRerun s id t a).rcd = s.rcd := by
  unfold noteRerun rerunAt countRerun; split; rfl; dsimp only; split <;> simp [logFault]
@[simp] theorem noteRerun_stalls (s : State) (id : CmdId) (t a : Nat) : (noteRerun s id t a).stalls = s.stalls := by
  unfold noteRerun rerunAt countRerun; split; rfl; dsimp only; split <;> simp [logFault]
@[simp] theorem noteRerun_pci (s : State) (id : CmdId) (t a : Nat) : (noteRerun s id t a).pci = s.pci := by
  unfold noteRerun rerunAt countRerun; split; rfl; dsimp only; split <;> simp [logFault]
@[simp] theorem noteRerun_pins (s : State) (id : CmdId) (t a : Nat) : (noteRerun s id t a).pins = s.pins := by
  unfold noteRerun rerunAt countRerun; split; rfl; dsimp only; split <;> simp [logFault]
@[simp] theorem noteRerun_free (s : State) (id : CmdId) (t a : Nat) : (noteRerun s id t a).free = s.free := by
  unfold noteRerun rerunAt countRerun; split; rfl; dsimp only; split <;> simp [logFault]
@[simp] theorem noteRerun_pending (s : State) (id : CmdId) (t a : Nat) : (noteRerun s id t a).pending = s.pending := by
  unfold noteRerun rerunAt countRerun; split; rfl; dsimp only; split <;> simp [logFault]
/-- A re-run leaves what an accumulator view reads as. -/
@[simp] theorem accByteOf_noteRerun (s : State) (id : CmdId) (t a x : Nat) : accByteOf (noteRerun s id t a) x = accByteOf s x := by
  have h : ∀ j, (getCore (noteRerun s id t a) j).threads = (getCore s j).threads ∧
      (getCore (noteRerun s id t a) j).accView = (getCore s j).accView ∧
      (getCore (noteRerun s id t a) j).kept = (getCore s j).kept := by
    intro j
    unfold noteRerun rerunAt countRerun
    split
    · exact ⟨rfl, rfl, rfl⟩
    · dsimp only
      split
      · simp only [getCore, putCore, logFault, tabGet_tabSet]
        split <;> simp_all
      · simp [getCore, logFault]
  simp [accByteOf, keptWord, h]
@[simp] theorem readByte_noteRerun (s : State) (id : CmdId) (t a x : Nat) : readByte (noteRerun s id t a) x = readByte s x := by
  simp [readByte]
/-- The commands in flight are the same ones after a re-run. -/
@[simp] theorem noteRerun_ids (s : State) (id : CmdId) (t a : Nat) : (noteRerun s id t a).cmds.map (·.id) = s.cmds.map (·.id) := by
  unfold noteRerun rerunAt countRerun
  split
  · rfl
  · dsimp only
    split <;> simp [logFault, modCmd, Function.comp_def] <;> (intros; split <;> rfl)

theorem rerunAll_eq {α : Type} (f : State → α) (hf : ∀ s id t a, f (noteRerun s id t a) = f s) (s : State) (id : CmdId)
    (l : List (Nat × Nat)) : f (l.foldl (fun s h => noteRerun s id (otherTile 0 h.1) h.2) s) = f s := by
  induction l generalizing s with
  | nil => rfl
  | cons h l ih => rw [List.foldl_cons, ih, hf]
@[simp] theorem afterReads_dev (s : State) (c : Cmd) (l : List (Nat × Nat × Nat)) : (afterReads s c l).dev = s.dev := by
  unfold afterReads; rw [takeReads_dev]; exact rerunAll_eq (·.dev) (by simp) _ _ _
@[simp] theorem afterReads_inlets (s : State) (c : Cmd) (l : List (Nat × Nat × Nat)) : (afterReads s c l).inlets = s.inlets := by
  unfold afterReads; rw [takeReads_inlets]; exact rerunAll_eq (·.inlets) (by simp) _ _ _
@[simp] theorem afterReads_outfalls (s : State) (c : Cmd) (l : List (Nat × Nat × Nat)) : (afterReads s c l).outfalls = s.outfalls := by
  unfold afterReads; rw [takeReads_outfalls]; exact rerunAll_eq (·.outfalls) (by simp) _ _ _
@[simp] theorem afterReads_ap (s : State) (c : Cmd) (l : List (Nat × Nat × Nat)) : (afterReads s c l).ap = s.ap := by
  unfold afterReads; rw [takeReads_ap]; exact rerunAll_eq (·.ap) (by simp) _ _ _
@[simp] theorem afterReads_events (s : State) (c : Cmd) (l : List (Nat × Nat × Nat)) : (afterReads s c l).events = s.events := by
  unfold afterReads; rw [takeReads_events]; exact rerunAll_eq (·.events) (by simp) _ _ _
@[simp] theorem afterReads_mem (s : State) (c : Cmd) (l : List (Nat × Nat × Nat)) : (afterReads s c l).mem = s.mem := by
  unfold afterReads; rw [takeReads_mem]; exact rerunAll_eq (·.mem) (by simp) _ _ _
@[simp] theorem afterReads_host (s : State) (c : Cmd) (l : List (Nat × Nat × Nat)) : (afterReads s c l).host = s.host := by
  unfold afterReads; rw [takeReads_host]; exact rerunAll_eq (·.host) (by simp) _ _ _
@[simp] theorem afterReads_slots (s : State) (c : Cmd) (l : List (Nat × Nat × Nat)) : (afterReads s c l).slots = s.slots := by
  unfold afterReads; rw [takeReads_slots]; exact rerunAll_eq (·.slots) (by simp) _ _ _
@[simp] theorem afterReads_sluices (s : State) (c : Cmd) (l : List (Nat × Nat × Nat)) : (afterReads s c l).sluices = s.sluices := by
  unfold afterReads; rw [takeReads_sluices]; exact rerunAll_eq (·.sluices) (by simp) _ _ _
@[simp] theorem afterReads_ddr (s : State) (c : Cmd) (l : List (Nat × Nat × Nat)) : (afterReads s c l).ddr = s.ddr := by
  unfold afterReads; rw [takeReads_ddr]; exact rerunAll_eq (·.ddr) (by simp) _ _ _
@[simp] theorem afterReads_selfRefresh (s : State) (c : Cmd) (l : List (Nat × Nat × Nat)) : (afterReads s c l).selfRefresh = s.selfRefresh := by
  unfold afterReads; rw [takeReads_selfRefresh]; exact rerunAll_eq (·.selfRefresh) (by simp) _ _ _
@[simp] theorem afterReads_net (s : State) (c : Cmd) (l : List (Nat × Nat × Nat)) : (afterReads s c l).net = s.net := by
  unfold afterReads; rw [takeReads_net]; exact rerunAll_eq (·.net) (by simp) _ _ _
@[simp] theorem afterReads_channels (s : State) (c : Cmd) (l : List (Nat × Nat × Nat)) : (afterReads s c l).channels = s.channels := by
  unfold afterReads; rw [takeReads_channels]; exact rerunAll_eq (·.channels) (by simp) _ _ _
@[simp] theorem afterReads_qps (s : State) (c : Cmd) (l : List (Nat × Nat × Nat)) : (afterReads s c l).qps = s.qps := by
  unfold afterReads; rw [takeReads_qps]; exact rerunAll_eq (·.qps) (by simp) _ _ _
@[simp] theorem afterReads_dir (s : State) (c : Cmd) (l : List (Nat × Nat × Nat)) : (afterReads s c l).dir = s.dir := by
  unfold afterReads; rw [takeReads_dir]; exact rerunAll_eq (·.dir) (by simp) _ _ _
@[simp] theorem afterReads_lock (s : State) (c : Cmd) (l : List (Nat × Nat × Nat)) : (afterReads s c l).lock = s.lock := by
  unfold afterReads; rw [takeReads_lock]; exact rerunAll_eq (·.lock) (by simp) _ _ _
@[simp] theorem afterReads_pump (s : State) (c : Cmd) (l : List (Nat × Nat × Nat)) : (afterReads s c l).pump = s.pump := by
  unfold afterReads; rw [takeReads_pump]; exact rerunAll_eq (·.pump) (by simp) _ _ _
@[simp] theorem afterReads_power (s : State) (c : Cmd) (l : List (Nat × Nat × Nat)) : (afterReads s c l).power = s.power := by
  unfold afterReads; rw [takeReads_power]; exact rerunAll_eq (·.power) (by simp) _ _ _
@[simp] theorem afterReads_tele (s : State) (c : Cmd) (l : List (Nat × Nat × Nat)) : (afterReads s c l).tele = s.tele := by
  unfold afterReads; rw [takeReads_tele]; exact rerunAll_eq (·.tele) (by simp) _ _ _
@[simp] theorem afterReads_sec (s : State) (c : Cmd) (l : List (Nat × Nat × Nat)) : (afterReads s c l).sec = s.sec := by
  unfold afterReads; rw [takeReads_sec]; exact rerunAll_eq (·.sec) (by simp) _ _ _
@[simp] theorem afterReads_warden (s : State) (c : Cmd) (l : List (Nat × Nat × Nat)) : (afterReads s c l).warden = s.warden := by
  unfold afterReads; rw [takeReads_warden]; exact rerunAll_eq (·.warden) (by simp) _ _ _
@[simp] theorem afterReads_rcd (s : State) (c : Cmd) (l : List (Nat × Nat × Nat)) : (afterReads s c l).rcd = s.rcd := by
  unfold afterReads; rw [takeReads_rcd]; exact rerunAll_eq (·.rcd) (by simp) _ _ _
@[simp] theorem afterReads_stalls (s : State) (c : Cmd) (l : List (Nat × Nat × Nat)) : (afterReads s c l).stalls = s.stalls := by
  unfold afterReads; rw [takeReads_stalls]; exact rerunAll_eq (·.stalls) (by simp) _ _ _
@[simp] theorem afterReads_pci (s : State) (c : Cmd) (l : List (Nat × Nat × Nat)) : (afterReads s c l).pci = s.pci := by
  unfold afterReads; rw [takeReads_pci]; exact rerunAll_eq (·.pci) (by simp) _ _ _
@[simp] theorem afterReads_pins (s : State) (c : Cmd) (l : List (Nat × Nat × Nat)) : (afterReads s c l).pins = s.pins := by
  unfold afterReads; rw [takeReads_pins]; exact rerunAll_eq (·.pins) (by simp) _ _ _
@[simp] theorem afterReads_free (s : State) (c : Cmd) (l : List (Nat × Nat × Nat)) : (afterReads s c l).free = s.free := by
  unfold afterReads; rw [takeReads_free]; exact rerunAll_eq (·.free) (by simp) _ _ _
@[simp] theorem afterReads_pending (s : State) (c : Cmd) (l : List (Nat × Nat × Nat)) : (afterReads s c l).pending = s.pending := by
  unfold afterReads; rw [takeReads_pending]; exact rerunAll_eq (·.pending) (by simp) _ _ _
/-- What the reads of a dispatch leave of memory: all of it. -/
@[simp] theorem readByte_afterReads (s : State) (c : Cmd) (l : List (Nat × Nat × Nat)) (x : Nat) :
    readByte (afterReads s c l) x = readByte s x := by
  unfold afterReads; rw [readByte_takeReads]; exact rerunAll_eq (fun s => readByte s x) (by simp) _ _ _
@[simp] theorem readMem_afterReads (s : State) (c : Cmd) (l : List (Nat × Nat × Nat)) (x n : Nat) :
    readMem (afterReads s c l) x n = readMem s x n := by simp [readMem]
@[simp] theorem readLe_afterReads (s : State) (c : Cmd) (l : List (Nat × Nat × Nat)) (x n : Nat) :
    readLe (afterReads s c l) x n = readLe s x n := by simp [readLe]
/-- Whether reads meet lasting errors depends on memory and on the command's own errors. -/
theorem readsClean_congr {s t : State} {c d : Cmd} (hm : t.mem = s.mem) (hf : d.flaws = c.flaws) (hp : d.params = c.params)
    (ho : d.hdr = c.hdr) (l : List (Nat × Nat × Nat)) : readsClean t d l = readsClean s c l := by
  have h : readStep d = readStep c := by funext a; simp [readStep, hp, ho]
  have h2 : flawsIn d l = flawsIn c l := by simp [flawsIn, hf]
  simp only [readsClean, h, h2, badAt, hm]
@[simp] theorem readsClean_dispatchCmd (s : State) (c : Cmd) (l : List (Nat × Nat × Nat)) :
    readsClean (dispatchCmd s c) (beginCmd s c) l = readsClean s c l := readsClean_congr (by simp) rfl rfl rfl l

end Sys2Proof.Machine
end

