-- ==== Sys2Proof/Laws/Keeps.lean ====
section
/-!
SUPPORT. What no shared operation changes or breaks, said once of each: the queue of commands that wait is left alone,
device memory keeps its canonical form, and no command joins those in flight (each stays, with its number and inlet, or
ends). A fetch alone adds a command.
-/
namespace Sys2Proof.Machine

/-- The number and the inlet of a command in flight. -/
def keyOf (c : Cmd) : CmdId × Nat := (c.id, c.inlet)

/-- `t` follows from `r` with the queue left alone, memory still in canonical form, and no command added in flight. -/
structure Keeps (r t : State) : Prop where
  queue : t.pending = r.pending
  canonical : r.mem.wf = true → t.mem.wf = true
  flight : (t.cmds.map keyOf).Sublist (r.cmds.map keyOf)

/-- An outcome whose next state keeps these. -/
structure KeepsOut (r : State) (o : Out) : Prop where
  next : ∀ t, o = .next t → Keeps r t

/-- A state that there may be keeps these. -/
structure KeepsOpt (r : State) (o : Option State) : Prop where
  some : ∀ t, o = Option.some t → Keeps r t

theorem Keeps.rfl {s : State} : Keeps s s := ⟨Eq.refl _, id, List.Sublist.refl _⟩

theorem Keeps.trans {r s t : State} (h : Keeps r s) (g : Keeps s t) : Keeps r t :=
  ⟨g.1.trans h.1, fun w => g.2 (h.2 w), g.3.trans h.3⟩

/-- A state with the same queue, memory and commands in flight. -/
theorem Keeps.of_eq {r s t : State} (h : Keeps r s) (hp : t.pending = s.pending) (hm : t.mem = s.mem) (hc : t.cmds = s.cmds) :
    Keeps r t := ⟨hp.trans h.1, fun w => hm ▸ h.2 w, hc ▸ h.3⟩

/-- An update of other fields. -/
theorem keeps_mk {r s : State} {a_dev : Dev} {a_inlets : Tab Inlet} {a_outfalls : Tab Outfall} {a_irq : Irq} {a_ap : Aperture} {a_clk : Clock} {a_events : Tab W32} {a_host : Tab Byte} {a_msix : List Nat} {a_wire : List Sent} {a_slots : Tab Slot} {a_stalls : List Stall} {a_sluices : Tab Sluice} {a_weir : Weir} {a_ddr : Tab DdrChannel} {a_selfRefresh : Bool} {a_cores : Tab Core} {a_ports : Tab Port} {a_net : PortsRegs} {a_channels : Tab Channel} {a_qps : Tab Qp} {a_dir : Directory} {a_tide : Tide} {a_lock : Lockstep} {a_pump : Pump} {a_power : Tab CorePower} {a_tele : Telemetry} {a_err : ErrLog} {a_sec : Security} {a_warden : Warden} {a_rcd : Record} {a_pci : PciConfig} {a_pins : Pins} {a_free : Nat}  :
    Keeps r (State.mk a_dev a_inlets a_outfalls a_irq a_ap a_clk a_events s.cmds s.mem a_host a_msix a_wire a_slots a_stalls a_sluices a_weir a_ddr a_selfRefresh a_cores a_ports a_net a_channels a_qps a_dir a_tide a_lock a_pump a_power a_tele a_err a_sec a_warden a_rcd a_pci a_pins a_free s.pending) ↔ Keeps r s :=
  ⟨fun h => ⟨h.1, h.2, h.3⟩, fun h => ⟨h.1, h.2, h.3⟩⟩

/-- An update that changes commands in flight and leaves their numbers and inlets. -/
theorem keeps_map {r s : State} {a_dev : Dev} {a_inlets : Tab Inlet} {a_outfalls : Tab Outfall} {a_irq : Irq} {a_ap : Aperture} {a_clk : Clock} {a_events : Tab W32} {a_host : Tab Byte} {a_msix : List Nat} {a_wire : List Sent} {a_slots : Tab Slot} {a_stalls : List Stall} {a_sluices : Tab Sluice} {a_weir : Weir} {a_ddr : Tab DdrChannel} {a_selfRefresh : Bool} {a_cores : Tab Core} {a_ports : Tab Port} {a_net : PortsRegs} {a_channels : Tab Channel} {a_qps : Tab Qp} {a_dir : Directory} {a_tide : Tide} {a_lock : Lockstep} {a_pump : Pump} {a_power : Tab CorePower} {a_tele : Telemetry} {a_err : ErrLog} {a_sec : Security} {a_warden : Warden} {a_rcd : Record} {a_pci : PciConfig} {a_pins : Pins} {a_free : Nat}
    {f : Cmd → Cmd} (hf : ∀ c, keyOf (f c) = keyOf c) (h : Keeps r s) :
    Keeps r (State.mk a_dev a_inlets a_outfalls a_irq a_ap a_clk a_events (s.cmds.map f) s.mem a_host a_msix a_wire a_slots a_stalls a_sluices a_weir a_ddr a_selfRefresh a_cores a_ports a_net a_channels a_qps a_dir a_tide a_lock a_pump a_power a_tele a_err a_sec a_warden a_rcd a_pci a_pins a_free s.pending) := by
  refine ⟨h.1, h.2, ?_⟩
  show ((s.cmds.map f).map keyOf).Sublist _
  rw [List.map_map, show keyOf ∘ f = keyOf from funext hf]; exact h.3

/-- An update that removes commands in flight. -/
theorem keeps_filter {r s : State} {a_dev : Dev} {a_inlets : Tab Inlet} {a_outfalls : Tab Outfall} {a_irq : Irq} {a_ap : Aperture} {a_clk : Clock} {a_events : Tab W32} {a_host : Tab Byte} {a_msix : List Nat} {a_wire : List Sent} {a_slots : Tab Slot} {a_stalls : List Stall} {a_sluices : Tab Sluice} {a_weir : Weir} {a_ddr : Tab DdrChannel} {a_selfRefresh : Bool} {a_cores : Tab Core} {a_ports : Tab Port} {a_net : PortsRegs} {a_channels : Tab Channel} {a_qps : Tab Qp} {a_dir : Directory} {a_tide : Tide} {a_lock : Lockstep} {a_pump : Pump} {a_power : Tab CorePower} {a_tele : Telemetry} {a_err : ErrLog} {a_sec : Security} {a_warden : Warden} {a_rcd : Record} {a_pci : PciConfig} {a_pins : Pins} {a_free : Nat}
    {f : Cmd → Bool} (h : Keeps r s) :
    Keeps r (State.mk a_dev a_inlets a_outfalls a_irq a_ap a_clk a_events (s.cmds.filter f) s.mem a_host a_msix a_wire a_slots a_stalls a_sluices a_weir a_ddr a_selfRefresh a_cores a_ports a_net a_channels a_qps a_dir a_tide a_lock a_pump a_power a_tele a_err a_sec a_warden a_rcd a_pci a_pins a_free s.pending) :=
  ⟨h.1, h.2, (List.Sublist.map _ List.filter_sublist).trans h.3⟩

/-- An update of memory that keeps its canonical form. -/
theorem keeps_mem {r s : State} {a_dev : Dev} {a_inlets : Tab Inlet} {a_outfalls : Tab Outfall} {a_irq : Irq} {a_ap : Aperture} {a_clk : Clock} {a_events : Tab W32} {a_host : Tab Byte} {a_msix : List Nat} {a_wire : List Sent} {a_slots : Tab Slot} {a_stalls : List Stall} {a_sluices : Tab Sluice} {a_weir : Weir} {a_ddr : Tab DdrChannel} {a_selfRefresh : Bool} {a_cores : Tab Core} {a_ports : Tab Port} {a_net : PortsRegs} {a_channels : Tab Channel} {a_qps : Tab Qp} {a_dir : Directory} {a_tide : Tide} {a_lock : Lockstep} {a_pump : Pump} {a_power : Tab CorePower} {a_tele : Telemetry} {a_err : ErrLog} {a_sec : Security} {a_warden : Warden} {a_rcd : Record} {a_pci : PciConfig} {a_pins : Pins} {a_free : Nat}
    {m : Memory} (hm : s.mem.wf = true → m.wf = true) (h : Keeps r s) :
    Keeps r (State.mk a_dev a_inlets a_outfalls a_irq a_ap a_clk a_events s.cmds m a_host a_msix a_wire a_slots a_stalls a_sluices a_weir a_ddr a_selfRefresh a_cores a_ports a_net a_channels a_qps a_dir a_tide a_lock a_pump a_power a_tele a_err a_sec a_warden a_rcd a_pci a_pins a_free s.pending) := ⟨h.1, fun w => hm (h.2 w), h.3⟩

theorem foldl_keeps {α : Type} {r s : State} {f : State → α → State} {l : List α}
    (hf : ∀ s a, Keeps r s → Keeps r (f s a)) (h : Keeps r s) : Keeps r (l.foldl f s) := by
  induction l generalizing s with
  | nil => exact h
  | cons a l ih => exact ih (hf s a h)

theorem keepsOut_next {r s : State} (h : Keeps r s) : KeepsOut r (.next s) := ⟨fun t e => by cases e; exact h⟩
theorem keepsOut_fault {r : State} {f : Fault} : KeepsOut r (.fault f) := ⟨fun t e => by cases e⟩
theorem keepsOut_refused {r : State} {f : Refusal} : KeepsOut r (.refused f) := ⟨fun t e => by cases e⟩
theorem keepsOpt_some {r s : State} (h : Keeps r s) : KeepsOpt r (some s) := ⟨fun t e => by cases e; exact h⟩
theorem keepsOpt_none {r : State} : KeepsOpt r none := ⟨fun t e => by cases e⟩
theorem keepsOpt_map {α : Type} {r : State} {o : Option α} {f : α → State} (h : ∀ a, Keeps r (f a)) : KeepsOpt r (o.map f) :=
  ⟨fun t e => by cases o with | none => cases e | some a => cases e; exact h a⟩
theorem keepsOpt_bind {α : Type} {r : State} {o : Option α} {f : α → Option State} (h : ∀ a, KeepsOpt r (f a)) :
    KeepsOpt r (o.bind f) := ⟨fun t e => by cases o with | none => cases e | some a => exact (h a).some t e⟩

theorem keepsOpt_findSome {α : Type} {r : State} {l : List α} {f : α → Option State} (h : ∀ a, KeepsOpt r (f a)) :
    KeepsOpt r (l.findSome? f) :=
  ⟨fun t e => by obtain ⟨a, -, ha⟩ := List.exists_of_findSome?_eq_some e; exact (h a).some t ha⟩
theorem keepsOpt_orElse {r : State} {o : Option State} {f : Unit → Option State} (h : KeepsOpt r o) (g : KeepsOpt r (f ())) :
    KeepsOpt r (o.orElse f) := ⟨fun t e => by cases o with | none => exact g.some t e | some a => cases e; exact h.some _ rfl⟩

theorem keepsOut_andThen {r : State} {o : Out} {k : State → Out} (h : KeepsOut r o) (g : ∀ s, Keeps r s → KeepsOut r (k s)) :
    KeepsOut r (andThen o k) := by
  cases o with
  | next s => exact g s (h.next s rfl)
  | fault f => exact ⟨fun t e => by cases e⟩
  | refused f => exact ⟨fun t e => by cases e⟩

/-- What a hand-off, a probe, and a step that may not be there leave keeps these. -/
structure KeepsAcc (r : State) (o : Accept) : Prop where
  taken : ∀ t, o = .taken t → Keeps r t
structure KeepsLook (r : State) (o : LookStep) : Prop where
  ends : ∀ t n w, o = .ends t n w → Keeps r t
  more : ∀ t b, o = .more t b → Keeps r t
structure KeepsPick {α : Type} (r : State) (o : Option (State × α)) : Prop where
  fst : ∀ p, o = some p → Keeps r p.1
structure KeepsPick2 {α : Type} (r : State) (o : Option (α × State)) : Prop where
  snd : ∀ p, o = some p → Keeps r p.2

theorem keepsAcc_taken {r s : State} (h : Keeps r s) : KeepsAcc r (.taken s) := ⟨fun t e => by cases e; exact h⟩
theorem keepsAcc_stall {r : State} : KeepsAcc r .stall := ⟨fun t e => by cases e⟩
theorem keepsLook_ends {r s : State} {n : Nat} {w : Option DirStop} (h : Keeps r s) : KeepsLook r (.ends s n w) :=
  ⟨fun t n w e => (by cases e; exact h), fun t b e => (by cases e)⟩
theorem keepsLook_more {r s : State} {b : List Byte} (h : Keeps r s) : KeepsLook r (.more s b) :=
  ⟨fun t n w e => (by cases e), fun t b e => (by cases e; exact h)⟩
theorem keepsPick_some {α : Type} {r : State} {p : State × α} (h : Keeps r p.1) : KeepsPick r (some p) :=
  ⟨fun t e => by cases e; exact h⟩
theorem keepsPick_none {α : Type} {r : State} : KeepsPick r (none : Option (State × α)) := ⟨fun t e => by cases e⟩
theorem keepsPick_map {α β : Type} {r : State} {o : Option β} {f : β → State × α} (h : ∀ a, Keeps r (f a).1) :
    KeepsPick r (o.map f) := ⟨fun t e => by cases o with | none => cases e | some a => cases e; exact h a⟩
theorem keepsPick2_some {α : Type} {r : State} {p : α × State} (h : Keeps r p.2) : KeepsPick2 r (some p) :=
  ⟨fun t e => by cases e; exact h⟩
theorem keepsPick2_none {α : Type} {r : State} : KeepsPick2 r (none : Option (α × State)) := ⟨fun t e => by cases e⟩
theorem keeps_of_taken {r s : State} {o : Accept} (e : o = .taken s) (h : KeepsAcc r o) : Keeps r s := h.taken s e
theorem keeps_of_ends {r s : State} {o : LookStep} {n : Nat} {w : Option DirStop} (e : o = .ends s n w) (h : KeepsLook r o) :
    Keeps r s := h.ends s n w e
theorem keeps_of_more {r s : State} {o : LookStep} {b : List Byte} (e : o = .more s b) (h : KeepsLook r o) : Keeps r s :=
  h.more s b e
theorem keeps_of_pick {α : Type} {r : State} {p : State × α} {o : Option (State × α)} (e : o = some p) (h : KeepsPick r o) :
    Keeps r p.1 := h.fst p e
theorem keeps_of_pick' {α : Type} {r s : State} {b : α} {o : Option (State × α)} (e : o = some (s, b)) (h : KeepsPick r o) :
    Keeps r s := h.fst _ e
theorem keeps_of_pick2 {α : Type} {r s : State} {b : α} {o : Option (α × State)} (e : o = some (b, s))
    (h : KeepsPick2 r o) : Keeps r s := h.snd _ e
theorem keeps_of_next {r s : State} {o : Out} (e : o = .next s) (h : KeepsOut r o) : Keeps r s := h.next s e

/-- The state in a pair or a third place that was taken apart. -/
theorem keeps_fst {α : Type} {r s : State} {p : State × α} {b : α} (e : p = (s, b)) (h : Keeps r p.1) : Keeps r s := by
  rw [e] at h; exact h
theorem keeps_snd {α : Type} {r s : State} {p : α × State} {b : α} (e : p = (b, s)) (h : Keeps r p.2) : Keeps r s := by
  rw [e] at h; exact h
theorem keeps_of_some {r s : State} {o : Option State} (e : o = some s) (h : KeepsOpt r o) : Keeps r s := h.some s e
theorem keeps_cut {P : Prop} (a : Prop) (h : a) (g : a → P) : P := g h
theorem keeps_getD {r s : State} {o : Option State} (h : KeepsOpt r o) (g : Keeps r s) : Keeps r (o.getD s) := by
  cases o with
  | none => exact g
  | some t => exact h.some t (Eq.refl _)

theorem loseSlot_mem_wf {m : Memory} (z n : Nat) (h : m.wf = true) :
    ({ m with cells := m.cells.filter (fun p => !(inStride 0x1000000000 0x400000 p.1 && slotOf p.1 = z)),
              bad := m.bad.filter (fun a => !(inStride 0x1000000000 0x400000 a && slotOf a = z)),
              lost := tabSet m.lost z n } : Memory).wf = true := by
  rw [Memory.wf_iff] at *
  refine ⟨tabSorted_filter _ h.1, fun p hp => ?_⟩
  obtain ⟨hp, hz⟩ := List.mem_filter.1 hp
  have := h.2 p hp
  have e : unlisted (tabSet m.lost z n) p.1 = unlisted m.lost p.1 := by
    have hne : (tabSet m.lost z n).isEmpty = false := by
      cases hm : m.lost with
      | nil => rfl
      | cons a l => obtain ⟨k, w⟩ := a; simp only [tabSet]; split <;> (try split) <;> rfl
    unfold unlisted
    rw [hne]
    by_cases hs : inStride 0x1000000000 0x400000 p.1 = true
    · have hb : slotOf p.1 ≠ z := by simpa [hs] using hz
      rw [if_neg Bool.false_ne_true, if_pos hs, tabFind?_tabSet_ne _ _ hb]
      by_cases he : m.lost.isEmpty = true
      · rw [if_pos he]
        have : m.lost = [] := by simpa using he
        rw [this]; rfl
      · rw [if_neg he, if_pos hs]
    · rw [if_neg Bool.false_ne_true, if_neg hs]
      by_cases he : m.lost.isEmpty = true
      · rw [if_pos he]
      · rw [if_neg he, if_neg hs]
  show p.2 ≠ unlisted (tabSet m.lost z n) p.1
  rw [e]; exact this

theorem putInlet_keeps {r s : State} (i : Nat) (x : Inlet) (h : Keeps r s) :
    Keeps r (putInlet s i x) := by
  unfold putInlet
  repeat' first
    | with_reducible assumption | (intro (s' : State); with_reducible refine keeps_cut (Keeps r s') ?_ ?_)
    | (intro (h' : Keeps r s'); clear_value s') | (intro x') | lift_lets | simp -zeta only [s']
    | simp -zeta only [keeps_mk]

theorem putOutfall_keeps {r s : State} (i : Nat) (x : Outfall) (h : Keeps r s) :
    Keeps r (putOutfall s i x) := by
  unfold putOutfall
  repeat' first
    | with_reducible assumption | (intro (s' : State); with_reducible refine keeps_cut (Keeps r s') ?_ ?_)
    | (intro (h' : Keeps r s'); clear_value s') | (intro x') | lift_lets | simp -zeta only [s']
    | simp -zeta only [keeps_mk]

theorem putSlot_keeps {r s : State} (k : Nat) (x : Slot) (h : Keeps r s) :
    Keeps r (putSlot s k x) := by
  unfold putSlot
  repeat' first
    | with_reducible assumption | (intro (s' : State); with_reducible refine keeps_cut (Keeps r s') ?_ ?_)
    | (intro (h' : Keeps r s'); clear_value s') | (intro x') | lift_lets | simp -zeta only [s']
    | simp -zeta only [keeps_mk]

theorem putSluice_keeps {r s : State} (n : Nat) (x : Sluice) (h : Keeps r s) :
    Keeps r (putSluice s n x) := by
  unfold putSluice
  repeat' first
    | with_reducible assumption | (intro (s' : State); with_reducible refine keeps_cut (Keeps r s') ?_ ?_)
    | (intro (h' : Keeps r s'); clear_value s') | (intro x') | lift_lets | simp -zeta only [s']
    | simp -zeta only [keeps_mk]

theorem putCore_keeps {r s : State} (c : Nat) (x : Core) (h : Keeps r s) :
    Keeps r (putCore s c x) := by
  unfold putCore
  repeat' first
    | with_reducible assumption | (intro (s' : State); with_reducible refine keeps_cut (Keeps r s') ?_ ?_)
    | (intro (h' : Keeps r s'); clear_value s') | (intro x') | lift_lets | simp -zeta only [s']
    | simp -zeta only [keeps_mk]

theorem putPort_keeps {r s : State} (p : Nat) (x : Port) (h : Keeps r s) :
    Keeps r (putPort s p x) := by
  unfold putPort
  repeat' first
    | with_reducible assumption | (intro (s' : State); with_reducible refine keeps_cut (Keeps r s') ?_ ?_)
    | (intro (h' : Keeps r s'); clear_value s') | (intro x') | lift_lets | simp -zeta only [s']
    | simp -zeta only [keeps_mk]

theorem putChannel_keeps {r s : State} (c : Nat) (x : Channel) (h : Keeps r s) :
    Keeps r (putChannel s c x) := by
  unfold putChannel
  repeat' first
    | with_reducible assumption | (intro (s' : State); with_reducible refine keeps_cut (Keeps r s') ?_ ?_)
    | (intro (h' : Keeps r s'); clear_value s') | (intro x') | lift_lets | simp -zeta only [s']
    | simp -zeta only [keeps_mk]

theorem putQp_keeps {r s : State} (q : Nat) (x : Qp) (h : Keeps r s) :
    Keeps r (putQp s q x) := by
  unfold putQp
  repeat' first
    | with_reducible assumption | (intro (s' : State); with_reducible refine keeps_cut (Keeps r s') ?_ ?_)
    | (intro (h' : Keeps r s'); clear_value s') | (intro x') | lift_lets | simp -zeta only [s']
    | simp -zeta only [keeps_mk]

theorem putPower_keeps {r s : State} (c : Nat) (x : CorePower) (h : Keeps r s) :
    Keeps r (putPower s c x) := by
  unfold putPower
  repeat' first
    | with_reducible assumption | (intro (s' : State); with_reducible refine keeps_cut (Keeps r s') ?_ ?_)
    | (intro (h' : Keeps r s'); clear_value s') | (intro x') | lift_lets | simp -zeta only [s']
    | simp -zeta only [keeps_mk]

theorem putDdr_keeps {r s : State} (ch : Nat) (x : DdrChannel) (h : Keeps r s) :
    Keeps r (putDdr s ch x) := by
  unfold putDdr
  repeat' first
    | with_reducible assumption | (intro (s' : State); with_reducible refine keeps_cut (Keeps r s') ?_ ?_)
    | (intro (h' : Keeps r s'); clear_value s') | (intro x') | lift_lets | simp -zeta only [s']
    | simp -zeta only [keeps_mk]

theorem putWindow_keeps {r s : State} (w : Nat) (x : Window) (h : Keeps r s) :
    Keeps r (putWindow s w x) := by
  unfold putWindow
  repeat' first
    | with_reducible assumption | (intro (s' : State); with_reducible refine keeps_cut (Keeps r s') ?_ ?_)
    | (intro (h' : Keeps r s'); clear_value s') | (intro x') | lift_lets | simp -zeta only [s']
    | simp -zeta only [keeps_mk]

theorem putArray_keeps {r s : State} (c : Nat) (a : Nat) (x : TArray) (h : Keeps r s) :
    Keeps r (putArray s c a x) := by
  unfold putArray
  repeat' first
    | with_reducible assumption | with_reducible apply putCore_keeps
    | (intro (s' : State); with_reducible refine keeps_cut (Keeps r s') ?_ ?_)
    | (intro (h' : Keeps r s'); clear_value s') | (intro x') | lift_lets | simp -zeta only [s']
    | simp -zeta only [keeps_mk] | split

theorem sendVector_keeps {r s : State} (v : Nat) (h : Keeps r s) :
    Keeps r (sendVector s v) := by
  unfold sendVector
  repeat' first
    | with_reducible assumption | (intro (s' : State); with_reducible refine keeps_cut (Keeps r s') ?_ ?_)
    | (intro (h' : Keeps r s'); clear_value s') | (intro x') | lift_lets | simp -zeta only [s']
    | simp -zeta only [keeps_mk] | split

theorem releaseVector_keeps {r s : State} (v : Nat) (h : Keeps r s) :
    Keeps r (releaseVector s v) := by
  unfold releaseVector
  repeat' first
    | with_reducible assumption | (intro (s' : State); with_reducible refine keeps_cut (Keeps r s') ?_ ?_)
    | (intro (h' : Keeps r s'); clear_value s') | (intro x') | lift_lets | simp -zeta only [s']
    | simp -zeta only [keeps_mk] | split

theorem raiseCause_keeps {r s : State} (n : Nat) (h : Keeps r s) :
    Keeps r (raiseCause s n) := by
  unfold raiseCause
  repeat' first
    | with_reducible assumption | with_reducible apply sendVector_keeps
    | (intro (s' : State); with_reducible refine keeps_cut (Keeps r s') ?_ ?_)
    | (intro (h' : Keeps r s'); clear_value s') | (intro x') | lift_lets | simp -zeta only [s']
    | simp -zeta only [keeps_mk] | split

theorem lowerCauses_keeps {r s : State}  (h : Keeps r s) :
    Keeps r (lowerCauses s) := by
  unfold lowerCauses
  repeat' first
    | with_reducible assumption | (intro (s' : State); with_reducible refine keeps_cut (Keeps r s') ?_ ?_)
    | (intro (h' : Keeps r s'); clear_value s') | (intro x') | lift_lets | simp -zeta only [s']
    | simp -zeta only [keeps_mk]

theorem setDevState_keeps {r s : State} (st : DevState) (h : Keeps r s) :
    Keeps r (setDevState s st) := by
  unfold setDevState
  repeat' first
    | with_reducible assumption | with_reducible apply raiseCause_keeps
    | (intro (s' : State); with_reducible refine keeps_cut (Keeps r s') ?_ ?_)
    | (intro (h' : Keeps r s'); clear_value s') | (intro x') | lift_lets | simp -zeta only [s']
    | simp -zeta only [keeps_mk] | split

theorem setInletFlag_keeps {r s : State} (i : Nat) (f : InletFlag) (h : Keeps r s) :
    Keeps r (setInletFlag s i f) := by
  unfold setInletFlag
  repeat' first
    | with_reducible assumption | with_reducible apply putInlet_keeps | with_reducible apply raiseCause_keeps
    | (intro (s' : State); with_reducible refine keeps_cut (Keeps r s') ?_ ?_)
    | (intro (h' : Keeps r s'); clear_value s') | (intro x') | lift_lets | simp -zeta only [s']
    | simp -zeta only [keeps_mk] | split

theorem writeLog_keeps {r s : State} (r' : LogRecord) (h : Keeps r s) :
    Keeps r (writeLog s r') := by
  unfold writeLog
  repeat' first
    | with_reducible assumption | with_reducible apply raiseCause_keeps
    | (intro (s' : State); with_reducible refine keeps_cut (Keeps r s') ?_ ?_)
    | (intro (h' : Keeps r s'); clear_value s') | (intro x') | lift_lets | simp -zeta only [s']
    | simp -zeta only [keeps_mk] | split

theorem logFault_keeps {r s : State} (cls : Nat) (sev : Nat) (unit : Nat) (index : Nat) (c : Option Cmd) (addr : Nat) (detail : Nat) (extra : Nat) (h : Keeps r s) :
    Keeps r (logFault s cls sev unit index c addr detail extra) := by
  unfold logFault
  repeat' first
    | with_reducible assumption | with_reducible apply writeLog_keeps

theorem timingEvent_keeps {r s : State} (r' : TimingRow) (n : Nat) (h : Keeps r s) :
    Keeps r (timingEvent s r' n) := by
  unfold timingEvent
  repeat' first
    | with_reducible assumption | (intro (s' : State); with_reducible refine keeps_cut (Keeps r s') ?_ ?_)
    | (intro (h' : Keeps r s'); clear_value s') | (intro x') | lift_lets | simp -zeta only [s']
    | simp -zeta only [keeps_mk] | split

theorem raiseAlert_keeps {r s : State}  (h : Keeps r s) :
    Keeps r (raiseAlert s) := by
  unfold raiseAlert
  repeat' first
    | with_reducible assumption | (intro (s' : State); with_reducible refine keeps_cut (Keeps r s') ?_ ?_)
    | (intro (h' : Keeps r s'); clear_value s') | (intro x') | lift_lets | simp -zeta only [s']
    | simp -zeta only [keeps_mk]

theorem advance_keeps {r s : State} (n : Nat) (h : Keeps r s) :
    Keeps r (advance s n) := by
  unfold advance
  repeat' first
    | with_reducible assumption | (intro (s' : State); with_reducible refine keeps_cut (Keeps r s') ?_ ?_)
    | (intro (h' : Keeps r s'); clear_value s') | (intro x') | lift_lets | simp -zeta only [s']
    | simp -zeta only [keeps_mk]

theorem advanceTo_keeps {r s : State} (t : Nat) (h : Keeps r s) :
    Keeps r (advanceTo s t) := by
  unfold advanceTo
  repeat' first
    | with_reducible assumption | with_reducible apply advance_keeps

theorem drawFree_keeps {r s : State}  (h : Keeps r s) :
    Keeps r (drawFree s).2 := by
  unfold drawFree
  repeat' first
    | with_reducible assumption | (intro (s' : State); with_reducible refine keeps_cut (Keeps r s') ?_ ?_)
    | (intro (h' : Keeps r s'); clear_value s')
    | (intro (q' : _ × State); with_reducible refine keeps_cut (Keeps r q'.2) ?_ ?_)
    | (intro (h' : Keeps r q'.2); clear_value q') | (intro x') | lift_lets | simp -zeta only [s']
    | simp -zeta only [keeps_mk] | with_reducible refine keeps_snd (by assumption) ?_

theorem latch_keeps {r s : State}  (h : Keeps r s) :
    Keeps r (latch s) := by
  unfold latch
  repeat' first
    | with_reducible assumption | (intro (s' : State); with_reducible refine keeps_cut (Keeps r s') ?_ ?_)
    | (intro (h' : Keeps r s'); clear_value s') | (intro x') | lift_lets | simp -zeta only [s']
    | simp -zeta only [keeps_mk] | (show keyOf _ = keyOf _; rfl) | with_reducible apply keeps_map
    | with_reducible apply keeps_filter

theorem setEvent_keeps {r s : State} (e : Nat) (v : W32) (h : Keeps r s) :
    Keeps r (setEvent s e v) := by
  unfold setEvent
  repeat' first
    | with_reducible assumption | with_reducible apply latch_keeps
    | (intro (s' : State); with_reducible refine keeps_cut (Keeps r s') ?_ ?_)
    | (intro (h' : Keeps r s'); clear_value s') | (intro x') | lift_lets | simp -zeta only [s']
    | simp -zeta only [keeps_mk] | split

theorem addEvent_keeps {r s : State} (e : Nat) (n : Nat) (h : Keeps r s) :
    Keeps r (addEvent s e n) := by
  unfold addEvent
  repeat' first
    | with_reducible assumption | with_reducible apply setEvent_keeps

theorem modCmd_keeps {r s : State} (id : CmdId) (f : Cmd → Cmd) (h : Keeps r s) (hf : ∀ c, keyOf (f c) = keyOf c) :
    Keeps r (modCmd s id f) := by
  unfold modCmd
  refine keeps_map (fun c => ?_) h
  show keyOf (if c.id = id then f c else c) = keyOf c
  split
  · exact hf c
  · rfl

theorem setWork_keeps {r s : State} (id : CmdId) (w : Work) (h : Keeps r s) :
    Keeps r (setWork s id w) := by
  unfold setWork
  repeat' first
    | with_reducible assumption | with_reducible apply modCmd_keeps
    | (intro (s' : State); with_reducible refine keeps_cut (Keeps r s') ?_ ?_)
    | (intro (h' : Keeps r s'); clear_value s') | (intro x') | lift_lets | simp -zeta only [s']
    | simp -zeta only [keeps_mk] | (show keyOf _ = keyOf _; rfl) | with_reducible apply keeps_map
    | with_reducible apply keeps_filter

theorem hostWrite_keeps {r s : State} (a : Nat) (b : List Byte) (h : Keeps r s) :
    Keeps r (hostWrite s a b) := by
  unfold hostWrite
  repeat' first
    | with_reducible assumption | with_reducible refine foldl_keeps (fun s' a' h' => ?_) ?_
    | (intro (s' : State); with_reducible refine keeps_cut (Keeps r s') ?_ ?_)
    | (intro (h' : Keeps r s'); clear_value s') | (intro x') | lift_lets | simp -zeta only [s']
    | simp -zeta only [keeps_mk]

theorem raiseVector_keeps {r s : State} (i : Nat) (h : Keeps r s) :
    Keeps r (raiseVector s i) := by
  unfold raiseVector
  repeat' first
    | with_reducible assumption | with_reducible apply putOutfall_keeps
    | with_reducible apply sendVector_keeps
    | (intro (s' : State); with_reducible refine keeps_cut (Keeps r s') ?_ ?_)
    | (intro (h' : Keeps r s'); clear_value s') | (intro x') | lift_lets | simp -zeta only [s']
    | simp -zeta only [keeps_mk]

theorem writeEntry_keeps {r s : State} (i : Nat) (b : List Byte) (h : Keeps r s) :
    Keeps r (writeEntry s i b) := by
  unfold writeEntry
  repeat' first
    | with_reducible assumption | with_reducible apply putOutfall_keeps | with_reducible apply hostWrite_keeps
    | with_reducible apply raiseVector_keeps
    | (intro (s' : State); with_reducible refine keeps_cut (Keeps r s') ?_ ?_)
    | (intro (h' : Keeps r s'); clear_value s') | (intro x') | lift_lets | simp -zeta only [s']
    | simp -zeta only [keeps_mk] | split

theorem closeDrained_keeps {r s : State} (i : Nat) (h : Keeps r s) :
    Keeps r (closeDrained s i) := by
  unfold closeDrained
  repeat' first
    | with_reducible assumption | with_reducible apply putInlet_keeps
    | (intro (s' : State); with_reducible refine keeps_cut (Keeps r s') ?_ ?_)
    | (intro (h' : Keeps r s'); clear_value s') | (intro x') | lift_lets | simp -zeta only [s']
    | simp -zeta only [keeps_mk] | split

theorem settleDevice_keeps {r s : State}  (h : Keeps r s) :
    Keeps r (settleDevice s) := by
  unfold settleDevice
  repeat' first
    | with_reducible assumption | with_reducible apply setDevState_keeps
    | (intro (s' : State); with_reducible refine keeps_cut (Keeps r s') ?_ ?_)
    | (intro (h' : Keeps r s'); clear_value s') | (intro x') | lift_lets | simp -zeta only [s']
    | simp -zeta only [keeps_mk] | (show keyOf _ = keyOf _; rfl) | split | with_reducible apply keeps_map
    | with_reducible apply keeps_filter

theorem dropStaging_keeps {r s : State}  (h : Keeps r s) :
    Keeps r (dropStaging s) := by
  unfold dropStaging
  repeat' first
    | with_reducible assumption | (intro (s' : State); with_reducible refine keeps_cut (Keeps r s') ?_ ?_)
    | (intro (h' : Keeps r s'); clear_value s') | (intro x') | lift_lets | simp -zeta only [s']
    | simp -zeta only [keeps_mk] | split

theorem releaseAll_keeps {r s : State} (c : Cmd) (ok : Bool) (h : Keeps r s) :
    Keeps r (releaseAll s c ok) := by
  unfold releaseAll
  repeat' first
    | with_reducible assumption | with_reducible apply dropStaging_keeps
    | (intro (s' : State); with_reducible refine keeps_cut (Keeps r s') ?_ ?_)
    | (intro (h' : Keeps r s'); clear_value s') | (intro x') | lift_lets | simp -zeta only [s']
    | simp -zeta only [keeps_mk] | split

theorem countTicks_keeps {r s : State} (c : Cmd) (dur : Nat) (h : Keeps r s) :
    Keeps r (countTicks s c dur) := by
  unfold countTicks
  repeat' first
    | with_reducible assumption | (intro (s' : State); with_reducible refine keeps_cut (Keeps r s') ?_ ?_)
    | (intro (h' : Keeps r s'); clear_value s') | (intro x') | lift_lets | simp -zeta only [s']
    | simp -zeta only [keeps_mk]

theorem endOne_keeps {r s : State} (id : CmdId) (st : Status) (detail : Nat) (h : Keeps r s) :
    Keeps r (endOne s id st detail) := by
  unfold endOne
  repeat' first
    | with_reducible assumption | with_reducible apply putInlet_keeps | with_reducible apply putOutfall_keeps
    | with_reducible apply setInletFlag_keeps | with_reducible apply addEvent_keeps
    | with_reducible apply writeEntry_keeps | with_reducible apply closeDrained_keeps
    | with_reducible apply settleDevice_keeps | with_reducible apply releaseAll_keeps
    | with_reducible apply countTicks_keeps
    | (intro (s' : State); with_reducible refine keeps_cut (Keeps r s') ?_ ?_)
    | (intro (h' : Keeps r s'); clear_value s') | (intro x') | lift_lets | simp -zeta only [s']
    | simp -zeta only | (show keyOf _ = keyOf _; rfl) | split | with_reducible apply keeps_map
    | with_reducible apply keeps_filter

theorem freeSealed_keeps {r s : State} (c : Cmd) (k : Cause) (h : Keeps r s) :
    Keeps r (freeSealed s c k) := by
  unfold freeSealed
  repeat' first
    | with_reducible assumption | with_reducible apply putChannel_keeps
    | (intro (s' : State); with_reducible refine keeps_cut (Keeps r s') ?_ ?_)
    | (intro (h' : Keeps r s'); clear_value s') | (intro x') | lift_lets | simp -zeta only [s']
    | simp -zeta only [keeps_mk] | split

theorem postEnding_keeps {r s : State} (id : CmdId) (e : Ending) (log : State → Cmd → Nat → State)
    (hk : ∀ s c n, Keeps r s → Keeps r (log s c n)) (h : Keeps r s) : Keeps r (postEnding s id e log) := by
  unfold postEnding
  split
  · exact h
  · split
    · exact modCmd_keeps _ _ (hk _ _ _ h) (fun _ => rfl)
    · split <;> exact modCmd_keeps _ _ (hk _ _ _ h) (fun _ => rfl)

theorem postCause_keeps {r s : State} (id : CmdId) (k : Cause) (h : Keeps r s) :
    Keeps r (postCause s id k) := by
  unfold postCause
  repeat' first
    | with_reducible assumption | with_reducible apply logFault_keeps | with_reducible apply freeSealed_keeps
    | with_reducible refine postEnding_keeps _ _ _ (fun s' c' n' h' => ?_) ?_
    | (intro (s' : State); with_reducible refine keeps_cut (Keeps r s') ?_ ?_)
    | (intro (h' : Keeps r s'); clear_value s') | (intro x') | lift_lets | simp -zeta only [s']
    | simp -zeta only [keeps_mk] | split

theorem postLogged_keeps {r s : State} (id : CmdId) (k : Cause) (h : Keeps r s) :
    Keeps r (postLogged s id k) := by
  unfold postLogged
  exact postEnding_keeps _ _ _ (fun _ _ _ h' => h') h

theorem postAll_keeps {r s : State} (ids : List CmdId) (k : Cause) (h : Keeps r s) :
    Keeps r (postAll s ids k) := by
  unfold postAll
  repeat' first
    | with_reducible assumption | with_reducible apply postCause_keeps
    | with_reducible refine foldl_keeps (fun s' a' h' => ?_) ?_

theorem failCmd_keeps {r s : State} (id : CmdId) (k : Cause) (h : Keeps r s) :
    Keeps r (failCmd s id k) := by
  unfold failCmd
  repeat' first
    | with_reducible assumption | with_reducible apply postCause_keeps

theorem endCmd_keeps {r s : State} (id : CmdId) (st : Status) (detail : Nat) (h : Keeps r s) :
    Keeps r (endCmd s id st detail) := by
  unfold endCmd
  repeat' first
    | with_reducible assumption | with_reducible apply endOne_keeps | with_reducible apply postAll_keeps
    | (intro (s' : State); with_reducible refine keeps_cut (Keeps r s') ?_ ?_)
    | (intro (h' : Keeps r s'); clear_value s') | (intro x') | lift_lets | simp -zeta only [s'] | split

theorem enterFault_keeps {r s : State} (unit : Nat) (index : Nat) (h : Keeps r s) :
    Keeps r (enterFault s unit index) := by
  unfold enterFault
  repeat' first
    | with_reducible assumption | with_reducible apply raiseCause_keeps
    | with_reducible apply setDevState_keeps | with_reducible apply logFault_keeps
    | with_reducible apply raiseAlert_keeps | with_reducible apply postLogged_keeps
    | with_reducible refine foldl_keeps (fun s' a' h' => ?_) ?_
    | (intro (s' : State); with_reducible refine keeps_cut (Keeps r s') ?_ ?_)
    | (intro (h' : Keeps r s'); clear_value s') | (intro x') | lift_lets | simp -zeta only [s']
    | simp -zeta only [keeps_mk] | (show keyOf _ = keyOf _; rfl) | split | with_reducible apply keeps_map
    | with_reducible apply keeps_filter

theorem progress_keeps {r s : State} (id : CmdId) (h : Keeps r s) :
    Keeps r (progress s id) := by
  unfold progress
  repeat' first
    | with_reducible assumption | with_reducible apply modCmd_keeps
    | (intro (s' : State); with_reducible refine keeps_cut (Keeps r s') ?_ ?_)
    | (intro (h' : Keeps r s'); clear_value s') | (intro x') | lift_lets | simp -zeta only [s']
    | simp -zeta only [keeps_mk] | (show keyOf _ = keyOf _; rfl) | with_reducible apply keeps_map
    | with_reducible apply keeps_filter

theorem writeMem_keeps {r s : State} (a : Nat) (b : List Byte) (h : Keeps r s) :
    Keeps r (writeMem s a b) := by
  unfold writeMem
  split
  · refine keeps_mem (fun w => ?_) h
    have := writeMem_wf a b w
    unfold writeMem at this
    rw [if_pos (by assumption)] at this
    exact this
  · refine foldl_keeps (fun s' a' h' => logFault_keeps _ _ _ _ _ _ _ _ h') ?_
    refine keeps_mem (fun w => ?_) h
    have := writeMem_wf a b w
    unfold writeMem at this
    rw [if_neg (by assumption)] at this
    simpa using this

theorem loseSlot_keeps {r s : State} (k : Nat) (h : Keeps r s) :
    Keeps r (loseSlot s k) := by
  unfold loseSlot
  exact keeps_mem (fun w => loseSlot_mem_wf k s.free w) h

theorem touchAcc_keeps {r s : State} (c : Nat) (h : Keeps r s) :
    Keeps r (touchAcc s c) := by
  unfold touchAcc
  exact ⟨h.1, fun w => h.2 w, h.3⟩

theorem loseBerm_keeps {r s : State} (c : Nat) (h : Keeps r s) :
    Keeps r (loseBerm s c) := by
  unfold loseBerm
  repeat' first
    | with_reducible assumption | with_reducible apply putCore_keeps | with_reducible apply loseSlot_keeps
    | with_reducible apply touchAcc_keeps | with_reducible refine foldl_keeps (fun s' a' h' => ?_) ?_
    | (intro (s' : State); with_reducible refine keeps_cut (Keeps r s') ?_ ?_)
    | (intro (h' : Keeps r s'); clear_value s') | (intro x') | lift_lets | simp -zeta only [s']
    | simp -zeta only [keeps_mk]

theorem writeLe_keeps {r s : State} (a : Nat) (n : Nat) (v : Nat) (h : Keeps r s) :
    Keeps r (writeLe s a n v) := by
  unfold writeLe
  repeat' first
    | with_reducible assumption | with_reducible apply writeMem_keeps

theorem writeElem_keeps {r s : State} (fmt : Nat) (a : Nat) (i : Nat) (c : Nat) (h : Keeps r s) :
    Keeps r (writeElem s fmt a i c) := by
  unfold writeElem
  repeat' first
    | with_reducible assumption | with_reducible apply writeLe_keeps
    | (intro (s' : State); with_reducible refine keeps_cut (Keeps r s') ?_ ?_)
    | (intro (h' : Keeps r s'); clear_value s') | (intro x') | lift_lets | simp -zeta only [s']
    | simp -zeta only [keeps_mk] | split

theorem markCapEvent_keeps {r s : State} (core : Nat) (h : Keeps r s) :
    Keeps r (markCapEvent s core) := by
  unfold markCapEvent
  repeat' first
    | with_reducible assumption | (intro (s' : State); with_reducible refine keeps_cut (Keeps r s') ?_ ?_)
    | (intro (h' : Keeps r s'); clear_value s') | (intro x') | lift_lets | simp -zeta only [s']
    | simp -zeta only | (show keyOf _ = keyOf _; rfl) | split | with_reducible apply keeps_map
    | with_reducible apply keeps_filter

theorem takeSlot_keeps {r s : State} (core : Nat) (arr : Nat) (h : Keeps r s) :
    Keeps r (takeSlot s core arr) := by
  unfold takeSlot
  repeat' first
    | with_reducible assumption | with_reducible apply putArray_keeps | with_reducible apply timingEvent_keeps
    | with_reducible apply markCapEvent_keeps
    | (intro (s' : State); with_reducible refine keeps_cut (Keeps r s') ?_ ?_)
    | (intro (h' : Keeps r s'); clear_value s') | (intro x') | lift_lets | simp -zeta only [s']
    | simp -zeta only [keeps_mk] | split

theorem renumber_keeps {r s : State} (old : State) (h : Keeps r s) : Keeps r (renumber old s) := by
  unfold renumber
  refine foldl_keeps (fun s' c h' => ?_) h
  split
  · exact h'
  · exact putCore_keeps _ _ h'

theorem writeDivider_keeps {r s : State} (c : Nat) (m : Nat) (h : Keeps r s) :
    Keeps r (writeDivider s c m) := by
  unfold writeDivider
  repeat' first
    | with_reducible assumption | with_reducible apply putPower_keeps
    | (intro (s' : State); with_reducible refine keeps_cut (Keeps r s') ?_ ?_)
    | (intro (h' : Keeps r s'); clear_value s') | (intro x') | lift_lets | simp -zeta only [s']
    | simp -zeta only [keeps_mk]

theorem lowerM_keeps {r s : State} (c : Nat) (m : Nat) (h : Keeps r s) :
    Keeps r (lowerM s c m) := by
  unfold lowerM
  repeat' first
    | with_reducible assumption | with_reducible apply putPower_keeps
    | with_reducible apply writeDivider_keeps
    | (intro (s' : State); with_reducible refine keeps_cut (Keeps r s') ?_ ?_)
    | (intro (h' : Keeps r s'); clear_value s') | (intro x') | lift_lets | simp -zeta only [s']
    | simp -zeta only [keeps_mk]

theorem capM_keeps {r s : State} (c : Nat) (h : Keeps r s) :
    Keeps r (capM s c) := by
  unfold capM
  repeat' first
    | with_reducible assumption | with_reducible apply lowerM_keeps | split

theorem brakeCore_keeps {r s : State} (c : Nat) (h : Keeps r s) :
    Keeps r (brakeCore s c) := by
  unfold brakeCore
  repeat' first
    | with_reducible assumption | with_reducible apply putPower_keeps
    | (intro (s' : State); with_reducible refine keeps_cut (Keeps r s') ?_ ?_)
    | (intro (h' : Keeps r s'); clear_value s') | (intro x') | lift_lets | simp -zeta only [s']
    | simp -zeta only [keeps_mk] | split

theorem sealCheck_keeps {r s : State} (ch : Nat) (h : Keeps r s) :
    Keeps r (sealCheck s ch) := by
  unfold sealCheck
  repeat' first
    | with_reducible assumption | with_reducible apply putChannel_keeps | with_reducible apply modCmd_keeps
    | with_reducible apply postLogged_keeps
    | (intro (s' : State); with_reducible refine keeps_cut (Keeps r s') ?_ ?_)
    | (intro (h' : Keeps r s'); clear_value s') | (intro x') | lift_lets | simp -zeta only [s']
    | simp -zeta only [keeps_mk] | (show keyOf _ = keyOf _; rfl) | split | with_reducible apply keeps_map
    | with_reducible apply keeps_filter

theorem markFailed_keeps {r s : State} (ch : Nat) (d : Nat) (r' : FailReason) (h : Keeps r s) :
    Keeps r (markFailed s ch d r') := by
  unfold markFailed
  repeat' first
    | with_reducible assumption | with_reducible apply putChannel_keeps | with_reducible apply logFault_keeps
    | (intro (s' : State); with_reducible refine keeps_cut (Keeps r s') ?_ ?_)
    | (intro (h' : Keeps r s'); clear_value s') | (intro x') | lift_lets | simp -zeta only [s']
    | simp -zeta only [keeps_mk] | split

theorem sealAll_keeps {r s : State}  (h : Keeps r s) :
    Keeps r (sealAll s) := by
  unfold sealAll
  repeat' first
    | with_reducible assumption | with_reducible apply sealCheck_keeps
    | with_reducible refine foldl_keeps (fun s' a' h' => ?_) ?_

theorem qpLose_keeps {r s : State} (q : Nat) (st : QpState) (r' : FailReason) (h : Keeps r s) :
    Keeps r (qpLose s q st r') := by
  unfold qpLose
  repeat' first
    | with_reducible assumption | with_reducible apply putQp_keeps | with_reducible apply failCmd_keeps
    | with_reducible apply markFailed_keeps | with_reducible apply sealAll_keeps
    | with_reducible refine foldl_keeps (fun s' a' h' => ?_) ?_
    | (intro (s' : State); with_reducible refine keeps_cut (Keeps r s') ?_ ?_)
    | (intro (h' : Keeps r s'); clear_value s') | (intro x') | lift_lets | simp -zeta only [s']
    | simp -zeta only [keeps_mk] | (show keyOf _ = keyOf _; rfl) | with_reducible apply keeps_map
    | with_reducible apply keeps_filter

theorem failDest_keeps {r s : State} (ch : Nat) (d : Nat) (r' : FailReason) (h : Keeps r s) :
    Keeps r (failDest s ch d r') := by
  unfold failDest
  repeat' first
    | with_reducible assumption | with_reducible apply markFailed_keeps | with_reducible apply sealAll_keeps
    | with_reducible apply qpLose_keeps
    | (intro (s' : State); with_reducible refine keeps_cut (Keeps r s') ?_ ?_)
    | (intro (h' : Keeps r s'); clear_value s') | (intro x') | lift_lets | simp -zeta only [s']
    | simp -zeta only [keeps_mk] | split

theorem ackPage_keeps {r s : State} (ch : Nat) (bind : W16) (d : Nat) (q : Nat) (h : Keeps r s) :
    Keeps r (ackPage s ch bind d q) := by
  unfold ackPage
  repeat' first
    | with_reducible assumption | with_reducible apply putChannel_keeps | with_reducible apply progress_keeps
    | with_reducible apply sealCheck_keeps
    | (intro (s' : State); with_reducible refine keeps_cut (Keeps r s') ?_ ?_)
    | (intro (h' : Keeps r s'); clear_value s') | (intro x') | lift_lets | simp -zeta only [s']
    | simp -zeta only [keeps_mk] | split

theorem failBind_keeps {r s : State} (ch : Nat) (bind : W16) (d : Nat) (r' : FailReason) (h : Keeps r s) :
    Keeps r (failBind s ch bind d r') := by
  unfold failBind
  repeat' first
    | with_reducible assumption | with_reducible apply failDest_keeps | split

theorem emitFlit_keeps {r s : State} (p : Nat) (f : Flit) (h : Keeps r s) :
    Keeps r (emitFlit s p f) := by
  unfold emitFlit
  repeat' first
    | with_reducible assumption | with_reducible apply putPort_keeps
    | (intro (s' : State); with_reducible refine keeps_cut (Keeps r s') ?_ ?_)
    | (intro (h' : Keeps r s'); clear_value s') | (intro x') | lift_lets | simp -zeta only [s']
    | simp -zeta only [keeps_mk]

theorem returnNext_keeps {r s : State}  (h : Keeps r s) :
    KeepsOpt r (returnNext s) := by
  unfold returnNext
  repeat' first
    | with_reducible assumption | (intro a') | with_reducible apply emitFlit_keeps
    | with_reducible apply keepsOpt_some | with_reducible apply keepsOpt_none
    | with_reducible apply keepsOpt_map | with_reducible refine keeps_of_some (by assumption) ?_

theorem freeFlits_keeps {r s : State} (p : Nat) (key : Nat) (n : Nat) (h : Keeps r s) :
    Keeps r (freeFlits s p key n) := by
  unfold freeFlits
  repeat' first
    | with_reducible assumption | with_reducible apply putPort_keeps
    | (intro (s' : State); with_reducible refine keeps_cut (Keeps r s') ?_ ?_)
    | (intro (h' : Keeps r s'); clear_value s') | (intro x') | lift_lets | simp -zeta only [s']
    | simp -zeta only [keeps_mk]

theorem freePacket_keeps {r s : State} (i : Option Ingress) (k : Packet) (h : Keeps r s) :
    Keeps r (freePacket s i k) := by
  unfold freePacket
  repeat' first
    | with_reducible assumption | with_reducible apply freeFlits_keeps
    | (intro (s' : State); with_reducible refine keeps_cut (Keeps r s') ?_ ?_)
    | (intro (h' : Keeps r s'); clear_value s') | (intro x') | lift_lets | simp -zeta only [s']
    | simp -zeta only [keeps_mk] | split

theorem noteFec_keeps {r s : State} (p : Nat) (f : Fec) (h : Keeps r s) :
    Keeps r (noteFec s p f) := by
  unfold noteFec
  repeat' first
    | with_reducible assumption | with_reducible apply putPort_keeps
    | (intro (s' : State); with_reducible refine keeps_cut (Keeps r s') ?_ ?_)
    | (intro (h' : Keeps r s'); clear_value s') | (intro x') | lift_lets | simp -zeta only [s']
    | simp -zeta only [keeps_mk]

theorem weirCount_keeps {r s : State} (k : Nat) (n : Nat) (h : Keeps r s) :
    Keeps r (weirCount s k n) := by
  unfold weirCount
  repeat' first
    | with_reducible assumption | (intro (s' : State); with_reducible refine keeps_cut (Keeps r s') ?_ ?_)
    | (intro (h' : Keeps r s'); clear_value s') | (intro x') | lift_lets | simp -zeta only [s']
    | simp -zeta only [keeps_mk] | split

theorem txSend_keeps {r s : State} (p : Nat) (i : Nat) (n : Nat) (t : TxPacket) (h : Keeps r s) :
    Keeps r (txSend s p i n t) := by
  unfold txSend
  repeat' first
    | with_reducible assumption | with_reducible apply putPort_keeps | with_reducible apply emitFlit_keeps
    | with_reducible apply freeFlits_keeps | with_reducible apply weirCount_keeps
    | with_reducible refine foldl_keeps (fun s' a' h' => ?_) ?_
    | (intro (s' : State); with_reducible refine keeps_cut (Keeps r s') ?_ ?_)
    | (intro (h' : Keeps r s'); clear_value s') | (intro x') | lift_lets | simp -zeta only [s']
    | simp -zeta only [keeps_mk] | split

theorem txRun_keeps {r s : State} (x : Nat) (z : Nat) (h : Keeps r s) :
    Keeps r (txRun x s z) := by
  induction x generalizing s with
  | zero =>
    unfold txRun
    repeat' first
      | with_reducible assumption | with_reducible apply ih | with_reducible apply txSend_keeps
      | (intro (s' : State); with_reducible refine keeps_cut (Keeps r s') ?_ ?_)
      | (intro (h' : Keeps r s'); clear_value s') | (intro x') | lift_lets | simp -zeta only [s']
      | simp -zeta only [keeps_mk] | split
  | succ n ih =>
    unfold txRun
    repeat' first
      | with_reducible assumption | with_reducible apply ih | with_reducible apply txSend_keeps
      | (intro (s' : State); with_reducible refine keeps_cut (Keeps r s') ?_ ?_)
      | (intro (h' : Keeps r s'); clear_value s') | (intro x') | lift_lets | simp -zeta only [s']
      | simp -zeta only [keeps_mk] | split

theorem transmit_keeps {r s : State} (p : Nat) (h : Keeps r s) :
    Keeps r (transmit s p) := by
  unfold transmit
  repeat' first
    | with_reducible assumption | with_reducible apply txRun_keeps

theorem enqueue_keeps {r s : State} (p : Nat) (t : TxPacket) (h : Keeps r s) :
    Keeps r (enqueue s p t) := by
  unfold enqueue
  repeat' first
    | with_reducible assumption | with_reducible apply putPort_keeps | with_reducible apply transmit_keeps
    | (intro (s' : State); with_reducible refine keeps_cut (Keeps r s') ?_ ?_)
    | (intro (h' : Keeps r s'); clear_value s') | (intro x') | lift_lets | simp -zeta only [s']
    | simp -zeta only [keeps_mk]

theorem setNoRoute_keeps {r s : State}  (h : Keeps r s) :
    Keeps r (setNoRoute s) := by
  unfold setNoRoute
  repeat' first
    | with_reducible assumption | (intro (s' : State); with_reducible refine keeps_cut (Keeps r s') ?_ ?_)
    | (intro (h' : Keeps r s'); clear_value s') | (intro x') | lift_lets | simp -zeta only [s']
    | simp -zeta only [keeps_mk]

theorem lostBeyond_keeps {r s : State} (k : Cause) (h : Keeps r s) :
    Keeps r (lostBeyond s k) := by
  unfold lostBeyond
  repeat' first
    | with_reducible assumption | with_reducible apply logFault_keeps
    | (intro (s' : State); with_reducible refine keeps_cut (Keeps r s') ?_ ?_)
    | (intro (h' : Keeps r s'); clear_value s') | (intro x') | lift_lets | simp -zeta only [s']
    | simp -zeta only [keeps_mk]

theorem takeTurn_keeps {r s : State} (t : TxPacket) (h : Keeps r s) :
    Keeps r (takeTurn s t) := by
  unfold takeTurn
  repeat' first
    | with_reducible assumption | with_reducible apply enqueue_keeps | with_reducible apply setNoRoute_keeps
    | with_reducible apply lostBeyond_keeps
    | (intro (s' : State); with_reducible refine keeps_cut (Keeps r s') ?_ ?_)
    | (intro (h' : Keeps r s'); clear_value s') | (intro x') | lift_lets | simp -zeta only [s']
    | simp -zeta only [keeps_mk] | split

theorem onBundle_keeps {r s : State} (b : Nat) (k : Packet) (o : Owner) (arrived : Option Ingress) (h : Keeps r s) :
    Keeps r (onBundle s b k o arrived) := by
  unfold onBundle
  repeat' first
    | with_reducible assumption | with_reducible apply takeTurn_keeps
    | (intro (s' : State); with_reducible refine keeps_cut (Keeps r s') ?_ ?_)
    | (intro (h' : Keeps r s'); clear_value s') | (intro x') | lift_lets | simp -zeta only [s']
    | simp -zeta only [keeps_mk]

theorem routeCtl_keeps {r s : State} (k : Packet) (h : Keeps r s) :
    Keeps r (routeCtl s k) := by
  unfold routeCtl
  repeat' first
    | with_reducible assumption | with_reducible apply setNoRoute_keeps
    | with_reducible apply lostBeyond_keeps | with_reducible apply onBundle_keeps
    | (intro (s' : State); with_reducible refine keeps_cut (Keeps r s') ?_ ?_)
    | (intro (h' : Keeps r s'); clear_value s') | (intro x') | lift_lets | simp -zeta only [s']
    | simp -zeta only [keeps_mk] | split

theorem sendCollAbort_keeps {r s : State} (g : Nat) (seq : Nat) (h : Keeps r s) :
    Keeps r (sendCollAbort s g seq) := by
  unfold sendCollAbort
  repeat' first
    | with_reducible assumption | with_reducible apply routeCtl_keeps
    | with_reducible refine foldl_keeps (fun s' a' h' => ?_) ?_
    | (intro (s' : State); with_reducible refine keeps_cut (Keeps r s') ?_ ?_)
    | (intro (h' : Keeps r s'); clear_value s') | (intro x') | lift_lets | simp -zeta only [s']
    | simp -zeta only [keeps_mk]

theorem tellOthers_keeps {r s : State} (c : Cmd) (k : Cause) (h : Keeps r s) :
    Keeps r (tellOthers s c k) := by
  unfold tellOthers
  repeat' first
    | with_reducible assumption | with_reducible apply sendCollAbort_keeps
    | (intro (s' : State); with_reducible refine keeps_cut (Keeps r s') ?_ ?_)
    | (intro (h' : Keeps r s'); clear_value s') | (intro x') | lift_lets | simp -zeta only [s']
    | simp -zeta only [keeps_mk] | split

theorem failNet_keeps {r s : State} (id : CmdId) (k : Cause) (logged : Bool) (h : Keeps r s) :
    Keeps r (failNet s id k logged) := by
  unfold failNet
  repeat' first
    | with_reducible assumption | with_reducible apply postLogged_keeps | with_reducible apply failCmd_keeps
    | with_reducible apply tellOthers_keeps
    | (intro (s' : State); with_reducible refine keeps_cut (Keeps r s') ?_ ?_)
    | (intro (h' : Keeps r s'); clear_value s') | (intro x') | lift_lets | simp -zeta only [s']
    | simp -zeta only [keeps_mk] | split

theorem failTold_keeps {r s : State} (c : Cmd) (k : Cause) (h : Keeps r s) :
    Keeps r (failTold s c k) := by
  unfold failTold
  repeat' first
    | with_reducible assumption | with_reducible apply logFault_keeps
    | with_reducible refine postEnding_keeps _ _ _ (fun s' c' n' h' => ?_) ?_
    | with_reducible apply tellOthers_keeps
    | (intro (s' : State); with_reducible refine keeps_cut (Keeps r s') ?_ ?_)
    | (intro (h' : Keeps r s'); clear_value s') | (intro x') | lift_lets | simp -zeta only [s']
    | simp -zeta only [keeps_mk]

theorem dropFlits_keeps {r s : State} (t : TxPacket) (h : Keeps r s) :
    Keeps r (dropFlits s t) := by
  unfold dropFlits
  repeat' first
    | with_reducible assumption | with_reducible apply freeFlits_keeps
    | (intro (s' : State); with_reducible refine keeps_cut (Keeps r s') ?_ ?_)
    | (intro (h' : Keeps r s'); clear_value s') | (intro x') | lift_lets | simp -zeta only [s']
    | simp -zeta only [keeps_mk] | split

theorem routeLost_keeps {r s : State} (k : Packet) (o : Owner) (arrived : Option Ingress) (h : Keeps r s) :
    Keeps r (routeLost s k o arrived) := by
  unfold routeLost
  repeat' first
    | with_reducible assumption | with_reducible apply failBind_keeps | with_reducible apply setNoRoute_keeps
    | with_reducible apply lostBeyond_keeps | with_reducible apply onBundle_keeps
    | with_reducible apply failNet_keeps | with_reducible apply dropFlits_keeps
    | (intro (s' : State); with_reducible refine keeps_cut (Keeps r s') ?_ ?_)
    | (intro (h' : Keeps r s'); clear_value s') | (intro x') | lift_lets | simp -zeta only [s']
    | simp -zeta only [keeps_mk] | split

theorem routePacket_keeps {r s : State} (k : Packet) (o : Owner) (arrived : Option Ingress) (h : Keeps r s) :
    Keeps r (routePacket s k o arrived) := by
  unfold routePacket
  repeat' first
    | with_reducible assumption | with_reducible apply onBundle_keeps | with_reducible apply routeLost_keeps
    | (intro (s' : State); with_reducible refine keeps_cut (Keeps r s') ?_ ?_)
    | (intro (h' : Keeps r s'); clear_value s') | (intro x') | lift_lets | simp -zeta only [s']
    | simp -zeta only [keeps_mk] | split

theorem putFlowTx_keeps {r s : State} (k : Nat) (f : FlowTx) (h : Keeps r s) :
    Keeps r (putFlowTx s k f) := by
  unfold putFlowTx
  repeat' first
    | with_reducible assumption | (intro (s' : State); with_reducible refine keeps_cut (Keeps r s') ?_ ?_)
    | (intro (h' : Keeps r s'); clear_value s') | (intro x') | lift_lets | simp -zeta only [s']
    | simp -zeta only [keeps_mk]

theorem putFlowRx_keeps {r s : State} (k : Nat) (f : FlowRx) (h : Keeps r s) :
    Keeps r (putFlowRx s k f) := by
  unfold putFlowRx
  repeat' first
    | with_reducible assumption | (intro (s' : State); with_reducible refine keeps_cut (Keeps r s') ?_ ?_)
    | (intro (h' : Keeps r s'); clear_value s') | (intro x') | lift_lets | simp -zeta only [s']
    | simp -zeta only [keeps_mk]

theorem passWrite_keeps {r s : State} (k : Packet) (o : Owner) (arrived : Option Ingress) (h : Keeps r s) :
    Keeps r (passWrite s k o arrived) := by
  unfold passWrite
  repeat' first
    | with_reducible assumption | with_reducible apply routePacket_keeps
    | with_reducible apply putFlowTx_keeps
    | (intro (s' : State); with_reducible refine keeps_cut (Keeps r s') ?_ ?_)
    | (intro (h' : Keeps r s'); clear_value s') | (intro x') | lift_lets | simp -zeta only [s']
    | simp -zeta only [keeps_mk]

theorem sendWrite_keeps {r s : State} (k : Packet) (o : Owner) (h : Keeps r s) :
    Keeps r (sendWrite s k o) := by
  unfold sendWrite
  repeat' first
    | with_reducible assumption | with_reducible apply passWrite_keeps

theorem ackOwner_keeps {r s : State} (o : Owner) (h : Keeps r s) :
    Keeps r (ackOwner s o) := by
  unfold ackOwner
  repeat' first
    | with_reducible assumption | with_reducible apply addEvent_keeps | with_reducible apply progress_keeps
    | with_reducible apply ackPage_keeps
    | (intro (s' : State); with_reducible refine keeps_cut (Keeps r s') ?_ ?_)
    | (intro (h' : Keeps r s'); clear_value s') | (intro x') | lift_lets | simp -zeta only [s']
    | simp -zeta only [keeps_mk] | split

theorem ackFlow_keeps {r s : State} (key : Nat) (upto : Nat) (h : Keeps r s) :
    Keeps r (ackFlow s key upto) := by
  unfold ackFlow
  repeat' first
    | with_reducible assumption | with_reducible apply putFlowTx_keeps | with_reducible apply ackOwner_keeps
    | with_reducible refine foldl_keeps (fun s' a' h' => ?_) ?_
    | (intro (s' : State); with_reducible refine keeps_cut (Keeps r s') ?_ ?_)
    | (intro (h' : Keeps r s'); clear_value s') | (intro x') | lift_lets | simp -zeta only [s']
    | simp -zeta only [keeps_mk]

theorem lapse_keeps {r s : State}  (h : Keeps r s) :
    Keeps r (lapse s) := by
  unfold lapse
  repeat' first
    | with_reducible assumption | (intro (s' : State); with_reducible refine keeps_cut (Keeps r s') ?_ ?_)
    | (intro (h' : Keeps r s'); clear_value s') | (intro x') | lift_lets | simp -zeta only [s']
    | simp -zeta only [keeps_mk]

theorem partnerCheck_keeps {r s : State}  (h : Keeps r s) :
    Keeps r (partnerCheck s) := by
  unfold partnerCheck
  repeat' first
    | with_reducible assumption | with_reducible apply failNet_keeps | with_reducible apply lapse_keeps
    | with_reducible refine foldl_keeps (fun s' a' h' => ?_) ?_ | split

theorem losePacket_keeps {r s : State} (p : Nat) (n : Nat) (t : TxPacket) (h : Keeps r s) :
    Keeps r (losePacket s p n t) := by
  unfold losePacket
  repeat' first
    | with_reducible assumption | with_reducible apply failBind_keeps | with_reducible apply onBundle_keeps
    | with_reducible apply failNet_keeps | with_reducible apply dropFlits_keeps
    | (intro (s' : State); with_reducible refine keeps_cut (Keeps r s') ?_ ?_)
    | (intro (h' : Keeps r s'); clear_value s') | (intro x') | lift_lets | simp -zeta only [s']
    | simp -zeta only [keeps_mk] | split

theorem resetFlow_keeps {r s : State} (key : Nat) (lost : List Nat) (h : Keeps r s) :
    Keeps r (resetFlow s key lost) := by
  unfold resetFlow
  repeat' first
    | with_reducible assumption | with_reducible apply routeCtl_keeps | with_reducible apply putFlowTx_keeps
    | with_reducible refine foldl_keeps (fun s' a' h' => ?_) ?_
    | (intro (s' : State); with_reducible refine keeps_cut (Keeps r s') ?_ ?_)
    | (intro (h' : Keeps r s'); clear_value s') | (intro x') | lift_lets | simp -zeta only [s']
    | simp -zeta only [keeps_mk]

theorem flowReset_keeps {r s : State} (k : Packet) (h : Keeps r s) :
    Keeps r (flowReset s k) := by
  unfold flowReset
  repeat' first
    | with_reducible assumption | with_reducible apply resetFlow_keeps | split

theorem reroute_keeps {r s : State} (p : Nat) (n : Nat) (t : TxPacket) (h : Keeps r s) :
    Keeps r (reroute s p n t) := by
  unfold reroute
  repeat' first
    | with_reducible assumption | with_reducible apply setNoRoute_keeps | with_reducible apply takeTurn_keeps
    | with_reducible apply losePacket_keeps | with_reducible apply flowReset_keeps | split

theorem giveUp_keeps {r s : State} (p : Nat) (h : Keeps r s) :
    Keeps r (giveUp s p) := by
  unfold giveUp
  repeat' first
    | with_reducible assumption | (intro (s' : State); with_reducible refine keeps_cut (Keeps r s') ?_ ?_)
    | (intro (h' : Keeps r s'); clear_value s') | (intro x') | lift_lets | simp -zeta only [s']
    | simp -zeta only [keeps_mk]

theorem losePort_keeps {r s : State} (p : Nat) (link : LinkState) (cls : Nat) (h : Keeps r s) :
    Keeps r (losePort s p link cls) := by
  unfold losePort
  repeat' first
    | with_reducible assumption | with_reducible apply putPort_keeps | with_reducible apply logFault_keeps
    | with_reducible apply partnerCheck_keeps | with_reducible apply losePacket_keeps
    | with_reducible apply flowReset_keeps | with_reducible apply reroute_keeps
    | with_reducible apply giveUp_keeps | with_reducible refine foldl_keeps (fun s' a' h' => ?_) ?_
    | (intro (s' : State); with_reducible refine keeps_cut (Keeps r s') ?_ ?_)
    | (intro (h' : Keeps r s'); clear_value s') | (intro x') | lift_lets | simp -zeta only [s']
    | simp -zeta only [keeps_mk] | split

theorem breachPort_keeps {r s : State} (p : Nat) (h : Keeps r s) :
    Keeps r (breachPort s p) := by
  unfold breachPort
  repeat' first
    | with_reducible assumption | with_reducible apply putPort_keeps | with_reducible apply losePort_keeps
    | (intro (s' : State); with_reducible refine keeps_cut (Keeps r s') ?_ ?_)
    | (intro (h' : Keeps r s'); clear_value s') | (intro x') | lift_lets | simp -zeta only [s']
    | simp -zeta only [keeps_mk]

theorem downPort_keeps {r s : State} (p : Nat) (h : Keeps r s) :
    Keeps r (downPort s p) := by
  unfold downPort
  repeat' first
    | with_reducible assumption | with_reducible apply putPort_keeps | with_reducible apply losePort_keeps
    | (intro (s' : State); with_reducible refine keeps_cut (Keeps r s') ?_ ?_)
    | (intro (h' : Keeps r s'); clear_value s') | (intro x') | lift_lets | simp -zeta only [s']
    | simp -zeta only [keeps_mk]

theorem applyWeir_keeps {r s : State} (b : List Byte) (h : Keeps r s) :
    Keeps r (applyWeir s b) := by
  unfold applyWeir
  repeat' first
    | with_reducible assumption | (intro (s' : State); with_reducible refine keeps_cut (Keeps r s') ?_ ?_)
    | (intro (h' : Keeps r s'); clear_value s') | (intro x') | lift_lets | simp -zeta only [s']
    | simp -zeta only [keeps_mk]

theorem weirServe_keeps {r s : State}  (h : Keeps r s) :
    Keeps r (weirServe s) := by
  unfold weirServe
  repeat' first
    | with_reducible assumption | with_reducible apply modCmd_keeps | with_reducible apply transmit_keeps
    | with_reducible apply applyWeir_keeps | with_reducible refine foldl_keeps (fun s' a' h' => ?_) ?_
    | (intro (s' : State); with_reducible refine keeps_cut (Keeps r s') ?_ ?_)
    | (intro (h' : Keeps r s'); clear_value s') | (intro x') | lift_lets | simp -zeta only [s']
    | simp -zeta only [keeps_mk] | (show keyOf _ = keyOf _; rfl) | split | with_reducible apply keeps_map
    | with_reducible apply keeps_filter

theorem weirBoundary_keeps {r s : State}  (h : Keeps r s) :
    Keeps r (weirBoundary s) := by
  unfold weirBoundary
  repeat' first
    | with_reducible assumption | with_reducible apply advance_keeps | with_reducible apply weirServe_keeps

theorem earnCredit_keeps {r s : State}  (h : Keeps r s) :
    Keeps r (earnCredit s) := by
  unfold earnCredit
  repeat' first
    | with_reducible assumption | with_reducible apply advanceTo_keeps
    | (intro (s' : State); with_reducible refine keeps_cut (Keeps r s') ?_ ?_)
    | (intro (h' : Keeps r s'); clear_value s') | (intro x') | lift_lets | simp -zeta only [s']
    | simp -zeta only [keeps_mk]

theorem spendCredit_keeps {r s : State}  (h : Keeps r s) :
    Keeps r (spendCredit s) := by
  unfold spendCredit
  repeat' first
    | with_reducible assumption | with_reducible apply weirCount_keeps
    | (intro (s' : State); with_reducible refine keeps_cut (Keeps r s') ?_ ?_)
    | (intro (h' : Keeps r s'); clear_value s') | (intro x') | lift_lets | simp -zeta only [s']
    | simp -zeta only [keeps_mk]

theorem ddrIssue_keeps {r s : State} (k : DdrClass) (urgent : Bool) (x : Nat) (z : Nat) (h : Keeps r s) :
    Keeps r (ddrIssue k urgent x s z) := by
  induction x generalizing s z with
  | zero =>
    unfold ddrIssue
    repeat' first
      | with_reducible assumption | with_reducible apply ih | with_reducible apply weirCount_keeps
      | with_reducible apply weirBoundary_keeps | with_reducible apply earnCredit_keeps
      | with_reducible apply spendCredit_keeps
      | (intro (s' : State); with_reducible refine keeps_cut (Keeps r s') ?_ ?_)
      | (intro (h' : Keeps r s'); clear_value s') | (intro x') | lift_lets | simp -zeta only [s'] | split
  | succ n ih =>
    unfold ddrIssue
    repeat' first
      | with_reducible assumption | with_reducible apply ih | with_reducible apply weirCount_keeps
      | with_reducible apply weirBoundary_keeps | with_reducible apply earnCredit_keeps
      | with_reducible apply spendCredit_keeps
      | (intro (s' : State); with_reducible refine keeps_cut (Keeps r s') ?_ ?_)
      | (intro (h' : Keeps r s'); clear_value s') | (intro x') | lift_lets | simp -zeta only [s'] | split

theorem earnDue_keeps {r s : State}  (h : Keeps r s) :
    Keeps r (earnDue s) := by
  unfold earnDue
  repeat' first
    | with_reducible assumption | (intro (s' : State); with_reducible refine keeps_cut (Keeps r s') ?_ ?_)
    | (intro (h' : Keeps r s'); clear_value s') | (intro x') | lift_lets | simp -zeta only [s']
    | simp -zeta only [keeps_mk] | split

theorem ddrTake_keeps {r s : State} (k : DdrClass) (urgent : Bool) (a : Nat) (n : Nat) (h : Keeps r s) :
    Keeps r (ddrTake s k urgent a n) := by
  unfold ddrTake
  repeat' first
    | with_reducible assumption | with_reducible apply ddrIssue_keeps | with_reducible apply earnDue_keeps
    | split

theorem takeReads_keeps {r s : State} (urgent : Bool) (l : List (Nat × Nat)) (h : Keeps r s) :
    Keeps r (takeReads s urgent l) := by
  unfold takeReads
  repeat' first
    | with_reducible assumption | with_reducible apply ddrTake_keeps
    | with_reducible refine foldl_keeps (fun s' a' h' => ?_) ?_

theorem countRerun_keeps {r s : State} (own : Option Nat) (a : Nat) (h : Keeps r s) :
    Keeps r (countRerun s own a) := by
  unfold countRerun
  repeat' first
    | with_reducible assumption | with_reducible apply putCore_keeps
    | (intro (s' : State); with_reducible refine keeps_cut (Keeps r s') ?_ ?_)
    | (intro (h' : Keeps r s'); clear_value s') | (intro x') | lift_lets | simp -zeta only [s']
    | simp -zeta only [keeps_mk] | split

theorem markReruns_keeps {r s : State} (core : Nat) (h : Keeps r s) :
    Keeps r (markReruns s core) := by
  unfold markReruns
  repeat' first
    | with_reducible assumption | (intro (s' : State); with_reducible refine keeps_cut (Keeps r s') ?_ ?_)
    | (intro (h' : Keeps r s'); clear_value s') | (intro x') | lift_lets | simp -zeta only [s']
    | simp -zeta only | (show keyOf _ = keyOf _; rfl) | split | with_reducible apply keeps_map
    | with_reducible apply keeps_filter

theorem timedReruns_keeps {r s : State} (core : Nat) (n : Nat) (h : Keeps r s) :
    Keeps r (timedReruns s core n) := by
  unfold timedReruns
  repeat' first
    | with_reducible assumption | with_reducible apply timingEvent_keeps
    | with_reducible apply markReruns_keeps

theorem rerunAt_keeps {r s : State} (own : Option Nat) (id : CmdId) (tile : Nat) (a : Nat) (h : Keeps r s) :
    Keeps r (rerunAt s own id tile a) := by
  unfold rerunAt
  repeat' first
    | with_reducible assumption | with_reducible apply logFault_keeps | with_reducible apply modCmd_keeps
    | with_reducible apply countRerun_keeps
    | (intro (s' : State); with_reducible refine keeps_cut (Keeps r s') ?_ ?_)
    | (intro (h' : Keeps r s'); clear_value s') | (intro x') | lift_lets | simp -zeta only [s']
    | simp -zeta only [keeps_mk] | (show keyOf _ = keyOf _; rfl) | split | with_reducible apply keeps_map
    | with_reducible apply keeps_filter

theorem exhaustAt_keeps {r s : State} (own : Option Nat) (id : CmdId) (tile : Nat) (a : Nat) (h : Keeps r s) :
    Keeps r (exhaustAt s own id tile a) := by
  unfold exhaustAt
  repeat' first
    | with_reducible assumption | with_reducible apply putCore_keeps | with_reducible apply logFault_keeps
    | with_reducible refine postEnding_keeps _ _ _ (fun s' c' n' h' => ?_) ?_
    | (intro (s' : State); with_reducible refine keeps_cut (Keeps r s') ?_ ?_)
    | (intro (h' : Keeps r s'); clear_value s') | (intro x') | lift_lets | simp -zeta only [s']
    | simp -zeta only [keeps_mk] | split

theorem recursAt_keeps {r s : State} (own : Option Nat) (id : CmdId) (tile : Nat) (a : Nat) (h : Keeps r s) :
    Keeps r (recursAt s own id tile a) := by
  unfold recursAt
  repeat' first
    | with_reducible assumption | with_reducible apply rerunAt_keeps | with_reducible apply exhaustAt_keeps

theorem noteRerun_keeps {r s : State} (id : CmdId) (tile : Nat) (a : Nat) (h : Keeps r s) :
    Keeps r (noteRerun s id tile a) := by
  unfold noteRerun
  repeat' first
    | with_reducible assumption | with_reducible apply rerunAt_keeps

theorem exhaust_keeps {r s : State} (id : CmdId) (tile : Nat) (a : Nat) (h : Keeps r s) :
    Keeps r (exhaust s id tile a) := by
  unfold exhaust
  repeat' first
    | with_reducible assumption | with_reducible apply exhaustAt_keeps

theorem exhaustAll_keeps {r s : State} (id : CmdId) (tile : Nat) (a : Nat) (h : Keeps r s) :
    Keeps r (exhaustAll s id tile a) := by
  unfold exhaustAll
  repeat' first
    | with_reducible assumption | with_reducible apply recursAt_keeps

theorem segMove_keeps {r s : State} (urgent : Bool) (c : SlChain) (h : Keeps r s) :
    Keeps r (segMove s urgent c) := by
  unfold segMove
  repeat' first
    | with_reducible assumption | with_reducible apply writeMem_keeps | with_reducible apply ddrTake_keeps
    | with_reducible refine foldl_keeps (fun s' a' h' => ?_) ?_
    | (intro (s' : State); with_reducible refine keeps_cut (Keeps r s') ?_ ?_)
    | (intro (h' : Keeps r s'); clear_value s') | (intro x') | lift_lets | simp -zeta only [s']
    | simp -zeta only [keeps_mk] | split

theorem claimSlot_keeps {r s : State} (a : Nat) (reader : Bool) (id : CmdId) (h : Keeps r s) :
    Keeps r (claimSlot s a reader id) := by
  unfold claimSlot
  repeat' first
    | with_reducible assumption | with_reducible apply putSlot_keeps | split

theorem unclaimSlot_keeps {r s : State} (a : Nat) (reader : Bool) (h : Keeps r s) :
    Keeps r (unclaimSlot s a reader) := by
  unfold unclaimSlot
  repeat' first
    | with_reducible assumption | with_reducible apply putSlot_keeps | split

theorem claimFor_keeps {r s : State} (c : SlChain) (h : Keeps r s) :
    Keeps r (claimFor s c).1 := by
  unfold claimFor
  have key : ∀ p : State × SlChain, Keeps r p.1 →
      Keeps r (if p.2.desc.dstSlot && !p.2.plain && !p.2.dstClaimed && claimable p.1 p.2.desc.dst false then
        (claimSlot p.1 p.2.desc.dst false p.2.cmd, { p.2 with dstClaimed := true }) else p).1 := by
    intro p hp
    split
    · exact claimSlot_keeps _ _ _ hp
    · exact hp
  apply key
  split
  · exact claimSlot_keeps _ _ _ h
  · exact h

theorem claimNext_keeps {r s : State}  (h : Keeps r s) :
    KeepsOpt r (claimNext s) := by
  unfold claimNext
  refine keepsOpt_findSome (fun p => ?_)
  split
  · exact keepsOpt_none
  · dsimp only
    split
    · exact keepsOpt_some (putSluice_keeps _ _ (claimFor_keeps _ h))
    · exact keepsOpt_none

theorem sluiceNext_keeps {r s : State} (n : Nat) (h : Keeps r s) :
    Keeps r (sluiceNext s n) := by
  unfold sluiceNext
  repeat' first
    | with_reducible assumption | with_reducible apply putSluice_keeps | with_reducible apply progress_keeps
    | (intro (s' : State); with_reducible refine keeps_cut (Keeps r s') ?_ ?_)
    | (intro (h' : Keeps r s'); clear_value s') | (intro x') | lift_lets | simp -zeta only [s']
    | simp -zeta only [keeps_mk] | split

theorem partEnd_keeps {r s : State} (id : CmdId) (moved : Nat) (h : Keeps r s) :
    Keeps r (partEnd s id moved) := by
  unfold partEnd
  repeat' first
    | with_reducible assumption | with_reducible apply modCmd_keeps
    | (intro (s' : State); with_reducible refine keeps_cut (Keeps r s') ?_ ?_)
    | (intro (h' : Keeps r s'); clear_value s') | (intro x') | lift_lets | simp -zeta only [s']
    | simp -zeta only [keeps_mk] | (show keyOf _ = keyOf _; rfl) | split | with_reducible apply keeps_map
    | with_reducible apply keeps_filter

theorem fetchNext_keeps {r s : State} (n : Nat) (h : Keeps r s) :
    KeepsOut r (fetchNext s n) := by
  unfold fetchNext
  repeat' first
    | with_reducible assumption | with_reducible apply putSluice_keeps | with_reducible apply ddrTake_keeps
    | with_reducible apply exhaustAll_keeps | with_reducible apply keepsOut_next
    | with_reducible apply keepsOut_fault
    | (intro (s' : State); with_reducible refine keeps_cut (Keeps r s') ?_ ?_)
    | (intro (h' : Keeps r s'); clear_value s') | (intro x') | lift_lets | simp -zeta only [s']
    | simp -zeta only [keeps_mk] | split | with_reducible refine keeps_of_next (by assumption) ?_

theorem descEnd_keeps {r s : State} (n : Nat) (c : SlChain) (h : Keeps r s) :
    KeepsOut r (descEnd s n c) := by
  unfold descEnd
  repeat' first
    | with_reducible assumption | with_reducible apply putSluice_keeps | with_reducible apply addEvent_keeps
    | with_reducible apply modCmd_keeps | with_reducible apply unclaimSlot_keeps
    | with_reducible apply sluiceNext_keeps | with_reducible apply partEnd_keeps
    | with_reducible apply fetchNext_keeps | with_reducible apply keepsOut_next
    | with_reducible apply keepsOut_fault
    | (intro (s' : State); with_reducible refine keeps_cut (Keeps r s') ?_ ?_)
    | (intro (h' : Keeps r s'); clear_value s') | (intro x') | lift_lets | simp -zeta only [s']
    | simp -zeta only [keeps_mk] | (show keyOf _ = keyOf _; rfl) | split | with_reducible apply keeps_map
    | with_reducible apply keeps_filter | with_reducible refine keeps_of_next (by assumption) ?_

theorem moveSegment_keeps {r s : State} (n : Nat) (c : SlChain) (h : Keeps r s) :
    KeepsOut r (moveSegment s n c) := by
  unfold moveSegment
  repeat' first
    | with_reducible assumption | with_reducible apply putSluice_keeps | with_reducible apply progress_keeps
    | with_reducible apply ddrTake_keeps | with_reducible apply segMove_keeps
    | with_reducible apply fetchNext_keeps | with_reducible apply descEnd_keeps
    | with_reducible apply keepsOut_next | with_reducible apply keepsOut_fault
    | (intro (s' : State); with_reducible refine keeps_cut (Keeps r s') ?_ ?_)
    | (intro (h' : Keeps r s'); clear_value s') | (intro x') | lift_lets | simp -zeta only [s']
    | simp -zeta only [keeps_mk] | split | with_reducible refine keeps_of_next (by assumption) ?_

theorem chainSegment_keeps {r s : State} (n : Nat) (h : Keeps r s) :
    KeepsOut r (chainSegment s n) := by
  unfold chainSegment
  have key : ∀ c : SlChain, KeepsOut r (let q := claimFor s c
      let s := putSluice q.1 n { getSluice s n with active := some q.2 }
      if q.2.stalled then .next s
      else andThen (fetchNext s n) (fun s => match (getSluice s n).active with
        | some c => if gone s c.cmd then .next s else moveSegment s n c
        | none => .next s)) := by
    intro c
    have h2 := putSluice_keeps n { getSluice s n with active := some (claimFor s c).2 } (claimFor_keeps c h)
    dsimp only
    split
    · exact keepsOut_next h2
    · refine keepsOut_andThen (fetchNext_keeps _ h2) (fun s' h' => ?_)
      split
      · split
        · exact keepsOut_next h'
        · exact moveSegment_keeps _ _ h'
      · exact keepsOut_next h'
  dsimp only
  split
  · exact key _
  · exact key _
  · exact keepsOut_next h

theorem xferNext_keeps {r s : State}  (h : Keeps r s) :
    KeepsOpt r (xferNext s) := by
  unfold xferNext
  repeat' first
    | with_reducible assumption | with_reducible apply putSluice_keeps | with_reducible apply setWork_keeps
    | with_reducible apply keepsOpt_some | with_reducible apply keepsOpt_none
    | with_reducible apply keepsOpt_map
    | (intro (s' : State); with_reducible refine keeps_cut (Keeps r s') ?_ ?_)
    | (intro (h' : Keeps r s'); clear_value s') | (intro x') | lift_lets | simp -zeta only [s']
    | simp -zeta only [keeps_mk] | split | with_reducible refine keeps_of_some (by assumption) ?_

theorem allotSlots_keeps {r s : State} (core : Nat) (id : CmdId) (item : Nat) (ks : List Nat) (h : Keeps r s) :
    Keeps r (allotSlots s core id item ks) := by
  unfold allotSlots
  repeat' first
    | with_reducible assumption | with_reducible apply putSlot_keeps | with_reducible apply loseSlot_keeps
    | with_reducible refine foldl_keeps (fun s' a' h' => ?_) ?_

theorem moveSlots_keeps {r s : State} (core : Nat) (ks : List Nat) (st : SlotState) (claimant : Option CmdId) (h : Keeps r s) :
    Keeps r (moveSlots s core ks st claimant) := by
  unfold moveSlots
  repeat' first
    | with_reducible assumption | with_reducible apply putSlot_keeps
    | with_reducible refine foldl_keeps (fun s' a' h' => ?_) ?_
    | (intro (s' : State); with_reducible refine keeps_cut (Keeps r s') ?_ ?_)
    | (intro (h' : Keeps r s'); clear_value s') | (intro x') | lift_lets | simp -zeta only [s']
    | simp -zeta only [keeps_mk]

theorem freeSlots_keeps {r s : State} (core : Nat) (ks : List Nat) (h : Keeps r s) :
    Keeps r (freeSlots s core ks) := by
  unfold freeSlots
  repeat' first
    | with_reducible assumption | with_reducible apply putSlot_keeps
    | with_reducible refine foldl_keeps (fun s' a' h' => ?_) ?_

theorem releaseTile_keeps {r s : State} (core : Nat) (t : TileTag) (h : Keeps r s) :
    Keeps r (releaseTile s core t) := by
  unfold releaseTile
  repeat' first
    | with_reducible assumption | with_reducible apply freeSlots_keeps

theorem startJob_keeps {r s : State} (n : Nat) (j : TileJob) (h : Keeps r s) :
    Keeps r (startJob s n j) := by
  unfold startJob
  repeat' first
    | with_reducible assumption | with_reducible apply putSlot_keeps | with_reducible apply putSluice_keeps
    | with_reducible apply allotSlots_keeps | with_reducible refine foldl_keeps (fun s' a' h' => ?_) ?_
    | (intro (s' : State); with_reducible refine keeps_cut (Keeps r s') ?_ ?_)
    | (intro (h' : Keeps r s'); clear_value s') | (intro x') | lift_lets | simp -zeta only [s']
    | simp -zeta only [keeps_mk]

theorem jobSegment_keeps {r s : State} (n : Nat) (c : SlChain) (j : TileJob) (h : Keeps r s) :
    Keeps r (jobSegment s n c j) := by
  unfold jobSegment
  dsimp only
  split
  · exact h
  · have h2 : ∀ u : Bool, Keeps r (progress (match j.slots with
        | [] => takeReads s u (j.reads c.pos c.segEnd)
        | k :: _ => putSlot (takeReads s u (j.reads c.pos c.segEnd)) (64 * j.core + k)
            { getSlot (takeReads s u (j.reads c.pos c.segEnd)) (64 * j.core + k) with
              tile := (getSlot (takeReads s u (j.reads c.pos c.segEnd)) (64 * j.core + k)).tile.map
                (fetchPiece (takeReads s u (j.reads c.pos c.segEnd)) j c.pos c.segEnd) }) c.cmd) := by
      intro u
      refine progress_keeps _ ?_
      split
      · exact takeReads_keeps _ _ h
      · exact putSlot_keeps _ _ (takeReads_keeps _ _ h)
    split
    · exact putSluice_keeps _ _ (h2 _)
    · exact moveSlots_keeps _ _ _ _ (sluiceNext_keeps _ (h2 _))

theorem runSegment_keeps {r s : State} (n : Nat) (h : Keeps r s) :
    KeepsOut r (runSegment s n) := by
  unfold runSegment
  repeat' first
    | with_reducible assumption | with_reducible apply chainSegment_keeps
    | with_reducible apply jobSegment_keeps | with_reducible apply keepsOut_next
    | (intro (s' : State); with_reducible refine keeps_cut (Keeps r s') ?_ ?_)
    | (intro (h' : Keeps r s'); clear_value s') | (intro x') | lift_lets | simp -zeta only [s']
    | simp -zeta only [keeps_mk] | split | with_reducible refine keeps_of_next (by assumption) ?_

theorem setArray_keeps {r s : State} (id : CmdId) (w : ArrayWork) (h : Keeps r s) :
    Keeps r (setArray s id w) := by
  unfold setArray
  repeat' first
    | with_reducible assumption | with_reducible apply setWork_keeps

theorem modItem_keeps {r s : State} (id : CmdId) (idx : Nat) (f : Item → Item) (h : Keeps r s) :
    Keeps r (modItem s id idx f) := by
  unfold modItem
  repeat' first
    | with_reducible assumption | with_reducible apply modCmd_keeps
    | (intro (s' : State); with_reducible refine keeps_cut (Keeps r s') ?_ ?_)
    | (intro (h' : Keeps r s'); clear_value s') | (intro x') | lift_lets | simp -zeta only [s']
    | simp -zeta only [keeps_mk] | (show keyOf _ = keyOf _; rfl) | split | with_reducible apply keeps_map
    | with_reducible apply keeps_filter

theorem noteClass_keeps {r s : State} (core : Nat) (id : CmdId) (h : Keeps r s) :
    Keeps r (noteClass s core id) := by
  unfold noteClass
  repeat' first
    | with_reducible assumption | with_reducible apply putPower_keeps
    | (intro (s' : State); with_reducible refine keeps_cut (Keeps r s') ?_ ?_)
    | (intro (h' : Keeps r s'); clear_value s') | (intro x') | lift_lets | simp -zeta only [s']
    | simp -zeta only [keeps_mk] | split

theorem takeThread_keeps {r s : State} (core : Nat) (id : CmdId) (urgent : Bool) (h : Keeps r s) :
    Keeps r (takeThread s core id urgent) := by
  unfold takeThread
  repeat' first
    | with_reducible assumption | with_reducible apply putCore_keeps | with_reducible apply touchAcc_keeps
    | with_reducible apply noteClass_keeps
    | (intro (s' : State); with_reducible refine keeps_cut (Keeps r s') ?_ ?_)
    | (intro (h' : Keeps r s'); clear_value s') | (intro x') | lift_lets | simp -zeta only [s']
    | simp -zeta only [keeps_mk] | split

theorem takeStrips_keeps {r s : State} (id : CmdId) (idx : Nat) (h : Keeps r s) :
    Keeps r (takeStrips s id idx) := by
  unfold takeStrips
  repeat' first
    | with_reducible assumption | with_reducible apply modItem_keeps
    | (intro (s' : State); with_reducible refine keeps_cut (Keeps r s') ?_ ?_)
    | (intro (h' : Keeps r s'); clear_value s') | (intro x') | lift_lets | simp -zeta only [s']
    | simp -zeta only [keeps_mk] | split

theorem endDiverged_keeps {r s : State} (id : CmdId) (tile : Nat) (h : Keeps r s) :
    Keeps r (endDiverged s id tile) := by
  unfold endDiverged
  repeat' first
    | with_reducible assumption | with_reducible apply logFault_keeps
    | with_reducible refine postEnding_keeps _ _ _ (fun s' c' n' h' => ?_) ?_
    | (intro (s' : State); with_reducible refine keeps_cut (Keeps r s') ?_ ?_)
    | (intro (h' : Keeps r s'); clear_value s') | (intro x') | lift_lets | simp -zeta only [s']
    | simp -zeta only [keeps_mk] | split

theorem meetDigests_keeps {r s : State} (own : Digest) (theirs : Digest) (h : Keeps r s) :
    Keeps r (meetDigests s own theirs) := by
  unfold meetDigests
  repeat' first
    | with_reducible assumption | with_reducible apply routeCtl_keeps | with_reducible apply endDiverged_keeps
    | (intro (s' : State); with_reducible refine keeps_cut (Keeps r s') ?_ ?_)
    | (intro (h' : Keeps r s'); clear_value s') | (intro x') | lift_lets | simp -zeta only [s']
    | simp -zeta only [keeps_mk] | split

theorem ownDigest_keeps {r s : State} (d : Digest) (h : Keeps r s) :
    Keeps r (ownDigest s d) := by
  unfold ownDigest
  repeat' first
    | with_reducible assumption | with_reducible apply routeCtl_keeps | with_reducible apply meetDigests_keeps
    | (intro (s' : State); with_reducible refine keeps_cut (Keeps r s') ?_ ?_)
    | (intro (h' : Keeps r s'); clear_value s') | (intro x') | lift_lets | simp -zeta only [s']
    | simp -zeta only [keeps_mk] | split

theorem theirDigest_keeps {r s : State} (d : Digest) (h : Keeps r s) :
    Keeps r (theirDigest s d) := by
  unfold theirDigest
  repeat' first
    | with_reducible assumption | with_reducible apply meetDigests_keeps
    | (intro (s' : State); with_reducible refine keeps_cut (Keeps r s') ?_ ?_)
    | (intro (h' : Keeps r s'); clear_value s') | (intro x') | lift_lets | simp -zeta only [s']
    | simp -zeta only [keeps_mk] | split

theorem cmdDigest_keeps {r s : State} (id : CmdId) (st : Status) (detail : Nat) (h : Keeps r s) :
    Keeps r (cmdDigest s id st detail) := by
  unfold cmdDigest
  repeat' first
    | with_reducible assumption | with_reducible apply modCmd_keeps | with_reducible apply ownDigest_keeps
    | (intro (s' : State); with_reducible refine keeps_cut (Keeps r s') ?_ ?_)
    | (intro (h' : Keeps r s'); clear_value s') | (intro x') | lift_lets | simp -zeta only [s']
    | simp -zeta only [keeps_mk] | (show keyOf _ = keyOf _; rfl) | split | with_reducible apply keeps_map
    | with_reducible apply keeps_filter

theorem finish_keeps {r s : State} (id : CmdId) (st : Status) (detail : Nat) (h : Keeps r s) :
    Keeps r (finish s id st detail) := by
  unfold finish
  repeat' first
    | with_reducible assumption | with_reducible apply endCmd_keeps | with_reducible apply cmdDigest_keeps

theorem putPass_keeps {r s : State} (core : Nat) (arr : Nat) (id : CmdId) (idx : Nat) (p : PassSpec) (done : Nat) (h : Keeps r s) :
    Keeps r (putPass s core arr id idx p done) := by
  unfold putPass
  repeat' first
    | with_reducible assumption | with_reducible apply putArray_keeps
    | (intro (s' : State); with_reducible refine keeps_cut (Keeps r s') ?_ ?_)
    | (intro (h' : Keeps r s'); clear_value s') | (intro x') | lift_lets | simp -zeta only [s']
    | simp -zeta only [keeps_mk] | split

theorem startPass_keeps {r s : State} (core : Nat) (arr : Nat) (id : CmdId) (h : Keeps r s) :
    Keeps r (startPass s core arr id) := by
  unfold startPass
  repeat' first
    | with_reducible assumption | with_reducible apply putPass_keeps
    | (intro (s' : State); with_reducible refine keeps_cut (Keeps r s') ?_ ?_)
    | (intro (h' : Keeps r s'); clear_value s') | (intro x') | lift_lets | simp -zeta only [s']
    | simp -zeta only [keeps_mk] | split

theorem writeRun_keeps {r s : State} (u : Bool) (fmt : Nat) (a : Nat) (sc : Nat) (c0 : Nat) (codes : List Nat) (scales : List Nat) (h : Keeps r s) :
    Keeps r (writeRun s u fmt a sc c0 codes scales) := by
  unfold writeRun
  repeat' first
    | with_reducible assumption | with_reducible apply writeLe_keeps | with_reducible apply writeElem_keeps
    | with_reducible apply ddrTake_keeps | with_reducible refine foldl_keeps (fun s' a' h' => ?_) ?_
    | (intro (s' : State); with_reducible refine keeps_cut (Keeps r s') ?_ ?_)
    | (intro (h' : Keeps r s'); clear_value s') | (intro x') | lift_lets | simp -zeta only [s']

theorem logOut_keeps {r s : State} (id : CmdId) (idx : Nat) (key : Nat) (b : List Byte) (h : Keeps r s) :
    Keeps r (logOut s id idx key b) := by
  unfold logOut
  repeat' first
    | with_reducible assumption | with_reducible apply modItem_keeps
    | (intro (s' : State); with_reducible refine keeps_cut (Keeps r s') ?_ ?_)
    | (intro (h' : Keeps r s'); clear_value s') | (intro x') | lift_lets | simp -zeta only [s']
    | simp -zeta only [keeps_mk] | split

theorem logRun_keeps {r s : State} (id : CmdId) (idx : Nat) (kind : Nat) (bw : Nat) (row : Nat) (a : Nat) (c0 : Nat) (fmt : Nat) (codes : List Nat) (scales : List Nat) (h : Keeps r s) :
    Keeps r (logRun s id idx kind bw row a c0 fmt codes scales) := by
  unfold logRun
  repeat' first
    | with_reducible assumption | with_reducible apply logOut_keeps
    | with_reducible refine foldl_keeps (fun s' a' h' => ?_) ?_
    | (intro (s' : State); with_reducible refine keeps_cut (Keeps r s') ?_ ?_)
    | (intro (h' : Keeps r s'); clear_value s') | (intro x') | lift_lets | simp -zeta only [s'] | split

theorem writeProduct_keeps {r s : State} (c : Cmd) (w : ArrayWork) (x : Item) (c0 : Nat) (n : Nat) (h : Keeps r s) :
    Keeps r (writeProduct s c w x c0 n) := by
  unfold writeProduct
  repeat' first
    | with_reducible assumption | with_reducible apply writeRun_keeps | with_reducible apply logRun_keeps
    | with_reducible refine foldl_keeps (fun s' a' h' => ?_) ?_
    | (intro (s' : State); with_reducible refine keeps_cut (Keeps r s') ?_ ?_)
    | (intro (h' : Keeps r s'); clear_value s') | (intro x') | lift_lets | simp -zeta only [s']

theorem releaseThreads_keeps {r s : State} (id : CmdId) (h : Keeps r s) :
    Keeps r (releaseThreads s id) := by
  unfold releaseThreads
  repeat' first
    | with_reducible assumption | (intro (s' : State); with_reducible refine keeps_cut (Keeps r s') ?_ ?_)
    | (intro (h' : Keeps r s'); clear_value s') | (intro x') | lift_lets | simp -zeta only [s']
    | simp -zeta only [keeps_mk] | split

theorem freeHeld_keeps {r s : State} (id : CmdId) (x : Item) (h : Keeps r s) :
    Keeps r (freeHeld s id x) := by
  unfold freeHeld
  repeat' first
    | with_reducible assumption | (intro (s' : State); with_reducible refine keeps_cut (Keeps r s') ?_ ?_)
    | (intro (h' : Keeps r s'); clear_value s') | (intro x') | lift_lets | simp -zeta only [s']
    | simp -zeta only [keeps_mk] | split

theorem itemDone_keeps {r s : State} (id : CmdId) (idx : Nat) (h : Keeps r s) :
    Keeps r (itemDone s id idx) := by
  unfold itemDone
  repeat' first
    | with_reducible assumption | with_reducible apply progress_keeps | with_reducible apply setArray_keeps
    | with_reducible apply ownDigest_keeps | with_reducible apply releaseThreads_keeps
    | with_reducible apply freeHeld_keeps
    | (intro (s' : State); with_reducible refine keeps_cut (Keeps r s') ?_ ?_)
    | (intro (h' : Keeps r s'); clear_value s') | (intro x') | split | lift_lets | simp -zeta only [s']
    | simp -zeta only [keeps_mk]

theorem takeBuffer_keeps {r s : State} (c : Channel) (b : Nat) (h : Keeps r s) :
    Keeps r (takeBuffer s c b) := by
  unfold takeBuffer
  repeat' first
    | with_reducible assumption | with_reducible apply writeMem_keeps | with_reducible apply ddrTake_keeps

theorem handOff_keeps {r s : State} (ch : Nat) (part : Nat) (h' : Nat) (i0 : Nat) (p : Nat) (layer : Nat) (codes : List Nat) (scales : List Nat) (h : Keeps r s) :
    KeepsAcc r (handOff s ch part h' i0 p layer codes scales) := by
  unfold handOff
  repeat' first
    | with_reducible assumption | with_reducible apply putChannel_keeps | with_reducible apply writeLe_keeps
    | with_reducible apply writeElem_keeps | with_reducible apply ddrTake_keeps
    | with_reducible apply takeBuffer_keeps | with_reducible apply keepsAcc_taken
    | with_reducible apply keepsAcc_stall | with_reducible refine foldl_keeps (fun s' a' h' => ?_) ?_
    | (intro (s' : State); with_reducible refine keeps_cut (Keeps r s') ?_ ?_)
    | (intro (h' : Keeps r s'); clear_value s') | (intro x'; clear_value x') | lift_lets | simp -zeta only [s']
    | simp -zeta only | split | with_reducible refine keeps_of_taken (by assumption) ?_

theorem noteStall_keeps {r s : State} (ch : Nat) (who : CmdId × Nat) (h : Keeps r s) :
    Keeps r (noteStall s ch who) := by
  unfold noteStall
  repeat' first
    | with_reducible assumption | with_reducible apply putChannel_keeps
    | (intro (s' : State); with_reducible refine keeps_cut (Keeps r s') ?_ ?_)
    | (intro (h' : Keeps r s'); clear_value s') | (intro x') | lift_lets | simp -zeta only [s']
    | simp -zeta only [keeps_mk] | split

theorem endStall_keeps {r s : State} (ch : Nat) (who : CmdId × Nat) (h : Keeps r s) :
    Keeps r (endStall s ch who) := by
  unfold endStall
  repeat' first
    | with_reducible assumption | with_reducible apply putChannel_keeps
    | (intro (s' : State); with_reducible refine keeps_cut (Keeps r s') ?_ ?_)
    | (intro (h' : Keeps r s'); clear_value s') | (intro x') | lift_lets | simp -zeta only [s']
    | simp -zeta only [keeps_mk] | split

theorem deliverRuns_keeps {r s : State} (who : CmdId × Nat) (seed : W64) (x : List HandRun) (y : Nat) (h : Keeps r s) :
    Keeps r (deliverRuns s who seed x y).1 := by
  induction x generalizing s y with
  | nil =>
    unfold deliverRuns
    repeat' first
      | with_reducible assumption | with_reducible apply ih | with_reducible apply handOff_keeps
      | with_reducible apply noteStall_keeps | with_reducible apply endStall_keeps
      | with_reducible apply keepsAcc_taken | with_reducible apply keepsAcc_stall
      | (intro (s' : State); with_reducible refine keeps_cut (Keeps r s') ?_ ?_)
      | (intro (h' : Keeps r s'); clear_value s')
      | (intro (p' : State × _); with_reducible refine keeps_cut (Keeps r p'.1) ?_ ?_)
      | (intro (h' : Keeps r p'.1); clear_value p') | (intro x') | lift_lets | simp -zeta only [s']
      | simp -zeta only [keeps_mk] | split | with_reducible refine keeps_fst (by assumption) ?_
      | with_reducible refine keeps_of_taken (by assumption) ?_
  | cons b t ih =>
    unfold deliverRuns
    repeat' first
      | with_reducible assumption | with_reducible apply ih | with_reducible apply handOff_keeps
      | with_reducible apply noteStall_keeps | with_reducible apply endStall_keeps
      | with_reducible apply keepsAcc_taken | with_reducible apply keepsAcc_stall
      | (intro (s' : State); with_reducible refine keeps_cut (Keeps r s') ?_ ?_)
      | (intro (h' : Keeps r s'); clear_value s')
      | (intro (p' : State × _); with_reducible refine keeps_cut (Keeps r p'.1) ?_ ?_)
      | (intro (h' : Keeps r p'.1); clear_value p') | (intro x') | lift_lets | simp -zeta only [s']
      | simp -zeta only [keeps_mk] | split | with_reducible refine keeps_fst (by assumption) ?_
      | with_reducible refine keeps_of_taken (by assumption) ?_

theorem closeNext_keeps {r s : State}  (h : Keeps r s) :
    KeepsOpt r (closeNext s) := by
  unfold closeNext
  repeat' first
    | with_reducible assumption | with_reducible apply putWindow_keeps | with_reducible apply keepsOpt_some
    | with_reducible apply keepsOpt_none | with_reducible apply keepsOpt_map
    | (intro (s' : State); with_reducible refine keeps_cut (Keeps r s') ?_ ?_)
    | (intro (h' : Keeps r s'); clear_value s') | (intro x') | lift_lets | simp -zeta only [s']
    | simp -zeta only | (show keyOf _ = keyOf _; rfl) | split | with_reducible apply keeps_map
    | with_reducible apply keeps_filter | with_reducible refine keeps_of_some (by assumption) ?_

theorem countRefused_keeps {r s : State} (w : Nat) (h : Keeps r s) :
    Keeps r (countRefused s w) := by
  unfold countRefused
  repeat' first
    | with_reducible assumption | with_reducible apply putWindow_keeps
    | (intro (s' : State); with_reducible refine keeps_cut (Keeps r s') ?_ ?_)
    | (intro (h' : Keeps r s'); clear_value s') | (intro x') | lift_lets | simp -zeta only [s']
    | simp -zeta only [keeps_mk] | split

theorem writeRows_keeps {r s : State} (base : Nat) (k : Packet) (h : Keeps r s) :
    Keeps r (writeRows s base k) := by
  unfold writeRows
  repeat' first
    | with_reducible assumption | with_reducible apply writeMem_keeps | with_reducible apply ddrTake_keeps
    | with_reducible refine foldl_keeps (fun s' a' h' => ?_) ?_
    | (intro (s' : State); with_reducible refine keeps_cut (Keeps r s') ?_ ?_)
    | (intro (h' : Keeps r s'); clear_value s') | (intro x') | lift_lets | simp -zeta only [s']

theorem passMcast_keeps {r s : State} (k : Packet) (ingress : Option Ingress) (h : Keeps r s) :
    Keeps r (passMcast s k ingress) := by
  unfold passMcast
  repeat' first
    | with_reducible assumption | with_reducible apply passWrite_keeps
    | (intro (s' : State); with_reducible refine keeps_cut (Keeps r s') ?_ ?_)
    | (intro (h' : Keeps r s'); clear_value s') | (intro x') | lift_lets | simp -zeta only [s']
    | simp -zeta only [keeps_mk] | split

theorem applyDue_keeps {r s : State} (x : FlowDue) (h : Keeps r s) :
    Keeps r (applyDue s x) := by
  unfold applyDue
  repeat' first
    | with_reducible assumption | with_reducible apply addEvent_keeps | with_reducible apply routePacket_keeps
    | with_reducible apply passMcast_keeps
    | (intro (s' : State); with_reducible refine keeps_cut (Keeps r s') ?_ ?_)
    | (intro (h' : Keeps r s'); clear_value s') | (intro x') | lift_lets | simp -zeta only [s']
    | simp -zeta only [keeps_mk] | split

theorem flowSignals_keeps {r s : State} (key : Nat) (h : Keeps r s) :
    Keeps r (flowSignals s key) := by
  unfold flowSignals
  repeat' first
    | with_reducible assumption | with_reducible apply putFlowRx_keeps | with_reducible apply applyDue_keeps
    | with_reducible refine foldl_keeps (fun s' a' h' => ?_) ?_
    | (intro (s' : State); with_reducible refine keeps_cut (Keeps r s') ?_ ?_)
    | (intro (h' : Keeps r s'); clear_value s') | (intro x') | lift_lets | simp -zeta only [s']
    | simp -zeta only [keeps_mk]

theorem flowLand_keeps {r s : State} (src : BitVec 12) (vc : Nat) (q : Nat) (due : List FlowDue) (h : Keeps r s) :
    Keeps r (flowLand s src vc q due) := by
  unfold flowLand
  repeat' first
    | with_reducible assumption | with_reducible apply routeCtl_keeps | with_reducible apply putFlowRx_keeps
    | with_reducible apply flowSignals_keeps
    | (intro (s' : State); with_reducible refine keeps_cut (Keeps r s') ?_ ?_)
    | (intro (h' : Keeps r s'); clear_value s') | (intro x') | lift_lets | simp -zeta only [s']
    | simp -zeta only [keeps_mk] | split

theorem flowDone_keeps {r s : State} (k : Packet) (due : List FlowDue) (h : Keeps r s) :
    Keeps r (flowDone s k due) := by
  unfold flowDone
  repeat' first
    | with_reducible assumption | with_reducible apply flowLand_keeps

theorem refuseWrite_keeps {r s : State} (k : Packet) (dst : BitVec 12) (reason : Nat) (h : Keeps r s) :
    Keeps r (refuseWrite s k dst reason) := by
  unfold refuseWrite
  repeat' first
    | with_reducible assumption | with_reducible apply routeCtl_keeps
    | with_reducible apply countRefused_keeps | with_reducible apply flowDone_keeps
    | (intro (s' : State); with_reducible refine keeps_cut (Keeps r s') ?_ ?_)
    | (intro (h' : Keeps r s'); clear_value s') | (intro x') | lift_lets | simp -zeta only [s']
    | simp -zeta only [keeps_mk]

theorem countRecv_keeps {r s : State} (k : Packet) (h : Keeps r s) :
    Keeps r (countRecv s k) := by
  unfold countRecv
  repeat' first
    | with_reducible assumption | with_reducible apply modCmd_keeps | with_reducible apply progress_keeps
    | (intro (s' : State); with_reducible refine keeps_cut (Keeps r s') ?_ ?_)
    | (intro (h' : Keeps r s'); clear_value s') | (intro x') | lift_lets | simp -zeta only [s']
    | simp -zeta only [keeps_mk] | (show keyOf _ = keyOf _; rfl) | split | with_reducible apply keeps_map
    | with_reducible apply keeps_filter

theorem landWrite_keeps {r s : State} (base : Nat) (k : Packet) (h : Keeps r s) :
    Keeps r (landWrite s base k) := by
  unfold landWrite
  repeat' first
    | with_reducible assumption | with_reducible apply writeRows_keeps | with_reducible apply flowDone_keeps
    | with_reducible apply countRecv_keeps | split

theorem sendRows_keeps {r s : State} (id : CmdId) (urgent : Bool) (w : SendWork) (t : Target) (rows : Nat) (h : Keeps r s) :
    Keeps r (sendRows s id urgent w t rows) := by
  unfold sendRows
  repeat' first
    | with_reducible assumption | with_reducible apply sendWrite_keeps | with_reducible apply ddrTake_keeps
    | with_reducible apply exhaustAll_keeps | with_reducible refine foldl_keeps (fun s' a' h' => ?_) ?_
    | (intro (s' : State); with_reducible refine keeps_cut (Keeps r s') ?_ ?_)
    | (intro (h' : Keeps r s'); clear_value s') | (intro x') | lift_lets | simp -zeta only [s']
    | simp -zeta only [keeps_mk] | split

theorem sendRts_keeps {r s : State} (id : CmdId) (w : SendWork) (h : Keeps r s) :
    Keeps r (sendRts s id w) := by
  unfold sendRts
  repeat' first
    | with_reducible assumption | with_reducible apply modCmd_keeps | with_reducible apply routePacket_keeps
    | (intro (s' : State); with_reducible refine keeps_cut (Keeps r s') ?_ ?_)
    | (intro (h' : Keeps r s'); clear_value s') | (intro x') | lift_lets | simp -zeta only [s']
    | simp -zeta only [keeps_mk] | (show keyOf _ = keyOf _; rfl) | with_reducible apply keeps_map
    | with_reducible apply keeps_filter

theorem matchRts_keeps {r s : State} (c : Cmd) (r' : Rts) (h : Keeps r s) :
    Keeps r (matchRts s c r') := by
  unfold matchRts
  repeat' first
    | with_reducible assumption | with_reducible apply modCmd_keeps | with_reducible apply routePacket_keeps
    | (intro (s' : State); with_reducible refine keeps_cut (Keeps r s') ?_ ?_)
    | (intro (h' : Keeps r s'); clear_value s') | (intro x') | lift_lets | simp -zeta only [s']
    | simp -zeta only [keeps_mk] | (show keyOf _ = keyOf _; rfl) | split | with_reducible apply keeps_map
    | with_reducible apply keeps_filter

theorem pushEpi_keeps {r s : State} (core : Nat) (es : List Epi) (h : Keeps r s) :
    Keeps r (pushEpi s core es) := by
  unfold pushEpi
  repeat' first
    | with_reducible assumption | with_reducible apply putCore_keeps
    | (intro (s' : State); with_reducible refine keeps_cut (Keeps r s') ?_ ?_)
    | (intro (h' : Keeps r s'); clear_value s') | (intro x') | lift_lets | simp -zeta only [s']
    | simp -zeta only [keeps_mk]

theorem commitEpi_keeps {r s : State} (core : Nat) (e : Epi) (h : Keeps r s) :
    Keeps r (commitEpi s core e) := by
  unfold commitEpi
  repeat' first
    | with_reducible assumption | with_reducible apply putCore_keeps
    | (intro (s' : State); with_reducible refine keeps_cut (Keeps r s') ?_ ?_)
    | (intro (h' : Keeps r s'); clear_value s') | (intro x') | lift_lets | simp -zeta only [s']
    | simp -zeta only [keeps_mk] | split

theorem beginItem_keeps {r s : State} (c : Cmd) (w : ArrayWork) (x : Item) (h : Keeps r s) :
    Keeps r (beginItem s c w x) := by
  unfold beginItem
  repeat' first
    | with_reducible assumption | with_reducible apply pushEpi_keeps
    | (intro (s' : State); with_reducible refine keeps_cut (Keeps r s') ?_ ?_)
    | (intro (h' : Keeps r s'); clear_value s') | (intro x') | lift_lets | simp -zeta only [s']
    | simp -zeta only [keeps_mk] | split

theorem queueEpi_keeps {r s : State} (c : Cmd) (w : ArrayWork) (x : Item) (committed : Nat) (h : Keeps r s) :
    Keeps r (queueEpi s c w x committed) := by
  unfold queueEpi
  repeat' first
    | with_reducible assumption | with_reducible apply modItem_keeps | with_reducible apply commitEpi_keeps
    | (intro (s' : State); with_reducible refine keeps_cut (Keeps r s') ?_ ?_)
    | (intro (h' : Keeps r s'); clear_value s') | (intro x') | lift_lets | simp -zeta only [s']
    | simp -zeta only [keeps_mk] | split

theorem readStream_keeps {r s : State} (c : Cmd) (w : ArrayWork) (x : Item) (core : Nat) (pos : Nat) (rs : List (Nat × Nat)) (h : Keeps r s) :
    Keeps r (readStream s c w x core pos rs) := by
  unfold readStream
  repeat' first
    | with_reducible assumption | with_reducible apply takeReads_keeps | with_reducible apply setArray_keeps
    | (intro (s' : State); with_reducible refine keeps_cut (Keeps r s') ?_ ?_)
    | (intro (h' : Keeps r s'); clear_value s') | (intro x') | lift_lets | simp -zeta only [s']
    | simp -zeta only [keeps_mk] | split

theorem endClaim_keeps {r s : State} (w : ArrayWork) (id : CmdId) (x : Item) (l : LoadSpec) (rest : List PassSpec) (h : Keeps r s) :
    Keeps r (endClaim s w id x l rest) := by
  unfold endClaim
  repeat' first
    | with_reducible assumption | with_reducible apply moveSlots_keeps | with_reducible apply freeSlots_keeps
    | with_reducible apply releaseTile_keeps | with_reducible apply modItem_keeps
    | (intro (s' : State); with_reducible refine keeps_cut (Keeps r s') ?_ ?_)
    | (intro (h' : Keeps r s'); clear_value s') | (intro x') | lift_lets | simp -zeta only [s']
    | simp -zeta only [keeps_mk] | split

theorem blockDone_keeps {r s : State} (core : Nat) (arr : Nat) (q : Pass) (n : Nat) (halt : Bool) (h : Keeps r s) :
    Keeps r (blockDone s core arr q n halt) := by
  unfold blockDone
  repeat' first
    | with_reducible assumption | with_reducible apply putArray_keeps
    | (intro (s' : State); with_reducible refine keeps_cut (Keeps r s') ?_ ?_)
    | (intro (h' : Keeps r s'); clear_value s') | (intro x') | lift_lets | simp -zeta only [s']
    | simp -zeta only [keeps_mk] | split

theorem gemmOut_keeps {r s : State} (c : Cmd) (w : ArrayWork) (x : Item) (p : Prod) (upto : Nat) (h : Keeps r s) :
    Keeps r (gemmOut s c w x p upto) := by
  unfold gemmOut
  repeat' first
    | with_reducible assumption | with_reducible apply modItem_keeps | with_reducible apply writeProduct_keeps
    | with_reducible apply itemDone_keeps
    | (intro (s' : State); with_reducible refine keeps_cut (Keeps r s') ?_ ?_)
    | (intro (h' : Keeps r s'); clear_value s') | (intro x') | lift_lets | simp -zeta only [s']
    | simp -zeta only [keeps_mk] | split

theorem writeRcol_keeps {r s : State} (u : Bool) (id : CmdId) (x : Item) (e : StageEnv) (bw : Nat) (ep : Epi) (outs : List (RowIn × RowOut)) (h : Keeps r s) :
    Keeps r (writeRcol s u id x e bw ep outs) := by
  unfold writeRcol
  repeat' first
    | with_reducible assumption | with_reducible apply writeMem_keeps | with_reducible apply ddrTake_keeps
    | with_reducible apply logRun_keeps | with_reducible refine foldl_keeps (fun s' a' h' => ?_) ?_
    | (intro (s' : State); with_reducible refine keeps_cut (Keeps r s') ?_ ?_)
    | (intro (h' : Keeps r s'); clear_value s') | (intro x') | lift_lets | simp -zeta only [s']

theorem sendPeer_keeps {r s : State} (id : CmdId) (x : Item) (e : StageEnv) (bw : Nat) (c0 : Nat) (outs : List (RowIn × RowOut)) (h : Keeps r s) :
    Keeps r (sendPeer s id x e bw c0 outs) := by
  unfold sendPeer
  repeat' first
    | with_reducible assumption | with_reducible apply sendWrite_keeps | with_reducible apply logRun_keeps
    | with_reducible refine foldl_keeps (fun s' a' h' => ?_) ?_
    | (intro (s' : State); with_reducible refine keeps_cut (Keeps r s') ?_ ?_)
    | (intro (h' : Keeps r s'); clear_value s') | (intro x') | lift_lets | simp -zeta only [s'] | split

theorem spillRun_keeps {r s : State} (u : Bool) (fmt : Nat) (a : Nat) (rows : Nat) (width : Nat) (row : Nat) (c0 : Nat) (codes : List Nat) (scales : List Nat) (h : Keeps r s) :
    Keeps r (spillRun s u fmt a rows width row c0 codes scales) := by
  unfold spillRun
  repeat' first
    | with_reducible assumption | with_reducible apply writeRun_keeps

theorem putResult_keeps {r s : State} (c : Cmd) (w : ArrayWork) (x : Item) (e : StageEnv) (r' : RowIn) (o : RowOut) (h : Keeps r s) :
    Keeps r (putResult s c w x e r' o) := by
  unfold putResult
  repeat' first
    | with_reducible assumption | with_reducible apply modItem_keeps | with_reducible apply writeRun_keeps
    | with_reducible apply logRun_keeps | with_reducible apply spillRun_keeps
    | with_reducible refine foldl_keeps (fun s' a' h' => ?_) ?_
    | (intro (s' : State); with_reducible refine keeps_cut (Keeps r s') ?_ ?_)
    | (intro (h' : Keeps r s'); clear_value s') | (intro x') | lift_lets | simp -zeta only [s']
    | simp -zeta only [keeps_mk] | split

theorem claimArea_keeps {r s : State} (core : Nat) (c : Cmd) (w : ArrayWork) (x : Item) (k : EpiKind) (h : Keeps r s) :
    KeepsOpt r (claimArea s core c w x k) := by
  unfold claimArea
  repeat' first
    | with_reducible assumption | with_reducible apply allotSlots_keeps | with_reducible apply moveSlots_keeps
    | with_reducible apply modItem_keeps | with_reducible apply keepsOpt_some
    | with_reducible apply keepsOpt_none | with_reducible apply keepsOpt_map
    | (intro (s' : State); with_reducible refine keeps_cut (Keeps r s') ?_ ?_)
    | (intro (h' : Keeps r s'); clear_value s') | (intro x') | lift_lets | simp -zeta only [s']
    | simp -zeta only [keeps_mk] | split | with_reducible refine keeps_of_some (by assumption) ?_

theorem stageEnd_keeps {r s : State} (c : Cmd) (w : ArrayWork) (idx : Nat) (e : StageEnv) (ep : Epi) (h : Keeps r s) :
    Keeps r (stageEnd s c w idx e ep) := by
  unfold stageEnd
  repeat' first
    | with_reducible assumption | with_reducible apply moveSlots_keeps | with_reducible apply modItem_keeps
    | with_reducible apply finish_keeps | with_reducible apply itemDone_keeps
    | with_reducible apply pushEpi_keeps
    | (intro (s' : State); with_reducible refine keeps_cut (Keeps r s') ?_ ?_)
    | (intro (h' : Keeps r s'); clear_value s') | (intro x') | lift_lets | simp -zeta only [s']
    | simp -zeta only [keeps_mk] | split

theorem modHead_keeps {r s : State} (core : Nat) (f : Epi → Epi) (h : Keeps r s) :
    Keeps r (modHead s core f) := by
  unfold modHead
  repeat' first
    | with_reducible assumption | with_reducible apply putCore_keeps
    | (intro (s' : State); with_reducible refine keeps_cut (Keeps r s') ?_ ?_)
    | (intro (h' : Keeps r s'); clear_value s') | (intro x') | lift_lets | simp -zeta only [s']
    | simp -zeta only [keeps_mk] | split

theorem popEpi_keeps {r s : State} (core : Nat) (h : Keeps r s) :
    Keeps r (popEpi s core) := by
  unfold popEpi
  repeat' first
    | with_reducible assumption | with_reducible apply putCore_keeps
    | (intro (s' : State); with_reducible refine keeps_cut (Keeps r s') ?_ ?_)
    | (intro (h' : Keeps r s'); clear_value s') | (intro x') | lift_lets | simp -zeta only [s']
    | simp -zeta only [keeps_mk]

theorem runProgram_keeps {r s : State} (core : Nat) (c : Cmd) (w : ArrayWork) (x : Item) (ep : Epi) (h : Keeps r s) :
    KeepsOut r (runProgram s core c w x ep) := by
  unfold runProgram
  repeat' first
    | with_reducible assumption | with_reducible apply progress_keeps | with_reducible apply takeReads_keeps
    | with_reducible apply modItem_keeps | with_reducible apply logRun_keeps
    | with_reducible apply deliverRuns_keeps | with_reducible apply writeRcol_keeps
    | with_reducible apply sendPeer_keeps | with_reducible apply putResult_keeps
    | with_reducible apply claimArea_keeps | with_reducible apply stageEnd_keeps
    | with_reducible apply modHead_keeps | with_reducible apply popEpi_keeps
    | with_reducible apply keepsOut_next | with_reducible apply keepsOut_fault
    | with_reducible apply keepsOpt_some | with_reducible apply keepsOpt_none
    | with_reducible refine foldl_keeps (fun s' a' h' => ?_) ?_ | with_reducible apply keepsOpt_map
    | (intro (s' : State); with_reducible refine keeps_cut (Keeps r s') ?_ ?_)
    | (intro (h' : Keeps r s'); clear_value s')
    | (intro (p' : State × _); with_reducible refine keeps_cut (Keeps r p'.1) ?_ ?_)
    | (intro (h' : Keeps r p'.1); clear_value p') | (intro x') | lift_lets | simp -zeta only [s']
    | simp -zeta only [keeps_mk] | split | with_reducible refine keeps_fst (by assumption) ?_
    | with_reducible refine keeps_of_some (by assumption) ?_
    | with_reducible refine keeps_of_next (by assumption) ?_

theorem attFeed_keeps {r s : State} (c : Cmd) (w : ArrayWork) (idx : Nat) (h : Keeps r s) :
    Keeps r (attFeed s c w idx) := by
  unfold attFeed
  repeat' first
    | with_reducible assumption | with_reducible apply modItem_keeps
    | (intro (s' : State); with_reducible refine keeps_cut (Keeps r s') ?_ ?_)
    | (intro (h' : Keeps r s'); clear_value s') | (intro x') | lift_lets | simp -zeta only [s']
    | simp -zeta only [keeps_mk] | split

theorem attNext_keeps {r s : State} (c : Cmd) (w : ArrayWork) (idx : Nat) (h : Keeps r s) :
    Keeps r (attNext s c w idx) := by
  unfold attNext
  repeat' first
    | with_reducible assumption | with_reducible apply modItem_keeps | with_reducible apply pushEpi_keeps
    | with_reducible apply attFeed_keeps
    | (intro (s' : State); with_reducible refine keeps_cut (Keeps r s') ?_ ?_)
    | (intro (h' : Keeps r s'); clear_value s') | (intro x') | lift_lets | simp -zeta only [s']
    | simp -zeta only [keeps_mk] | split

theorem attBegin_keeps {r s : State} (c : Cmd) (w : ArrayWork) (x : Item) (h : Keeps r s) :
    Keeps r (attBegin s c w x) := by
  unfold attBegin
  repeat' first
    | with_reducible assumption | with_reducible apply pushEpi_keeps
    | (intro (s' : State); with_reducible refine keeps_cut (Keeps r s') ?_ ?_)
    | (intro (h' : Keeps r s'); clear_value s') | (intro x') | lift_lets | simp -zeta only [s'] | split

theorem putScores_keeps {r s : State} (c : Cmd) (w : ArrayWork) (x : Item) (tile : Tile) (b : Nat) (n0 : Nat) (n : Nat) (h : Keeps r s) :
    Keeps r (putScores s c w x tile b n0 n) := by
  unfold putScores
  repeat' first
    | with_reducible assumption | with_reducible apply putCore_keeps
    | (intro (s' : State); with_reducible refine keeps_cut (Keeps r s') ?_ ?_)
    | (intro (h' : Keeps r s'); clear_value s') | (intro x') | lift_lets | simp -zeta only [s']
    | simp -zeta only [keeps_mk] | split

theorem phaseAWrite_keeps {r s : State} (c : Cmd) (w : ArrayWork) (x : Item) (q : SeqDesc) (h : Keeps r s) :
    Keeps r (phaseAWrite s c w x q) := by
  unfold phaseAWrite
  repeat' first
    | with_reducible assumption | with_reducible apply writeRun_keeps | with_reducible apply logRun_keeps
    | with_reducible refine foldl_keeps (fun s' a' h' => ?_) ?_
    | (intro (s' : State); with_reducible refine keeps_cut (Keeps r s') ?_ ?_)
    | (intro (h' : Keeps r s'); clear_value s') | (intro x') | lift_lets | simp -zeta only [s']

theorem attendTurn_keeps {r s : State} (id : CmdId) (h : Keeps r s) :
    Keeps r (attendTurn s id) := by
  unfold attendTurn
  repeat' first
    | with_reducible assumption | with_reducible apply setArray_keeps
    | (intro (s' : State); with_reducible refine keeps_cut (Keeps r s') ?_ ?_)
    | (intro (h' : Keeps r s'); clear_value s') | (intro x') | lift_lets | simp -zeta only [s']
    | simp -zeta only [keeps_mk] | split

theorem runSoftmax_keeps {r s : State} (core : Nat) (c : Cmd) (w : ArrayWork) (x : Item) (b : Nat) (h : Keeps r s) :
    Keeps r (runSoftmax s core c w x b) := by
  unfold runSoftmax
  repeat' first
    | with_reducible assumption | with_reducible apply progress_keeps | with_reducible apply takeReads_keeps
    | with_reducible apply moveSlots_keeps | with_reducible apply modItem_keeps
    | with_reducible apply popEpi_keeps | with_reducible apply attNext_keeps
    | with_reducible refine foldl_keeps (fun s' a' h' => ?_) ?_
    | (intro (s' : State); with_reducible refine keeps_cut (Keeps r s') ?_ ?_)
    | (intro (h' : Keeps r s'); clear_value s') | (intro x') | lift_lets | simp -zeta only [s']
    | simp -zeta only [keeps_mk] | split

theorem runCombine_keeps {r s : State} (core : Nat) (c : Cmd) (w : ArrayWork) (x : Item) (b : Nat) (h : Keeps r s) :
    Keeps r (runCombine s core c w x b) := by
  unfold runCombine
  repeat' first
    | with_reducible assumption | with_reducible apply progress_keeps | with_reducible apply modItem_keeps
    | with_reducible apply popEpi_keeps | with_reducible apply attNext_keeps
    | with_reducible refine foldl_keeps (fun s' a' h' => ?_) ?_
    | (intro (s' : State); with_reducible refine keeps_cut (Keeps r s') ?_ ?_)
    | (intro (h' : Keeps r s'); clear_value s') | (intro x') | lift_lets | simp -zeta only [s']
    | simp -zeta only [keeps_mk]

theorem writeAttend_keeps {r s : State} (c : Cmd) (w : ArrayWork) (x : Item) (h : Keeps r s) :
    Keeps r (writeAttend s c w x) := by
  unfold writeAttend
  repeat' first
    | with_reducible assumption | with_reducible apply writeMem_keeps | with_reducible apply ddrTake_keeps
    | with_reducible apply writeRun_keeps | with_reducible apply logOut_keeps
    | with_reducible apply logRun_keeps | with_reducible refine foldl_keeps (fun s' a' h' => ?_) ?_
    | (intro (s' : State); with_reducible refine keeps_cut (Keeps r s') ?_ ?_)
    | (intro (h' : Keeps r s'); clear_value s') | (intro x') | lift_lets | simp -zeta only [s']
    | simp -zeta only [keeps_mk] | split

theorem runAttend_keeps {r s : State} (core : Nat) (c : Cmd) (w : ArrayWork) (x : Item) (ep : Epi) (h : Keeps r s) :
    Keeps r (runAttend s core c w x ep) := by
  unfold runAttend
  repeat' first
    | with_reducible assumption | with_reducible apply progress_keeps | with_reducible apply takeReads_keeps
    | with_reducible apply modItem_keeps | with_reducible apply logRun_keeps
    | with_reducible apply itemDone_keeps | with_reducible apply deliverRuns_keeps
    | with_reducible apply modHead_keeps | with_reducible apply popEpi_keeps
    | with_reducible apply attNext_keeps | with_reducible apply phaseAWrite_keeps
    | with_reducible apply attendTurn_keeps | with_reducible apply runSoftmax_keeps
    | with_reducible apply runCombine_keeps | with_reducible apply writeAttend_keeps
    | with_reducible refine foldl_keeps (fun s' a' h' => ?_) ?_
    | (intro (s' : State); with_reducible refine keeps_cut (Keeps r s') ?_ ?_)
    | (intro (h' : Keeps r s'); clear_value s')
    | (intro (p' : State × _); with_reducible refine keeps_cut (Keeps r p'.1) ?_ ?_)
    | (intro (h' : Keeps r p'.1); clear_value p') | (intro x') | lift_lets | simp -zeta only [s']
    | simp -zeta only [keeps_mk] | split | with_reducible refine keeps_fst (by assumption) ?_

theorem loadTile_keeps {r s : State} (core : Nat) (arr : Nat) (id : CmdId) (h : Keeps r s) :
    Keeps r (loadTile s core arr id) := by
  unfold loadTile
  repeat' first
    | with_reducible assumption | with_reducible apply putArray_keeps | with_reducible apply moveSlots_keeps
    | (intro (s' : State); with_reducible refine keeps_cut (Keeps r s') ?_ ?_)
    | (intro (h' : Keeps r s'); clear_value s') | (intro x') | lift_lets | simp -zeta only [s']
    | simp -zeta only [keeps_mk] | split

theorem tileNext_keeps {r s : State}  (h : Keeps r s) :
    KeepsOpt r (tileNext s) := by
  unfold tileNext
  repeat' first
    | with_reducible assumption | with_reducible apply startJob_keeps | with_reducible apply keepsOpt_some
    | with_reducible apply keepsOpt_none | with_reducible apply keepsOpt_map
    | with_reducible apply keepsOpt_findSome | (intro a')
    | (intro (s' : State); with_reducible refine keeps_cut (Keeps r s') ?_ ?_)
    | (intro (h' : Keeps r s'); clear_value s') | (intro x') | lift_lets | simp -zeta only [s']
    | simp -zeta only [keeps_mk] | (show keyOf _ = keyOf _; rfl) | split | with_reducible apply keeps_map
    | with_reducible apply keeps_filter | with_reducible refine keeps_of_some (by assumption) ?_

theorem takeProbSlots_keeps {r s : State} (c : Cmd) (w : ArrayWork) (x : Item) (h : Keeps r s) :
    Keeps r (takeProbSlots s c w x) := by
  unfold takeProbSlots
  repeat' first
    | with_reducible assumption | with_reducible apply allotSlots_keeps | with_reducible apply modItem_keeps
    | (intro (s' : State); with_reducible refine keeps_cut (Keeps r s') ?_ ?_)
    | (intro (h' : Keeps r s'); clear_value s') | (intro x') | lift_lets | simp -zeta only [s']
    | simp -zeta only [keeps_mk] | split

theorem beginAny_keeps {r s : State} (c : Cmd) (w : ArrayWork) (x : Item) (h : Keeps r s) :
    Keeps r (beginAny s c w x) := by
  unfold beginAny
  repeat' first
    | with_reducible assumption | with_reducible apply beginItem_keeps | with_reducible apply attBegin_keeps
    | with_reducible apply takeProbSlots_keeps | split

theorem requestWork_keeps {r s : State} (id : CmdId) (j : Nat) (h : Keeps r s) :
    KeepsOut r (requestWork s id j) := by
  unfold requestWork
  repeat' first
    | with_reducible assumption | with_reducible apply takeReads_keeps | with_reducible apply exhaustAll_keeps
    | with_reducible apply setArray_keeps | with_reducible apply takeThread_keeps
    | with_reducible apply releaseThreads_keeps | with_reducible apply beginAny_keeps
    | with_reducible apply keepsOut_next | with_reducible apply keepsOut_fault
    | with_reducible refine foldl_keeps (fun s' a' h' => ?_) ?_ | with_reducible apply keepsOpt_findSome
    | (intro a') | (intro (s' : State); with_reducible refine keeps_cut (Keeps r s') ?_ ?_)
    | (intro (h' : Keeps r s'); clear_value s') | (intro x') | split | lift_lets | simp -zeta only [s']
    | simp -zeta only [keeps_mk] | with_reducible refine keeps_of_next (by assumption) ?_

theorem writeBlock_keeps {r s : State} (core : Nat) (arr : Nat) (c : Cmd) (w : ArrayWork) (x : Item) (q : Pass) (tile : Tile) (h : Keeps r s) :
    Keeps r (writeBlock s core arr c w x q tile) := by
  unfold writeBlock
  repeat' first
    | with_reducible assumption | with_reducible apply putArray_keeps | with_reducible apply modItem_keeps
    | with_reducible apply putScores_keeps
    | (intro (s' : State); with_reducible refine keeps_cut (Keeps r s') ?_ ?_)
    | (intro (h' : Keeps r s'); clear_value s') | (intro x') | lift_lets | simp -zeta only [s']
    | simp -zeta only [keeps_mk] | split

theorem undoBlock_keeps {r s : State} (core : Nat) (arr : Nat) (w : ArrayWork) (q : Pass) (h : Keeps r s) :
    Keeps r (undoBlock s core arr w q) := by
  unfold undoBlock
  repeat' first
    | with_reducible assumption | with_reducible apply modItem_keeps
    | (intro (s' : State); with_reducible refine keeps_cut (Keeps r s') ?_ ?_)
    | (intro (h' : Keeps r s'); clear_value s') | (intro x') | lift_lets | simp -zeta only [s']
    | simp -zeta only [keeps_mk] | split

theorem keepBlock_keeps {r s : State} (core : Nat) (arr : Nat) (w : ArrayWork) (q : Pass) (h : Keeps r s) :
    Keeps r (keepBlock s core arr w q) := by
  unfold keepBlock
  repeat' first
    | with_reducible assumption | with_reducible apply putCore_keeps
    | with_reducible refine foldl_keeps (fun s' a' h' => ?_) ?_
    | (intro (s' : State); with_reducible refine keeps_cut (Keeps r s') ?_ ?_)
    | (intro (h' : Keeps r s'); clear_value s') | (intro x') | lift_lets | simp -zeta only [s']
    | simp -zeta only [keeps_mk] | split

theorem commitProduct_keeps {r s : State} (core : Nat) (arr : Nat) (c : Cmd) (w : ArrayWork) (x : Item) (q : Pass) (tile : Tile) (halt : Bool) (h : Keeps r s) :
    Keeps r (commitProduct s core arr c w x q tile halt) := by
  unfold commitProduct
  repeat' first
    | with_reducible assumption | with_reducible apply progress_keeps | with_reducible apply takeReads_keeps
    | with_reducible apply modItem_keeps | with_reducible apply queueEpi_keeps
    | with_reducible apply readStream_keeps | with_reducible apply endClaim_keeps
    | with_reducible apply blockDone_keeps | with_reducible apply gemmOut_keeps
    | with_reducible apply writeBlock_keeps | with_reducible apply keepBlock_keeps
    | (intro (s' : State); with_reducible refine keeps_cut (Keeps r s') ?_ ?_)
    | (intro (h' : Keeps r s'); clear_value s') | (intro x') | lift_lets | simp -zeta only [s']
    | simp -zeta only [keeps_mk] | split

theorem commitAttend_keeps {r s : State} (core : Nat) (arr : Nat) (c : Cmd) (w : ArrayWork) (x : Item) (q : Pass) (tile : Tile) (halt : Bool) (h : Keeps r s) :
    Keeps r (commitAttend s core arr c w x q tile halt) := by
  unfold commitAttend
  repeat' first
    | with_reducible assumption | with_reducible apply progress_keeps | with_reducible apply takeReads_keeps
    | with_reducible apply modItem_keeps | with_reducible apply commitEpi_keeps
    | with_reducible apply endClaim_keeps | with_reducible apply blockDone_keeps
    | with_reducible apply attFeed_keeps | with_reducible apply writeBlock_keeps
    | with_reducible apply keepBlock_keeps
    | (intro (s' : State); with_reducible refine keeps_cut (Keeps r s') ?_ ?_)
    | (intro (h' : Keeps r s'); clear_value s') | (intro x') | lift_lets | simp -zeta only [s'] | split

theorem commitBlock_keeps {r s : State} (core : Nat) (arr : Nat) (h : Keeps r s) :
    Keeps r (commitBlock s core arr) := by
  unfold commitBlock
  split
  · exact h
  · dsimp only
    split
    · exact h
    · split
      · exact commitAttend_keeps _ _ _ _ _ _ _ _ (takeSlot_keeps _ _ h)
      · exact commitProduct_keeps _ _ _ _ _ _ _ _ (takeSlot_keeps _ _ h)

theorem headUp_keeps {r s : State} (core : Nat) (h : Keeps r s) :
    Keeps r (headUp s core) := by
  unfold headUp
  repeat' first
    | with_reducible assumption | with_reducible apply putCore_keeps
    | (intro (s' : State); with_reducible refine keeps_cut (Keeps r s') ?_ ?_)
    | (intro (h' : Keeps r s'); clear_value s') | (intro x') | lift_lets | simp -zeta only [s']
    | simp -zeta only [keeps_mk] | split

theorem runEpilogue_keeps {r s : State} (core : Nat) (h : Keeps r s) :
    KeepsOut r (runEpilogue s core) := by
  unfold runEpilogue
  repeat' first
    | with_reducible assumption | with_reducible apply runProgram_keeps | with_reducible apply runAttend_keeps
    | with_reducible apply headUp_keeps | with_reducible apply keepsOut_next
    | (intro (s' : State); with_reducible refine keeps_cut (Keeps r s') ?_ ?_)
    | (intro (h' : Keeps r s'); clear_value s') | (intro x') | lift_lets | simp -zeta only [s']
    | simp -zeta only [keeps_mk] | split | with_reducible refine keeps_of_next (by assumption) ?_

theorem vacantNext_keeps {r s : State}  (h : Keeps r s) :
    KeepsOpt r (vacantNext s) := by
  unfold vacantNext
  repeat' first
    | with_reducible assumption | with_reducible apply runSoftmax_keeps
    | with_reducible apply runCombine_keeps | with_reducible apply keepsOpt_some
    | with_reducible apply keepsOpt_none | with_reducible apply keepsOpt_map
    | with_reducible apply keepsOpt_findSome | (intro a')
    | (intro (s' : State); with_reducible refine keeps_cut (Keeps r s') ?_ ?_)
    | (intro (h' : Keeps r s'); clear_value s') | (intro x') | lift_lets | simp -zeta only [s']
    | simp -zeta only [keeps_mk] | split | with_reducible refine keeps_of_some (by assumption) ?_

theorem stripNext_keeps {r s : State}  (h : Keeps r s) :
    KeepsOpt r (stripNext s) := by
  unfold stripNext
  repeat' first
    | with_reducible assumption | with_reducible apply takeStrips_keeps | with_reducible apply keepsOpt_some
    | with_reducible apply keepsOpt_none | with_reducible apply keepsOpt_map
    | with_reducible apply keepsOpt_findSome | (intro a')
    | (intro (s' : State); with_reducible refine keeps_cut (Keeps r s') ?_ ?_)
    | (intro (h' : Keeps r s'); clear_value s') | (intro x') | lift_lets | simp -zeta only [s']
    | simp -zeta only [keeps_mk] | (show keyOf _ = keyOf _; rfl) | split | with_reducible apply keeps_map
    | with_reducible apply keeps_filter | with_reducible refine keeps_of_some (by assumption) ?_

theorem resumeWatch_keeps {r s : State} (id : CmdId) (h : Keeps r s) :
    Keeps r (resumeWatch s id) := by
  unfold resumeWatch
  repeat' first
    | with_reducible assumption | with_reducible apply modCmd_keeps | with_reducible apply progress_keeps
    | (intro (s' : State); with_reducible refine keeps_cut (Keeps r s') ?_ ?_)
    | (intro (h' : Keeps r s'); clear_value s') | (intro x') | lift_lets | simp -zeta only [s']
    | simp -zeta only | (show keyOf _ = keyOf _; rfl) | split | with_reducible apply keeps_map
    | with_reducible apply keeps_filter

theorem markRunning_keeps {r s : State} (core : Nat) (q : Pass) (h : Keeps r s) :
    Keeps r (markRunning s core q) := by
  unfold markRunning
  repeat' first
    | with_reducible assumption | with_reducible apply modHead_keeps
    | (intro (s' : State); with_reducible refine keeps_cut (Keeps r s') ?_ ?_)
    | (intro (h' : Keeps r s'); clear_value s') | (intro x') | lift_lets | simp -zeta only [s']
    | simp -zeta only [keeps_mk] | split

theorem stopPass_keeps {r s : State} (core : Nat) (arr : Nat) (h : Keeps r s) :
    Keeps r (stopPass s core arr) := by
  unfold stopPass
  repeat' first
    | with_reducible assumption | with_reducible apply putArray_keeps | with_reducible apply modCmd_keeps
    | with_reducible apply markRunning_keeps | with_reducible apply keeps_getD
    | (intro (s' : State); with_reducible refine keeps_cut (Keeps r s') ?_ ?_)
    | (intro (h' : Keeps r s'); clear_value s') | (intro x') | lift_lets | simp -zeta only [s']
    | simp -zeta only [keeps_mk] | (show keyOf _ = keyOf _; rfl) | split | with_reducible apply keeps_map
    | with_reducible apply keeps_filter

theorem preemptArray_keeps {r s : State} (core : Nat) (arr : Nat) (h : Keeps r s) :
    Keeps r (preemptArray s core arr) := by
  unfold preemptArray
  repeat' first
    | with_reducible assumption | with_reducible apply stopPass_keeps
    | (intro (s' : State); with_reducible refine keeps_cut (Keeps r s') ?_ ?_)
    | (intro (h' : Keeps r s'); clear_value s') | (intro x') | lift_lets | simp -zeta only [s']
    | simp -zeta only [keeps_mk] | split

theorem putBack_keeps {r s : State} (core : Nat) (arr : Nat) (q : Pass) (h : Keeps r s) :
    Keeps r (putBack s core arr q) := by
  unfold putBack
  repeat' first
    | with_reducible assumption | with_reducible apply putArray_keeps | with_reducible apply putPass_keeps
    | with_reducible apply resumeWatch_keeps
    | (intro (s' : State); with_reducible refine keeps_cut (Keeps r s') ?_ ?_)
    | (intro (h' : Keeps r s'); clear_value s') | (intro x') | lift_lets | simp -zeta only [s']
    | simp -zeta only [keeps_mk]

theorem resumePass_keeps {r s : State} (core : Nat) (arr : Nat) (h : Keeps r s) :
    Keeps r (resumePass s core arr) := by
  unfold resumePass
  repeat' first
    | with_reducible assumption | with_reducible apply putBack_keeps
    | (intro (s' : State); with_reducible refine keeps_cut (Keeps r s') ?_ ?_)
    | (intro (h' : Keeps r s'); clear_value s') | (intro x') | lift_lets | simp -zeta only [s']
    | simp -zeta only [keeps_mk] | split

theorem pushTiles_keeps {r s : State} (core : Nat) (h : Keeps r s) :
    Keeps r (pushTiles s core) := by
  unfold pushTiles
  repeat' first
    | with_reducible assumption | with_reducible apply jobSegment_keeps
    | with_reducible refine foldl_keeps (fun s' a' h' => ?_) ?_
    | (intro (s' : State); with_reducible refine keeps_cut (Keeps r s') ?_ ?_)
    | (intro (h' : Keeps r s'); clear_value s') | (intro x') | lift_lets | simp -zeta only [s']
    | simp -zeta only [keeps_mk] | split

theorem pushPass_keeps {r s : State} (id : CmdId) (core : Nat) (arr : Nat) (h : Keeps r s) :
    Keeps r (pushPass s id core arr) := by
  unfold pushPass
  repeat' first
    | with_reducible assumption | with_reducible apply startPass_keeps | with_reducible apply putBack_keeps
    | (intro (s' : State); with_reducible refine keeps_cut (Keeps r s') ?_ ?_)
    | (intro (h' : Keeps r s'); clear_value s') | (intro x') | lift_lets | simp -zeta only [s']
    | simp -zeta only [keeps_mk] | split

theorem pushCore_keeps {r s : State} (ids : List CmdId) (core : Nat) (h : Keeps r s) :
    KeepsOut r (pushCore s ids core) := by
  unfold pushCore
  repeat' first
    | with_reducible assumption | with_reducible apply loadTile_keeps | with_reducible apply tileNext_keeps
    | with_reducible apply commitBlock_keeps | with_reducible apply runEpilogue_keeps
    | with_reducible apply vacantNext_keeps | with_reducible apply stripNext_keeps
    | with_reducible apply preemptArray_keeps | with_reducible apply pushTiles_keeps
    | with_reducible apply pushPass_keeps | with_reducible apply keepsOut_next
    | with_reducible apply keepsOpt_some | with_reducible apply keepsOpt_none
    | with_reducible refine foldl_keeps (fun s' a' h' => ?_) ?_ | with_reducible apply keepsOpt_map
    | with_reducible apply keepsOpt_orElse | with_reducible apply keeps_getD
    | (intro (s' : State); with_reducible refine keeps_cut (Keeps r s') ?_ ?_)
    | (intro (h' : Keeps r s'); clear_value s') | (intro x') | lift_lets | simp -zeta only [s']
    | with_reducible refine keeps_of_some (by assumption) ?_
    | with_reducible refine keeps_of_next (by assumption) ?_

theorem pushMoves_keeps {r s : State} (ids : List CmdId) (core : Nat) (h : Keeps r s) :
    KeepsOpt r (pushMoves s ids core) := by
  unfold pushMoves
  repeat' first
    | with_reducible assumption | with_reducible apply pushCore_keeps | with_reducible apply keepsOut_next
    | with_reducible apply keepsOpt_some | with_reducible apply keepsOpt_none
    | with_reducible apply keepsOpt_map
    | (intro (s' : State); with_reducible refine keeps_cut (Keeps r s') ?_ ?_)
    | (intro (h' : Keeps r s'); clear_value s') | (intro x') | lift_lets | simp -zeta only [s']
    | simp -zeta only [keeps_mk] | split | with_reducible refine keeps_of_some (by assumption) ?_
    | with_reducible refine keeps_of_next (by assumption) ?_

theorem pushRound_keeps {r s : State} (id : CmdId) (idx : Nat) (h : Keeps r s) :
    KeepsOpt r (pushRound s id idx) := by
  unfold pushRound
  repeat' first
    | with_reducible assumption | with_reducible apply pushMoves_keeps | with_reducible apply keepsOpt_some
    | with_reducible apply keepsOpt_none | with_reducible apply keepsOpt_map
    | with_reducible apply keepsOpt_findSome | (intro a') | with_reducible apply keepsOpt_orElse
    | (intro (s' : State); with_reducible refine keeps_cut (Keeps r s') ?_ ?_)
    | (intro (h' : Keeps r s'); clear_value s') | (intro x') | lift_lets | simp -zeta only [s']
    | simp -zeta only [keeps_mk] | (show keyOf _ = keyOf _; rfl) | split | with_reducible apply keeps_map
    | with_reducible apply keeps_filter | with_reducible refine keeps_of_some (by assumption) ?_

theorem completeItem_keeps {r s : State} (x : Nat) (z : CmdId) (u : Nat) (h : Keeps r s) :
    Keeps r (completeItem x s z u) := by
  induction x generalizing s with
  | zero =>
    unfold completeItem
    repeat' first
      | with_reducible assumption | with_reducible apply ih | with_reducible apply pushRound_keeps
      | with_reducible apply keepsOpt_some | with_reducible apply keepsOpt_none
      | with_reducible apply keepsOpt_map
      | (intro (s' : State); with_reducible refine keeps_cut (Keeps r s') ?_ ?_)
      | (intro (h' : Keeps r s'); clear_value s') | (intro x') | lift_lets | simp -zeta only [s']
      | simp -zeta only [keeps_mk] | split | with_reducible refine keeps_of_some (by assumption) ?_
  | succ n ih =>
    unfold completeItem
    repeat' first
      | with_reducible assumption | with_reducible apply ih | with_reducible apply pushRound_keeps
      | with_reducible apply keepsOpt_some | with_reducible apply keepsOpt_none
      | with_reducible apply keepsOpt_map
      | (intro (s' : State); with_reducible refine keeps_cut (Keeps r s') ?_ ?_)
      | (intro (h' : Keeps r s'); clear_value s') | (intro x') | lift_lets | simp -zeta only [s']
      | simp -zeta only [keeps_mk] | split | with_reducible refine keeps_of_some (by assumption) ?_

theorem disownSlots_keeps {r s : State} (id : CmdId) (x : Item) (h : Keeps r s) :
    Keeps r (disownSlots s id x) := by
  unfold disownSlots
  repeat' first
    | with_reducible assumption | (intro (s' : State); with_reducible refine keeps_cut (Keeps r s') ?_ ?_)
    | (intro (h' : Keeps r s'); clear_value s') | (intro x') | lift_lets | simp -zeta only [s']
    | simp -zeta only [keeps_mk] | split

theorem forgetItem_keeps {r s : State} (id : CmdId) (x : Item) (off : Bool) (h : Keeps r s) :
    Keeps r (forgetItem s id x off) := by
  unfold forgetItem
  repeat' first
    | with_reducible assumption | with_reducible apply freeHeld_keeps | with_reducible apply disownSlots_keeps
    | (intro (s' : State); with_reducible refine keeps_cut (Keeps r s') ?_ ?_)
    | (intro (h' : Keeps r s'); clear_value s') | (intro x') | lift_lets | simp -zeta only [s']
    | simp -zeta only [keeps_mk] | split

theorem loseCoreOf_keeps {r s : State} (core : Nat) (reset : Bool) (id : CmdId) (h : Keeps r s) :
    Keeps r (loseCoreOf s core reset id) := by
  unfold loseCoreOf
  repeat' first
    | with_reducible assumption | with_reducible apply putCore_keeps | with_reducible apply failCmd_keeps
    | with_reducible apply setArray_keeps | with_reducible apply releaseThreads_keeps
    | with_reducible apply resumeWatch_keeps | with_reducible apply completeItem_keeps
    | with_reducible apply forgetItem_keeps | with_reducible refine foldl_keeps (fun s' a' h' => ?_) ?_
    | (intro (s' : State); with_reducible refine keeps_cut (Keeps r s') ?_ ?_)
    | (intro (h' : Keeps r s'); clear_value s') | (intro x') | lift_lets | simp -zeta only [s']
    | simp -zeta only [keeps_mk] | split

theorem sluicesOff_keeps {r s : State} (core : Nat) (h : Keeps r s) :
    Keeps r (sluicesOff s core) := by
  unfold sluicesOff
  repeat' first
    | with_reducible assumption | with_reducible apply putSluice_keeps | with_reducible apply postAll_keeps
    | with_reducible refine foldl_keeps (fun s' a' h' => ?_) ?_
    | (intro (s' : State); with_reducible refine keeps_cut (Keeps r s') ?_ ?_)
    | (intro (h' : Keeps r s'); clear_value s') | (intro x') | lift_lets | simp -zeta only [s']

theorem sluicesOn_keeps {r s : State} (core : Nat) (h : Keeps r s) :
    Keeps r (sluicesOn s core) := by
  unfold sluicesOn
  repeat' first
    | with_reducible assumption | with_reducible apply putSluice_keeps
    | with_reducible refine foldl_keeps (fun s' a' h' => ?_) ?_

theorem endClaims_keeps {r s : State} (core : Nat) (h : Keeps r s) :
    Keeps r (endClaims s core) := by
  unfold endClaims
  repeat' first
    | with_reducible assumption | (intro (s' : State); with_reducible refine keeps_cut (Keeps r s') ?_ ?_)
    | (intro (h' : Keeps r s'); clear_value s') | (intro x') | lift_lets | simp -zeta only [s']
    | simp -zeta only [keeps_mk] | split

theorem loseCore_keeps {r s : State} (core : Nat) (reset : Bool) (h : Keeps r s) :
    Keeps r (loseCore s core reset) := by
  unfold loseCore
  repeat' first
    | with_reducible assumption | with_reducible apply loseCoreOf_keeps
    | with_reducible refine foldl_keeps (fun s' a' h' => ?_) ?_ | (show keyOf _ = keyOf _; rfl)
    | with_reducible apply keeps_map | with_reducible apply keeps_filter

theorem setCoreOut_keeps {r s : State}  (h : Keeps r s) :
    Keeps r (setCoreOut s) := by
  unfold setCoreOut
  repeat' first
    | with_reducible assumption | (intro (s' : State); with_reducible refine keeps_cut (Keeps r s') ?_ ?_)
    | (intro (h' : Keeps r s'); clear_value s') | (intro x') | lift_lets | simp -zeta only [s']
    | simp -zeta only [keeps_mk]

theorem takeOffline_keeps {r s : State} (core : Nat) (why : OutReason) (h : Keeps r s) :
    Keeps r (takeOffline s core why) := by
  unfold takeOffline
  repeat' first
    | with_reducible assumption | with_reducible apply putCore_keeps | with_reducible apply logFault_keeps
    | with_reducible apply timingEvent_keeps | with_reducible apply sluicesOff_keeps
    | with_reducible apply endClaims_keeps | with_reducible apply loseCore_keeps
    | with_reducible apply setCoreOut_keeps
    | (intro (s' : State); with_reducible refine keeps_cut (Keeps r s') ?_ ?_)
    | (intro (h' : Keeps r s'); clear_value s') | (intro x') | lift_lets | simp -zeta only [s']
    | simp -zeta only [keeps_mk]

theorem firmwareOffline_keeps {r s : State} (core : Nat) (why : OutReason) (h : Keeps r s) :
    Keeps r (firmwareOffline s core why) := by
  unfold firmwareOffline
  repeat' first
    | with_reducible assumption | with_reducible apply enterFault_keeps
    | with_reducible apply takeOffline_keeps | split

theorem offlineNext_keeps {r s : State}  (h : Keeps r s) :
    KeepsOpt r (offlineNext s) := by
  unfold offlineNext
  split
  · exact keepsOpt_none
  · exact keepsOpt_map (fun _ => firmwareOffline_keeps _ _ h)

theorem beginReset_keeps {r s : State} (core : Nat) (h : Keeps r s) :
    Keeps r (beginReset s core) := by
  unfold beginReset
  repeat' first
    | with_reducible assumption | with_reducible apply putCore_keeps | with_reducible apply logFault_keeps
    | with_reducible apply timingEvent_keeps | with_reducible apply loseBerm_keeps
    | with_reducible apply sluicesOff_keeps | with_reducible apply endClaims_keeps
    | with_reducible apply loseCore_keeps
    | (intro (s' : State); with_reducible refine keeps_cut (Keeps r s') ?_ ?_)
    | (intro (h' : Keeps r s'); clear_value s') | (intro x') | lift_lets | simp -zeta only [s']
    | simp -zeta only [keeps_mk] | split

theorem endReset_keeps {r s : State} (core : Nat) (h : Keeps r s) :
    Keeps r (endReset s core) := by
  unfold endReset
  repeat' first
    | with_reducible assumption | with_reducible apply putCore_keeps | with_reducible apply timingEvent_keeps
    | with_reducible apply advanceTo_keeps | with_reducible apply brakeCore_keeps
    | with_reducible apply sluicesOn_keeps
    | (intro (s' : State); with_reducible refine keeps_cut (Keeps r s') ?_ ?_)
    | (intro (h' : Keeps r s'); clear_value s') | (intro x') | lift_lets | simp -zeta only [s']
    | simp -zeta only [keeps_mk] | split

theorem bringOnline_keeps {r s : State} (core : Nat) (h : Keeps r s) :
    Keeps r (bringOnline s core) := by
  unfold bringOnline
  repeat' first
    | with_reducible assumption | with_reducible apply putCore_keeps | with_reducible apply timingEvent_keeps
    | with_reducible apply loseBerm_keeps | with_reducible apply brakeCore_keeps
    | with_reducible apply sluicesOn_keeps
    | (intro (s' : State); with_reducible refine keeps_cut (Keeps r s') ?_ ?_)
    | (intro (h' : Keeps r s'); clear_value s') | (intro x') | lift_lets | simp -zeta only [s']
    | simp -zeta only [keeps_mk]

theorem noteStalls_keeps {r s : State}  (h : Keeps r s) :
    Keeps r (noteStalls s) := by
  unfold noteStalls
  repeat' first
    | with_reducible assumption | (intro (s' : State); with_reducible refine keeps_cut (Keeps r s') ?_ ?_)
    | (intro (h' : Keeps r s'); clear_value s') | (intro x') | lift_lets | simp -zeta only [s']
    | simp -zeta only [keeps_mk]

theorem takeEarly_keeps {r s : State} (k : Nat) (h : Keeps r s) :
    Keeps r (takeEarly s k).2 := by
  unfold takeEarly
  repeat' first
    | with_reducible assumption | (intro (s' : State); with_reducible refine keeps_cut (Keeps r s') ?_ ?_)
    | (intro (h' : Keeps r s'); clear_value s')
    | (intro (q' : _ × State); with_reducible refine keeps_cut (Keeps r q'.2) ?_ ?_)
    | (intro (h' : Keeps r q'.2); clear_value q') | (intro x') | lift_lets | simp -zeta only [s']
    | simp -zeta only [keeps_mk] | with_reducible refine keeps_snd (by assumption) ?_

theorem addEarly_keeps {r s : State} (k : Nat) (n : Nat) (h : Keeps r s) :
    Keeps r (addEarly s k n) := by
  unfold addEarly
  repeat' first
    | with_reducible assumption | (intro (s' : State); with_reducible refine keeps_cut (Keeps r s') ?_ ?_)
    | (intro (h' : Keeps r s'); clear_value s') | (intro x') | lift_lets | simp -zeta only [s']
    | simp -zeta only [keeps_mk]

theorem takeSeq_keeps {r s : State} (g : Nat) (h : Keeps r s) :
    Keeps r (takeSeq s g).2 := by
  unfold takeSeq
  repeat' first
    | with_reducible assumption | (intro (s' : State); with_reducible refine keeps_cut (Keeps r s') ?_ ?_)
    | (intro (h' : Keeps r s'); clear_value s')
    | (intro (q' : _ × State); with_reducible refine keeps_cut (Keeps r q'.2) ?_ ?_)
    | (intro (h' : Keeps r q'.2); clear_value q') | (intro x') | lift_lets | simp -zeta only [s']
    | simp -zeta only [keeps_mk] | with_reducible refine keeps_snd (by assumption) ?_

theorem sendCredit_keeps {r s : State} (id : CmdId) (w : CollWork) (L : Nat) (n : Nat) (h : Keeps r s) :
    Keeps r (sendCredit s id w L n) := by
  unfold sendCredit
  repeat' first
    | with_reducible assumption | with_reducible apply routePacket_keeps
    | (intro (s' : State); with_reducible refine keeps_cut (Keeps r s') ?_ ?_)
    | (intro (h' : Keeps r s'); clear_value s') | (intro x') | lift_lets | simp -zeta only [s']
    | simp -zeta only [keeps_mk]

theorem deliverDown_keeps {r s : State} (id : CmdId) (w : CollWork) (k : DdrClass) (c : Nat) (data : List Byte) (h : Keeps r s) :
    Keeps r (deliverDown s id w k c data) := by
  unfold deliverDown
  repeat' first
    | with_reducible assumption | with_reducible apply modCmd_keeps | with_reducible apply setWork_keeps
    | with_reducible apply progress_keeps | with_reducible apply writeMem_keeps
    | with_reducible apply sendWrite_keeps | with_reducible apply ddrTake_keeps
    | with_reducible refine foldl_keeps (fun s' a' h' => ?_) ?_
    | (intro (s' : State); with_reducible refine keeps_cut (Keeps r s') ?_ ?_)
    | (intro (h' : Keeps r s'); clear_value s') | (intro x') | lift_lets | simp -zeta only [s']
    | simp -zeta only [keeps_mk] | (show keyOf _ = keyOf _; rfl) | with_reducible apply keeps_map
    | with_reducible apply keeps_filter

theorem upLoop_keeps {r s : State} (x : Nat) (z : CmdId) (h : Keeps r s) :
    Keeps r (upLoop x s z) := by
  induction x generalizing s with
  | zero =>
    unfold upLoop
    repeat' first
      | with_reducible assumption | with_reducible apply ih | with_reducible apply setWork_keeps
      | with_reducible apply sendWrite_keeps | with_reducible apply deliverDown_keeps
      | (intro (s' : State); with_reducible refine keeps_cut (Keeps r s') ?_ ?_)
      | (intro (h' : Keeps r s'); clear_value s') | (intro x') | lift_lets | simp -zeta only [s']
      | simp -zeta only [keeps_mk] | split
  | succ n ih =>
    unfold upLoop
    repeat' first
      | with_reducible assumption | with_reducible apply ih | with_reducible apply setWork_keeps
      | with_reducible apply sendWrite_keeps | with_reducible apply deliverDown_keeps
      | (intro (s' : State); with_reducible refine keeps_cut (Keeps r s') ?_ ?_)
      | (intro (h' : Keeps r s'); clear_value s') | (intro x') | lift_lets | simp -zeta only [s']
      | simp -zeta only [keeps_mk] | split

theorem joinChunk_keeps {r s : State} (id : CmdId) (c : Nat) (h : Keeps r s) :
    Keeps r (joinChunk s id c) := by
  unfold joinChunk
  repeat' first
    | with_reducible assumption | with_reducible apply setWork_keeps | with_reducible apply sendCredit_keeps
    | with_reducible apply upLoop_keeps | with_reducible refine foldl_keeps (fun s' a' h' => ?_) ?_
    | (intro (s' : State); with_reducible refine keeps_cut (Keeps r s') ?_ ?_)
    | (intro (h' : Keeps r s'); clear_value s') | (intro x') | lift_lets | simp -zeta only [s']
    | simp -zeta only [keeps_mk] | split

theorem mcastRows_keeps {r s : State} (id : CmdId) (urgent : Bool) (g : Nat) (me : Nat) (src : Nat) (rowBytes : Nat) (rows : Nat) (srcStride : Nat) (dstStride : Nat) (off : Nat) (ev : Nat) (fwd : Nat) (aux2 : W32) (h : Keeps r s) :
    Keeps r (mcastRows s id urgent g me src rowBytes rows srcStride dstStride off ev fwd aux2) := by
  unfold mcastRows
  repeat' first
    | with_reducible assumption | with_reducible apply sendWrite_keeps | with_reducible apply ddrTake_keeps
    | with_reducible apply exhaustAll_keeps | with_reducible refine foldl_keeps (fun s' a' h' => ?_) ?_
    | (intro (s' : State); with_reducible refine keeps_cut (Keeps r s') ?_ ?_)
    | (intro (h' : Keeps r s'); clear_value s') | (intro x') | lift_lets | simp -zeta only [s']
    | simp -zeta only [keeps_mk] | split

theorem dikeRun_keeps {r s : State} (id : CmdId) (h : Keeps r s) :
    Keeps r (dikeRun s id) := by
  unfold dikeRun
  repeat' first
    | with_reducible assumption | with_reducible apply setWork_keeps | with_reducible apply routePacket_keeps
    | with_reducible refine foldl_keeps (fun s' a' h' => ?_) ?_
    | (intro (s' : State); with_reducible refine keeps_cut (Keeps r s') ?_ ?_)
    | (intro (h' : Keeps r s'); clear_value s') | (intro x') | lift_lets | simp -zeta only [s']
    | simp -zeta only [keeps_mk] | split

theorem dikeStart_keeps {r s : State} (id : CmdId) (w : DikeWork) (h : Keeps r s) :
    Keeps r (dikeStart s id w) := by
  unfold dikeStart
  repeat' first
    | with_reducible assumption | with_reducible apply setWork_keeps | with_reducible apply takeEarly_keeps
    | with_reducible apply dikeRun_keeps | with_reducible refine foldl_keeps (fun s' a' h' => ?_) ?_
    | (intro (s' : State); with_reducible refine keeps_cut (Keeps r s') ?_ ?_)
    | (intro (h' : Keeps r s'); clear_value s')
    | (intro (q' : _ × State); with_reducible refine keeps_cut (Keeps r q'.2) ?_ ?_)
    | (intro (h' : Keeps r q'.2); clear_value q') | (intro x') | lift_lets | simp -zeta only [s']
    | simp -zeta only [keeps_mk] | with_reducible refine keeps_snd (by assumption) ?_

theorem reduceStart_keeps {r s : State} (id : CmdId) (urgent : Bool) (w : CollWork) (h : Keeps r s) :
    Keeps r (reduceStart s id urgent w) := by
  unfold reduceStart
  repeat' first
    | with_reducible assumption | with_reducible apply setWork_keeps | with_reducible apply ddrTake_keeps
    | with_reducible apply exhaustAll_keeps | with_reducible apply takeEarly_keeps
    | with_reducible apply sendCredit_keeps | with_reducible apply joinChunk_keeps
    | with_reducible refine foldl_keeps (fun s' a' h' => ?_) ?_
    | (intro (s' : State); with_reducible refine keeps_cut (Keeps r s') ?_ ?_)
    | (intro (h' : Keeps r s'); clear_value s')
    | (intro (q' : _ × State); with_reducible refine keeps_cut (Keeps r q'.2) ?_ ?_)
    | (intro (h' : Keeps r q'.2); clear_value q') | (intro x') | lift_lets | simp -zeta only [s']
    | simp -zeta only [keeps_mk] | split | with_reducible refine keeps_snd (by assumption) ?_

theorem gatherStart_keeps {r s : State} (id : CmdId) (urgent : Bool) (w : CollWork) (h : Keeps r s) :
    Keeps r (gatherStart s id urgent w) := by
  unfold gatherStart
  repeat' first
    | with_reducible assumption | with_reducible apply modCmd_keeps | with_reducible apply setWork_keeps
    | with_reducible apply writeMem_keeps | with_reducible apply ddrTake_keeps
    | with_reducible apply exhaustAll_keeps | with_reducible apply takeEarly_keeps
    | with_reducible apply mcastRows_keeps | with_reducible refine foldl_keeps (fun s' a' h' => ?_) ?_
    | (intro (s' : State); with_reducible refine keeps_cut (Keeps r s') ?_ ?_)
    | (intro (h' : Keeps r s'); clear_value s')
    | (intro (q' : _ × State); with_reducible refine keeps_cut (Keeps r q'.2) ?_ ?_)
    | (intro (h' : Keeps r q'.2); clear_value q') | (intro x') | lift_lets | simp -zeta only [s']
    | simp -zeta only [keeps_mk] | (show keyOf _ = keyOf _; rfl) | split | with_reducible apply keeps_map
    | with_reducible apply keeps_filter | with_reducible refine keeps_snd (by assumption) ?_

theorem mcastStart_keeps {r s : State} (id : CmdId) (urgent : Bool) (w : SendWork) (h : Keeps r s) :
    Keeps r (mcastStart s id urgent w) := by
  unfold mcastStart
  repeat' first
    | with_reducible assumption | with_reducible apply setWork_keeps | with_reducible apply mcastRows_keeps
    | (intro (s' : State); with_reducible refine keeps_cut (Keeps r s') ?_ ?_)
    | (intro (h' : Keeps r s'); clear_value s') | (intro x') | lift_lets | simp -zeta only [s']
    | simp -zeta only [keeps_mk] | split

theorem opStart_keeps {r s : State} (c : Cmd) (h : Keeps r s) :
    Keeps r (opStart s c) := by
  unfold opStart
  split
  · exact h
  · dsimp only
    split
    · exact failCmd_keeps _ _ (takeEarly_keeps _ h)
    · split
      · exact dikeStart_keeps _ _ h
      · split
        · exact gatherStart_keeps _ _ _ h
        · exact reduceStart_keeps _ _ _ h
      · exact mcastStart_keeps _ _ _ h
      · exact h

theorem landReduce_keeps {r s : State} (base : Nat) (k : Packet) (h : Keeps r s) :
    Keeps r (landReduce s base k) := by
  unfold landReduce
  repeat' first
    | with_reducible assumption | with_reducible apply setWork_keeps | with_reducible apply progress_keeps
    | with_reducible apply writeRows_keeps | with_reducible apply flowDone_keeps
    | with_reducible apply deliverDown_keeps | with_reducible apply joinChunk_keeps
    | (intro (s' : State); with_reducible refine keeps_cut (Keeps r s') ?_ ?_)
    | (intro (h' : Keeps r s'); clear_value s') | (intro x') | lift_lets | simp -zeta only [s']
    | simp -zeta only [keeps_mk] | split

theorem recvCredit_keeps {r s : State} (k : Packet) (h : Keeps r s) :
    Keeps r (recvCredit s k) := by
  unfold recvCredit
  repeat' first
    | with_reducible assumption | with_reducible apply setWork_keeps | with_reducible apply addEarly_keeps
    | with_reducible apply upLoop_keeps
    | (intro (s' : State); with_reducible refine keeps_cut (Keeps r s') ?_ ?_)
    | (intro (h' : Keeps r s'); clear_value s') | (intro x') | lift_lets | simp -zeta only [s']
    | simp -zeta only [keeps_mk] | split

theorem recvCollAbort_keeps {r s : State} (k : Packet) (h : Keeps r s) :
    Keeps r (recvCollAbort s k) := by
  unfold recvCollAbort
  repeat' first
    | with_reducible assumption | with_reducible apply failCmd_keeps
    | (intro (s' : State); with_reducible refine keeps_cut (Keeps r s') ?_ ?_)
    | (intro (h' : Keeps r s'); clear_value s') | (intro x') | lift_lets | simp -zeta only [s']
    | simp -zeta only [keeps_mk] | (show keyOf _ = keyOf _; rfl) | split | with_reducible apply keeps_map
    | with_reducible apply keeps_filter

theorem recvArrive_keeps {r s : State} (k : Packet) (h : Keeps r s) :
    Keeps r (recvArrive s k) := by
  unfold recvArrive
  repeat' first
    | with_reducible assumption | with_reducible apply setWork_keeps | with_reducible apply addEarly_keeps
    | with_reducible apply dikeRun_keeps
    | (intro (s' : State); with_reducible refine keeps_cut (Keeps r s') ?_ ?_)
    | (intro (h' : Keeps r s'); clear_value s') | (intro x') | lift_lets | simp -zeta only [s']
    | simp -zeta only [keeps_mk] | split

theorem recvRelease_keeps {r s : State} (k : Packet) (h : Keeps r s) :
    Keeps r (recvRelease s k) := by
  unfold recvRelease
  repeat' first
    | with_reducible assumption | with_reducible apply timingEvent_keeps | with_reducible apply setWork_keeps
    | (intro (s' : State); with_reducible refine keeps_cut (Keeps r s') ?_ ?_)
    | (intro (h' : Keeps r s'); clear_value s') | (intro x') | lift_lets | simp -zeta only [s']
    | simp -zeta only [keeps_mk] | split

theorem landMcast_keeps {r s : State} (base : Nat) (k : Packet) (ingress : Option Ingress) (h : Keeps r s) :
    Keeps r (landMcast s base k ingress) := by
  unfold landMcast
  repeat' first
    | with_reducible assumption | with_reducible apply setWork_keeps | with_reducible apply progress_keeps
    | with_reducible apply writeRows_keeps | with_reducible apply flowDone_keeps
    | with_reducible apply addEarly_keeps
    | (intro (s' : State); with_reducible refine keeps_cut (Keeps r s') ?_ ?_)
    | (intro (h' : Keeps r s'); clear_value s') | (intro x') | lift_lets | simp -zeta only [s']
    | simp -zeta only [keeps_mk] | split

theorem mcastAck_keeps {r s : State} (id : Nat) (rank : Nat) (h : Keeps r s) :
    Keeps r (mcastAck s id rank) := by
  unfold mcastAck
  repeat' first
    | with_reducible assumption | with_reducible apply setWork_keeps | with_reducible apply progress_keeps
    | (intro (s' : State); with_reducible refine keeps_cut (Keeps r s') ?_ ?_)
    | (intro (h' : Keeps r s'); clear_value s') | (intro x') | lift_lets | simp -zeta only [s']
    | simp -zeta only [keeps_mk] | split

theorem recvAck_keeps {r s : State} (k : Packet) (h : Keeps r s) :
    Keeps r (recvAck s k) := by
  unfold recvAck
  repeat' first
    | with_reducible assumption | with_reducible apply ackFlow_keeps | with_reducible apply mcastAck_keeps
    | split

theorem recvRefuse_keeps {r s : State} (k : Packet) (h : Keeps r s) :
    Keeps r (recvRefuse s k) := by
  unfold recvRefuse
  repeat' first
    | with_reducible assumption | with_reducible apply setWork_keeps | with_reducible apply failBind_keeps
    | with_reducible apply failNet_keeps
    | (intro (s' : State); with_reducible refine keeps_cut (Keeps r s') ?_ ?_)
    | (intro (h' : Keeps r s'); clear_value s') | (intro x') | lift_lets | simp -zeta only [s']
    | simp -zeta only [keeps_mk] | split

theorem noticeOwner_keeps {r s : State} (k : Packet) (h : Keeps r s) :
    Keeps r (noticeOwner s k) := by
  unfold noticeOwner
  repeat' first
    | with_reducible assumption | with_reducible apply failBind_keeps | with_reducible apply lostBeyond_keeps
    | with_reducible apply failTold_keeps
    | (intro (s' : State); with_reducible refine keeps_cut (Keeps r s') ?_ ?_)
    | (intro (h' : Keeps r s'); clear_value s') | (intro x') | lift_lets | simp -zeta only [s']
    | simp -zeta only [keeps_mk] | split

theorem recvNotice_keeps {r s : State} (k : Packet) (h : Keeps r s) :
    Keeps r (recvNotice s k) := by
  unfold recvNotice
  repeat' first
    | with_reducible assumption | with_reducible apply routeCtl_keeps | with_reducible apply resetFlow_keeps
    | with_reducible apply noticeOwner_keeps
    | (intro (s' : State); with_reducible refine keeps_cut (Keeps r s') ?_ ?_)
    | (intro (h' : Keeps r s'); clear_value s') | (intro x') | lift_lets | simp -zeta only [s']
    | simp -zeta only [keeps_mk] | split

theorem recvFlowReset_keeps {r s : State} (k : Packet) (h : Keeps r s) :
    Keeps r (recvFlowReset s k) := by
  unfold recvFlowReset
  repeat' first
    | with_reducible assumption | with_reducible apply putFlowRx_keeps | with_reducible apply flowLand_keeps
    | (intro (s' : State); with_reducible refine keeps_cut (Keeps r s') ?_ ?_)
    | (intro (h' : Keeps r s'); clear_value s') | (intro x') | lift_lets | simp -zeta only [s']
    | simp -zeta only [keeps_mk] | split

theorem recvRts_keeps {r s : State} (k : Packet) (h : Keeps r s) :
    Keeps r (recvRts s k) := by
  unfold recvRts
  repeat' first
    | with_reducible assumption | with_reducible apply routeCtl_keeps | with_reducible apply matchRts_keeps
    | (intro (s' : State); with_reducible refine keeps_cut (Keeps r s') ?_ ?_)
    | (intro (h' : Keeps r s'); clear_value s') | (intro x') | lift_lets | simp -zeta only [s']
    | simp -zeta only [keeps_mk] | split

theorem recvCts_keeps {r s : State} (k : Packet) (h : Keeps r s) :
    Keeps r (recvCts s k) := by
  unfold recvCts
  repeat' first
    | with_reducible assumption | with_reducible apply setWork_keeps | with_reducible apply progress_keeps
    | with_reducible apply sendRows_keeps
    | (intro (s' : State); with_reducible refine keeps_cut (Keeps r s') ?_ ?_)
    | (intro (h' : Keeps r s'); clear_value s') | (intro x') | lift_lets | simp -zeta only [s']
    | simp -zeta only [keeps_mk] | split

theorem landData_keeps {r s : State} (base : Nat) (k : Packet) (ingress : Option Ingress) (h : Keeps r s) :
    Keeps r (landData s base k ingress) := by
  unfold landData
  repeat' first
    | with_reducible assumption | with_reducible apply landWrite_keeps | with_reducible apply landReduce_keeps
    | with_reducible apply landMcast_keeps
    | (intro (s' : State); with_reducible refine keeps_cut (Keeps r s') ?_ ?_)
    | (intro (h' : Keeps r s'); clear_value s') | (intro x') | lift_lets | simp -zeta only [s']
    | simp -zeta only [keeps_mk] | split

theorem recvData_keeps {r s : State} (k : Packet) (ingress : Option Ingress) (h : Keeps r s) :
    Keeps r (recvData s k ingress) := by
  unfold recvData
  repeat' first
    | with_reducible assumption | with_reducible apply freePacket_keeps | with_reducible apply passMcast_keeps
    | with_reducible apply refuseWrite_keeps | with_reducible apply landData_keeps
    | (intro (s' : State); with_reducible refine keeps_cut (Keeps r s') ?_ ?_)
    | (intro (h' : Keeps r s'); clear_value s') | (intro x') | lift_lets | simp -zeta only [s']
    | simp -zeta only [keeps_mk] | split

theorem receive_keeps {r s : State} (k : Packet) (ingress : Option Ingress) (h : Keeps r s) :
    Keeps r (receive s k ingress) := by
  unfold receive
  repeat' first
    | with_reducible assumption | with_reducible apply freePacket_keeps
    | with_reducible apply recvCredit_keeps | with_reducible apply recvCollAbort_keeps
    | with_reducible apply recvArrive_keeps | with_reducible apply recvRelease_keeps
    | with_reducible apply recvAck_keeps | with_reducible apply recvRefuse_keeps
    | with_reducible apply recvNotice_keeps | with_reducible apply recvFlowReset_keeps
    | with_reducible apply recvRts_keeps | with_reducible apply recvCts_keeps
    | with_reducible apply recvData_keeps
    | (intro (s' : State); with_reducible refine keeps_cut (Keeps r s') ?_ ?_)
    | (intro (h' : Keeps r s'); clear_value s') | (intro x') | lift_lets | simp -zeta only [s']
    | simp -zeta only [keeps_mk] | split

theorem sourceStep_keeps {r s : State} (k : Cmd) (w : SourceWork) (h : Keeps r s) :
    KeepsPick r (sourceStep s k w) := by
  unfold sourceStep
  repeat' first
    | with_reducible assumption | with_reducible apply ddrTake_keeps | with_reducible apply handOff_keeps
    | with_reducible apply endStall_keeps | with_reducible apply keepsAcc_taken
    | with_reducible apply keepsAcc_stall | with_reducible apply keepsPick_some
    | with_reducible apply keepsPick_none | with_reducible apply keepsPick_map
    | (intro (s' : State); with_reducible refine keeps_cut (Keeps r s') ?_ ?_)
    | (intro (h' : Keeps r s'); clear_value s') | (intro x') | lift_lets | simp -zeta only [s']
    | simp -zeta only [keeps_mk] | split | with_reducible refine keeps_of_taken (by assumption) ?_
    | with_reducible refine keeps_of_pick (by assumption) ?_
    | with_reducible refine keeps_of_pick' (by assumption) ?_

theorem sourceLoop_keeps {r s : State} (x : Nat) (z : Cmd) (u : SourceWork) (h : Keeps r s) :
    Keeps r (sourceLoop x s z u).1 := by
  induction x generalizing s u with
  | zero =>
    unfold sourceLoop
    repeat' first
      | with_reducible assumption | with_reducible apply ih | with_reducible apply sourceStep_keeps
      | with_reducible apply keepsPick_some | with_reducible apply keepsPick_none
      | with_reducible apply keepsPick_map
      | (intro (s' : State); with_reducible refine keeps_cut (Keeps r s') ?_ ?_)
      | (intro (h' : Keeps r s'); clear_value s')
      | (intro (p' : State × _); with_reducible refine keeps_cut (Keeps r p'.1) ?_ ?_)
      | (intro (h' : Keeps r p'.1); clear_value p') | (intro x') | lift_lets | simp -zeta only [s']
      | simp -zeta only [keeps_mk] | split | with_reducible refine keeps_fst (by assumption) ?_
      | with_reducible refine keeps_of_pick (by assumption) ?_
      | with_reducible refine keeps_of_pick' (by assumption) ?_
  | succ n ih =>
    unfold sourceLoop
    repeat' first
      | with_reducible assumption | with_reducible apply ih | with_reducible apply sourceStep_keeps
      | with_reducible apply keepsPick_some | with_reducible apply keepsPick_none
      | with_reducible apply keepsPick_map
      | (intro (s' : State); with_reducible refine keeps_cut (Keeps r s') ?_ ?_)
      | (intro (h' : Keeps r s'); clear_value s')
      | (intro (p' : State × _); with_reducible refine keeps_cut (Keeps r p'.1) ?_ ?_)
      | (intro (h' : Keeps r p'.1); clear_value p') | (intro x') | lift_lets | simp -zeta only [s']
      | simp -zeta only [keeps_mk] | split | with_reducible refine keeps_fst (by assumption) ?_
      | with_reducible refine keeps_of_pick (by assumption) ?_
      | with_reducible refine keeps_of_pick' (by assumption) ?_

theorem sourceRun_keeps {r s : State} (k : Cmd) (w : SourceWork) (h : Keeps r s) :
    Keeps r (sourceRun s k w) := by
  unfold sourceRun
  repeat' first
    | with_reducible assumption | with_reducible apply setWork_keeps | with_reducible apply progress_keeps
    | with_reducible apply noteStall_keeps | with_reducible apply sourceLoop_keeps
    | (intro (s' : State); with_reducible refine keeps_cut (Keeps r s') ?_ ?_)
    | (intro (h' : Keeps r s'); clear_value s')
    | (intro (p' : State × _); with_reducible refine keeps_cut (Keeps r p'.1) ?_ ?_)
    | (intro (h' : Keeps r p'.1); clear_value p') | (intro x') | lift_lets | simp -zeta only [s'] | split
    | with_reducible refine keeps_fst (by assumption) ?_

theorem sourceNext_keeps {r s : State}  (h : Keeps r s) :
    KeepsOpt r (sourceNext s) := by
  unfold sourceNext
  refine keepsOpt_findSome (fun k => ?_)
  split
  · dsimp only
    split
    · exact keepsOpt_some (sourceRun_keeps _ _ h)
    · exact keepsOpt_none
  · exact keepsOpt_none

theorem takeFrames_keeps {r s : State} (x : Qp) (k : Nat) (l : List Nat) (h : Keeps r s) :
    Keeps r (takeFrames s x k l) := by
  unfold takeFrames
  repeat' first
    | with_reducible assumption | with_reducible apply weirCount_keeps
    | with_reducible apply weirBoundary_keeps | with_reducible refine foldl_keeps (fun s' a' h' => ?_) ?_
    | split

theorem emitRoce_keeps {r s : State} (q : Nat) (o : RoceOut) (h : Keeps r s) :
    Keeps r (emitRoce s q o) := by
  unfold emitRoce
  repeat' first
    | with_reducible assumption | with_reducible apply takeFrames_keeps
    | (intro (s' : State); with_reducible refine keeps_cut (Keeps r s') ?_ ?_)
    | (intro (h' : Keeps r s'); clear_value s') | (intro x') | lift_lets | simp -zeta only [s']
    | simp -zeta only [keeps_mk] | split

theorem sendRoce_keeps {r s : State} (q : Nat) (o : RoceOut) (h : Keeps r s) :
    Keeps r (sendRoce s q o) := by
  unfold sendRoce
  repeat' first
    | with_reducible assumption | with_reducible apply putQp_keeps | with_reducible apply emitRoce_keeps
    | (intro (s' : State); with_reducible refine keeps_cut (Keeps r s') ?_ ?_)
    | (intro (h' : Keeps r s'); clear_value s') | (intro x') | lift_lets | simp -zeta only [s']
    | simp -zeta only [keeps_mk] | split

theorem qpFlush_keeps {r s : State} (x : Nat) (z : Nat) (h : Keeps r s) :
    Keeps r (qpFlush x s z) := by
  induction x generalizing s with
  | zero => exact h
  | succ n ih =>
    unfold qpFlush
    dsimp only
    split
    · exact h
    · split
      · exact ih (emitRoce_keeps _ _ (putQp_keeps _ _ h))
      · exact h

theorem qpSend_keeps {r s : State} (q : Nat) (k : QpKind) (o : Owner) (h : Keeps r s) :
    Keeps r (qpSend s q k o) := by
  unfold qpSend
  repeat' first
    | with_reducible assumption | with_reducible apply putQp_keeps | with_reducible apply qpFlush_keeps
    | (intro (s' : State); with_reducible refine keeps_cut (Keeps r s') ?_ ?_)
    | (intro (h' : Keeps r s'); clear_value s') | (intro x') | lift_lets | simp -zeta only [s']
    | simp -zeta only [keeps_mk]

theorem qpResend_keeps {r s : State} (q : Nat) (h : Keeps r s) :
    Keeps r (qpResend s q) := by
  unfold qpResend
  repeat' first
    | with_reducible assumption | with_reducible apply sendRoce_keeps
    | with_reducible refine foldl_keeps (fun s' a' h' => ?_) ?_

theorem qpRetry_keeps {r s : State} (q : Nat) (h : Keeps r s) :
    Keeps r (qpRetry s q) := by
  unfold qpRetry
  repeat' first
    | with_reducible assumption | with_reducible apply putQp_keeps | with_reducible apply qpLose_keeps
    | with_reducible apply qpResend_keeps
    | (intro (s' : State); with_reducible refine keeps_cut (Keeps r s') ?_ ?_)
    | (intro (h' : Keeps r s'); clear_value s') | (intro x') | lift_lets | simp -zeta only [s']
    | simp -zeta only [keeps_mk] | split

theorem qpOwner_keeps {r s : State} (o : Owner) (h : Keeps r s) :
    Keeps r (qpOwner s o) := by
  unfold qpOwner
  repeat' first
    | with_reducible assumption | with_reducible apply setWork_keeps | with_reducible apply progress_keeps
    | with_reducible apply ackPage_keeps
    | (intro (s' : State); with_reducible refine keeps_cut (Keeps r s') ?_ ?_)
    | (intro (h' : Keeps r s'); clear_value s') | (intro x') | lift_lets | simp -zeta only [s']
    | simp -zeta only [keeps_mk] | split

theorem qpAck_keeps {r s : State} (q : Nat) (psn : BitVec 24) (h : Keeps r s) :
    Keeps r (qpAck s q psn) := by
  unfold qpAck
  repeat' first
    | with_reducible assumption | with_reducible apply putQp_keeps | with_reducible apply qpFlush_keeps
    | with_reducible apply qpOwner_keeps | with_reducible refine foldl_keeps (fun s' a' h' => ?_) ?_
    | (intro (s' : State); with_reducible refine keeps_cut (Keeps r s') ?_ ?_)
    | (intro (h' : Keeps r s'); clear_value s') | (intro x') | lift_lets | simp -zeta only [s']
    | simp -zeta only [keeps_mk] | split

theorem peerWrite_keeps {r s : State} (ch : Nat) (d : Nat) (x : Dest) (off : Nat) (data : List Byte) (signal : Bool) (o : Owner) (h : Keeps r s) :
    Keeps r (peerWrite s ch d x off data signal o) := by
  unfold peerWrite
  repeat' first
    | with_reducible assumption | with_reducible apply sendWrite_keeps
    | (intro (s' : State); with_reducible refine keeps_cut (Keeps r s') ?_ ?_)
    | (intro (h' : Keeps r s'); clear_value s') | (intro x') | lift_lets | simp -zeta only [s']
    | simp -zeta only [keeps_mk] | split

theorem destWrite_keeps {r s : State} (ch : Nat) (d : Nat) (x : Dest) (a : Nat) (data : List Byte) (o : Owner) (h : Keeps r s) :
    Keeps r (destWrite s ch d x a data o) := by
  unfold destWrite
  repeat' first
    | with_reducible assumption | with_reducible apply qpSend_keeps | with_reducible apply peerWrite_keeps
    | split

theorem sendTrailer_keeps {r s : State} (ch : Nat) (d : Nat) (x : Dest) (q : Nat) (data : List Byte) (h : Keeps r s) :
    Keeps r (sendTrailer s ch d x q data) := by
  unfold sendTrailer
  repeat' first
    | with_reducible assumption | with_reducible apply qpSend_keeps | with_reducible apply peerWrite_keeps
    | (intro (s' : State); with_reducible refine keeps_cut (Keeps r s') ?_ ?_)
    | (intro (h' : Keeps r s'); clear_value s') | (intro x') | lift_lets | simp -zeta only [s'] | split

theorem sendSegment_keeps {r s : State} (ch : Nat) (d : Nat) (h : Keeps r s) :
    Keeps r (sendSegment s ch d) := by
  unfold sendSegment
  dsimp only
  repeat' first
    | with_reducible assumption | with_reducible apply putChannel_keeps | with_reducible apply failDest_keeps
    | with_reducible apply ddrTake_keeps | with_reducible apply destWrite_keeps
    | with_reducible apply sendTrailer_keeps | with_reducible refine foldl_keeps (fun s' a' h' => ?_) ?_
    | (intro (s' : State); with_reducible refine keeps_cut (Keeps r s') ?_ ?_)
    | (intro (h' : Keeps r s'); clear_value s') | (intro x') | split | lift_lets | simp -zeta only [s']
    | simp -zeta only [keeps_mk]


theorem timeoutDest_keeps {r s : State} (ch : Nat) (d : Nat) (h : Keeps r s) :
    Keeps r (timeoutDest s ch d) := by
  unfold timeoutDest
  repeat' first
    | with_reducible assumption | with_reducible apply advanceTo_keeps | with_reducible apply failDest_keeps
    | (intro (s' : State); with_reducible refine keeps_cut (Keeps r s') ?_ ?_)
    | (intro (h' : Keeps r s'); clear_value s') | (intro x') | lift_lets | simp -zeta only [s']
    | simp -zeta only [keeps_mk] | split

theorem failDests_keeps {r s : State} (ch : Nat) (ds : List Nat) (r' : FailReason) (h : Keeps r s) :
    Keeps r (failDests s ch ds r') := by
  unfold failDests
  repeat' first
    | with_reducible assumption | with_reducible apply markFailed_keeps | with_reducible apply sealAll_keeps
    | with_reducible apply qpLose_keeps | with_reducible refine foldl_keeps (fun s' a' h' => ?_) ?_
    | (intro (s' : State); with_reducible refine keeps_cut (Keeps r s') ?_ ?_)
    | (intro (h' : Keeps r s'); clear_value s') | (intro x') | lift_lets | simp -zeta only [s'] | split

theorem stallOut_keeps {r s : State} (ch : Nat) (h : Keeps r s) :
    Keeps r (stallOut s ch) := by
  unfold stallOut
  dsimp only
  repeat' first
    | with_reducible assumption | with_reducible apply putChannel_keeps | with_reducible apply advanceTo_keeps
    | with_reducible apply failDests_keeps
    | (intro (s' : State); with_reducible refine keeps_cut (Keeps r s') ?_ ?_)
    | (intro (h' : Keeps r s'); clear_value s') | (intro x') | split | lift_lets | simp -zeta only [s']
    | simp -zeta only [keeps_mk]


theorem inboundElse_keeps {r s : State} (q : Nat) (i : Inbound) (h : Keeps r s) :
    Keeps r (inboundElse s q i) := by
  unfold inboundElse
  repeat' first
    | with_reducible assumption | with_reducible apply sendRoce_keeps
    | (intro (s' : State); with_reducible refine keeps_cut (Keeps r s') ?_ ?_)
    | (intro (h' : Keeps r s'); clear_value s') | (intro x') | lift_lets | simp -zeta only [s']
    | simp -zeta only [keeps_mk] | split

theorem inboundImm_keeps {r s : State} (q : Nat) (imm : W32) (h : Keeps r s) :
    Keeps r (inboundImm s q imm) := by
  unfold inboundImm
  repeat' first
    | with_reducible assumption | with_reducible apply putQp_keeps | with_reducible apply addEvent_keeps
    | with_reducible apply writeLe_keeps
    | (intro (s' : State); with_reducible refine keeps_cut (Keeps r s') ?_ ?_)
    | (intro (h' : Keeps r s'); clear_value s') | (intro x') | lift_lets | simp -zeta only [s']
    | simp -zeta only [keeps_mk]

theorem serveRoce_keeps {r s : State} (q : Nat) (psn : BitVec 24) (ask : RoceAsk) (h : Keeps r s) :
    Keeps r (serveRoce s q psn ask) := by
  unfold serveRoce
  repeat' first
    | with_reducible assumption | with_reducible apply writeMem_keeps | with_reducible apply ddrTake_keeps
    | with_reducible apply countRefused_keeps | with_reducible apply sendRoce_keeps
    | with_reducible apply inboundImm_keeps
    | (intro (s' : State); with_reducible refine keeps_cut (Keeps r s') ?_ ?_)
    | (intro (h' : Keeps r s'); clear_value s') | (intro x') | lift_lets | simp -zeta only [s']
    | simp -zeta only | split

theorem pfcCheck_keeps {r s : State} (p : Nat) (h : Keeps r s) :
    Keeps r (pfcCheck s p) := by
  unfold pfcCheck
  repeat' first
    | with_reducible assumption | with_reducible apply putPort_keeps
    | (intro (s' : State); with_reducible refine keeps_cut (Keeps r s') ?_ ?_)
    | (intro (h' : Keeps r s'); clear_value s') | (intro x') | lift_lets | simp -zeta only [s']
    | simp -zeta only [keeps_mk] | split

theorem inboundTake_keeps {r s : State} (q : Nat) (psn : BitVec 24) (ask : RoceAsk) (h : Keeps r s) :
    Keeps r (inboundTake s q psn ask) := by
  unfold inboundTake
  repeat' first
    | with_reducible assumption | with_reducible apply putQp_keeps | with_reducible apply serveRoce_keeps
    | with_reducible apply pfcCheck_keeps
    | (intro (s' : State); with_reducible refine keeps_cut (Keeps r s') ?_ ?_)
    | (intro (h' : Keeps r s'); clear_value s') | (intro x') | lift_lets | simp -zeta only [s']
    | simp -zeta only [keeps_mk] | split

theorem inboundNext_keeps {r s : State}  (h : Keeps r s) :
    KeepsOpt r (inboundNext s) := by
  unfold inboundNext
  repeat' first
    | with_reducible assumption | with_reducible apply freePacket_keeps | with_reducible apply landData_keeps
    | with_reducible apply serveRoce_keeps | with_reducible apply pfcCheck_keeps
    | with_reducible apply keepsOpt_some | with_reducible apply keepsOpt_none
    | with_reducible apply keepsOpt_map
    | (intro (s' : State); with_reducible refine keeps_cut (Keeps r s') ?_ ?_)
    | (intro (h' : Keeps r s'); clear_value s') | (intro x') | lift_lets | simp -zeta only [s']
    | simp -zeta only [keeps_mk] | split | with_reducible refine keeps_of_some (by assumption) ?_

theorem pullData_keeps {r s : State} (q : Nat) (data : List Byte) (h : Keeps r s) :
    Keeps r (pullData s q data) := by
  unfold pullData
  repeat' first
    | with_reducible assumption | with_reducible apply putQp_keeps | with_reducible apply modCmd_keeps
    | with_reducible apply progress_keeps | with_reducible apply writeMem_keeps
    | with_reducible apply ddrTake_keeps | with_reducible apply qpFlush_keeps
    | (intro (s' : State); with_reducible refine keeps_cut (Keeps r s') ?_ ?_)
    | (intro (h' : Keeps r s'); clear_value s') | (intro x') | lift_lets | simp -zeta only [s']
    | simp -zeta only [keeps_mk] | (show keyOf _ = keyOf _; rfl) | split | with_reducible apply keeps_map
    | with_reducible apply keeps_filter

theorem pullReads_keeps {r s : State} (id : CmdId) (q : Nat) (rkey : Nat) (va : Nat) (bytes : Nat) (h : Keeps r s) :
    Keeps r (pullReads s id q rkey va bytes) := by
  unfold pullReads
  repeat' first
    | with_reducible assumption | with_reducible apply qpSend_keeps
    | with_reducible refine foldl_keeps (fun s' a' h' => ?_) ?_

theorem qpFails_keeps {r s : State} (id : CmdId) (ch : Nat) (h : Keeps r s) :
    Keeps r (qpFails s id ch) := by
  unfold qpFails
  repeat' first
    | with_reducible assumption | with_reducible apply failCmd_keeps

theorem recvRoceAck_keeps {r s : State} (q : Nat) (a : RoceAck) (h : Keeps r s) :
    Keeps r (recvRoceAck s q a) := by
  unfold recvRoceAck
  repeat' first
    | with_reducible assumption | with_reducible apply putQp_keeps | with_reducible apply qpLose_keeps
    | with_reducible apply qpResend_keeps | with_reducible apply qpRetry_keeps
    | with_reducible apply qpAck_keeps
    | (intro (s' : State); with_reducible refine keeps_cut (Keeps r s') ?_ ?_)
    | (intro (h' : Keeps r s'); clear_value s') | (intro x') | lift_lets | simp -zeta only [s']
    | simp -zeta only [keeps_mk] | split

theorem recvCnp_keeps {r s : State} (q : Nat) (h : Keeps r s) :
    Keeps r (recvCnp s q) := by
  unfold recvCnp
  repeat' first
    | with_reducible assumption | with_reducible apply putQp_keeps
    | (intro (s' : State); with_reducible refine keeps_cut (Keeps r s') ?_ ?_)
    | (intro (h' : Keeps r s'); clear_value s') | (intro x') | lift_lets | simp -zeta only [s']
    | simp -zeta only [keeps_mk] | split

theorem ecnRaise_keeps {r s : State} (q : Nat) (h : Keeps r s) :
    Keeps r (ecnRaise s q) := by
  unfold ecnRaise
  repeat' first
    | with_reducible assumption | with_reducible apply putQp_keeps | with_reducible apply advanceTo_keeps
    | (intro (s' : State); with_reducible refine keeps_cut (Keeps r s') ?_ ?_)
    | (intro (h' : Keeps r s'); clear_value s') | (intro x') | lift_lets | simp -zeta only [s']
    | simp -zeta only [keeps_mk] | split

theorem answerCe_keeps {r s : State} (q : Nat) (h : Keeps r s) :
    Keeps r (answerCe s q) := by
  unfold answerCe
  repeat' first
    | with_reducible assumption | with_reducible apply putQp_keeps | with_reducible apply sendRoce_keeps
    | (intro (s' : State); with_reducible refine keeps_cut (Keeps r s') ?_ ?_)
    | (intro (h' : Keeps r s'); clear_value s') | (intro x') | lift_lets | simp -zeta only [s']
    | simp -zeta only [keeps_mk] | split

theorem unpause_keeps {r s : State} (p : Nat) (h : Keeps r s) :
    Keeps r (unpause s p) := by
  unfold unpause
  repeat' first
    | with_reducible assumption | with_reducible apply putQp_keeps | with_reducible apply emitRoce_keeps
    | with_reducible apply qpFlush_keeps | with_reducible refine foldl_keeps (fun s' a' h' => ?_) ?_
    | (intro (s' : State); with_reducible refine keeps_cut (Keeps r s') ?_ ?_)
    | (intro (h' : Keeps r s'); clear_value s') | (intro x') | lift_lets | simp -zeta only [s']
    | simp -zeta only [keeps_mk] | split

theorem freshBytes_keeps {r s : State}  (h : Keeps r s) :
    Keeps r (freshBytes s).2 := by
  unfold freshBytes
  repeat' first
    | with_reducible assumption | with_reducible apply drawFree_keeps
    | (intro (q' : _ × State); with_reducible refine keeps_cut (Keeps r q'.2) ?_ ?_)
    | (intro (h' : Keeps r q'.2); clear_value q') | with_reducible refine keeps_snd (by assumption) ?_

theorem mailboxDo_keeps {r s : State} (op : Nat) (req : List Byte) (h : Keeps r s) :
    KeepsPick2 r (mailboxDo s op req) := by
  unfold mailboxDo
  repeat' first
    | with_reducible assumption | with_reducible apply freshBytes_keeps | with_reducible apply keepsPick2_some
    | with_reducible apply keepsPick2_none
    | (intro (s' : State); with_reducible refine keeps_cut (Keeps r s') ?_ ?_)
    | (intro (h' : Keeps r s'); clear_value s')
    | (intro (q' : _ × State); with_reducible refine keeps_cut (Keeps r q'.2) ?_ ?_)
    | (intro (h' : Keeps r q'.2); clear_value q') | (intro x') | lift_lets | simp -zeta only [s']
    | simp -zeta only [keeps_mk] | split | with_reducible refine keeps_snd (by assumption) ?_
    | with_reducible refine keeps_of_pick2 (by assumption) ?_

theorem replyWith_keeps {r s : State} (code : Nat) (data : List Byte) (h : Keeps r s) :
    Keeps r (replyWith s code data) := by
  unfold replyWith
  repeat' first
    | with_reducible assumption | (intro (s' : State); with_reducible refine keeps_cut (Keeps r s') ?_ ?_)
    | (intro (h' : Keeps r s'); clear_value s') | (intro x') | lift_lets | simp -zeta only [s']
    | simp -zeta only [keeps_mk]

theorem mailboxWait_keeps {r s : State} (relay : Bool) (op : Nat) (req : List Byte) (h : Keeps r s) :
    Keeps r (mailboxWait s relay op req) := by
  unfold mailboxWait
  repeat' first
    | with_reducible assumption | (intro (s' : State); with_reducible refine keeps_cut (Keeps r s') ?_ ?_)
    | (intro (h' : Keeps r s'); clear_value s') | (intro x') | lift_lets | simp -zeta only [s']
    | simp -zeta only [keeps_mk]

theorem mailboxEnd_keeps {r s : State} (rsp : List Byte) (h : Keeps r s) :
    Keeps r (mailboxEnd s rsp) := by
  unfold mailboxEnd
  repeat' first
    | with_reducible assumption | (intro (s' : State); with_reducible refine keeps_cut (Keeps r s') ?_ ?_)
    | (intro (h' : Keeps r s'); clear_value s') | (intro x') | lift_lets | simp -zeta only [s']
    | simp -zeta only [keeps_mk]

theorem mailboxRun_keeps {r s : State} (op : Nat) (req : List Byte) (h : Keeps r s) :
    KeepsOut r (mailboxRun s op req) := by
  unfold mailboxRun
  repeat' first
    | with_reducible assumption | with_reducible apply mailboxDo_keeps
    | with_reducible apply mailboxWait_keeps | with_reducible apply mailboxEnd_keeps
    | with_reducible apply keepsOut_next | with_reducible apply keepsOut_fault
    | with_reducible apply keepsPick2_some | with_reducible apply keepsPick2_none
    | (intro (s' : State); with_reducible refine keeps_cut (Keeps r s') ?_ ?_)
    | (intro (h' : Keeps r s'); clear_value s') | (intro x') | lift_lets | simp -zeta only [s']
    | simp -zeta only [keeps_mk] | split | with_reducible refine keeps_of_pick2 (by assumption) ?_
    | with_reducible refine keeps_of_next (by assumption) ?_

theorem mailboxHost_keeps {r s : State} (op : Nat) (req : List Byte) (h : Keeps r s) :
    KeepsOut r (mailboxHost s op req) := by
  unfold mailboxHost
  repeat' first
    | with_reducible assumption | with_reducible apply mailboxRun_keeps | with_reducible apply keepsOut_next
    | with_reducible refine foldl_keeps (fun s' a' h' => ?_) ?_
    | (intro (s' : State); with_reducible refine keeps_cut (Keeps r s') ?_ ?_)
    | (intro (h' : Keeps r s'); clear_value s') | (intro x') | lift_lets | simp -zeta only [s']
    | simp -zeta only [keeps_mk] | split | with_reducible refine keeps_of_next (by assumption) ?_

theorem debugAccept_keeps {r s : State} (r' : List Byte) (h : Keeps r s) :
    Keeps r (debugAccept s r') := by
  unfold debugAccept
  repeat' first
    | with_reducible assumption | (intro (s' : State); with_reducible refine keeps_cut (Keeps r s') ?_ ?_)
    | (intro (h' : Keeps r s'); clear_value s') | (intro x') | lift_lets | simp -zeta only [s']
    | simp -zeta only [keeps_mk]

theorem attestNow_keeps {r s : State} (id : CmdId) (urgent : Bool) (nonce : List Byte) (a : Nat) (h : Keeps r s) :
    Keeps r (attestNow s id urgent nonce a) := by
  unfold attestNow
  repeat' first
    | with_reducible assumption | with_reducible apply modCmd_keeps | with_reducible apply writeMem_keeps
    | with_reducible apply ddrTake_keeps
    | (intro (s' : State); with_reducible refine keeps_cut (Keeps r s') ?_ ?_)
    | (intro (h' : Keeps r s'); clear_value s') | (intro x') | lift_lets | simp -zeta only [s']
    | simp -zeta only [keeps_mk] | (show keyOf _ = keyOf _; rfl) | with_reducible apply keeps_map
    | with_reducible apply keeps_filter

theorem unlockNow_keeps {r s : State} (id : CmdId) (r' : List Byte) (h : Keeps r s) :
    Keeps r (unlockNow s id r') := by
  unfold unlockNow
  repeat' first
    | with_reducible assumption | with_reducible apply setWork_keeps | with_reducible apply debugAccept_keeps
    | (intro (s' : State); with_reducible refine keeps_cut (Keeps r s') ?_ ?_)
    | (intro (h' : Keeps r s'); clear_value s') | (intro x') | lift_lets | simp -zeta only [s']

theorem writingNow_keeps {r s : State} (id : CmdId) (img : List Byte) (h : Keeps r s) :
    Keeps r (writingNow s id img) := by
  unfold writingNow
  repeat' first
    | with_reducible assumption | with_reducible apply setWork_keeps
    | (intro (s' : State); with_reducible refine keeps_cut (Keeps r s') ?_ ?_)
    | (intro (h' : Keeps r s'); clear_value s') | (intro x') | lift_lets | simp -zeta only [s']
    | simp -zeta only [keeps_mk]

theorem secRun_keeps {r s : State} (c : Cmd) (h : Keeps r s) :
    Keeps r (secRun s c) := by
  unfold secRun
  repeat' first
    | with_reducible assumption | with_reducible apply attestNow_keeps | with_reducible apply unlockNow_keeps
    | with_reducible apply writingNow_keeps
    | (intro (s' : State); with_reducible refine keeps_cut (Keeps r s') ?_ ?_)
    | (intro (h' : Keeps r s'); clear_value s') | (intro x') | lift_lets | simp -zeta only [s']
    | simp -zeta only [keeps_mk] | split

theorem mailboxNow_keeps {r s : State} (m : MbxWait) (h : Keeps r s) :
    Keeps r (mailboxNow s m) := by
  unfold mailboxNow
  repeat' first
    | with_reducible assumption | with_reducible apply mailboxDo_keeps | with_reducible apply replyWith_keeps
    | with_reducible apply mailboxEnd_keeps | with_reducible apply keepsPick2_some
    | with_reducible apply keepsPick2_none
    | (intro (s' : State); with_reducible refine keeps_cut (Keeps r s') ?_ ?_)
    | (intro (h' : Keeps r s'); clear_value s') | (intro x') | lift_lets | simp -zeta only [s']
    | simp -zeta only [keeps_mk] | split | with_reducible refine keeps_of_pick2 (by assumption) ?_

theorem secNext_keeps {r s : State}  (h : Keeps r s) :
    KeepsOpt r (secNext s) := by
  unfold secNext
  repeat' first
    | with_reducible assumption | with_reducible apply secRun_keeps | with_reducible apply mailboxNow_keeps
    | with_reducible apply keepsOpt_some | with_reducible apply keepsOpt_none
    | with_reducible apply keepsOpt_map
    | (intro (s' : State); with_reducible refine keeps_cut (Keeps r s') ?_ ?_)
    | (intro (h' : Keeps r s'); clear_value s') | (intro x') | lift_lets | simp -zeta only [s']
    | simp -zeta only [keeps_mk] | split | with_reducible refine keeps_of_some (by assumption) ?_

theorem endDone_keeps {r s : State} (c : Cmd) (r' : Status × Nat) (h : Keeps r s) :
    Keeps r (endDone s c r') := by
  unfold endDone
  repeat' first
    | with_reducible assumption | with_reducible apply endCmd_keeps | with_reducible apply cmdDigest_keeps
    | (intro (s' : State); with_reducible refine keeps_cut (Keeps r s') ?_ ?_)
    | (intro (h' : Keeps r s'); clear_value s') | (intro x') | lift_lets | simp -zeta only [s']
    | simp -zeta only [keeps_mk] | split

theorem unitsNext_keeps {r s : State}  (h : Keeps r s) :
    KeepsOpt r (unitsNext s) := by
  unfold unitsNext
  repeat' first
    | with_reducible assumption | with_reducible apply weirServe_keeps | with_reducible apply claimNext_keeps
    | with_reducible apply tileNext_keeps | with_reducible apply vacantNext_keeps
    | with_reducible apply stripNext_keeps | with_reducible apply keepsOpt_some
    | with_reducible apply keepsOpt_none | with_reducible apply keepsOpt_map
    | with_reducible apply keepsOpt_orElse | split | with_reducible refine keeps_of_some (by assumption) ?_

theorem runOut_keeps {r s : State} (id : CmdId) (core : Nat) (h : Keeps r s) :
    Keeps r (runOut s id core) := by
  unfold runOut
  repeat' first
    | with_reducible assumption | with_reducible apply runProgram_keeps | with_reducible apply runAttend_keeps
    | with_reducible apply keepsOut_next
    | (intro (s' : State); with_reducible refine keeps_cut (Keeps r s') ?_ ?_)
    | (intro (h' : Keeps r s'); clear_value s') | (intro x') | lift_lets | simp -zeta only [s']
    | simp -zeta only [keeps_mk] | split | with_reducible refine keeps_of_next (by assumption) ?_

theorem finishEnding_keeps {r s : State} (id : CmdId) (h : Keeps r s) :
    Keeps r (finishEnding s id) := by
  unfold finishEnding
  repeat' first
    | with_reducible assumption | with_reducible apply endCmd_keeps | with_reducible apply runOut_keeps
    | with_reducible refine foldl_keeps (fun s' a' h' => ?_) ?_
    | (intro (s' : State); with_reducible refine keeps_cut (Keeps r s') ?_ ?_)
    | (intro (h' : Keeps r s'); clear_value s') | (intro x') | lift_lets | simp -zeta only [s']
    | simp -zeta only [keeps_mk] | split

theorem settleNext_keeps {r s : State}  (h : Keeps r s) :
    KeepsOpt r (settleNext s) := by
  unfold settleNext
  repeat' first
    | with_reducible assumption | with_reducible apply returnNext_keeps | with_reducible apply xferNext_keeps
    | with_reducible apply closeNext_keeps | with_reducible apply offlineNext_keeps
    | with_reducible apply opStart_keeps | with_reducible apply receive_keeps
    | with_reducible apply sourceNext_keeps | with_reducible apply inboundNext_keeps
    | with_reducible apply secNext_keeps | with_reducible apply endDone_keeps
    | with_reducible apply unitsNext_keeps | with_reducible apply finishEnding_keeps
    | with_reducible apply keepsOpt_some | with_reducible apply keepsOpt_none
    | with_reducible apply keepsOpt_map | with_reducible apply keepsOpt_findSome | (intro a')
    | with_reducible apply keepsOpt_orElse
    | (intro (s' : State); with_reducible refine keeps_cut (Keeps r s') ?_ ?_)
    | (intro (h' : Keeps r s'); clear_value s') | (intro x') | lift_lets | simp -zeta only [s']
    | simp -zeta only [keeps_mk] | (show keyOf _ = keyOf _; rfl) | split | with_reducible apply keeps_map
    | with_reducible apply keeps_filter | with_reducible refine keeps_of_some (by assumption) ?_

theorem settleRun_keeps {r s : State} (x : Nat) (h : Keeps r s) :
    Keeps r (settleRun x s) := by
  induction x generalizing s with
  | zero =>
    unfold settleRun
    repeat' first
      | with_reducible assumption | with_reducible apply ih | with_reducible apply settleNext_keeps
      | with_reducible apply keepsOpt_some | with_reducible apply keepsOpt_none
      | with_reducible apply keepsOpt_map
      | (intro (s' : State); with_reducible refine keeps_cut (Keeps r s') ?_ ?_)
      | (intro (h' : Keeps r s'); clear_value s') | (intro x') | lift_lets | simp -zeta only [s']
      | simp -zeta only [keeps_mk] | split | with_reducible refine keeps_of_some (by assumption) ?_
  | succ n ih =>
    unfold settleRun
    repeat' first
      | with_reducible assumption | with_reducible apply ih | with_reducible apply settleNext_keeps
      | with_reducible apply keepsOpt_some | with_reducible apply keepsOpt_none
      | with_reducible apply keepsOpt_map
      | (intro (s' : State); with_reducible refine keeps_cut (Keeps r s') ?_ ?_)
      | (intro (h' : Keeps r s'); clear_value s') | (intro x') | lift_lets | simp -zeta only [s']
      | simp -zeta only [keeps_mk] | split | with_reducible refine keeps_of_some (by assumption) ?_

theorem settle_keeps {r s : State}  (h : Keeps r s) :
    Keeps r (settle s) := by
  unfold settle
  repeat' first
    | with_reducible assumption | with_reducible apply noteStalls_keeps | with_reducible apply settleRun_keeps

theorem settled_keeps {r : State} (o : Out) (hk : KeepsOut r o) : KeepsOut r (settled o) := by
  unfold settled
  split
  · exact keepsOut_next (settle_keeps (hk.next _ rfl))
  · exact hk

theorem ok_keeps {r s : State}  (h : Keeps r s) :
    KeepsOut r (ok s) := by
  unfold ok
  repeat' first
    | with_reducible assumption | with_reducible apply settle_keeps | with_reducible apply keepsOut_next
    | with_reducible refine keeps_of_next (by assumption) ?_

theorem dispatchCmd_keeps {r s : State} (c : Cmd) (h : Keeps r s) :
    Keeps r (dispatchCmd s c) := by
  unfold dispatchCmd
  dsimp only
  refine modCmd_keeps _ _ ?_ (fun _ => rfl)
  split
  · exact putInlet_keeps _ _ (keeps_mk.2 h)
  · exact keeps_mk.2 h

theorem reject_keeps {r s : State} (id : CmdId) (scope : Nat) (code : Nat) (index : Nat) (h : Keeps r s) :
    Keeps r (reject s id scope code index) := by
  unfold reject
  repeat' first
    | with_reducible assumption | with_reducible apply finish_keeps

theorem authFail_keeps {r s : State} (id : CmdId) (arg : Nat) (h : Keeps r s) :
    Keeps r (authFail s id arg) := by
  unfold authFail
  repeat' first
    | with_reducible assumption | with_reducible apply failCmd_keeps
    | (intro (s' : State); with_reducible refine keeps_cut (Keeps r s') ?_ ?_)
    | (intro (h' : Keeps r s'); clear_value s') | (intro x') | lift_lets | simp -zeta only [s']
    | simp -zeta only [keeps_mk]

theorem issue_keeps {r s : State} (i : Fin 64) (sel : Cmd → Bool) (k : State → Cmd → Out)
    (hk : ∀ s c, Keeps r s → KeepsOut r (k s c)) (h : Keeps r s) : KeepsOut r (issue s i sel k) := by
  unfold issue
  repeat' first
    | with_reducible assumption | with_reducible apply hk | with_reducible apply settled_keeps
    | with_reducible apply ok_keeps | with_reducible apply dispatchCmd_keeps
    | with_reducible apply reject_keeps | with_reducible apply keepsOut_next
    | (intro (s' : State); with_reducible refine keeps_cut (Keeps r s') ?_ ?_)
    | (intro (h' : Keeps r s'); clear_value s') | (intro x') | lift_lets | simp -zeta only [s']
    | simp -zeta only [keeps_mk] | split | with_reducible refine keeps_of_next (by assumption) ?_

theorem checked_keeps {r : State} (c : Cmd) (len : Nat) (good : Bool) (k : Out) (hk : KeepsOut r k) : KeepsOut r (checked c len good k) := by
  unfold checked
  repeat' first
    | with_reducible assumption | with_reducible exact hk | with_reducible apply keepsOut_next
    | with_reducible apply keepsOut_fault | split | with_reducible refine keeps_of_next (by assumption) ?_

theorem reaches_keeps {r : State} (good : Bool) (a : Nat) (k : Out) (hk : KeepsOut r k) : KeepsOut r (reaches good a k) := by
  unfold reaches
  repeat' first
    | with_reducible assumption | with_reducible exact hk | with_reducible apply ok_keeps
    | with_reducible apply keepsOut_next | with_reducible apply keepsOut_fault | split
    | with_reducible refine keeps_of_next (by assumption) ?_

theorem namedCores_keeps {r s : State} (c : Cmd) (mask : Nat) (k : Out)
    (hk : KeepsOut r k) (h : Keeps r s) : KeepsOut r (namedCores s c mask k) := by
  unfold namedCores
  repeat' first
    | with_reducible assumption | with_reducible exact hk | with_reducible apply finish_keeps
    | with_reducible apply keepsOut_next | split | with_reducible refine keeps_of_next (by assumption) ?_

theorem meetFlaws_keeps {r s : State} (c : Cmd) (l : List (Nat × Nat × Nat)) (k : State → Out)
    (hk : ∀ s, Keeps r s → KeepsOut r (k s)) (h : Keeps r s) : KeepsOut r (meetFlaws s c l k) := by
  unfold meetFlaws
  repeat' first
    | with_reducible assumption | with_reducible apply hk | with_reducible apply noteRerun_keeps
    | with_reducible apply exhaustAll_keeps | with_reducible apply keepsOut_next
    | with_reducible refine foldl_keeps (fun s' a' h' => ?_) ?_
    | (intro (s' : State); with_reducible refine keeps_cut (Keeps r s') ?_ ?_)
    | (intro (h' : Keeps r s'); clear_value s') | (intro x') | lift_lets | simp -zeta only [s']
    | simp -zeta only [keeps_mk] | split | with_reducible refine keeps_of_next (by assumption) ?_

theorem readsWell_keeps {r s : State} (c : Cmd) (l : List (Nat × Nat × Nat)) (k : State → Out)
    (hk : ∀ s, Keeps r s → KeepsOut r (k s)) (h : Keeps r s) : KeepsOut r (readsWell s c l k) := by
  unfold readsWell
  repeat' first
    | with_reducible assumption | with_reducible apply hk | with_reducible apply takeReads_keeps
    | with_reducible apply exhaustAll_keeps | with_reducible refine meetFlaws_keeps _ _ _ (fun s' h' => ?_) ?_
    | with_reducible apply keepsOut_next | with_reducible apply keepsOpt_findSome | (intro a')
    | (intro (s' : State); with_reducible refine keeps_cut (Keeps r s') ?_ ?_)
    | (intro (h' : Keeps r s'); clear_value s') | (intro x') | lift_lets | simp -zeta only [s']
    | simp -zeta only [keeps_mk] | split | with_reducible refine keeps_of_next (by assumption) ?_

theorem startWork_keeps {r s : State} (c : Cmd) (w : Work) (h : Keeps r s) :
    Keeps r (startWork s c w) := by
  unfold startWork
  repeat' first
    | with_reducible assumption | with_reducible apply setWork_keeps

theorem doneWith_keeps {r s : State} (c : Cmd) (detail : Nat) (h : Keeps r s) :
    KeepsOut r (doneWith s c detail) := by
  unfold doneWith
  repeat' first
    | with_reducible assumption | with_reducible apply setWork_keeps | with_reducible apply keepsOut_next
    | with_reducible refine keeps_of_next (by assumption) ?_

theorem doneWriting_keeps {r s : State} (c : Cmd) (outs : List (Nat × Nat)) (detail : Nat) (h : Keeps r s) :
    KeepsOut r (doneWriting s c outs detail) := by
  unfold doneWriting
  repeat' first
    | with_reducible assumption | with_reducible apply modCmd_keeps | with_reducible apply keepsOut_next
    | (intro (s' : State); with_reducible refine keeps_cut (Keeps r s') ?_ ?_)
    | (intro (h' : Keeps r s'); clear_value s') | (intro x') | lift_lets | simp -zeta only [s']
    | simp -zeta only [keeps_mk] | (show keyOf _ = keyOf _; rfl) | with_reducible apply keeps_map
    | with_reducible apply keeps_filter | with_reducible refine keeps_of_next (by assumption) ?_

theorem startParts_keeps {r s : State} (c : Cmd) (d : Desc) (fill : Option W64) (parts : List (Nat × Nat)) (outs : List (Nat × Nat)) (h : Keeps r s) :
    KeepsOut r (startParts s c d fill parts outs) := by
  unfold startParts
  repeat' first
    | with_reducible assumption | with_reducible apply modCmd_keeps | with_reducible apply keepsOut_next
    | (intro (s' : State); with_reducible refine keeps_cut (Keeps r s') ?_ ?_)
    | (intro (h' : Keeps r s'); clear_value s') | (intro x') | lift_lets | simp -zeta only [s']
    | simp -zeta only [keeps_mk] | (show keyOf _ = keyOf _; rfl) | split | with_reducible apply keeps_map
    | with_reducible apply keeps_filter | with_reducible refine keeps_of_next (by assumption) ?_

theorem transferCmd_keeps {r s : State} (c : Cmd) (mode : Option Nat) (h : Keeps r s) :
    KeepsOut r (transferCmd s c mode) := by
  unfold transferCmd
  exact checked_keeps _ _ _ _ (startParts_keeps _ _ _ _ _ h)

theorem overtop_keeps {r s : State} (id : CmdId) (h : Keeps r s) :
    Keeps r (overtop s id) := by
  unfold overtop
  repeat' first
    | with_reducible assumption | with_reducible apply modCmd_keeps
    | (intro (s' : State); with_reducible refine keeps_cut (Keeps r s') ?_ ?_)
    | (intro (h' : Keeps r s'); clear_value s') | (intro x') | lift_lets | simp -zeta only [s']
    | simp -zeta only [keeps_mk] | (show keyOf _ = keyOf _; rfl) | with_reducible apply keeps_map
    | with_reducible apply keeps_filter

theorem replaceShadow_keeps {r s : State} (id : CmdId) (old : Option SlChain) (h : Keeps r s) :
    Keeps r (replaceShadow s id old) := by
  unfold replaceShadow
  repeat' first
    | with_reducible assumption | with_reducible apply setWork_keeps | with_reducible apply overtop_keeps
    | (intro (s' : State); with_reducible refine keeps_cut (Keeps r s') ?_ ?_)
    | (intro (h' : Keeps r s'); clear_value s') | (intro x') | lift_lets | simp -zeta only [s']
    | simp -zeta only [keeps_mk] | split

theorem postAdvisory_keeps {r s : State} (c : Cmd) (k : Cause) (h : Keeps r s) :
    Keeps r (postAdvisory s c k) := by
  unfold postAdvisory
  repeat' first
    | with_reducible assumption | with_reducible apply logFault_keeps | with_reducible apply modCmd_keeps
    | (intro (s' : State); with_reducible refine keeps_cut (Keeps r s') ?_ ?_)
    | (intro (h' : Keeps r s'); clear_value s') | (intro x') | lift_lets | simp -zeta only [s']
    | simp -zeta only [keeps_mk] | (show keyOf _ = keyOf _; rfl) | with_reducible apply keeps_map
    | with_reducible apply keeps_filter

theorem postDeadlock_keeps {r s : State} (p : StallParty) (c : Cmd) (k : Nat) (h : Keeps r s) :
    Keeps r (postDeadlock s p c k) := by
  unfold postDeadlock
  repeat' first
    | with_reducible assumption | with_reducible apply advanceTo_keeps
    | with_reducible apply postAdvisory_keeps

theorem toSchedule_keeps {r s : State} (l : List Nat) (h : Keeps r s) :
    KeepsOpt r (toSchedule s l) := by
  unfold toSchedule
  repeat' first
    | with_reducible assumption | with_reducible apply advance_keeps | with_reducible apply keepsOpt_some
    | with_reducible apply keepsOpt_none | with_reducible apply keepsOpt_map
    | (intro (s' : State); with_reducible refine keeps_cut (Keeps r s') ?_ ?_)
    | (intro (h' : Keeps r s'); clear_value s') | (intro x') | lift_lets | simp -zeta only [s']
    | with_reducible refine keeps_of_some (by assumption) ?_

theorem startArray_keeps {r s : State} (c : Cmd) (w : ArrayWork) (L : Nat) (sec : BitVec 6) (h : Keeps r s) :
    Keeps r (startArray s c w L sec) := by
  unfold startArray
  repeat' first
    | with_reducible assumption | with_reducible apply modCmd_keeps
    | (intro (s' : State); with_reducible refine keeps_cut (Keeps r s') ?_ ?_)
    | (intro (h' : Keeps r s'); clear_value s') | (intro x') | lift_lets | simp -zeta only [s']
    | simp -zeta only [keeps_mk] | (show keyOf _ = keyOf _; rfl) | with_reducible apply keeps_map
    | with_reducible apply keeps_filter

theorem startGemm_keeps {r s : State} (c : Cmd) (t : Bool) (ps : List Prod) (h : Keeps r s) :
    KeepsOut r (startGemm s c t ps) := by
  unfold startGemm
  repeat' first
    | with_reducible assumption | with_reducible apply startArray_keeps | with_reducible apply keepsOut_next
    | (intro (s' : State); with_reducible refine keeps_cut (Keeps r s') ?_ ?_)
    | (intro (h' : Keeps r s'); clear_value s') | (intro x') | lift_lets | simp -zeta only [s'] | split
    | with_reducible refine keeps_of_next (by assumption) ?_

theorem gemmCmd_keeps {r s : State} (c : Cmd) (t : Bool) (h : Keeps r s) :
    KeepsOut r (gemmCmd s c t) := by
  unfold gemmCmd
  repeat' first
    | with_reducible assumption | with_reducible apply checked_keeps | with_reducible apply namedCores_keeps
    | with_reducible refine readsWell_keeps _ _ _ (fun s' h' => ?_) ?_ | with_reducible apply startGemm_keeps
    | with_reducible apply keepsOut_next
    | (intro (s' : State); with_reducible refine keeps_cut (Keeps r s') ?_ ?_)
    | (intro (h' : Keeps r s'); clear_value s') | (intro x') | lift_lets | simp -zeta only [s']
    | with_reducible refine keeps_of_next (by assumption) ?_

theorem startPrograms_keeps {r s : State} (c : Cmd) (w : ArrayWork) (words : Nat) (tiles : Nat) (L : Nat) (sec : BitVec 6) (h : Keeps r s) :
    KeepsOut r (startPrograms s c w words tiles L sec) := by
  unfold startPrograms
  repeat' first
    | with_reducible assumption | with_reducible apply checked_keeps | with_reducible apply reaches_keeps
    | with_reducible refine readsWell_keeps _ _ _ (fun s' h' => ?_) ?_ | with_reducible apply startArray_keeps
    | with_reducible apply keepsOut_next
    | (intro (s' : State); with_reducible refine keeps_cut (Keeps r s') ?_ ?_)
    | (intro (h' : Keeps r s'); clear_value s') | (intro x') | lift_lets | simp -zeta only [s'] | split
    | with_reducible refine keeps_of_next (by assumption) ?_

theorem setFlags_keeps {r s : State} (r' : FlagReg) (m : W32) (h : Keeps r s) :
    Keeps r (setFlags s r' m) := by
  unfold setFlags
  repeat' first
    | with_reducible assumption | with_reducible apply putInlet_keeps | with_reducible apply putOutfall_keeps
    | with_reducible apply putPort_keeps | with_reducible apply raiseCause_keeps
    | with_reducible apply timingEvent_keeps
    | (intro (s' : State); with_reducible refine keeps_cut (Keeps r s') ?_ ?_)
    | (intro (h' : Keeps r s'); clear_value s') | (intro x') | lift_lets | simp -zeta only [s']
    | simp -zeta only [keeps_mk] | split

theorem clearFlags_keeps {r s : State} (r' : FlagReg) (m : W32) (h : Keeps r s) :
    Keeps r (clearFlags s r' m) := by
  unfold clearFlags
  repeat' first
    | with_reducible assumption | with_reducible apply putInlet_keeps | with_reducible apply putOutfall_keeps
    | with_reducible apply putPort_keeps | with_reducible apply timingEvent_keeps
    | (intro (s' : State); with_reducible refine keeps_cut (Keeps r s') ?_ ?_)
    | (intro (h' : Keeps r s'); clear_value s') | (intro x') | lift_lets | simp -zeta only [s']
    | simp -zeta only [keeps_mk] | split

theorem clearWithSets_keeps {r s : State} (r' : FlagReg) (mask : W32) (sets : W32) (h : Keeps r s) :
    Keeps r (clearWithSets s r' mask sets) := by
  unfold clearWithSets
  repeat' first
    | with_reducible assumption | with_reducible apply lowerCauses_keeps | with_reducible apply setFlags_keeps
    | with_reducible apply clearFlags_keeps

theorem openInlet_keeps {r s : State} (i : Nat) (h : Keeps r s) :
    Keeps r (openInlet s i) := by
  unfold openInlet
  repeat' first
    | with_reducible assumption | with_reducible apply putInlet_keeps | with_reducible apply putOutfall_keeps
    | (intro (s' : State); with_reducible refine keeps_cut (Keeps r s') ?_ ?_)
    | (intro (h' : Keeps r s'); clear_value s') | (intro x') | lift_lets | simp -zeta only [s']
    | simp -zeta only [keeps_mk]

theorem enableEffect_keeps {r s : State} (i : Nat) (en : Bool) (h : Keeps r s) :
    Keeps r (enableEffect s i en) := by
  unfold enableEffect
  repeat' first
    | with_reducible assumption | with_reducible apply putInlet_keeps
    | with_reducible apply setInletFlag_keeps | with_reducible apply openInlet_keeps
    | (intro (s' : State); with_reducible refine keeps_cut (Keeps r s') ?_ ?_)
    | (intro (h' : Keeps r s'); clear_value s') | (intro x') | lift_lets | simp -zeta only [s']
    | simp -zeta only [keeps_mk] | split

theorem resumeInlet_keeps {r s : State} (i : Nat) (h : Keeps r s) :
    Keeps r (resumeInlet s i) := by
  unfold resumeInlet
  repeat' first
    | with_reducible assumption | with_reducible apply putInlet_keeps
    | (intro (s' : State); with_reducible refine keeps_cut (Keeps r s') ?_ ?_)
    | (intro (h' : Keeps r s'); clear_value s') | (intro x') | lift_lets | simp -zeta only [s']
    | simp -zeta only [keeps_mk] | split

theorem inletCtl_keeps {r s : State} (i : Nat) (v : W32) (h : Keeps r s) :
    Keeps r (inletCtl s i v) := by
  unfold inletCtl
  repeat' first
    | with_reducible assumption | with_reducible apply putInlet_keeps
    | with_reducible apply enableEffect_keeps | with_reducible apply resumeInlet_keeps
    | (intro (s' : State); with_reducible refine keeps_cut (Keeps r s') ?_ ?_)
    | (intro (h' : Keeps r s'); clear_value s') | (intro x') | lift_lets | simp -zeta only [s']
    | simp -zeta only [keeps_mk] | split

theorem writeQuiesce_keeps {r s : State} (q : Bool) (h : Keeps r s) :
    Keeps r (writeQuiesce s q) := by
  unfold writeQuiesce
  repeat' first
    | with_reducible assumption | with_reducible apply setDevState_keeps
    | (intro (s' : State); with_reducible refine keeps_cut (Keeps r s') ?_ ?_)
    | (intro (h' : Keeps r s'); clear_value s') | (intro x') | lift_lets | simp -zeta only [s']
    | simp -zeta only [keeps_mk] | split

theorem wakeTrigger_keeps {r s : State}  (h : Keeps r s) :
    Keeps r (wakeTrigger s) := by
  unfold wakeTrigger
  repeat' first
    | with_reducible assumption | (intro (s' : State); with_reducible refine keeps_cut (Keeps r s') ?_ ?_)
    | (intro (h' : Keeps r s'); clear_value s') | (intro x') | lift_lets | simp -zeta only [s']
    | simp -zeta only [keeps_mk] | split

theorem writeHead_keeps {r s : State} (i : Nat) (h' : Nat) (h : Keeps r s) :
    KeepsOut r (writeHead s i h') := by
  unfold writeHead
  repeat' first
    | with_reducible assumption | with_reducible apply putOutfall_keeps | with_reducible apply keepsOut_next
    | with_reducible apply keepsOut_fault
    | (intro (s' : State); with_reducible refine keeps_cut (Keeps r s') ?_ ?_)
    | (intro (h' : Keeps r s'); clear_value s') | (intro x') | lift_lets | simp -zeta only [s']
    | simp -zeta only [keeps_mk] | split | with_reducible refine keeps_of_next (by assumption) ?_

theorem groupCmd_keeps {r s : State} (g : Nat) (remove : Bool) (h : Keeps r s) :
    KeepsOut r (groupCmd s g remove) := by
  unfold groupCmd
  repeat' first
    | with_reducible assumption | with_reducible apply keepsOut_next | with_reducible apply keepsOut_fault
    | (intro (s' : State); with_reducible refine keeps_cut (Keeps r s') ?_ ?_)
    | (intro (h' : Keeps r s'); clear_value s') | (intro x') | lift_lets | simp -zeta only [s']
    | simp -zeta only [keeps_mk] | (show keyOf _ = keyOf _; rfl) | split | with_reducible apply keeps_map
    | with_reducible apply keeps_filter | with_reducible refine keeps_of_next (by assumption) ?_

theorem retrainPort_keeps {r s : State} (p : Nat) (h : Keeps r s) :
    Keeps r (retrainPort s p) := by
  unfold retrainPort
  repeat' first
    | with_reducible assumption | with_reducible apply breachPort_keeps | split

theorem disablePort_keeps {r s : State} (p : Nat) (v : Bool) (h : Keeps r s) :
    Keeps r (disablePort s p v) := by
  unfold disablePort
  repeat' first
    | with_reducible assumption | with_reducible apply putPort_keeps | with_reducible apply downPort_keeps
    | (intro (s' : State); with_reducible refine keeps_cut (Keeps r s') ?_ ?_)
    | (intro (h' : Keeps r s'); clear_value s') | (intro x') | lift_lets | simp -zeta only [s']
    | simp -zeta only [keeps_mk] | split

theorem clearSlot_keeps {r s : State} (k : Nat) (h : Keeps r s) :
    Keeps r (clearSlot s k) := by
  unfold clearSlot
  repeat' first
    | with_reducible assumption | (intro (s' : State); with_reducible refine keeps_cut (Keeps r s') ?_ ?_)
    | (intro (h' : Keeps r s'); clear_value s') | (intro x') | lift_lets | simp -zeta only [s']
    | simp -zeta only [keeps_mk]

theorem clearJobs_keeps {r s : State}  (h : Keeps r s) :
    Keeps r (clearJobs s) := by
  unfold clearJobs
  repeat' first
    | with_reducible assumption | (intro (s' : State); with_reducible refine keeps_cut (Keeps r s') ?_ ?_)
    | (intro (h' : Keeps r s'); clear_value s') | (intro x') | lift_lets | simp -zeta only [s']
    | simp -zeta only [keeps_mk]

theorem coreResetWrite_keeps {r s : State} (c : Nat) (h : Keeps r s) :
    Keeps r (coreResetWrite s c) := by
  unfold coreResetWrite
  repeat' first
    | with_reducible assumption | with_reducible apply beginReset_keeps | split

theorem setTideState_keeps {r s : State} (st : TideState) (h : Keeps r s) :
    Keeps r (setTideState s st) := by
  unfold setTideState
  repeat' first
    | with_reducible assumption | (intro (s' : State); with_reducible refine keeps_cut (Keeps r s') ?_ ?_)
    | (intro (h' : Keeps r s'); clear_value s') | (intro x') | lift_lets | simp -zeta only [s']
    | simp -zeta only [keeps_mk] | split

theorem tideCtl_keeps {r s : State} (master : Bool) (source : Nat) (en : Bool) (h : Keeps r s) :
    Keeps r (tideCtl s master source en) := by
  unfold tideCtl
  repeat' first
    | with_reducible assumption | with_reducible apply setTideState_keeps
    | (intro (s' : State); with_reducible refine keeps_cut (Keeps r s') ?_ ?_)
    | (intro (h' : Keeps r s'); clear_value s') | (intro x') | lift_lets | simp -zeta only [s']
    | simp -zeta only [keeps_mk] | split

theorem writeGlobal_keeps {r s : State} (o : Nat) (v : W32) (h : Keeps r s) :
    KeepsOut r (writeGlobal s o v) := by
  unfold writeGlobal
  repeat' first
    | with_reducible assumption | with_reducible apply clearWithSets_keeps
    | with_reducible apply writeQuiesce_keeps | with_reducible apply wakeTrigger_keeps
    | with_reducible apply keepsOut_next
    | (intro (s' : State); with_reducible refine keeps_cut (Keeps r s') ?_ ?_)
    | (intro (h' : Keeps r s'); clear_value s') | (intro x') | lift_lets | simp -zeta only [s']
    | simp -zeta only [keeps_mk] | split | with_reducible refine keeps_of_next (by assumption) ?_

theorem writeInletReg_keeps {r s : State} (i : Fin 64) (o : Nat) (v : W32) (h : Keeps r s) :
    KeepsOut r (writeInletReg s i o v) := by
  unfold writeInletReg
  repeat' first
    | with_reducible assumption | with_reducible apply putInlet_keeps
    | with_reducible apply clearWithSets_keeps | with_reducible apply inletCtl_keeps
    | with_reducible apply keepsOut_next
    | (intro (s' : State); with_reducible refine keeps_cut (Keeps r s') ?_ ?_)
    | (intro (h' : Keeps r s'); clear_value s') | (intro x') | lift_lets | simp -zeta only [s']
    | simp -zeta only | split | with_reducible refine keeps_of_next (by assumption) ?_

theorem writeOutfallReg_keeps {r s : State} (i : Fin 64) (o : Nat) (v : W32) (h : Keeps r s) :
    KeepsOut r (writeOutfallReg s i o v) := by
  unfold writeOutfallReg
  repeat' first
    | with_reducible assumption | with_reducible apply putOutfall_keeps
    | with_reducible apply clearWithSets_keeps | with_reducible apply writeHead_keeps
    | with_reducible apply keepsOut_next
    | (intro (s' : State); with_reducible refine keeps_cut (Keeps r s') ?_ ?_)
    | (intro (h' : Keeps r s'); clear_value s') | (intro x') | lift_lets | simp -zeta only [s']
    | simp -zeta only | split | with_reducible refine keeps_of_next (by assumption) ?_

theorem writeMsix_keeps {r s : State} (o : Nat) (v : W32) (h : Keeps r s) :
    Keeps r (writeMsix s o v) := by
  unfold writeMsix
  repeat' first
    | with_reducible assumption | with_reducible apply releaseVector_keeps
    | with_reducible refine foldl_keeps (fun s' a' h' => ?_) ?_
    | (intro (s' : State); with_reducible refine keeps_cut (Keeps r s') ?_ ?_)
    | (intro (h' : Keeps r s'); clear_value s') | (intro x') | lift_lets | simp -zeta only [s']
    | simp -zeta only [keeps_mk] | split

theorem writeIrqReg_keeps {r s : State} (o : Nat) (v : W32) (h : Keeps r s) :
    KeepsOut r (writeIrqReg s o v) := by
  unfold writeIrqReg
  repeat' first
    | with_reducible assumption | with_reducible apply writeMsix_keeps | with_reducible apply keepsOut_next
    | (intro (s' : State); with_reducible refine keeps_cut (Keeps r s') ?_ ?_)
    | (intro (h' : Keeps r s'); clear_value s') | (intro x') | lift_lets | simp -zeta only [s']
    | simp -zeta only [keeps_mk] | split | with_reducible refine keeps_of_next (by assumption) ?_

theorem writePumpReg_keeps {r s : State} (o : Nat) (v : W32) (h : Keeps r s) :
    KeepsOut r (writePumpReg s o v) := by
  unfold writePumpReg
  repeat' first
    | with_reducible assumption | with_reducible apply capM_keeps | with_reducible apply clearWithSets_keeps
    | with_reducible apply clearSlot_keeps | with_reducible apply clearJobs_keeps
    | with_reducible apply keepsOut_next | with_reducible apply keepsOut_fault
    | with_reducible refine foldl_keeps (fun s' a' h' => ?_) ?_
    | (intro (s' : State); with_reducible refine keeps_cut (Keeps r s') ?_ ?_)
    | (intro (h' : Keeps r s'); clear_value s') | (intro x') | lift_lets | simp -zeta only [s']
    | simp -zeta only [keeps_mk] | split | with_reducible refine keeps_of_next (by assumption) ?_

theorem writeTideReg_keeps {r s : State} (o : Nat) (v : W32) (h : Keeps r s) :
    KeepsOut r (writeTideReg s o v) := by
  unfold writeTideReg
  repeat' first
    | with_reducible assumption | with_reducible apply clearWithSets_keeps
    | with_reducible apply tideCtl_keeps | with_reducible apply keepsOut_next
    | (intro (s' : State); with_reducible refine keeps_cut (Keeps r s') ?_ ?_)
    | (intro (h' : Keeps r s'); clear_value s') | (intro x') | lift_lets | simp -zeta only [s']
    | simp -zeta only [keeps_mk] | split | with_reducible refine keeps_of_next (by assumption) ?_

theorem writeRoute_keeps {r s : State} (k : Nat) (v : W32) (h : Keeps r s) :
    Keeps r (writeRoute s k v) := by
  unfold writeRoute
  repeat' first
    | with_reducible assumption | with_reducible refine foldl_keeps (fun s' a' h' => ?_) ?_
    | (intro (s' : State); with_reducible refine keeps_cut (Keeps r s') ?_ ?_)
    | (intro (h' : Keeps r s'); clear_value s') | (intro x') | lift_lets | simp -zeta only [s']
    | simp -zeta only [keeps_mk]

theorem writePortsReg_keeps {r s : State} (o : Nat) (v : W32) (h : Keeps r s) :
    KeepsOut r (writePortsReg s o v) := by
  unfold writePortsReg
  repeat' first
    | with_reducible assumption | with_reducible apply partnerCheck_keeps
    | with_reducible apply clearWithSets_keeps | with_reducible apply groupCmd_keeps
    | with_reducible apply retrainPort_keeps | with_reducible apply disablePort_keeps
    | with_reducible apply writeRoute_keeps | with_reducible apply keepsOut_next
    | (intro (s' : State); with_reducible refine keeps_cut (Keeps r s') ?_ ?_)
    | (intro (h' : Keeps r s'); clear_value s') | (intro x') | lift_lets | simp -zeta only [s']
    | simp -zeta only [keeps_mk] | split | with_reducible refine keeps_of_next (by assumption) ?_

theorem writeSecReg_keeps {r s : State} (o : Nat) (v : W32) (h : Keeps r s) :
    KeepsOut r (writeSecReg s o v) := by
  unfold writeSecReg
  repeat' first
    | with_reducible assumption | with_reducible apply mailboxRun_keeps
    | with_reducible apply clearWithSets_keeps | with_reducible apply keepsOut_next
    | with_reducible refine foldl_keeps (fun s' a' h' => ?_) ?_
    | (intro (s' : State); with_reducible refine keeps_cut (Keeps r s') ?_ ?_)
    | (intro (h' : Keeps r s'); clear_value s') | (intro x') | lift_lets | simp -zeta only [s']
    | simp -zeta only [keeps_mk] | split | with_reducible refine keeps_of_next (by assumption) ?_

theorem writeErrReg_keeps {r s : State} (o : Nat) (v : W32) (h : Keeps r s) :
    KeepsOut r (writeErrReg s o v) := by
  unfold writeErrReg
  repeat' first
    | with_reducible assumption | with_reducible apply clearWithSets_keeps
    | with_reducible apply coreResetWrite_keeps | with_reducible apply keepsOut_next
    | with_reducible apply keepsOut_fault | with_reducible refine foldl_keeps (fun s' a' h' => ?_) ?_
    | (intro (s' : State); with_reducible refine keeps_cut (Keeps r s') ?_ ?_)
    | (intro (h' : Keeps r s'); clear_value s') | (intro x') | lift_lets | simp -zeta only [s']
    | simp -zeta only [keeps_mk] | (show keyOf _ = keyOf _; rfl) | split | with_reducible apply keeps_map
    | with_reducible apply keeps_filter | with_reducible refine keeps_of_next (by assumption) ?_

theorem writeReg_keeps {r s : State} (a : Nat) (v : W32) (h : Keeps r s) :
    KeepsOut r (writeReg s a v) := by
  unfold writeReg
  repeat' first
    | with_reducible assumption | with_reducible apply setEvent_keeps
    | with_reducible apply clearWithSets_keeps | with_reducible apply writeGlobal_keeps
    | with_reducible apply writeInletReg_keeps | with_reducible apply writeOutfallReg_keeps
    | with_reducible apply writeIrqReg_keeps | with_reducible apply writePumpReg_keeps
    | with_reducible apply writeTideReg_keeps | with_reducible apply writePortsReg_keeps
    | with_reducible apply writeSecReg_keeps | with_reducible apply writeErrReg_keeps
    | with_reducible apply keepsOut_next
    | (intro (s' : State); with_reducible refine keeps_cut (Keeps r s') ?_ ?_)
    | (intro (h' : Keeps r s'); clear_value s') | (intro x') | lift_lets | simp -zeta only [s']
    | simp -zeta only [keeps_mk] | split | with_reducible refine keeps_of_next (by assumption) ?_

theorem writeBar_keeps {r s : State} (a : Nat) (wide : Bool) (v : W64) (h : Keeps r s) :
    KeepsOut r (writeBar s a wide v) := by
  unfold writeBar
  repeat' first
    | with_reducible assumption | with_reducible apply writeReg_keeps | with_reducible apply keepsOut_next
    | with_reducible apply keepsOut_fault
    | (intro (s' : State); with_reducible refine keeps_cut (Keeps r s') ?_ ?_)
    | (intro (h' : Keeps r s'); clear_value s') | (intro x') | lift_lets | simp -zeta only [s']
    | simp -zeta only [keeps_mk] | split | with_reducible refine keeps_of_next (by assumption) ?_

theorem stallFetch_keeps {r s : State} (i : Nat) (h : Keeps r s) :
    Keeps r (stallFetch s i) := by
  unfold stallFetch
  repeat' first
    | with_reducible assumption | with_reducible apply putOutfall_keeps
    | (intro (s' : State); with_reducible refine keeps_cut (Keeps r s') ?_ ?_)
    | (intro (h' : Keeps r s'); clear_value s') | (intro x') | lift_lets | simp -zeta only [s']
    | simp -zeta only [keeps_mk] | split

theorem leaveReady_keeps {r s : State}  (h : Keeps r s) :
    Keeps r (leaveReady s) := by
  unfold leaveReady
  repeat' first
    | with_reducible assumption | with_reducible apply setDevState_keeps | split

theorem applySignal_keeps {r s : State} (e : Nat × Nat × Nat) (h : Keeps r s) :
    Keeps r (applySignal s e) := by
  unfold applySignal
  repeat' first
    | with_reducible assumption | with_reducible apply setEvent_keeps | with_reducible apply addEvent_keeps
    | split

theorem withGroup_keeps {r s : State} (c : Cmd) (g : Nat) (k : Out)
    (hk : KeepsOut r k) (h : Keeps r s) : KeepsOut r (withGroup s c g k) := by
  unfold withGroup
  repeat' first
    | with_reducible assumption | with_reducible exact hk | with_reducible apply reject_keeps
    | with_reducible apply keepsOut_next
    | (intro (s' : State); with_reducible refine keeps_cut (Keeps r s') ?_ ?_)
    | (intro (h' : Keeps r s'); clear_value s') | (intro x') | lift_lets | simp -zeta only [s']
    | simp -zeta only [keeps_mk] | split | with_reducible refine keeps_of_next (by assumption) ?_

theorem haltInlet_keeps {r s : State} (i : Nat) (h : Keeps r s) :
    Keeps r (haltInlet s i) := by
  unfold haltInlet
  repeat' first
    | with_reducible assumption | with_reducible apply putInlet_keeps
    | (intro (s' : State); with_reducible refine keeps_cut (Keeps r s') ?_ ?_)
    | (intro (h' : Keeps r s'); clear_value s') | (intro x') | lift_lets | simp -zeta only [s']
    | simp -zeta only [keeps_mk] | split

theorem abortHalts_keeps {r s : State} (scope : Nat) (inlet : Nat) (own : Nat) (h : Keeps r s) :
    Keeps r (abortHalts s scope inlet own) := by
  unfold abortHalts
  repeat' first
    | with_reducible assumption | with_reducible apply haltInlet_keeps
    | with_reducible refine foldl_keeps (fun s' a' h' => ?_) ?_
    | (intro (s' : State); with_reducible refine keeps_cut (Keeps r s') ?_ ?_)
    | (intro (h' : Keeps r s'); clear_value s') | (intro x') | lift_lets | simp -zeta only [s']
    | simp -zeta only [keeps_mk] | split

theorem pairUpCheck_keeps {r s : State}  (h : Keeps r s) :
    Keeps r (pairUpCheck s) := by
  unfold pairUpCheck
  repeat' first
    | with_reducible assumption | (intro (s' : State); with_reducible refine keeps_cut (Keeps r s') ?_ ?_)
    | (intro (h' : Keeps r s'); clear_value s') | (intro x') | lift_lets | simp -zeta only [s']
    | simp -zeta only [keeps_mk] | split

theorem pinClocks_keeps {r s : State}  (h : Keeps r s) :
    Keeps r (pinClocks s) := by
  unfold pinClocks
  repeat' first
    | with_reducible assumption | with_reducible apply putPower_keeps
    | with_reducible refine foldl_keeps (fun s' a' h' => ?_) ?_
    | (intro (s' : State); with_reducible refine keeps_cut (Keeps r s') ?_ ?_)
    | (intro (h' : Keeps r s'); clear_value s') | (intro x') | lift_lets | simp -zeta only [s']
    | simp -zeta only [keeps_mk]

theorem setLockstep_keeps {r s : State} (on : Bool) (partner : BitVec 12) (lead : Nat) (h : Keeps r s) :
    Keeps r (setLockstep s on partner lead) := by
  unfold setLockstep
  repeat' first
    | with_reducible assumption | with_reducible apply routeCtl_keeps | with_reducible apply lapse_keeps
    | with_reducible apply pairUpCheck_keeps
    | (intro (s' : State); with_reducible refine keeps_cut (Keeps r s') ?_ ?_)
    | (intro (h' : Keeps r s'); clear_value s') | (intro x') | lift_lets | simp -zeta only [s']
    | simp -zeta only [keeps_mk] | split

theorem dirPeriods_keeps {r s : State}  (h : Keeps r s) :
    Keeps r (dirPeriods s) := by
  unfold dirPeriods
  repeat' first
    | with_reducible assumption | (intro (s' : State); with_reducible refine keeps_cut (Keeps r s') ?_ ?_)
    | (intro (h' : Keeps r s'); clear_value s') | (intro x') | lift_lets | simp -zeta only [s']
    | simp -zeta only [keeps_mk] | split

theorem applyMode_keeps {r s : State} (repeatable : Bool) (lock : Bool) (partner : BitVec 12) (lead : Nat) (h : Keeps r s) :
    Keeps r (applyMode s repeatable lock partner lead) := by
  unfold applyMode
  repeat' first
    | with_reducible assumption | with_reducible apply brakeCore_keeps | with_reducible apply pinClocks_keeps
    | with_reducible apply setLockstep_keeps | with_reducible apply dirPeriods_keeps
    | with_reducible refine foldl_keeps (fun s' a' h' => ?_) ?_
    | (intro (s' : State); with_reducible refine keeps_cut (Keeps r s') ?_ ?_)
    | (intro (h' : Keeps r s'); clear_value s') | (intro x') | lift_lets | simp -zeta only [s']
    | simp -zeta only [keeps_mk] | split

theorem changeCaps_keeps {r s : State} (f : Pump → Pump) (h : Keeps r s) :
    Keeps r (changeCaps s f) := by
  unfold changeCaps
  repeat' first
    | with_reducible assumption | (intro (s' : State); with_reducible refine keeps_cut (Keeps r s') ?_ ?_)
    | (intro (h' : Keeps r s'); clear_value s') | (intro x') | lift_lets | simp -zeta only [s']
    | simp -zeta only [keeps_mk] | split

theorem selfTestFailed_keeps {r s : State} (core : Nat) (h : Keeps r s) :
    Keeps r (selfTestFailed s core) := by
  unfold selfTestFailed
  repeat' first
    | with_reducible assumption | with_reducible apply putCore_keeps | with_reducible apply logFault_keeps
    | with_reducible apply loseBerm_keeps
    | (intro (s' : State); with_reducible refine keeps_cut (Keeps r s') ?_ ?_)
    | (intro (h' : Keeps r s'); clear_value s') | (intro x') | lift_lets | simp -zeta only [s']
    | simp -zeta only [keeps_mk]

theorem deviceReset_keeps {r s : State}  (h : Keeps r s) :
    Keeps r (deviceReset s) := by
  unfold deviceReset
  exact ⟨h.1, fun _ => rfl, List.nil_sublist _⟩

theorem resetIf_keeps {r s : State}  (h : Keeps r s) :
    Keeps r (resetIf s) := by
  unfold resetIf
  repeat' first
    | with_reducible assumption | with_reducible apply deviceReset_keeps | split

theorem powerOn_keeps {r s : State}  (h : Keeps r s) :
    Keeps r (powerOn s) := by
  unfold powerOn
  repeat' first
    | with_reducible assumption | with_reducible apply deviceReset_keeps
    | (intro (s' : State); with_reducible refine keeps_cut (Keeps r s') ?_ ?_)
    | (intro (h' : Keeps r s'); clear_value s') | (intro x') | lift_lets | simp -zeta only [s']
    | simp -zeta only [keeps_mk]

theorem powerOff_keeps {r s : State}  (h : Keeps r s) :
    Keeps r (powerOff s) := by
  unfold powerOff
  repeat' first
    | with_reducible assumption | with_reducible apply deviceReset_keeps
    | (intro (s' : State); with_reducible refine keeps_cut (Keeps r s') ?_ ?_)
    | (intro (h' : Keeps r s'); clear_value s') | (intro x') | lift_lets | simp -zeta only [s']
    | simp -zeta only [keeps_mk]

theorem tripAllows_keeps {r s : State}  (h : Keeps r s) :
    Keeps r (tripAllows s).2 := by
  unfold tripAllows
  repeat' first
    | with_reducible assumption | with_reducible apply drawFree_keeps
    | (intro (q' : _ × State); with_reducible refine keeps_cut (Keeps r q'.2) ?_ ?_)
    | (intro (h' : Keeps r q'.2); clear_value q') | split | with_reducible refine keeps_snd (by assumption) ?_

theorem requestPower_keeps {r s : State}  (h : Keeps r s) :
    Keeps r (requestPower s).2 := by
  unfold requestPower
  repeat' first
    | with_reducible assumption | with_reducible apply powerOn_keeps | with_reducible apply tripAllows_keeps
    | (intro (s' : State); with_reducible refine keeps_cut (Keeps r s') ?_ ?_)
    | (intro (h' : Keeps r s'); clear_value s')
    | (intro (q' : _ × State); with_reducible refine keeps_cut (Keeps r q'.2) ?_ ?_)
    | (intro (h' : Keeps r q'.2); clear_value q') | (intro x') | lift_lets | simp -zeta only [s'] | split
    | with_reducible refine keeps_snd (by assumption) ?_

theorem trialFails_keeps {r s : State}  (h : Keeps r s) :
    Keeps r (trialFails s) := by
  unfold trialFails
  repeat' first
    | with_reducible assumption | with_reducible apply powerOff_keeps
    | (intro (s' : State); with_reducible refine keeps_cut (Keeps r s') ?_ ?_)
    | (intro (h' : Keeps r s'); clear_value s') | (intro x') | lift_lets | simp -zeta only [s']
    | simp -zeta only [keeps_mk]

theorem trialWorks_keeps {r s : State}  (h : Keeps r s) :
    Keeps r (trialWorks s) := by
  unfold trialWorks
  repeat' first
    | with_reducible assumption | (intro (s' : State); with_reducible refine keeps_cut (Keeps r s') ?_ ?_)
    | (intro (h' : Keeps r s'); clear_value s') | (intro x') | lift_lets | simp -zeta only [s']
    | simp -zeta only [keeps_mk] | split

theorem setFallback_keeps {r s : State}  (h : Keeps r s) :
    Keeps r (setFallback s) := by
  unfold setFallback
  repeat' first
    | with_reducible assumption | (intro (s' : State); with_reducible refine keeps_cut (Keeps r s') ?_ ?_)
    | (intro (h' : Keeps r s'); clear_value s') | (intro x') | lift_lets | simp -zeta only [s']
    | simp -zeta only [keeps_mk]

theorem trainPorts_keeps {r s : State}  (h : Keeps r s) :
    Keeps r (trainPorts s) := by
  unfold trainPorts
  repeat' first
    | with_reducible assumption | with_reducible apply putPort_keeps
    | with_reducible refine foldl_keeps (fun s' a' h' => ?_) ?_
    | (intro (s' : State); with_reducible refine keeps_cut (Keeps r s') ?_ ?_)
    | (intro (h' : Keeps r s'); clear_value s') | (intro x') | lift_lets | simp -zeta only [s']
    | simp -zeta only [keeps_mk]

theorem startImage_keeps {r s : State} (b : List Byte) (h : Keeps r s) :
    Keeps r (startImage s b) := by
  unfold startImage
  repeat' first
    | with_reducible assumption | with_reducible apply trainPorts_keeps
    | (intro (s' : State); with_reducible refine keeps_cut (Keeps r s') ?_ ?_)
    | (intro (h' : Keeps r s'); clear_value s') | (intro x') | lift_lets | simp -zeta only [s']
    | simp -zeta only [keeps_mk]

theorem logBoot_keeps {r s : State} (check : Nat) (h : Keeps r s) :
    Keeps r (logBoot s check) := by
  unfold logBoot
  repeat' first
    | with_reducible assumption | (intro (s' : State); with_reducible refine keeps_cut (Keeps r s') ?_ ?_)
    | (intro (h' : Keeps r s'); clear_value s') | (intro x') | lift_lets | simp -zeta only [s']
    | simp -zeta only [keeps_mk]

theorem bootFails_keeps {r s : State}  (h : Keeps r s) :
    Keeps r (bootFails s) := by
  unfold bootFails
  repeat' first
    | with_reducible assumption | with_reducible apply enterFault_keeps
    | with_reducible apply trialFails_keeps
    | (intro (s' : State); with_reducible refine keeps_cut (Keeps r s') ?_ ?_)
    | (intro (h' : Keeps r s'); clear_value s') | (intro x') | lift_lets | simp -zeta only [s'] | split

theorem chooseSlot_keeps {r s : State}  (h : Keeps r s) :
    Keeps r (chooseSlot s) := by
  unfold chooseSlot
  repeat' first
    | with_reducible assumption | with_reducible apply trialFails_keeps
    | with_reducible apply setFallback_keeps | with_reducible apply startImage_keeps
    | with_reducible apply logBoot_keeps | with_reducible apply bootFails_keeps
    | (intro (s' : State); with_reducible refine keeps_cut (Keeps r s') ?_ ?_)
    | (intro (h' : Keeps r s'); clear_value s') | (intro x') | lift_lets | simp -zeta only [s']
    | simp -zeta only [keeps_mk] | split

theorem bootStart_keeps {r s : State} (seedOk : Bool) (h : Keeps r s) :
    Keeps r (bootStart s seedOk) := by
  unfold bootStart
  repeat' first
    | with_reducible assumption | with_reducible apply bootFails_keeps | with_reducible apply chooseSlot_keeps
    | (intro (s' : State); with_reducible refine keeps_cut (Keeps r s') ?_ ?_)
    | (intro (h' : Keeps r s'); clear_value s') | (intro x') | lift_lets | simp -zeta only [s']
    | simp -zeta only [keeps_mk] | split

theorem bootCoreOut_keeps {r s : State} (c : Nat) (h : Keeps r s) :
    Keeps r (bootCoreOut s c) := by
  unfold bootCoreOut
  repeat' first
    | with_reducible assumption | with_reducible apply putSluice_keeps | with_reducible apply putCore_keeps
    | with_reducible apply logFault_keeps | with_reducible apply setCoreOut_keeps
    | with_reducible refine foldl_keeps (fun s' a' h' => ?_) ?_
    | (intro (s' : State); with_reducible refine keeps_cut (Keeps r s') ?_ ?_)
    | (intro (h' : Keeps r s'); clear_value s') | (intro x') | lift_lets | simp -zeta only [s']
    | simp -zeta only [keeps_mk]

theorem applyBrake_keeps {r s : State}  (h : Keeps r s) :
    Keeps r (applyBrake s) := by
  unfold applyBrake
  repeat' first
    | with_reducible assumption | with_reducible apply brakeCore_keeps
    | with_reducible refine foldl_keeps (fun s' a' h' => ?_) ?_
    | (intro (s' : State); with_reducible refine keeps_cut (Keeps r s') ?_ ?_)
    | (intro (h' : Keeps r s'); clear_value s') | (intro x') | lift_lets | simp -zeta only [s']
    | simp -zeta only [keeps_mk]

theorem leaveLowPower_keeps {r s : State}  (h : Keeps r s) :
    Keeps r (leaveLowPower s) := by
  unfold leaveLowPower
  repeat' first
    | with_reducible assumption | with_reducible apply putPower_keeps
    | with_reducible refine foldl_keeps (fun s' a' h' => ?_) ?_
    | (intro (s' : State); with_reducible refine keeps_cut (Keeps r s') ?_ ?_)
    | (intro (h' : Keeps r s'); clear_value s') | (intro x') | lift_lets | simp -zeta only [s']
    | simp -zeta only [keeps_mk]

theorem linkReset_keeps {r s : State}  (h : Keeps r s) :
    KeepsOut r (linkReset s) := by
  unfold linkReset
  repeat' first
    | with_reducible assumption | with_reducible apply deviceReset_keeps | with_reducible apply keepsOut_next
    | (intro (s' : State); with_reducible refine keeps_cut (Keeps r s') ?_ ?_)
    | (intro (h' : Keeps r s'); clear_value s') | (intro x') | lift_lets | simp -zeta only [s']
    | simp -zeta only [keeps_mk] | split | with_reducible refine keeps_of_next (by assumption) ?_

theorem reachCount_keeps {r s : State} (n : Nat) (h : Keeps r s) :
    Keeps r (reachCount s n) := by
  unfold reachCount
  repeat' first
    | with_reducible assumption | with_reducible apply advance_keeps

theorem withBound_keeps {r s : State} (c : Cmd) (k : Out)
    (hk : KeepsOut r k) (h : Keeps r s) : KeepsOut r (withBound s c k) := by
  unfold withBound
  repeat' first
    | with_reducible assumption | with_reducible exact hk | with_reducible apply reject_keeps
    | with_reducible apply checked_keeps | with_reducible apply keepsOut_next
    | (intro (s' : State); with_reducible refine keeps_cut (Keeps r s') ?_ ?_)
    | (intro (h' : Keeps r s'); clear_value s') | (intro x') | lift_lets | simp -zeta only [s']
    | simp -zeta only [keeps_mk] | split | with_reducible refine keeps_of_next (by assumption) ?_

theorem tearDown_keeps {r s : State} (q : Nat) (h : Keeps r s) :
    Keeps r (tearDown s q) := by
  unfold tearDown
  repeat' first
    | with_reducible assumption | with_reducible apply putQp_keeps | with_reducible apply qpLose_keeps
    | with_reducible apply pfcCheck_keeps
    | (intro (s' : State); with_reducible refine keeps_cut (Keeps r s') ?_ ?_)
    | (intro (h' : Keeps r s'); clear_value s') | (intro x') | lift_lets | simp -zeta only [s']
    | simp -zeta only [keeps_mk] | split

theorem inboundThen_keeps {r s : State} (q : Nat) (psn : BitVec 24) (ask : State → RoceAsk) (h : Keeps r s) :
    KeepsOut r (inboundThen s q psn ask) := by
  unfold inboundThen
  repeat' first
    | with_reducible assumption | with_reducible apply inboundElse_keeps
    | with_reducible apply inboundTake_keeps | with_reducible apply ok_keeps
    | with_reducible apply wakeTrigger_keeps | with_reducible apply keepsOut_next
    | (intro (s' : State); with_reducible refine keeps_cut (Keeps r s') ?_ ?_)
    | (intro (h' : Keeps r s'); clear_value s') | (intro x') | lift_lets | simp -zeta only [s']
    | simp -zeta only [keeps_mk] | split | with_reducible refine keeps_of_next (by assumption) ?_

theorem host_keeps {r s : State} (k : State → Out) (hk : ∀ s, Keeps r s → KeepsOut r (k s)) (h : Keeps r s) :
    KeepsOut r (host s k) := by
  unfold host
  repeat' first
    | with_reducible assumption | with_reducible apply hk | with_reducible apply settled_keeps
    | with_reducible apply keepsOut_next | split | with_reducible refine keeps_of_next (by assumption) ?_

theorem ring_keeps {r s : State} (i : Nat) (v : W32) (h : Keeps r s) :
    KeepsOut r (ring s i v) := by
  unfold ring
  repeat' first
    | with_reducible assumption | with_reducible apply putInlet_keeps
    | with_reducible apply setInletFlag_keeps | with_reducible apply wakeTrigger_keeps
    | with_reducible apply keepsOut_next | with_reducible apply keepsOut_fault
    | (intro (s' : State); with_reducible refine keeps_cut (Keeps r s') ?_ ?_)
    | (intro (h' : Keeps r s'); clear_value s') | (intro x') | lift_lets | simp -zeta only [s']
    | simp -zeta only [keeps_mk] | split | with_reducible refine keeps_of_next (by assumption) ?_

theorem apWrite_keeps {r s : State} (a : Nat) (data : List Byte) (h : Keeps r s) :
    KeepsOut r (apWrite s a data) := by
  unfold apWrite
  repeat' first
    | with_reducible assumption | with_reducible apply writeMem_keeps | with_reducible apply ddrTake_keeps
    | with_reducible apply keepsOut_next | with_reducible apply keepsOut_fault | split
    | with_reducible refine keeps_of_next (by assumption) ?_

theorem apRead_keeps {r s : State} (a : Nat) (n : Nat) (h : Keeps r s) :
    KeepsOut r (apRead s a n) := by
  unfold apRead
  repeat' first
    | with_reducible assumption | with_reducible apply logFault_keeps | with_reducible apply ddrTake_keeps
    | with_reducible apply keepsOut_next | with_reducible apply keepsOut_fault
    | (intro (s' : State); with_reducible refine keeps_cut (Keeps r s') ?_ ?_)
    | (intro (h' : Keeps r s'); clear_value s') | (intro x') | lift_lets | simp -zeta only [s']
    | simp -zeta only [keeps_mk] | split | with_reducible refine keeps_of_next (by assumption) ?_

theorem replayPort_keeps {r s : State} (p : Nat) (h : Keeps r s) :
    Keeps r (replayPort s p) := by
  unfold replayPort
  repeat' first
    | with_reducible assumption | with_reducible apply putPort_keeps | with_reducible apply timingEvent_keeps
    | with_reducible apply emitFlit_keeps | with_reducible apply breachPort_keeps
    | with_reducible refine foldl_keeps (fun s' a' h' => ?_) ?_
    | (intro (s' : State); with_reducible refine keeps_cut (Keeps r s') ?_ ?_)
    | (intro (h' : Keeps r s'); clear_value s') | (intro x') | lift_lets | simp -zeta only [s']
    | simp -zeta only [keeps_mk] | split

theorem ackFlits_keeps {r s : State} (p : Nat) (ack : BitVec 12) (h : Keeps r s) :
    Keeps r (ackFlits s p ack) := by
  unfold ackFlits
  repeat' first
    | with_reducible assumption | with_reducible apply putPort_keeps
    | (intro (s' : State); with_reducible refine keeps_cut (Keeps r s') ?_ ?_)
    | (intro (h' : Keeps r s'); clear_value s') | (intro x') | lift_lets | simp -zeta only [s']
    | simp -zeta only [keeps_mk] | split

theorem takeCredits_keeps {r s : State} (p : Nat) (f : Flit) (h : Keeps r s) :
    Keeps r (takeCredits s p f) := by
  unfold takeCredits
  repeat' first
    | with_reducible assumption | with_reducible apply putPort_keeps
    | (intro (s' : State); with_reducible refine keeps_cut (Keeps r s') ?_ ?_)
    | (intro (h' : Keeps r s'); clear_value s') | (intro x') | lift_lets | simp -zeta only [s']
    | simp -zeta only [keeps_mk] | split

theorem acceptFlit_keeps {r s : State} (p : Nat) (f : Flit) (h : Keeps r s) :
    Keeps r (acceptFlit s p f) := by
  unfold acceptFlit
  repeat' first
    | with_reducible assumption | with_reducible apply putPort_keeps
    | (intro (s' : State); with_reducible refine keeps_cut (Keeps r s') ?_ ?_)
    | (intro (h' : Keeps r s'); clear_value s') | (intro x') | lift_lets | simp -zeta only [s']
    | simp -zeta only [keeps_mk] | split

theorem arrives_keeps {r s : State} (p : Nat) (k : Packet) (kind : Nat) (h : Keeps r s) :
    KeepsOut r (arrives s p k kind) := by
  unfold arrives
  repeat' first
    | with_reducible assumption | with_reducible apply receive_keeps | with_reducible apply ok_keeps
    | with_reducible apply wakeTrigger_keeps | with_reducible apply keepsOut_next | split
    | with_reducible refine keeps_of_next (by assumption) ?_

theorem setCapDuty_keeps {r s : State} (c : Nat) (k : Nat) (h : Keeps r s) :
    Keeps r (setCapDuty s c k) := by
  unfold setCapDuty
  repeat' first
    | with_reducible assumption | with_reducible apply putPower_keeps
    | (intro (s' : State); with_reducible refine keeps_cut (Keeps r s') ?_ ?_)
    | (intro (h' : Keeps r s'); clear_value s') | (intro x') | lift_lets | simp -zeta only [s']
    | simp -zeta only [keeps_mk]

theorem lowerDuties_keeps {r s : State} (x : Nat) (z : Int) (h : Keeps r s) :
    Keeps r (lowerDuties x s z) := by
  induction x generalizing s with
  | zero =>
    unfold lowerDuties
    repeat' first
      | with_reducible assumption | with_reducible apply ih | with_reducible apply setCapDuty_keeps
      | (intro (s' : State); with_reducible refine keeps_cut (Keeps r s') ?_ ?_)
      | (intro (h' : Keeps r s'); clear_value s') | (intro x') | lift_lets | simp -zeta only [s']
      | simp -zeta only [keeps_mk] | split
  | succ n ih =>
    unfold lowerDuties
    repeat' first
      | with_reducible assumption | with_reducible apply ih | with_reducible apply setCapDuty_keeps
      | (intro (s' : State); with_reducible refine keeps_cut (Keeps r s') ?_ ?_)
      | (intro (h' : Keeps r s'); clear_value s') | (intro x') | lift_lets | simp -zeta only [s']
      | simp -zeta only [keeps_mk] | split

theorem raiseDuties_keeps {r s : State} (x : List Nat) (z : Int) (h : Keeps r s) :
    Keeps r (raiseDuties x s z) := by
  induction x generalizing s with
  | nil =>
    unfold raiseDuties
    repeat' first
      | with_reducible assumption | with_reducible apply ih | with_reducible apply setCapDuty_keeps
      | (intro (s' : State); with_reducible refine keeps_cut (Keeps r s') ?_ ?_)
      | (intro (h' : Keeps r s'); clear_value s') | (intro x') | lift_lets | simp -zeta only [s'] | split
  | cons b t ih =>
    unfold raiseDuties
    repeat' first
      | with_reducible assumption | with_reducible apply ih | with_reducible apply setCapDuty_keeps
      | (intro (s' : State); with_reducible refine keeps_cut (Keeps r s') ?_ ?_)
      | (intro (h' : Keeps r s'); clear_value s') | (intro x') | lift_lets | simp -zeta only [s'] | split

theorem fastLimiter_keeps {r s : State}  (h : Keeps r s) :
    Keeps r (fastLimiter s) := by
  unfold fastLimiter
  repeat' first
    | with_reducible assumption | with_reducible apply lowerDuties_keeps
    | with_reducible apply raiseDuties_keeps
    | (intro (s' : State); with_reducible refine keeps_cut (Keeps r s') ?_ ?_)
    | (intro (h' : Keeps r s'); clear_value s') | (intro x') | lift_lets | simp -zeta only [s'] | split

theorem setUnreachable_keeps {r s : State}  (h : Keeps r s) :
    Keeps r (setUnreachable s) := by
  unfold setUnreachable
  repeat' first
    | with_reducible assumption | with_reducible apply logFault_keeps
    | (intro (s' : State); with_reducible refine keeps_cut (Keeps r s') ?_ ?_)
    | (intro (h' : Keeps r s'); clear_value s') | (intro x') | lift_lets | simp -zeta only [s']
    | simp -zeta only [keeps_mk] | (show keyOf _ = keyOf _; rfl) | with_reducible apply keeps_map
    | with_reducible apply keeps_filter

theorem floorTest_keeps {r s : State}  (h : Keeps r s) :
    Keeps r (floorTest s) := by
  unfold floorTest
  repeat' first
    | with_reducible assumption | with_reducible apply setUnreachable_keeps
    | (intro (s' : State); with_reducible refine keeps_cut (Keeps r s') ?_ ?_)
    | (intro (h' : Keeps r s'); clear_value s') | (intro x') | lift_lets | simp -zeta only [s']
    | simp -zeta only [keeps_mk] | split

theorem dealShares_keeps {r s : State} (x : List Nat) (z : Nat) (h : Keeps r s) :
    Keeps r (dealShares x s z) := by
  induction x generalizing s z with
  | nil =>
    unfold dealShares
    repeat' first
      | with_reducible assumption | with_reducible apply ih | with_reducible apply putPower_keeps
      | (intro (s' : State); with_reducible refine keeps_cut (Keeps r s') ?_ ?_)
      | (intro (h' : Keeps r s'); clear_value s') | (intro x') | lift_lets | simp -zeta only [s']
      | simp -zeta only [keeps_mk]
  | cons b t ih =>
    unfold dealShares
    repeat' first
      | with_reducible assumption | with_reducible apply ih | with_reducible apply putPower_keeps
      | (intro (s' : State); with_reducible refine keeps_cut (Keeps r s') ?_ ?_)
      | (intro (h' : Keeps r s'); clear_value s') | (intro x') | lift_lets | simp -zeta only [s']
      | simp -zeta only [keeps_mk]

theorem divideCap_keeps {r s : State}  (h : Keeps r s) :
    Keeps r (divideCap s) := by
  unfold divideCap
  repeat' first
    | with_reducible assumption | with_reducible apply dealShares_keeps
    | with_reducible refine foldl_keeps (fun s' a' h' => ?_) ?_

theorem raiseM_keeps {r s : State} (c : Nat) (m : Nat) (h : Keeps r s) :
    Keeps r (raiseM s c m) := by
  unfold raiseM
  repeat' first
    | with_reducible assumption | with_reducible apply putPower_keeps
    | (intro (s' : State); with_reducible refine keeps_cut (Keeps r s') ?_ ?_)
    | (intro (h' : Keeps r s'); clear_value s') | (intro x') | lift_lets | simp -zeta only [s']
    | simp -zeta only [keeps_mk]

theorem slowCore_keeps {r s : State} (c : Nat) (h : Keeps r s) :
    Keeps r (slowCore s c) := by
  unfold slowCore
  repeat' first
    | with_reducible assumption | with_reducible apply lowerM_keeps | with_reducible apply raiseM_keeps
    | (intro (s' : State); with_reducible refine keeps_cut (Keeps r s') ?_ ?_)
    | (intro (h' : Keeps r s'); clear_value s') | (intro x') | lift_lets | simp -zeta only [s'] | split

theorem lowerNow_keeps {r s : State} (c : Nat) (h : Keeps r s) :
    Keeps r (lowerNow s c) := by
  unfold lowerNow
  repeat' first
    | with_reducible assumption | with_reducible apply lowerM_keeps | split

theorem rebalance_keeps {r s : State}  (h : Keeps r s) :
    Keeps r (rebalance s) := by
  unfold rebalance
  repeat' first
    | with_reducible assumption | with_reducible apply divideCap_keeps | with_reducible apply lowerNow_keeps
    | with_reducible refine foldl_keeps (fun s' a' h' => ?_) ?_
    | (intro (s' : State); with_reducible refine keeps_cut (Keeps r s') ?_ ?_)
    | (intro (h' : Keeps r s'); clear_value s') | (intro x') | lift_lets | simp -zeta only [s'] | split

theorem learnCore_keeps {r s : State} (c : Nat) (h : Keeps r s) :
    Keeps r (learnCore s c) := by
  unfold learnCore
  repeat' first
    | with_reducible assumption | (intro (s' : State); with_reducible refine keeps_cut (Keeps r s') ?_ ?_)
    | (intro (h' : Keeps r s'); clear_value s') | (intro x') | lift_lets | simp -zeta only [s']
    | simp -zeta only [keeps_mk] | split

theorem renewClasses_keeps {r s : State} (c : Nat) (h : Keeps r s) :
    Keeps r (renewClasses s c) := by
  unfold renewClasses
  repeat' first
    | with_reducible assumption | with_reducible apply putPower_keeps
    | (intro (s' : State); with_reducible refine keeps_cut (Keeps r s') ?_ ?_)
    | (intro (h' : Keeps r s'); clear_value s') | (intro x') | lift_lets | simp -zeta only [s']
    | simp -zeta only [keeps_mk]

theorem creditEnergy_keeps {r s : State} (id : CmdId) (uj : Nat) (h : Keeps r s) :
    Keeps r (creditEnergy s id uj) := by
  unfold creditEnergy
  split
  · exact keeps_mk.2 h
  · exact keeps_mk.2 (putInlet_keeps _ _ (modCmd_keeps _ _ h (fun _ => rfl)))

theorem estimateCore_keeps {r s : State} (c : Nat) (h : Keeps r s) :
    Keeps r (estimateCore s c) := by
  unfold estimateCore
  repeat' first
    | with_reducible assumption | with_reducible apply putPower_keeps
    | (intro (s' : State); with_reducible refine keeps_cut (Keeps r s') ?_ ?_)
    | (intro (h' : Keeps r s'); clear_value s') | (intro x') | lift_lets | simp -zeta only [s']
    | simp -zeta only [keeps_mk]

theorem estimate_keeps {r s : State} (e : IntervalEst) (h : Keeps r s) :
    Keeps r (estimate s e) := by
  unfold estimate
  repeat' first
    | with_reducible assumption | with_reducible apply estimateCore_keeps
    | with_reducible refine foldl_keeps (fun s' a' h' => ?_) ?_
    | (intro (s' : State); with_reducible refine keeps_cut (Keeps r s') ?_ ?_)
    | (intro (h' : Keeps r s'); clear_value s') | (intro x') | lift_lets | simp -zeta only [s']
    | simp -zeta only [keeps_mk]

theorem attributeEnergy_keeps {r s : State} (e : IntervalEst) (h : Keeps r s) :
    Keeps r (attributeEnergy s e) := by
  unfold attributeEnergy
  repeat' first
    | with_reducible assumption | with_reducible apply creditEnergy_keeps
    | with_reducible refine foldl_keeps (fun s' a' h' => ?_) ?_
    | (intro (s' : State); with_reducible refine keeps_cut (Keeps r s') ?_ ?_)
    | (intro (h' : Keeps r s'); clear_value s') | (intro x') | lift_lets | simp -zeta only [s']
    | simp -zeta only [keeps_mk]

theorem coolDown_keeps {r s : State} (c : Nat) (h : Keeps r s) :
    Keeps r (coolDown s c) := by
  unfold coolDown
  repeat' first
    | with_reducible assumption | with_reducible apply putPower_keeps
    | (intro (s' : State); with_reducible refine keeps_cut (Keeps r s') ?_ ?_)
    | (intro (h' : Keeps r s'); clear_value s') | (intro x') | lift_lets | simp -zeta only [s']
    | simp -zeta only [keeps_mk] | split

theorem brakeStep_keeps {r s : State}  (h : Keeps r s) :
    Keeps r (brakeStep s) := by
  unfold brakeStep
  repeat' first
    | with_reducible assumption | (intro (s' : State); with_reducible refine keeps_cut (Keeps r s') ?_ ?_)
    | (intro (h' : Keeps r s'); clear_value s') | (intro x') | lift_lets | simp -zeta only [s']
    | simp -zeta only [keeps_mk] | split

theorem toInterval_keeps {r s : State}  (h : Keeps r s) :
    Keeps r (toInterval s) := by
  unfold toInterval
  repeat' first
    | with_reducible assumption | with_reducible apply advance_keeps
    | (intro (s' : State); with_reducible refine keeps_cut (Keeps r s') ?_ ?_)
    | (intro (h' : Keeps r s'); clear_value s') | (intro x') | lift_lets | simp -zeta only [s'] | split

theorem toMultiple_keeps {r s : State} (n : Nat) (h : Keeps r s) :
    Keeps r (toMultiple s n) := by
  unfold toMultiple
  repeat' first
    | with_reducible assumption | with_reducible apply advance_keeps

theorem capsDone_keeps {r s : State}  (h : Keeps r s) :
    Keeps r (capsDone s) := by
  unfold capsDone
  repeat' first
    | with_reducible assumption | (intro (s' : State); with_reducible refine keeps_cut (Keeps r s') ?_ ?_)
    | (intro (h' : Keeps r s'); clear_value s') | (intro x') | lift_lets | simp -zeta only [s']
    | simp -zeta only | (show keyOf _ = keyOf _; rfl) | split | with_reducible apply keeps_map
    | with_reducible apply keeps_filter

theorem restoreDuties_keeps {r s : State}  (h : Keeps r s) :
    Keeps r (restoreDuties s) := by
  unfold restoreDuties
  repeat' first
    | with_reducible assumption | with_reducible apply raiseDuties_keeps
    | with_reducible refine foldl_keeps (fun s' a' h' => ?_) ?_
    | (intro (s' : State); with_reducible refine keeps_cut (Keeps r s') ?_ ?_)
    | (intro (h' : Keeps r s'); clear_value s') | (intro x') | lift_lets | simp -zeta only [s'] | split

theorem lowerMax_keeps {r s : State} (c : Nat) (h : Keeps r s) :
    Keeps r (lowerMax s c) := by
  unfold lowerMax
  repeat' first
    | with_reducible assumption | with_reducible apply putPower_keeps | with_reducible apply logFault_keeps
    | with_reducible apply capM_keeps
    | (intro (s' : State); with_reducible refine keeps_cut (Keeps r s') ?_ ?_)
    | (intro (h' : Keeps r s'); clear_value s') | (intro x') | lift_lets | simp -zeta only [s']
    | simp -zeta only [keeps_mk]

theorem ageCore_keeps {r s : State} (c : Nat) (h : Keeps r s) :
    Keeps r (ageCore s c) := by
  unfold ageCore
  repeat' first
    | with_reducible assumption | with_reducible apply firmwareOffline_keeps
    | with_reducible apply lowerMax_keeps
    | (intro (s' : State); with_reducible refine keeps_cut (Keeps r s') ?_ ?_)
    | (intro (h' : Keeps r s'); clear_value s') | (intro x') | lift_lets | simp -zeta only [s'] | split

theorem tripChip_keeps {r s : State}  (h : Keeps r s) :
    Keeps r (tripChip s) := by
  unfold tripChip
  repeat' first
    | with_reducible assumption | with_reducible apply powerOff_keeps
    | (intro (s' : State); with_reducible refine keeps_cut (Keeps r s') ?_ ?_)
    | (intro (h' : Keeps r s'); clear_value s') | (intro x') | lift_lets | simp -zeta only [s']
    | simp -zeta only [keeps_mk]

theorem readCore_keeps {r s : State} (d : SensorData) (c : Nat) (h : Keeps r s) :
    Keeps r (readCore d s c) := by
  unfold readCore
  repeat' first
    | with_reducible assumption | with_reducible apply putPower_keeps
    | (intro (s' : State); with_reducible refine keeps_cut (Keeps r s') ?_ ?_)
    | (intro (h' : Keeps r s'); clear_value s') | (intro x') | lift_lets | simp -zeta only [s']
    | simp -zeta only [keeps_mk] | split

theorem eolNotice_keeps {r s : State} (crit : Bool) (h : Keeps r s) :
    Keeps r (eolNotice s crit) := by
  unfold eolNotice
  repeat' first
    | with_reducible assumption | with_reducible apply logFault_keeps | with_reducible apply raiseAlert_keeps
    | (intro (s' : State); with_reducible refine keeps_cut (Keeps r s') ?_ ?_)
    | (intro (h' : Keeps r s'); clear_value s') | (intro x') | lift_lets | simp -zeta only [s']
    | simp -zeta only [keeps_mk] | split

theorem hotRead_keeps {r s : State} (urgent : Bool) (e : Nat) (h : Keeps r s) :
    Keeps r (hotRead s urgent e) := by
  unfold hotRead
  repeat' first
    | with_reducible assumption | with_reducible apply writeMem_keeps | with_reducible apply ddrTake_keeps
    | (intro (s' : State); with_reducible refine keeps_cut (Keeps r s') ?_ ?_)
    | (intro (h' : Keeps r s'); clear_value s') | (intro x') | lift_lets | simp -zeta only [s']
    | simp -zeta only [keeps_mk] | split

theorem dirPut_keeps {r s : State} (urgent : Bool) (e : Nat) (x : DirEntry) (h : Keeps r s) :
    Keeps r (dirPut s urgent e x) := by
  unfold dirPut
  repeat' first
    | with_reducible assumption | with_reducible apply writeMem_keeps | with_reducible apply writeLe_keeps
    | with_reducible apply ddrTake_keeps
    | (intro (s' : State); with_reducible refine keeps_cut (Keeps r s') ?_ ?_)
    | (intro (h' : Keeps r s'); clear_value s') | (intro x') | lift_lets | simp -zeta only [s'] | split

theorem dirReruns_keeps {r s : State} (seg : Bool) (n : Nat) (h : Keeps r s) :
    Keeps r (dirReruns s seg n) := by
  unfold dirReruns
  repeat' first
    | with_reducible assumption | with_reducible apply timedReruns_keeps | split

theorem dirReads_keeps {r s : State} (c : Cmd) (seg : Bool) (tile : Nat) (l : List (Nat × Nat)) (h : Keeps r s) :
    Keeps r (dirReads s c seg tile l).1 := by
  unfold dirReads
  split
  · exact dirReruns_keeps _ _ h
  · have h2 : Keeps r (modCmd s c.id (fun k => { k with
        flaws := k.flaws.filter (fun a => !l.any (fun r => r.1 ≤ a && a < r.1 + r.2)) })) := modCmd_keeps _ _ h (fun _ => rfl)
    dsimp only
    split
    · exact dirReruns_keeps _ _ h2
    · exact foldl_keeps (fun s' a h' => noteRerun_keeps _ _ _ h') (dirReruns_keeps _ _ h2)

theorem takeHit_keeps {r s : State} (urgent : Bool) (q : LookArg) (e : Nat) (x : DirEntry) (h : Keeps r s) :
    Keeps r (takeHit s urgent q e x) := by
  unfold takeHit
  repeat' first
    | with_reducible assumption | with_reducible apply dirPut_keeps
    | (intro (s' : State); with_reducible refine keeps_cut (Keeps r s') ?_ ?_)
    | (intro (h' : Keeps r s'); clear_value s') | (intro x') | lift_lets | simp -zeta only [s']
    | simp -zeta only [keeps_mk] | split

theorem lookStep_keeps {r s : State} (c : Cmd) (q : LookArg) (idx : Nat) (a : Nat) (h : Keeps r s) :
    KeepsLook r (lookStep s c q idx a) := by
  unfold lookStep
  repeat' first
    | with_reducible assumption | with_reducible apply ddrTake_keeps | with_reducible apply hotRead_keeps
    | with_reducible apply dirReads_keeps | with_reducible apply takeHit_keeps
    | with_reducible apply keepsLook_ends | with_reducible apply keepsLook_more
    | with_reducible refine foldl_keeps (fun s' a' h' => ?_) ?_
    | (intro (s' : State); with_reducible refine keeps_cut (Keeps r s') ?_ ?_)
    | (intro (h' : Keeps r s'); clear_value s')
    | (intro (p' : State × _); with_reducible refine keeps_cut (Keeps r p'.1) ?_ ?_)
    | (intro (h' : Keeps r p'.1); clear_value p') | (intro x') | lift_lets | simp -zeta only [s']
    | simp -zeta only [keeps_mk] | split | with_reducible refine keeps_fst (by assumption) ?_
    | with_reducible refine keeps_of_ends (by assumption) ?_
    | with_reducible refine keeps_of_more (by assumption) ?_

theorem lookLoop_keeps {r s : State} (x : Nat) (z : Cmd) (u : LookArg) (v : Nat) (w : Nat) (a : Nat) (b : List Byte) (h : Keeps r s) :
    Keeps r (lookLoop x s z u v w a b).1 := by
  induction x generalizing s a b with
  | zero =>
    unfold lookLoop
    repeat' first
      | with_reducible assumption | with_reducible apply ih | with_reducible apply lookStep_keeps
      | with_reducible apply keepsLook_ends | with_reducible apply keepsLook_more
      | (intro (s' : State); with_reducible refine keeps_cut (Keeps r s') ?_ ?_)
      | (intro (h' : Keeps r s'); clear_value s')
      | (intro (p' : State × _); with_reducible refine keeps_cut (Keeps r p'.1) ?_ ?_)
      | (intro (h' : Keeps r p'.1); clear_value p') | (intro x') | lift_lets | simp -zeta only [s']
      | simp -zeta only [keeps_mk] | split | with_reducible refine keeps_fst (by assumption) ?_
      | with_reducible refine keeps_of_ends (by assumption) ?_
      | with_reducible refine keeps_of_more (by assumption) ?_
  | succ n ih =>
    unfold lookLoop
    repeat' first
      | with_reducible assumption | with_reducible apply ih | with_reducible apply lookStep_keeps
      | with_reducible apply keepsLook_ends | with_reducible apply keepsLook_more
      | (intro (s' : State); with_reducible refine keeps_cut (Keeps r s') ?_ ?_)
      | (intro (h' : Keeps r s'); clear_value s')
      | (intro (p' : State × _); with_reducible refine keeps_cut (Keeps r p'.1) ?_ ?_)
      | (intro (h' : Keeps r p'.1); clear_value p') | (intro x') | lift_lets | simp -zeta only [s']
      | simp -zeta only | split | with_reducible refine keeps_fst (by assumption) ?_
      | with_reducible refine keeps_of_ends (by assumption) ?_
      | with_reducible refine keeps_of_more (by assumption) ?_

theorem lookPrompt_keeps {r s : State} (c : Cmd) (q : LookArg) (idx : Nat) (b : List Byte) (h : Keeps r s) :
    Keeps r (lookPrompt s c q idx b).1 := by
  unfold lookPrompt
  repeat' first
    | with_reducible assumption | with_reducible apply modCmd_keeps | with_reducible apply writeMem_keeps
    | with_reducible apply ddrTake_keeps | with_reducible apply lookLoop_keeps
    | (intro (s' : State); with_reducible refine keeps_cut (Keeps r s') ?_ ?_)
    | (intro (h' : Keeps r s'); clear_value s')
    | (intro (p' : State × _); with_reducible refine keeps_cut (Keeps r p'.1) ?_ ?_)
    | (intro (h' : Keeps r p'.1); clear_value p') | (intro x') | lift_lets | simp -zeta only [s']
    | simp -zeta only [keeps_mk] | (show keyOf _ = keyOf _; rfl) | split | with_reducible apply keeps_map
    | with_reducible apply keeps_filter | with_reducible refine keeps_fst (by assumption) ?_

theorem lookAll_keeps {r s : State} (x : List (List Byte × Nat)) (z : Cmd) (u : LookArg) (v : Nat) (h : Keeps r s) :
    Keeps r (lookAll x s z u v).1 := by
  induction x generalizing s v with
  | nil =>
    unfold lookAll
    repeat' first
      | with_reducible assumption | with_reducible apply ih | with_reducible apply lookPrompt_keeps
      | (intro (s' : State); with_reducible refine keeps_cut (Keeps r s') ?_ ?_)
      | (intro (h' : Keeps r s'); clear_value s')
      | (intro (p' : State × _); with_reducible refine keeps_cut (Keeps r p'.1) ?_ ?_)
      | (intro (h' : Keeps r p'.1); clear_value p') | (intro x') | lift_lets | simp -zeta only [s']
      | simp -zeta only [keeps_mk] | split | with_reducible refine keeps_fst (by assumption) ?_
  | cons b t ih =>
    unfold lookAll
    repeat' first
      | with_reducible assumption | with_reducible apply ih | with_reducible apply lookPrompt_keeps
      | (intro (s' : State); with_reducible refine keeps_cut (Keeps r s') ?_ ?_)
      | (intro (h' : Keeps r s'); clear_value s')
      | (intro (p' : State × _); with_reducible refine keeps_cut (Keeps r p'.1) ?_ ?_)
      | (intro (h' : Keeps r p'.1); clear_value p') | (intro x') | lift_lets | simp -zeta only [s']
      | simp -zeta only | split | with_reducible refine keeps_fst (by assumption) ?_

theorem dirEnd_keeps {r s : State} (c : Cmd) (stop : Option DirStop) (k : Out)
    (hk : KeepsOut r k) (h : Keeps r s) : KeepsOut r (dirEnd s c stop k) := by
  unfold dirEnd
  repeat' first
    | with_reducible assumption | with_reducible exact hk | with_reducible apply exhaustAll_keeps
    | with_reducible apply keepsOut_next | with_reducible apply keepsOut_fault
    | (intro (s' : State); with_reducible refine keeps_cut (Keeps r s') ?_ ?_)
    | (intro (h' : Keeps r s'); clear_value s') | (intro x') | lift_lets | simp -zeta only [s']
    | simp -zeta only [keeps_mk] | split | with_reducible refine keeps_of_next (by assumption) ?_

theorem insertStep_keeps {r s : State} (urgent : Bool) (acquire : Bool) (x : DirEntry) (h : Keeps r s) :
    KeepsPick r (insertStep s urgent acquire x) := by
  unfold insertStep
  repeat' first
    | with_reducible assumption | with_reducible apply hotRead_keeps | with_reducible apply dirPut_keeps
    | with_reducible apply keepsPick_some | with_reducible apply keepsPick_none
    | with_reducible apply keepsPick_map | with_reducible refine foldl_keeps (fun s' a' h' => ?_) ?_
    | (intro (s' : State); with_reducible refine keeps_cut (Keeps r s') ?_ ?_)
    | (intro (h' : Keeps r s'); clear_value s') | (intro x') | lift_lets | simp -zeta only [s']
    | simp -zeta only [keeps_mk] | split | with_reducible refine keeps_of_pick (by assumption) ?_
    | with_reducible refine keeps_of_pick' (by assumption) ?_

theorem insertRecords_keeps {r s : State} (x : List (DirEntry × Nat)) (z : Cmd) (u : Bool) (v : Nat) (w : Nat) (a : Nat) (h : Keeps r s) :
    Keeps r (insertRecords x s z u v w a).1 := by
  induction x generalizing s v w a with
  | nil =>
    unfold insertRecords
    repeat' first
      | with_reducible assumption | with_reducible apply ih | with_reducible apply writeMem_keeps
      | with_reducible apply ddrTake_keeps | with_reducible apply dirReads_keeps
      | with_reducible apply insertStep_keeps | with_reducible apply keepsPick_some
      | with_reducible apply keepsPick_none | with_reducible apply keepsPick_map
      | (intro (s' : State); with_reducible refine keeps_cut (Keeps r s') ?_ ?_)
      | (intro (h' : Keeps r s'); clear_value s')
      | (intro (p' : State × _); with_reducible refine keeps_cut (Keeps r p'.1) ?_ ?_)
      | (intro (h' : Keeps r p'.1); clear_value p') | (intro x') | lift_lets | simp -zeta only [s']
      | simp -zeta only [keeps_mk] | split | with_reducible refine keeps_fst (by assumption) ?_
      | with_reducible refine keeps_of_pick (by assumption) ?_
      | with_reducible refine keeps_of_pick' (by assumption) ?_
  | cons b t ih =>
    unfold insertRecords
    repeat' first
      | with_reducible assumption | with_reducible apply ih | with_reducible apply writeMem_keeps
      | with_reducible apply ddrTake_keeps | with_reducible apply dirReads_keeps
      | with_reducible apply insertStep_keeps | with_reducible apply keepsPick_some
      | with_reducible apply keepsPick_none | with_reducible apply keepsPick_map
      | (intro (s' : State); with_reducible refine keeps_cut (Keeps r s') ?_ ?_)
      | (intro (h' : Keeps r s'); clear_value s')
      | (intro (p' : State × _); with_reducible refine keeps_cut (Keeps r p'.1) ?_ ?_)
      | (intro (h' : Keeps r p'.1); clear_value p') | (intro x') | lift_lets | simp -zeta only [s']
      | simp -zeta only [keeps_mk] | split | with_reducible refine keeps_fst (by assumption) ?_
      | with_reducible refine keeps_of_pick (by assumption) ?_
      | with_reducible refine keeps_of_pick' (by assumption) ?_

theorem releaseStep_keeps {r s : State} (urgent : Bool) (inval : Bool) (e : Nat) (h' : Nat) (h : Keeps r s) :
    Keeps r (releaseStep s urgent inval e h').1 := by
  unfold releaseStep
  repeat' first
    | with_reducible assumption | with_reducible apply hotRead_keeps | with_reducible apply dirPut_keeps
    | (intro (s' : State); with_reducible refine keeps_cut (Keeps r s') ?_ ?_)
    | (intro (h' : Keeps r s'); clear_value s')
    | (intro (p' : State × _); with_reducible refine keeps_cut (Keeps r p'.1) ?_ ?_)
    | (intro (h' : Keeps r p'.1); clear_value p') | (intro x') | lift_lets | simp -zeta only [s']
    | simp -zeta only [keeps_mk] | split | with_reducible refine keeps_fst (by assumption) ?_

theorem releaseRecords_keeps {r s : State} (x : List (Nat × Nat × Nat)) (z : Cmd) (u : Bool) (v : Nat × Nat × Nat) (h : Keeps r s) :
    Keeps r (releaseRecords x s z u v).1 := by
  induction x generalizing s v with
  | nil =>
    unfold releaseRecords
    repeat' first
      | with_reducible assumption | with_reducible apply ih | with_reducible apply dirReads_keeps
      | with_reducible apply releaseStep_keeps
      | (intro (s' : State); with_reducible refine keeps_cut (Keeps r s') ?_ ?_)
      | (intro (h' : Keeps r s'); clear_value s')
      | (intro (p' : State × _); with_reducible refine keeps_cut (Keeps r p'.1) ?_ ?_)
      | (intro (h' : Keeps r p'.1); clear_value p') | (intro x') | lift_lets | simp -zeta only [s']
      | simp -zeta only [keeps_mk] | split | with_reducible refine keeps_fst (by assumption) ?_
  | cons b t ih =>
    unfold releaseRecords
    repeat' first
      | with_reducible assumption | with_reducible apply ih | with_reducible apply dirReads_keeps
      | with_reducible apply releaseStep_keeps
      | (intro (s' : State); with_reducible refine keeps_cut (Keeps r s') ?_ ?_)
      | (intro (h' : Keeps r s'); clear_value s')
      | (intro (p' : State × _); with_reducible refine keeps_cut (Keeps r p'.1) ?_ ?_)
      | (intro (h' : Keeps r p'.1); clear_value p') | (intro x') | lift_lets | simp -zeta only [s']
      | simp -zeta only [keeps_mk] | split | with_reducible refine keeps_fst (by assumption) ?_

theorem hashPrompt_keeps {r s : State} (c : Cmd) (b : Nat) (tag : W64) (d : List Byte) (h : Keeps r s) :
    Keeps r (hashPrompt s c b tag d) := by
  unfold hashPrompt
  repeat' first
    | with_reducible assumption | with_reducible apply modCmd_keeps | with_reducible apply writeMem_keeps
    | with_reducible apply ddrTake_keeps
    | (intro (s' : State); with_reducible refine keeps_cut (Keeps r s') ?_ ?_)
    | (intro (h' : Keeps r s'); clear_value s') | (intro x') | lift_lets | simp -zeta only [s']
    | simp -zeta only [keeps_mk] | (show keyOf _ = keyOf _; rfl) | split | with_reducible apply keeps_map
    | with_reducible apply keeps_filter

theorem dirStep_keeps {r s : State}  (h : Keeps r s) :
    Keeps r (dirStep s) := by
  unfold dirStep
  repeat' first
    | with_reducible assumption | (intro (s' : State); with_reducible refine keeps_cut (Keeps r s') ?_ ?_)
    | (intro (h' : Keeps r s'); clear_value s') | (intro x') | lift_lets | simp -zeta only [s']
    | simp -zeta only [keeps_mk]

theorem expire_keeps {r s : State} (c : Cmd) (h : Keeps r s) :
    Keeps r (expire s c) := by
  unfold expire
  repeat' first
    | with_reducible assumption | with_reducible apply logFault_keeps
    | with_reducible refine postEnding_keeps _ _ _ (fun s' c' n' h' => ?_) ?_
    | (intro (s' : State); with_reducible refine keeps_cut (Keeps r s') ?_ ?_)
    | (intro (h' : Keeps r s'); clear_value s') | (intro x') | lift_lets | simp -zeta only [s']
    | simp -zeta only [keeps_mk]

theorem detectorFirst_keeps {r s : State} (c : CmdId) (t : Nat) (h : Keeps r s) :
    Keeps r (detectorFirst s c t) := by
  unfold detectorFirst
  repeat' first
    | with_reducible assumption | with_reducible apply postDeadlock_keeps
    | with_reducible refine foldl_keeps (fun s' a' h' => ?_) ?_
    | (intro (s' : State); with_reducible refine keeps_cut (Keeps r s') ?_ ?_)
    | (intro (h' : Keeps r s'); clear_value s') | (intro x') | lift_lets | simp -zeta only [s']
    | simp -zeta only [keeps_mk] | split

theorem markBad_keeps {r s : State} (a : Nat) (h : Keeps r s) :
    Keeps r (markBad s a) := by
  unfold markBad
  dsimp only
  split
  · exact h
  · exact keeps_mem (fun w => w) h

theorem stepError_keeps {r s : State} (timed : Option Nat) (id : CmdId) (tile n : Nat) (at' : FailAt) (stored : Bool)
    (count : State → State) (hk : ∀ s, Keeps r s → Keeps r (count s)) (h : Keeps r s) :
    Keeps r (stepError s timed id tile n at' stored count) := by
  unfold stepError
  have time : ∀ (s' : State) (k : Nat), Keeps r s' →
      Keeps r (match timed with | some core => timedReruns s' core k | none => s') := by
    intro s' k h'
    split
    · exact timedReruns_keeps _ _ h'
    · exact h'
  dsimp only
  split
  · refine recursAt_keeps _ _ _ _ (time _ _ ?_)
    split
    · exact h
    · exact markBad_keeps _ h
  · split
    · exact hk _ (rerunAt_keeps _ _ _ _ (time _ _ h))
    · exact exhaustAt_keeps _ _ _ _ h

theorem abandonBlock_keeps {r s : State} (core : Nat) (arr : Nat) (q : Pass) (h : Keeps r s) :
    Keeps r (abandonBlock s core arr q) := by
  unfold abandonBlock
  repeat' first
    | with_reducible assumption | with_reducible apply putArray_keeps | with_reducible apply writeBlock_keeps
    | with_reducible apply undoBlock_keeps
    | (intro (s' : State); with_reducible refine keeps_cut (Keeps r s') ?_ ?_)
    | (intro (h' : Keeps r s'); clear_value s') | (intro x') | lift_lets | simp -zeta only [s']
    | simp -zeta only [keeps_mk] | split

theorem passError_keeps {r s : State} (core : Nat) (arr : Nat) (at' : FailAt) (stored : Bool) (h : Keeps r s) :
    Keeps r (passError s core arr at' stored) := by
  unfold passError
  repeat' first
    | with_reducible assumption | with_reducible refine stepError_keeps _ _ _ _ _ _ _ (fun s' h' => ?_) ?_
    | with_reducible apply abandonBlock_keeps
    | (intro (s' : State); with_reducible refine keeps_cut (Keeps r s') ?_ ?_)
    | (intro (h' : Keeps r s'); clear_value s') | (intro x') | lift_lets | simp -zeta only [s']
    | simp -zeta only [keeps_mk] | split

theorem epiError_keeps {r s : State} (core : Nat) (at' : FailAt) (stored : Bool) (block : Bool) (h : Keeps r s) :
    Keeps r (epiError s core at' stored block) := by
  unfold epiError
  repeat' first
    | with_reducible assumption | with_reducible apply putCore_keeps | with_reducible apply finish_keeps
    | with_reducible refine stepError_keeps _ _ _ _ _ _ _ (fun s' h' => ?_) ?_
    | (intro (s' : State); with_reducible refine keeps_cut (Keeps r s') ?_ ?_)
    | (intro (h' : Keeps r s'); clear_value s') | (intro x') | split | lift_lets | simp -zeta only [s']
    | simp -zeta only [keeps_mk]

theorem scoreError_keeps {r s : State} (core : Nat) (arr : Nat) (a : Nat) (stored : Bool) (h : Keeps r s) :
    Keeps r (scoreError s core arr a stored) := by
  unfold scoreError
  repeat' first
    | with_reducible assumption | with_reducible apply passError_keeps | with_reducible apply epiError_keeps
    | (intro (s' : State); with_reducible refine keeps_cut (Keeps r s') ?_ ?_)
    | (intro (h' : Keeps r s'); clear_value s') | (intro x') | lift_lets | simp -zeta only [s']
    | simp -zeta only [keeps_mk] | split

theorem segError_keeps {r s : State} (n : Nat) (k : Nat) (a : Nat) (stored : Bool) (h : Keeps r s) :
    Keeps r (segError s n k a stored) := by
  unfold segError
  repeat' first
    | with_reducible assumption | with_reducible apply putSluice_keeps
    | with_reducible refine stepError_keeps _ _ _ _ _ _ _ (fun s' h' => ?_) ?_
    | (intro (s' : State); with_reducible refine keeps_cut (Keeps r s') ?_ ?_)
    | (intro (h' : Keeps r s'); clear_value s') | (intro x') | lift_lets | simp -zeta only [s']
    | simp -zeta only [keeps_mk] | split

theorem otherError_keeps {r s : State} (id : CmdId) (tile : Nat) (a : Nat) (stored : Bool) (h : Keeps r s) :
    Keeps r (otherError s id tile a stored) := by
  unfold otherError
  repeat' first
    | with_reducible assumption | with_reducible apply modCmd_keeps | with_reducible apply markBad_keeps
    | with_reducible refine stepError_keeps _ _ _ _ _ _ _ (fun s' h' => ?_) ?_
    | (intro (s' : State); with_reducible refine keeps_cut (Keeps r s') ?_ ?_)
    | (intro (h' : Keeps r s'); clear_value s') | (intro x') | lift_lets | simp -zeta only [s']
    | simp -zeta only [keeps_mk] | (show keyOf _ = keyOf _; rfl) | split | with_reducible apply keeps_map
    | with_reducible apply keeps_filter

theorem mergeError_keeps {r s : State} (a : Nat) (stored : Bool) (h : Keeps r s) :
    Keeps r (mergeError s a stored) := by
  unfold mergeError
  split
  · exact markBad_keeps _ h
  · exact keeps_mem (fun w => w) h

theorem apertureError_keeps {r s : State} (a : Nat) (stored : Bool) (h : Keeps r s) :
    Keeps r (apertureError s a stored) := by
  unfold apertureError
  repeat' first
    | with_reducible assumption | with_reducible apply markBad_keeps
    | (intro (s' : State); with_reducible refine keeps_cut (Keeps r s') ?_ ?_)
    | (intro (h' : Keeps r s'); clear_value s') | (intro x') | lift_lets | simp -zeta only [s']
    | simp -zeta only [keeps_mk] | split

theorem readError_keeps {r s : State} (site : ErrSite) (a : Nat) (stored : Bool) (h : Keeps r s) :
    Keeps r (readError s site a stored) := by
  unfold readError
  repeat' first
    | with_reducible assumption | with_reducible apply passError_keeps | with_reducible apply epiError_keeps
    | with_reducible apply scoreError_keeps | with_reducible apply segError_keeps
    | with_reducible apply otherError_keeps | with_reducible apply mergeError_keeps
    | with_reducible apply apertureError_keeps
    | (intro (s' : State); with_reducible refine keeps_cut (Keeps r s') ?_ ?_)
    | (intro (h' : Keeps r s'); clear_value s') | (intro x') | lift_lets | simp -zeta only [s']
    | simp -zeta only [keeps_mk] | split

theorem countCorrected_keeps {r s : State} (a : Nat) (h : Keeps r s) :
    Keeps r (countCorrected s a) := by
  unfold countCorrected
  repeat' first
    | with_reducible assumption | with_reducible apply putDdr_keeps
    | (intro (s' : State); with_reducible refine keeps_cut (Keeps r s') ?_ ?_)
    | (intro (h' : Keeps r s'); clear_value s') | (intro x') | lift_lets | simp -zeta only [s']
    | simp -zeta only [keeps_mk] | split

theorem stageImage_keeps {r s : State} (c : Cmd) (img : List Byte) (h : Keeps r s) :
    Keeps r (stageImage s c img) := by
  unfold stageImage
  repeat' first
    | with_reducible assumption | with_reducible apply writingNow_keeps | with_reducible apply startWork_keeps
    | split

theorem sendSync_keeps {r s : State} (chip : BitVec 12) (count : W64) (way : Nat) (b : Nat) (h : Keeps r s) :
    Keeps r (sendSync chip count way s b) := by
  unfold sendSync
  repeat' first
    | with_reducible assumption | with_reducible apply onBundle_keeps
    | (intro (s' : State); with_reducible refine keeps_cut (Keeps r s') ?_ ?_)
    | (intro (h' : Keeps r s'); clear_value s') | (intro x') | lift_lets | simp -zeta only [s']
    | simp -zeta only [keeps_mk]

theorem sendDelay_keeps {r s : State} (kind : Nat) (b : List Byte) (p : Nat) (h : Keeps r s) :
    Keeps r (sendDelay kind b s p) := by
  unfold sendDelay
  repeat' first
    | with_reducible assumption | with_reducible apply enqueue_keeps
    | (intro (s' : State); with_reducible refine keeps_cut (Keeps r s') ?_ ?_)
    | (intro (h' : Keeps r s'); clear_value s') | (intro x') | lift_lets | simp -zeta only [s']
    | simp -zeta only [keeps_mk]

theorem setCount_keeps {r s : State} (n : Nat) (h : Keeps r s) :
    Keeps r (setCount s n) := by
  unfold setCount
  repeat' first
    | with_reducible assumption | (intro (s' : State); with_reducible refine keeps_cut (Keeps r s') ?_ ?_)
    | (intro (h' : Keeps r s'); clear_value s') | (intro x') | lift_lets | simp -zeta only [s']
    | simp -zeta only [keeps_mk]

theorem setOffset_keeps {r s : State} (d : Int) (h : Keeps r s) :
    Keeps r (setOffset s d) := by
  unfold setOffset
  repeat' first
    | with_reducible assumption | (intro (s' : State); with_reducible refine keeps_cut (Keeps r s') ?_ ?_)
    | (intro (h' : Keeps r s'); clear_value s') | (intro x') | lift_lets | simp -zeta only [s']
    | simp -zeta only [keeps_mk]

theorem followSync_keeps {r s : State} (chip : BitVec 12) (m : Nat) (h : Keeps r s) :
    Keeps r (followSync s chip m) := by
  unfold followSync
  repeat' first
    | with_reducible assumption | with_reducible apply setTideState_keeps
    | with_reducible apply setCount_keeps | with_reducible apply setOffset_keeps
    | (intro (s' : State); with_reducible refine keeps_cut (Keeps r s') ?_ ?_)
    | (intro (h' : Keeps r s'); clear_value s') | (intro x') | lift_lets | simp -zeta only [s']
    | simp -zeta only [keeps_mk] | split

theorem correct_keeps {r s : State} (skip : Bool) (h : Keeps r s) :
    Keeps r (correct s skip) := by
  unfold correct
  repeat' first
    | with_reducible assumption | with_reducible apply timingEvent_keeps
    | (intro (s' : State); with_reducible refine keeps_cut (Keeps r s') ?_ ?_)
    | (intro (h' : Keeps r s'); clear_value s') | (intro x') | lift_lets | simp -zeta only [s']
    | simp -zeta only [keeps_mk] | split

theorem alignEdge_keeps {r s : State}  (h : Keeps r s) :
    Keeps r (alignEdge s) := by
  unfold alignEdge
  repeat' first
    | with_reducible assumption | with_reducible apply setOffset_keeps | with_reducible apply correct_keeps
    | (intro (s' : State); with_reducible refine keeps_cut (Keeps r s') ?_ ?_)
    | (intro (h' : Keeps r s'); clear_value s') | (intro x') | lift_lets | simp -zeta only [s']
    | simp -zeta only [keeps_mk] | split

theorem countEdge_keeps {r s : State}  (h : Keeps r s) :
    Keeps r (countEdge s) := by
  unfold countEdge
  repeat' first
    | with_reducible assumption | with_reducible apply setTideState_keeps
    | (intro (s' : State); with_reducible refine keeps_cut (Keeps r s') ?_ ?_)
    | (intro (h' : Keeps r s'); clear_value s') | (intro x') | lift_lets | simp -zeta only [s']
    | simp -zeta only [keeps_mk] | split

theorem sendStart_keeps {r s : State} (c : Cmd) (w : SendWork) (h : Keeps r s) :
    Keeps r (sendStart s c w) := by
  unfold sendStart
  repeat' first
    | with_reducible assumption | with_reducible apply sendRows_keeps | with_reducible apply sendRts_keeps
    | with_reducible apply takeSeq_keeps | with_reducible apply startWork_keeps
    | (intro (s' : State); with_reducible refine keeps_cut (Keeps r s') ?_ ?_)
    | (intro (h' : Keeps r s'); clear_value s')
    | (intro (q' : _ × State); with_reducible refine keeps_cut (Keeps r q'.2) ?_ ?_)
    | (intro (h' : Keeps r q'.2); clear_value q') | (intro x') | lift_lets | simp -zeta only [s']
    | simp -zeta only [keeps_mk] | split | with_reducible refine keeps_snd (by assumption) ?_

theorem recvMatch_keeps {r s : State} (c : Cmd) (h : Keeps r s) :
    Keeps r (recvMatch s c) := by
  unfold recvMatch
  repeat' first
    | with_reducible assumption | with_reducible apply matchRts_keeps
    | (intro (s' : State); with_reducible refine keeps_cut (Keeps r s') ?_ ?_)
    | (intro (h' : Keeps r s'); clear_value s') | (intro x') | lift_lets | simp -zeta only [s']
    | simp -zeta only [keeps_mk] | split

theorem wardenDo_keeps {r s : State} (k : State → State) (hk : ∀ s, Keeps r s → Keeps r (k s)) (h : Keeps r s) :
    KeepsOut r (wardenDo s k) := by
  unfold wardenDo
  repeat' first
    | with_reducible assumption | with_reducible apply hk | with_reducible apply ok_keeps
    | with_reducible apply keepsOut_next | split | with_reducible refine keeps_of_next (by assumption) ?_

theorem wardenChallenge_keeps {r s : State}  (h : Keeps r s) :
    Keeps r (wardenChallenge s) := by
  unfold wardenChallenge
  repeat' first
    | with_reducible assumption | with_reducible apply freshBytes_keeps
    | (intro (s' : State); with_reducible refine keeps_cut (Keeps r s') ?_ ?_)
    | (intro (h' : Keeps r s'); clear_value s')
    | (intro (q' : _ × State); with_reducible refine keeps_cut (Keeps r q'.2) ?_ ?_)
    | (intro (h' : Keeps r q'.2); clear_value q') | (intro x') | lift_lets | simp -zeta only [s']
    | simp -zeta only [keeps_mk] | split | with_reducible refine keeps_snd (by assumption) ?_

theorem powerRequest_keeps {r s : State}  (h : Keeps r s) :
    Keeps r (powerRequest s) := by
  unfold powerRequest
  repeat' first
    | with_reducible assumption | with_reducible apply replyWith_keeps
    | with_reducible apply requestPower_keeps
    | (intro (s' : State); with_reducible refine keeps_cut (Keeps r s') ?_ ?_)
    | (intro (h' : Keeps r s'); clear_value s')
    | (intro (q' : _ × State); with_reducible refine keeps_cut (Keeps r q'.2) ?_ ?_)
    | (intro (h' : Keeps r q'.2); clear_value q') | (intro x') | lift_lets | simp -zeta only [s'] | split
    | with_reducible refine keeps_snd (by assumption) ?_

theorem consumeChallenge_keeps {r s : State}  (h : Keeps r s) :
    Keeps r (consumeChallenge s) := by
  unfold consumeChallenge
  repeat' first
    | with_reducible assumption | (intro (s' : State); with_reducible refine keeps_cut (Keeps r s') ?_ ?_)
    | (intro (h' : Keeps r s'); clear_value s') | (intro x') | lift_lets | simp -zeta only [s']
    | simp -zeta only [keeps_mk]

theorem setOwner_keeps {r s : State} (key : Option (List Byte)) (sig : List Byte) (h : Keeps r s) :
    Keeps r (setOwner s key sig) := by
  unfold setOwner
  repeat' first
    | with_reducible assumption | (intro (s' : State); with_reducible refine keeps_cut (Keeps r s') ?_ ?_)
    | (intro (h' : Keeps r s'); clear_value s') | (intro x') | lift_lets | simp -zeta only [s']
    | simp -zeta only [keeps_mk] | split

end Sys2Proof.Machine
end

