-- ==== Sys2Proof/WellFormed.lean ====
section
/-!
DEFINITION. What a command's operands must look like to stand for something that can happen: sizes and codes that the
senders of the rows keep. The machine itself does not depend on it.
-/
namespace Sys2Proof

/-- The packet kinds of Table 11.3 that the transport header carries, tide and barrier messages included. -/
def packetKinds : List Nat := [0x01, 0x02, 0x03, 0x04, 0x10, 0x11, 0x12, 0x13, 0x14, 0x15, 0x16, 0x17, 0x20, 0x21]

/-- A packet carries at most 4,096 payload bytes, all of its rows (R278). -/
def Packet.wf (k : Packet) : Bool :=
  packetKinds.contains k.kind.toNat && k.payload.length ≤ 4096 &&
    (0x04 < k.kind.toNat || k.payload.length = k.rowBytes.toNat * k.rows.toNat)

/-- The operands of a command are in the ranges of its row. -/
def Instr.wf : Instr → Bool
  | .doorbell _ off _ => off.toNat % 4 = 0
  | .registerWrite a wide _ => a.toNat % (if wide then 8 else 4) = 0
  | .apertureWrite off data => 0 < data.length && data.length ≤ 4096 && off.toNat + data.length ≤ 2 ^ 30
  | .apertureRead off n => 0 < n && n ≤ 4096 && off.toNat + n ≤ 2 ^ 30
  | .mbxAttest nonce => nonce.length = 32
  | .commandFetch _ slot => slot.length = 512
  | .writeReceive _ k => k.wf && k.kind = 0x01
  | .writeSignalReceive _ k => k.wf && k.kind = 0x02
  | .mcastWriteReceive _ k => k.wf && k.kind = 0x03
  | .reduceDataReceive _ k => k.wf && k.kind = 0x04
  | .ackReceive _ k => k.wf && k.kind = 0x10
  | .refuseReceive _ k => k.wf && k.kind = 0x11
  | .breachNoticeReceive _ k => k.wf && k.kind = 0x12
  | .flowResetReceive _ k => k.wf && k.kind = 0x13
  | .rtsReceive _ k => k.wf && k.kind = 0x14
  | .ctsReceive _ k => k.wf && k.kind = 0x15
  | .collCreditReceive _ k => k.wf && k.kind = 0x16
  | .collAbortReceive _ k => k.wf && k.kind = 0x17
  | .packetForward _ k => k.wf
  | .arriveReceive _ k => k.wf && k.kind = 0x20
  | .releaseReceive _ k => k.wf && k.kind = 0x21
  | .rdmaWriteReceive _ _ _ _ data => data.length ≤ 4096
  | .writeImmediateReceive _ _ _ _ data _ => data.length ≤ 4096
  | .rdmaReadReceive _ _ _ _ n => n ≤ 2 ^ 31
  | .readResponseReceive _ data => data.length ≤ 4096
  | .sensorRead d => d.logic.length = 64 && d.sram.length = 64
  | .flitRx _ f => f.bytes.length = 256
  | .slowLoop d => d.aged.length ≤ 16
  | .estimateInterval e => e.act.length = 16
  | .ageingMonitor d => d.coreMargin.length = 16 && d.coreMonths.length = 16 && d.portMonths.length = 12
  | .mailbox _ req => req.length ≤ 16384
  | .configWrite sect _ => sect.length ≤ 16384
  | .enableWrite .. | .resume .. | .quiesceWrite .. | .wake | .w1cClear .. | .eventCounterWrite .. | .groupConfigure ..
  | .groupRemove .. | .retrain .. | .portDisable .. | .jobEnergyClearSlot .. | .jobEnergyClearAll | .coreReset ..
  | .coreResetDone .. | .mbxGetChallenge | .mbxConfigRead .. | .mbxCerts | .coalesceTimer .. | .nop .. | .eventSignal ..
  | .eventWait .. | .fence .. | .query .. | .dike .. | .tideLaunch .. | .launchFire .. | .abort .. | .setMode ..
  | .setCap .. | .setWeir .. | .coreOffline .. | .coreOnline .. | .copy .. | .fill .. | .sluiceArm .. | .sluiceRearm ..
  | .compareCount .. | .compareSwap .. | .gatherRows .. | .scatterRows .. | .gemm .. | .gemmList .. | .gemmT ..
  | .chain .. | .attend .. | .vector .. | .windowOpen .. | .windowClose .. | .send .. | .recv .. | .allreduce ..
  | .allgather .. | .exportBind .. | .source .. | .seal .. | .pull .. | .message .. | .qpSetup .. | .qpTeardown ..
  | .prefixHash .. | .prefixLookup .. | .prefixInsert .. | .prefixRelease .. | .attest .. | .fwStage .. | .fwCommit ..
  | .debugUnlock .. | .watchdog .. | .bermDeadlock .. | .workRequest .. | .passStart .. | .stationaryLoad ..
  | .blockCommit .. | .epilogueBlock .. | .preempt .. | .preemptResume .. | .rampUp .. | .rampDown .. | .readError ..
  | .segmentComplete .. | .segmentSend .. | .exportTimeout .. | .stallLimit .. | .replayTimeout ..
  | .breach .. | .linkDown .. | .trainingRetry .. | .linkUp .. | .laneWiden .. | .rtsRetry .. | .e2eTimeout ..
  | .syncPeriod | .syncReceive .. | .delayReqReceive .. | .delayRespReceive .. | .tideCorrection .. | .syncLost
  | .tideRefEdge | .dikeRelease .. | .pairReceive .. | .unpairReceive .. | .digestReceive .. | .divergeReceive ..
  | .frameReceive .. | .roceSendReceive .. | .roceAckReceive .. | .localAckTimeout .. | .cnpReceive .. | .ecnPeriod ..
  | .pfcPauseReceive .. | .weirWindow | .urgentCredit | .ddrRefresh .. | .wck2dqTracking .. | .directoryClock
  | .railSettled .. | .voltageTrim .. | .droop .. | .droopEnd .. | .pwrBrakeAssert | .pwrBrakeRelease | .thermalTrip
  | .eyeMeasure .. | .errorPeriod | .deviceFault .. | .lowPowerEntry | .wakeComplete | .perstNAssert | .modResetNAssert
  | .modResetNRelease | .pcieHotReset | .d3hotToD0 | .pcieLinkLoss | .vinRise .. | .vinLoss | .bootStart ..
  | .bootComplete .. | .trialTimeout | .fallbackPowerOn | .getStatus | .getTelemetry | .setCaps .. | .power ..
  | .readHistory .. | .ownerRegister .. | .ownerChange .. | .alertResponse | .flashWriteComplete => true

end Sys2Proof
end

