-- ==== Sys2Proof/Tests/Slice0.lean ====
section
/-!
SUPPORT. Tests of the model on small states, and a witness for the hypotheses of every statement: each `wit_` theorem
names concrete states and operands that meet them, clause by clause.
-/
namespace Sys2Proof.Tests
open Sys2Proof Sys2Proof.Machine

set_option Elab.async false

/-- The state that a command leaves, or the state before it. -/
def after (o : Out) (s : State) : State := match o with | .next t => t | _ => s

/-- A command answers a next state. -/
def runsOn (c : Instr) (s : State) : Bool := match exec c s with | .next _ => true | _ => false

/-- A device in READY with firmware. -/
def up : State := { State.reset with dev := { state := .ready, firmware := true } }

/-- A header of an opcode with a parameter length in words. -/
def hdr (op : W16) (len : Nat) (flags : Byte := 0) : Header :=
  { opcode := op, flags := flags, version := 1, tag := 7, jobId := 0, phase := 0, paramLen := len
    waits := [(0, 0), (0, 0), (0, 0), (0, 0)], signalId := 0, signalInc := 0, watchdogUs := 0, seed := 0 }

/-- Bytes with a little-endian value put at an offset. -/
def patch (b : List Byte) (x : Nat × Nat × Nat) : List Byte :=
  b.take x.1 ++ leBytes x.2.1 x.2.2 ++ b.drop (x.1 + x.2.1)

/-- A held command of inlet 0 with fields (offset, size, value) in its parameters. -/
def cmd (op : W16) (len : Nat) (fields : List (Nat × Nat × Nat)) (flags : Byte := 0) : Cmd :=
  { id := 0, inlet := 0, hdr := hdr op len flags, params := fields.foldl patch (List.replicate (8 * len) 0)
    met := [true, true, true, true] }

/-- An ACTIVE device whose inlet 0 is OPEN. -/
def on : State := { up with dev := { up.dev with state := .active }, inlets := [(0, { state := .open })] }

/-- The same with a command waiting in inlet 0. -/
def held (c : Cmd) : State := { on with cmds := [c] }

/-- The same with a command at work. -/
def busy (w : Work) : State := held { cmd 0 0 [] with work := w }

/-- A product of one row, column and position. -/
def gemmFields : List (Nat × Nat × Nat) :=
  [(0, 1, 3), (1, 1, 3), (2, 1, 1), (4, 1, 1), (16, 8, 0x1000), (24, 8, 0x2000), (32, 8, 0x3000), (80, 4, 1), (84, 4, 1),
   (88, 4, 1), (92, 4, 64), (96, 4, 64), (100, 4, 64)]

/-- The machine after rows run one after the other, each leaving the state where it does not answer a next one. -/
def play (s : State) (l : List Instr) : State := l.foldl (fun t i => after (exec i t) t) s

/-- Step: a queue with a command in front, an empty queue. -/
theorem wit_step : ({ up with pending := [.wake] } : State).pending = .wake :: [] ∧ State.reset.pending = [] := by decide

theorem wit_settling : quiet State.reset = true ∧ (settleNext (busy (.done 0))).isSome = true := by decide +kernel

theorem wit_mem : State.reset.mem.wf = true ∧ (match step State.reset with | .next _ => true | _ => false) = true := by
  decide +kernel

theorem wit_flight : flightOk State.reset ∧ (match step State.reset with | .next _ => true | _ => false) = true :=
  ⟨⟨by decide, fun _ => Nat.zero_le _⟩, by decide +kernel⟩

theorem wit_limits :
    32 ≤ inFlight { on with cmds := List.replicate 32 (cmd 1 0 []) } 0 ∧
    1024 ≤ ({ on with cmds := List.replicate 1024 (cmd 1 0 []) } : State).cmds.length ∧
    runsOn .wake (held (cmd 1 0 [])) = true ∧ findCmd (held (cmd 1 0 [])) 0 = some (cmd 1 0 []) := by decide +kernel

theorem wit_queue : runsOn .wake { up with pending := [.wake] } = true := by decide +kernel

theorem wit_doorbell :
    hostUp on = true ∧ (getInlet on 0).state = .open ∧ (15 : W32).toNat % 65536 < 2 ^ (getInlet on 0).sizeLog2.toNat ∧
    ¬ (16 : W32).toNat % 65536 < 2 ^ (getInlet on 0).sizeLog2.toNat ∧
    hostUp up = true ∧ (getInlet up 63).state ≠ .open ∧ (0xFFC : BitVec 12) ≠ 0 := by decide +kernel

theorem wit_inletControl :
    hostUp up = true ∧ (4 ≤ bitsOf (0x401 : W32).toNat 12 8 ∧ bitsOf (0x401 : W32).toNat 12 8 ≤ 16) ∧
    (4 ≤ bitsOf (0x1001 : W32).toNat 12 8 ∧ bitsOf (0x1001 : W32).toNat 12 8 ≤ 16) ∧
    ¬ (4 ≤ bitsOf (0x301 : W32).toNat 12 8 ∧ bitsOf (0x301 : W32).toNat 12 8 ≤ 16) ∧
    (getInlet up 0).state = .closed ∧ mayOpen up = true ∧
    mayOpen { up with dev := { up.dev with state := .fault } } = false ∧
    (getInlet { up with inlets := [(0, { state := .draining })] } 0).state = .draining ∧
    (getInlet on 0).state = .open ∧ (getInlet { up with inlets := [(0, { state := .halted })] } 0).state = .halted ∧
    up.dev.state ≠ .fault := by decide +kernel

theorem wit_quiesce :
    hostUp up = true ∧ up.dev.state = .ready ∧ on.dev.state = .active ∧
    ({ up with dev := { up.dev with state := .lowPower } } : State).dev.state ≠ .ready ∧
    ({ up with dev := { up.dev with state := .lowPower } } : State).dev.wakeFrom = none ∧ up.dev.state ≠ .lowPower := by
  decide

theorem wit_hostRows : hostUp up = true ∧ (5 : W16) ≠ 0 ∧ (0xFFFF : W16) ≠ 0 := by decide

theorem wit_registerWrite :
    hostUp up = true ∧ 65535 < 65536 ∧ 0x0 < 0x10000 ∧ 0x0 % 4 = 0 ∧ 0x0 ≠ 0x20 ∧ 0x0 ≠ 0x24 ∧ 0xFFFC < 0x10000 ∧
    0xFFFC % 4 = 0 ∧ (0x402 : BitVec 20).toNat % (if false then 8 else 4) ≠ 0 ∧
    (0x404 : BitVec 20).toNat % (if true then 8 else 4) ≠ 0 ∧ 0 < 65535 ∧ 0x30 ≤ 0xFFFC ∧
    hostUp State.reset = false ∧ 0x404 % (if true then 8 else 4) ≠ 0 := by decide +kernel

/-- Of the writes: inlets CLOSED and not, heads, M_CEILING, a masked entry whose vector is pending, TIDE_CTL, requests of the
mailbox, SLUICE_CTL. -/
theorem wit_registerBlocks :
    (getInlet up 63).state = .closed ∧ (getInlet on 0).state ≠ .closed ∧
    (let o : Outfall := { tail := 15 }
     (15 : W16).toNat < 2 ^ o.sizeLog2.toNat ∧
      ((15 : W16).toNat + 2 ^ o.sizeLog2.toNat - o.head.toNat) % 2 ^ o.sizeLog2.toNat ≤
        (o.tail.toNat + 2 ^ o.sizeLog2.toNat - o.head.toNat) % 2 ^ o.sizeLog2.toNat ∧
      2 ^ o.sizeLog2.toNat ≤ (16 : W16).toNat) ∧
    (8 ≤ bitsOf (8 : W32).toNat 4 0 ∧ bitsOf (20 : W32).toNat 4 0 ≤ 20 ∧ bitsOf (7 : W32).toNat 4 0 < 8 ∧
      20 < bitsOf (21 : W32).toNat 4 0) ∧
    vectorPending { up.irq with pba := [(31, 0x80)] } 255 = true ∧ (2 : W32).getLsbD 0 = false ∧
    vectorPending up.irq 255 = false ∧
    (up.tide.master = (8 : W32).getLsbD 0 ∧ up.tide.source = BitVec.ofNat 2 (bitsOf (8 : W32).toNat 2 1) ∧
      up.tide.syncEn = (8 : W32).getLsbD 3) ∧ up.tide.master ≠ (1 : W32).getLsbD 0 ∧
    (2 ^ 40 - 1 : W64).toNat < 2 ^ 40 ∧ (7 : Nat) / 4 ≠ (1023 : BitVec 10).toNat ∧
    (let s : State := { up with sec := { op := 2, reqBytes := 1, req := [(0, 1)] } }
     (1 : W32).getLsbD 0 = true ∧ s.sec.mbxState ≠ 1 ∧ secBusy s = false ∧ s.sec.op = 2 ∧ s.sec.reqBytes = 1 ∧
      tabGet s.sec.req 0 0 = 1) ∧
    up.sec.op = 0 ∧ ({ mbxState := 1 } : Security).mbxState = 1 ∧ (7 : Nat) / 4 ≠ (4095 : BitVec 12).toNat ∧
    (1 ≤ bitsOf (1 : W32).toNat 4 0 ∧ bitsOf (16 : W32).toNat 4 0 ≤ 16 ∧ bitsOf (0x120 : W32).toNat 4 0 = 0 ∧
      16 < bitsOf (17 : W32).toNat 4 0) := by decide +kernel

/-- The aperture over LPDDR5X: a write of the last byte of the range, a read of a clean byte, of a bad byte and one that
meets a transient error; over the last byte
of an accumulator view, of slot 0 of core 0 held by an array command, and of an address that no memory has. -/
theorem wit_aperture :
    let s : State := { up with ap := { base := 511 } }
    let b : State := { s with mem := { bad := [0x7FFFFFFFC0] } }
    hostUp s = true ∧ 0 < [(1 : Byte)].length ∧ rangeOk (apAddr s 0x3FFFFFFF) [(1 : Byte)].length = true ∧
    heldRange s (apAddr s 0x3FFFFFFF) 1 = false ∧ rangeRead (apAddr s 0x3FFFFFFF) 1 = true ∧
    rangeBad s (apAddr s 0x3FFFFFFF) 1 = false ∧ hostUp b = true ∧ rangeBad b (apAddr b 0x3FFFFFFF) 1 = true ∧
    s.ap.flaws.any ((granules (apAddr s 0x3FFFFFFF) 1).map badKey).contains = false ∧
    (let f : State := { up with ap := { base := 511, flaws := [0x7FFFFFFFC0] } }
     rangeBad f (apAddr f 0x3FFFFFFF) 1 = false ∧
      f.ap.flaws.any ((granules (apAddr f 0x3FFFFFFF) 1).map badKey).contains = true) ∧
    (let v : State := { up with ap := { base := 128 } }
     isAcc (apAddr v 0x7FFFFF) = true ∧ rangeRead (apAddr v 0x7FFFFF) 1 = true) ∧
    (let h : State := { up with ap := { base := 64 }, slots := [(0, { holder := some (0, 0) })] }
     isAcc (apAddr h 0xFFFF) = false ∧ rangeOk (apAddr h 0xFFFF) 1 = true ∧ heldRange h (apAddr h 0xFFFF) 1 = true ∧
      heldRange h (apAddr h 0x10000) 1 = false) ∧
    (let u : State := { up with ap := { base := 2 } }
     isAcc (apAddr u 0) = false ∧ rangeOk (apAddr u 0) 1 = false) := by decide +kernel

theorem wit_groups :
    (held (cmd 0x0005 1 [(0, 2, 255)])).cmds.any (fun c => namesGroup c 255) = true ∧
    up.cmds.any (fun c => namesGroup c 255) = false ∧ (7 : Nat) ≠ 255 := by decide +kernel

/-- A group of two members can be configured: its descriptor lies at 0x1000. -/
def withGroup2 (s : State) : State :=
  { s with
    mem := { cells := (writeMem State.reset 0x1000 (leBytes 4 2 ++ List.replicate 12 0 ++ leBytes 8 0 ++
      leBytes 8 1)).mem.cells }
    net := { s.net with groupAddr := 0x1000 } }
theorem wit_groupOk :
    let s := withGroup2 up
    hostUp s = true ∧ s.cmds.any (fun c => namesGroup c 0) = false ∧ groupOk s s.net.groupAddr.toNat = true := by
  decide +kernel

/-- A packet of a kind for chip 0. -/
def pkt (kind : BitVec 8) : Packet :=
  { kind := kind, vc := 2, cls := false, src := 1, dst := 0, window := 4095, gen := 1, eventId := 0, flowSeq := 0
    offset := 0, rowBytes := 1, rows := 2, stride := 1, context := 0, group := 0, aux := 0, aux2 := 0, payload := [5, 6] }

/-- Ports: up, held down, released. -/
def withPort (x : Port) (s : State) : State := { s with ports := [(11, x)] }

theorem wit_ports :
    hostUp up = true ∧ portUp (withPort { link := .up } up) 11 = true ∧ portUp up 11 = false ∧
    (getPort up 11).disable = false ∧ (getPort (withPort { disable := true } up) 11).disable = true := by decide +kernel

/-- A port that loses its link: with a packet of a command in its replay buffer, and with nothing of its own. -/
theorem wit_lostLink :
    (let u : TxPacket := { pkt := pkt 0x01, owner := .cmd 0 }
     let s : State := withPort { link := .up, replay := [u] } (busy (.done 0))
     u ∈ (getPort s 11).replay ∧ u.owner = .cmd 0 ∧ (findCmd s 0).isSome = true) ∧
    (let s := withPort { link := .up } up
     (getPort s 11).queue = [] ∧ (getPort s 11).replay = [] ∧ cutShort s 11 = [] ∧ s.lock.established = false ∧
      (getPort s 11).outstanding = 0 ∧ (3 : Nat) ≠ 11) ∧
    (let o := getPort (withPort { link := .up, txSeq := 1, tries := 8 } up) 11
     o.outstanding ≠ 0 ∧ 8 ≤ o.tries) ∧
    (let o := getPort (withPort { link := .up, txSeq := 1, tries := 7 } up) 11
     o.outstanding ≠ 0 ∧ o.tries < 8) := by decide +kernel

theorem wit_clears :
    hostUp up = true ∧ (getCore up 15).busy.isNone = true ∧
    (let s : State := { up with cores := [(15, { st := .beingReset, busy := some 0 })] }
     (getCore s 15).busy.isSome = true ∧ (getCore s 15).st = .beingReset) ∧ (getCore up 0).busy = none := by decide +kernel

theorem wit_mailbox :
    hostUp up = true ∧ up.sec.mbxState ≠ 1 ∧ secBusy up = false ∧ (List.replicate 32 (0 : Byte)).length = 32 ∧
    (let s : State := { busy (.fwStage [] true) with sec := { mbxState := 2 } }
     hostUp s = true ∧ s.sec.mbxState ≠ 1 ∧ secBusy s = true) ∧
    (let s : State := { up with sec := { mbxState := 1 } }
     hostUp s = true ∧ s.sec.mbxState = 1) := by decide +kernel

/-- A slot with a NOP of no parameters. -/
def nopSlot : List Byte := [1, 0, 0, 1] ++ List.replicate 508 0

theorem wit_fetch :
    let s : State := { on with inlets := [(0, { state := .open, tail := 1 })] }
    wantsFetch s 0 = true ∧ 0 < outfallRoom (getOutfall s 0) ∧
    pickInlet s ((List.range 64).filter (fetchable s)) s.clk.fetchTurn = some 0 ∧ headerOk nopSlot = true ∧
    outfallRoom (getOutfall { s with outfalls := [(0, { reserved := 15 })] } 0) = 0 ∧
    wantsFetch { s with outfalls := [(0, { reserved := 15 })] } 0 = true ∧ wantsFetch on 0 = false ∧
    (getOutfall { s with outfalls := [(0, { oldest := some 3, coalesceTime := 255 })] } 0).oldest = some 3 ∧
    (getOutfall s 0).oldest = none ∧ vectorMasked s.irq 0 = true ∧
    vectorMasked { s.irq with table := [(12, 0)] } 0 = false := by decide +kernel

theorem wit_immediate :
    let n := cmd 0x0001 0 []
    let g := cmd 0x0002 1 [(0, 2, 5), (2, 1, 1), (4, 4, 9)]
    let w := cmd 0x0003 1 [(0, 2, 5), (4, 4, 9)]
    let f := cmd 0x0004 1 [(0, 1, 1)]
    let q := cmd 0x0013 1 [(0, 2, 0)]
    runs (held n) 0 (opSel 0x0001) n = true ∧ n.hdr.paramLen = 0 ∧
    runs (held g) 0 (opSel 0x0002) g = true ∧ 0 < g.hdr.paramLen ∧ (signalEntries g).all (fun e => e.2.1 ≤ 1) = true ∧
    runs (held w) 0 (opSel 0x0003) w = true ∧ 0 < w.hdr.paramLen ∧
    runs (held f) 0 (opSel 0x0004) f = true ∧ f.hdr.paramLen = 1 ∧ f.par 0 1 ≤ 1 ∧
    runs (held q) 0 (opSel 0x0013) q = true ∧ q.hdr.paramLen = 1 ∧ q.par 5 3 = 0 ∧
    (queryResult (dispatchCmd (held q) q) (q.par 0 2) (q.par 2 2) (q.par 4 1)).isSome = true := by decide +kernel

/-- A group of two, configured as group 255. -/
def grouped (s : State) : State := { withGroup2 s with net := { s.net with groups := [(255, 0x1000)] } }

theorem wit_barriers :
    let d := cmd 0x0005 1 [(0, 2, 255)]
    let l := cmd 0x0006 2 [(0, 8, 1)]
    let m := cmd 0x0006 2 [(0, 8, 1), (8, 1, 1)]
    let t : Tide := { st := .tracking }
    runs (grouped (held d)) 0 (opSel 0x0005) d = true ∧ d.hdr.paramLen = 1 ∧ d.par 0 2 < 256 ∧
    groupThere (grouped (held d)) (d.par 0 2) = true ∧ d.par 2 6 = 0 ∧
    runs { held l with tide := t } 0 (opSel 0x0006) l = true ∧ l.hdr.paramLen = 2 ∧ t.st = .tracking ∧
    t.count.toNat < l.par 0 8 ∧ l.par 8 1 ≤ 1 ∧ l.par 9 7 = 0 ∧
    runs { held m with tide := t } 0 (opSel 0x0006) m = true ∧ t.count.toNat < roundUp (m.par 0 8) 716800 ∧
    roundUp (m.par 0 8) 716800 < 2 ^ 64 ∧
    runs (held l) 0 (opSel 0x0006) l = true ∧ (held l).tide.st ≠ .tracking ∧
    (let k := cmd 0x0006 2 []
     runs { held k with tide := t } 0 (opSel 0x0006) k = true ∧ k.par 0 8 ≤ t.count.toNat) ∧
    ((findCmd (busy (.launch 5)) 0).map (·.work)) = some (.launch 5) ∧
    (let w : DikeWork := { group := 255, seq := 0, n := 2, rank := 0, release := some 9 }
     ((findCmd (busy (.dike w)) 0).map (·.work)) = some (.dike w) ∧ w.release = some 9) ∧
    State.reset.tide.count.toNat ≤ masterAt State.reset 5 ∧ masterAt State.reset 5 < 2 ^ 64 ∧
    (let u : State := { up with tide := { t with offset := -39 } }
     u.tide.count.toNat ≤ masterAt u 5 ∧ masterAt u 5 = 5 ∧ 0 ≤ 40 * (1 : Int) + u.tide.offset ∧
      masterAt { up with tide := { t with offset := 1 } } 5 = 6) := by decide +kernel

theorem wit_abort :
    let a := cmd 0x0008 2 [(0, 1, 1), (2, 2, 63)]
    let b := cmd 0x0008 2 [(0, 1, 2)]
    let k : Cmd := { cmd 0x0003 1 [] with id := 1, inlet := 63, work := .waitEvents [(5, 9, false)] }
    let s := fun c : Cmd => { held c with cmds := [c, k] }
    runs (s a) 0 (opSel 0x0008) a = true ∧ a.hdr.paramLen = 2 ∧ a.par 0 1 ≤ 2 ∧ a.par 1 1 = 0 ∧ a.par 2 2 < 64 ∧
    a.par 8 8 = 0 ∧ a.par 0 1 = 1 ∧ k ∈ (s a).cmds ∧ k.id ≠ a.id ∧
    runs (s b) 0 (opSel 0x0008) b = true ∧ b.hdr.paramLen = 2 ∧ b.par 0 1 = 2 ∧ b.par 1 1 = 0 ∧ b.par 8 8 = 0 ∧
    k ∈ (s b).cmds ∧ k.inlet ≠ b.inlet := by decide +kernel

theorem wit_modes :
    let m := cmd 0x0010 2 [(0, 1, 3), (2, 2, 4095), (4, 2, 4096)]
    let c := cmd 0x0011 1 [(0, 2, 1650), (2, 2, 500)]
    let w := cmd 0x0012 2 [(0, 1, 10), (1, 1, 4), (2, 1, 2), (4, 1, 8), (5, 1, 4), (6, 1, 2), (7, 1, 2), (10, 1, 14), (11, 1, 2)]
    runs (held m) 0 (opSel 0x0010) m = true ∧ (held m).cmds.length = 1 ∧ m.hdr.paramLen = 2 ∧ m.par 0 1 < 4 ∧
    m.par 1 1 = 0 ∧ m.par 2 2 < 4096 ∧ (16 ≤ m.par 4 2 ∧ m.par 4 2 ≤ 4096) ∧ m.par 6 8 = 0 ∧ m.par 14 2 = 0 ∧
    runs (held c) 0 (opSel 0x0011) c = true ∧ c.hdr.paramLen = 1 ∧ c.par 4 4 = 0 ∧ c.par 0 2 = 1650 ∧ c.par 2 2 = 500 ∧
    runs (held w) 0 (opSel 0x0012) w = true ∧ (held w).cmds.length = 1 ∧ w.hdr.paramLen = 2 ∧ weirOk w.params = true ∧
    (let z := cmd 0x0011 1 []
     runs (held z) 0 (opSel 0x0011) z = true ∧ z.hdr.paramLen = 1 ∧ z.par 4 4 = 0 ∧ z.par 0 2 = 0 ∧ z.par 2 2 = 0) ∧
    (let p := cmd 0x0011 1 [(2, 2, 1650)]
     runs (held p) 0 (opSel 0x0011) p = true ∧ p.par 0 2 = 0 ∧ p.par 2 2 = 1650 ∧ 1650 ≤ (held p).pump.capPeak.toNat) ∧
    (let n := cmd 0x0010 2 []
     runs (held n) 0 (opSel 0x0010) n = true ∧ n.par 4 2 = 0 ∧ n.par 0 1 = 0) := by
  decide +kernel

theorem wit_cores :
    let f := cmd 0x0014 1 [(0, 1, 15)]
    let o := cmd 0x0015 1 [(0, 1, 15)]
    let s : State := { held o with cores := [(15, { st := .outOfService, outReason := .host })] }
    runs (held f) 0 (opSel 0x0014) f = true ∧ f.hdr.paramLen = 1 ∧ f.par 0 1 < 16 ∧ f.par 1 7 = 0 ∧
    coreIn (held f) (f.par 0 1) = true ∧ 1 < coreCount (held f) ∧
    runs s 0 (opSel 0x0015) o = true ∧ o.hdr.paramLen = 1 ∧ o.par 0 1 < 16 ∧ o.par 1 7 = 0 ∧
    (getCore s (o.par 0 1)).st = .outOfService ∧ (getCore s (o.par 0 1)).busy = none ∧
    cmdsOnCore (dispatchCmd (held f) f) 15 = [] ∧ 127 / 8 = 15 ∧ 127 < 128 := by decide +kernel

theorem wit_checks :
    (let c := cmd 0x0001 0 [] 2
     dispatchable (held c) 0 (opSel 0x0001) = some c ∧ flagSet c.hdr 1 = true ∧ (held c).lock.repeatable = false) ∧
    (let c := cmd 0x0001 0 [] 8
     dispatchable (held c) 0 (opSel 0x0001) = some c ∧ flagSet c.hdr 3 = true ∧ (held c).lock.established = false) ∧
    dispatchable on 0 (opSel 0x0001) = none := by decide +kernel

theorem wit_checks_objects :
    (let c := cmd 0x0300 3 [(0, 2, 4095)]
     let s : State := { held c with net := { windows := [(4095, { st := .open })] } }
     runs s 0 (opSel 0x0300) c = true ∧ c.hdr.paramLen = 3 ∧ c.par 0 2 < 4096 ∧ (getWindow s (c.par 0 2)).st ≠ .closed) ∧
    (let c := cmd 0x0301 1 [(0, 2, 4095)]
     runs (held c) 0 (opSel 0x0301) c = true ∧ c.hdr.paramLen = 1 ∧ c.par 0 2 < 4096 ∧
      (getWindow (held c) (c.par 0 2)).st ≠ .open) ∧
    (let c := cmd 0x0102 9 [(0, 2, 7)]
     let s : State := { held c with sluices := [(7, { st := .running })] }
     runs s 0 (opSel 0x0102) c = true ∧ c.hdr.paramLen = 9 ∧ hostSluice (c.par 0 2) = true ∧
      (getSluice s (c.par 0 2)).st ≠ .idle) ∧
    (let c := cmd 0x0103 9 [(0, 2, 7)]
     runs (held c) 0 (opSel 0x0103) c = true ∧ c.hdr.paramLen = 9 ∧ hostSluice (c.par 0 2) = true ∧
      (getSluice (held c) (c.par 0 2)).st = .idle) ∧
    (let c := cmd 0x0309 1 [(0, 2, 16383)]
     runs (held c) 0 (opSel 0x0309) c = true ∧ c.hdr.paramLen = 1 ∧ c.par 0 2 < 16384 ∧
      (getQp (held c) (c.par 0 2)).st = .free) := by decide +kernel

theorem wit_checks_device :
    (let c := cmd 0x0010 2 []
     let s : State := { held c with cmds := [c, { cmd 0x0003 1 [] with id := 1, inlet := 1, work := .waitEvents [] }] }
     runs s 0 (opSel 0x0010) c = true ∧ 1 < s.cmds.length) ∧
    (let c := cmd 0x0012 2 []
     let s : State := { held c with cmds := [c, { cmd 0x0003 1 [] with id := 1, inlet := 1, work := .waitEvents [] }] }
     runs s 0 (opSel 0x0012) c = true ∧ 1 < s.cmds.length) ∧
    (let c := cmd 0x0005 1 [(0, 2, 255)]
     runs (held c) 0 (opSel 0x0005) c = true ∧ c.hdr.paramLen = 1 ∧ c.par 0 2 < 256 ∧
      groupThere (held c) (c.par 0 2) = false) ∧
    (let c := cmd 0x0014 1 [(0, 1, 15)]
     let s : State := { held c with cores := [(15, { st := .outOfService })] }
     runs s 0 (opSel 0x0014) c = true ∧ c.hdr.paramLen = 1 ∧ c.par 0 1 < 16 ∧ coreIn s (c.par 0 1) = false) ∧
    (let c := cmd 0x0502 0 []
     runs (held c) 0 (opSel 0x0502) c = true ∧ c.hdr.paramLen = 0 ∧ (held c).warden.fwState = .none) := by decide +kernel

theorem wit_checks_core :
    (let c := cmd 0x0015 1 [(0, 1, 15)]
     runs (held c) 0 (opSel 0x0015) c = true ∧ c.hdr.paramLen = 1 ∧ c.par 0 1 < 16 ∧
      (getCore (held c) (c.par 0 1)).st ≠ .outOfService) ∧
    (let c := cmd 0x0014 1 []
     let s : State := { held c with cores := (List.range 15).map (fun k => (k + 1, { st := .outOfService })) }
     runs s 0 (opSel 0x0014) c = true ∧ c.hdr.paramLen = 1 ∧ coreIn s 0 = true ∧ coreCount s ≤ 1) ∧
    (let c := cmd 0x0308 12 [(0, 2, 16383), (2, 1, 11)]
     let s : State := { held c with rcd := { portMode := List.replicate 12 1 }, qps := [(16383, { st := .ready })] }
     runs s 0 (opSel 0x0308) c = true ∧ c.hdr.paramLen = 12 ∧ c.par 0 2 < 16384 ∧ c.par 2 1 % 16 < 12 ∧
      (getQp s (c.par 0 2)).st ≠ .free ∧ isEth s (c.par 2 1 % 16) = true ∧ isEth (held c) (c.par 2 1 % 16) = false) ∧
    (let c := cmd 0x0502 0 []
     let s : State := { held c with warden := { fwState := .writing } }
     runs s 0 (opSel 0x0502) c = true ∧ s.warden.fwState = .writing) := by decide +kernel

/-- Destinations of an EXPORT_BIND, channels, and groups that are not configured. -/
theorem wit_checks_network :
    [(0x0302, 7), (0x0303, 4), (0x0304, 5), (0x0305, 4)].all (fun r =>
      let c := cmd (BitVec.ofNat 16 r.1) r.2 [(0, 2, 255)]
      runs (held c) 0 (opSel r.1) c && c.hdr.paramLen == r.2 &&
        !groupThere (held c) (if r.1 = 0x0302 then (sendOf c.params).group else c.par 0 2)) = true ∧
    [0, 1, 2, 3].all (fun o =>
      let c := cmd 0x0306 5 [(0, 1, o), (1, 1, 15)]
      runs (held c) 0 (exportSel o) c && c.hdr.paramLen == 5 && (getChannel (held c) (c.par 1 1)).st != .bound) = true ∧
    (let c := cmd 0x0307 14 [(0, 1, 15), (1, 1, 1), (64, 1, 1), (66, 2, 16383)]
     runs (held c) 0 (opSel 0x0307) c = true ∧ c.hdr.paramLen = 8 + 6 * c.par 1 1 ∧ c.par 0 1 < 16 ∧
      (getChannel (held c) (c.par 0 1)).st = .free ∧ 1 ≤ c.par 1 1 ∧ (List.range (c.par 1 1)).all (destOk c) = true ∧
      (bindDests c).findSome? (destRefused (held c)) = some (0x04, 0, 16383) ∧
      (getChannel { held c with channels := [(15, { st := .bound })] } (c.par 0 1)).st ≠ .free) ∧
    (let w : State := { up with net := { windows := [(4095, { st := .open })] } }
     (getQp up 16383).st = .free ∧ (getQp { up with qps := [(16383, { st := .ready })] } 16383).st ≠ .free ∧
      0 = up.rcd.chipId.toNat ∧ 1 ≠ up.rcd.chipId.toNat ∧ (getWindow up 4095).st ≠ .open ∧ (getWindow w 4095).st = .open) := by
  decide +kernel

theorem wit_completion :
    let s := busy (.done 5)
    let c : Cmd := { cmd 0 0 [] with work := .done 5 }
    s.net.loop = [] ∧ closeNext s = none ∧
    s.cmds.findSome? (fun k => if digestWaits s k.id then none else (completion s k).map (fun r => (k, r))) =
      some (c, .ok, 5) ∧ c.work = .done 5 ∧ digestWaits (cmdDigest s c.id .ok 5) c.id = false ∧
    findCmd s c.id = some c ∧
    (let x : Cmd := { c with hdr := { hdr 0 0 5 with signalId := 0xFFFF } }
     findCmd { s with cmds := [x] } x.id = some x ∧ flagSet x.hdr 2 = true ∧ flagSet x.hdr 0 = true ∧ x.hdr.signalId ≠ 0) ∧
    flagSet c.hdr 2 = false ∧ flagSet c.hdr 0 = false ∧
    (getOutfall { s with outfalls := [(0, { wb := 0x1000 })] } 0).base.toNat + 32 ≤ 0x1000 := by decide +kernel

theorem wit_waits :
    let c := cmd 0x0001 0 []
    (0xFFFF : Nat) ≠ 0 ∧ (65535 : Nat) < 65536 ∧ c.hdr.waits.length = c.met.length ∧ c.met.getD 3 false = true ∧
    dispatchable (held c) 0 (opSel 0x0001) = some c ∧ 3 < c.hdr.waits.length ∧ 3 < c.met.length := by decide +kernel
/-- A linear descriptor of `n` bytes in bytes 8 to 71 of a parameter block: 0x1000 to 0x20000. -/
def linear (n : Nat) (dflags : Nat := 0) (mode : Nat := 0) : List (Nat × Nat × Nat) :=
  [(8, 1, mode), (9, 1, dflags), (12, 4, n), (16, 8, 0x1000), (24, 8, 0x20000), (32, 4, 1), (36, 4, 1)]

theorem wit_transfers :
    (let c := cmd 0x0100 9 ((0, 1, 16) :: linear 0x1000000)
     runs (held c) 0 (opSel 0x0100) c = true ∧ c.hdr.paramLen = 9 ∧ c.par 0 1 ≤ 16 ∧ c.par 1 7 = 0 ∧
      (let d := cmd 0x0100 9 ((0, 1, 16) :: linear 16)
       runs (held d) 0 (opSel 0x0100) d = true ∧ (plainDesc d none).ok = true ∧ (plainDesc d none).mode ≤ 2)) ∧
    (let c := cmd 0x0106 9 (linear 16)
     runs (held c) 0 (opSel 0x0106) c = true ∧ c.hdr.paramLen = 9 ∧ c.par 0 1 ≤ 16 ∧ c.par 1 7 = 0 ∧
      (plainDesc c (some 3)).ok = true) ∧
    (let c := cmd 0x0107 9 (linear 16)
     runs (held c) 0 (opSel 0x0107) c = true ∧ c.hdr.paramLen = 9 ∧ c.par 0 1 ≤ 16 ∧ c.par 1 7 = 0 ∧
      (plainDesc c (some 4)).ok = true) ∧
    (let c := cmd 0x0101 4 [(0, 8, 0x30), (8, 8, 2 ^ 40 - 16), (16, 1, 16)]
     runs (held c) 0 (opSel 0x0101) c = true ∧ c.hdr.paramLen = 4 ∧ c.par 0 8 % 16 = 0 ∧ c.par 8 8 % 16 = 0 ∧
      c.par 8 8 < 2 ^ 40 ∧ c.par 16 1 ≤ 16 ∧ c.par 17 7 = 0) := by decide +kernel

theorem wit_sluices :
    let a := cmd 0x0102 9 ((0, 2, 159) :: linear 16)
    let r := cmd 0x0103 9 ((0, 2, 159) :: linear 16)
    let s : State := { held r with sluices := [(159, { st := .running, active := some (armChain a) })] }
    runs (held a) 0 (opSel 0x0102) a = true ∧ a.hdr.paramLen = 9 ∧ (getSluice (held a) (a.par 0 2)).st = .idle ∧
    armOk a = true ∧ runs s 0 (opSel 0x0103) r = true ∧ r.hdr.paramLen = 9 ∧
    (getSluice s (r.par 0 2)).st = .running ∧ armOk r = true ∧
    (armChain a).desc.chain = false ∧
    (let n := cmd 0x0102 9 ((0, 2, 159) :: (64, 8, 0x40000) :: linear 16 1)
     runs (held n) 0 (opSel 0x0102) n = true ∧ armOk n = true ∧ (armChain n).desc.chain = true ∧
      (armChain n).lastStarts = true ∧ rangeRead (armChain n).desc.next 64 = true ∧
      badAt (held n) (armChain n).desc.next 64 = none) := by decide +kernel

/-- A sluice at work on a chain of command 0. -/
def moving (c : SlChain) : State := { busy (.arm 159) with sluices := [(159, { st := .running, active := some c })] }

theorem wit_segment :
    let c := armChain (cmd 0x0102 9 ((0, 2, 159) :: linear 8192))
    let e := armChain (cmd 0x0102 9 ((0, 2, 159) :: (16, 8, 0x1000000000) :: linear 16 2))
    let w : SlChain := { e with desc := { e.desc with src := 0x1000000000 } }
    let m := c.segEnd - c.pos
    (getSluice (moving c) 159).st = .running ∧ (getSluice (moving c) 159).active = some c ∧
    (claimFor (moving c) c).2.stalled = false ∧ c.job = none ∧ c.nxt = none ∧ (getSluice (moving c) 159).shadow = none ∧ c.desc.mode = 0 ∧ c.fill = none ∧ c.desc.chain = false ∧
    c.pos < c.segEnd ∧ rangeRead (c.desc.src + c.pos) m = true ∧ rangeOk (c.desc.dst + c.pos) m = true ∧
    rangeBad (moving c) (c.desc.src + c.pos) m = false ∧
    (getSluice (moving w) 159).active = some w ∧ w.job = none ∧ (claimFor (moving w) w).2.stalled = true ∧
    (let s := play (held (cmd 0x0200 14 gemmFields)) [.gemm 0, .workRequest 0 0]
     (getSluice s 0).st = .running ∧ ((getSluice s 0).active.map (fun c => c.job.isSome)) = some true) := by decide +kernel

theorem wit_compare :
    (let c := cmd 0x0104 4 [(0, 8, 0x1000), (8, 8, 0x2000), (16, 8, 0x3000), (24, 4, 2), (28, 1, 8), (29, 1, 16)]
     let b := ccBytes 8
     runs (held c) 0 (opSel 0x0104) c = true ∧ c.hdr.paramLen = 4 ∧ 1 ≤ c.par 24 4 ∧ c.par 28 1 ≤ 8 ∧ 1 ≤ c.par 29 1 ∧
      c.par 29 1 ≤ 16 ∧ c.par 30 2 = 0 ∧ c.par 0 8 % b = 0 ∧ c.par 16 8 % 4 = 0 ∧
      rangePolder (c.par 0 8) (c.par 24 4 * b) = true ∧ rangeRead (c.par 8 8) (c.par 29 1 * b) = true ∧
      rangeOk (c.par 16 8) (12 * c.par 29 1) = true ∧ readsClean (held c) c [(0, c.par 0 8, c.par 24 4 * b), (0, c.par 8 8, c.par 29 1 * b)] = true) ∧
    (let c := cmd 0x0105 3 [(0, 8, 2 ^ 31 - 8), (16, 8, 5)]
     let n := cmd 0x0105 3 [(0, 8, 2 ^ 31 - 8), (8, 8, 1)]
     runs (held c) 0 (opSel 0x0105) c = true ∧ c.hdr.paramLen = 3 ∧ c.par 0 8 % 8 = 0 ∧
      rangePolder (c.par 0 8) 8 = true ∧ readsClean (held c) c [(0, c.par 0 8, 8)] = true ∧
      readLe (held c) (c.par 0 8) 8 = c.par 8 8 ∧
      runs (held n) 0 (opSel 0x0105) n = true ∧ readLe (held n) (n.par 0 8) 8 ≠ n.par 8 8) := by decide +kernel

theorem wit_housekeeping :
    up.tide.count.toNat < 2 ^ 63 ∧ ddrRuns up = true ∧ up.lock.repeatable = false ∧
    ({ up with lock := { repeatable := true } } : State).lock.repeatable = true ∧
    ddrRuns { up with lock := { repeatable := true } } = true ∧
    ddrRuns { up with dev := { up.dev with state := .lowPower }, selfRefresh := true } = false ∧
    (toSchedule up [716799, 5]).isSome = true ∧ toSchedule up [] = none := by decide +kernel

/-- A chain that waits for slot 63 of core 0, which is EMPTY, as its source. -/
def waiting : SlChain :=
  { cmd := 0, lo := 0, hi := 16, pos := 0
    desc := { descOf [] with dflags := 2, src := 0x10003F0000, dst := 0x1000, rows := 1, rowBytes := 16 } }

/-- A CHAIN whose prologue waits for a slot of core 0, all of which the host has FULL. -/
def stalledThread : State :=
  let w : ArrayWork := { kind := .chain, par := { stageMask := 1, inCvt := 3 }, prods := [{ k := 64 }]
                         items := [{ idx := 0, core := 0, arr := 0, chain := 0, entry := 0, tile := 0, n0 := 0, n1 := 1 }] }
  { busy (.array w) with
    cores := [(0, { threads := [(0, (0, 0))], epiQ := [{ cmd := 0, item := 0, kind := .prologue, sweep := 0, c0 := 0, w := 64 }] })]
    slots := (List.range 52).map (fun k => (k, { st := .full })) }

theorem wit_watchdogs :
    (let k : Cmd := { cmd 0 0 [] with work := .xfer 1 [] 0 }
     findCmd { on with cmds := [k] } 0 = some k ∧ watched { on with cmds := [k] } k = true ∧ k.ending = none ∧
      allParties.all (fun p => (partyStalls { on with cmds := [k] } p).isEmpty) = true) ∧
    findCmd on 0 = none ∧
    (((partyStalls (moving waiting) (.sluice 159)).find? (fun x => x.2 % 64 = 63 && x.1.advisory.isNone)).map (·.2)) = some 63 ∧
    partyStalls on (.thread 15 7) = [] ∧ (partyStalls stalledThread (.thread 0 0)).isEmpty = false ∧
    (partyStalls (play (held (cmd 0x0200 14 gemmFields)) [.gemm 0, .workRequest 0 0]) (.loadPort 0 0)).isEmpty = false ∧
    (allStalls (moving waiting)).isEmpty = false ∧ stallOf (moving waiting) (partyKey (.sluice 159)) 0 63 = none ∧
    (stallOf (noteStalls (moving waiting)) (partyKey (.sluice 159)) 0 63).isSome = true := by decide +kernel

/-- The product of a command, as the statements cut it. -/
def cutProd (s : State) (c : Cmd) (t : Bool) : Prod :=
  let q := prodOf c.params (c.params.drop 16) 0
  q.cut (accRows t q.shape) (accAvail (dispatchCmd s c) c.urgent)

theorem wit_products (t : Bool) :
    let c := cmd (if t then 0x0205 else 0x0200) 14 gemmFields
    let b := cmd (if t then 0x0205 else 0x0200) 14 [(10, 2, 0x8000)]
    runs (held c) 0 (opSel (if t then 0x0205 else 0x0200)) c = true ∧ coresMissing (held c) (c.par 10 2) = 0 ∧
    c.hdr.paramLen = 14 ∧ ctlOk c.params t = true ∧ fieldLe (c.params.drop 16) 92 4 = 0 ∧
    prodOk (cutProd (held c) c t) t = true ∧ c.flaws = [] ∧ readsClean (held c) c (maskRanges [cutProd (held c) c t]) = true ∧
    (let s : State := { held b with cores := [(15, { st := .outOfService })] }
     runs s 0 (opSel (if t then 0x0205 else 0x0200)) b = true ∧ coresMissing s (b.par 10 2) ≠ 0) := by
  cases t <;> decide +kernel

/-- A list of one product at 0x4000. -/
def listState : State × Cmd :=
  let g := cmd 0x0200 14 gemmFields
  let c := cmd 0x0201 4 [(0, 1, 3), (1, 1, 3), (2, 1, 1), (4, 1, 1), (16, 8, 0x4000), (24, 2, 1)]
  (writeMem (held c) 0x4000 ((g.params.drop 16).take 96), c)

theorem wit_productList :
    let s := listState.1
    let c := listState.2
    let ps := listProds (dispatchCmd s c) c
    runs s 0 (opSel 0x0201) c = true ∧ coresMissing s (c.par 10 2) = 0 ∧ c.hdr.paramLen = 4 ∧
    ctlOk c.params false = true ∧ c.par 16 8 % 64 = 0 ∧ 1 ≤ c.par 24 2 ∧ c.par 24 2 ≤ 4096 ∧ c.par 26 6 = 0 ∧
    rangeRead (c.par 16 8) (96 * c.par 24 2) = true ∧
    readsClean s c ((List.range (c.par 24 2)).map (fun e => (e, c.par 16 8 + 96 * e, 96))) = true ∧
    (listEntries s c).all (fun b => fieldLe b 92 4 = 0) = true ∧
    ps.all (fun p => prodRanges p = 0 || prodOk p false) = true ∧
    readsClean s c (maskRanges (ps.filter (fun p => prodRanges p != 0))) = true := by decide +kernel

/-- A chain of one product without a program. -/
def chainCmd : Cmd :=
  cmd 0x0202 51 [(1, 1, 1), (8, 4, 1), (32, 8, 0x5000), (112, 8, 0x1000), (120, 8, 0x2000), (128, 8, 0x3000), (168, 4, 1),
    (172, 4, 1), (176, 4, 64), (180, 4, 64), (184, 4, 64), (192, 1, 3), (193, 1, 3), (194, 1, 1), (198, 1, 8)]

/-- A vector program of no operations over one element. -/
def vectorCmd : Cmd :=
  cmd 0x0204 21 [(0, 8, 0x1000), (16, 8, 0x2000), (32, 8, 0x5000), (40, 4, 1), (44, 4, 1), (48, 4, 64), (52, 4, 64),
    (56, 1, 1), (57, 1, 1)]

/-- Attention over one sequence of one token. -/
def attendCmd : Cmd :=
  cmd 0x0203 8 [(0, 2, 64), (2, 1, 1), (3, 1, 1), (4, 2, 1), (8, 1, 1), (9, 1, 1), (10, 1, 1), (11, 1, 1), (12, 1, 1),
    (13, 1, 1), (16, 4, 0x3F800000), (32, 8, 0x4000), (40, 2, 1)]

/-- Its sequence descriptor at 0x4000. -/
def attendState : State :=
  writeMem (held attendCmd) 0x4000 (([(0, 8, 0x10000), (8, 8, 0x20000), (16, 8, 0x30000), (24, 8, 0x40000),
    (40, 8, 0x50000), (48, 8, 0x60000), (72, 4, 128), (76, 4, 128), (80, 4, 1)] : List (Nat × Nat × Nat)).foldl patch
      (List.replicate 128 0))

/-- The ranges that a work's programs and row mask occupy. -/
def workRanges (w : ArrayWork) : List (Nat × Nat) :=
  progRanges w ++ (if w.par.rowMaskEn then [(w.par.rowMask, ceilDiv w.par.m 8)] else [])

theorem wit_chain :
    let c := chainCmd
    let s := held c
    let d := dispatchCmd s c
    let w := chainWork d (beginCmd s c)
    runs s 0 (opSel 0x0202) c = true ∧ coresMissing s w.mask = 0 ∧ c.hdr.paramLen = 51 ∧
    chainOk c.params w.par w.prods = true ∧ w.par.spilled = false ∧
    (workRanges w).all (fun r => rangeRead r.1 r.2) = true ∧
    readsClean s c ((workRanges w).map (fun r => (0, r))) = true ∧
    programsOk d (beginCmd s c) w (ceilDiv w.par.m (rowsOf w.par.shape)) = true := by decide +kernel

theorem wit_vector :
    let c := vectorCmd
    let s := held c
    let d := dispatchCmd s c
    let p := vectorPar c.params
    let w : ArrayWork := { kind := .vector, par := p, mask := c.par 72 2, maxChain := 1 }
    runs s 0 (opSel 0x0204) c = true ∧ coresMissing s w.mask = 0 ∧ c.hdr.paramLen = 21 ∧ vectorOk c.params p = true ∧
    p.inAddr ≠ p.outAddr ∧ (workRanges w).all (fun r => rangeRead r.1 r.2) = true ∧
    readsClean s c ((workRanges w).map (fun r => (0, r))) = true ∧
    programsOk d (beginCmd s c) w (ceilDiv p.m 128) = true := by decide +kernel

theorem wit_attend :
    let c := attendCmd
    let s := attendState
    let d := dispatchCmd s c
    let a := attPar c.params
    let bs := seqBlocks s a
    let qs := bs.map seqOf
    runs s 0 (opSel 0x0203) c = true ∧ coresMissing s (c.par 42 2) = 0 ∧ c.hdr.paramLen = 8 ∧ attOk c.params a = true ∧
    a.rotHalf = 0 ∧ rangeRead a.seqAddr (128 * a.seqs) = true ∧
    readsClean s c ((List.range a.seqs).map (fun n => (n, a.seqAddr + 128 * n, 128))) = true ∧
    readsClean s c ((qs.zipIdx).flatMap (fun q => (seqTables a q.1).map (fun r => (q.2, r)))) = true ∧
    (bs.zip qs).all (fun b => seqOk d a b.1 b.2) = true ∧ (qs.map (·.c)) = [1] := by decide +kernel

/-- A product with its pass in progress: its tile was fetched into slot 0 and loaded. -/
def gemmRun : State :=
  play (held (cmd 0x0200 14 gemmFields)) [.gemm 0, .workRequest 0 0, .segmentComplete 0, .stationaryLoad 0 0 0, .rampUp 0 0,
    .passStart 0 0 0]

theorem wit_work :
    let s := after (exec (.gemm 0) (held (cmd 0x0200 14 gemmFields))) on
    requestItems s 0 99 = none ∧ ((requestItems s 0 0).map (fun x => decide (x.2.1.kind ≠ .chain))) = some true ∧
    (let e := play s [.workRequest 0 0]
     let t := play e [.segmentComplete 0]
     ((nextLoad e 0 0 0).map (fun x => tileStaged e x.2.1 0 x.2.2.1 x.2.2.2)) = some false ∧
     ((nextLoad t 0 0 0).map (fun x => tileStaged t x.2.1 0 x.2.2.1 x.2.2.2 && shadowOpen t 0 0 x.1)) = some true ∧
      nextLoad t 0 15 0 = none ∧ (getArray t 0 0).pass = none ∧ (holders t 0 0).isEmpty = false ∧
      passPredicted t 15 1 = false ∧ (getArray t 15 1).pass = none ∧
      (let u := play t [.stationaryLoad 0 0 0, .rampUp 0 0]
       mayStart u 0 0 0 = true ∧ mayStart u 15 1 0 = false ∧ passPredicted u 0 0 = true ∧ (getArray u 0 0).pass = none)) ∧
    (getArray gemmRun 0 0).pass ≠ none := by decide +kernel

/-- Products of two row tiles on the arrays of core 0, which share a stream, with both tiles loaded. -/
def pairRun : State :=
  play (held (cmd 0x0200 14 [(0, 1, 3), (1, 1, 3), (2, 1, 1), (4, 1, 1), (8, 1, 1), (10, 2, 1), (16, 8, 0x10000), (24, 8, 0x20000),
      (32, 8, 0x30000), (80, 4, 129), (84, 4, 1), (88, 4, 1), (92, 4, 64), (96, 4, 64), (100, 4, 64)]))
    [.gemm 0, .workRequest 0 0, .segmentComplete 0, .segmentComplete 1, .stationaryLoad 0 0 0, .stationaryLoad 0 1 0, .rampUp 0 0,
      .rampUp 0 1]

theorem wit_work_pair :
    ((nextPass pairRun 0 0 0).map (fun x => ((pairOf pairRun 0 0 0 x.2.2.1 x.2.2.2).isSome,
      tileFor (getArray pairRun 0 0).active 0 x.2.2.1.idx x.2.2.2.load))) = some (true, false) ∧
    mayStart pairRun 0 0 0 = true ∧
    (let u := play (after (exec (.gemm 0) (held (cmd 0x0200 14 gemmFields))) on) [.workRequest 0 0, .segmentComplete 0,
      .stationaryLoad 0 0 0, .rampUp 0 0]
     ((nextPass u 0 0 0).map (fun x => (pairOf u 0 0 0 x.2.2.1 x.2.2.2).isNone)) = some true ∧
      (let v := putArray u 0 0 { getArray u 0 0 with active := (getArray u 0 0).shadow }
       ((nextPass v 0 0 0).map (fun x => tileFor (getArray v 0 0).active 0 x.2.2.1.idx x.2.2.2.load)) = some true)) ∧
    (let s := after (exec (.chain 0) (held chainCmd)) on
     ((requestItems s 0 0).map (fun x => decide (x.2.1.kind = .chain) &&
      x.2.2.2.2.all (fun y => rangeWindow (proSpillAt x.2.1 y.core y.arr)
        (spillEnd x.2.1 y.core y.arr - proSpillAt x.2.1 y.core y.arr)) &&
      (grantReads s x.1 x.2.1 x.2.2.2.2).all (fun r => (badAt s r.1 r.2).isNone))) = some true) := by decide +kernel

theorem wit_blocks :
    ((passHere gemmRun 0 0).map (fun p => decide (leadHeld gemmRun p.1 = false ∧
      blockBad gemmRun p.2.1 p.2.2.1 p.2.2.2.1 p.2.2.2.2 = none ∧ p.2.1.kind = .gemm))) = some true ∧
    passHere gemmRun 15 1 = none ∧ epiHere (headUp gemmRun 15) 15 = none := by decide +kernel

/-- Held back: by an error, by LEAD_LIMIT, by a pass that halts for a priority-0 tile. -/
theorem wit_blocks_held :
    (let s : State := { gemmRun with mem := { gemmRun.mem with bad := [0x2000] } }
     ((passHere s 0 0).map (fun p => decide (blockBad s p.2.1 p.2.2.1 p.2.2.2.1 p.2.2.2.2 ≠ none))) = some true) ∧
    (let s : State := { gemmRun with lock := { leadLimit := 0 }
                                     cmds := gemmRun.cmds.map (fun c => { c with hdr := { c.hdr with flags := 8 } }) }
     ((passHere s 0 0).map (fun p => leadHeld s p.1)) = some true) ∧
    (let a := getArray gemmRun 0 0
     let s := putArray { gemmRun with cmds := gemmRun.cmds ++ [{ cmd 0x0200 14 [] with id := 1, urgent := true, work := .done 0 }] } 0 0
       { a with pass := a.pass.map (fun q => { q with halt := true })
                shadow := { a.active with owner := a.active.owner.map (fun t => { t with cmd := 1 }) } }
     ((passHere s 0 0).map (fun p => blockHeld s 0 0 p.2.1 p.2.2.1 p.2.2.2.1 (blockWidth p.2.1 p.2.2.2.1))) = some true) := by
  decide +kernel

/-- The chain with its product's pass in progress. -/
def chainRun : State :=
  play (held chainCmd) [.chain 0, .workRequest 0 0, .segmentComplete 0, .stationaryLoad 0 0 0, .rampUp 0 0, .passStart 0 0 0]

/-- What the commits of the statements ask: not held, the kind, the last slice, whether the pass ends. -/
def commits (s : State) : Option (Bool × Bool × Bool) :=
  (passHere s 0 0).map (fun p =>
    (!leadHeld s p.1 && (blockBad s p.2.1 p.2.2.1 p.2.2.2.1 p.2.2.2.2).isNone &&
        !blockHeld s 0 0 p.2.1 p.2.2.1 p.2.2.2.1 (blockWidth p.2.1 p.2.2.2.1), p.2.1.kind == .chain, p.2.2.2.1.spec.last))

theorem wit_blocks_chain :
    commits gemmRun = some (true, false, true) ∧ commits chainRun = some (true, true, true) ∧
    ((passHere chainRun 0 0).map (fun p => let b := blockOf p.2.1 p.2.2.2.1
      decide (b.1.shape ≠ 2 ∧ b.2.1 + b.2.2 ≤ 2 ^ 24 ∧ 0 < b.2.2 ∧ (passRows false b.1 p.2.2.2.2).length = 1 ∧
        (p.2.1.prods.getD (p.2.2.1.stage - 1) {}).width ≤
          outColumns (p.2.1.prods.getD (p.2.2.1.stage - 1) {}) (b.2.1 + b.2.2) ∧
        p.2.2.1.queued < (p.2.1.prods.getD (p.2.2.1.stage - 1) {}).width))) = some true := by decide +kernel

/-- Attention with the pass over its scores in progress. -/
def attendRun : State :=
  play attendState [.attend 0, .workRequest 0 0, .epilogueBlock 0, .epilogueBlock 0, .epilogueBlock 0, .epilogueBlock 0,
    .workRequest 0 0, .epilogueBlock 0, .segmentComplete 0, .segmentComplete 1, .segmentComplete 0, .segmentComplete 1,
    .stationaryLoad 0 0 0, .rampUp 0 0, .passStart 0 0 0]

theorem wit_blocks_attend :
    ((passHere attendRun 0 0).map (fun p => decide (p.2.1.kind = .attendB ∧ leadHeld attendRun p.1 = false ∧
      blockBad attendRun p.2.1 p.2.2.1 p.2.2.2.1 p.2.2.2.2 = none ∧
      blockHeld attendRun 0 0 p.2.1 p.2.2.1 p.2.2.2.1 (blockWidth p.2.1 p.2.2.2.1) = false ∧
      p.2.2.2.1.spec.load.prob = false ∧
      p.2.2.2.1.done + (attColumns p.2.1.att p.2.2.2.1).2.2 = p.2.2.2.1.spec.w))) = some true := by decide +kernel

theorem wit_epilogue_chain :
    let s := play (held chainCmd) [.chain 0, .workRequest 0 0, .segmentComplete 0, .stationaryLoad 0 0 0, .rampUp 0 0, .passStart 0 0 0,
      .blockCommit 0 0]
    let u := headUp s 0
    ((epiHere u 0).map (fun e => decide (e.2.1.kind ≠ .attendA ∧ e.2.1.kind ≠ .attendB ∧
      slotsThere u e.1 e.2.1 e.2.2.1 e.2.2.2 = true))) = some true := by decide +kernel

theorem wit_epilogue_attend :
    let s := play attendState [.attend 0, .workRequest 0 0]
    ((epiHere (headUp s 0) 0).map (fun e => decide (e.2.1.kind = .attendA))) = some true := by decide +kernel

/-- The softmax that the score commit queued, with its P slots open and held, and the combination after the second pass. -/
theorem wit_epilogue_softmax :
    let s := after (exec (.blockCommit 0 0) attendRun) attendRun
    let u := headUp s 0
    ((epiHere u 0).map (fun e => decide (e.2.2.2.kind = .softmax ∧ attBad u e.2.1 e.2.2.1 e.2.2.2.kind = none ∧
      lastSweep e.2.1 e.2.2.1 = true ∧ slotsOpen u 0 0 (probSlots e.2.2.1 (attArea e.2.2.1 e.2.2.2.c0)) = true))) = some true ∧
    (let f : State := { u with slots := [(0, { st := .full }), (1, { st := .full })] }
     ((epiHere f 0).map (fun e => slotsOpen f 0 0 (probSlots e.2.2.1 (attArea e.2.2.1 e.2.2.2.c0)))) = some false) ∧
    ((epiHere (headUp (play s [.epilogueBlock 0, .stationaryLoad 0 1 0, .rampUp 0 1, .segmentComplete 0, .segmentComplete 1,
      .stationaryLoad 0 0 0, .stationaryLoad 0 1 0, .passStart 0 0 0, .passStart 0 1 0, .blockCommit 0 0, .blockCommit 0 1]) 0)
      0).map (fun e => e.2.2.2.kind)) = some .combine := by decide +kernel

/-- Of the program at the head: whether its slots are there and no hand-off or reduction stands in its sweep, whether its berm
slots can be had, whether its block is the last of the sweep, its stage, whether its sweep is the last. -/
def readyEpi (s : State) : Option (List Nat) :=
  let u := headUp s 0
  (epiHere u 0).map (fun e =>
    let env := stageEnv u e.1 e.2.1 e.2.2.2.kind.stageNo
    let ins := (itemRows e.2.2.1).map (rowIn u e.2.1 e.2.2.1 env e.2.2.2.kind.stageNo e.2.2.2.c0 e.2.2.2.w)
    [bit01 (slotsThere u e.1 e.2.1 e.2.2.1 e.2.2.2 && (epiBad u e.2.1 e.2.2.1 env ins e.2.2.2.w).isNone &&
        (sweepOps env.ops e.2.2.2.sweep).all (fun o => o.1.op != 0x41 && o.1.op != 0x31)),
      bit01 (claimArea u 0 e.1 e.2.1 e.2.2.1 e.2.2.2.kind).isSome, bit01 (e.2.2.2.c0 + e.2.2.2.w == env.width), env.stage,
      bit01 (e.2.2.2.sweep == sweeps env.ops)])

/-- A program that lacks its berm slots, one whose block is not its sweep's last, and a finish stage's. -/
theorem wit_epilogue_program :
    let s : State := { stalledThread with
      slots := []
      cores := [(0, { threads := [(0, (0, 0))], epiQ := [{ cmd := 0, item := 0, kind := .prologue, sweep := 1, c0 := 0, w := 32 }] })] }
    readyEpi stalledThread = some [1, 0, 1, 0, 0] ∧ readyEpi s = some [1, 1, 0, 0, 1] ∧
    readyEpi (play (held vectorCmd) [.vector 0, .workRequest 0 0]) = some [1, 1, 1, 3, 1] ∧
    (getCore stalledThread 0).epiQ.findIdx? (fun e => !epiWaits (getCore stalledThread 0) e) = some 0 := by decide +kernel

/-- The product's pass in progress while the shadow holds a priority-0 command's tile. -/
def pressed : State :=
  let a := getArray gemmRun 0 0
  putArray { gemmRun with cmds := gemmRun.cmds ++ [{ cmd 0x0200 14 [] with id := 1, urgent := true, work := .done 0 }] } 0 0
    { a with shadow := { a.active with owner := a.active.owner.map (fun t => { t with cmd := 1 }) } }

/-- The product's pass pre-empted, with its tile in the array again. -/
def resumable : State :=
  let a := getArray gemmRun 0 0
  putArray gemmRun 0 0 { a with pass := none, preempted := a.pass.toList }

/-- The product's pass on both arrays, while the shadow of TA1 holds the tile of a priority-0 command with the same work. -/
def pressedBoth : State :=
  let a := getArray gemmRun 0 0
  let s := { gemmRun with cmds := gemmRun.cmds ++ gemmRun.cmds.map (fun c => { c with id := 1, urgent := true }) }
  putArray s 0 1 { a with shadow := { a.active with owner := a.active.owner.map (fun t => { t with cmd := 1 }) } }

/-- Its pass pre-empted on both arrays. -/
def resumableBoth : State :=
  let a := getArray gemmRun 0 0
  let b : TArray := { a with pass := none, preempted := a.pass.toList }
  putArray (putArray gemmRun 0 0 b) 0 1 b

theorem wit_preemption :
    (lowerPass pressed 0 0).isSome = true ∧ (urgentShadow pressed 0 0).isSome = true ∧ lowerPass pressed 0 1 = none ∧
    lowerPass pressed 15 1 = none ∧
    ((getArray resumable 0 0).preempted.map (canResume resumable 0 0)) = [true] ∧
    (getArray resumable 0 1).preempted = [] ∧ (getArray pressed 0 0).preempted = [] ∧
    (let s := putArray resumable 0 0 { getArray resumable 0 0 with ramped := false }
     ((getArray s 0 0).preempted.map (canResume s 0 0)) = [false]) := by decide +kernel

theorem wit_preemption_shared :
    ((lowerPass pressedBoth 0 1).bind (fun q => (lowerPass pressedBoth 0 0).map (fun r => sharesStream pressedBoth q r))) =
      some true ∧
    (urgentShadow pressedBoth 0 1).map (·.id) = some 1 ∧ urgentShadow pressedBoth 0 0 = none ∧
    (nextPass pressedBoth 1 0 0).isSome = true ∧
    (let s := putArray pressedBoth 0 0 (getArray pressedBoth 0 1)
     (urgentShadow s 0 1).map (·.id) = some 1 ∧ urgentShadow s 0 0 = urgentShadow s 0 1 ∧
      ((lowerPass s 0 1).bind (fun q => (lowerPass s 0 0).map (fun r => sharesStream s q r))) = some true) ∧
    ((getArray resumableBoth 0 0).preempted.map (canResume resumableBoth 0 0)) = [true] ∧
    ((getArray resumableBoth 0 1).preempted.map (canResume resumableBoth 0 1)) = [true] ∧
    (getArray resumableBoth 0 0).preempted.all (fun q =>
      (getArray resumableBoth 0 1).preempted.all (fun r => sharesStream resumableBoth q r)) = true ∧
    (let s := putArray resumableBoth 0 1 { getArray resumableBoth 0 1 with ramped := false }
     ((getArray s 0 0).preempted.map (canResume s 0 0)) = [true] ∧
      ((getArray s 0 1).preempted.map (canResume s 0 1)) = [false]) := by decide +kernel

theorem wit_readErrors :
    let c : SlChain := { armChain (cmd 0x0102 9 ((0, 2, 159) :: linear 12288)) with reruns := [2, 3] }
    let s := moving c
    (getSluice s 159).active = some c ∧ c.pos + 4096 * 0 < c.hi ∧ rangeBad s 0x1000 1 = false ∧ c.reruns.getD 0 0 < 3 ∧
    c.pos + 4096 * 1 < c.hi ∧ 3 ≤ c.reruns.getD 1 0 ∧ c.hi ≤ c.pos + 4096 * 3 ∧
    (findCmd s 0).map (·.ending) = some none ∧
    (let h := cmd 0x0104 4 []
     let u := held h
     findCmd u 0 = some h ∧ isHeld h = true ∧ isDdr 0x4000000000 = true ∧ readsClean u h [(0, 0x1000, 8)] = true ∧
      ([(4, 0x1000, 8)].findSome? (fun r => (badAt { u with mem := { bad := [0x1000] } } r.2.1 r.2.2).map (fun a => (r.1, a)))).isSome
        = true) := by decide +kernel

/-- A head flit of one packet on virtual channel 1 with a sequence number: 256 bytes with their CRC. -/
def flit (seq : Nat) : List Byte :=
  let b := leBytes 1 0x0D ++ leBytes 2 seq ++ List.replicate 249 0
  b ++ leBytes 4 (crc32 b).toNat

/-- A Thondlink port that is up. -/
def linked : State := withPort { link := .up } up

set_option maxRecDepth 100000 in
theorem wit_flits :
    thlUp up 11 = false ∧ thlUp linked 11 = true ∧ (List.replicate 255 (0 : Byte)).length ≠ 256 ∧
    (let b := (flit 0).set 255 0
     (crc32 (b.take 252)).toNat ≠ fieldLe b 252 4 ∧ flitOf b = none) ∧
    ((flitOf (flit 0)).map (fun f => (f.nak, f.kind, f.vc, decide (f.seq = (getPort linked 11).rxSeq)))) =
      some (false, .head, 1, true) ∧
    ((flitOf (flit 4095)).map (fun f => (f.nak, f.kind, decide (f.seq = (getPort linked 11).rxSeq)))) =
      some (false, .head, false) ∧
    (getPort linked 11).discarding = false := by decide +kernel

theorem wit_portEvents :
    let o := withPort { link := .up, txSeq := 1, tries := 7 } up
    let e := withPort { link := .up, txSeq := 1, tries := 8 } up
    thlUp o 11 = true ∧ 0 < (getPort o 11).outstanding ∧ (getPort linked 11).outstanding = 0 ∧ 0 < (getPort o 11).tries ∧
    (getPort o 11).tries < 8 ∧ thlUp e 11 = true ∧ 0 < (getPort e 11).outstanding ∧ 8 ≤ (getPort e 11).tries ∧
    portUp linked 11 = true ∧ portUp up 11 = false ∧ trains up 11 = true ∧ isEth up 11 = false ∧
    (let p : State := { up with rcd := { portMode := [1] } }
     trains p 0 = true ∧ isEth p 0 = true) ∧
    trains linked 11 = false ∧
    (getPort (withPort { link := .keepAlive, widen := true } up) 11).link = .keepAlive ∧
    (getPort (withPort { link := .keepAlive, widen := true } up) 11).widen = true ∧ (getPort up 11).link ≠ .keepAlive ∧
    (getPort linked 11).link = .up ∧ isEth linked 11 = false ∧ (getPort up 11).link ≠ .up ∧
    (let l : State := { withPort { link := .keepAlive } up with dev := { up.dev with state := .lowPower } }
     (getPort l 11).link = .keepAlive ∧ (getPort l 11).widen = false ∧ l.dev.state = .lowPower) := by
  decide +kernel

/-- A SEND at work. -/
def sendWork : SendWork :=
  { group := 255, mode := 1, sflags := 0, rank := 1, event := 0, src := 0, rowBytes := 64, rows := 1, srcStride := 64
    dstStride := 64, dstOffset := 0, window := 0, gen := 0, tag := 0, fwdEvent := 0, rtsRefused := some 9 }

theorem wit_packets :
    receiveRows.all (fun r => decide ((pkt (BitVec.ofNat 8 r.2)).kind.toNat = r.2)) = true ∧
    thlUp linked 11 = true ∧ (pkt 0x01).dst = linked.rcd.chipId ∧ thlUp up 11 = false ∧
    ({ pkt 0x01 with dst := 5 } : Packet).dst ≠ linked.rcd.chipId ∧ (pkt 0x01).kind.toNat ≠ 0x02 := by decide +kernel

/-- What the packets of acknowledgement and of loss reach. -/
theorem wit_acks :
    (let s : State := { busy (.send { sendWork with rtsRefused := none, issued := false }) with
      net := { flowTx := [(flowKey 1 1, { next := 2, unacked := [(0, .cmd 0, 0), (1, .cmd 0, 0)] })] } }
     let k : Packet := { pkt 0x10 with aux := 1, flowSeq := 0 }
     k.aux ≠ 0xFFFF ∧ (getFlowTx s (flowKey k.src.toNat (k.aux.toNat % 8))).unacked.any (fun u => u.1 ≤ k.flowSeq.toNat) = true ∧
      (findCmd s 0).isSome = true ∧ refOf (pkt 0x11).context = .cmd 0 ∧
      workOf s 0 = some (.send { sendWork with rtsRefused := none, issued := false }) ∧ sendWork.mode = 1 ∧
      ({ pkt 0x10 with aux := 0xFFFF } : Packet).context.toNat % 2 ^ 32 = 0) ∧
    (let w : CollWork := { gather := true, group := 0, seq := 0, n := 2, rank := 1, started := true }
     let s := busy (.coll w)
     workOf s 0 = some (.coll w) ∧ ((collCmd s 0 (auxSeq 0)).map (·.1.id)) = some 0 ∧ w.rank ≠ 0 ∧ w.gather = true ∧
      opOf (cmd 0 0 []) = none ∧ ((s.cmds.map opOf) = [some (0, 0, true)]) ∧ 0 % 2 ^ 32 = (0 : W32).toNat) ∧
    refOf (pageContext 15 3 7) = .page 15 3 7 ∧
    (let n : Packet := { pkt 0x12 with rowBytes := 0x01, gen := 3, window := 1, aux2 := 0 }
     noticeCmd on n = none ∧ n.rowBytes ≠ 0x03 ∧ ((noticeCmd (busy (.done 0)) n).map (·.id)) = some 0 ∧ n.gen.toNat < 5 ∧
      isFlowKind (n.rowBytes.truncate 8) = true) ∧
    (let f : FlowRx := { done := 1, landed := [2] }
     0 < f.done ∧ f.landed.contains 2 = true ∧ f.done ≤ 1 ∧ f.landed.contains 1 = false) := by decide +kernel

/-- Matching, credits, aborts, barriers and blocks. -/
theorem wit_matches :
    (let r : RecvWork := { group := 0, rank := 0, tag := 0, window := 4095, offset := 0, capacity := 64 }
     let s := busy (.recv r)
     ((recvFor s (rtsOf (pkt 0x14))).map (·.id)) = some 0 ∧ ((findCmd s 0).map (·.work)) = some (.recv r) ∧
      recvFor on (rtsOf (pkt 0x14)) = none ∧ on.net.rts.length < 1024 ∧
      1024 ≤ (List.replicate 1024 (rtsOf (pkt 0x14))).length) ∧
    (let w : SendWork := { sendWork with rtsRefused := none, issued := false }
     workOf (busy (.send w)) (fieldLe (pkt 0x15).payload 8 8) = some (.send w) ∧ w.mode = 1) ∧
    workOf on (fieldLe (pkt 0x15).payload 8 8) = none ∧
    collCmd on 0 (auxSeq 0) = none ∧ on.cmds = [] ∧
    ((0 : W32) - BitVec.ofNat 32 (tabGet on.net.collSeq 0 0)).toNat < 2048 ∧
    2048 ≤ ((0xFFFFFFFF : W32) - BitVec.ofNat 32 (tabGet on.net.collSeq 0 0)).toNat ∧
    (let w : CollWork := { gather := false, group := 0, seq := 0, n := 2, rank := 1, started := true, count := 1024, level := [(0, 12)] }
     w.sentUp < w.chunks ∧ ownLevels w.n w.rank ≤ tabGet w.level 0 w.sentUp ∧ 0 < w.credits + 1 ∧ w.rank ≠ 0) ∧
    (let d : DikeWork := { group := 0, seq := 0, n := 2, rank := 0, started := true }
     let s := busy (.dike d)
     ((dikeCmd s 0 (auxSeq 0)).map (·.1.id)) = some 0 ∧ dikeCmd on 0 (auxSeq 0) = none ∧ d.sentUp = false ∧
      (joinLevels d.n d.rank).all (fun L => ([1] : List Nat).contains L) = true ∧
      (joinLevels d.n d.rank).all (fun L => ([0] : List Nat).contains L) = false ∧ s.tide.count.toNat ≤ masterAt s 0 ∧
      (let v : State := { s with tide := { count := 9 } }
       masterAt v 5 < v.tide.count.toNat)) ∧
    (let k := pkt 0x03
     (List.range 2).all (fun i => rangeWindow (0x1000 + k.offset.toNat + i * k.stride.toNat) k.rowBytes.toNat) = true ∧
      k.payload.length = k.rows.toNat * k.rowBytes.toNat ∧ 0x100 ≤ ({ k with aux := 0x101 } : Packet).aux.toNat ∧
      rangeWindow (0x100000 + 0) k.payload.length = true) := by decide +kernel

theorem wit_writes :
    let x : Window := { st := .open, gen := 1, thl := true, base := 0x1000, bytes := 2 }
    let k := pkt 0x01
    winRefuses x k.gen .thl (packetEnd k) = none ∧ rangeWindow x.base x.bytes = true ∧
    k.payload.length = k.rows.toNat * k.rowBytes.toNat ∧ 1 < k.rows.toNat ∧ 0 < k.rowBytes.toNat ∧
    (winRefuses { x with bytes := 1 } k.gen .thl (packetEnd k)).isSome = true ∧
    ({ x with st := .draining } : Window).st = .draining ∧ (getWindow up 4095).st = .closed ∧ x.st = .open ∧
    x.gen ≠ (2 : W16) ∧ ({ x with thl := false } : Window).thl = false ∧ k.kind = 0x01 ∧
    remoteWaits linked (rowAccesses x.base k) = false ∧ 0x4000000000 ≤ ({ x with base := 0x4000000000 } : Window).base ∧
    (let s : State := { linked with net := { inbound := [.roce 0 0 .invalid] } }
     remoteWaits s (rowAccesses 0x4000000000 k) = true) := by decide +kernel

theorem wit_retries :
    ((findCmd (busy (.send sendWork)) 0).map (·.work)) = some (.send sendWork) ∧ sendWork.rtsRefused = some 9 ∧
    findCmd on 0 = none ∧
    oldestWrite { busy (.send sendWork) with net := { flowTx := [(10, { unacked := [(0, .cmd 0, 7)] })] } } 0 = some (7, 10) ∧
    (findCmd (busy (.send sendWork)) 0).isSome = true ∧ oldestWrite on 0 = none := by decide +kernel

theorem wit_windows :
    (let c := cmd 0x0300 3 [(0, 2, 4095), (2, 1, 7), (8, 8, 0x4000000000), (16, 8, 0x1000)]
     let d := cmd 0x0300 3 [(0, 2, 4095), (2, 1, 7), (8, 8, 0x4000000000), (16, 8, 2 ^ 38)]
     runs (held c) 0 (opSel 0x0300) c = true ∧ c.hdr.paramLen = 3 ∧ c.par 0 2 < 4096 ∧
      (getWindow (held c) (c.par 0 2)).st = .closed ∧ c.par 2 1 < 8 ∧ c.par 3 5 = 0 ∧ c.par 8 8 % 4096 = 0 ∧
      c.par 16 8 % 4096 = 0 ∧ 4096 ≤ c.par 16 8 ∧ c.par 16 8 ≤ 2 ^ 38 ∧ rangeWindow (c.par 8 8) (c.par 16 8) = true ∧
      d.par 16 8 = 2 ^ 38 ∧ rangeWindow (d.par 8 8) (d.par 16 8) = true) ∧
    (let c := cmd 0x0301 1 [(0, 2, 4095)]
     let s : State := { held c with net := { windows := [(4095, { st := .open })] } }
     runs s 0 (opSel 0x0301) c = true ∧ c.hdr.paramLen = 1 ∧ c.par 0 2 < 4096 ∧ (getWindow s (c.par 0 2)).st = .open ∧
      c.par 2 6 = 0) ∧
    (closeNext { busy (.windowClose 4095) with clk := { ticks := 1 }, net := { windows := [(4095, { st := .draining })] } }).isSome
      = true := by decide +kernel

/-- Commands of a group of two, whose window 0 of this chip is OPEN. -/
def ring (c : Cmd) : State :=
  let s := grouped (held c)
  { s with net := { s.net with windows := [(0, { st := .open, gen := 0, thl := true, base := 0x100000, bytes := 0x40000 })] } }

theorem wit_network :
    (let c := cmd 0x0302 7 [(0, 2, 255), (2, 1, 1), (4, 2, 1), (8, 8, 0x8000), (16, 4, 64), (20, 4, 1), (24, 4, 64), (28, 4, 64)]
     let w := sendOf c.params
     runs (ring c) 0 (opSel 0x0302) c = true ∧ c.hdr.paramLen = 7 ∧ w.group < 256 ∧ groupThere (ring c) w.group = true ∧
      sendOk (ring c) c.params w = true ∧ tensorOk rangeRead w.src w.srcStride w.rows w.rowBytes = true) ∧
    (let c := cmd 0x0302 7 [(0, 2, 255), (2, 1, 2), (8, 8, 0x8000), (16, 4, 2 ^ 24), (20, 4, 1)]
     let w := sendOf c.params
     runs (ring c) 0 (opSel 0x0302) c = true ∧ w.mode = 2 ∧ groupThere (ring c) w.group = true ∧
      sendOk (ring c) c.params w = true ∧ tensorOk rangeRead w.src w.srcStride w.rows w.rowBytes = true) ∧
    (let c := cmd 0x0303 4 [(0, 2, 255), (2, 2, 1), (8, 2, 0), (24, 8, 64)]
     runs (ring c) 0 (opSel 0x0303) c = true ∧ c.hdr.paramLen = 4 ∧ c.par 0 2 < 256 ∧
      groupThere (ring c) (c.par 0 2) = true ∧ c.par 8 2 < 4096 ∧ c.par 10 6 = 0 ∧
      c.par 2 2 < groupSize (ring c) (c.par 0 2) ∧ (getWindow (ring c) (c.par 8 2)).st = .open) ∧
    (let c := cmd 0x0304 5 [(0, 2, 255), (8, 8, 0x8000), (16, 4, 16), (32, 8, 0x1000)]
     let s := ring c
     let g := c.par 0 2
     runs s 0 (opSel 0x0304) c = true ∧ c.hdr.paramLen = 5 ∧ g < 256 ∧ groupThere s g = true ∧
      ([0x0, 0x1, 0x2, 0xC].contains (c.par 2 1) && c.par 3 1 ≤ 2 && c.par 4 1 < 64 && c.par 4 1 % 16 < 0xD &&
        c.par 5 1 = 0 && 1 ≤ c.par 16 4 && c.par 16 4 ≤ 2 ^ 31 && c.par 20 4 = 0 &&
        ownWindowOk s g (c.par 24 8) (fmtBytes (c.par 4 1 % 16) (c.par 16 4)) &&
        ownWindowOk s g (c.par 32 8) (65536 * treeLevels (groupSize s g))) = true ∧
      rangeRead (c.par 8 8) (c.par 16 4 * (fmtBits (c.par 2 1) / 8)) = true) ∧
    (let c := cmd 0x0305 4 [(0, 2, 255), (8, 8, 0x8000), (16, 8, 64)]
     let s := ring c
     let g := c.par 0 2
     runs s 0 (opSel 0x0305) c = true ∧ c.hdr.paramLen = 4 ∧ g < 256 ∧ groupThere s g = true ∧ c.par 2 6 = 0 ∧
      c.par 16 8 % 16 = 0 ∧ ownWindowOk s g (c.par 24 8) (groupSize s g * c.par 16 8) = true ∧
      rangeRead (c.par 8 8) (c.par 16 8) = true) := by decide +kernel
/-- A device with a tide and an up port 11. -/
def timed (x : Tide) : State := { linked with tide := x }

theorem wit_tide :
    (timed { syncEn := false }).tide.syncEn = false ∧ (timed {}).tide.syncEn = true ∧ thlUp (timed {}) 11 = true ∧
    sendsSync (timed {}).tide = false ∧ (timed {}).tide.source = 0 ∧ (timed {}).tide.st = .unsync ∧
    thlUp up 11 = false ∧ sendsSync (timed { master := true }).tide = true ∧
    (timed { st := .acquiring }).tide.st = .acquiring ∧ (timed { st := .tracking }).tide.st = .tracking := by decide +kernel

theorem wit_corrections :
    corrects (timed { st := .tracking }).tide = true ∧ corrects (timed {}).tide = false ∧
    20 ≤ (timed { st := .tracking, offset := -20 }).tide.offset.natAbs ∧
    corrects (timed { st := .tracking, offset := -20 }).tide = true ∧
    (timed { st := .tracking, offset := 19 }).tide.offset.natAbs < 20 ∧
    (let t : Tide := { st := .acquiring }
     t.source = 0 ∧ t.syncEn = true ∧ t.master = false ∧ t.st ≠ .unsync) ∧ (timed {}).tide.st = .unsync ∧
    (let t : Tide := { source := 1, count := 716801 }
     t.source = 1 ∧ t.syncEn = true ∧ t.st = .unsync ∧ t.count.toNat % 716800 ≠ 0 ∧ t.count.toNat < 2 ^ 63) ∧
    (let t : Tide := { source := 1, st := .acquiring }
     t.source = 1 ∧ t.syncEn = true ∧ t.st ≠ .unsync) ∧ (timed {}).tide.source ≠ 1 ∧
    ({ syncEn := false } : Tide).syncEn = false := by decide +kernel

/-- A lock-step command at work beside an up port. -/
def locked (l : Lockstep) : State :=
  { busy (.done 0) with ports := [(11, { link := .up })], lock := l
                        cmds := [{ cmd 0 0 [] 8 with work := .done 0, lockSeq := 5 }] }

theorem wit_lockstep :
    thlUp (locked {}) 11 = true ∧ (0 : BitVec 12) = (locked {}).rcd.chipId ∧ (1 : BitVec 12) ≠ (locked {}).rcd.chipId ∧
    (let l : Lockstep := { set := true, partner := 3, pairFrom := some 3 }
     l.set = true ∧ l.established = false ∧ l.pairFrom = some l.partner) ∧ (locked {}).lock.set = false ∧
    (locked { established := true }).lock.established = true ∧
    (lockCmd (locked { established := true }) 0 5).isSome = true ∧ (locked {}).lock.established = false ∧
    (let a : Digest := { inlet := 0, seq := 5, item := 0, value := 9 }
     let b : Digest := { inlet := 0, seq := 5, item := 0, value := 9, cmd := some 0 }
     a.value = b.value ∧ ({ a with value := 8, cmd := some 0 } : Digest).value ≠ b.value ∧
      (findCmd (locked { established := true }) 0).isSome = true ∧ a.cmd = none ∧ ({ a with value := 8 } : Digest).value ≠ b.value) := by decide +kernel

/-- An EXPORT_BIND of n destinations at queue pair 16,383, with HEADS 1, DIM 64. -/
def bindCmd (n : Nat) : Cmd :=
  cmd 0x0307 (8 + 6 * n)
    ([(0, 1, 15), (1, 1, n), (2, 1, 0x21), (4, 2, 16), (6, 2, 1), (8, 2, 64), (12, 2, 1), (24, 4, 16), (48, 8, 0x10000),
      (56, 8, 0x10000)] ++ (List.range n).flatMap (fun d => [(64 + 48 * d, 1, 1), (64 + 48 * d + 2, 2, 16383),
      (64 + 48 * d + 16, 8, 0x1000)]))

/-- Queue pair 16,383 in a state. -/
def withQp (st : QpState) (s : State) : State := { s with qps := [(16383, { st := st })] }

theorem wit_bind :
    [1, 8].all (fun n =>
      let c := bindCmd n
      let s := withQp .ready (held c)
      let b := bindOf c ((getChannel s (c.par 0 1)).bindSeq + 1)
      runs s 0 (opSel 0x0307) c && c.hdr.paramLen == 8 + 6 * c.par 1 1 && decide (1 ≤ c.par 1 1) &&
        decide (c.par 1 1 ≤ 8) && (getChannel s (c.par 0 1)).st == .free && bindOk c &&
        ((bindDests c).findSome? (destRefused s)).isNone && rangeOk b.stageAddr b.stageBytes && tablesOk b) = true := by
  decide +kernel

/-- An EXPORT_KV of an operation on channel 15. -/
def exportCmd (op : Nat) (fields : List (Nat × Nat × Nat)) : Cmd := cmd 0x0306 5 ([(0, 1, op), (1, 1, 15)] ++ fields)

/-- The channel is bound to two tokens of one head of 64 values. -/
def bound (s : State) : State :=
  { s with channels := [(15, { st := .bound, cvt := 0x21, endPos := 16, dests := [{ kind := 1, qp := 16383 }] })] }

theorem wit_export :
    (let c := exportCmd 0 [(2, 1, 0), (3, 1, 4), (4, 1, 4), (8, 8, 0x8000), (16, 8, 0x9000), (24, 4, 256), (28, 4, 0), (32, 4, 2)]
     let s := bound (held c)
     let w := sourceOf' c
     c.hdr.paramLen = 5 ∧ c.par 1 1 < 16 ∧ (getChannel s (c.par 1 1)).st = .bound ∧ exportOk c = true ∧
      runs s 0 (exportSel 0) c = true ∧ [1, 2, 3, 4].contains w.kFmt = true ∧ [1, 2, 3, 4].contains w.vFmt = true ∧
      w.layout ≤ 1 ∧ w.pos ≤ w.posB ∧ w.posB ≤ 2 ^ 24 ∧ sourceReads s w = true ∧ 0 < sourceCount (getChannel s 15) w) ∧
    (let c := exportCmd 1 []
     let s := bound (held c)
     c.hdr.paramLen = 5 ∧ c.par 1 1 < 16 ∧ (getChannel s (c.par 1 1)).st = .bound ∧ exportOk c = true ∧
      runs s 0 (exportSel 1) c = true) ∧
    (let c := exportCmd 2 [(6, 2, 16383), (8, 8, 0x8000), (28, 4, 0x10000)]
     let s := bound (held c)
     let r := withQp .ready s
     c.hdr.paramLen = 5 ∧ c.par 1 1 < 16 ∧ (getChannel r (c.par 1 1)).st = .bound ∧ exportOk c = true ∧
      runs r 0 (exportSel 2) c = true ∧ runs s 0 (exportSel 2) c = true ∧ c.par 6 2 < 16384 ∧ 1 ≤ c.par 28 4 ∧
      c.par 28 4 ≤ 2 ^ 31 ∧ rangeOk (c.par 8 8) (c.par 28 4) = true ∧ (getQp r (c.par 6 2)).st = .ready ∧
      (getQp s (c.par 6 2)).st ≠ .ready) ∧
    (let c := exportCmd 3 [(6, 2, 16383), (8, 8, 0x8000), (28, 4, 256)]
     let s := bound (held c)
     let r := withQp .ready s
     c.hdr.paramLen = 5 ∧ c.par 1 1 < 16 ∧ (getChannel r (c.par 1 1)).st = .bound ∧ exportOk c = true ∧
      runs r 0 (exportSel 3) c = true ∧ runs s 0 (exportSel 3) c = true ∧ c.par 6 2 < 16384 ∧ 1 ≤ c.par 28 4 ∧
      c.par 28 4 ≤ 256 ∧ rangeRead (c.par 8 8) (c.par 28 4) = true ∧ readsClean r c [(0, c.par 8 8, c.par 28 4)] = true ∧
      (getQp r (c.par 6 2)).st = .ready ∧ (getQp s (c.par 6 2)).st ≠ .ready) := by decide +kernel

/-- A QP_SETUP of queue pair 16,383 at port 11. -/
def setupCmd : Cmd :=
  cmd 0x0308 12 [(0, 2, 16383), (2, 1, 11), (4, 1, 5), (6, 1, 20), (31, 1, 16), (64, 8, 0x8000), (72, 1, 12)]

theorem wit_queuePairs :
    (let c := setupCmd
     let s : State := { held c with rcd := { portMode := List.replicate 12 1 } }
     runs s 0 (opSel 0x0308) c = true ∧ c.hdr.paramLen = 12 ∧ c.par 0 2 < 16384 ∧ c.par 2 1 % 16 < 12 ∧
      (getQp s (c.par 0 2)).st = .free ∧ isEth s (c.par 2 1 % 16) = true ∧ qpOk s c = true ∧
      rangeOk (c.par 64 8) (4 * 2 ^ c.par 72 1) = true) ∧
    (let c := cmd 0x0309 1 [(0, 2, 16383)]
     let s := withQp .error (held c)
     runs s 0 (opSel 0x0309) c = true ∧ c.hdr.paramLen = 1 ∧ c.par 0 2 < 16384 ∧ (getQp s (c.par 0 2)).st ≠ .free ∧
      c.par 2 6 = 0) := by decide +kernel

theorem wit_exportEvents :
    let x : Dest := { kind := 1 }
    let y : Channel := { st := .bound, dests := [x], timeoutUs := 1000, pages := [(0, { buffer := 0, completeAt := some 0 })] }
    let z : Channel := { y with dests := [{ x with acked := [0] }] }
    let s : State := { up with channels := [(15, y)] }
    let t : State := { up with channels := [(15, z)] }
    (getChannel s 15).dests[7]? = none ∧ (getChannel s 15).dests[0]? = some x ∧ x.failed = none ∧
    (timeoutAt (getChannel s 15) x).isSome = true ∧
    (getChannel t 15).dests[0]? = some { x with acked := [0] } ∧
    (getChannel t 15).pages.all (fun p => ({ x with acked := [0] } : Dest).acked.contains p.1) = true ∧
    stalledSince s (getChannel s 15) = none ∧
    (let u : State := { busy (.done 0) with channels := [(15, { y with stalls := [((0, 0), 7)] })] }
     stalledSince u (getChannel u 15) = some 7) := by decide +kernel

/-- A complete segment of a page on a bound channel, to a peer, and its stream when it has failed; producers stalled with a
complete oldest page that has been acknowledged or not, and with none. -/
theorem wit_segmentSend :
    let x : Dest := { kind := 2, chip := 1, pageTable := 0x1000 }
    let pg : Page := { buffer := 0, completeAt := some 0 }
    let b : Channel := { st := .bound, endPos := 16, pages := [(0, pg)], ready := [(0, 0)], dests := [x], stageAddr := 0x10000 }
    let s : State := { linked with channels := [(15, b)] }
    (getChannel s 15).st = .bound ∧ b.dests[0]? = some x ∧ b.ready[x.sent]? = some (0, 0) ∧ tabFind? b.pages 0 = some pg ∧
    streamOpen s x = true ∧ streamOpen s { x with failed := some .link } = false ∧ x.kind ≠ 1 ∧ ({ x with kind := 1 } : Dest).kind = 1 ∧
    rangeBad s (bufAddr b pg.buffer + 4096 * 0) (min 4096 (b.extent - 4096 * 0)) = false ∧
    rangeBad s (x.pageTable + 8 * 0) 8 = false ∧
    (let y : Channel := { b with dests := [x, { x with acked := [0] }], stalls := [((0, 0), 7)] }
     let u : State := { busy (.done 0) with channels := [(15, y)] }
     stalledSince u y = some 7 ∧ ((oldestPage y).bind (fun p => p.2.completeAt.map (fun _ => p.1))) = some 0 ∧
      x.acked.contains 0 = false ∧ ({ x with acked := [0] } : Dest).acked.contains 0 = true ∧
      y.dests.all (fun z => z.kind != 1) = true ∧
      ((oldestPage { y with pages := [(0, { pg with completeAt := none })] }).bind
        (fun p => p.2.completeAt.map (fun _ => p.1))) = none) := by decide +kernel

theorem wit_inbound :
    let s := withQp .ready up
    (getQp s 16383).st = .ready ∧ (0 : BitVec 24) = (getQp s 16383).rq ∧ (1 : BitVec 24) ≠ (getQp s 16383).rq ∧
    psnUpto 1 (getQp s 16383).rq = false ∧ (getQp up 16383).st ≠ .ready ∧
    (let u : State := { s with net := { windows := [(4095, { st := .open, rdmaWrite := true, base := 0x1000, bytes := 64 })] } }
     keyWindow 4095 = 4095 ∧
     rangeWindow ((getWindow u (keyWindow 4095)).base + (63 : W64).toNat) ([7] : List Byte).length = true ∧
     roceWaits (putQp u 16383 { getQp u 16383 with rq := 1 }) 16383 (.write 4095 0x1000 63 [7] none) = false) ∧
    (let y : Qp := { getQp s 16383 with par := (List.replicate 96 (0 : Byte)).set 3 4 }
     let u : State := { s with net := { windows := [(4095, { st := .open, rdmaWrite := true, base := 0x1000, bytes := 64 })] } }
     keyRefuses u y 4095 .rdmaWrite 64 = false ∧ keyRefuses u y 4095 .rdmaWrite 65 = true ∧
      keyRefuses u y 4095 .rdmaRead 64 = true) ∧
    roceWaits { s with net := { inbound := [.roce 16383 0 .invalid] } } 16383 (.write 4095 0x1000 63 [7] none) = true := by decide +kernel

theorem wit_replies :
    let s : State := { linked with rcd := { portMode := List.replicate 12 1, pfc := List.replicate 12 (some 7), macs := List.replicate 24 9 } }
    let f : Frame := { roceForm := true, bytes := 4224, fcsOk := true, icrcOk := true, half := 0, dmac := 9, ce := false, qpn := 0x7FFF, fec := ⟨0, 0⟩ }
    let y : Qp := { st := .ready, unacked := [{ psn := 0, kind := .read 0 0 1, owner := .none }] }
    let u : State := { s with qps := [(16383, y)] }
    isEth s 11 = true ∧ portUp s 11 = true ∧ (frameKept s 11 { f with fcsOk := false } && bufferRoom s 11 f.bytes) = false ∧ (frameKept s 11 f && bufferRoom s 11 f.bytes) = true ∧
    f.ce = false ∧ (frameKept s 11 { f with ce := true } && bufferRoom s 11 f.bytes) = true ∧ 0x4000 ≤ f.qpn.toNat ∧ f.qpn.toNat < 0x8000 ∧
    s.rcd.pfc.getD 11 none = some (BitVec.toNat (7 : BitVec 3)) ∧
    s.rcd.pfc.getD 11 none ≠ some (BitVec.toNat (6 : BitVec 3)) ∧ isEth linked 11 = false ∧ portUp up 11 = false ∧
    (getQp u 16383).st = .ready ∧ (getQp u 16383).unacked ≠ [] ∧ (getQp s 16383).st ≠ .ready ∧ (getQp s 16383).unacked = [] := by
  decide +kernel

/-- A state with bytes of device memory. -/
def stored (s : State) (a : Nat) (b : List Byte) : State := writeMem s a b

/-- A directory whose set 0 holds eight referenced entries. -/
def fullSet (s : State) : State :=
  stored s s.dir.tableBase ((List.range 8).flatMap (fun k =>
    leBytes 16 ((k + 1) * 2 ^ 100) ++ leBytes 8 (2 ^ 56) ++ leBytes 4 0 ++ leBytes 2 1 ++ leBytes 2 0))

/-- A record of hash 0, valid, at location 0. -/
def newEntry : List Byte := leBytes 16 0 ++ leBytes 8 (2 ^ 56) ++ leBytes 8 0

theorem wit_prefixHash :
    let c := cmd 0x0400 3 [(0, 8, 0x2000), (16, 2, 1), (18, 2, 64)]
    let s := stored (held c) 0x2000 (leBytes 8 0x8000 ++ leBytes 8 0x9000 ++ leBytes 8 0 ++ leBytes 8 65)
    let a := c.par 0 8
    let n := c.par 16 2
    let ds := listAt s a 32 n
    runs s 0 (opSel 0x0400) c = true ∧ c.hdr.paramLen = 3 ∧ a % 32 = 0 ∧ 1 ≤ n ∧ n ≤ 4096 ∧
      [64, 128, 256, 512, 1024].contains (c.par 18 2) = true ∧ c.par 20 4 = 0 ∧ rangeRead a (32 * n) = true ∧
      readsClean s c (listReads a 32 n) = true ∧ ds.all promptOk = true ∧ ds.all (promptReach (c.par 18 2)) = true ∧
      readsClean s c ((ds.zipIdx).flatMap (fun d => promptReads (c.par 18 2) d.2 d.1)) = true ∧
      ds.foldl (fun m x => m + fieldLe x 24 4 / c.par 18 2) 0 = 1 := by decide +kernel

theorem wit_prefixLookup :
    let c := cmd 0x0401 2 [(0, 8, 0x2000), (8, 2, 1), (10, 1, 3), (14, 2, 1024)]
    let s := stored (held c) 0x2000 (leBytes 8 0x8000 ++ leBytes 8 0x9000 ++ leBytes 4 1 ++ leBytes 12 0)
    let a := c.par 0 8
    let n := c.par 8 2
    let f := c.par 10 1
    let q : LookArg :=
      { acquire := bitOf f 0, localOnly := bitOf f 1, layerFirst := c.par 12 2, layerCount := c.par 14 2 }
    let ds := listAt s a 32 n
    runs s 0 (opSel 0x0401) c = true ∧ c.hdr.paramLen = 2 ∧ a % 32 = 0 ∧ 1 ≤ n ∧ n ≤ 4096 ∧ f < 4 ∧ c.par 11 1 = 0 ∧
      q.layerFirst < 4096 ∧ 1 ≤ q.layerCount ∧ q.layerCount ≤ 1024 ∧ rangeRead a (32 * n) = true ∧
      readsClean s c (listReads a 32 n) = true ∧
      ds.all (fun x => fieldLe x 8 8 % 16 = 0 && fieldLe x 20 12 = 0) = true ∧
      (lookAll ds.zipIdx (afterReads (dispatchCmd s c) c (listReads a 32 n)) (beginCmd s c) q 0).2.2 = none := by
  decide +kernel

/-- A PREFIX_INSERT of one record. -/
def insertCmd : Cmd := cmd 0x0402 3 [(0, 8, 0x2000), (8, 8, 0x3000), (16, 4, 1), (20, 1, 1)]

theorem wit_prefixInsert :
    let c := insertCmd
    let s := stored (held c) 0x2000 newEntry
    let a := c.par 0 8
    let res := c.par 8 8
    let n := c.par 16 4
    let f := c.par 20 1
    let run := fun s : State =>
      let u := if s.lock.repeatable then dirStep (dispatchCmd s c) else dispatchCmd s c
      let xs := (listAt u a 32 n).map entryOf
      (runs s 0 (opSel 0x0402) c && readsClean s c (listReads a 32 n) && xs.all recordOk,
        (insertRecords xs.zipIdx (afterReads u c (listReads a 32 n)) (beginCmd s c) (f = 1) res 0 0).2.2.2)
    c.hdr.paramLen = 3 ∧ a % 32 = 0 ∧ res % 16 = 0 ∧ 1 ≤ n ∧ n ≤ 65536 ∧ f < 2 ∧
      c.par 21 3 = 0 ∧ rangeRead a (32 * n) = true ∧ rangeOk res (16 * n) = true ∧ run s = (true, none) ∧
      run (fullSet s) = (true, some (.inr 0)) := by decide +kernel

theorem wit_prefixRelease :
    let c := cmd 0x0403 2 [(0, 8, 0x2000), (8, 4, 1), (12, 1, 1)]
    let s := held c
    let a := c.par 0 8
    let n := c.par 8 4
    let m := c.par 12 1
    let ds := listAt s a 24 n
    runs s 0 (opSel 0x0403) c = true ∧ c.hdr.paramLen = 2 ∧ a % 8 = 0 ∧ 1 ≤ n ∧ n ≤ 65536 ∧ m < 2 ∧ c.par 13 3 = 0 ∧
      rangeRead a (24 * n) = true ∧ readsClean s c (listReads a 24 n) = true ∧
      ds.all (fun x => fieldLe x 4 4 = 0) = true ∧
      (releaseRecords ((ds.zipIdx).map (fun x => (fieldLe x.1 0 4, fieldLe x.1 8 16, x.2)))
        (afterReads (dispatchCmd s c) c (listReads a 24 n)) (beginCmd s c) (m = 1) (0, 0, 0)).2.2 = none := by decide +kernel

theorem wit_dirLaid : dirLaid State.reset := by
  have e : State.reset.dir = {} := by decide +kernel
  have d : ∀ k, k < 2 ^ 25 → canon (0x7FFE000000 + k) = some (0x7FFE000000 + k) := fun k h => by
    have hb : ddrBase = 0x4000000000 := rfl
    unfold canon inStride isDdr
    rw [if_neg (by omega), if_neg, if_neg, if_pos] <;> simp only [Bool.and_eq_true, decide_eq_true_eq] <;> omega
  have p : ∀ k, 0x87F600000 ≤ k → k < 0x880000000 → canon k = some (interleave (k - 0x800000000)) := fun k h g => by
    unfold canon; rw [if_neg (by omega), if_pos (by simp only [Bool.and_eq_true, decide_eq_true_eq]; omega)]
  have l : ∀ k, 0x87F600000 ≤ k → k < 0x880000000 → interleave (k - 0x800000000) < 2 ^ 31 := fun k h g => by
    unfold interleave; omega
  unfold dirLaid
  rw [e]
  refine ⟨by decide, by decide, by decide, by decide, by decide, ?_, ?_, ?_⟩
  · intro i j hi hj h
    simp only [] at hi hj h
    rw [d _ (by omega), p _ (by omega) (by omega)] at h
    have h := Option.some.inj h
    have := l (0x87FE00000 + j) (by omega) (by omega)
    omega
  · intro i j hi hj h
    simp only [] at hi hj h
    rw [d _ (by omega), p _ (by omega) (by omega)] at h
    have h := Option.some.inj h
    have := l (0x87F600000 + j) (by omega) (by omega)
    omega
  · intro i j hi hj h
    simp only [] at hi hj h
    rw [p _ (by omega) (by omega), p _ (by omega) (by omega)] at h
    have := interleave_inj (by omega) (by omega) (Option.some.inj h)
    omega

/-- Probes that hit and that miss for each reason, insertions of each outcome, releases that act and that do not. -/
theorem wit_directory :
    let q : LookArg := { acquire := true, localOnly := true, layerFirst := 0, layerCount := 1 }
    let one := fun ref loc : Nat => stored up up.dir.tableBase (leBytes 16 0 ++ leBytes 8 loc ++ leBytes 4 0 ++ leBytes 2 ref ++ leBytes 2 0)
    probe (one 65534 (2 ^ 56)) q 0 = .hit 0 { hash := 0, loc := 2 ^ 56, span := 0, ref := 65534, age := 0 } ∧
    probe up q 0 = .miss 1 ∧ probe (one 0 (2 ^ 56 + 2 ^ 57)) q 0 = .miss 2 ∧ probe (one 65535 (2 ^ 56)) q 0 = .miss 3 ∧
    ((insertStep (one 65535 (2 ^ 56)) true true (entryOf newEntry)).map (fun r => (r.2.1, r.2.2.1))) = some (2, 0) ∧
    ((insertStep up true true (entryOf newEntry)).map (fun r => (r.2.1, r.2.2.1))) = some (0, 0) ∧
    insertStep (fullSet up) true true (entryOf newEntry) = none ∧
    (let s := stored (fullSet up) (up.dir.tableBase + 28) (leBytes 2 0)
     ((insertStep s true true (entryOf newEntry)).map (fun r => (r.2.1, r.2.2.1))) = some (1, 0)) ∧
    2 ^ up.dir.log2e ≤ 2 ^ 20 ∧ 2 ^ 20 - 1 < 2 ^ up.dir.log2e ∧
    (dirAt (hotRead (one 1 (2 ^ 56)) true 0) 0).valid = true ∧ (dirAt (hotRead (one 1 (2 ^ 56)) true 0) 0).hash = 0 ∧
    0 < (dirAt (hotRead (one 1 (2 ^ 56)) true 0) 0).ref ∧ (dirAt (hotRead (one 0 (2 ^ 56)) true 0) 0).ref = 0 ∧
    (dirAt (hotRead up true 0) 0).valid = false ∧ rangeOk (0x3000 + 16 * 5) 16 = true := by decide +kernel

/-- A lookup of one prompt: a hash that matches, and one that ends it. -/
theorem wit_lookup :
    let c := cmd 0x0401 2 []
    let q : LookArg := { acquire := false, localOnly := false, layerFirst := 0, layerCount := 1 }
    let s := stored (stored (held c) 0x8000 (List.replicate 16 0 ++ List.replicate 16 1)) State.reset.dir.tableBase newEntry
    let b := leBytes 8 0x8000 ++ leBytes 8 0x9000 ++ leBytes 4 2 ++ leBytes 12 0
    (match lookStep s c q 0 0x8000 with | .more _ _ => true | .ends _ _ _ => false) = true ∧
    (match lookStep s c q 0 0x8010 with | .more _ _ => false | .ends _ k w => k == 1 && w.isNone) = true ∧
    (lookPrompt s c q 0 b).2.1 = 1 ∧ (lookPrompt s c q 0 b).2.2 = none ∧
    (insertRecords [(entryOf newEntry, 5)] s c true 0x3000 0 0).2.2.2 = none := by decide +kernel

theorem wit_security :
    (let c := cmd 0x0500 6 [(32, 8, 0x8000)]
     let s := held c
     runs s 0 (opSel 0x0500) c = true ∧ c.hdr.paramLen = 6 ∧ c.par 32 8 % 64 = 0 ∧ c.par 40 8 = 0 ∧
      rangeOk (c.par 32 8) 5968 = true ∧ s.sec.debugDigest.length = 64 ∧ secBusy (dispatchCmd s c) = false ∧
      (let b : State := { s with cmds := s.cmds ++ [{ cmd 0 0 [] with id := 1, inlet := 1, work := .fwStage [] true }] }
       runs b 0 (opSel 0x0500) c = true ∧ secBusy (dispatchCmd b c) = true)) ∧
    (let c := cmd 0x0501 2 [(0, 8, 0x8000), (8, 4, 2 ^ 20)]
     let s := held c
     runs s 0 (opSel 0x0501) c = true ∧ c.hdr.paramLen = 2 ∧ c.par 0 8 % 64 = 0 ∧ c.par 8 4 ≤ 2 ^ 20 ∧ c.par 12 4 = 0 ∧
      rangeRead (c.par 0 8) (c.par 8 4) = true ∧ readsClean s c [(0, c.par 0 8, c.par 8 4)] = true) ∧
    (let s := busy (.unlockWait [])
     imageWriting s = false ∧ s.sec.mbxWait.head? = none ∧ (secFirst s).map (·.id) = some 0 ∧
      (let m : MbxWait := { relay := true, op := 3, req := [], before := 1 }
       let u : State := { s with sec := { mbxWait := [m] } }
       imageWriting u = false ∧ u.sec.mbxWait = [m] ∧ ((secFirst u).map (fun k => decide (k.order < m.before))) = some true ∧
        ((secFirst { u with sec := { mbxWait := [{ m with before := 0 }] } }).map (fun k => decide (0 ≤ k.order))) = some true) ∧
      imageWriting (busy (.fwStage [1] true)) = true) ∧
    (let s : State := { busy (.fwStage [1] true) with warden := { fwState := .writing } }
     s.cmds.findSome? (fun k => match k.work with | .fwStage x true => some (k.id, x) | _ => none) = some (0, [1]) ∧
      s.warden.fwState = .writing) ∧
    (let c := cmd 0x0502 0 []
     let s : State := { held c with warden := { fwState := .staged } }
     runs s 0 (opSel 0x0502) c = true ∧ c.hdr.paramLen = 0 ∧ s.warden.fwState = .staged) ∧
    (let c := cmd 0x0504 2 [(0, 8, 0x8000)]
     let s := held c
     runs s 0 (opSel 0x0504) c = true ∧ c.hdr.paramLen = 2 ∧ c.par 8 8 = 0 ∧
      rangeRead (c.par 0 8) (recordBytes s) = true ∧ readsClean s c [(0, c.par 0 8, recordBytes s)] = true ∧
      (let v := afterReads (dispatchCmd s c) c [(0, c.par 0 8, recordBytes s)]
       secBusy { v with sec := { v.sec with challenge := none } } = false ∧
        readsClean { s with mem := { bad := [0x8000] } } c [(0, c.par 0 8, recordBytes s)] = false) ∧
      (let b : State := { s with cmds := s.cmds ++ [{ cmd 0 0 [] with id := 1, inlet := 1, work := .fwStage [] true }] }
       let v := afterReads (dispatchCmd b c) c [(0, c.par 0 8, recordBytes b)]
       runs b 0 (opSel 0x0504) c = true ∧ readsClean b c [(0, c.par 0 8, recordBytes b)] = true ∧
        secBusy { v with sec := { v.sec with challenge := none } } = true)) := by decide +kernel

/-- The power state of core 15. -/
def powered (x : CorePower) : State := { up with power := [(15, x)] }

theorem wit_pumping :
    pumps up = true ∧ up.lock.repeatable = false ∧ (getPower (powered { raising := some 17 }) 15).raising = some 17 ∧
    pumps (powered { raising := some 17 }) = true ∧ (getPower up 15).raising = none ∧
    topM (powered { raising := some 17, mMax := 16 }) 15 < 17 ∧ 17 ≤ topM (powered { raising := some 17, mMax := 17 }) 15 ∧
    -6 ≤ (getPower (powered { trim := -6 }) 15).trim ∧ (getPower (powered { trim := 6 }) 15).trim ≤ 6 ∧
    (getPower up 15).stretched = false ∧ (getPower up 15).droops.toNat < 2 ^ 32 - 1 ∧
    (getPower (powered { stretched := true }) 15).stretched = true ∧ pumps State.reset = false := by decide +kernel

theorem wit_brake :
    let low : State := { up with dev := { up.dev with state := .lowPower } }
    let d : SensorData := { logic := List.replicate 64 879, sram := List.replicate 64 0, vin := 0, pin := 0 }
    let e : SensorData := { logic := List.replicate 64 880, sram := List.replicate 64 0, vin := 0, pin := 0 }
    up.pins.brake = false ∧ pumps up = true ∧ low.dev.state = .lowPower ∧ low.pins.brake = false ∧
    ({ brake := true } : Pins).brake = true ∧ pumps State.reset = false ∧ State.reset.dev.state ≠ .lowPower ∧
    up.pins.powered = true ∧ up.dev.state ≠ .booting ∧ (hottest (d.logic ++ d.sram)).1 < 880 ∧
    880 ≤ (hottest (e.logic ++ e.sram)).1 ∧ State.reset.dev.state = .booting ∧
    ({ powered := false } : Pins).powered = false := by decide +kernel

theorem wit_resets :
    let off : State := { State.reset with pins := { vin := false, powered := false } }
    up.dev.state = .ready ∧ State.reset.dev.state = .booting ∧ up.pins.powered = true ∧ hostUp up = true ∧
    off.pins.powered = false ∧ off.pins.vin = false ∧ off.warden.tripped = false ∧ up.pins.vin = true ∧
    (let p : Pins := { modReset := true, powered := false }
     p.modReset = true ∧ p.vin = true ∧ p.powered = false) ∧ up.pins.modReset = false ∧
    (let s := held (cmd 0 0 [])
     s.dev.state = .active ∧ (getInlet s 0).state = .open ∧ cmd 0 0 [] ∈ s.cmds ∧ (cmd 0 0 []).ending = none ∧
      findCmd s (cmd 0 0 []).id = some (cmd 0 0 [])) ∧
    ({ up with dev := { up.dev with state := .lowPower } } : State).dev.state = .lowPower ∧ (15 : Nat) < 16 ∧
    (deviceReset off).rcd.autoPower = true ∧
    (deviceReset { off with rcd := { off.rcd with autoPower := false } }).rcd.autoPower = false ∧
    (powerOff (tripChip up)).warden.tripped = true := by decide +kernel

theorem wit_boot :
    let idle : State := { up with dev := { up.dev with lowPowerEn := true } }
    let waking : State := { up with dev := { up.dev with state := .lowPower, wakeFrom := some 0 } }
    let late : State := { State.reset with dev := { firmware := true }, warden := { trial := true } }
    let ready : State := { State.reset with dev := { firmware := true } }
    let r : BootResult := { ddrTrained := true, polderOk := true, coresOk := 0x7FFF }
    let due : State := { State.reset with pins := { powered := false }, warden := { fallbackDue := true } }
    idle.dev.state = .ready ∧ idle.dev.lowPowerEn = true ∧ idle.lock.repeatable = false ∧ up.dev.lowPowerEn = false ∧
    waking.dev.state = .lowPower ∧ waking.dev.wakeFrom ≠ none ∧ up.dev.state ≠ .lowPower ∧
    (State.reset.pins.powered = true ∧ State.reset.pins.modReset = false ∧ State.reset.dev.state = .booting ∧
      State.reset.dev.bootFrom = none) ∧
    (State.reset.warden.fwState ≠ .pending ∧ State.reset.warden.fallbackNext = false ∧ State.reset.warden.trial = false ∧
      slotValid State.reset.warden (!State.reset.warden.activeSlot) = false) ∧
    (ready.dev.state = .booting ∧ ready.dev.firmware = true ∧ r.ddrTrained = true ∧ r.polderOk = true ∧ r.coresOk ≠ 0 ∧
      ready.warden.trial = false ∧ ready.pins.brake = false) ∧
    (late.dev.firmware = true ∧ late.clk.ticks ≤ trialLimit late ∧ late.pins.brake = false ∧
      trialLimit late < ({ late with clk := { ticks := us 3000000 + 1 } } : State).clk.ticks) ∧
    ({ fwState := .pending } : Warden).fwState = .pending ∧ ({ r with coresOk := 0 } : BootResult).coresOk = 0 ∧
    up.dev.state ≠ .booting ∧ (late.warden.trial = true ∧ late.dev.state = .booting) ∧
    State.reset.warden.trial = false ∧
    (due.warden.fallbackDue = true ∧ due.pins.vin = true ∧ due.pins.powered = false) ∧
    State.reset.warden.fallbackDue = false := by decide +kernel

/-- An owner's request with a key. -/
def owned : OwnerReq :=
  { key := List.replicate 1952 1, imageSig := List.replicate 3309 2, ownerSig := List.replicate 3309 3 }

theorem wit_warden :
    let s : State := { up with warden := { ownerKey := some [1], challenge := [9] } }
    up.pins.vin = true ∧ (500 ≤ (1650 : W16).toNat ∧ (500 : W16).toNat ≤ (1650 : W16).toNat ∧ (1650 : W16).toNat ≤ 1650) ∧
    ¬ (1651 : W16).toNat ≤ 1650 ∧ up.pins.powered = true ∧ ({ powered := false } : Pins).powered = false ∧
    (2 ^ 25 - 64) + 64 ≤ 2 ^ 25 ∧ ¬ (2 ^ 25 - 63) + 64 ≤ 2 ^ 25 ∧ up.dev.state = .ready ∧
    (mailboxDo up (mbxCode .configRead) [1]).isSome = true ∧ secBusy up = false ∧
    (let b : State := { busy (.fwStage [] true) with sec := {} }
     b.dev.state = .active ∧ secBusy b = true ∧ (mailboxDo b (mbxCode .configRead) [1]).isSome = true) ∧ mailboxDo up (mbxCode .configRead) [2] = none ∧
    State.reset.dev.state = .booting ∧ owned.key.length = 1952 ∧ owned.imageSig.length = 3309 ∧
    owned.ownerSig.length = 3309 ∧ up.warden.ownerKey = none ∧ s.warden.ownerKey = some [1] ∧ s.warden.ownerKey ≠ none ∧
    s.warden.challenge ≠ [] ∧ ({ owned with key := [] } : OwnerReq).key = [] ∧ ([4] : List Byte).length ≤ 16384 ∧
    s.pins.vin = true ∧ ({ vin := false } : Pins).vin = false := by decide +kernel
/-! Well-formed operands: one ill-formed term for each check, and a term that passes. -/

theorem test_wf_accesses :
    Instr.wf (.doorbell 0 2 0) = false ∧ Instr.wf (.registerWrite 4 true 0) = false ∧
    Instr.wf (.registerWrite 2 false 0) = false ∧ Instr.wf (.registerWrite 4 false 0) = true ∧
    Instr.wf (.apertureWrite 0 []) = false ∧ Instr.wf (.apertureWrite 0 (List.replicate 4097 0)) = false ∧
    Instr.wf (.apertureWrite (BitVec.ofNat 30 (2 ^ 30 - 1)) [1, 2]) = false ∧ Instr.wf (.apertureRead 0 0) = false ∧
    Instr.wf (.apertureRead 0 4097) = false ∧ Instr.wf (.apertureRead (BitVec.ofNat 30 (2 ^ 30 - 1)) 2) = false ∧
    Instr.wf (.mbxAttest (List.replicate 31 0)) = false ∧ Instr.wf (.commandFetch 0 (List.replicate 511 0)) = false ∧
    Instr.wf (.commandFetch 0 (List.replicate 512 0)) = true := by decide +kernel

/-- The rows that take a packet, each with its kind (Table 11.3). -/
def packetRows : List ((Packet → Instr) × BitVec 8) :=
  [(.writeReceive 0, 0x01), (.writeSignalReceive 0, 0x02), (.mcastWriteReceive 0, 0x03), (.reduceDataReceive 0, 0x04),
   (.ackReceive 0, 0x10), (.refuseReceive 0, 0x11), (.breachNoticeReceive 0, 0x12), (.flowResetReceive 0, 0x13),
   (.rtsReceive 0, 0x14), (.ctsReceive 0, 0x15), (.collCreditReceive 0, 0x16), (.collAbortReceive 0, 0x17),
   (.arriveReceive 0, 0x20), (.releaseReceive 0, 0x21)]

theorem test_wf_packets :
    packetRows.all (fun r => (r.1 (pkt r.2)).wf && !(r.1 (pkt (r.2 ^^^ 0x40))).wf &&
      !(r.1 { pkt r.2 with payload := List.replicate 4097 0 }).wf) = true ∧
    Instr.wf (.packetForward 0 (pkt 0x05)) = false ∧
    Instr.wf (.writeReceive 0 { pkt 0x01 with rows := 3 }) = false := by decide +kernel

theorem test_wf_lengths :
    Instr.wf (.rdmaWriteReceive 0 0 0 0 (List.replicate 4097 0)) = false ∧
    Instr.wf (.writeImmediateReceive 0 0 0 0 (List.replicate 4097 0) 0) = false ∧
    Instr.wf (.rdmaReadReceive 0 0 0 0 (2 ^ 31 + 1)) = false ∧
    Instr.wf (.readResponseReceive 0 (List.replicate 4097 0)) = false ∧
    Instr.wf (.sensorRead { logic := List.replicate 63 0, sram := List.replicate 64 0, vin := 0, pin := 0 }) = false ∧
    Instr.wf (.sensorRead { logic := List.replicate 64 0, sram := [], vin := 0, pin := 0 }) = false ∧
    Instr.wf (.slowLoop { aged := List.replicate 17 0 }) = false ∧
    (let e : IntervalEst := { act := List.replicate 16 [], chip := [], issued := [], traffic := [] }
     Instr.wf (.estimateInterval e) = true ∧ Instr.wf (.estimateInterval { e with act := [] }) = false) ∧
    Instr.wf (.flitRx 0 ⟨List.replicate 255 0, ⟨0, 0⟩⟩) = false ∧
    (let a : AgeingData :=
      { coreMargin := List.replicate 16 0, coreMonths := List.replicate 16 0, portMonths := List.replicate 12 0, ddrMonths := 0 }
     Instr.wf (.ageingMonitor a) = true ∧ Instr.wf (.ageingMonitor { a with coreMargin := [] }) = false ∧
     Instr.wf (.ageingMonitor { a with coreMonths := [] }) = false ∧
     Instr.wf (.ageingMonitor { a with portMonths := [] }) = false) ∧
    Instr.wf (.mailbox .attest (List.replicate 16385 0)) = false ∧
    Instr.wf (.configWrite (List.replicate 16385 0) []) = false := by decide +kernel

/-! The manual's worked examples. -/

/-- An event counter 0x0100 at a value. -/
def counted (v : W32) : State := { up with events := [(0x0100, v)] }

/-- "A counter that wraps" (chapter 02): targets 0xFFFA and 4. -/
theorem test_counter_wraps :
    waitMet (counted 0x0003FFF0) 0x0100 0xFFFA = false ∧ waitMet (counted 0x0003FFFA) 0x0100 0xFFFA = true ∧
    waitMet (counted 0x0003FFFA) 0x0100 4 = false ∧ waitMet (counted 0x00040004) 0x0100 4 = true := by decide +kernel

/-- "Residual before and after rounding" (chapter 04): 3 + 2^-7 and 2^-7; BF16 3.0 is 0x4040 and 3.015625 is 0x4041. -/
theorem test_residual_rounding :
    cvtTo 0x01 none 0x40408000 = 0x4040 ∧ add32 0x40400000 0x3C000000 = 0x40408000 ∧
    add32 0x40408000 0x3C000000 = 0x40410000 ∧ cvtTo 0x01 none 0x40410000 = 0x4041 := by decide +kernel

/-- "One value, two roundings" (chapter 07): exp(-1) in E4M3 is 0.375, 1 + 0.375 is 1.375, and BF16 of 0.2689414 is
0.26953125. -/
theorem test_two_roundings :
    cvtTo 0x03 none 0x3EBC5AB2 = 0x2C ∧ add32 0x3F800000 0x3EC00000 = 0x3FB00000 ∧
    cvtTo 0x01 none 0x3E89B2AB = 0x3E8A := by decide +kernel

/-- The products of Table 5.6 (chapter 05), 4,096 tokens in FP8 and S1, with 56 units of accumulator. -/
def tableProd (n k : Nat) (nk : Bool) : Prod :=
  Prod.cut { xFmt := 3, wFmt := 3, nTile := 4, nk := nk, m := 4096, n := n, k := k } 128 (56 * 65536)

theorem test_projections :
    (tableProd 10240 7680 false).range = 6144 ∧ (tableProd 10240 7680 false).strips = 2 ∧
    prodTiles false (tableProd 10240 7680 false) = 32 ∧ prodSlices false (tableProd 10240 7680 false) = 15 ∧
    prodRanges (tableProd 53760 7680 true) = 27 ∧ prodRanges (tableProd 7680 26880 true) = 4 ∧
    prodSlices false (tableProd 7680 26880 true) = 53 := by decide +kernel

/-- Chapter 06: with 3 units both products run with a tile of 256; with 60 units and N_TILE 512, N is one strip of 7,680. -/
theorem test_strips :
    (Prod.cut { nTile := 4, n := 53760 } 128 (3 * 65536)).effTile = 256 ∧
    (Prod.cut { nTile := 2, n := 7680 } 128 (60 * 65536)).strips = 1 ∧
    (Prod.cut { nTile := 4, n := 7680 } 128 (60 * 65536)).range = 6144 := by decide +kernel

/-- "Lowering the sustained cap" (chapter 13): SUSTAINED_W 500, every core at m = 8, 252.5 W in all, beside 360 W. The fast
limiter lowers duties, a core at a time (R336), until the projection is under the cap: none stays above 4/8 or sinks under
the example's 3/8, and CAP_UNREACHABLE stays clear (log entry 130). -/
theorem test_duty_of_a_lower_cap :
    let s : State :=
      { on with
        power := (List.range 16).map (fun c => (c, { m := 8, full := if c < 3 then 157 else 158 }))
        pump := { on.pump with capSustained := 500, chip := 3600, loss := 54 } }
    let t := floorTest (fastLimiter s)
    (List.range 16).all (fun c => (getPower t c).capDuty = 3 || (getPower t c).capDuty = 4) = true ∧
      projection t ≤ 5000 ∧ t.pump.unreachable = false := by decide +kernel

/-- The published answers of SHAKE256 on the empty message (FIPS 202) and of Philox4x32-10 on zeros (R106). -/
theorem test_shake : (shake256 [] 8) = [0x46, 0xb9, 0xdd, 0x2b, 0x0b, 0xa8, 0x8d, 0x13] := by decide +kernel
theorem test_philox : rnd16 0 0 0 = 0xe8d5 := by decide +kernel

/-! One step of small states. -/

/-- Constants of GLOBAL as a host reads them, and a block without a register there (R8, R48). -/
theorem test_register_reads :
    readBar up 0x0 false = some 0x64201F3C ∧ readBar up 0x8 false = some 0x10 ∧ readBar up 0x30 false = some 0 ∧
    readBar State.reset 0x0 false = none := by decide +kernel

/-- A vector whose table entry is masked stays pending, and is sent once it is not (R52). -/
theorem test_masked_vector :
    let s := sendVector up 5
    s.msix = [] ∧ vectorPending s.irq 5 = true ∧
    (sendVector { up with irq := { up.irq with table := [(92, 0)] } } 5).msix = [5] := by decide +kernel

/-- R27: commands are taken first in, first out; the step leaves the rest in the queue. -/
theorem test_step_takes_the_front :
    (match step { up with pending := [.quiesceWrite true, .wake] } with
      | .next t => t.dev.quiesce && t.pending == [.wake]
      | _ => false) = true := by decide +kernel

/-- NOP with an outfall of 16 entries at 0x1000 and its write-back at 0x800 ends OK: an entry, the tail and its write-back
(R32, R37). -/
theorem test_nop_writes_an_entry :
    let s : State := { held (cmd 0x0001 0 []) with outfalls := [(0, { base := 0x1000, wb := 0x800, reserved := 1 })] }
    let t := after (exec (.nop 0) s) s
    runsOn (.nop 0) s = true ∧ t.cmds = [] ∧ (getOutfall t 0).tail = 1 ∧ tabGet t.host 0 0x800 = 1 ∧
      (getInlet t 0).state = .open := by decide +kernel

/-- EVENT_SIGNAL adds to a counter; mode 1 sets it (R37). -/
theorem test_signal_entries :
    let s := { held (cmd 0x0002 2 [(0, 2, 9), (4, 4, 5), (8, 2, 65535), (10, 1, 1), (12, 4, 7)]) with events := [(9, 4)] }
    let t := after (exec (.eventSignal 0) s) s
    eventVal t 9 = 9 ∧ eventVal t 65535 = 7 := by decide +kernel

/-- A doorbell of a closed inlet changes no register but IGNORED and its count (R21). -/
theorem test_doorbell_ignored :
    let t := after (exec (.doorbell 63 0 1) up) up
    (getInlet t 63).ignored = true ∧ (getInlet t 63).ignoredCount = 1 ∧ (getInlet t 63).tail = 0 := by decide +kernel

/-- What the aperture writes it reads, with no poison (R54). -/
theorem test_aperture_reads_back :
    let t := after (exec (.apertureWrite 0x2000 [1, 2, 3]) up) up
    (after (exec (.apertureRead 0x2000 3) t) t).ap.read = { data := [1, 2, 3], poisoned := false } := by decide +kernel

/-- A 16-byte chain of ones arrives at its destination, and its ARM ends (R213). -/
theorem test_segment_moves :
    let c := armChain (cmd 0x0102 9 ((0, 2, 159) :: linear 16))
    let s := stored (moving c) 0x1000 (List.replicate 16 1)
    let t := after (exec (.segmentComplete 159) s) s
    readMem t 0x20000 17 = List.replicate 16 1 ++ [0] ∧ t.cmds = [] := by decide +kernel

/-- A write of two bytes in a window lands at its base plus the offset (R287). -/
theorem test_write_lands :
    let s : State := { linked with net := { windows := [(4095, { st := .open, gen := 1, thl := true, base := 0x1000, bytes := 4096 })] } }
    let t := after (exec (.writeReceive 11 (pkt 0x01)) s) s
    readMem t 0x1000 3 = [5, 6, 0] := by decide +kernel

/-- A trip leaves the chip in STANDBY (R346); SET_CAPS takes caps of 1,650 and 1,400 W (R395). -/
theorem test_trip_and_caps :
    (after (exec .thermalTrip up) up).dev.state = .standby ∧ (after (exec (.setCaps 1650 1400) up) up).pump.wardenSustained = 1400 := by
  decide +kernel

end Sys2Proof.Tests
end

section
/-!
SUPPORT. Every row of the table but COMMAND_FETCH leaves the queue alone, keeps device memory canonical and adds no command
in flight: the shared operations' lemmas, put together along each row's definition.
-/
namespace Sys2Proof.Machine

variable {r : State}

theorem Keeps.ite {p : Prop} [Decidable p] {s t : State} (hs : Keeps r s) (ht : Keeps r t) : Keeps r (if p then s else t) := by
  split
  · exact hs
  · exact ht

/-- A change made only where a condition holds. -/
theorem Keeps.when {p : Prop} [Decidable p] {s : State} (f : State → State) (hf : ∀ s, Keeps r s → Keeps r (f s))
    (h : Keeps r s) : Keeps r (if p then f s else s) := .ite (hf s h) h

/-- A change made only where a condition fails. -/
theorem Keeps.unless {p : Prop} [Decidable p] {s : State} (f : State → State) (hf : ∀ s, Keeps r s → Keeps r (f s))
    (h : Keeps r s) : Keeps r (if p then s else f s) := .ite h (hf s h)

theorem KeepsOut.ite {p : Prop} [Decidable p] {o q : Out} (ho : KeepsOut r o) (hq : KeepsOut r q) :
    KeepsOut r (if p then o else q) := by
  split
  · exact ho
  · exact hq

/-- A command that begins work on a state that keeps these. -/
theorem startWork_next_keeps {s : State} (c : Cmd) (w : Work) (h : Keeps r s) : KeepsOut r (.next (startWork s c w)) :=
  keepsOut_next (startWork_keeps c w h)

/-- A command that is rejected. -/
theorem reject_next_keeps {s : State} (id : CmdId) (scope code index : Nat) (h : Keeps r s) :
    KeepsOut r (.next (reject s id scope code index)) := keepsOut_next (reject_keeps id scope code index h)

/-! ## Host accesses -/

theorem execDoorbell_keeps {i : Fin 64} {off : BitVec 12} {v : W32} : KeepsOut r (execDoorbell i off v r) :=
  host_keeps _ (fun _ h => .ite (ring_keeps _ _ h) (keepsOut_next h)) .rfl

theorem execEnableWrite_keeps {i : Fin 64} {v : W32} : KeepsOut r (execEnableWrite i v r) :=
  host_keeps _ (fun _ h => keepsOut_next (inletCtl_keeps _ _ h)) .rfl

theorem execResume_keeps {i : Fin 64} : KeepsOut r (execResume i r) :=
  host_keeps _ (fun _ h => keepsOut_next (resumeInlet_keeps _ h)) .rfl

theorem execQuiesceWrite_keeps {q : Bool} : KeepsOut r (execQuiesceWrite q r) :=
  host_keeps _ (fun _ h => keepsOut_next (writeQuiesce_keeps _ h)) .rfl

theorem execWake_keeps : KeepsOut r (execWake r) :=
  host_keeps _ (fun _ h => keepsOut_next (wakeTrigger_keeps h)) .rfl

theorem execW1cClear_keeps {f : FlagReg} {mask coincident : W32} : KeepsOut r (execW1cClear f mask coincident r) :=
  host_keeps _ (fun _ h => keepsOut_next (clearWithSets_keeps _ _ _ h)) .rfl

theorem execEventCounterWrite_keeps {n : W16} {v inc : W32} : KeepsOut r (execEventCounterWrite n v inc r) :=
  host_keeps _ (fun _ h => keepsOut_next (setEvent_keeps _ _ h)) .rfl

theorem execRegisterWrite_keeps {addr : BitVec 20} {wide : Bool} {v : W64} : KeepsOut r (execRegisterWrite addr wide v r) :=
  host_keeps _ (fun _ h => writeBar_keeps _ _ _ h) .rfl

theorem execApertureWrite_keeps {off : BitVec 30} {data : List Byte} : KeepsOut r (execApertureWrite off data r) :=
  host_keeps _ (fun _ h => apWrite_keeps _ _ h) .rfl

theorem execApertureRead_keeps {off : BitVec 30} {n : Nat} : KeepsOut r (execApertureRead off n r) :=
  host_keeps _ (fun _ h => apRead_keeps _ _ h) .rfl

theorem execGroupConfigure_keeps {g : Fin 256} : KeepsOut r (execGroupConfigure g r) :=
  host_keeps _ (fun _ h => groupCmd_keeps _ _ h) .rfl

theorem execGroupRemove_keeps {g : Fin 256} : KeepsOut r (execGroupRemove g r) :=
  host_keeps _ (fun _ h => groupCmd_keeps _ _ h) .rfl

theorem execRetrain_keeps {p : Fin 12} : KeepsOut r (execRetrain p r) :=
  host_keeps _ (fun _ h => keepsOut_next (retrainPort_keeps _ h)) .rfl

theorem execPortDisable_keeps {p : Fin 12} {v : Bool} : KeepsOut r (execPortDisable p v r) :=
  host_keeps _ (fun _ h => keepsOut_next (disablePort_keeps _ _ h)) .rfl

theorem execJobEnergyClearSlot_keeps {slot : BitVec 12} : KeepsOut r (execJobEnergyClearSlot slot r) :=
  host_keeps _ (fun _ h => keepsOut_next (clearSlot_keeps _ h)) .rfl

theorem execJobEnergyClearAll_keeps : KeepsOut r (execJobEnergyClearAll r) :=
  host_keeps _ (fun _ h => keepsOut_next (clearJobs_keeps h)) .rfl

theorem execCoreReset_keeps {c : Fin 16} : KeepsOut r (execCoreReset c r) :=
  host_keeps _ (fun _ h => keepsOut_next (coreResetWrite_keeps _ h)) .rfl

theorem execCoreResetDone_keeps {c : Fin 16} : KeepsOut r (execCoreResetDone c r) := ok_keeps (endReset_keeps _ .rfl)

/-! ## The command processor and the control commands -/

theorem execCoalesceTimer_keeps {i : Fin 64} : KeepsOut r (execCoalesceTimer i r) := by
  unfold execCoalesceTimer
  dsimp only
  split
  · exact .ite (keepsOut_next .rfl) (ok_keeps (raiseVector_keeps _ (advanceTo_keeps _ .rfl)))
  · exact keepsOut_next .rfl

theorem execNop_keeps {i : Fin 64} : KeepsOut r (execNop i r) :=
  issue_keeps _ _ _ (fun _ c h => checked_keeps c _ _ _ (keepsOut_next h)) .rfl

theorem execEventSignal_keeps {i : Fin 64} : KeepsOut r (execEventSignal i r) :=
  issue_keeps _ _ _ (fun _ c h => checked_keeps c _ _ _
    (keepsOut_next (foldl_keeps (fun _ e h => applySignal_keeps e h) h))) .rfl

theorem execEventWait_keeps {i : Fin 64} : KeepsOut r (execEventWait i r) :=
  issue_keeps _ _ _ (fun _ c h => checked_keeps c _ _ _ (startWork_next_keeps c _ h)) .rfl

theorem execFence_keeps {i : Fin 64} : KeepsOut r (execFence i r) :=
  issue_keeps _ _ _ (fun _ c h => checked_keeps c _ _ _ (startWork_next_keeps c _ h)) .rfl

theorem execQuery_keeps {i : Fin 64} : KeepsOut r (execQuery i r) := by
  refine issue_keeps _ _ _ (fun s c h => ?_) .rfl
  split
  · exact checked_keeps c _ _ _ (doneWith_keeps c _ h)
  · exact checked_keeps c _ _ _ (keepsOut_next h)

theorem execDike_keeps {i : Fin 64} : KeepsOut r (execDike i r) :=
  issue_keeps _ _ _ (fun _ c h => checked_keeps c _ _ _ (withGroup_keeps c _ _ (checked_keeps c _ _ _
    (startWork_next_keeps c _ (takeSeq_keeps _ h))) h)) .rfl

theorem execTideLaunch_keeps {i : Fin 64} : KeepsOut r (execTideLaunch i r) :=
  issue_keeps _ _ _ (fun _ c h => checked_keeps c _ _ _ (.ite (reject_next_keeps _ _ _ _ h)
    (checked_keeps c _ _ _ (startWork_next_keeps c _ h)))) .rfl

theorem execLaunchFire_keeps {c : CmdId} : KeepsOut r (execLaunchFire c r) := by
  unfold execLaunchFire
  split
  · exact keepsOut_next .rfl
  · split
    · exact ok_keeps (setWork_keeps _ _ (reachCount_keeps _ .rfl))
    · exact keepsOut_next .rfl

theorem execAbort_keeps {i : Fin 64} : KeepsOut r (execAbort i r) :=
  issue_keeps _ _ _ (fun _ c h => checked_keeps c _ _ _ (startWork_next_keeps c _
    (foldl_keeps (fun _ id h => failCmd_keeps id _ h) (abortHalts_keeps _ _ _ h)))) .rfl

theorem execSetMode_keeps {i : Fin 64} : KeepsOut r (execSetMode i r) :=
  issue_keeps _ _ _ (fun _ c h => .ite (reject_next_keeps _ _ _ _ h) (checked_keeps c _ _ _
    (doneWith_keeps c _ (applyMode_keeps _ _ _ _ h)))) .rfl

theorem execSetCap_keeps {i : Fin 64} : KeepsOut r (execSetCap i r) :=
  issue_keeps _ _ _ (fun _ c h => checked_keeps c _ _ _ (startWork_next_keeps c _ (changeCaps_keeps _ h))) .rfl

theorem execSetWeir_keeps {i : Fin 64} : KeepsOut r (execSetWeir i r) :=
  issue_keeps _ _ _ (fun _ c h => .ite (reject_next_keeps _ _ _ _ h) (checked_keeps c _ _ _
    (startWork_next_keeps c _ (weirServe_keeps h)))) .rfl

theorem execCoreOffline_keeps {i : Fin 64} : KeepsOut r (execCoreOffline i r) :=
  issue_keeps _ _ _ (fun _ c h => checked_keeps c _ _ _ (.ite (reject_next_keeps _ _ _ _ h)
    (checked_keeps c _ _ _ (doneWith_keeps c _ (takeOffline_keeps _ _ h))))) .rfl

theorem execCoreOnline_keeps {i : Fin 64} {pass : Bool} : KeepsOut r (execCoreOnline i pass r) :=
  issue_keeps _ _ _ (fun _ c h => checked_keeps c _ _ _ (.ite (reject_next_keeps _ _ _ _ h) (checked_keeps c _ _ _
    (.ite (doneWith_keeps c _ (bringOnline_keeps _ (endReset_keeps _ h)))
      (keepsOut_next (finish_keeps _ _ _ (selfTestFailed_keeps _ (endReset_keeps _ h)))))))) .rfl

/-! ## Copies, sluices, operations at the polders, the weir, LPDDR5X -/

theorem execCopy_keeps {i : Fin 64} : KeepsOut r (execCopy i r) :=
  issue_keeps _ _ _ (fun _ c h => transferCmd_keeps c _ h) .rfl

theorem execGatherRows_keeps {i : Fin 64} : KeepsOut r (execGatherRows i r) :=
  issue_keeps _ _ _ (fun _ c h => transferCmd_keeps c _ h) .rfl

theorem execScatterRows_keeps {i : Fin 64} : KeepsOut r (execScatterRows i r) :=
  issue_keeps _ _ _ (fun _ c h => transferCmd_keeps c _ h) .rfl

theorem execFill_keeps {i : Fin 64} : KeepsOut r (execFill i r) :=
  issue_keeps _ _ _ (fun _ c h => checked_keeps c _ _ _ (startParts_keeps c _ _ _ _ h)) .rfl

theorem execSluiceArm_keeps {i : Fin 64} : KeepsOut r (execSluiceArm i r) := by
  refine issue_keeps _ _ _ (fun s c h => checked_keeps c _ _ _ ?_) .rfl
  cases (getSluice s (c.par 0 2)).st with
  | idle => exact checked_keeps c _ _ _ (fetchNext_keeps _ (startWork_keeps c _ (putSluice_keeps _ _ h)))
  | running | shadowPending | offline => exact reject_next_keeps _ _ _ _ h

theorem execSluiceRearm_keeps {i : Fin 64} : KeepsOut r (execSluiceRearm i r) := by
  refine issue_keeps _ _ _ (fun s c h => checked_keeps c _ _ _ ?_) .rfl
  cases (getSluice s (c.par 0 2)).st with
  | running | shadowPending =>
    exact checked_keeps c _ _ _ (startWork_next_keeps c _ (putSluice_keeps _ _ (replaceShadow_keeps _ _ h)))
  | idle | offline => exact reject_next_keeps _ _ _ _ h

theorem execCompareCount_keeps {i : Fin 64} : KeepsOut r (execCompareCount i r) :=
  issue_keeps _ _ _ (fun _ c h => checked_keeps c _ _ _ (reaches_keeps _ _ _ (reaches_keeps _ _ _
    (readsWell_keeps c _ _ (fun _ h => doneWriting_keeps c _ _ (writeMem_keeps _ _ (ddrTake_keeps _ _ _ _ h))) h)))) .rfl

theorem execCompareSwap_keeps {i : Fin 64} : KeepsOut r (execCompareSwap i r) :=
  issue_keeps _ _ _ (fun _ c h => checked_keeps c _ _ _ (readsWell_keeps c _ _ (fun _ h =>
    .ite (doneWriting_keeps c _ _ (writeLe_keeps _ _ _ h)) (doneWith_keeps c _ h)) h)) .rfl

theorem execSegmentComplete_keeps {n : Fin 160} : KeepsOut r (execSegmentComplete n r) :=
  settled_keeps _ (runSegment_keeps _ .rfl)

theorem execBermDeadlock_keeps {p : StallParty} {slot : Fin 64} : KeepsOut r (execBermDeadlock p slot r) := by
  unfold execBermDeadlock
  split
  · exact ok_keeps (postDeadlock_keeps _ _ _ .rfl)
  · exact keepsOut_next .rfl

theorem execWeirWindow_keeps : KeepsOut r (execWeirWindow r) := ok_keeps (weirBoundary_keeps .rfl)

theorem execUrgentCredit_keeps : KeepsOut r (execUrgentCredit r) := ok_keeps (earnCredit_keeps .rfl)

/-- The clock reaches a channel's schedule, or a moment of the channel's own. -/
theorem scheduled_keeps {p : Prop} [Decidable p] (l : List Nat) {s : State} (h : Keeps r s) :
    KeepsOpt r (if p then toSchedule r l else some s) := by
  split
  · exact toSchedule_keeps l .rfl
  · exact keepsOpt_some h

theorem execDdrRefresh_keeps {ch : Fin 64} : KeepsOut r (execDdrRefresh ch r) := by
  unfold execDdrRefresh
  refine .ite (keepsOut_next .rfl) ?_
  split
  · next t e => exact ok_keeps (putDdr_keeps _ _ (keeps_of_some e (scheduled_keeps _ .rfl)))
  · exact keepsOut_next .rfl

theorem execWck2dqTracking_keeps {ch : Tracking} : KeepsOut r (execWck2dqTracking ch r) := by
  unfold execWck2dqTracking
  refine .ite (keepsOut_next .rfl) ?_
  split
  · next t e => exact ok_keeps (putDdr_keeps _ _ (keeps_of_some e (scheduled_keeps _ (advanceTo_keeps _ .rfl))))
  · exact keepsOut_next .rfl

/-! ## Array commands, passes and epilogues -/

theorem execGemm_keeps {i : Fin 64} : KeepsOut r (execGemm i r) := issue_keeps _ _ _ (fun _ c h => gemmCmd_keeps c _ h) .rfl

theorem execGemmT_keeps {i : Fin 64} : KeepsOut r (execGemmT i r) := issue_keeps _ _ _ (fun _ c h => gemmCmd_keeps c _ h) .rfl

theorem execGemmList_keeps {i : Fin 64} : KeepsOut r (execGemmList i r) :=
  issue_keeps _ _ _ (fun _ c h => namedCores_keeps c _ _ (checked_keeps c _ _ _ (reaches_keeps _ _ _
    (readsWell_keeps c _ _ (fun _ h => checked_keeps c _ _ _
      (readsWell_keeps c _ _ (fun _ h => startGemm_keeps c _ _ h) h)) h))) h) .rfl

theorem execChain_keeps {i : Fin 64} : KeepsOut r (execChain i r) :=
  issue_keeps _ _ _ (fun _ c h => namedCores_keeps c _ _ (checked_keeps c _ _ _ (startPrograms_keeps c _ _ _ _ _ h)) h) .rfl

theorem execVector_keeps {i : Fin 64} : KeepsOut r (execVector i r) :=
  issue_keeps _ _ _ (fun _ c h => namedCores_keeps c _ _ (checked_keeps c _ _ _ (startPrograms_keeps c _ _ _ _ _ h)) h) .rfl

theorem execAttend_keeps {i : Fin 64} : KeepsOut r (execAttend i r) :=
  issue_keeps _ _ _ (fun _ c h => namedCores_keeps c _ _ (checked_keeps c _ _ _ (reaches_keeps _ _ _
    (readsWell_keeps c _ _ (fun _ h => readsWell_keeps c _ _ (fun _ h => checked_keeps c _ _ _
      (keepsOut_next (attendTurn_keeps _ (startArray_keeps c _ _ _ h)))) h) h))) h) .rfl

theorem execWorkRequest_keeps {c : CmdId} {chain : Nat} : KeepsOut r (execWorkRequest c chain r) :=
  settled_keeps _ (requestWork_keeps _ _ .rfl)

theorem execPassStart_keeps {core : Fin 16} {arr : Fin 2} {c : CmdId} : KeepsOut r (execPassStart core arr c r) :=
  .ite (ok_keeps (startPass_keeps _ _ _ .rfl)) (keepsOut_next .rfl)

theorem execStationaryLoad_keeps {core : Fin 16} {arr : Fin 2} {c : CmdId} : KeepsOut r (execStationaryLoad core arr c r) :=
  ok_keeps (loadTile_keeps _ _ _ .rfl)

theorem execBlockCommit_keeps {core : Fin 16} {arr : Fin 2} : KeepsOut r (execBlockCommit core arr r) :=
  ok_keeps (commitBlock_keeps _ _ .rfl)

theorem execEpilogueBlock_keeps {core : Fin 16} : KeepsOut r (execEpilogueBlock core r) :=
  settled_keeps _ (runEpilogue_keeps _ .rfl)

theorem execPreempt_keeps {core : Fin 16} {arr : Fin 2} : KeepsOut r (execPreempt core arr r) :=
  ok_keeps (preemptArray_keeps _ _ .rfl)

theorem execPreemptResume_keeps {core : Fin 16} {arr : Fin 2} : KeepsOut r (execPreemptResume core arr r) :=
  ok_keeps (resumePass_keeps _ _ .rfl)

theorem execRampUp_keeps {core : Fin 16} {arr : Fin 2} : KeepsOut r (execRampUp core arr r) :=
  .ite (keepsOut_next (putArray_keeps _ _ _ .rfl)) (keepsOut_next .rfl)

theorem execRampDown_keeps {core : Fin 16} {arr : Fin 2} : KeepsOut r (execRampDown core arr r) :=
  .ite (keepsOut_next (putArray_keeps _ _ _ .rfl)) (keepsOut_next .rfl)

/-! ## Windows, transfers and collectives -/

theorem execWindowOpen_keeps {i : Fin 64} : KeepsOut r (execWindowOpen i r) :=
  issue_keeps _ _ _ (fun _ c h => checked_keeps c _ _ _ (.ite (reject_next_keeps _ _ _ _ h) (checked_keeps c _ _ _
    (reaches_keeps _ _ _ (doneWith_keeps c _ (putWindow_keeps _ _ h)))))) .rfl

theorem execWindowClose_keeps {i : Fin 64} : KeepsOut r (execWindowClose i r) :=
  issue_keeps _ _ _ (fun _ c h => checked_keeps c _ _ _ (.ite (reject_next_keeps _ _ _ _ h) (checked_keeps c _ _ _
    (startWork_next_keeps c _ (putWindow_keeps _ _ h))))) .rfl

theorem execSend_keeps {i : Fin 64} : KeepsOut r (execSend i r) :=
  issue_keeps _ _ _ (fun _ c h => checked_keeps c _ _ _ (withGroup_keeps c _ _ (checked_keeps c _ _ _
    (reaches_keeps _ _ _ (keepsOut_next (sendStart_keeps c _ h)))) h)) .rfl

theorem execRecv_keeps {i : Fin 64} : KeepsOut r (execRecv i r) :=
  issue_keeps _ _ _ (fun _ c h => checked_keeps c _ _ _ (withGroup_keeps c _ _ (checked_keeps c _ _ _
    (keepsOut_next (recvMatch_keeps _ (startWork_keeps c _ h)))) h)) .rfl

theorem execAllreduce_keeps {i : Fin 64} : KeepsOut r (execAllreduce i r) :=
  issue_keeps _ _ _ (fun _ c h => checked_keeps c _ _ _ (withGroup_keeps c _ _ (checked_keeps c _ _ _
    (reaches_keeps _ _ _ (startWork_next_keeps c _ (takeSeq_keeps _ h)))) h)) .rfl

theorem execAllgather_keeps {i : Fin 64} : KeepsOut r (execAllgather i r) :=
  issue_keeps _ _ _ (fun _ c h => checked_keeps c _ _ _ (withGroup_keeps c _ _ (checked_keeps c _ _ _
    (reaches_keeps _ _ _ (startWork_next_keeps c _ (takeSeq_keeps _ h)))) h)) .rfl

/-! ## Channels of chapter 09 and RoCEv2 -/

theorem execExportBind_keeps {i : Fin 64} : KeepsOut r (execExportBind i r) := by
  refine issue_keeps _ _ _ (fun s c h => checked_keeps c _ _ _ (.ite (reject_next_keeps _ _ _ _ h)
    (checked_keeps c _ _ _ ?_))) .rfl
  split
  · exact reject_next_keeps _ _ _ _ h
  · exact checked_keeps c _ _ _ (reaches_keeps _ _ _ (reaches_keeps _ _ _ (doneWith_keeps c _ (putChannel_keeps _ _ h))))

theorem execSource_keeps {i : Fin 64} : KeepsOut r (execSource i r) :=
  issue_keeps _ _ _ (fun _ c h => withBound_keeps c _ (checked_keeps c _ _ _ (checked_keeps c _ _ _
    (reaches_keeps _ _ _ (startWork_next_keeps c _ h)))) h) .rfl

theorem execSeal_keeps {i : Fin 64} : KeepsOut r (execSeal i r) :=
  issue_keeps _ _ _ (fun _ c h => withBound_keeps c _ (checked_keeps c _ _ _
    (keepsOut_next (sealCheck_keeps _ (startWork_keeps c _ (putChannel_keeps _ _ h))))) h) .rfl

theorem execPull_keeps {i : Fin 64} : KeepsOut r (execPull i r) :=
  issue_keeps _ _ _ (fun _ c h => withBound_keeps c _ (checked_keeps c _ _ _ (reaches_keeps _ _ _
    (.ite (keepsOut_next (qpFails_keeps _ _ h))
      (keepsOut_next (pullReads_keeps _ _ _ _ _ (startWork_keeps c _ h)))))) h) .rfl

theorem execMessage_keeps {i : Fin 64} : KeepsOut r (execMessage i r) :=
  issue_keeps _ _ _ (fun _ c h => withBound_keeps c _ (checked_keeps c _ _ _ (reaches_keeps _ _ _
    (.ite (keepsOut_next (qpFails_keeps _ _ h)) (readsWell_keeps c _ _ (fun _ h =>
      keepsOut_next (qpSend_keeps _ _ _ (startWork_keeps c _ h))) h)))) h) .rfl

theorem execQpSetup_keeps {i : Fin 64} : KeepsOut r (execQpSetup i r) :=
  issue_keeps _ _ _ (fun _ c h => checked_keeps c _ _ _ (.ite (reject_next_keeps _ _ _ _ h) (checked_keeps c _ _ _
    (reaches_keeps _ _ _ (doneWith_keeps c _ (putQp_keeps _ _ h)))))) .rfl

theorem execQpTeardown_keeps {i : Fin 64} : KeepsOut r (execQpTeardown i r) :=
  issue_keeps _ _ _ (fun _ c h => checked_keeps c _ _ _ (.ite (reject_next_keeps _ _ _ _ h) (checked_keeps c _ _ _
    (doneWith_keeps c _ (tearDown_keeps _ h))))) .rfl

theorem execSegmentSend_keeps {ch : Fin 16} {dest : Fin 8} : KeepsOut r (execSegmentSend ch dest r) :=
  ok_keeps (sendSegment_keeps _ _ .rfl)

theorem execExportTimeout_keeps {ch : Fin 16} {dest : Fin 8} : KeepsOut r (execExportTimeout ch dest r) :=
  ok_keeps (timeoutDest_keeps _ _ .rfl)

theorem execStallLimit_keeps {ch : Fin 16} : KeepsOut r (execStallLimit ch r) := ok_keeps (stallOut_keeps _ .rfl)

theorem execFrameReceive_keeps {p : Fin 12} {f : Frame} : KeepsOut r (execFrameReceive p f r) :=
  have seen : Keeps r (noteFec r p.val f.fec) := noteFec_keeps _ _ .rfl
  .ite (keepsOut_next .rfl) (.ite
    (keepsOut_next (.ite (answerCe_keeps _ (wakeTrigger_keeps seen)) (wakeTrigger_keeps seen)))
    (keepsOut_next (putPort_keeps _ _ seen)))

theorem execRdmaReadReceive_keeps {q : Fin 16384} {psn : BitVec 24} {rkey : W32} {va : W64} {n : Nat} :
    KeepsOut r (execRdmaReadReceive q psn rkey va n r) := inboundThen_keeps _ _ _ .rfl

theorem execRoceSendReceive_keeps {q : Fin 16384} {psn : BitVec 24} : KeepsOut r (execRoceSendReceive q psn r) :=
  inboundThen_keeps _ _ _ .rfl

theorem execRoceAckReceive_keeps {q : Fin 16384} {a : RoceAck} : KeepsOut r (execRoceAckReceive q a r) :=
  ok_keeps (recvRoceAck_keeps _ _ (wakeTrigger_keeps .rfl))

theorem execReadResponseReceive_keeps {q : Fin 16384} {data : List Byte} : KeepsOut r (execReadResponseReceive q data r) :=
  .ite (ok_keeps (pullData_keeps _ _ (wakeTrigger_keeps .rfl))) (keepsOut_next (wakeTrigger_keeps .rfl))

theorem execLocalAckTimeout_keeps {q : Fin 16384} : KeepsOut r (execLocalAckTimeout q r) :=
  .ite (ok_keeps (qpRetry_keeps _ (advanceTo_keeps _ .rfl))) (keepsOut_next .rfl)

theorem execCnpReceive_keeps {q : Fin 16384} : KeepsOut r (execCnpReceive q r) :=
  keepsOut_next (recvCnp_keeps _ (wakeTrigger_keeps .rfl))

theorem execEcnPeriod_keeps {q : Fin 16384} : KeepsOut r (execEcnPeriod q r) := ok_keeps (ecnRaise_keeps _ .rfl)

theorem execPfcPauseReceive_keeps {p : Fin 12} {prio : BitVec 3} {pause : Bool} :
    KeepsOut r (execPfcPauseReceive p prio pause r) :=
  .ite (keepsOut_next .rfl) (.ite
    (ok_keeps (.ite (putPort_keeps _ _ .rfl) (unpause_keeps _ (putPort_keeps _ _ .rfl))))
    (keepsOut_next (putPort_keeps _ _ .rfl)))

/-! ## Ports and arriving packets -/

theorem execFlitRx_keeps {p : Fin 12} {f : FlitIn} : KeepsOut r (execFlitRx p f r) := by
  have seen : Keeps r (noteFec r p.val f.fec) := noteFec_keeps _ _ .rfl
  unfold execFlitRx
  refine .ite (keepsOut_next .rfl) ?_
  dsimp only
  split
  · exact ok_keeps (putPort_keeps _ _ seen)
  · next g _ =>
    have acked := takeCredits_keeps p.val g (ackFlits_keeps p.val g.ack seen)
    exact ok_keeps (transmit_keeps _ (.when wakeTrigger (fun _ h => wakeTrigger_keeps h)
      (.unless (acceptFlit · p.val g) (fun _ h => acceptFlit_keeps _ _ h)
        (.when (replayPort · p.val) (fun _ h => replayPort_keeps _ h) acked))))

theorem execReplayTimeout_keeps {p : Fin 12} : KeepsOut r (execReplayTimeout p r) :=
  .ite (ok_keeps (replayPort_keeps _ (advanceTo_keeps _ .rfl))) (keepsOut_next .rfl)

theorem execBreach_keeps {p : Fin 12} : KeepsOut r (execBreach p r) :=
  .ite (ok_keeps (breachPort_keeps _ (advanceTo_keeps _ .rfl))) (keepsOut_next .rfl)

theorem execLinkDown_keeps {p : LinkLoss} : KeepsOut r (execLinkDown p r) :=
  .ite (ok_keeps (downPort_keeps _ (noteFec_keeps _ _ .rfl))) (keepsOut_next .rfl)

theorem execTrainingRetry_keeps {p : Fin 12} : KeepsOut r (execTrainingRetry p r) :=
  .ite (ok_keeps (putPort_keeps _ _ (advanceTo_keeps _ .rfl))) (keepsOut_next .rfl)

theorem execLinkUp_keeps {p : Fin 12} {chip : BitVec 12} {port : Trained} : KeepsOut r (execLinkUp p chip port r) :=
  .ite (ok_keeps (transmit_keeps _ (putPort_keeps _ _ (keeps_mk.2 .rfl)))) (keepsOut_next .rfl)

theorem execLaneWiden_keeps {p : LaneChange} : KeepsOut r (execLaneWiden p r) :=
  keepsOut_next (.ite (.ite (putPort_keeps _ _ .rfl) .rfl) (.ite (putPort_keeps _ _ .rfl) .rfl))

theorem execPacketForward_keeps {p : Fin 12} {k : Packet} : KeepsOut r (execPacketForward p k r) :=
  .ite (ok_keeps (routePacket_keeps _ _ _ (.ite .rfl (wakeTrigger_keeps .rfl)))) (keepsOut_next .rfl)

theorem execRtsRetry_keeps {c : CmdId} : KeepsOut r (execRtsRetry c r) := by
  unfold execRtsRetry
  split
  · exact keepsOut_next .rfl
  · split
    · split
      · exact ok_keeps (sendRts_keeps _ _ (advanceTo_keeps _ .rfl))
      · exact keepsOut_next .rfl
    · exact keepsOut_next .rfl

theorem execE2eTimeout_keeps {c : CmdId} : KeepsOut r (execE2eTimeout c r) := by
  unfold execE2eTimeout
  split
  · exact keepsOut_next .rfl
  · exact ok_keeps (resetFlow_keeps _ _ (failNet_keeps _ _ _ (advanceTo_keeps _ .rfl)))

/-! ## The tide and lock-step -/

theorem execSyncPeriod_keeps : KeepsOut r (execSyncPeriod r) :=
  .ite (ok_keeps (foldl_keeps (fun _ p h => sendDelay_keeps _ _ p h)
    (.ite (foldl_keeps (fun _ b h => sendSync_keeps _ _ _ b h) (keeps_mk.2 (advanceTo_keeps _ .rfl)))
      (keeps_mk.2 (advanceTo_keeps _ .rfl))))) (keepsOut_next .rfl)

theorem execSyncReceive_keeps {p : Fin 12} {chip : BitVec 12} {count : SyncCount} :
    KeepsOut r (execSyncReceive p chip count r) :=
  .ite (ok_keeps (.when (followSync · chip _) (fun _ h => followSync_keeps _ _ h)
    (foldl_keeps (fun _ b h => sendSync_keeps _ _ _ b h) .rfl))) (keepsOut_next .rfl)

theorem execDelayReqReceive_keeps {p : Fin 12} {stamp : W64} : KeepsOut r (execDelayReqReceive p stamp r) :=
  .ite (ok_keeps (sendDelay_keeps _ _ _ .rfl)) (keepsOut_next .rfl)

theorem execDelayRespReceive_keeps {p : Fin 12} {quarterNs : Nat} : KeepsOut r (execDelayRespReceive p quarterNs r) :=
  .ite (keepsOut_next (putPort_keeps _ _ .rfl)) (keepsOut_next .rfl)

theorem execTideCorrection_keeps {skip : Bool} : KeepsOut r (execTideCorrection skip r) := by
  refine .ite (ok_keeps (correct_keeps _ ?_)) (keepsOut_next .rfl)
  split
  · exact advanceTo_keeps _ .rfl
  · exact .rfl

theorem execSyncLost_keeps : KeepsOut r (execSyncLost r) :=
  .ite (ok_keeps (setTideState_keeps _ (.ite (advanceTo_keeps _ .rfl) (keeps_mk.2 (advanceTo_keeps _ .rfl)))))
    (keepsOut_next .rfl)

theorem execTideRefEdge_keeps : KeepsOut r (execTideRefEdge r) := by
  refine .ite (ok_keeps ?_) (keepsOut_next .rfl)
  have named : Keeps r { r with tide := { r.tide with masterChip := r.rcd.chipId } } := keeps_mk.2 .rfl
  dsimp only
  split
  · exact .ite (countEdge_keeps (setOffset_keeps _ (setTideState_keeps _ named)))
      (setOffset_keeps _ (setCount_keeps _ (setTideState_keeps _ named)))
  · exact countEdge_keeps (alignEdge_keeps named)

theorem execDikeRelease_keeps {c : CmdId} : KeepsOut r (execDikeRelease c r) := by
  unfold execDikeRelease
  split
  · split
    · split
      · exact ok_keeps (setWork_keeps _ _ (reachCount_keeps _ .rfl))
      · exact keepsOut_next .rfl
    · exact keepsOut_next .rfl
  · exact keepsOut_next .rfl

theorem execPairReceive_keeps {p : Fin 12} {chip names : BitVec 12} : KeepsOut r (execPairReceive p chip names r) :=
  .ite (ok_keeps (pairUpCheck_keeps (keeps_mk.2 .rfl))) (keepsOut_next .rfl)

theorem execUnpairReceive_keeps {p : Fin 12} {chip : BitVec 12} : KeepsOut r (execUnpairReceive p chip r) :=
  .ite (keepsOut_next .rfl) (.ite
    (ok_keeps (lapse_keeps (foldl_keeps (fun _ id h => failCmd_keeps id _ h) .rfl)))
    (.ite (keepsOut_next (keeps_mk.2 .rfl)) (keepsOut_next .rfl)))

theorem execDigestReceive_keeps {p : Fin 12} {inlet : Fin 64} {seq item : Nat} {digest : W64} :
    KeepsOut r (execDigestReceive p inlet seq item digest r) :=
  .ite (ok_keeps (theirDigest_keeps _ .rfl)) (keepsOut_next .rfl)

theorem execDivergeReceive_keeps {p : Fin 12} {inlet : Fin 64} {seq item : Nat} :
    KeepsOut r (execDivergeReceive p inlet seq item r) := by
  refine .ite ?_ (keepsOut_next .rfl)
  split
  · exact ok_keeps (endDiverged_keeps _ _ .rfl)
  · exact keepsOut_next .rfl

/-! ## The directory of chapter 10 -/

theorem execPrefixHash_keeps {i : Fin 64} : KeepsOut r (execPrefixHash i r) :=
  issue_keeps _ _ _ (fun _ c h => checked_keeps c _ _ _ (reaches_keeps _ _ _ (readsWell_keeps c _ _ (fun _ h =>
    checked_keeps c _ _ _ (reaches_keeps _ _ _ (readsWell_keeps c _ _ (fun _ h =>
      doneWith_keeps c _ (foldl_keeps (fun _ d h => hashPrompt_keeps c _ _ d h) h)) h))) h))) .rfl

theorem execPrefixLookup_keeps {i : Fin 64} : KeepsOut r (execPrefixLookup i r) :=
  issue_keeps _ _ _ (fun _ c h => checked_keeps c _ _ _ (reaches_keeps _ _ _ (readsWell_keeps c _ _ (fun _ h =>
    have looked := lookAll_keeps _ c _ _ h
    checked_keeps c _ _ _ (dirEnd_keeps c _ _ (doneWith_keeps c _ looked) looked)) h))) .rfl

theorem execPrefixInsert_keeps {i : Fin 64} : KeepsOut r (execPrefixInsert i r) := by
  refine issue_keeps _ _ _ (fun s c h => checked_keeps c _ _ _ (reaches_keeps _ _ _ (reaches_keeps _ _ _
    (readsWell_keeps c _ _ (fun s h => checked_keeps c _ _ _ ?_) (.ite (dirStep_keeps h) h))))) .rfl
  have inserted := insertRecords_keeps (((listAt s (c.par 0 8) 32 (c.par 16 4)).map entryOf).zipIdx) c (c.par 20 1 = 1)
    (c.par 8 8) 0 0 h
  dsimp only
  split
  · exact doneWriting_keeps c _ _ inserted
  · exact dirEnd_keeps c _ _ (keepsOut_next inserted) inserted
  · exact keepsOut_next (failCmd_keeps _ _ inserted)

theorem execPrefixRelease_keeps {i : Fin 64} : KeepsOut r (execPrefixRelease i r) :=
  issue_keeps _ _ _ (fun _ c h => checked_keeps c _ _ _ (reaches_keeps _ _ _ (readsWell_keeps c _ _ (fun _ h =>
    have released := releaseRecords_keeps _ c _ _ h
    checked_keeps c _ _ _ (dirEnd_keeps c _ _ (doneWith_keeps c _ released) released)) h))) .rfl

theorem execDirectoryClock_keeps : KeepsOut r (execDirectoryClock r) :=
  .ite (keepsOut_next .rfl) (ok_keeps (keeps_mk.2 (dirStep_keeps (advanceTo_keeps _ .rfl))))

/-! ## Faults, recovery and security -/

theorem execWatchdog_keeps {c : CmdId} : KeepsOut r (execWatchdog c r) := by
  unfold execWatchdog
  split
  · refine .ite ?_ (keepsOut_next .rfl)
    dsimp only
    split
    · exact ok_keeps (expire_keeps _ (advanceTo_keeps _ (detectorFirst_keeps _ _ .rfl)))
    · exact keepsOut_next (detectorFirst_keeps _ _ .rfl)
  · exact keepsOut_next .rfl

theorem execReadError_keeps {site : ErrSite} {addr : BitVec 40} {flaw : ReadFlaw} :
    KeepsOut r (execReadError site addr flaw r) := by
  cases flaw with
  | corrected => exact keepsOut_next (countCorrected_keeps _ .rfl)
  | transient => exact ok_keeps (readError_keeps _ _ _ .rfl)
  | stored => exact ok_keeps (readError_keeps _ _ _ .rfl)

theorem execErrorPeriod_keeps : KeepsOut r (execErrorPeriod r) :=
  keepsOut_next (keeps_mk.2 (advanceTo_keeps _ .rfl))

theorem execAttest_keeps {i : Fin 64} : KeepsOut r (execAttest i r) :=
  issue_keeps _ _ _ (fun _ c h => checked_keeps c _ _ _ (reaches_keeps _ _ _
    (keepsOut_next (.ite (startWork_keeps c _ h) (attestNow_keeps _ _ _ _ h))))) .rfl

theorem execFwStage_keeps {i : Fin 64} : KeepsOut r (execFwStage i r) := by
  refine issue_keeps _ _ _ (fun s c h => checked_keeps c _ _ _ (reaches_keeps _ _ _
    (readsWell_keeps c _ _ (fun s h => ?_) h))) .rfl
  dsimp only
  split
  · exact keepsOut_next (authFail_keeps _ _ h)
  · exact keepsOut_next (stageImage_keeps c _ h)

theorem execFlashWriteComplete_keeps : KeepsOut r (execFlashWriteComplete r) := by
  unfold execFlashWriteComplete
  split
  · exact .ite (ok_keeps (setWork_keeps _ _ (keeps_mk.2 .rfl))) (keepsOut_next .rfl)
  · exact keepsOut_next .rfl

theorem execFwCommit_keeps {i : Fin 64} : KeepsOut r (execFwCommit i r) := by
  refine issue_keeps _ _ _ (fun s c h => checked_keeps c _ _ _ ?_) .rfl
  cases s.warden.fwState with
  | none | writing => exact reject_next_keeps _ _ _ _ h
  | staged | pending => exact doneWith_keeps c _ (keeps_mk.2 h)

theorem execDebugUnlock_keeps {i : Fin 64} : KeepsOut r (execDebugUnlock i r) := by
  refine issue_keeps _ _ _ (fun s c h => checked_keeps c _ _ _ (reaches_keeps _ _ _
    (readsWell_keeps c _ _ (fun t h => ?_) (keeps_mk.2 h)))) .rfl
  dsimp only
  split
  · exact keepsOut_next (authFail_keeps _ _ h)
  · exact keepsOut_next (.ite (startWork_keeps c _ h) (unlockNow_keeps _ _ h))

/-! ## The pumping station -/

theorem execEstimateInterval_keeps {e : IntervalEst} : KeepsOut r (execEstimateInterval e r) :=
  have est := attributeEnergy_keeps e (estimate_keeps e (toInterval_keeps (Keeps.rfl (s := r))))
  .ite (ok_keeps (renumber_keeps _ (rebalance_keeps (floorTest_keeps (fastLimiter_keeps (brakeStep_keeps
    (foldl_keeps (fun _ c h => coolDown_keeps c h) est))))))) (keepsOut_next .rfl)

theorem execSlowLoop_keeps {d : SlowLoopData} : KeepsOut r (execSlowLoop d r) :=
  .ite (ok_keeps (capsDone_keeps (renumber_keeps _
    (.when (fun s => restoreDuties ((coresIn s).foldl slowCore s))
      (fun _ h => restoreDuties_keeps (foldl_keeps (fun _ c h => slowCore_keeps c h) h))
      (.unless divideCap (fun _ h => divideCap_keeps h)
        (foldl_keeps (fun _ c h => ageCore_keeps c h) (foldl_keeps (fun _ c h => renewClasses_keeps c h)
          (.when (fun s => (coresIn s).foldl learnCore s) (fun _ h => foldl_keeps (fun _ c h => learnCore_keeps c h) h)
            (toMultiple_keeps _ .rfl))))))))) (keepsOut_next .rfl)

theorem execRailSettled_keeps {c : Fin 16} : KeepsOut r (execRailSettled c r) := by
  unfold execRailSettled
  split
  · exact .ite (keepsOut_next .rfl) (.ite (keepsOut_next (writeDivider_keeps _ _ .rfl)) (keepsOut_next (lowerM_keeps _ _ .rfl)))
  · exact keepsOut_next .rfl

theorem execVoltageTrim_keeps {c : Fin 16} {up : Bool} : KeepsOut r (execVoltageTrim c up r) :=
  .ite (keepsOut_next (putPower_keeps _ _ (putPower_keeps _ _ .rfl))) (keepsOut_next .rfl)

theorem execDroop_keeps {c : Fin 16} : KeepsOut r (execDroop c r) :=
  .ite (keepsOut_next (timingEvent_keeps _ _ (markCapEvent_keeps _ (putPower_keeps _ _ .rfl)))) (keepsOut_next .rfl)

theorem execDroopEnd_keeps {c : Fin 16} : KeepsOut r (execDroopEnd c r) := keepsOut_next (putPower_keeps _ _ .rfl)

theorem execPwrBrakeAssert_keeps : KeepsOut r (execPwrBrakeAssert r) :=
  have held : Keeps r { r with pins := { r.pins with brake := true } } := keeps_mk.2 .rfl
  keepsOut_next (.ite (renumber_keeps _ (applyBrake_keeps held)) held)

theorem execPwrBrakeRelease_keeps : KeepsOut r (execPwrBrakeRelease r) := keepsOut_next (keeps_mk.2 .rfl)

theorem execSensorRead_keeps {d : SensorData} : KeepsOut r (execSensorRead d r) :=
  .ite (keepsOut_next (.when tripChip (fun _ h => tripChip_keeps h)
    (keeps_mk.2 (renumber_keeps _ (foldl_keeps (fun _ c h => readCore_keeps d c h) (toMultiple_keeps _ .rfl))))))
    (keepsOut_next .rfl)

theorem execThermalTrip_keeps : KeepsOut r (execThermalTrip r) :=
  .ite (keepsOut_next (tripChip_keeps .rfl)) (keepsOut_next .rfl)

theorem execAgeingMonitor_keeps {d : AgeingData} : KeepsOut r (execAgeingMonitor d r) :=
  .ite (keepsOut_next (.when (eolNotice · true) (fun _ h => eolNotice_keeps _ h)
    (.when (eolNotice · false) (fun _ h => eolNotice_keeps _ h)
      (keeps_mk.2 (keeps_mk.2 (foldl_keeps (fun _ c h => putPower_keeps c _ h) (toMultiple_keeps _ .rfl)))))))
    (keepsOut_next .rfl)

theorem execEyeMeasure_keeps {p : Fin 12} {mv : W16} : KeepsOut r (execEyeMeasure p mv r) :=
  .ite (keepsOut_next (keeps_mk.2 .rfl)) (keepsOut_next .rfl)

/-! ## Resets, power, boot -/

theorem execDeviceFault_keeps {unit : BitVec 8} : KeepsOut r (execDeviceFault unit r) := by
  unfold execDeviceFault
  cases r.dev.state with
  | ready | active | quiescing => exact ok_keeps (enterFault_keeps _ _ .rfl)
  | lowPower => exact ok_keeps (enterFault_keeps _ _ (leaveLowPower_keeps .rfl))
  | standby | booting | fault => exact keepsOut_next .rfl

theorem execLowPowerEntry_keeps : KeepsOut r (execLowPowerEntry r) :=
  .ite (ok_keeps (foldl_keeps (fun _ p h => .ite (putPort_keeps p _ h) h)
    (foldl_keeps (fun _ c h => putPower_keeps c _ h)
      (setDevState_keeps _ (keeps_mk.2 (advanceTo_keeps _ .rfl)))))) (keepsOut_next .rfl)

theorem execWakeComplete_keeps : KeepsOut r (execWakeComplete r) :=
  .ite (ok_keeps (setDevState_keeps _ (leaveLowPower_keeps .rfl))) (keepsOut_next .rfl)

theorem execPerstNAssert_keeps : KeepsOut r (execPerstNAssert r) :=
  .ite (keepsOut_next (deviceReset_keeps (keeps_mk.2 .rfl))) (keepsOut_next .rfl)

theorem execModResetNAssert_keeps : KeepsOut r (execModResetNAssert r) := keepsOut_next (resetIf_keeps (keeps_mk.2 .rfl))

theorem execModResetNRelease_keeps : KeepsOut r (execModResetNRelease r) :=
  keepsOut_next (.when (fun s => (requestPower s).2) (fun _ h => requestPower_keeps h) (keeps_mk.2 .rfl))

theorem execVinRise_keeps {intact : Bool} : KeepsOut r (execVinRise intact r) :=
  .ite (keepsOut_next .rfl) (keepsOut_next (.when powerOn (fun _ h => powerOn_keeps h)
    (keeps_mk.2 (deviceReset_keeps (keeps_mk.2 .rfl)))))

theorem execVinLoss_keeps : KeepsOut r (execVinLoss r) :=
  .ite (keepsOut_next (keeps_mk.2 (powerOff_keeps .rfl))) (keepsOut_next .rfl)

theorem execBootStart_keeps {seedOk : Bool} : KeepsOut r (execBootStart seedOk r) :=
  .ite (ok_keeps (bootStart_keeps _ .rfl)) (keepsOut_next .rfl)

theorem execBootComplete_keeps {b : BootResult} : KeepsOut r (execBootComplete b r) :=
  .ite (.ite (keepsOut_next (trialFails_keeps .rfl)) (.ite
    (ok_keeps (.when applyBrake (fun _ h => applyBrake_keeps h) (setDevState_keeps _
      (.when trialWorks (fun _ h => trialWorks_keeps h)
        (foldl_keeps (fun _ c h => .unless (bootCoreOut · c) (fun _ h => bootCoreOut_keeps c h) h) .rfl)))))
    (ok_keeps (bootFails_keeps .rfl)))) (keepsOut_next .rfl)

theorem execTrialTimeout_keeps : KeepsOut r (execTrialTimeout r) :=
  .ite (keepsOut_next (trialFails_keeps (advanceTo_keeps _ .rfl))) (keepsOut_next .rfl)

theorem execFallbackPowerOn_keeps : KeepsOut r (execFallbackPowerOn r) :=
  .ite (keepsOut_next (powerOn_keeps .rfl)) (keepsOut_next .rfl)

/-! ## The warden -/

theorem execGetStatus_keeps : KeepsOut r (execGetStatus r) :=
  wardenDo_keeps _ (fun _ h => replyWith_keeps _ _ (wardenChallenge_keeps h)) .rfl

theorem execGetTelemetry_keeps : KeepsOut r (execGetTelemetry r) :=
  wardenDo_keeps _ (fun _ h => replyWith_keeps _ _ (drawFree_keeps h)) .rfl

theorem execSetCaps_keeps {peak sustained : W16} : KeepsOut r (execSetCaps peak sustained r) :=
  wardenDo_keeps _ (fun _ h => .ite (replyWith_keeps _ _ (changeCaps_keeps _ h)) (replyWith_keeps _ _ h)) .rfl

theorem execPower_keeps {op : PowerOp} : KeepsOut r (execPower op r) := by
  refine wardenDo_keeps _ (fun s h => ?_) .rfl
  cases op with
  | on => exact .ite (replyWith_keeps _ _ h) (powerRequest_keeps h)
  | off => exact replyWith_keeps _ _ (.ite (powerOff_keeps h) h)
  | cycle => exact powerRequest_keeps (.ite (powerOff_keeps h) h)

theorem execReadHistory_keeps {off : Nat} : KeepsOut r (execReadHistory off r) :=
  wardenDo_keeps _ (fun _ h => .ite (replyWith_keeps _ _ h) (replyWith_keeps _ _ h)) .rfl

theorem execMailbox_keeps {op : MbxOp} {req : List Byte} : KeepsOut r (execMailbox op req r) := by
  refine wardenDo_keeps _ (fun s h => ?_) .rfl
  cases s.dev.state with
  | ready | active | quiescing =>
    dsimp only
    split
    · next q e => exact .ite (mailboxWait_keeps _ _ _ h) (replyWith_keeps _ _ ((mailboxDo_keeps _ _ h).snd q e))
    · exact replyWith_keeps _ _ h
  | standby | booting | lowPower | fault => exact replyWith_keeps _ _ h

theorem execOwnerRegister_keeps {q : OwnerReq} : KeepsOut r (execOwnerRegister q r) :=
  wardenDo_keeps _ (fun _ h =>
    have used := consumeChallenge_keeps h
    .ite (replyWith_keeps _ _ used) (.ite (replyWith_keeps _ _ used)
      (.ite (replyWith_keeps _ _ (setOwner_keeps _ _ used)) (replyWith_keeps _ _ used)))) .rfl

theorem execOwnerChange_keeps {q : OwnerReq} : KeepsOut r (execOwnerChange q r) := by
  refine wardenDo_keeps _ (fun s h => ?_) .rfl
  have used := consumeChallenge_keeps h
  refine .ite (replyWith_keeps _ _ used) ?_
  split
  · exact replyWith_keeps _ _ used
  · exact .ite (replyWith_keeps _ _ (setOwner_keeps _ _ used)) (replyWith_keeps _ _ used)

theorem execConfigWrite_keeps {sect sig : List Byte} : KeepsOut r (execConfigWrite sect sig r) :=
  wardenDo_keeps _ (fun _ h =>
    have used := consumeChallenge_keeps h
    .ite (replyWith_keeps _ _ used) (.ite (replyWith_keeps _ _ (keeps_mk.2 used)) (replyWith_keeps _ _ used))) .rfl

theorem execAlertResponse_keeps : KeepsOut r (execAlertResponse r) :=
  wardenDo_keeps _ (fun _ h => keeps_mk.2 h) .rfl

/-! ## Every row -/

/-- No row but COMMAND_FETCH touches the queue, breaks the canonical form of memory or adds a command in flight. -/
theorem exec_keeps {c : Instr} (hc : ∀ i slot, c ≠ .commandFetch i slot) : KeepsOut r (exec c r) := by
  cases c with
  | doorbell => exact execDoorbell_keeps
  | enableWrite => exact execEnableWrite_keeps
  | resume => exact execResume_keeps
  | quiesceWrite => exact execQuiesceWrite_keeps
  | wake => exact execWake_keeps
  | w1cClear => exact execW1cClear_keeps
  | eventCounterWrite => exact execEventCounterWrite_keeps
  | registerWrite => exact execRegisterWrite_keeps
  | apertureWrite => exact execApertureWrite_keeps
  | apertureRead => exact execApertureRead_keeps
  | groupConfigure => exact execGroupConfigure_keeps
  | groupRemove => exact execGroupRemove_keeps
  | retrain => exact execRetrain_keeps
  | portDisable => exact execPortDisable_keeps
  | jobEnergyClearSlot => exact execJobEnergyClearSlot_keeps
  | jobEnergyClearAll => exact execJobEnergyClearAll_keeps
  | coreReset => exact execCoreReset_keeps
  | coreResetDone => exact execCoreResetDone_keeps
  | commandFetch i slot => exact absurd rfl (hc i slot)
  | coalesceTimer => exact execCoalesceTimer_keeps
  | nop => exact execNop_keeps
  | eventSignal => exact execEventSignal_keeps
  | eventWait => exact execEventWait_keeps
  | fence => exact execFence_keeps
  | query => exact execQuery_keeps
  | dike => exact execDike_keeps
  | tideLaunch => exact execTideLaunch_keeps
  | launchFire => exact execLaunchFire_keeps
  | abort => exact execAbort_keeps
  | setMode => exact execSetMode_keeps
  | setCap => exact execSetCap_keeps
  | setWeir => exact execSetWeir_keeps
  | coreOffline => exact execCoreOffline_keeps
  | coreOnline => exact execCoreOnline_keeps
  | copy => exact execCopy_keeps
  | fill => exact execFill_keeps
  | sluiceArm => exact execSluiceArm_keeps
  | sluiceRearm => exact execSluiceRearm_keeps
  | compareCount => exact execCompareCount_keeps
  | compareSwap => exact execCompareSwap_keeps
  | gatherRows => exact execGatherRows_keeps
  | scatterRows => exact execScatterRows_keeps
  | gemm => exact execGemm_keeps
  | gemmList => exact execGemmList_keeps
  | gemmT => exact execGemmT_keeps
  | chain => exact execChain_keeps
  | attend => exact execAttend_keeps
  | vector => exact execVector_keeps
  | windowOpen => exact execWindowOpen_keeps
  | windowClose => exact execWindowClose_keeps
  | send => exact execSend_keeps
  | recv => exact execRecv_keeps
  | allreduce => exact execAllreduce_keeps
  | allgather => exact execAllgather_keeps
  | exportBind => exact execExportBind_keeps
  | source => exact execSource_keeps
  | pull => exact execPull_keeps
  | message => exact execMessage_keeps
  | qpSetup => exact execQpSetup_keeps
  | qpTeardown => exact execQpTeardown_keeps
  | prefixHash => exact execPrefixHash_keeps
  | prefixLookup => exact execPrefixLookup_keeps
  | prefixInsert => exact execPrefixInsert_keeps
  | prefixRelease => exact execPrefixRelease_keeps
  | attest => exact execAttest_keeps
  | fwStage => exact execFwStage_keeps
  | fwCommit => exact execFwCommit_keeps
  | debugUnlock => exact execDebugUnlock_keeps
  | watchdog => exact execWatchdog_keeps
  | bermDeadlock => exact execBermDeadlock_keeps
  | workRequest => exact execWorkRequest_keeps
  | passStart => exact execPassStart_keeps
  | stationaryLoad => exact execStationaryLoad_keeps
  | blockCommit => exact execBlockCommit_keeps
  | epilogueBlock => exact execEpilogueBlock_keeps
  | preempt => exact execPreempt_keeps
  | preemptResume => exact execPreemptResume_keeps
  | rampUp => exact execRampUp_keeps
  | rampDown => exact execRampDown_keeps
  | readError => exact execReadError_keeps
  | segmentComplete => exact execSegmentComplete_keeps
  | segmentSend => exact execSegmentSend_keeps
  | exportTimeout => exact execExportTimeout_keeps
  | stallLimit => exact execStallLimit_keeps
  | flitRx => exact execFlitRx_keeps
  | replayTimeout => exact execReplayTimeout_keeps
  | breach => exact execBreach_keeps
  | linkDown => exact execLinkDown_keeps
  | trainingRetry => exact execTrainingRetry_keeps
  | linkUp => exact execLinkUp_keeps
  | laneWiden => exact execLaneWiden_keeps
  | rtsRetry => exact execRtsRetry_keeps
  | packetForward => exact execPacketForward_keeps
  | e2eTimeout => exact execE2eTimeout_keeps
  | syncPeriod => exact execSyncPeriod_keeps
  | syncReceive => exact execSyncReceive_keeps
  | delayReqReceive => exact execDelayReqReceive_keeps
  | delayRespReceive => exact execDelayRespReceive_keeps
  | tideCorrection => exact execTideCorrection_keeps
  | syncLost => exact execSyncLost_keeps
  | tideRefEdge => exact execTideRefEdge_keeps
  | dikeRelease => exact execDikeRelease_keeps
  | pairReceive => exact execPairReceive_keeps
  | unpairReceive => exact execUnpairReceive_keeps
  | digestReceive => exact execDigestReceive_keeps
  | divergeReceive => exact execDivergeReceive_keeps
  | frameReceive => exact execFrameReceive_keeps
  | roceAckReceive => exact execRoceAckReceive_keeps
  | readResponseReceive => exact execReadResponseReceive_keeps
  | localAckTimeout => exact execLocalAckTimeout_keeps
  | cnpReceive => exact execCnpReceive_keeps
  | ecnPeriod => exact execEcnPeriod_keeps
  | pfcPauseReceive => exact execPfcPauseReceive_keeps
  | weirWindow => exact execWeirWindow_keeps
  | urgentCredit => exact execUrgentCredit_keeps
  | ddrRefresh => exact execDdrRefresh_keeps
  | wck2dqTracking => exact execWck2dqTracking_keeps
  | directoryClock => exact execDirectoryClock_keeps
  | estimateInterval => exact execEstimateInterval_keeps
  | slowLoop => exact execSlowLoop_keeps
  | railSettled => exact execRailSettled_keeps
  | voltageTrim => exact execVoltageTrim_keeps
  | droop => exact execDroop_keeps
  | droopEnd => exact execDroopEnd_keeps
  | pwrBrakeAssert => exact execPwrBrakeAssert_keeps
  | pwrBrakeRelease => exact execPwrBrakeRelease_keeps
  | sensorRead => exact execSensorRead_keeps
  | thermalTrip => exact execThermalTrip_keeps
  | ageingMonitor => exact execAgeingMonitor_keeps
  | eyeMeasure => exact execEyeMeasure_keeps
  | errorPeriod => exact execErrorPeriod_keeps
  | deviceFault => exact execDeviceFault_keeps
  | lowPowerEntry => exact execLowPowerEntry_keeps
  | wakeComplete => exact execWakeComplete_keeps
  | perstNAssert => exact execPerstNAssert_keeps
  | modResetNAssert => exact execModResetNAssert_keeps
  | modResetNRelease => exact execModResetNRelease_keeps
  | vinRise => exact execVinRise_keeps
  | vinLoss => exact execVinLoss_keeps
  | bootStart => exact execBootStart_keeps
  | bootComplete => exact execBootComplete_keeps
  | trialTimeout => exact execTrialTimeout_keeps
  | fallbackPowerOn => exact execFallbackPowerOn_keeps
  | getStatus => exact execGetStatus_keeps
  | getTelemetry => exact execGetTelemetry_keeps
  | setCaps => exact execSetCaps_keeps
  | power => exact execPower_keeps
  | readHistory => exact execReadHistory_keeps
  | mailbox => exact execMailbox_keeps
  | ownerRegister => exact execOwnerRegister_keeps
  | ownerChange => exact execOwnerChange_keeps
  | configWrite => exact execConfigWrite_keeps
  | alertResponse => exact execAlertResponse_keeps
  | flashWriteComplete => exact execFlashWriteComplete_keeps
  | mbxGetChallenge | mbxConfigRead | mbxCerts | mbxAttest => exact mailboxHost_keeps _ _ .rfl
  | writeReceive | writeSignalReceive | mcastWriteReceive | reduceDataReceive | ackReceive | refuseReceive
  | breachNoticeReceive | flowResetReceive | rtsReceive | ctsReceive | collCreditReceive | collAbortReceive
  | arriveReceive | releaseReceive =>
    exact arrives_keeps _ _ _ .rfl
  | rdmaWriteReceive | writeImmediateReceive => exact inboundThen_keeps _ _ _ .rfl
  | rdmaReadReceive => exact execRdmaReadReceive_keeps
  | roceSendReceive => exact execRoceSendReceive_keeps
  | pcieHotReset | d3hotToD0 | pcieLinkLoss => exact linkReset_keeps .rfl
  -- SEAL alone is left; the name of its constructor is a keyword of Lean.
  | _ => exact execSeal_keeps

end Sys2Proof.Machine
end

section
/-!
SUPPORT. Commands in flight (R27): what a fetch adds, what an end takes away and leaves in the outfall, and the limits that
every step keeps.
-/
namespace Sys2Proof.Machine

/-! ## The limits, by number and inlet -/

theorem inFlight_eq_countP_keys (s : State) (i : Nat) : inFlight s i = (s.cmds.map keyOf).countP (fun k => k.2 == i) := by
  rw [List.countP_map]; rfl

/-- Commands that stay or end keep the limits. -/
theorem flightOk_of_keeps {s t : State} (h : Keeps s t) (ok : flightOk s) : flightOk t := by
  obtain ⟨all, each⟩ := ok
  refine ⟨?_, fun i => ?_⟩
  · have fewer := h.flight.length_le
    rw [List.length_map, List.length_map] at fewer
    exact Nat.le_trans fewer all
  · rw [inFlight_eq_countP_keys]
    exact Nat.le_trans h.flight.countP_le (inFlight_eq_countP_keys s i ▸ each i)

/-! ## A fetch -/

/-- An inlet is served only below both limits. -/
theorem wantsFetch_room {s : State} {i : Nat} (h : wantsFetch s i = true) : inFlight s i < 32 ∧ s.cmds.length < 1024 := by
  simp only [wantsFetch, Bool.and_eq_true, decide_eq_true_eq] at h
  obtain ⟨⟨⟨⟨_, own⟩, all⟩, _⟩, _⟩ := h
  refine ⟨own, Nat.lt_of_lt_of_le all ?_⟩
  split <;> omega

theorem wantsFetch_full {s : State} {i : Nat} (h : 32 ≤ inFlight s i ∨ 1024 ≤ s.cmds.length) : wantsFetch s i = false := by
  refine Bool.eq_false_iff.mpr (fun hw => ?_)
  obtain ⟨own, all⟩ := wantsFetch_room hw
  omega

@[simp] theorem leaveReady_cmds (s : State) : (leaveReady s).cmds = s.cmds := by
  unfold leaveReady
  split <;> simp

/-- Latching changes nothing of a command that it does not latch. -/
theorem latch_map {β : Type} (f : Cmd → β) (hf : ∀ s c, f (latchCmd s c) = f c) (s : State) :
    (latch s).cmds.map f = s.cmds.map f := by
  show (s.cmds.map (latchCmd s)).map f = _
  rw [List.map_map, show f ∘ latchCmd s = f from funext (hf s)]

theorem fetchSlot_keys (s : State) (i : Nat) (slot : List Byte) :
    (fetchSlot s i slot).cmds.map keyOf = s.cmds.map keyOf ++ [(s.clk.fetched, i)] := by
  unfold fetchSlot
  rw [latch_map keyOf (fun _ _ => rfl), leaveReady_cmds, List.map_append]
  simp [keyOf, cmdOf]

/-- What COMMAND_FETCH can do: nothing of its own, or one fetch from an inlet below the limits. -/
theorem execCommandFetch_cases {i : Fin 64} {slot : List Byte} {s t : State} (h : execCommandFetch i slot s = .next t) :
    Keeps s t ∨ (wantsFetch s i.val = true ∧ Keeps (fetchSlot s i.val slot) t) := by
  unfold execCommandFetch at h
  split at h
  · cases h; exact .inl .rfl
  · next wants =>
    split at h
    · cases h; exact .inl (stallFetch_keeps _ .rfl)
    · split at h
      · cases h; exact .inl .rfl
      · split at h
        · exact .inr ⟨by simpa using wants, (ok_keeps .rfl).next t h⟩
        · cases h

theorem flightOk_fetchSlot {s : State} {i : Nat} {slot : List Byte} (hw : wantsFetch s i = true) (ok : flightOk s) :
    flightOk (fetchSlot s i slot) := by
  obtain ⟨own, all⟩ := wantsFetch_room hw
  have keys := fetchSlot_keys s i slot
  refine ⟨?_, fun j => ?_⟩
  · have := congrArg List.length keys
    simp only [List.length_map, List.length_append, List.length_singleton] at this
    omega
  · rw [inFlight_eq_countP_keys, keys, List.countP_append, ← inFlight_eq_countP_keys, List.countP_singleton]
    have each := ok.2 j
    by_cases hj : i = j
    · subst hj
      rw [if_pos (beq_self_eq_true _)]
      omega
    · simpa [hj] using each

theorem flightOk_exec {c : Instr} {s t : State} (ok : flightOk s) (h : exec c s = .next t) : flightOk t := by
  by_cases hc : ∃ i slot, c = .commandFetch i slot
  · obtain ⟨i, slot, rfl⟩ := hc
    rcases execCommandFetch_cases h with same | ⟨wants, added⟩
    · exact flightOk_of_keeps same ok
    · exact flightOk_of_keeps added (flightOk_fetchSlot wants ok)
  · exact flightOk_of_keeps ((exec_keeps (fun i slot e => hc ⟨i, slot, e⟩)).next t h) ok

theorem flightOk_step {s t : State} (ok : flightOk s) (h : step s = .next t) : flightOk t := by
  unfold step at h
  split at h
  · cases h; exact flightOk_of_keeps (settle_keeps (advance_keeps 1 .rfl)) ok
  · next c rest _ => exact flightOk_exec (show flightOk { s with pending := rest } from ok) h

/-! ## An end -/

theorem findCmd_isSome (s : State) (id : CmdId) : (findCmd s id).isSome = (s.cmds.map (·.id)).contains id := by
  rw [Bool.eq_iff_iff]
  simp [findCmd]

theorem setEvent_ids (s : State) (e : Nat) (v : W32) : (setEvent s e v).cmds.map (·.id) = s.cmds.map (·.id) := by
  unfold setEvent
  split
  · rfl
  · exact latch_map _ (fun _ _ => rfl) _

theorem addEvent_ids (s : State) (e n : Nat) : (addEvent s e n).cmds.map (·.id) = s.cmds.map (·.id) := setEvent_ids s e _

@[simp] theorem releaseAll_cmds (s : State) (c : Cmd) (ok : Bool) : (releaseAll s c ok).cmds = s.cmds := by
  unfold releaseAll
  split
  · rfl
  · dsimp only; split <;> rfl

@[simp] theorem releaseAll_outfalls (s : State) (c : Cmd) (ok : Bool) : (releaseAll s c ok).outfalls = s.outfalls := by
  unfold releaseAll
  split
  · rfl
  · dsimp only; split <;> rfl

@[simp] theorem releaseAll_host (s : State) (c : Cmd) (ok : Bool) : (releaseAll s c ok).host = s.host := by
  unfold releaseAll
  split
  · rfl
  · dsimp only; split <;> rfl

@[simp] theorem countTicks_cmds (s : State) (c : Cmd) (n : Nat) : (countTicks s c n).cmds = s.cmds := rfl
@[simp] theorem countTicks_outfalls (s : State) (c : Cmd) (n : Nat) : (countTicks s c n).outfalls = s.outfalls := rfl
@[simp] theorem countTicks_host (s : State) (c : Cmd) (n : Nat) : (countTicks s c n).host = s.host := rfl

@[simp] theorem closeDrained_cmds (s : State) (i : Nat) : (closeDrained s i).cmds = s.cmds := by
  unfold closeDrained
  dsimp only
  split <;> rfl

@[simp] theorem closeDrained_outfalls (s : State) (i : Nat) : (closeDrained s i).outfalls = s.outfalls := by
  unfold closeDrained
  dsimp only
  split <;> rfl

@[simp] theorem closeDrained_host (s : State) (i : Nat) : (closeDrained s i).host = s.host := by
  unfold closeDrained
  dsimp only
  split <;> rfl

@[simp] theorem settleDevice_cmds (s : State) : (settleDevice s).cmds = s.cmds := by
  unfold settleDevice
  split
  · dsimp only; split <;> simp
  · rfl

@[simp] theorem settleDevice_outfalls (s : State) : (settleDevice s).outfalls = s.outfalls := by
  unfold settleDevice
  split
  · dsimp only; split <;> simp
  · rfl

@[simp] theorem settleDevice_host (s : State) : (settleDevice s).host = s.host := by
  unfold settleDevice
  split
  · dsimp only; split <;> simp
  · rfl

@[simp] theorem writeEntry_cmds (s : State) (i : Nat) (b : List Byte) : (writeEntry s i b).cmds = s.cmds := by
  unfold writeEntry
  dsimp only
  split <;> simp

/-- An interrupt takes no entry away. -/
@[simp] theorem getOutfall_raiseVector_tail (s : State) (i : Nat) :
    (getOutfall (raiseVector s i) i).tail = (getOutfall s i).tail := by
  simp [raiseVector, getOutfall, putOutfall]

/-- An entry written moves OUTFALL_TAIL on by one around the ring (R32). -/
theorem writeEntry_tail (s : State) (i : Nat) (b : List Byte) : (getOutfall (writeEntry s i b) i).tail =
    BitVec.ofNat 16 (((getOutfall s i).tail.toNat + 1) % 2 ^ (getOutfall s i).sizeLog2.toNat) := by
  unfold writeEntry
  dsimp only
  split <;> simp

/-- A command that has ended, before its entry: its signal is given on `OK` (R25), everything it holds is released (R370), it is
in flight no more, and its ticks are counted (R33). -/
def leaveFlight (s : State) (c : Cmd) (ok : Bool) : State :=
  let s := if ok && flagSet c.hdr 0 then addEvent s c.hdr.signalId.toNat c.hdr.signalInc.toNat else s
  let s := releaseAll s c ok
  let s := { s with cmds := s.cmds.filter (fun d => d.id != c.id) }
  countTicks s c (if isHeld c then 0 else s.clk.ticks - c.dispatchTick)

/-- The inlet and the device move on after the entry (Tables 2.5a, 2.5c). -/
def moveOn (s : State) (i : Nat) (ok : Bool) : State :=
  let x := getInlet s i
  settleDevice (if !ok && x.haltOnError && x.state = .open then setInletFlag (putInlet s i { x with state := .halted }) i .halted
    else closeDrained s i)

/-- An end leaves the flight, releases the reservation or writes the entry, and lets inlet and device move on. -/
theorem endOne_eq {s : State} {c : Cmd} (hc : findCmd s c.id = some c) (st : Status) (d : Nat) :
    endOne s c.id st d = moveOn (
      let t := leaveFlight s c (st = .ok)
      if st = .ok && flagSet c.hdr 2 then
        putOutfall t c.inlet { getOutfall t c.inlet with reserved := (getOutfall t c.inlet).reserved - 1 }
      else writeEntry t c.inlet (entryBytes c.hdr.tag st (secondaryOf t c) c.hdr.opcode.toNat c.energy
        (if isHeld c then 0 else t.clk.ticks - c.dispatchTick) d)) c.inlet (st = .ok) := by
  unfold endOne
  rw [hc]
  rfl

theorem leaveFlight_ids (s : State) (c : Cmd) (ok : Bool) :
    (leaveFlight s c ok).cmds.map (·.id) = (s.cmds.map (·.id)).filter (· != c.id) := by
  have signalled (p : Prop) [Decidable p] (e n : Nat) :
      (if p then addEvent s e n else s).cmds.map (·.id) = s.cmds.map (·.id) := by
    split
    · exact addEvent_ids s e n
    · rfl
  rw [← signalled ((ok && flagSet c.hdr 0) = true), List.filter_map, leaveFlight, countTicks_cmds, releaseAll_cmds]
  rfl

@[simp] theorem leaveFlight_outfalls (s : State) (c : Cmd) (ok : Bool) : (leaveFlight s c ok).outfalls = s.outfalls := by
  rw [leaveFlight, countTicks_outfalls, releaseAll_outfalls]
  split
  · exact addEvent_outfalls s _ _
  · rfl

@[simp] theorem leaveFlight_host (s : State) (c : Cmd) (ok : Bool) : (leaveFlight s c ok).host = s.host := by
  rw [leaveFlight, countTicks_host, releaseAll_host]
  split
  · exact addEvent_host s _ _
  · rfl

@[simp] theorem moveOn_cmds (s : State) (i : Nat) (ok : Bool) : (moveOn s i ok).cmds = s.cmds := by
  rw [moveOn, settleDevice_cmds]
  split <;> simp

@[simp] theorem moveOn_outfalls (s : State) (i : Nat) (ok : Bool) : (moveOn s i ok).outfalls = s.outfalls := by
  rw [moveOn, settleDevice_outfalls]
  split <;> simp

@[simp] theorem moveOn_host (s : State) (i : Nat) (ok : Bool) : (moveOn s i ok).host = s.host := by
  rw [moveOn, settleDevice_host]
  split <;> simp

@[simp] theorem getOutfall_leaveFlight (s : State) (c : Cmd) (ok : Bool) (j : Nat) :
    getOutfall (leaveFlight s c ok) j = getOutfall s j := by rw [getOutfall, leaveFlight_outfalls]; rfl

@[simp] theorem getOutfall_moveOn (s : State) (i : Nat) (ok : Bool) (j : Nat) :
    getOutfall (moveOn s i ok) j = getOutfall s j := by rw [getOutfall, moveOn_outfalls]; rfl

/-- A command that ends leaves those in flight, and no other does. -/
theorem endOne_ids {s : State} {c : Cmd} (hc : findCmd s c.id = some c) (st : Status) (d : Nat) :
    (endOne s c.id st d).cmds.map (·.id) = (s.cmds.map (·.id)).filter (· != c.id) := by
  rw [endOne_eq hc, moveOn_cmds, ← leaveFlight_ids s c (st = .ok)]
  dsimp only
  split
  · rw [putOutfall_cmds]
  · rw [writeEntry_cmds]

theorem findCmd_endOne_self {s : State} {c : Cmd} (hc : findCmd s c.id = some c) (st : Status) (d : Nat) :
    findCmd (endOne s c.id st d) c.id = none := by
  rw [← Option.isNone_iff_eq_none, ← Option.not_isSome, findCmd_isSome, endOne_ids hc]
  simp

theorem findCmd_endOne_ne {s : State} {c : Cmd} (hc : findCmd s c.id = some c) (st : Status) (d : Nat) {id : CmdId}
    (hne : id ≠ c.id) : (findCmd (endOne s c.id st d) id).isSome = (findCmd s id).isSome := by
  rw [findCmd_isSome, findCmd_isSome, endOne_ids hc, Bool.eq_iff_iff]
  simp [hne]

/-- Under SUPPRESS an `OK` writes no entry and releases the reservation (R33). -/
theorem endOne_suppressed {s : State} {c : Cmd} (hc : findCmd s c.id = some c) (hs : flagSet c.hdr 2 = true) (d : Nat) :
    (endOne s c.id .ok d).host = s.host ∧
      (getOutfall (endOne s c.id .ok d) c.inlet).reserved = (getOutfall s c.inlet).reserved - 1 := by
  rw [endOne_eq hc, moveOn_host, getOutfall_moveOn]
  simp [hs]

/-- Without it, or with another status, an entry is written and the tail moves on (R32). -/
theorem endOne_written {s : State} {c : Cmd} {st : Status} (hc : findCmd s c.id = some c)
    (hs : st ≠ .ok ∨ flagSet c.hdr 2 = false) (d : Nat) : (getOutfall (endOne s c.id st d) c.inlet).tail =
      BitVec.ofNat 16 (((getOutfall s c.inlet).tail.toNat + 1) % 2 ^ (getOutfall s c.inlet).sizeLog2.toNat) := by
  have written : ¬(decide (st = .ok) && flagSet c.hdr 2) = true := by
    rcases hs with h | h <;> simp [h]
  rw [endOne_eq hc, getOutfall_moveOn, if_neg written, writeEntry_tail, getOutfall_leaveFlight]

end Sys2Proof.Machine

open Sys2Proof Sys2Proof.Machine

/-- Settles O5: a fetch alone adds a command, below both limits, and every other row and all that follows at once only lets
commands stay or end. -/
theorem stepKeepsTheLimitsOfCommandsInFlight : Obligations.StepKeepsTheLimitsOfCommandsInFlight := by
  unfold Obligations.StepKeepsTheLimitsOfCommandsInFlight
  refine ⟨fun s t => flightOk_step, fetchSlot_keys, fun c s t hc h => ((exec_keeps hc).next t h).flight, ?_, ?_⟩
  · intro s c st d hc
    refine ⟨findCmd_endOne_self hc st d, fun id => findCmd_endOne_ne hc st d, ?_, fun hs => endOne_written hc hs d⟩
    rintro ⟨rfl, hs⟩
    exact endOne_suppressed hc hs d
  · intro s i full
    have closed := wantsFetch_full full
    exact ⟨closed, fun slot => if_pos (by rw [closed]; rfl)⟩

end

section
/-!
SUPPORT. Every row, COMMAND_FETCH among them, leaves the queue alone and keeps device memory canonical.
-/
namespace Sys2Proof.Machine

@[simp] theorem leaveReady_pending (s : State) : (leaveReady s).pending = s.pending := by
  unfold leaveReady
  split <;> simp

@[simp] theorem leaveReady_mem (s : State) : (leaveReady s).mem = s.mem := by
  unfold leaveReady
  split <;> simp

theorem fetchSlot_pending (s : State) (i : Nat) (slot : List Byte) : (fetchSlot s i slot).pending = s.pending := by
  simp [fetchSlot]

theorem fetchSlot_mem (s : State) (i : Nat) (slot : List Byte) : (fetchSlot s i slot).mem = s.mem := by
  simp [fetchSlot]

theorem exec_pending {c : Instr} {s t : State} (h : exec c s = .next t) : t.pending = s.pending := by
  by_cases hc : ∃ i slot, c = .commandFetch i slot
  · obtain ⟨i, slot, rfl⟩ := hc
    rcases execCommandFetch_cases h with same | ⟨_, added⟩
    · exact same.queue
    · exact added.queue.trans (fetchSlot_pending s _ _)
  · exact ((exec_keeps (fun i slot e => hc ⟨i, slot, e⟩)).next t h).queue

theorem exec_canonical {c : Instr} {s t : State} (hs : s.mem.wf = true) (h : exec c s = .next t) : t.mem.wf = true := by
  by_cases hc : ∃ i slot, c = .commandFetch i slot
  · obtain ⟨i, slot, rfl⟩ := hc
    rcases execCommandFetch_cases h with same | ⟨_, added⟩
    · exact same.canonical hs
    · exact added.canonical (by rw [fetchSlot_mem]; exact hs)
  · exact ((exec_keeps (fun i slot e => hc ⟨i, slot, e⟩)).next t h).canonical hs

theorem step_canonical {s t : State} (hs : s.mem.wf = true) (h : step s = .next t) : t.mem.wf = true := by
  unfold step at h
  split at h
  · cases h; exact (settle_keeps (advance_keeps 1 .rfl)).canonical hs
  · next c rest _ => exact exec_canonical (s := { s with pending := rest }) hs h

end Sys2Proof.Machine

open Sys2Proof Sys2Proof.Machine

/-- Settles O4: time and every row keep memory canonical. -/
theorem stepKeepsMemoryCanonical : Obligations.StepKeepsMemoryCanonical := fun _ _ => step_canonical

/-- Settles O6: neither a fetch nor any other row touches the queue. -/
theorem execLeavesTheQueueAlone : Obligations.ExecLeavesTheQueueAlone := fun _ _ _ => exec_pending

end

section
/-!
SUPPORT. The host's controls of an inlet and of the device: Table 2.5c in cases, QUIESCE and the wake trigger by device state.
-/
namespace Sys2Proof.Machine

/-- A host access that only changes the state: its change, and what follows. -/
theorem host_next {s : State} (h : hostUp s = true) (f : State → State) :
    host s (fun s => .next (f s)) = .next (settle (f s)) := host_up h _

/-! ## INLET_CTL -/

/-- A write to INLET_CTL: the fields of Table 2.11, then ENABLE, then RESUME. -/
theorem inletCtl_eq (s : State) (i : Nat) (v : W32) :
    inletCtl s i v =
      (let t := enableEffect (putInlet s i (ctlFields s i v)) i (v.getLsbD 0)
       if v.getLsbD 5 then resumeInlet t i else t) := by
  have refusal : (if enableTaken s i (v.getLsbD 0) then v.getLsbD 0 else (getInlet s i).enable) =
      (ctlFields s i v).enable := by
    unfold ctlFields enableTaken
    generalize v.getLsbD 0 = en
    cases en <;> cases hs : (getInlet s i).state <;> cases hm : mayOpen s <;> simp [hs]
  simp only [inletCtl, refusal]
  rfl

theorem exec_enableWrite {s : State} (h : hostUp s = true) (i : Fin 64) (v : W32) :
    exec (.enableWrite i v) s = .next (settle (inletCtl s i.val v)) := host_next h (inletCtl · i.val v)

theorem exec_resume {s : State} (h : hostUp s = true) (i : Fin 64) :
    exec (.resume i) s = .next (settle (resumeInlet s i.val)) := host_next h (resumeInlet · i.val)

section
variable {s : State} {i : Nat}

theorem enableEffect_opens (hc : (getInlet s i).state = .closed) (hm : mayOpen s = true) :
    enableEffect s i true = openInlet s i := by simp [enableEffect, hc, hm]

theorem enableEffect_refuses (hr : (getInlet s i).state = .closed ∧ mayOpen s = false ∨ (getInlet s i).state = .draining) :
    enableEffect s i true = setInletFlag s i .refused := by
  rcases hr with ⟨hc, hm⟩ | hd
  · simp [enableEffect, hc, hm]
  · simp [enableEffect, hd]

theorem enableEffect_idle (h : (getInlet s i).state = .closed ∨ (getInlet s i).state = .draining) :
    enableEffect s i false = s := by
  rcases h with h | h <;> simp [enableEffect, h]

theorem enableEffect_running_true (h : (getInlet s i).state = .open ∨ (getInlet s i).state = .halted) :
    enableEffect s i true = s := by
  rcases h with h | h <;> simp [enableEffect, h]

theorem enableEffect_running_false (h : (getInlet s i).state = .open ∨ (getInlet s i).state = .halted) :
    enableEffect s i false =
      putInlet s i { getInlet s i with state := if inFlight s i = 0 then .closed else .draining } := by
  rcases h with h | h <;> simp [enableEffect, h]

theorem resumeInlet_halted (h : (getInlet s i).state = .halted) (hf : s.dev.state ≠ .fault) :
    resumeInlet s i = putInlet s i { getInlet s i with state := .open } := by simp [resumeInlet, h, hf]

theorem resumeInlet_idle (h : (getInlet s i).state ≠ .halted ∨ s.dev.state = .fault) : resumeInlet s i = s := by
  rcases h with h | h <;> simp [resumeInlet, h]

end

/-! ## DEV_CTL -/

@[simp] theorem setDevState_state (s : State) (st : DevState) : (setDevState s st).dev.state = st := by
  unfold setDevState
  split
  · assumption
  · simp

/-- A change of state sets STATE_CHANGED and counts it (R48). -/
theorem setDevState_counts {s : State} {st : DevState} (h : s.dev.state ≠ st) :
    (setDevState s st).dev.stateChanged = true ∧
      (setDevState s st).dev.stateChangedCount = s.dev.stateChangedCount + 1 := by
  simp [setDevState, h]

@[simp] theorem setDevState_quiesce (s : State) (st : DevState) : (setDevState s st).dev.quiesce = s.dev.quiesce := by
  unfold setDevState
  split <;> simp

theorem writeQuiesce_ready {s : State} (h : s.dev.state = .ready) (q : Bool) :
    writeQuiesce s q = { s with dev := { s.dev with quiesce := q, quiesced := q } } := by simp [writeQuiesce, h]

/-- While commands are in flight the written bit gives the state, a change being flagged. -/
theorem writeQuiesce_running {s : State} (h : s.dev.state = .active ∨ s.dev.state = .quiescing) (q : Bool) :
    writeQuiesce s q =
      setDevState { s with dev := { s.dev with quiesce := q } } (if q then .quiescing else .active) := by
  rcases h with h | h <;> cases q <;> simp [writeQuiesce, h, setDevState]

theorem writeQuiesce_elsewhere {s : State} (hr : s.dev.state ≠ .ready) (ha : s.dev.state ≠ .active)
    (hq : s.dev.state ≠ .quiescing) (q : Bool) : writeQuiesce s q = { s with dev := { s.dev with quiesce := q } } := by
  cases hs : s.dev.state <;> simp_all [writeQuiesce]

end Sys2Proof.Machine

open Sys2Proof Sys2Proof.Machine

/-- Settles O8, by the cases of Table 2.5c. -/
theorem inletControlFollowsItsTransitions : Obligations.InletControlFollowsItsTransitions := by
  intro s i up
  refine ⟨fun v => ?_, exec_resume up i, fun hc hm => ?_, fun hc hm => enableEffect_refuses (.inl ⟨hc, hm⟩),
    fun hd => enableEffect_refuses (.inr hd), enableEffect_idle, fun h => ⟨enableEffect_running_true h, ?_⟩,
    fun h hf => ?_, resumeInlet_idle⟩
  · rw [exec_enableWrite up, inletCtl_eq]
  · rw [enableEffect_opens hc hm]
    simp [openInlet]
  · rw [enableEffect_running_false h, getInlet_putInlet_self]
  · rw [resumeInlet_halted h hf, getInlet_putInlet_self]

/-- Settles O9, by the device state. -/
theorem quiesceAndWakeFollowTheDeviceStates : Obligations.QuiesceAndWakeFollowTheDeviceStates := by
  intro s q up
  have quiesce : exec (.quiesceWrite q) s = .next (settle (writeQuiesce s q)) := host_next up (writeQuiesce · q)
  have wake : exec .wake s = .next (settle (wakeTrigger s)) := host_next up wakeTrigger
  rw [quiesce, wake]
  refine ⟨fun h => by rw [writeQuiesce_ready h], fun h => ⟨_, rfl, ?_⟩,
    fun hr ha hq => by rw [writeQuiesce_elsewhere hr ha hq], fun hl hw => by simp [wakeTrigger, hl, hw], fun h => ?_⟩
  · rw [writeQuiesce_running h]
    refine ⟨by simp, by simp, fun changed => ?_, by simp, by simp, by simp⟩
    rw [setDevState_state] at changed
    exact setDevState_counts (s := { s with dev := { s.dev with quiesce := q } }) changed.symm
  · rcases h with h | h <;> simp [wakeTrigger, h]

end

section
/-!
SUPPORT. W1C registers: what a set and a clear that coincide leave of each flag and counter; event counters.
-/
namespace Sys2Proof.Machine

/-- A flag with a set and a clear of its bit: the set wins. -/
theorem w1c_hwSet (f : Bool) (mask sets : W32) {n : Nat} (hn : n < 32) :
    w1c (hwSet f sets n) (mask &&& ~~~sets) n = (sets.getLsbD n || (f && !mask.getLsbD n)) := by
  rw [w1c, hwSet, BitVec.getLsbD_and, BitVec.getLsbD_not]
  cases f <;> cases sets.getLsbD n <;> cases mask.getLsbD n <;> simp [hn]

/-- A counter of TELEMETRY stays where it is full (R352). -/
theorem hwCountSat_eq (c m : W32) (n : Nat) :
    hwCountSat c m n = if m.getLsbD n && !decide (c = BitVec.allOnes 32) then c + 1 else c := by
  have full : c = BitVec.allOnes 32 ↔ c.toNat = 2 ^ 32 - 1 := by
    rw [← BitVec.toNat_inj, BitVec.toNat_allOnes]
  rw [hwCountSat, satTo]
  cases m.getLsbD n
  · rfl
  · by_cases hc : c = BitVec.allOnes 32
    · subst hc; decide
    · have := mt full.2 hc
      have := c.isLt
      rw [if_pos rfl, if_neg (by omega), if_pos (by simpa using hc)]
      apply BitVec.eq_of_toNat_eq
      simp [BitVec.toNat_add]

section
variable (p : Prop) [Decidable p] (s : State) (n : Nat)

@[simp] theorem dev_ite_raiseCause : (if p then raiseCause s n else s).dev = s.dev := by split <;> simp
@[simp] theorem inlets_ite_raiseCause : (if p then raiseCause s n else s).inlets = s.inlets := by split <;> simp
@[simp] theorem err_ite_raiseCause : (if p then raiseCause s n else s).err = s.err := by split <;> simp
@[simp] theorem cmds_ite_raiseCause : (if p then raiseCause s n else s).cmds = s.cmds := by split <;> simp
@[simp] theorem mem_ite_raiseCause : (if p then raiseCause s n else s).mem = s.mem := by split <;> simp
@[simp] theorem events_ite_raiseCause : (if p then raiseCause s n else s).events = s.events := by split <;> simp
@[simp] theorem cores_ite_raiseCause : (if p then raiseCause s n else s).cores = s.cores := by split <;> simp
@[simp] theorem sluices_ite_raiseCause : (if p then raiseCause s n else s).sluices = s.sluices := by split <;> simp
@[simp] theorem getInlet_ite_raiseCause (i : Nat) : getInlet (if p then raiseCause s n else s) i = getInlet s i := by
  rw [getInlet, inlets_ite_raiseCause]; rfl

end

@[simp] theorem getInlet_lowerCauses (s : State) (i : Nat) : getInlet (lowerCauses s) i = getInlet s i := rfl
@[simp] theorem getOutfall_lowerCauses (s : State) (i : Nat) : getOutfall (lowerCauses s) i = getOutfall s i := rfl
@[simp] theorem getPort_lowerCauses (s : State) (p : Nat) : getPort (lowerCauses s) p = getPort s p := rfl

/-- A set that coincides with a clear wins, and counts (R9). -/
theorem clearWithSets_flags (s : State) (r : FlagReg) (mask sets : W32) :
    flagsOf (clearWithSets s r mask sets) r = (flagsOf s r).map (fun f =>
      (f.1, sets.getLsbD f.1 || (f.2.1 && !mask.getLsbD f.1),
        if sets.getLsbD f.1 && !(decide (r = .teleFlags) && decide (f.2.2 = BitVec.allOnes 32)) then f.2.2 + 1
        else f.2.2)) := by
  cases r <;>
    simp [-BitVec.getLsbD_eq_getElem, clearWithSets, setFlags, clearFlags, flagsOf, w1c_hwSet, hwCount, hwCountSat_eq]

theorem setFlags_frame (s : State) (r : FlagReg) (m : W32) :
    (setFlags s r m).cmds = s.cmds ∧ (setFlags s r m).mem = s.mem ∧ (setFlags s r m).events = s.events ∧
      (setFlags s r m).cores = s.cores ∧ (setFlags s r m).sluices = s.sluices := by
  cases r <;> simp [setFlags]

theorem clearFlags_frame (s : State) (r : FlagReg) (m : W32) :
    (clearFlags s r m).cmds = s.cmds ∧ (clearFlags s r m).mem = s.mem ∧ (clearFlags s r m).events = s.events ∧
      (clearFlags s r m).cores = s.cores ∧ (clearFlags s r m).sluices = s.sluices := by
  cases r <;> exact ⟨rfl, rfl, rfl, rfl, rfl⟩

/-! ## Event counters -/

theorem eventVal_setEvent (s : State) {n : Nat} (hn : n ≠ 0) (v : W32) : eventVal (setEvent s n v) n = v := by
  simp [setEvent, eventVal, hn]

theorem eventVal_setEvent_ne (s : State) {n m : Nat} (h : m ≠ n) (v : W32) :
    eventVal (setEvent s n v) m = eventVal s m := by
  by_cases hn : n = 0
  · simp [setEvent, hn]
  · simp [setEvent, eventVal, hn, tabGet_tabSet_ne _ _ _ h]

theorem setEvent_zero (s : State) (v : W32) : setEvent s 0 v = s := rfl

/-- Increments add up. -/
theorem eventVal_addEvent (s : State) {e : Nat} (he : e ≠ 0) (n : Nat) :
    eventVal (addEvent s e n) e = eventVal s e + BitVec.ofNat 32 n := eventVal_setEvent s he _

end Sys2Proof.Machine

open Sys2Proof Sys2Proof.Machine

/-- Settles O10, register by register. -/
theorem coincidentSetWinsOverAClear : Obligations.CoincidentSetWinsOverAClear := by
  intro s r mask sets up
  obtain ⟨c1, m1, e1, k1, l1⟩ := setFlags_frame s r sets
  obtain ⟨c2, m2, e2, k2, l2⟩ := clearFlags_frame (setFlags s r sets) r (mask &&& ~~~sets)
  exact ⟨host_next up (clearWithSets · r mask sets), clearWithSets_flags s r mask sets, c2.trans c1, m2.trans m1,
    e2.trans e1, k2.trans k1, l2.trans l1⟩

/-- Settles O11: the host's value and every increment are added in the counter, and counter 0 takes none. -/
theorem hostWritePrecedesCoincidentIncrements : Obligations.HostWritePrecedesCoincidentIncrements := by
  intro s n v inc up
  refine ⟨host_next up (setEvent · n.toNat (v + inc)), fun hn => eventVal_setEvent s ?_ _,
    fun m hm => eventVal_setEvent_ne s hm _, setEvent_zero s, fun e a b he => ?_⟩
  · exact fun h => hn (BitVec.eq_of_toNat_eq h)
  · rw [eventVal_addEvent _ he, eventVal_addEvent _ he]

end

section
/-!
SUPPORT. What waiting for a window, accesses to LPDDR5X and a write of memory leave: the commands in flight by number, and every
register but the error log. The aperture reaches memory through them.
-/
namespace Sys2Proof.Machine

/-! ## The commands in flight, by number -/

theorem modCmd_ids (s : State) (id : CmdId) {f : Cmd → Cmd} (hf : ∀ c, (f c).id = c.id) :
    (modCmd s id f).cmds.map (·.id) = s.cmds.map (·.id) := by
  rw [modCmd, List.map_map]
  refine List.map_congr_left fun c _ => ?_
  simp only [Function.comp_apply]
  split
  · exact hf c
  · rfl

theorem foldl_ids {α : Type} {f : State → α → State} (hf : ∀ s a, (f s a).cmds.map (·.id) = s.cmds.map (·.id))
    (l : List α) (s : State) : (l.foldl f s).cmds.map (·.id) = s.cmds.map (·.id) :=
  foldl_field (fun s => s.cmds.map (·.id)) f hf l s

theorem weirServe_ids (s : State) : (weirServe s).cmds.map (·.id) = s.cmds.map (·.id) := by
  unfold weirServe
  split
  · rfl
  · rw [(foldl_sends (fun s p => transmit_sends s p) _ _).cmds]
    exact foldl_ids (fun s w => by exact modCmd_ids (applyWeir s w.2.2) w.1 fun _ => rfl) _ _

theorem ddrIssue_ids (k : DdrClass) (u : Bool) (f : Nat) (s : State) (m : Nat) :
    (ddrIssue k u f s m).cmds.map (·.id) = s.cmds.map (·.id) := by
  induction f generalizing s m with
  | zero => rfl
  | succ f ih =>
    unfold ddrIssue
    split
    · rfl
    · split
      · exact ih _ _
      · split
        · exact ih _ _
        · split
          · exact ih _ _
          · exact (ih _ _).trans (weirServe_ids _)

theorem ddrTake_ids (s : State) (k : DdrClass) (u : Bool) (a n : Nat) :
    (ddrTake s k u a n).cmds.map (·.id) = s.cmds.map (·.id) := by
  refine (ddrIssue_ids k u _ _ _).trans ?_
  split
  · unfold earnDue
    split <;> rfl
  · rfl

/-! ## A write of memory -/

/-- A write of memory keeps every reading that neither memory nor a record of the log changes. -/
theorem writeMem_field {β : Type} (f : State → β) (hm : ∀ s m, f { s with mem := m } = f s)
    (hl : ∀ s a b c d e g i j, f (logFault s a b c d e g i j) = f s) (s : State) (a : Nat) (b : List Byte) :
    f (writeMem s a b) = f s := by
  unfold writeMem
  split
  · exact hm s _
  · exact (foldl_logFault_field f hl _ _ _ _ _).trans (hm s _)

@[simp] theorem writeMem_cmds (s : State) (a : Nat) (b : List Byte) : (writeMem s a b).cmds = s.cmds :=
  writeMem_field (·.cmds) (fun _ _ => rfl) (by simp) s a b
@[simp] theorem writeMem_events (s : State) (a : Nat) (b : List Byte) : (writeMem s a b).events = s.events :=
  writeMem_field (·.events) (fun _ _ => rfl) (by simp) s a b

/-! ## The aperture -/

/-- A write through the aperture lands where a command may write and no array command holds the slot. -/
theorem apWrite_lands {s : State} {a : Nat} {data : List Byte} (hn : 0 < data.length)
    (ok : rangeOk a data.length = true) (free : heldRange s a data.length = false) :
    apWrite s a data = .next (writeMem (ddrTake s .remote false a data.length) a data) := by
  obtain ⟨k, hk⟩ := (canon_range ok).1 0 hn
  have view := isAcc_of_canon hk
  simp only [Nat.add_zero] at view
  simp [apWrite, view, ok, free]

theorem apWrite_view {s : State} {a : Nat} {data : List Byte} (view : isAcc a = true)
    (ok : rangeRead a data.length = true) : apWrite s a data = .next s := by simp [apWrite, view, ok]

theorem apWrite_stops {s : State} {a : Nat} {data : List Byte} (view : isAcc a = false)
    (bad : rangeOk a data.length = false ∨ heldRange s a data.length = true) :
    apWrite s a data = .fault (.badAddress a) := by
  rcases bad with h | h <;> simp [apWrite, view, h]

/-- What a read through the aperture leaves where it meets no error. -/
theorem apRead_clean {s : State} {a n : Nat} (ok : rangeRead a n = true) (good : rangeBad s a n = false)
    (flawless : s.ap.flaws.any ((granules a n).map badKey).contains = false) :
    ∃ t, apRead s a n = .next t ∧ t.ap.read = { data := readMem s a n } ∧ t.mem = s.mem ∧ t.events = s.events := by
  simp only [apRead, ok, rangeBad_ddrTake, good, ddrTake_ap, flawless, Bool.not_true, Bool.false_eq_true, if_false,
    Bool.or_self]
  refine ⟨_, rfl, ?_⟩
  split <;> simp

/-- What it leaves where it meets one: poisoned data and a record. -/
theorem apRead_poisoned {s : State} {a n : Nat} (ok : rangeRead a n = true)
    (bad : rangeBad s a n = true ∨ s.ap.flaws.any ((granules a n).map badKey).contains = true) :
    ∃ t, apRead s a n = .next t ∧ t.ap.read.poisoned = true ∧ t.err.seq = s.err.seq + 1 ∧ t.events = s.events ∧
      t.mem = s.mem := by
  have meets : (rangeBad s a n || s.ap.flaws.any ((granules a n).map badKey).contains) = true := by
    simpa only [Bool.or_eq_true] using bad
  simp only [apRead, ok, rangeBad_ddrTake, ddrTake_ap, meets, Bool.not_true, Bool.false_eq_true, if_false, if_true]
  exact ⟨_, rfl, by simp [logFault, writeLog]⟩

end Sys2Proof.Machine

open Sys2Proof Sys2Proof.Machine

/-- Settles O13, from what one write and one read through the aperture do. -/
theorem apertureReachesBasePlusOffset : Obligations.ApertureReachesBasePlusOffset := by
  intro s off up a
  have write (data : List Byte) : exec (.apertureWrite off data) s = settled (apWrite s a data) := host_up up (fun s => apWrite s (apAddr s off) data)
  have read (n : Nat) : exec (.apertureRead off n) s = settled (apRead s a n) := host_up up (fun s => apRead s (apAddr s off) n)
  refine ⟨rfl, fun data hn ok free => ⟨_, by rw [write, apWrite_lands hn ok free]; rfl,
      fun k hk => readByte_writeMem_range ok hk, fun b hb => ?_, ?_, by simp⟩,
    fun data view ok => by rw [write, apWrite_view view ok]; rfl,
    fun data view bad => by rw [write, apWrite_stops view bad]; rfl, fun n _ ok good flawless => ?_, fun n _ ok bad => ?_⟩
  · rw [readByte_writeMem_ne hb, readByte_ddrTake]
  · rw [writeMem_cmds, ddrTake_ids]
  · obtain ⟨t, ht, rest⟩ := apRead_clean ok good flawless
    exact ⟨t, by rw [read, ht]; rfl, rest⟩
  · obtain ⟨t, ht, rest⟩ := apRead_poisoned ok bad
    exact ⟨t, by rw [read, ht]; rfl, rest⟩

end

section
/-!
SUPPORT. Lengths of digests and of the fields of an attestation report; what a mailbox request of each operation leaves.
-/
namespace Sys2Proof.Machine

/-! ## Lengths -/

@[simp] theorem length_leBytes (n v : Nat) : (leBytes n v).length = n := by
  induction n generalizing v with
  | zero => rfl
  | succ n ih => simp [leBytes, ih]

@[simp] theorem length_fit (n : Nat) (b : List Byte) : (fit n b).length = n := by simp [fit]

theorem fit_of_length {n : Nat} {b : List Byte} (h : b.length = n) : fit n b = b := by
  subst h
  exact List.take_left' rfl

@[simp] theorem length_lanesOf (f : Nat → Nat → W64) : (lanesOf f).length = 25 := by simp [lanesOf]

@[simp] theorem length_permute (a : List W64) : (permute a).length = 25 := by
  rw [permute, show List.range 24 = List.range 23 ++ [23] from List.range_succ, List.foldl_append]
  simp only [List.foldl_cons, List.foldl_nil, stepChiIota, length_lanesOf]

theorem length_sponge (rate n : Nat) (b : List Byte) {a : List W64} (ha : a.length = 25) :
    (sponge rate n b a).length = 25 := by
  induction n generalizing b a with
  | zero => exact ha
  | succ n ih => exact ih _ (length_permute _)

theorem length_lanes (a : List W64) : (a.flatMap (fun w => leBytes 8 w.toNat)).length = 8 * a.length := by
  induction a with
  | nil => rfl
  | cons w a ih => rw [List.flatMap_cons, List.length_append, length_leBytes, ih, List.length_cons]; omega

/-- A digest is 64 bytes: one block of the sponge gives them. -/
@[simp] theorem length_digest64 (m : List Byte) : (digest64 m).length = 64 := by
  show (List.take 64 (List.take 136 _ ++ [])).length = 64
  rw [List.append_nil, List.length_take, List.length_take, length_lanes, length_sponge _ _ _ (length_lanesOf _)]
  rfl

@[simp] theorem length_reportEntry (kind value : Nat) (d : List Byte) : (reportEntry kind value d).length = 16 + d.length := by
  simp only [reportEntry, List.length_append, length_leBytes]

/-- The signed bytes of a report fill 2,656 bytes (Table 15.7). -/
theorem length_reportBody {s : State} (h : s.sec.debugDigest.length = 64) (nonce : List Byte) :
    (reportBody s nonce).length = 2656 := by
  unfold reportBody
  cases s.sec.bootOwner <;>
    simp only [List.length_append, length_leBytes, length_fit, length_reportEntry, length_digest64, h,
      List.length_replicate]

/-- What stands in a report before the nonce. -/
def reportHead (s : State) : List Byte :=
  leBytes 2 1 ++ leBytes 2 8 ++ leBytes 2 s.rcd.chipId.toNat ++ leBytes 1 s.dev.state.code ++
    leBytes 1 (bit01 s.sec.fallback + 2 * bit01 s.warden.ownerKey.isSome + 4 * bit01 (0 < s.sec.debugLevel)) ++
    leBytes 8 s.tide.count.toNat ++ leBytes 8 s.warden.bootCount ++ leBytes 8 0

theorem length_reportHead (s : State) : (reportHead s).length = 32 := by
  simp only [reportHead, List.length_append, length_leBytes]

theorem reportBody_head (s : State) (nonce : List Byte) :
    ∃ rest, reportBody s nonce = reportHead s ++ (fit 32 nonce ++ rest) := by
  simp only [reportBody, reportHead, List.append_assoc]
  exact ⟨_, rfl⟩

/-- The nonce stands in a report at offset 32. -/
theorem slice_report_nonce (s : State) {nonce : List Byte} (h : nonce.length = 32) : slice (report s nonce) 32 32 = nonce := by
  obtain ⟨rest, hb⟩ := reportBody_head s nonce
  rw [report, hb, fit_of_length h, slice, List.append_assoc, List.append_assoc, List.append_assoc,
    List.drop_left' (length_reportHead s), List.take_left' h]

theorem slice_report_body {s : State} (h : s.sec.debugDigest.length = 64) (nonce : List Byte) :
    slice (report s nonce) 0 2656 = reportBody s nonce := by
  rw [slice, List.drop_zero, report, List.append_assoc]
  exact List.take_left' (length_reportBody h nonce)

/-! ## The mailbox -/

/-- The state that a host's request leaves in the request registers before it runs. -/
def mailboxFilled (s : State) (op : Nat) (req : List Byte) : State :=
  { s with sec := { s.sec with
      req := (req.zipIdx).foldl (fun t p => tabSet t p.2 p.1) s.sec.req
      reqBytes := BitVec.ofNat 16 req.length, op := BitVec.ofNat 8 op } }

section
variable {s : State} {op : Nat} {req : List Byte}

theorem mailboxHost_eq (up : hostUp s = true) : mailboxHost s op req =
    (match mailboxDo (mailboxFilled s op req) op req with
    | none => .fault .badMailbox
    | some r =>
      if s.sec.mbxState = 1 then .fault .badMailbox
      else if secBusy s then .next (mailboxWait
        { mailboxFilled s op req with sec := { (mailboxFilled s op req).sec with mbxState := 1 } } false op req)
      else .next (mailboxEnd r.2 r.1)) := by
  simp only [mailboxHost, up]
  rfl

/-- With nothing before it a request is answered at once. -/
theorem mailboxHost_answers (up : hostUp s = true) (idle : s.sec.mbxState ≠ 1) (free : secBusy s = false)
    {r : List Byte × State} (hr : mailboxDo (mailboxFilled s op req) op req = some r) :
    mailboxHost s op req = .next (mailboxEnd r.2 r.1) := by
  rw [mailboxHost_eq up, hr]
  simp only [if_neg idle, free, Bool.false_eq_true, if_false]

/-- Behind others it waits. -/
theorem mailboxHost_waits (up : hostUp s = true) (idle : s.sec.mbxState ≠ 1) (busy : secBusy s = true)
    {r : List Byte × State} (hr : mailboxDo (mailboxFilled s op req) op req = some r) :
    ∃ t, mailboxHost s op req = .next t ∧ t.sec.mbxState = 1 ∧ t.sec.rsp = s.sec.rsp ∧
      t.sec.mbxWait = s.sec.mbxWait ++ [{ relay := false, op := op, req := req, before := s.clk.dispatched }] ∧
      t.sec.mbxDoneCount = s.sec.mbxDoneCount ∧ t.sec.challenge = s.sec.challenge := by
  rw [mailboxHost_eq up, hr]
  simp only [idle, busy, if_false, if_true]
  exact ⟨_, rfl, rfl, rfl, rfl, rfl, rfl⟩

theorem mailboxHost_stops (up : hostUp s = true) (running : s.sec.mbxState = 1) :
    mailboxHost s op req = .fault .badMailbox := by
  rw [mailboxHost_eq up]
  split
  · rfl
  · rw [if_pos running]

end

theorem mailboxDo_section (s : State) (b : Bool) :
    mailboxDo s 2 [if b then 1 else 0] = some (if b then s.sec.operator else s.sec.calibration, s) := by
  cases b <;> rfl

theorem mailboxDo_report (s : State) {nonce : List Byte} (h : nonce.length = 32) :
    mailboxDo s 4 nonce = some (report s nonce, s) := by simp [mailboxDo, h]

theorem report_mailboxFilled (s : State) (op : Nat) (req nonce : List Byte) :
    report (mailboxFilled s op req) nonce = report s nonce := by
  have body : reportBody (mailboxFilled s op req) nonce = reportBody s nonce := rfl
  rw [report, report, body]

end Sys2Proof.Machine

open Sys2Proof Sys2Proof.Machine

/-- Settles O17, operation by operation, from what an answered, a waiting and a stopped request leave. -/
theorem mailboxAnswersItsRequests : Obligations.MailboxAnswersItsRequests := by
  refine ⟨fun s up idle free => ⟨?_, fun b => ?_, ?_, fun nonce hn => ?_⟩,
    fun s up idle busy => ⟨?_, fun b => ?_, ?_, fun nonce hn => ?_⟩,
    fun s up running => ⟨mailboxHost_stops up running, fun _ => mailboxHost_stops up running,
      mailboxHost_stops up running, fun _ => mailboxHost_stops up running⟩⟩
  · exact ⟨_, mailboxHost_answers up idle free rfl, rfl, rfl, rfl, rfl, rfl⟩
  · exact ⟨_, mailboxHost_answers up idle free (mailboxDo_section _ b), rfl, rfl, rfl, rfl⟩
  · exact ⟨_, mailboxHost_answers up idle free rfl, rfl, rfl, rfl⟩
  · refine ⟨_, mailboxHost_answers up idle free (mailboxDo_report _ hn), rfl, report_mailboxFilled s _ _ _, ?_, fun hd => ?_,
      rfl, rfl, rfl, rfl⟩
    · exact slice_report_nonce _ hn
    · show slice (report _ _) 0 2656 = _
      rw [report_mailboxFilled, slice_report_body hd]
  · obtain ⟨t, ht, state, _, wait, count, challenge⟩ := mailboxHost_waits (op := 1) (req := []) up idle busy rfl
    exact ⟨t, ht, state, wait, count, challenge⟩
  · obtain ⟨t, ht, state, rsp, wait, _, _⟩ := mailboxHost_waits up idle busy (mailboxDo_section _ b)
    exact ⟨t, ht, state, rsp, wait⟩
  · obtain ⟨t, ht, state, rsp, wait, _, _⟩ := mailboxHost_waits (op := 3) (req := []) up idle busy rfl
    exact ⟨t, ht, state, rsp, wait⟩
  · obtain ⟨t, ht, state, rsp, wait, _, _⟩ := mailboxHost_waits up idle busy (mailboxDo_report _ hn)
    exact ⟨t, ht, state, rsp, wait⟩

end

section
/-!
SUPPORT. Bytes put in a table one after the other; MSI-X vectors; what a fetch takes and what a vector's signal leaves.
-/
namespace Sys2Proof.Machine

/-! ## Runs of bytes in a table -/

/-- A table after a run of entries: inside the run the run's, elsewhere as before. -/
theorem tabFind?_putRun {α : Type} (l : List α) (t : Tab α) (a n m : Nat) :
    tabFind? ((l.zipIdx n).foldl (fun t p => tabSet t (a + p.2) p.1) t) m =
      if a + n ≤ m ∧ m < a + n + l.length then l[m - (a + n)]? else tabFind? t m := by
  induction l generalizing t n with
  | nil => rw [if_neg (by simp only [List.length_nil]; omega)]; rfl
  | cons x l ih =>
    rw [List.zipIdx_cons, List.foldl_cons, ih, tabFind?_tabSet, List.length_cons]
    by_cases h : a + (n + 1) ≤ m ∧ m < a + (n + 1) + l.length
    · rw [if_pos h, if_pos (by omega), show m - (a + n) = (m - (a + (n + 1))) + 1 by omega]
      rfl
    · rw [if_neg h]
      by_cases e : m = a + n
      · subst e; rw [if_pos rfl, if_pos (by omega), Nat.sub_self]; rfl
      · rw [if_neg e, if_neg (by omega)]

theorem tabGet_putRun {α : Type} (l : List α) (t : Tab α) (d : α) (a k : Nat) (hk : k < l.length) :
    tabGet ((l.zipIdx).foldl (fun t p => tabSet t (a + p.2) p.1) t) d (a + k) = l.getD k d := by
  rw [tabGet, tabFind?_putRun, if_pos (by omega), Nat.add_zero, Nat.add_sub_cancel_left]
  rfl

theorem tabGet_putRun_ne {α : Type} (l : List α) (t : Tab α) (d : α) (a m : Nat) (hm : m < a ∨ a + l.length ≤ m) :
    tabGet ((l.zipIdx).foldl (fun t p => tabSet t (a + p.2) p.1) t) d m = tabGet t d m := by
  rw [tabGet, tabFind?_putRun, if_neg (by omega)]
  rfl

/-! ## MSI-X vectors -/

theorem getLsbD_onePlace (v : Nat) : (BitVec.ofNat 8 (2 ^ (v % 8))).getLsbD (v % 8) = true := by
  rw [BitVec.getLsbD_ofNat, Nat.testBit_two_pow_self]
  simp [Nat.mod_lt]

@[simp] theorem vectorPending_setPending (q : Irq) (v : Nat) (b : Bool) : vectorPending (setPending q v b) v = b := by
  rw [vectorPending, setPending, tabGet_tabSet_self]
  cases b
  · rw [if_neg (by simp), BitVec.getLsbD_and, BitVec.getLsbD_not, getLsbD_onePlace]
    simp
  · rw [if_pos rfl, BitVec.getLsbD_or, getLsbD_onePlace, Bool.or_true]

/-- A vector is sent, or pends where its entry masks it (R52). -/
theorem raiseVector_masked {s : State} {i : Nat} (h : vectorMasked s.irq (getOutfall s i).vector.toNat = true) :
    (raiseVector s i).msix = s.msix ∧ vectorPending (raiseVector s i).irq (getOutfall s i).vector.toNat = true := by
  simp [raiseVector, sendVector, h]

theorem raiseVector_open {s : State} {i : Nat} (h : vectorMasked s.irq (getOutfall s i).vector.toNat = false) :
    (raiseVector s i).msix = s.msix ++ [(getOutfall s i).vector.toNat] ∧ (raiseVector s i).irq = s.irq := by
  simp [raiseVector, sendVector, h]

theorem getOutfall_sendVector (s : State) (v i : Nat) : getOutfall (sendVector s v) i = getOutfall s i := by
  simp [getOutfall]

theorem raiseVector_oldest (s : State) (i : Nat) : (getOutfall (raiseVector s i) i).oldest = none := by
  rw [raiseVector, getOutfall_sendVector, getOutfall_putOutfall_self]

/-! ## A fetch -/

/-- Latching reads the event counters alone. -/
theorem latchCmd_congr {s t : State} (h : t.events = s.events) : latchCmd t = latchCmd s := by
  have met (id : Nat) (v : Nat) : waitMet t id v = waitMet s id v := by simp [waitMet, eventVal, h]
  funext c
  simp [latchCmd, met]

@[simp] theorem leaveReady_events (s : State) : (leaveReady s).events = s.events := by unfold leaveReady; split <;> simp
@[simp] theorem leaveReady_inlets (s : State) : (leaveReady s).inlets = s.inlets := by unfold leaveReady; split <;> simp
@[simp] theorem leaveReady_outfalls (s : State) : (leaveReady s).outfalls = s.outfalls := by unfold leaveReady; split <;> simp
@[simp] theorem leaveReady_clk (s : State) : (leaveReady s).clk = s.clk := by unfold leaveReady; split <;> simp
@[simp] theorem leaveReady_host (s : State) : (leaveReady s).host = s.host := by unfold leaveReady; split <;> simp
theorem leaveReady_state (s : State) : (leaveReady s).dev.state =
    (if s.dev.state = .ready then if s.dev.quiesce then .quiescing else .active else s.dev.state) := by
  unfold leaveReady; split <;> simp

section
variable (s : State) (i : Nat) (slot : List Byte)

theorem fetchSlot_cmds : (fetchSlot s i slot).cmds = (s.cmds ++ [cmdOf s i slot]).map (latchCmd s) := by
  unfold fetchSlot latch
  dsimp only
  rw [latchCmd_congr (s := s)]
  · simp
  · simp

theorem fetchSlot_reserved :
    (getOutfall (fetchSlot s i slot) i).reserved = (getOutfall s i).reserved + 1 := by
  simp [fetchSlot, getOutfall, putOutfall]

theorem fetchSlot_head : (getInlet (fetchSlot s i slot) i).head =
    BitVec.ofNat 16 (((getInlet s i).head.toNat + 1) % 2 ^ (getInlet s i).sizeLog2.toNat) := by
  simp [fetchSlot, getInlet, putInlet]

theorem fetchSlot_fetched : (fetchSlot s i slot).clk.fetched = s.clk.fetched + 1 := by
  simp [fetchSlot]

theorem fetchSlot_host {k : Nat} (hk : k < (slotRead slot).length) :
    tabGet (fetchSlot s i slot).host 0 (slotAddr (getInlet s i) + k) = (slotRead slot).getD k 0 := by
  simp only [fetchSlot, latch_host, leaveReady_host, putOutfall_host, putInlet_host, hostWrite]
  exact tabGet_putRun _ _ _ _ _ hk

theorem fetchSlot_state : (fetchSlot s i slot).dev.state =
    (if s.dev.state = .ready then if s.dev.quiesce then .quiescing else .active else s.dev.state) := by
  simp only [fetchSlot, latch_dev, leaveReady_state, putOutfall_dev, putInlet_dev, hostWrite_dev]

theorem stallFetch_fresh (h : (getOutfall s i).stalled = false) : stallFetch s i = putOutfall s i
    { getOutfall s i with stalled := true, fullStall := true, fullStallCount := (getOutfall s i).fullStallCount + 1 } := by
  simp [stallFetch, h]

end

section
variable {s : State} {i : Fin 64} {slot : List Byte}

theorem execCommandFetch_fetches (wants : wantsFetch s i.val = true) (room : 0 < outfallRoom (getOutfall s i.val))
    (served : pickInlet s ((List.range 64).filter (fetchable s)) s.clk.fetchTurn = some i.val)
    (good : headerOk slot = true) : execCommandFetch i slot s = .next (settle (fetchSlot s i.val slot)) := by
  simp [execCommandFetch, wants, Nat.pos_iff_ne_zero.mp room, served, good]

theorem execCommandFetch_stalls (wants : wantsFetch s i.val = true) (room : outfallRoom (getOutfall s i.val) = 0) :
    execCommandFetch i slot s = .next (stallFetch s i.val) := by
  simp [execCommandFetch, wants, room]

theorem execCommandFetch_idle (wants : wantsFetch s i.val = false) : execCommandFetch i slot s = .next s := by
  simp [execCommandFetch, wants]

theorem execCoalesceTimer_due {t : Nat} (oldest : (getOutfall s i.val).oldest = some t)
    (timed : (getOutfall s i.val).coalesceTime ≠ 0) : execCoalesceTimer i s =
      .next (settle (raiseVector (advanceTo s (t + us (getOutfall s i.val).coalesceTime.toNat)) i.val)) := by
  simp only [execCoalesceTimer, oldest, if_neg timed]
  rfl

theorem execCoalesceTimer_idle (h : (getOutfall s i.val).oldest = none ∨ (getOutfall s i.val).coalesceTime = 0) :
    execCoalesceTimer i s = .next s := by
  simp only [execCoalesceTimer]
  split
  · next t oldest =>
    rcases h with h | h
    · rw [oldest] at h; cases h
    · rw [if_pos h]
  · rfl

end

end Sys2Proof.Machine

open Sys2Proof Sys2Proof.Machine

/-- Settles O18, from what a fetch, a stall and the timer leave. -/
theorem fetchReservesAnEntryAndCoalescingSignals : Obligations.FetchReservesAnEntryAndCoalescingSignals := by
  intro s i slot
  refine ⟨fun wants room served good => ⟨execCommandFetch_fetches wants room served good, fetchSlot_cmds s _ _,
      fetchSlot_reserved s _ _, fetchSlot_head s _ _, fetchSlot_fetched s _ _, fetchSlot_mem s _ _,
      fun _ => fetchSlot_host s _ _, fetchSlot_state s _ _⟩,
    rfl, execCommandFetch_stalls, fun stalled => by simp [stallFetch, stalled], fun fresh => ?_, execCommandFetch_idle,
    fun t oldest timed => ⟨execCoalesceTimer_due oldest timed, ?_, raiseVector_oldest _ _⟩, execCoalesceTimer_idle⟩
  · rw [stallFetch_fresh s _ fresh]
    simp
  · dsimp only
    split
    · next masked => exact raiseVector_masked (s := advanceTo s _) masked
    · next clear => exact raiseVector_open (s := advanceTo s _) (Bool.eq_false_iff.mpr clear)

end

section
/-!
SUPPORT. The command that a dispatch row runs, found again after the dispatch; what the posting of a cause leaves.
-/
namespace Sys2Proof.Machine

/-! ## Commands in flight -/

theorem findCmd_modCmd (s : State) (id j : CmdId) {f : Cmd → Cmd} (hf : ∀ c, (f c).id = c.id) :
    findCmd (modCmd s id f) j = (findCmd s j).map (fun c => if c.id = id then f c else c) := by
  simp only [findCmd, modCmd, List.find?_map]
  congr 2
  funext c
  simp only [Function.comp_apply]
  split
  · rw [hf]
  · rfl

theorem id_of_findCmd {s : State} {id : CmdId} {c : Cmd} (h : findCmd s id = some c) : c.id = id := by
  simpa using List.find?_some h

theorem findCmd_modCmd_self {s : State} {id : CmdId} {c : Cmd} (h : findCmd s id = some c) {f : Cmd → Cmd}
    (hf : ∀ c, (f c).id = c.id) : findCmd (modCmd s id f) id = some (f c) := by
  rw [findCmd_modCmd s id id hf, h, Option.map_some, if_pos (id_of_findCmd h)]

theorem findCmd_setWork_self {s : State} {id : CmdId} {c : Cmd} (h : findCmd s id = some c) (w : Work) :
    findCmd (setWork s id w) id = some { c with work := w } := findCmd_modCmd_self h fun _ => rfl

/-- A command in flight is found by its number: the first of that number is. -/
theorem findCmd_of_mem {s : State} {c : Cmd} (h : c ∈ s.cmds) : ∃ d, findCmd s c.id = some d := by
  rw [← Option.isSome_iff_exists, findCmd_isSome]
  exact List.contains_iff_mem.mpr (List.mem_map_of_mem h)

/-! ## Dispatch -/

section
variable {s : State} {i : Fin 64} {sel : Cmd → Bool} {c : Cmd}

theorem runs_mem (h : runs s i sel c = true) : c ∈ s.cmds := by
  simp only [runs, Bool.and_eq_true, decide_eq_true_eq] at h
  obtain ⟨⟨h, _⟩, _⟩ := h
  unfold dispatchable at h
  split at h
  · cases h
  · next head =>
    split at h
    · cases h; exact List.mem_of_find?_eq_some head
    · cases h

/-- After its dispatch the command's work is its row's to give. -/
theorem findCmd_dispatchCmd (h : c ∈ s.cmds) : ∃ d, findCmd (dispatchCmd s c) c.id = some (beginCmd s d) := by
  obtain ⟨d, hd⟩ := findCmd_of_mem h
  refine ⟨d, ?_⟩
  unfold dispatchCmd
  dsimp only
  split
  · exact findCmd_modCmd_self hd fun _ => rfl
  · exact findCmd_modCmd_self hd fun _ => rfl

theorem dispatchCmd_map {β : Type} (f : Cmd → β) (hf : ∀ d, f (beginCmd s d) = f d) :
    (dispatchCmd s c).cmds.map f = s.cmds.map f := by
  unfold dispatchCmd modCmd
  simp only [List.map_map]
  split <;> exact List.map_congr_left fun d _ => by simp only [Function.comp_apply]; split <;> simp [hf]

end

/-- A row of well-formed commands, on the one that it runs: its effect, and what follows. -/
theorem settled_checked {s : State} {c : Cmd} {n : Nat} {good : Bool} (hn : c.hdr.paramLen = n) (hg : good = true)
    (k : Out) : settled (checked (beginCmd s c) n good k) = settled k :=
  congrArg settled (checked_ok (c := beginCmd s c) hn hg k)

/-! ## Causes -/

/-- What posting a cause keeps: every reading that neither a record, nor a channel, nor the ending of a command changes. -/
theorem postCause_field {β : Type} (f : State → β)
    (hm : ∀ s id g, (∀ c, (g c : Cmd).id = c.id) → f (modCmd s id g) = f s)
    (hl : ∀ s a b c d e g i j, f (logFault s a b c d e g i j) = f s) (hc : ∀ s n x, f (putChannel s n x) = f s)
    (s : State) (id : CmdId) (k : Cause) : f (postCause s id k) = f s := by
  have sealed (s : State) (c : Cmd) : f (freeSealed s c k) = f s := by
    unfold freeSealed
    split
    · split
      · exact hc _ _ _
      · rfl
    · rfl
  have ended (s : State) (e : Ending) (log : State → Cmd → Nat → State) (hlog : ∀ s c n, f (log s c n) = f s) :
      f (postEnding s id e log) = f s := by
    unfold postEnding
    split
    · rfl
    · split
      · exact (hm _ _ _ fun _ => by rfl).trans (hlog _ _ _)
      · split <;> exact (hm _ _ _ fun _ => by rfl).trans (hlog _ _ _)
  unfold postCause
  split
  · rfl
  · exact (ended _ _ _ fun s _ _ => hl s _ _ _ _ _ _ _ _).trans (sealed _ _)

@[simp] theorem postCause_rcd (s : State) (id : CmdId) (k : Cause) : (postCause s id k).rcd = s.rcd :=
  postCause_field (·.rcd) (fun _ _ _ _ => rfl) (by simp) (fun _ _ _ => rfl) s id k

@[simp] theorem postCause_mem (s : State) (id : CmdId) (k : Cause) : (postCause s id k).mem = s.mem :=
  postCause_field (·.mem) (fun _ _ _ _ => rfl) (by simp) (fun _ _ _ => rfl) s id k

@[simp] theorem postCause_ids (s : State) (id : CmdId) (k : Cause) :
    (postCause s id k).cmds.map (·.id) = s.cmds.map (·.id) :=
  postCause_field (fun s => s.cmds.map (·.id)) (fun s id _ h => modCmd_ids s id h) (by simp) (fun _ _ _ => rfl) s id k

end Sys2Proof.Machine
end

section
/-!
SUPPORT. The control commands at their dispatch (Table 2.4a), the barrier and the launch, what ABORT names.
-/
namespace Sys2Proof.Machine

section
variable {s : State} {i : Fin 64} {c : Cmd}

/-! ## NOP to QUERY -/

theorem execNop_runs (h : runs s i (opSel 0x0001) c = true) (hn : c.hdr.paramLen = 0) :
    exec (.nop i) s = .next (settle (dispatchCmd s c)) := by
  show execNop i s = _
  rw [execNop, issue_runs h]
  exact settled_checked hn rfl _

theorem execEventSignal_runs (h : runs s i (opSel 0x0002) c = true) (hn : 0 < c.hdr.paramLen)
    (modes : (signalEntries c).all (fun e => e.2.1 ≤ 1) = true) :
    exec (.eventSignal i) s = .next (settle ((signalEntries c).foldl applySignal (dispatchCmd s c))) := by
  show execEventSignal i s = _
  rw [execEventSignal, issue_runs h]
  exact settled_checked rfl (Bool.and_eq_true_iff.mpr ⟨decide_eq_true hn, modes⟩) _

theorem waitEntries_dispatchCmd : waitEntries (dispatchCmd s c) (beginCmd s c) = waitEntries s c := by
  have met : waitMet (dispatchCmd s c) = waitMet s := by
    funext e n
    rw [waitMet, waitMet, eventVal, eventVal, dispatchCmd_events]
  rw [waitEntries, met]
  rfl

theorem execEventWait_runs (h : runs s i (opSel 0x0003) c = true) (hn : 0 < c.hdr.paramLen) :
    exec (.eventWait i) s = .next (settle (setWork (dispatchCmd s c) c.id (.waitEvents (waitEntries s c)))) := by
  rw [← waitEntries_dispatchCmd]
  show execEventWait i s = _
  rw [execEventWait, issue_runs h]
  exact settled_checked rfl (decide_eq_true hn) _

theorem execFence_runs (h : runs s i (opSel 0x0004) c = true) (hn : c.hdr.paramLen = 1) (hm : c.par 0 1 ≤ 1) :
    exec (.fence i) s = .next (settle (setWork (dispatchCmd s c) c.id (.fence (c.par 0 1 = 1)))) := by
  show execFence i s = _
  rw [execFence, issue_runs h]
  exact settled_checked hn (decide_eq_true hm) _

theorem execQuery_runs {r : Nat} (h : runs s i (opSel 0x0013) c = true) (hn : c.hdr.paramLen = 1) (hz : c.par 5 3 = 0)
    (hr : queryResult (dispatchCmd s c) (c.par 0 2) (c.par 2 2) (c.par 4 1) = some r) :
    exec (.query i) s = .next (settle (setWork (dispatchCmd s c) c.id (.done r))) := by
  show execQuery i s = _
  rw [execQuery, issue_runs h]
  rw [beginCmd_par, beginCmd_par, beginCmd_par, hr]
  exact settled_checked hn (decide_eq_true hz) _

@[simp] theorem applySignal_mem (s : State) (e : Nat × Nat × Nat) : (applySignal s e).mem = s.mem := by
  unfold applySignal
  split <;> simp

/-! ## DIKE and TIDE_LAUNCH -/

theorem groupThere_dispatchCmd (g : Nat) : groupThere (dispatchCmd s c) g = groupThere s g := by simp [groupThere]

/-- A barrier takes the next collective number of its group (R292, R318). -/
theorem execDike_runs (h : runs s i (opSel 0x0005) c = true) (hn : c.hdr.paramLen = 1) (hg : c.par 0 2 < 256)
    (there : groupThere s (c.par 0 2) = true) (hz : c.par 2 6 = 0) :
    exec (.dike i) s = .next (settle (setWork (takeSeq (dispatchCmd s c) (c.par 0 2)).2 c.id (.dike
      { group := c.par 0 2, seq := tabGet s.net.collSeq 0 (c.par 0 2), n := groupSize s (c.par 0 2),
        rank := groupRank s (c.par 0 2) }))) := by
  have size : groupSize (dispatchCmd s c) (c.par 0 2) = groupSize s (c.par 0 2) := by simp [groupSize, groupAt]
  have rank : groupRank (dispatchCmd s c) (c.par 0 2) = groupRank s (c.par 0 2) := by simp [groupRank, groupAt]
  have number : (takeSeq (dispatchCmd s c) (c.par 0 2)).1 = tabGet s.net.collSeq 0 (c.par 0 2) := by simp [takeSeq]
  show execDike i s = _
  rw [execDike, issue_runs h]
  refine (settled_checked hn (decide_eq_true hg) _).trans ?_
  rw [withGroup, beginCmd_par, groupThere_dispatchCmd, if_pos there]
  refine (settled_checked hn (decide_eq_true hz) _).trans ?_
  rw [settled_next, size, rank, number]
  rfl

/-- The count of a launch: rounded up to a reference edge under ALIGN (R317). -/
def launchCount (c : Cmd) : Nat := if bitOf (c.par 8 1) 0 then roundUp (c.par 0 8) 716800 else c.par 0 8

theorem execTideLaunch_runs (h : runs s i (opSel 0x0006) c = true) (hn : c.hdr.paramLen = 2)
    (tracks : s.tide.st = .tracking) (ahead : s.tide.count.toNat < launchCount c) (ha : c.par 8 1 ≤ 1)
    (hz : c.par 9 7 = 0) (fits : launchCount c < 2 ^ 64) :
    exec (.tideLaunch i) s = .next (settle (setWork (dispatchCmd s c) c.id (.launch (launchCount c)))) := by
  have inTime : ¬((dispatchCmd s c).tide.st != .tracking || launchCount c ≤ (dispatchCmd s c).tide.count.toNat) = true := by
    simp [tracks, ahead]
  show execTideLaunch i s = _
  rw [execTideLaunch, issue_runs h]
  refine (settled_checked hn rfl _).trans ((congrArg settled (if_neg inTime)).trans ?_)
  exact settled_checked hn (by simpa only [Bool.and_eq_true, decide_eq_true_eq] using ⟨⟨ha, hz⟩, fits⟩) _

theorem execTideLaunch_rejects (h : runs s i (opSel 0x0006) c = true) (hn : c.hdr.paramLen = 2)
    (late : s.tide.st ≠ .tracking ∨ launchCount c ≤ s.tide.count.toNat) :
    exec (.tideLaunch i) s = .next (settle (reject (dispatchCmd s c) c.id 0x06 s.tide.st.code 0)) := by
  have refused : ((dispatchCmd s c).tide.st != .tracking || launchCount c ≤ (dispatchCmd s c).tide.count.toNat) = true := by
    simpa using late
  show execTideLaunch i s = _
  rw [execTideLaunch, issue_runs h]
  refine (settled_checked hn rfl _).trans ((congrArg settled (if_pos refused)).trans ?_)
  rw [settled_next, dispatchCmd_tide]
  rfl

theorem execLaunchFire_fires {id : CmdId} {k : Cmd} {m : Nat} (hk : findCmd s id = some k) (hw : k.work = .launch m) :
    exec (.launchFire id) s = .next (settle (setWork (reachCount s m) id (.done m))) := by
  show execLaunchFire id s = _
  simp only [execLaunchFire, hk, hw, ok_eq]

theorem execDikeRelease_releases {id : CmdId} {k : Cmd} {w : DikeWork} {r : Nat} (hk : findCmd s id = some k)
    (hw : k.work = .dike w) (hr : w.release = some r) :
    exec (.dikeRelease id) s = .next (settle (setWork (reachCount s r) id (.done r))) := by
  show execDikeRelease id s = _
  simp only [execDikeRelease, hk, hw, hr, ok_eq]

end

/-- The clock is moved forward to where the estimate places the tick. -/
theorem reachCount_count {s : State} {m : Nat} (ahead : s.tide.count.toNat ≤ masterAt s m) (fits : masterAt s m < 2 ^ 64) :
    (reachCount s m).tide.count.toNat = masterAt s m := by
  simp only [reachCount, advance, BitVec.toNat_add, BitVec.toNat_ofNat]
  rw [Nat.mod_eq_of_lt (a := masterAt s m - _) (by omega), Nat.add_sub_cancel' ahead, Nat.mod_eq_of_lt fits]

/-- In TRACKING it is the first own count at or after the master's tick, by the offset in fortieths of a tick. -/
theorem masterAt_tracking {s : State} {m : Nat} (tracks : s.tide.st = .tracking) (pos : 0 ≤ 40 * (m : Int) + s.tide.offset) :
    40 * (m : Int) + s.tide.offset ≤ 40 * (masterAt s m : Int) ∧
      40 * (masterAt s m : Int) < 40 * (m : Int) + s.tide.offset + 40 := by
  rw [masterAt, if_pos tracks]
  omega

/-! ## ABORT -/

section
variable (s : State) (id : CmdId) (scope inlet tag own : Nat)

/-- An ABORT never names itself (R374). -/
theorem self_notMem_abortNames : id ∉ abortNames s id scope inlet tag own := by
  unfold abortNames
  split
  · simp only [Option.mem_toList, Option.map_eq_some_iff, not_exists, not_and]
    intro c hc
    have := List.mem_of_find?_eq_some hc
    simp_all
  · simp
  · simp

/-- Scope 1 names the other commands of the inlet. -/
theorem mem_abortNames_inlet {j : CmdId} (hj : j ≠ id) :
    j ∈ abortNames s id 1 inlet tag own ↔ ∃ c ∈ s.cmds, c.id = j ∧ c.inlet = inlet := by
  simp only [abortNames, List.mem_map, List.mem_filter, bne_iff_ne, ne_eq, decide_eq_true_eq]
  constructor
  · rintro ⟨c, ⟨⟨hc, _⟩, hi⟩, hid⟩
    exact ⟨c, hc, hid, hi⟩
  · rintro ⟨c, hc, hid, hi⟩
    exact ⟨c, ⟨⟨hc, hid ▸ hj⟩, hi⟩, hid⟩

/-- Scope 2 names every command of the other inlets. -/
theorem mem_abortNames_all {c : Cmd} (hc : c ∈ s.cmds) (hid : c.id ≠ id) (hi : c.inlet ≠ own) :
    c.id ∈ abortNames s id 2 inlet tag own := by
  simp only [abortNames, List.mem_map, List.mem_filter, bne_iff_ne, ne_eq]
  exact ⟨c, ⟨⟨hc, hid⟩, hi⟩, rfl⟩

end

/-- The cause of an ABORT names this chip, whatever it is posted against first. -/
theorem foldl_failCmd_localCause (l : List CmdId) (s : State) (code : CauseCode) (core arg : Nat) :
    l.foldl (fun s id => failCmd s id (localCause s code core arg)) s =
      l.foldl (fun u id => failCmd u id (localCause s code core arg)) s := by
  suffices h : ∀ u : State, u.rcd = s.rcd →
      l.foldl (fun s id => failCmd s id (localCause s code core arg)) u =
        l.foldl (fun u id => failCmd u id (localCause s code core arg)) u from h s rfl
  induction l with
  | nil => exact fun _ _ => by rw [List.foldl_nil, List.foldl_nil]
  | cons id l ih =>
    intro u hu
    have same : localCause u code core arg = localCause s code core arg := by simp only [localCause, hu]
    rw [List.foldl_cons, List.foldl_cons, same]
    exact ih _ ((postCause_rcd u id _).trans hu)

/-- The commands in flight are the same, by number and inlet, after a dispatch. -/
theorem exists_dispatchCmd {s : State} {c : Cmd} (p : CmdId × Nat → Prop) :
    (∃ e ∈ (dispatchCmd s c).cmds, p (keyOf e)) ↔ ∃ e ∈ s.cmds, p (keyOf e) := by
  have keys := dispatchCmd_map (s := s) (c := c) keyOf fun _ => rfl
  have listed (u : State) : (∃ e ∈ u.cmds, p (keyOf e)) ↔ ∃ k ∈ u.cmds.map keyOf, p k := by
    constructor
    · rintro ⟨e, he, h⟩
      exact ⟨keyOf e, List.mem_map_of_mem he, h⟩
    · rintro ⟨k, hk, h⟩
      obtain ⟨e, he, rfl⟩ := List.mem_map.1 hk
      exact ⟨e, he, h⟩
  rw [listed, listed, keys]

theorem execAbort_runs {s : State} {i : Fin 64} {c : Cmd} (h : runs s i (opSel 0x0008) c = true)
    (hn : c.hdr.paramLen = 2) (hs : c.par 0 1 ≤ 2) (hz : c.par 1 1 = 0) (hi : c.par 0 1 = 2 ∨ c.par 2 2 < 64)
    (hz' : c.par 8 8 = 0) :
    exec (.abort i) s = .next (settle (
      let d := dispatchCmd s c
      let names := abortNames d c.id (c.par 0 1) (c.par 2 2) (c.par 4 4) c.inlet
      let h := abortHalts d (c.par 0 1) (c.par 2 2) c.inlet
      setWork (names.foldl (fun s id => failCmd s id (localCause h .abortCmd 0 c.inlet)) h) c.id
        (.abort names names.length))) := by
  have good : (decide (c.par 0 1 ≤ 2) && decide (c.par 1 1 = 0) && (decide (c.par 0 1 = 2) || decide (c.par 2 2 < 64)) &&
      decide (c.par 8 8 = 0)) = true := by simp [hs, hz, hi, hz']
  show execAbort i s = _
  rw [execAbort, issue_runs h]
  refine (settled_checked hn good _).trans ?_
  dsimp only
  rw [settled_next, foldl_failCmd_localCause]
  rfl

end Sys2Proof.Machine

open Sys2Proof Sys2Proof.Machine

/-- Settles O19, command by command. -/
theorem immediateCommandsActAtDispatch : Obligations.ImmediateCommandsActAtDispatch := by
  intro s i c d
  refine ⟨fun h hn => ⟨execNop_runs h hn, ?_, dispatchCmd_mem s c, dispatchCmd_events s c⟩,
    fun h hn modes => ⟨execEventSignal_runs h hn modes, ?_⟩, fun h hn => ⟨execEventWait_runs h hn, by simp [d]⟩,
    execFence_runs, fun r => execQuery_runs⟩
  · obtain ⟨e, he⟩ := findCmd_dispatchCmd (runs_mem h)
    simp [d, he, beginCmd]
  · rw [foldl_field (·.mem) _ applySignal_mem]
    exact dispatchCmd_mem s c

/-- Settles O20. -/
theorem barriersAndLaunchesKeepToTheTide : Obligations.BarriersAndLaunchesKeepToTheTide := by
  intro s i c d g n
  refine ⟨fun h hn hg there hz => ⟨execDike_runs h hn hg there hz, by simp [takeSeq, d]⟩,
    fun h hn tracks ahead ha hz fits => execTideLaunch_runs h hn tracks ahead ha hz fits,
    fun h hn late => execTideLaunch_rejects h hn late, fun id k m => execLaunchFire_fires,
    fun id k w r => execDikeRelease_releases, fun m => reachCount_count, fun m free => if_neg free,
    fun m => masterAt_tracking⟩

/-- Settles O21: an ABORT names other commands alone, by its scope. -/
theorem abortPostsAgainstEveryNamedCommand : Obligations.AbortPostsAgainstEveryNamedCommand := by
  intro s i c h hn hs hz hi hz' d names halted
  refine ⟨execAbort_runs h hn hs hz hi hz', self_notMem_abortNames _ _ _ _ _ _, fun all k hk other inlet => ?_,
    fun one k _ other => ?_⟩
  · obtain ⟨e, he, hkey⟩ := (exists_dispatchCmd fun x => x = keyOf k).mpr ⟨k, hk, rfl⟩
    obtain ⟨hid, hin⟩ := Prod.mk.inj hkey
    have named := mem_abortNames_all d c.id (c.par 2 2) (c.par 4 4) c.inlet he (hid ▸ other) (hin ▸ inlet)
    rw [hid] at named
    simpa only [names, all] using named
  · simp only [names, one]
    rw [mem_abortNames_inlet d c.id _ _ _ other]
    exact exists_dispatchCmd fun x => x.1 = k.id ∧ x.2 = c.par 2 2

end

section
/-!
SUPPORT. The step itself, the reset values, doorbells, groups, energy counters and core resets.
-/
namespace Sys2Proof.Machine

/-! ## Doorbells -/

theorem getInlet_wakeTrigger (s : State) (i : Nat) : getInlet (wakeTrigger s) i = getInlet s i := by
  unfold wakeTrigger; split <;> rfl

theorem ring_taken {s : State} {i : Nat} {v : W32} (ho : (getInlet s i).state = .open)
    (hr : v.toNat % 65536 < 2 ^ (getInlet s i).sizeLog2.toNat) :
    ring s i v = .next (putInlet (wakeTrigger s) i { getInlet s i with tail := BitVec.ofNat 16 (v.toNat % 65536) }) := by
  simp [ring, getInlet_wakeTrigger, ho, hr]

theorem ring_stops {s : State} {i : Nat} {v : W32} (ho : (getInlet s i).state = .open)
    (hr : ¬ v.toNat % 65536 < 2 ^ (getInlet s i).sizeLog2.toNat) : ring s i v = .fault (.badTail i) := by
  simp [ring, getInlet_wakeTrigger, ho, hr]

theorem ring_ignored {s : State} {i : Nat} {v : W32} (ho : (getInlet s i).state ≠ .open) :
    ring s i v = .next (setInletFlag (wakeTrigger s) i .ignored) := by simp [ring, getInlet_wakeTrigger, ho]

theorem exec_doorbell_zero {s : State} (h : hostUp s = true) (i : Fin 64) (v : W32) :
    exec (.doorbell i 0 v) s = settled (ring s i.val v) :=
  host_up h (fun s => if (0 : BitVec 12) = 0 then ring s i.val v else .next s)

theorem exec_doorbell_other {s : State} (h : hostUp s = true) (i : Fin 64) (v : W32) {off : BitVec 12} (ho : off ≠ 0) :
    exec (.doorbell i off v) s = .next (settle s) := by
  show execDoorbell i off v s = _
  rw [execDoorbell, host_up h, if_neg ho]; rfl

/-! ## Groups -/

section
variable {s : State} {g : Nat}

theorem groupCmd_refused (h : s.cmds.any (fun c => namesGroup c g) = true) (remove : Bool) :
    groupCmd s g remove = .next { s with net := { s.net with
      groupRefused := true, groupRefusedCount := s.net.groupRefusedCount + 1 } } := by rw [groupCmd, if_pos h]

theorem groupCmd_configures (h : s.cmds.any (fun c => namesGroup c g) = false)
    (ok : groupOk s s.net.groupAddr.toNat = true) :
    groupCmd s g false = .next { s with net := { s.net with groups := tabSet s.net.groups g s.net.groupAddr.toNat } } := by
  simp [groupCmd, h, ok]

theorem groupCmd_removes (h : s.cmds.any (fun c => namesGroup c g) = false) :
    groupCmd s g true = .next { s with net := { s.net with groups := tabErase s.net.groups g } } := by simp [groupCmd, h]

end

theorem exec_groupConfigure {s : State} (h : hostUp s = true) (g : Fin 256) :
    exec (.groupConfigure g) s = settled (groupCmd s g.val false) := host_up h (groupCmd · g.val false)

theorem exec_groupRemove {s : State} (h : hostUp s = true) (g : Fin 256) :
    exec (.groupRemove g) s = settled (groupCmd s g.val true) := host_up h (groupCmd · g.val true)

/-! ## Core resets -/

theorem sluicesOn_field {γ : Type} (F : State → γ) (h : ∀ s n k, F (putSluice s n k) = F s) (s : State) (core : Nat) :
    F (sluicesOn s core) = F s := foldl_field F _ (fun _ _ => h _ _ _) _ s

theorem brakeCore_field {γ : Type} (F : State → γ) (h : ∀ s c k, F (putPower s c k) = F s) (s : State) (c : Nat) :
    F (brakeCore s c) = F s := by
  unfold brakeCore; split
  · exact h _ _ _
  · rfl

/-- A reset that ran ends after a tick, with the core in service, its sluices back and its divider under the brake. -/
theorem endReset_runs {s : State} {core t : Nat} (hb : (getCore s core).busy = some t)
    (hs : (getCore s core).st = .beingReset) :
    endReset s core = timingEvent (brakeCore (sluicesOn (putCore (if s.clk.ticks ≤ t then advanceTo s (t + 1) else s) core
      { getCore s core with busy := none, st := .inService, outReason := .inService }) core) core) .coreMask 1 := by
  simp only [endReset]
  generalize getCore s core = k at hb hs ⊢
  obtain ⟨st, busy⟩ := k
  subst hb hs
  rfl

theorem endReset_field {γ : Type} (F : State → γ) (hc : ∀ s c k, F (putCore s c k) = F s) (ha : ∀ s n, F (advanceTo s n) = F s)
    (ht : ∀ s r n, F (timingEvent s r n) = F s) (hp : ∀ s c k, F (putPower s c k) = F s)
    (hl : ∀ s n k, F (putSluice s n k) = F s) {s : State} {core t : Nat} (hb : (getCore s core).busy = some t)
    (hs : (getCore s core).st = .beingReset) : F (endReset s core) = F s := by
  rw [endReset_runs hb hs, ht, brakeCore_field F hp, sluicesOn_field F hl, hc, apply_ite F, ha, ite_self]

theorem getCore_endReset {s : State} {core t : Nat} (hb : (getCore s core).busy = some t)
    (hs : (getCore s core).st = .beingReset) :
    getCore (endReset s core) core = { getCore s core with busy := none, st := .inService, outReason := .inService } := by
  rw [endReset_runs hb hs, getCore, timingEvent_cores, brakeCore_field State.cores (fun _ _ _ => rfl),
    sluicesOn_field State.cores (fun _ _ _ => rfl)]
  exact getCore_putCore_self _ _ _

theorem endReset_idle {s : State} {core : Nat} (hb : (getCore s core).busy = none) : endReset s core = s := by
  simp [endReset, hb]

end Sys2Proof.Machine

open Sys2Proof Sys2Proof.Machine

/-- Settles O1: both cases of the queue are the definition of the step. -/
theorem stepRunsTheFrontOfTheQueue : Obligations.StepRunsTheFrontOfTheQueue := by
  unfold Obligations.StepRunsTheFrontOfTheQueue
  refine ⟨fun c rest s hp => ?_, fun s hp => ?_⟩
  · rw [step, hp]
  · rw [step, hp]; rfl

/-- Settles O3: the tables are empty after a reset, so each entry reads as its default. -/
theorem resetLeavesTheStatedValues : Obligations.ResetLeavesTheStatedValues := by
  unfold Obligations.ResetLeavesTheStatedValues
  have limits : flightOk State.reset := ⟨Nat.zero_le _, fun _ => Nat.zero_le _⟩
  refine ⟨rfl, rfl, rfl, rfl, rfl, rfl, rfl, limits, fun _ => ⟨rfl, rfl, rfl, rfl⟩, fun e => ?_, fun _ => ⟨rfl, rfl⟩,
    fun _ => rfl, fun _ => rfl, fun _ => rfl, fun _ => rfl, fun _ => rfl, rfl, rfl, rfl, rfl, rfl, rfl, rfl, rfl⟩
  rw [eventVal]; exact ite_self _

/-- Settles O7: the cases of a doorbell at offset 0, by the inlet's state and the tail written, and the other offsets. -/
theorem doorbellWritesTheTailOfAnOpenInlet : Obligations.DoorbellWritesTheTailOfAnOpenInlet := by
  unfold Obligations.DoorbellWritesTheTailOfAnOpenInlet
  intro s i v up
  refine ⟨fun ho hr => ?_, fun ho hr => ?_, fun ho => ?_, fun off hoff => exec_doorbell_other up i v hoff⟩
  · rw [exec_doorbell_zero up, ring_taken ho hr]; rfl
  · rw [exec_doorbell_zero up, ring_stops ho hr]; rfl
  · rw [exec_doorbell_zero up, ring_ignored ho]; rfl

/-- Settles O14: a group command is refused while a command in flight names the group, and writes that group alone otherwise. -/
theorem groupCommandsSpareGroupsInUse : Obligations.GroupCommandsSpareGroupsInUse := by
  unfold Obligations.GroupCommandsSpareGroupsInUse
  intro s g up
  refine ⟨fun named => ⟨?_, ?_⟩, fun free => ⟨fun good => ?_, ?_⟩, fun h hne => ?_, tabFind?_tabErase_self _ _⟩
  · rw [exec_groupConfigure up, groupCmd_refused named]; rfl
  · rw [exec_groupRemove up, groupCmd_refused named]; rfl
  · rw [exec_groupConfigure up, groupCmd_configures free good]; rfl
  · rw [exec_groupRemove up, groupCmd_removes free]; rfl
  · rw [tabFind?_tabErase, if_neg hne]

/-- Settles O16: the clears are their register writes; a reset begins where none runs, and its end leaves the core in
service. -/
theorem clearsAndCoreResetsTakeEffect : Obligations.ClearsAndCoreResetsTakeEffect := by
  unfold Obligations.ClearsAndCoreResetsTakeEffect
  intro s
  refine ⟨fun up => ⟨fun k => host_next up (clearSlot · k.toNat), host_next up clearJobs, fun c idle => ?_, fun c busy => ?_⟩,
    fun c busy hst => ?_, fun c idle => ?_⟩
  · refine (host_next up (coreResetWrite · c.val)).trans ?_
    rw [coreResetWrite, if_neg (by simpa using idle)]
  · refine (host_next up (coreResetWrite · c.val)).trans ?_
    rw [coreResetWrite, if_pos busy]
  · obtain ⟨t, ht⟩ := Option.isSome_iff_exists.1 busy
    have core := getCore_endReset ht hst
    refine ⟨endReset s c.val, rfl, by rw [core], by simp [coreIn, core], ?_, ?_⟩
    · exact endReset_field State.mem (fun _ _ _ => rfl) (fun _ _ => rfl) timingEvent_mem (fun _ _ _ => rfl)
        (fun _ _ _ => rfl) ht hst
    · exact endReset_field State.cmds (fun _ _ _ => rfl) (fun _ _ => rfl) timingEvent_cmds (fun _ _ _ => rfl)
        (fun _ _ _ => rfl) ht hst
  · show ok (endReset s c.val) = _
    rw [endReset_idle idle]; rfl

end

section
/-!
SUPPORT. Transfers, windows and queue pairs at their dispatch.
-/
namespace Sys2Proof.Machine

section
variable {s : State} {i : Fin 64} {c : Cmd}

@[simp] theorem dispatchCmd_ticks (s : State) (c : Cmd) : (dispatchCmd s c).clk.ticks = s.clk.ticks := by
  unfold dispatchCmd; split <;> rfl

/-! ## Transfers -/

/-- What a transfer puts in place: its parts, and the ranges that it writes. -/
def partsOf (c : Cmd) (d : Desc) (fill : Option W64) (parts outs : List (Nat × Nat)) (k : Cmd) : Cmd :=
  { k with
    work := if parts.isEmpty then .done 0 else .xfer parts.length (parts.map (fun p =>
      { cmd := c.id, desc := d, lo := p.1, hi := p.2, pos := p.1, fill := fill, plain := true : SlChain })) 0
    outs := outs }

theorem startParts_eq (s t : State) (c : Cmd) (d : Desc) (fill : Option W64) (parts outs : List (Nat × Nat)) :
    startParts s (beginCmd t c) d fill parts outs = .next (modCmd s c.id (partsOf c d fill parts outs)) := by
  simp only [startParts, List.isEmpty_map, List.length_map]; rfl

theorem settled_transferCmd {mode : Option Nat} (hn : c.hdr.paramLen = 9) (hw : c.par 0 1 ≤ 16) (hz : c.par 1 7 = 0)
    (ok : (plainDesc c mode).ok = true) (hm : mode = none → (plainDesc c mode).mode ≤ 2) :
    settled (transferCmd (dispatchCmd s c) (beginCmd s c) mode) = .next (settle (modCmd (dispatchCmd s c) c.id
      (partsOf c (plainDesc c mode) none (descParts (plainDesc c mode) (c.par 0 1))
        (descOuts (dispatchCmd s c) (plainDesc c mode))))) := by
  have named : (mode.isSome || decide ((plainDesc c mode).mode ≤ 2)) = true := by
    cases mode with
    | some m => rfl
    | none => exact decide_eq_true (hm rfl)
  have good : (decide (c.par 0 1 ≤ 16) && decide (c.par 1 7 = 0) && (plainDesc c mode).ok &&
      (mode.isSome || decide ((plainDesc c mode).mode ≤ 2))) = true := by simp [hw, hz, ok, named]
  refine (settled_checked (s := s) (c := c) hn good _).trans ?_
  rw [startParts_eq]; rfl

theorem execCopy_runs (h : runs s i (opSel 0x0100) c = true) :
    exec (.copy i) s = settled (transferCmd (dispatchCmd s c) (beginCmd s c) none) := by
  show execCopy i s = _
  rw [execCopy, issue_runs h]

theorem execGatherRows_runs (h : runs s i (opSel 0x0106) c = true) :
    exec (.gatherRows i) s = settled (transferCmd (dispatchCmd s c) (beginCmd s c) (some 3)) := by
  show execGatherRows i s = _
  rw [execGatherRows, issue_runs h]

theorem execScatterRows_runs (h : runs s i (opSel 0x0107) c = true) :
    exec (.scatterRows i) s = settled (transferCmd (dispatchCmd s c) (beginCmd s c) (some 4)) := by
  show execScatterRows i s = _
  rw [execScatterRows, issue_runs h]

theorem execFill_runs (h : runs s i (opSel 0x0101) c = true) (hn : c.hdr.paramLen = 4) (ha : c.par 0 8 % 16 = 0)
    (hm : c.par 8 8 % 16 = 0) (hl : c.par 8 8 < 2 ^ 40) (hw : c.par 16 1 ≤ 16) (hz : c.par 17 7 = 0) :
    exec (.fill i) s = .next (settle (modCmd (dispatchCmd s c) c.id (partsOf c
      { descOf [] with dst := c.par 0 8, rowBytes := c.par 8 8, rows := 1 } (some (BitVec.ofNat 64 (c.par 24 8)))
      (partBounds (c.par 8 8) (ceilDiv (c.par 8 8) ((if c.par 16 1 = 0 then 16 else c.par 16 1) * 4096) * 4096)
        (if c.par 16 1 = 0 then 16 else c.par 16 1))
      (if c.par 8 8 = 0 then [] else [(c.par 0 8, c.par 8 8)])))) := by
  have good : (decide (c.par 0 8 % 16 = 0) && decide (c.par 8 8 % 16 = 0) && decide (c.par 8 8 < 2 ^ 40) &&
      decide (c.par 16 1 ≤ 16) && decide (c.par 17 7 = 0)) = true := by simp only [ha, hm, hl, hw, hz]; rfl
  show execFill i s = _
  rw [execFill, issue_runs h]
  refine (settled_checked hn good _).trans ?_
  rw [startParts_eq]; rfl

/-! ## Windows -/

/-- The generation after one: 0 is skipped (R286). -/
def nextGen (g : W16) : W16 := if g = 0xFFFF then 1 else g + 1

theorem nextGen_ne_zero (g : W16) : nextGen g ≠ 0 := by
  unfold nextGen; split
  · decide
  · bv_omega

theorem execWindowOpen_runs (h : runs s i (opSel 0x0300) c = true) (hn : c.hdr.paramLen = 3) (hw : c.par 0 2 < 4096)
    (closed : (getWindow s (c.par 0 2)).st = .closed) (hf : c.par 2 1 < 8) (hz : c.par 3 5 = 0)
    (hb : c.par 8 8 % 4096 = 0) (hm : c.par 16 8 % 4096 = 0) (hl : 4096 ≤ c.par 16 8) (hu : c.par 16 8 ≤ 2 ^ 38)
    (range : rangeWindow (c.par 8 8) (c.par 16 8) = true) :
    exec (.windowOpen i) s = .next (settle (setWork (putWindow (dispatchCmd s c) (c.par 0 2)
      { getWindow s (c.par 0 2) with
        st := .open, gen := nextGen (getWindow s (c.par 0 2)).gen, thl := bitOf (c.par 2 1) 0
        rdmaWrite := bitOf (c.par 2 1) 1, rdmaRead := bitOf (c.par 2 1) 2, base := c.par 8 8, bytes := c.par 16 8
        drainRefused := 0 }) c.id (.done (nextGen (getWindow s (c.par 0 2)).gen).toNat))) := by
  have good : (decide (c.par 2 1 < 8) && decide (c.par 3 5 = 0) && decide (c.par 8 8 % 4096 = 0) &&
      decide (c.par 16 8 % 4096 = 0) && decide (4096 ≤ c.par 16 8) && decide (c.par 16 8 ≤ 2 ^ 38)) = true := by
    simp only [hf, hz, hb, hm, hl, hu]; rfl
  show execWindowOpen i s = _
  rw [execWindowOpen, issue_runs h]
  refine (settled_checked hn (decide_eq_true hw) _).trans ?_
  rw [beginCmd_par, getWindow_dispatchCmd, closed]
  refine (settled_checked hn good _).trans ?_
  simp only [beginCmd_par, reaches_ok range]
  rfl

theorem execWindowClose_runs (h : runs s i (opSel 0x0301) c = true) (hn : c.hdr.paramLen = 1) (hw : c.par 0 2 < 4096)
    (opened : (getWindow s (c.par 0 2)).st = .open) (hz : c.par 2 6 = 0) :
    exec (.windowClose i) s = .next (settle (setWork (putWindow (dispatchCmd s c) (c.par 0 2)
      { getWindow s (c.par 0 2) with st := .draining, drainRefused := 0, drainFrom := s.clk.ticks })
      c.id (.windowClose (c.par 0 2)))) := by
  show execWindowClose i s = _
  rw [execWindowClose, issue_runs h]
  refine (settled_checked hn (decide_eq_true hw) _).trans ?_
  simp only [beginCmd_par, getWindow_dispatchCmd, opened, dispatchCmd_ticks]
  exact settled_checked hn (decide_eq_true hz) _

/-- A window that closes was draining, and memory stays. -/
theorem closeNext_closes {s t : State} (h : closeNext s = some t) :
    ∃ p ∈ s.net.windows, p.2.st = .draining ∧ t.mem = s.mem := by
  unfold closeNext at h
  split at h
  · cases h
  · next n x hf =>
    have found := List.find?_some hf
    simp only [Bool.and_eq_true, decide_eq_true_eq] at found
    cases h
    exact ⟨(n, x), List.mem_of_find?_eq_some hf, found.1.1, rfl⟩

/-! ## Queue pairs -/

theorem qpOf_dispatchCmd (s : State) (c : Cmd) : qpOf (dispatchCmd s c) (beginCmd s c) = qpOf s c := by
  simp [qpOf, macRate]

theorem execQpSetup_runs (h : runs s i (opSel 0x0308) c = true) (hn : c.hdr.paramLen = 12) (hq : c.par 0 2 < 16384)
    (hp : c.par 2 1 % 16 < 12) (free : (getQp s (c.par 0 2)).st = .free) (eth : isEth s (c.par 2 1 % 16) = true)
    (ok : qpOk s c = true) (range : rangeOk (c.par 64 8) (4 * 2 ^ c.par 72 1) = true) :
    exec (.qpSetup i) s = .next (settle (setWork (putQp (dispatchCmd s c) (c.par 0 2) (qpOf s c)) c.id (.done 0))) := by
  have good : (decide (c.par 0 2 < 16384) && decide (c.par 2 1 % 16 < 12)) = true := by simp [hq, hp]
  have values : qpOk (dispatchCmd s c) (beginCmd s c) = true := by
    rw [← ok]; simp only [qpOk, isEth, dispatchCmd_rcd]; rfl
  have port : isEth (dispatchCmd s c) (c.par 2 1 % 16) = true := by rw [← eth]; simp [isEth]
  show execQpSetup i s = _
  rw [execQpSetup, issue_runs h]
  refine (settled_checked hn good _).trans ?_
  simp only [beginCmd_par, getQp_dispatchCmd, free, port]
  refine (settled_checked hn values _).trans ?_
  rw [reaches_ok range, qpOf_dispatchCmd]
  rfl

theorem execQpTeardown_runs (h : runs s i (opSel 0x0309) c = true) (hn : c.hdr.paramLen = 1) (hq : c.par 0 2 < 16384)
    (used : (getQp s (c.par 0 2)).st ≠ .free) (hz : c.par 2 6 = 0) :
    exec (.qpTeardown i) s = .next (settle (setWork (tearDown (dispatchCmd s c) (c.par 0 2)) c.id (.done 0))) := by
  show execQpTeardown i s = _
  rw [execQpTeardown, issue_runs h]
  refine (settled_checked hn (decide_eq_true hq) _).trans ?_
  simp only [beginCmd_par, getQp_dispatchCmd, if_neg used]
  exact settled_checked hn (decide_eq_true hz) _

theorem pfcCheck_qps (s : State) (p : Nat) : (pfcCheck s p).qps = s.qps := by
  unfold pfcCheck; split
  · rfl
  · dsimp only; split <;> rfl

theorem pfcCheck_net (s : State) (p : Nat) : (pfcCheck s p).net = s.net := by
  unfold pfcCheck; split
  · rfl
  · dsimp only; split <;> rfl

theorem getQp_tearDown (s : State) (q : Nat) : getQp (tearDown s q) q = {} := by
  simp only [tearDown, getQp, pfcCheck_qps, putQp, tabGet_tabSet_self]

/-- No inbound request of a queue pair that is torn down is left. -/
theorem tearDown_inbound {s : State} {q r : Nat} {psn : BitVec 24} {ask : RoceAsk} (h : .roce r psn ask ∈ (tearDown s q).net.inbound) :
    r ≠ q := by
  simp only [tearDown, pfcCheck_net] at h
  simpa using (List.mem_filter.1 h).2

end

end Sys2Proof.Machine

open Sys2Proof Sys2Proof.Machine

/-- Settles O27: each of the four commands puts its parts in place, and changes nothing else of the machine. -/
theorem transfersAreCutIntoParts : Obligations.TransfersAreCutIntoParts := by
  unfold Obligations.TransfersAreCutIntoParts
  intro s i c
  refine ⟨fun h hn hw hz ok hm => ?_, fun h hn hw hz ok => ?_, fun h hn hw hz ok => ?_, execFill_runs, fun y f p o => ?_⟩
  · exact (execCopy_runs h).trans (settled_transferCmd hn hw hz ok (fun _ => hm))
  · exact (execGatherRows_runs h).trans (settled_transferCmd hn hw hz ok nofun)
  · exact (execScatterRows_runs h).trans (settled_transferCmd hn hw hz ok nofun)
  · exact dispatchCmd_mem s c

/-- Settles O44: a window opens with the generation after its last, and drains; what closes was draining. -/
theorem windowsOpenDrainAndClose : Obligations.WindowsOpenDrainAndClose := by
  unfold Obligations.WindowsOpenDrainAndClose
  intro s i c
  refine ⟨fun h hn hw closed hf hz hb hm hl hu range => ⟨?_, nextGen_ne_zero _, fun v hv => ?_⟩, execWindowClose_runs,
    fun t ht => ?_⟩
  · exact execWindowOpen_runs h hn hw closed hf hz hb hm hl hu range
  · exact (getWindow_putWindow_ne _ _ hv).trans (getWindow_dispatchCmd s c v)
  · obtain ⟨p, hp, draining, mem⟩ := closeNext_closes ht
    obtain ⟨v, hv, rfl⟩ := List.getElem_of_mem hp
    exact ⟨v, hv, by rw [List.getElem?_eq_getElem hv, Option.map_some, draining], mem⟩

/-- Settles O50: a set-up writes its queue pair alone; a teardown leaves the pair as it is when free, and drops its requests. -/
theorem queuePairsAreSetUpAndTornDown : Obligations.QueuePairsAreSetUpAndTornDown := by
  unfold Obligations.QueuePairsAreSetUpAndTornDown
  intro s i c
  refine ⟨fun h hn hq hp free eth ok range => ?_, fun h hn hq used hz => ?_⟩
  · have set := getQp_putQp_self (dispatchCmd s c) (c.par 0 2) (qpOf s c)
    refine ⟨execQpSetup_runs h hn hq hp free eth ok range, ?_, ?_, ?_, ?_, fun r hr => ?_⟩
    · exact congrArg Qp.st set
    · exact congrArg Qp.par set
    · exact congrArg Qp.psn set
    · exact congrArg Qp.rq set
    · exact (getQp_putQp_ne _ _ hr).trans (getQp_dispatchCmd s c r)
  · have torn := getQp_tearDown (dispatchCmd s c) (c.par 0 2)
    refine ⟨execQpTeardown_runs h hn hq used hz, ?_, ?_, fun r psn ask h => ?_⟩
    · rw [getQp_setWork, torn]
    · rw [getQp_setWork, torn]
    · rw [setWork_net] at h
      exact tearDown_inbound h

end

section
/-!
SUPPORT. Operations at the polders, and the times of the weir, of LPDDR5X and of the directory's clock.
-/
namespace Sys2Proof.Machine

/-! ## Commands after reads and writes -/

theorem countRerun_cmds (s : State) (own : Option Nat) (a : Nat) : (countRerun s own a).cmds = s.cmds := by
  unfold countRerun; split <;> rfl

theorem rerunAt_ids (s : State) (own : Option Nat) (id : CmdId) (tile a : Nat) :
    (rerunAt s own id tile a).cmds.map (·.id) = s.cmds.map (·.id) := by
  unfold rerunAt
  split
  · rfl
  · rw [countRerun_cmds]
    exact (modCmd_ids _ _ fun _ => by rfl).trans (by simp)

theorem takeReads_ids (s : State) (u : Bool) (l : List (Nat × Nat)) :
    (takeReads s u l).cmds.map (·.id) = s.cmds.map (·.id) := by
  exact foldl_ids (fun s r => ddrTake_ids s .read u r.1 r.2) l s

theorem afterReads_ids (s : State) (c : Cmd) (l : List (Nat × Nat × Nat)) :
    (afterReads s c l).cmds.map (·.id) = s.cmds.map (·.id) :=
  (takeReads_ids _ _ _).trans
    (rerunAll_eq (fun s => s.cmds.map (·.id)) (fun s id t a => rerunAt_ids s none id t a) _ _ _)

theorem findCmd_isSome_congr {s t : State} (h : t.cmds.map (·.id) = s.cmds.map (·.id)) (id : CmdId) :
    (findCmd t id).isSome = (findCmd s id).isSome := by rw [findCmd_isSome, findCmd_isSome, h]

theorem dispatchCmd_ids (s : State) (c : Cmd) : (dispatchCmd s c).cmds.map (·.id) = s.cmds.map (·.id) :=
  dispatchCmd_map _ fun _ => rfl

/-- The work of a command in flight, after a change that gives it that work. -/
theorem work_modCmd {s : State} {id : CmdId} (h : (findCmd s id).isSome = true) {f : Cmd → Cmd} (hf : ∀ c, (f c).id = c.id)
    {w : Work} (hw : ∀ c, (f c).work = w) : (findCmd (modCmd s id f) id).map (·.work) = some w := by
  obtain ⟨c, hc⟩ := Option.isSome_iff_exists.1 h
  rw [findCmd_modCmd_self hc hf, Option.map_some, hw]

/-! ## COMPARE_COUNT and COMPARE_SWAP -/

theorem length_leBytes_flatMap (n : Nat) (l : List Nat) : (l.flatMap (leBytes n)).length = n * l.length := by
  induction l with
  | nil => rfl
  | cons x l ih => rw [List.flatMap_cons, List.length_append, length_leBytes, ih, List.length_cons, Nat.mul_add_one, Nat.add_comm]

theorem length_ccCounts_flatMap (e : Nat) (f : Nat → Nat) (xs l : List Nat) :
    (l.flatMap (fun j => ccCounts e (f j) xs)).length = 3 * l.length := by
  induction l with
  | nil => rfl
  | cons x l ih =>
    have three : (ccCounts e (f x) xs).length = 3 := rfl
    rw [List.flatMap_cons, List.length_append, ih, List.length_cons, three, Nat.mul_add_one, Nat.add_comm]

theorem rangeOk_of_rangePolder {a n : Nat} (h : rangePolder a n = true) : rangeOk a n = true := by
  simp only [rangePolder, rangeOk, Bool.or_eq_true] at h ⊢
  exact .inl (.inl h)

theorem findCmd_afterReads {s : State} {i : Fin 64} {sel : Cmd → Bool} {c : Cmd} (h : runs s i sel c = true)
    (l : List (Nat × Nat × Nat)) : (findCmd (afterReads (dispatchCmd s c) c l) c.id).isSome = true := by
  rw [findCmd_isSome_congr (afterReads_ids _ _ _), findCmd_isSome_congr (dispatchCmd_ids _ _), Option.isSome_iff_exists]
  exact findCmd_of_mem (runs_mem h)

/-- The reads of a dispatch see memory as the state before it has it. -/
theorem readLe_afterDispatch (s : State) (c : Cmd) (l : List (Nat × Nat × Nat)) (a n : Nat) :
    readLe (afterReads (dispatchCmd s c) c l) a n = readLe s a n := by
  rw [readLe_afterReads, readLe, readMem_dispatchCmd]; rfl

theorem readByte_afterDispatch (s : State) (c : Cmd) (l : List (Nat × Nat × Nat)) (a : Nat) :
    readByte (afterReads (dispatchCmd s c) c l) a = readByte s a := by
  rw [readByte_afterReads]
  exact readByte_congr (dispatchCmd_mem _ _) (dispatchCmd_free _ _) (dispatchCmd_cores _ _) a

theorem readByte_modCmd (s : State) (id : CmdId) (f : Cmd → Cmd) (a : Nat) : readByte (modCmd s id f) a = readByte s a := rfl

theorem afterReads_beginCmd (s t : State) (c : Cmd) (l : List (Nat × Nat × Nat)) :
    afterReads t (beginCmd s c) l = afterReads t c l := rfl

/-- The bytes that COMPARE_COUNT writes (R219): three counts of four bytes for each key. -/
def countBytes (s : State) (c : Cmd) : List Byte :=
  let b := ccBytes (c.par 28 1)
  ((List.range (c.par 29 1)).flatMap (fun j => ccCounts (c.par 28 1) (readLe s (c.par 8 8 + j * b) b)
    ((List.range (c.par 24 4)).map (fun j => readLe s (c.par 0 8 + j * b) b)))).flatMap (leBytes 4)

theorem length_countBytes (s : State) (c : Cmd) : (countBytes s c).length = 12 * c.par 29 1 := by
  simp only [countBytes]
  rw [length_leBytes_flatMap, length_ccCounts_flatMap, List.length_range, ← Nat.mul_assoc]

section
variable {s : State} {i : Fin 64} {c : Cmd}

/-- A command that is done and has written: what it leaves. -/
def doneAs (c : Cmd) (outs : List (Nat × Nat)) (detail : Nat) (s : State) : State :=
  modCmd s c.id (fun k => { k with work := .done detail, outs := outs })

theorem execCompareCount_runs (h : runs s i (opSel 0x0104) c = true) (hn : c.hdr.paramLen = 4)
    (good : (decide (1 ≤ c.par 24 4) && decide (c.par 28 1 ≤ 8) && decide (1 ≤ c.par 29 1) && decide (c.par 29 1 ≤ 16) &&
      decide (c.par 30 2 = 0) && decide (c.par 0 8 % ccBytes (c.par 28 1) = 0) && decide (c.par 16 8 % 4 = 0) &&
      rangePolder (c.par 0 8) (c.par 24 4 * ccBytes (c.par 28 1))) = true)
    (keys : rangeRead (c.par 8 8) (c.par 29 1 * ccBytes (c.par 28 1)) = true)
    (out : rangeOk (c.par 16 8) (12 * c.par 29 1) = true) {l : List (Nat × Nat × Nat)}
    (hl : l = [(0, c.par 0 8, c.par 24 4 * ccBytes (c.par 28 1)), (0, c.par 8 8, c.par 29 1 * ccBytes (c.par 28 1))])
    (clean : readsClean s c l = true) :
    exec (.compareCount i) s = .next (settle (doneAs c [(c.par 16 8, 12 * c.par 29 1)]
      (((List.range (c.par 24 4)).map (fun j => readLe s (c.par 0 8 + j * ccBytes (c.par 28 1)) (ccBytes (c.par 28 1)))).countP
        (ccNan (c.par 28 1)))
      (writeMem (ddrTake (afterReads (dispatchCmd s c) c l) .write c.urgent (c.par 16 8) (12 * c.par 29 1))
        (c.par 16 8) (countBytes s c)))) := by
  subst hl
  show execCompareCount i s = _
  rw [execCompareCount, issue_runs h]
  refine (settled_checked hn good _).trans ?_
  simp only [beginCmd_par, reaches_ok keys, reaches_ok out]
  rw [readsWell_ok ((readsClean_dispatchCmd s c _).trans clean)]
  simp only [afterReads_beginCmd, readLe_afterDispatch]
  rfl

theorem execCompareSwap_runs (h : runs s i (opSel 0x0105) c = true) (hn : c.hdr.paramLen = 3) (ha : c.par 0 8 % 8 = 0)
    (polder : rangePolder (c.par 0 8) 8 = true) (clean : readsClean s c [(0, c.par 0 8, 8)] = true) :
    exec (.compareSwap i) s = .next (settle (
      if readLe s (c.par 0 8) 8 = c.par 8 8 then doneAs c [(c.par 0 8, 8)] (readLe s (c.par 0 8) 8)
        (writeMem (afterReads (dispatchCmd s c) c [(0, c.par 0 8, 8)]) (c.par 0 8) (leBytes 8 (c.par 16 8)))
      else setWork (afterReads (dispatchCmd s c) c [(0, c.par 0 8, 8)]) c.id (.done (readLe s (c.par 0 8) 8)))) := by
  have good : (decide (c.par 0 8 % 8 = 0) && rangePolder (c.par 0 8) 8) = true := by rw [polder, ha]; rfl
  show execCompareSwap i s = _
  rw [execCompareSwap, issue_runs h]
  refine (settled_checked hn good _).trans ?_
  rw [beginCmd_par, readsWell_ok ((readsClean_dispatchCmd s c _).trans clean)]
  simp only [beginCmd_par, afterReads_beginCmd, readLe_afterDispatch]
  split <;> rfl

end

/-- What a command that is done and has written leaves: its work, and memory as it was left. -/
theorem work_doneAs {s : State} {c : Cmd} (h : (findCmd s c.id).isSome = true) (outs : List (Nat × Nat)) (v : Nat) :
    (findCmd (doneAs c outs v s) c.id).map (·.work) = some (.done v) := work_modCmd h (fun _ => by rfl) fun _ => by rfl

/-! ## Times of memory -/

theorem weirServe_tide (s : State) : (weirServe s).tide = s.tide := by
  unfold weirServe
  split
  · rfl
  · rw [(foldl_sends (fun s p => transmit_sends s p) _ _).tide]
    exact foldl_field (·.tide) _ (fun _ _ => by rfl) _ _

/-- The count after a while, short of where it wraps. -/
theorem advance_count {s : State} {n : Nat} (h : s.tide.count.toNat < 2 ^ 63) (hn : n < 2 ^ 63) :
    (advance s n).tide.count.toNat = s.tide.count.toNat + n := by
  show (s.tide.count + BitVec.ofNat 64 n).toNat = _
  rw [BitVec.toNat_add, BitVec.toNat_ofNat]
  omega

theorem weirBoundary_count {s : State} (h : s.tide.count.toNat < 2 ^ 63) :
    (weirBoundary s).tide.count.toNat = s.tide.count.toNat + (700 - s.tide.count.toNat % 700) := by
  rw [weirBoundary, weirServe_tide]
  exact advance_count h (by omega)

/-- The next count of a schedule is one of its counts, modulo 716,800, and later than the present. -/
theorem toSchedule_count {s t : State} {l : List Nat} (h : toSchedule s l = some t) (hc : s.tide.count.toNat < 2 ^ 63) :
    s.tide.count.toNat < t.tide.count.toNat ∧ ∃ x ∈ l, t.tide.count.toNat % 716800 = x % 716800 := by
  obtain ⟨m, hm, rfl⟩ := Option.map_eq_some_iff.1 h
  obtain ⟨x, hx, rfl⟩ := List.mem_map.1 (List.min?_mem hm)
  rw [advance_count hc (by omega)]
  exact ⟨by omega, x, hx, by omega⟩

theorem toSchedule_none {s : State} {l : List Nat} : toSchedule s l = none ↔ l = [] := by
  simp [toSchedule]

theorem advanceTo_ticks (s : State) (n : Nat) : (advanceTo s n).clk.ticks = max s.clk.ticks n := by
  show s.clk.ticks + (n - s.clk.ticks) = _
  omega

theorem execDdrRefresh_runs {s t : State} (runs : ddrRuns s = true) (ch : Fin 64)
    (h : (if s.lock.repeatable then toSchedule s (Config.refreshCounts ch.val) else some s) = some t) :
    exec (.ddrRefresh ch) s = .next (settle (putDdr t ch.val { getDdr t ch.val with refreshed := t.clk.ticks })) := by
  show execDdrRefresh ch s = _
  rw [execDdrRefresh, runs, h]; rfl

theorem execWck2dqTracking_runs {s t : State} (runs : ddrRuns s = true) (ch : Fin 64) (off : W16)
    (h : (if s.lock.repeatable then toSchedule s (Config.trackCounts ch.val)
      else some (advanceTo s ((getDdr s ch.val).tracked + us 256))) = some t) :
    exec (.wck2dqTracking ⟨ch, off⟩) s =
      .next (settle (putDdr t ch.val { getDdr t ch.val with tracked := t.clk.ticks, offset := off })) := by
  show execWck2dqTracking ⟨ch, off⟩ s = _
  simp only [execWck2dqTracking, runs, h]; rfl

theorem execDdrRefresh_none {s : State} (ch : Fin 64)
    (h : ddrRuns s = false ∨ s.lock.repeatable = true ∧ toSchedule s (Config.refreshCounts ch.val) = none) :
    exec (.ddrRefresh ch) s = .next s := by
  show execDdrRefresh ch s = _
  rcases h with h | ⟨on, h⟩
  · simp [execDdrRefresh, h]
  · simp [execDdrRefresh, on, h]

theorem execWck2dqTracking_none {s : State} (ch : Fin 64) (off : W16)
    (h : ddrRuns s = false ∨ s.lock.repeatable = true ∧ toSchedule s (Config.trackCounts ch.val) = none) :
    exec (.wck2dqTracking ⟨ch, off⟩) s = .next s := by
  show execWck2dqTracking ⟨ch, off⟩ s = _
  rcases h with h | ⟨on, h⟩
  · simp [execWck2dqTracking, h]
  · simp [execWck2dqTracking, on, h]

end Sys2Proof.Machine

open Sys2Proof Sys2Proof.Machine

/-- Settles O30: the reads of the dispatch see memory as it was; the write covers its range and nothing else. -/
theorem polderOperationsCompare : Obligations.PolderOperationsCompare := by
  unfold Obligations.PolderOperationsCompare
  intro s i c
  refine ⟨?_, ?_⟩
  · intro ka ra n e m b xs out h hn n1 e8 m1 m16 hz ha hr polder keys range clean
    have good : (decide (1 ≤ n) && decide (e ≤ 8) && decide (1 ≤ m) && decide (m ≤ 16) && decide (c.par 30 2 = 0) &&
        decide (c.par 0 8 % b = 0) && decide (ra % 4 = 0) && rangePolder (c.par 0 8) (n * b)) = true := by
      simp only [n1, e8, m1, m16, hz, ha, hr, polder]; rfl
    have len := length_countBytes s c
    refine ⟨_, execCompareCount_runs h hn good keys range rfl clean, ?_, fun k hk => ?_, fun x hx => ?_⟩
    · refine work_doneAs ?_ _ _
      rw [findCmd, writeMem_cmds]
      exact (findCmd_isSome_congr (ddrTake_ids _ _ _ _ _) _).trans (findCmd_afterReads h _)
    · exact readByte_writeMem_range (len ▸ range) (len ▸ hk)
    · refine (readByte_writeMem_ne (len ▸ hx)).trans ?_
      rw [readByte_ddrTake, readByte_afterDispatch]
  · intro h hn ha polder clean
    have run := execCompareSwap_runs h hn ha polder clean
    refine ⟨fun eq => ?_, fun ne => ?_⟩
    · rw [if_pos eq, eq] at run
      have range : rangeOk (c.par 0 8) (leBytes 8 (c.par 16 8)).length = true := rangeOk_of_rangePolder polder
      refine ⟨_, run, work_doneAs ?_ _ _, fun k hk => readByte_writeMem_range range hk, fun x hx => ?_⟩
      · rw [findCmd, writeMem_cmds]; exact findCmd_afterReads h _
      · refine (readByte_writeMem_ne (b := leBytes 8 (c.par 16 8)) ?_).trans (readByte_afterDispatch s c _ x)
        exact hx
    · rw [if_neg ne] at run
      refine ⟨_, run, work_modCmd (findCmd_afterReads h _) (fun _ => by rfl) fun _ => by rfl, ?_⟩
      exact (afterReads_mem _ _ _).trans (dispatchCmd_mem s c)

/-- Settles O31: each clock reaches its own next time, which lies within its period. -/
theorem memoryHousekeepingKeepsItsTimes : Obligations.MemoryHousekeepingKeepsItsTimes := by
  unfold Obligations.MemoryHousekeepingKeepsItsTimes
  intro s ch off
  refine ⟨⟨rfl, fun hc => ?_, weirBoundary_mem s⟩, ⟨rfl, rfl, ?_, advanceTo_ticks _ _⟩, fun runs off' => ?_, fun runs on => ?_,
    fun l t h hc => toSchedule_count h hc, fun l => toSchedule_none, fun stop => ?_, fun off' => ?_, fun on => ?_⟩
  · rw [weirBoundary_count hc]; omega
  · show s.weir.earned < max (s.weir.earned + 1) _
    omega
  · exact ⟨execDdrRefresh_runs runs ch (by rw [off']; rfl), execWck2dqTracking_runs runs ch off (by rw [off']; rfl)⟩
  · refine ⟨fun t h => execDdrRefresh_runs runs ch (by rw [if_pos on, h]),
      fun t h => execWck2dqTracking_runs runs ch off (by rw [if_pos on, h]),
      fun h => execDdrRefresh_none ch (.inr ⟨on, h⟩), fun h => execWck2dqTracking_none ch off (.inr ⟨on, h⟩)⟩
  · exact ⟨execDdrRefresh_none ch (.inl stop), execWck2dqTracking_none ch off (.inl stop)⟩
  · refine ⟨?_, rfl, advanceTo_ticks _ _⟩
    show execDirectoryClock s = _
    rw [execDirectoryClock, off']; rfl
  · show execDirectoryClock s = _
    rw [execDirectoryClock, on]; rfl

end

section
/-!
SUPPORT. The tide's discipline, the messages of lock-step, and the brake, sensors and ageing.
-/
namespace Sys2Proof.Machine

/-! ## Packets of this module: what sending one leaves -/

section
variable {β : Type} (F : State → β) (hs : ∀ s t, Sends s t → F t = F s) (hn : ∀ s x, F { s with net := x } = F s)
  (hl : ∀ s a b c d e g i j, F (logFault s a b c d e g i j) = F s)
include hn hl

theorem lostBeyond_field (s : State) (k : Cause) : F (lostBeyond (setNoRoute s) k) = F s := (hl _ _ _ _ _ _ _ _ _).trans (hn _ _)

include hs

/-- Putting a packet on a bundle changes only what sending changes, the turns of the ports and the log. -/
theorem takeTurn_field (s : State) (t : TxPacket) : F (takeTurn s t) = F s := by
  unfold takeTurn
  split
  · exact lostBeyond_field F hn hl s _
  · exact (hs _ _ (enqueue_sends _ _ _)).trans (hn _ _)

theorem onBundle_field (s : State) (b : Nat) (k : Packet) (o : Owner) (arrived : Option Ingress) :
    F (onBundle s b k o arrived) = F s := takeTurn_field F hs hn hl s _

theorem routeCtl_field (s : State) (k : Packet) : F (routeCtl s k) = F s := by
  unfold routeCtl
  split
  · exact hn _ _
  · split
    · exact onBundle_field F hs hn hl s _ _ _ _
    · exact lostBeyond_field F hn hl s _

end

theorem sendSync_tide (chip : BitVec 12) (count : W64) (way : Nat) (s : State) (b : Nat) :
    (sendSync chip count way s b).tide = s.tide :=
  onBundle_field State.tide (fun _ _ h => h.tide) (fun _ _ => rfl) (by simp) s _ _ _ _

/-! ## The tide -/

@[simp] theorem timingEvent_count (s : State) (r : TimingRow) (n : Nat) : (timingEvent s r n).tide.count = s.tide.count := by
  unfold timingEvent; split <;> cases r <;> rfl
@[simp] theorem timingEvent_offset (s : State) (r : TimingRow) (n : Nat) :
    (timingEvent s r n).tide.offset = s.tide.offset := by unfold timingEvent; split <;> cases r <;> rfl
@[simp] theorem timingEvent_lastCorrection (s : State) (r : TimingRow) (n : Nat) :
    (timingEvent s r n).tide.lastCorrection = s.tide.lastCorrection := by unfold timingEvent; split <;> cases r <;> rfl

theorem setTideState_st (s : State) (st : TideState) : (setTideState s st).tide.st = st := by
  unfold setTideState; dsimp only; split
  · assumption
  · rfl

theorem setTideState_count (s : State) (st : TideState) : (setTideState s st).tide.count = s.tide.count := by
  unfold setTideState; dsimp only; split <;> rfl

theorem setTideState_offset (s : State) (st : TideState) : (setTideState s st).tide.offset = s.tide.offset := by
  unfold setTideState; dsimp only; split <;> rfl

section
variable {s : State}

theorem execSyncReceive_taken {p : Fin 12} (up : thlUp s p.val = true) (en : s.tide.syncEn = true)
    (follows : sendsSync s.tide = false) (chip : BitVec 12) (count : W64) (way : Nat) :
    exec (.syncReceive p chip ⟨count, way⟩) s = .next (settle
      (let u := ((upBundles s).filter (· != bundleOf s p.val)).foldl (sendSync chip count (way + (getPort s p.val).delay)) s
       if s.tide.source = 0 then followSync u chip (masterNow count (way + (getPort s p.val).delay)) else u)) := by
  show execSyncReceive p chip ⟨count, way⟩ s = _
  have tide : (((upBundles s).filter (· != bundleOf s p.val)).foldl
      (sendSync chip count (way + (getPort s p.val).delay)) s).tide = s.tide :=
    foldl_field State.tide _ (fun s b => sendSync_tide chip count _ s b) _ s
  rw [execSyncReceive, up, en, follows]
  simp only [tide]; rfl

theorem execSyncReceive_left {p : Fin 12} (h : thlUp s p.val = false ∨ s.tide.syncEn = false ∨ sendsSync s.tide = true)
    (chip : BitVec 12) (count : SyncCount) : exec (.syncReceive p chip count) s = .next s := by
  show execSyncReceive p chip count s = _
  rcases h with h | h | h <;> simp [execSyncReceive, h]

theorem followSync_unsync (chip : BitVec 12) (m : Nat) (h : s.tide.st = .unsync) :
    (followSync s chip m).tide.st = .acquiring ∧ (followSync s chip m).tide.count = s.tide.count := by
  simp only [followSync, h, setTideState_st, setTideState_count, and_self]

theorem followSync_acquiring (chip : BitVec 12) (m : Nat) (h : s.tide.st = .acquiring) :
    (followSync s chip m).tide.st = .tracking ∧ (followSync s chip m).tide.count = BitVec.ofNat 64 ((m + 20) / 40) := by
  simp only [followSync, h, setTideState_st, setTideState_count]; exact ⟨trivial, rfl⟩

theorem followSync_tracking (chip : BitVec 12) (m : Nat) (h : s.tide.st = .tracking) :
    (followSync s chip m).tide.count = s.tide.count ∧
      (followSync s chip m).tide.offset = ((40 * s.tide.count.toNat : Nat) : Int) - (m : Int) := by
  simp only [followSync, h]; exact ⟨rfl, rfl⟩

/-- A correction, where the estimate asks for it: after at least 1,024 ticks, in its direction (R315). -/
theorem execTideCorrection_takes {u : State} (on : corrects s.tide = true) (off : 20 ≤ s.tide.offset.natAbs)
    (hu : u = match s.tide.lastCorrection with | some k => advanceTo s (k + 1024) | none => s) :
    exec (.tideCorrection (decide (s.tide.offset < 0))) s = .next (settle (correct u (decide (s.tide.offset < 0)))) := by
  show execTideCorrection _ s = _
  subst hu
  rw [execTideCorrection, on, decide_eq_true off, decide_eq_true (rfl : decide (s.tide.offset < 0) = decide _)]
  rfl

theorem execTideCorrection_left {skip : Bool}
    (h : corrects s.tide = false ∨ s.tide.offset.natAbs < 20 ∨ skip ≠ decide (s.tide.offset < 0)) :
    exec (.tideCorrection skip) s = .next s := by
  show execTideCorrection _ s = _
  rw [execTideCorrection, if_neg]
  rcases h with h | h | h
  · simp [h]
  · simp [Nat.not_le.2 h]
  · simp [h]

theorem correct_count (skip : Bool) :
    (correct s skip).tide.count = if skip then s.tide.count + 1 else s.tide.count - 1 := timingEvent_count _ _ _
theorem correct_offset (skip : Bool) :
    (correct s skip).tide.offset = if skip then s.tide.offset + 40 else s.tide.offset - 40 := timingEvent_offset _ _ _
theorem correct_lastCorrection (skip : Bool) : (correct s skip).tide.lastCorrection = some s.clk.ticks :=
  timingEvent_lastCorrection _ _ _

/-- SYNC lost: UNSYNC, with the flag set once, whatever the state before (R315, Table 12.4). -/
theorem execSyncLost_leaves (src : s.tide.source = 0) (en : s.tide.syncEn = true) (follows : s.tide.master = false)
    (st : s.tide.st ≠ .unsync) : ∃ t, exec .syncLost s = .next (settle t) ∧ t.tide.st = .unsync ∧ t.tide.syncLost = true ∧
      t.tide.syncLostCount = s.tide.syncLostCount + 1 := by
  have row : (decide (s.tide.source = 0) && s.tide.syncEn && !s.tide.master && s.tide.st != .unsync) = true := by
    simp [src, en, follows, st]
  refine ⟨_, (if_pos row : execSyncLost s = _), setTideState_st _ _, ?_, ?_⟩
  · cases h : s.tide.st with
    | unsync => exact absurd h st
    | acquiring => simp [advanceTo, advance, h, setTideState]
    | tracking => simp [advanceTo, advance, h, setTideState]
  · cases h : s.tide.st with
    | unsync => exact absurd h st
    | acquiring => simp [advanceTo, advance, h, setTideState]
    | tracking => simp [advanceTo, advance, h, setTideState]

theorem execSyncLost_left (h : s.tide.st = .unsync) : exec .syncLost s = .next s := by
  show execSyncLost s = _
  simp [execSyncLost, h]

/-- The first edge of TIDE_REF steps the counter to the next multiple of 716,800 (R409). -/
theorem execTideRefEdge_steps (src : s.tide.source = 1) (en : s.tide.syncEn = true) (st : s.tide.st = .unsync)
    (off : s.tide.count.toNat % 716800 ≠ 0) (hc : s.tide.count.toNat < 2 ^ 63) :
    ∃ t, exec .tideRefEdge s = .next (settle t) ∧ t.tide.st = .acquiring ∧ t.tide.count.toNat % 716800 = 0 ∧
      s.tide.count.toNat < t.tide.count.toNat := by
  have row : (decide (s.tide.source = 1) && s.tide.syncEn) = true := by rw [src, en]; rfl
  obtain ⟨u, hu⟩ : ∃ u, u = setTideState { s with tide := { s.tide with masterChip := s.rcd.chipId } } .acquiring := ⟨_, rfl⟩
  have count : u.tide.count = s.tide.count := hu ▸ setTideState_count _ _
  have run : exec .tideRefEdge s =
      .next (settle (setOffset (setCount u (u.tide.count.toNat + (716800 - s.tide.count.toNat % 716800))) 0)) := by
    refine (if_pos row : execTideRefEdge s = _).trans ?_
    dsimp only
    split
    · rw [if_neg off, hu]; rfl
    · next other => exact absurd st other
  have step : (BitVec.ofNat 64 (u.tide.count.toNat + (716800 - s.tide.count.toNat % 716800))).toNat =
      s.tide.count.toNat + (716800 - s.tide.count.toNat % 716800) := by
    rw [count, BitVec.toNat_ofNat]; omega
  refine ⟨_, run, hu ▸ setTideState_st _ _, ?_, ?_⟩
  · exact (congrArg (· % 716800) step).trans (by omega)
  · exact lt_of_lt_of_eq (by omega) step.symm

theorem execTideRefEdge_aligns (src : s.tide.source = 1) (en : s.tide.syncEn = true) (st : s.tide.st ≠ .unsync) :
    exec .tideRefEdge s =
      .next (settle (countEdge (alignEdge { s with tide := { s.tide with masterChip := s.rcd.chipId } }))) := by
  have row : (decide (s.tide.source = 1) && s.tide.syncEn) = true := by rw [src, en]; rfl
  refine (if_pos row : execTideRefEdge s = _).trans ?_
  cases h : s.tide.st with
  | unsync => exact absurd h st
  | acquiring => simp only [h]; rfl
  | tracking => simp only [h]; rfl

theorem execTideRefEdge_left (h : s.tide.source ≠ 1 ∨ s.tide.syncEn = false) : exec .tideRefEdge s = .next s := by
  show execTideRefEdge s = _
  rw [execTideRefEdge, if_neg]
  rcases h with h | h
  · rw [decide_eq_false h, Bool.false_and]; decide
  · rw [h, Bool.and_false]; decide

/-! ## Lock-step -/

theorem execDigestReceive_compares {p : Fin 12} (up : thlUp s p.val = true) (on : s.lock.established = true) (inlet : Fin 64)
    (seq item : Nat) (digest : W64) : exec (.digestReceive p inlet seq item digest) s =
      .next (settle (theirDigest s { inlet := inlet.val, seq := seq, item := item, value := digest })) := by
  show execDigestReceive p inlet seq item digest s = _
  rw [execDigestReceive, up, on]; rfl

theorem execDivergeReceive_ends {p : Fin 12} {c : Cmd} (up : thlUp s p.val = true) (on : s.lock.established = true)
    {inlet : Fin 64} {seq : Nat} (hc : lockCmd s inlet.val seq = some c) (item : Nat) :
    exec (.divergeReceive p inlet seq item) s = .next (settle (endDiverged s c.id (namedTile c item))) := by
  show execDivergeReceive p inlet seq item s = _
  rw [execDivergeReceive, up, on, hc]; rfl

end
end Sys2Proof.Machine

open Sys2Proof Sys2Proof.Machine

/-- Settles O46: a SYNC is followed by the state of the tide; every other message is left by what Table 12.3 asks. -/
theorem tideMessagesDisciplineTheCounter : Obligations.TideMessagesDisciplineTheCounter := by
  unfold Obligations.TideMessagesDisciplineTheCounter
  intro s p
  refine ⟨fun en => ?_, fun en => ?_, fun chip count way up en follows => ⟨execSyncReceive_taken up en follows chip count way,
    rfl⟩, fun chip count way h => execSyncReceive_left h chip _, fun chip m => followSync_unsync chip m,
    fun chip m => followSync_acquiring chip m, fun chip m => followSync_tracking chip m, fun stamp up => ?_,
    fun q up en => ?_, fun down => ⟨fun x => ?_, fun q => ?_⟩⟩
  · show execSyncPeriod s = _
    rw [execSyncPeriod, en]; rfl
  · show execSyncPeriod s = _
    rw [execSyncPeriod, en]; rfl
  · show execDelayReqReceive p stamp s = _
    rw [execDelayReqReceive, up]; rfl
  · show execDelayRespReceive p q s = _
    rw [execDelayRespReceive, up, en]; rfl
  · show execDelayReqReceive p x s = _
    rw [execDelayReqReceive, down]; rfl
  · show execDelayRespReceive p q s = _
    rw [execDelayRespReceive, down]; rfl

/-- Settles O47: a correction by its direction and its time, the loss of SYNC, and the edges of TIDE_REF by state. -/
theorem correctionsAndLossOfTheTide : Obligations.CorrectionsAndLossOfTheTide := by
  unfold Obligations.CorrectionsAndLossOfTheTide
  intro s
  refine ⟨fun on off => ?_, fun h skip => ?_, ?_, execSyncLost_leaves, execSyncLost_left, execTideRefEdge_steps,
    execTideRefEdge_aligns, execTideRefEdge_left⟩
  · intro u
    have kept : u.tide.offset = s.tide.offset ∧ u.cmds = s.cmds ∧ u.mem = s.mem := by
      dsimp only [u]
      split <;> exact ⟨rfl, rfl, rfl⟩
    obtain ⟨offset, cmds, mem⟩ := kept
    refine ⟨_, execTideCorrection_takes on off rfl, ?_, timingEvent_clk _ _ _, ?_, correct_lastCorrection _,
      (timingEvent_cmds _ _ _).trans cmds, (timingEvent_mem _ _ _).trans mem⟩
    · simp only [correct_count, decide_eq_true_eq]; rfl
    · refine (correct_offset (s := u) _).trans ?_
      rw [offset]; simp only [decide_eq_true_eq]
  · exact execTideCorrection_left (h.imp_right .inl)
  · refine execTideCorrection_left (.inr (.inr ?_))
    rw [Ne, decide_eq_decide]; omega

/-- Settles O48: each message by what the pairing has; digests by whether they agree. -/
theorem lockStepMessagesPairCompareAndEnd : Obligations.LockStepMessagesPairCompareAndEnd := by
  unfold Obligations.LockStepMessagesPairCompareAndEnd
  intro s p up
  refine ⟨fun chip names h => ?_, fun chip names h => ?_, fun set new from_ => ?_, fun set => ?_, fun on => ?_,
    fun inlet seq item digest on => execDigestReceive_compares up on inlet seq item digest,
    fun inlet seq item c on hc => execDivergeReceive_ends up on hc item, fun off => ⟨fun i q k d => ?_, fun i q k => ?_⟩,
    fun a b => ⟨fun same => ?_, fun id differ own there => ?_, fun differ own => ?_⟩⟩
  · show execPairReceive p chip names s = _
    rw [execPairReceive, up, h, decide_eq_true rfl]; rfl
  · show execPairReceive p chip names s = _
    rw [execPairReceive, up, decide_eq_false h]; rfl
  · simp [pairUpCheck, set, new, from_]
  · simp [pairUpCheck, set]
  · show execUnpairReceive p s.lock.partner s = _
    rw [execUnpairReceive, up, on, decide_eq_true rfl]; rfl
  · show execDigestReceive p i q k d s = _
    rw [execDigestReceive, up, off]; rfl
  · show execDivergeReceive p i q k s = _
    rw [execDivergeReceive, up, off]; rfl
  · rw [meetDigests, if_pos same]
  · simp only [meetDigests, if_neg differ, own]
    exact if_pos there
  · simp only [meetDigests, if_neg differ, own]

end

section
/-!
SUPPORT. What Table 2.8 refuses at the dispatch of a command.
-/
namespace Sys2Proof.Machine

/-- Every dispatch row issues the commands of its own kind. -/
theorem exec_dispatchRow : ∀ r ∈ dispatchRows, ∀ (s : State) (i : Fin 64), ∃ k, exec (r.row i) s = issue s i r.sel k := by
  simp only [dispatchRows, List.forall_mem_cons, List.not_mem_nil, false_imp_iff, implies_true, and_true]
  and_intros
  all_goals exact fun s i => ⟨_, by unfold exec; rfl⟩

theorem length_dispatchCmd (s : State) (c : Cmd) : (dispatchCmd s c).cmds.length = s.cmds.length := by
  simpa using congrArg List.length (dispatchCmd_ids s c)

@[simp] theorem coreIn_dispatchCmd (s : State) (c : Cmd) (k : Nat) : coreIn (dispatchCmd s c) k = coreIn s k := by
  simp [coreIn]
@[simp] theorem coreCount_dispatchCmd (s : State) (c : Cmd) : coreCount (dispatchCmd s c) = coreCount s := by
  simp only [coreCount, funext (coreIn_dispatchCmd s c)]
@[simp] theorem winCode_dispatchCmd (s : State) (c : Cmd) (w : Nat) : winCode (dispatchCmd s c) w = winCode s w := by
  simp [winCode]
@[simp] theorem isEth_dispatchCmd (s : State) (c : Cmd) (p : Nat) : isEth (dispatchCmd s c) p = isEth s p := by simp [isEth]
@[simp] theorem destRefused_dispatchCmd (s : State) (c : Cmd) : destRefused (dispatchCmd s c) = destRefused s := by
  funext x; simp only [destRefused, getQp_dispatchCmd, getWindow_dispatchCmd, dispatchCmd_rcd]

section
variable {s : State} {i : Fin 64} {c : Cmd}

theorem execWindowOpen_rejects (h : runs s i (opSel 0x0300) c = true) (hn : c.hdr.paramLen = 3) (hw : c.par 0 2 < 4096)
    (st : (getWindow s (c.par 0 2)).st ≠ .closed) : exec (.windowOpen i) s =
      .next (settle (reject (dispatchCmd s c) c.id 0x02 (winCode s (c.par 0 2)) (c.par 0 2))) := by
  show execWindowOpen i s = _
  rw [execWindowOpen, issue_runs h]
  refine (settled_checked hn (decide_eq_true hw) _).trans ?_
  rw [beginCmd_par, getWindow_dispatchCmd, winCode_dispatchCmd, if_pos (bne_iff_ne.2 st)]; rfl

theorem execWindowClose_rejects (h : runs s i (opSel 0x0301) c = true) (hn : c.hdr.paramLen = 1) (hw : c.par 0 2 < 4096)
    (st : (getWindow s (c.par 0 2)).st ≠ .open) : exec (.windowClose i) s =
      .next (settle (reject (dispatchCmd s c) c.id 0x02 (winCode s (c.par 0 2)) (c.par 0 2))) := by
  show execWindowClose i s = _
  rw [execWindowClose, issue_runs h]
  refine (settled_checked hn (decide_eq_true hw) _).trans ?_
  simp only [beginCmd_par, getWindow_dispatchCmd, winCode_dispatchCmd, if_pos (bne_iff_ne.2 st)]; rfl

theorem execSluiceArm_rejects (h : runs s i (opSel 0x0102) c = true) (hn : c.hdr.paramLen = 9)
    (host : hostSluice (c.par 0 2) = true) (st : (getSluice s (c.par 0 2)).st ≠ .idle) : exec (.sluiceArm i) s =
      .next (settle (reject (dispatchCmd s c) c.id 0x03 (getSluice s (c.par 0 2)).st.code (c.par 0 2))) := by
  show execSluiceArm i s = _
  rw [execSluiceArm, issue_runs h]
  refine (settled_checked hn host _).trans ?_
  simp only [beginCmd_par, getSluice_dispatchCmd]
  cases hs : (getSluice s (c.par 0 2)).st with
  | idle => exact absurd hs st
  | running => rfl
  | shadowPending => rfl
  | offline => rfl

theorem execSluiceRearm_rejects (h : runs s i (opSel 0x0103) c = true) (hn : c.hdr.paramLen = 9)
    (host : hostSluice (c.par 0 2) = true)
    (st : (getSluice s (c.par 0 2)).st = .idle ∨ (getSluice s (c.par 0 2)).st = .offline) : exec (.sluiceRearm i) s =
      .next (settle (reject (dispatchCmd s c) c.id 0x03 (getSluice s (c.par 0 2)).st.code (c.par 0 2))) := by
  show execSluiceRearm i s = _
  rw [execSluiceRearm, issue_runs h]
  refine (settled_checked hn host _).trans ?_
  simp only [beginCmd_par, getSluice_dispatchCmd]
  rcases st with st | st <;> rw [st] <;> rfl

theorem execQpTeardown_rejects (h : runs s i (opSel 0x0309) c = true) (hn : c.hdr.paramLen = 1) (hq : c.par 0 2 < 16384)
    (free : (getQp s (c.par 0 2)).st = .free) :
    exec (.qpTeardown i) s = .next (settle (reject (dispatchCmd s c) c.id 0x04 0 (c.par 0 2))) := by
  show execQpTeardown i s = _
  rw [execQpTeardown, issue_runs h]
  refine (settled_checked hn (decide_eq_true hq) _).trans ?_
  simp only [beginCmd_par, getQp_dispatchCmd, if_pos free]; rfl

theorem execQpSetup_rejects (h : runs s i (opSel 0x0308) c = true) (hn : c.hdr.paramLen = 12) (hq : c.par 0 2 < 16384)
    (hp : c.par 2 1 % 16 < 12) (st : (getQp s (c.par 0 2)).st ≠ .free ∨ isEth s (c.par 2 1 % 16) = false) :
    exec (.qpSetup i) s =
      .next (settle (reject (dispatchCmd s c) c.id 0x04 (getQp s (c.par 0 2)).st.code (c.par 0 2))) := by
  have good : (decide (c.par 0 2 < 16384) && decide (c.par 2 1 % 16 < 12)) = true := by simp [hq, hp]
  have refused : ((getQp s (c.par 0 2)).st != .free || !isEth s (c.par 2 1 % 16)) = true := by
    rcases st with st | st <;> simp [st]
  show execQpSetup i s = _
  rw [execQpSetup, issue_runs h]
  refine (settled_checked hn good _).trans ?_
  simp only [beginCmd_par, getQp_dispatchCmd, isEth_dispatchCmd, if_pos refused]; rfl

theorem execSetMode_rejects (h : runs s i (opSel 0x0010) c = true) (busy : 1 < s.cmds.length) :
    exec (.setMode i) s = .next (settle (reject (dispatchCmd s c) c.id 0x00 s.dev.state.code 0)) := by
  show execSetMode i s = _
  rw [execSetMode, issue_runs h, length_dispatchCmd, if_pos busy, dispatchCmd_dev]; rfl

theorem execSetWeir_rejects (h : runs s i (opSel 0x0012) c = true) (busy : 1 < s.cmds.length) :
    exec (.setWeir i) s = .next (settle (reject (dispatchCmd s c) c.id 0x00 s.dev.state.code 0)) := by
  show execSetWeir i s = _
  rw [execSetWeir, issue_runs h, length_dispatchCmd, if_pos busy, dispatchCmd_dev]; rfl

theorem withGroup_rejects {g : Nat} (absent : groupThere s g = false) (k : Out) :
    withGroup (dispatchCmd s c) (beginCmd s c) g k = .next (reject (dispatchCmd s c) c.id 0x09 0 g) := by
  rw [withGroup, groupThere_dispatchCmd, absent]; rfl

theorem execDike_rejects (h : runs s i (opSel 0x0005) c = true) (hn : c.hdr.paramLen = 1) (hg : c.par 0 2 < 256)
    (absent : groupThere s (c.par 0 2) = false) :
    exec (.dike i) s = .next (settle (reject (dispatchCmd s c) c.id 0x09 0 (c.par 0 2))) := by
  show execDike i s = _
  rw [execDike, issue_runs h]
  exact (settled_checked hn (decide_eq_true hg) _).trans (congrArg settled (withGroup_rejects absent _))

theorem execSend_rejects (h : runs s i (opSel 0x0302) c = true) (hn : c.hdr.paramLen = 7)
    (hg : (sendOf c.params).group < 256) (absent : groupThere s (sendOf c.params).group = false) :
    exec (.send i) s = .next (settle (reject (dispatchCmd s c) c.id 0x09 0 (sendOf c.params).group)) := by
  show execSend i s = _
  rw [execSend, issue_runs h]
  exact (settled_checked hn (decide_eq_true hg) _).trans (congrArg settled (withGroup_rejects absent _))

theorem execRecv_rejects (h : runs s i (opSel 0x0303) c = true) (hn : c.hdr.paramLen = 4) (hg : c.par 0 2 < 256)
    (absent : groupThere s (c.par 0 2) = false) :
    exec (.recv i) s = .next (settle (reject (dispatchCmd s c) c.id 0x09 0 (c.par 0 2))) := by
  show execRecv i s = _
  rw [execRecv, issue_runs h]
  exact (settled_checked hn (decide_eq_true hg) _).trans (congrArg settled (withGroup_rejects absent _))

theorem execAllreduce_rejects (h : runs s i (opSel 0x0304) c = true) (hn : c.hdr.paramLen = 5) (hg : c.par 0 2 < 256)
    (absent : groupThere s (c.par 0 2) = false) :
    exec (.allreduce i) s = .next (settle (reject (dispatchCmd s c) c.id 0x09 0 (c.par 0 2))) := by
  show execAllreduce i s = _
  rw [execAllreduce, issue_runs h]
  exact (settled_checked hn (decide_eq_true hg) _).trans (congrArg settled (withGroup_rejects absent _))

theorem execAllgather_rejects (h : runs s i (opSel 0x0305) c = true) (hn : c.hdr.paramLen = 4) (hg : c.par 0 2 < 256)
    (absent : groupThere s (c.par 0 2) = false) :
    exec (.allgather i) s = .next (settle (reject (dispatchCmd s c) c.id 0x09 0 (c.par 0 2))) := by
  show execAllgather i s = _
  rw [execAllgather, issue_runs h]
  exact (settled_checked hn (decide_eq_true hg) _).trans (congrArg settled (withGroup_rejects absent _))

theorem execCoreOffline_rejects (h : runs s i (opSel 0x0014) c = true) (hn : c.hdr.paramLen = 1) (hk : c.par 0 1 < 16)
    (st : coreIn s (c.par 0 1) = false ∨ coreCount s ≤ 1) : exec (.coreOffline i) s =
      .next (settle (reject (dispatchCmd s c) c.id 0x08 (getCore s (c.par 0 1)).st.code (c.par 0 1))) := by
  have refused : (!coreIn s (c.par 0 1) || decide (coreCount s ≤ 1)) = true := by rcases st with st | st <;> simp [st]
  show execCoreOffline i s = _
  rw [execCoreOffline, issue_runs h]
  refine (settled_checked hn (decide_eq_true hk) _).trans ?_
  simp only [beginCmd_par, coreIn_dispatchCmd, coreCount_dispatchCmd, getCore_dispatchCmd, if_pos refused]; rfl

theorem execCoreOnline_rejects (pass : Bool) (h : runs s i (opSel 0x0015) c = true) (hn : c.hdr.paramLen = 1)
    (hk : c.par 0 1 < 16) (st : (getCore s (c.par 0 1)).st ≠ .outOfService) : exec (.coreOnline i pass) s =
      .next (settle (reject (dispatchCmd s c) c.id 0x08 (getCore s (c.par 0 1)).st.code (c.par 0 1))) := by
  show execCoreOnline i pass s = _
  rw [execCoreOnline, issue_runs h]
  refine (settled_checked hn (decide_eq_true hk) _).trans ?_
  simp only [beginCmd_par, getCore_dispatchCmd, if_pos (bne_iff_ne.2 st)]; rfl

theorem execFwCommit_rejects (h : runs s i (opSel 0x0502) c = true) (hn : c.hdr.paramLen = 0)
    (st : s.warden.fwState = .none ∨ s.warden.fwState = .writing) : exec (.fwCommit i) s =
      .next (settle (reject (dispatchCmd s c) c.id 0x07 s.warden.fwState.code 0)) := by
  show execFwCommit i s = _
  rw [execFwCommit, issue_runs h]
  refine (settled_checked hn rfl _).trans ?_
  simp only [dispatchCmd_warden]
  rcases st with st | st <;> rw [st] <;> rfl

theorem execExportBind_rejects (h : runs s i (opSel 0x0307) c = true) (hn : c.hdr.paramLen = 8 + 6 * c.par 1 1)
    (hc : c.par 0 1 < 16) (st : (getChannel s (c.par 0 1)).st ≠ .free) : exec (.exportBind i) s =
      .next (settle (reject (dispatchCmd s c) c.id 0x0A (getChannel s (c.par 0 1)).st.code (c.par 0 1))) := by
  show execExportBind i s = _
  rw [execExportBind, issue_runs h]
  refine (settled_checked hn (decide_eq_true hc) _).trans ?_
  simp only [beginCmd_par, getChannel_dispatchCmd, if_pos (bne_iff_ne.2 st)]; rfl

theorem execExportBind_refuses {r : Nat × Nat × Nat} (h : runs s i (opSel 0x0307) c = true)
    (hn : c.hdr.paramLen = 8 + 6 * c.par 1 1) (hc : c.par 0 1 < 16) (free : (getChannel s (c.par 0 1)).st = .free)
    (h1 : 1 ≤ c.par 1 1) (h8 : c.par 1 1 ≤ 8) (dests : (List.range (c.par 1 1)).all (destOk c) = true)
    (refused : (bindDests c).findSome? (destRefused s) = some r) :
    exec (.exportBind i) s = .next (settle (reject (dispatchCmd s c) c.id r.1 r.2.1 r.2.2)) := by
  have good : (decide (1 ≤ c.par 1 1) && decide (c.par 1 1 ≤ 8) && (List.range (c.par 1 1)).all (destOk c)) = true := by
    simp only [h1, h8, dests]; rfl
  show execExportBind i s = _
  rw [execExportBind, issue_runs h]
  refine (settled_checked hn (decide_eq_true hc) _).trans ?_
  have unbound : ¬ ((getChannel s (c.par 0 1)).st != .free) = true := by simp [free]
  rw [beginCmd_par, getChannel_dispatchCmd]
  dsimp only
  rw [if_neg unbound]
  refine (settled_checked hn good _).trans ?_
  rw [destRefused_dispatchCmd]
  have same : (bindDests (beginCmd s c)).findSome? (destRefused s) = some r := refused
  rw [same]; rfl

theorem settled_withBound (hn : c.hdr.paramLen = 5) (hc : c.par 1 1 < 16) (st : (getChannel s (c.par 1 1)).st ≠ .bound)
    (k : Out) : settled (withBound (dispatchCmd s c) (beginCmd s c) k) =
      .next (settle (reject (dispatchCmd s c) c.id 0x0A (getChannel s (c.par 1 1)).st.code (c.par 1 1))) := by
  refine (settled_checked hn (decide_eq_true hc) _).trans ?_
  rw [beginCmd_par, getChannel_dispatchCmd, if_neg st]; rfl

/-- Every operation of EXPORT_KV asks first that its channel is bound. -/
theorem execExportKv_rejects (hn : c.hdr.paramLen = 5) (hc : c.par 1 1 < 16)
    (st : (getChannel s (c.par 1 1)).st ≠ .bound) :
    ∀ r ∈ [((0 : Nat), Instr.source), (1, .seal), (2, .pull), (3, .message)], runs s i (exportSel r.1) c = true →
      exec (r.2 i) s =
        .next (settle (reject (dispatchCmd s c) c.id 0x0A (getChannel s (c.par 1 1)).st.code (c.par 1 1))) := by
  simp only [List.forall_mem_cons, List.not_mem_nil, false_imp_iff, implies_true, and_true]
  refine ⟨fun h => ?_, fun h => ?_, fun h => ?_, fun h => ?_⟩
  · show execSource i s = _
    rw [execSource, issue_runs h]; exact settled_withBound hn hc st _
  · show execSeal i s = _
    rw [execSeal, issue_runs h]; exact settled_withBound hn hc st _
  · show execPull i s = _
    rw [execPull, issue_runs h]; exact settled_withBound hn hc st _
  · show execMessage i s = _
    rw [execMessage, issue_runs h]; exact settled_withBound hn hc st _

end

/-! ## Destinations of an EXPORT_BIND -/

section
variable {s : State} {x : Dest}

theorem destRefused_qp (kind : x.kind = 1) (free : (getQp s x.qp).st = .free) : destRefused s x = some (0x04, 0, x.qp) := by
  simp only [destRefused, if_pos kind, if_pos free]; rw [free]; rfl

theorem destRefused_qp_none (kind : x.kind = 1) (used : (getQp s x.qp).st ≠ .free) : destRefused s x = none := by
  rw [destRefused, if_pos kind, if_neg used]

theorem destRefused_window (kind : x.kind ≠ 1) (own : x.chip = s.rcd.chipId.toNat) (st : (getWindow s x.window).st ≠ .open) :
    destRefused s x = some (0x02, winCode s x.window, x.window) := by
  rw [destRefused, if_neg kind, decide_eq_true own, Bool.true_and, if_pos (bne_iff_ne.2 st)]; rfl

theorem destRefused_window_none (kind : x.kind ≠ 1)
    (h : x.chip ≠ s.rcd.chipId.toNat ∨ (getWindow s x.window).st = .open) : destRefused s x = none := by
  rw [destRefused, if_neg kind, if_neg]
  rcases h with h | h <;> simp [h]

end
end Sys2Proof.Machine

open Sys2Proof Sys2Proof.Machine

/-- Settles O24: the two checks of any command are made where a row issues it; the state checks by command. -/
theorem failedChecksRejectTheCommand : Obligations.FailedChecksRejectTheCommand := by
  unfold Obligations.FailedChecksRejectTheCommand
  refine ⟨fun r hr s i c => ⟨fun h mode => ?_, fun h => ?_⟩, fun s i c => ⟨execWindowOpen_rejects, execWindowClose_rejects,
    execSluiceArm_rejects, execSluiceRearm_rejects, execQpTeardown_rejects, execSetMode_rejects, execSetWeir_rejects,
    execDike_rejects, execCoreOffline_rejects, execFwCommit_rejects, execCoreOnline_rejects, execQpSetup_rejects,
    fun h hn hc => ⟨execExportBind_rejects h hn hc, fun r => execExportBind_refuses h hn hc⟩,
    fun x => ⟨destRefused_qp, destRefused_qp_none, destRefused_window, destRefused_window_none⟩,
    fun r hr h hn hc st => execExportKv_rejects hn hc st r hr h, ?_⟩⟩
  · obtain ⟨k, hk⟩ := exec_dispatchRow r hr s i
    rw [hk, issue_rejects h mode]
  · obtain ⟨k, hk⟩ := exec_dispatchRow r hr s i
    rw [hk, issue_none h]
  · simp only [List.forall_mem_cons, List.not_mem_nil, false_imp_iff, implies_true, and_true]
    exact ⟨execSend_rejects, execRecv_rejects, execAllreduce_rejects, execAllgather_rejects⟩

end

section
/-!
SUPPORT. The brake, the sensors, trips, ageing and the error period.
-/
namespace Sys2Proof.Machine

/-- A fold none of whose steps changes a reading keeps it. -/
theorem foldl_skips {α β γ : Type} {f : α → γ → α} (F : α → β) {l : List γ} (h : ∀ s, ∀ x ∈ l, F (f s x) = F s) (s : α) :
    F (l.foldl f s) = F s := by
  induction l generalizing s with
  | nil => rfl
  | cons x l ih =>
    rw [List.foldl_cons, ih fun s y hy => h s y (List.mem_cons_of_mem x hy), h s x List.mem_cons_self]

/-- A fold over the first numbers reaches each of them once: what the other steps keep is as that one step leaves it. -/
theorem foldl_range_at {α : Type} (f : α → Nat → α) {n c : Nat} (h : c < n) (s : α) :
    ∃ u, ∀ {β : Type} (F : α → β), (∀ s k, k ≠ c → F (f s k) = F s) →
      F u = F s ∧ F ((List.range n).foldl f s) = F (f u c) := by
  induction n with
  | zero => exact absurd h (Nat.not_lt_zero c)
  | succ n ih =>
    rw [List.range_succ, List.foldl_append, List.foldl_cons, List.foldl_nil]
    rcases Nat.lt_succ_iff_lt_or_eq.1 h with h | rfl
    · obtain ⟨u, hu⟩ := ih h
      exact ⟨u, fun F off => ⟨(hu F off).1, (off _ _ (Nat.ne_of_gt h)).trans (hu F off).2⟩⟩
    · exact ⟨_, fun F off => ⟨foldl_skips F (fun s k hk => off s k (Nat.ne_of_lt (List.mem_range.1 hk))) s, rfl⟩⟩

/-- A fold over the first numbers, one of whose steps alone changes a reading: it is changed once. -/
theorem foldl_range_once {α β : Type} {f : α → Nat → α} (F : α → β) (g : β → β) {n c : Nat} (on : ∀ s, F (f s c) = g (F s))
    (off : ∀ s k, k ≠ c → F (f s k) = F s) (h : c < n) (s : α) : F ((List.range n).foldl f s) = g (F s) := by
  obtain ⟨u, hu⟩ := foldl_range_at f h s
  obtain ⟨before, after⟩ := hu F off
  rw [after, on, before]

section
variable {s : State}

/-! ## The brake -/

theorem execPwrBrakeAssert_takes (was : s.pins.brake = false) (on : pumps s = true ∨ s.dev.state = .lowPower) :
    exec .pwrBrakeAssert s = .next (renumber { s with pins := { s.pins with brake := true } }
      (applyBrake { s with pins := { s.pins with brake := true } })) := by
  have row : (!s.pins.brake && (pumps s || decide (s.dev.state = .lowPower))) = true := by
    rw [was]; rcases on with on | on <;> simp [on]
  exact congrArg Host.Outcome.next (if_pos row)

theorem execPwrBrakeAssert_left (h : s.pins.brake = true ∨ pumps s = false ∧ s.dev.state ≠ .lowPower) :
    exec .pwrBrakeAssert s = .next { s with pins := { s.pins with brake := true } } := by
  have row : ¬ (!s.pins.brake && (pumps s || decide (s.dev.state = .lowPower))) = true := by
    rcases h with h | ⟨h, g⟩ <;> simp [*]
  exact congrArg Host.Outcome.next (if_neg row)

theorem applyBrake_pump (s : State) : (applyBrake s).pump = { s.pump with
    brake := true, brakeDuty := 1, brakeFlag := true, brakeCount := s.pump.brakeCount + 1 } :=
  foldl_field State.pump _ (brakeCore_field State.pump fun _ _ _ => rfl) _ _

/-! ## Sensors and trips -/

theorem execSensorRead_reads (d : SensorData) (on : s.pins.powered = true) (st : s.dev.state ≠ .booting) :
    exec (.sensorRead d) s = .next (
      let u := renumber (toMultiple s 35000) ((List.range 16).foldl (readCore d) (toMultiple s 35000))
      let h := hottest (d.logic ++ d.sram)
      let v := { u with tele := { u.tele with tempMax := h.1, tempMaxSensor := h.2, vin := d.vin, pinMeasured := d.pin } }
      if 880 ≤ h.1 then tripChip v else v) := by
  have row : (s.pins.powered && s.dev.state != .booting) = true := by simp [on, st]
  exact if_pos row

theorem execSensorRead_left (d : SensorData) (h : s.pins.powered = false ∨ s.dev.state = .booting) :
    exec (.sensorRead d) s = .next s := by
  show execSensorRead d s = _
  rw [execSensorRead, if_neg]
  rcases h with h | h <;> simp [h]

/-- What a device reset keeps of the warden: all but a staging that it interrupts, the trial, the bridge and a reply. -/
theorem deviceReset_warden {β : Type} (F : Warden → β) 
    (ht : ∀ w, F { w with trial := false, bridgeOpen := false } = F w) (hf : ∀ w x, F { w with fwState := x } = F w)
    (hw : ∀ w n, F { w with writes := n } = F w) (h0 : ∀ w v, F { w with valid0 := v } = F w)
    (h1 : ∀ w v, F { w with valid1 := v } = F w) (hr : ∀ w x, F { w with reply := x } = F w) (s : State) :
    F (deviceReset s).warden = F s.warden := by
  have kept (w : Warden) : F w.kept = F w := by
    refine (ht _).trans ?_
    rw [apply_ite F, partWrite, hw, setSlotValid, apply_ite F, h0, h1, ite_self, hf, ite_self]
  refine Eq.trans ?_ (kept s.warden)
  show F (if s.sec.mbxWait.any (·.relay) then { s.warden.kept with reply := (1, []) } else s.warden.kept) = _
  rw [apply_ite F, hr, ite_self]

/-- The record of trips is the warden's: a trip adds one. -/
theorem tripChip_tripLog (s : State) : (tripChip s).warden.tripLog = s.warden.tripLog + 1 := by
  have same : (deviceReset s).warden.tripLog = s.warden.tripLog :=
    deviceReset_warden Warden.tripLog (fun _ => rfl) (fun _ _ => rfl) (fun _ _ => rfl) (fun _ _ => rfl) (fun _ _ => rfl)
      (fun _ _ => rfl) s
  exact congrArg (· + 1) same

/-! ## Ageing -/

/-- The margin and the prediction of one core. -/
def agedCore (d : AgeingData) (s : State) (c : Nat) : State :=
  putPower s c { getPower s c with
    margin := BitVec.ofNat 8 (satTo 255 (d.coreMargin.getD c 0))
    eolMonths := BitVec.ofNat 8 (satTo 255 (d.coreMonths.getD c 255)) }

/-- The state with the readings and predictions of an ageing interval, before the least of them is drawn. -/
def aged (s : State) (d : AgeingData) : State :=
  let s := toMultiple s 42000000000
  let s := (List.range 16).foldl (agedCore d) s
  { s with warden := { s.warden with history := s.warden.history ++ ageingRecord d ++ powerRecord s } }

theorem eolNotice_field {β : Type} (F : State → β) (ht : ∀ s x, F { s with tele := x } = F s)
    (hl : ∀ s a b c d e g i j, F (logFault s a b c d e g i j) = F s) (ha : ∀ s, F (raiseAlert s) = F s) (s : State)
    (crit : Bool) : F (eolNotice s crit) = F s := (ha _).trans ((hl _ _ _ _ _ _ _ _ _).trans (ht _ _))

/-- What the telemetry and its notices leave is as the readings left it. -/
theorem execAgeingMonitor_reads (d : AgeingData) (on : pumps s = true) : ∃ t, exec (.ageingMonitor d) s = .next t ∧
    ∀ {β : Type} (F : State → β), (∀ s x, F { s with tele := x } = F s) →
      (∀ s a b c d e g i j, F (logFault s a b c d e g i j) = F s) → (∀ s, F (raiseAlert s) = F s) → F t = F (aged s d) := by
  refine ⟨_, if_pos on, fun F ht hl ha => ?_⟩
  rw [apply_ite F, eolNotice_field F ht hl ha, ite_self, apply_ite F, eolNotice_field F ht hl ha, ite_self]
  exact ht _ _

theorem aged_cores {β : Type} (F : State → β) (hw : ∀ s w, F { s with warden := w } = F s) (d : AgeingData) :
    F (aged s d) = F ((List.range 16).foldl (agedCore d) (toMultiple s 42000000000)) := hw _ _

theorem aged_field {β : Type} (F : State → β) (hp : ∀ s c x, F (putPower s c x) = F s)
    (hw : ∀ s w, F { s with warden := w } = F s) (d : AgeingData) : F (aged s d) = F (toMultiple s 42000000000) :=
  (hw _ _).trans (foldl_field F _ (fun _ _ => hp _ _ _) _ _)

theorem aged_history (d : AgeingData) :
    (aged s d).warden.history = s.warden.history ++ ageingRecord d ++ powerRecord s := by
  have same {β : Type} (F : State → β) (hp : ∀ s c x, F (putPower s c x) = F s) :=
    foldl_field F (agedCore d) (fun _ _ => hp _ _ _) (List.range 16) (toMultiple s 42000000000)
  simp only [aged, powerRecord, same State.warden fun _ _ _ => rfl, same State.tele fun _ _ _ => rfl,
    same State.pump fun _ _ _ => rfl]
  rfl

theorem months_agedCore (d : AgeingData) {c : Nat} (h : c < 16) (t : State) :
    (getPower ((List.range 16).foldl (agedCore d) t) c).eolMonths = BitVec.ofNat 8 (satTo 255 (d.coreMonths.getD c 255)) := by
  refine foldl_range_once (f := agedCore d) (fun s => (getPower s c).eolMonths)
    (fun _ => BitVec.ofNat 8 (satTo 255 (d.coreMonths.getD c 255))) (fun s => ?_) (fun s k hk => ?_) h t
  · simp only [agedCore, getPower_putPower_self]
  · simp only [agedCore, getPower_putPower_ne _ _ hk.symm]

theorem aged_months (d : AgeingData) {c : Nat} (h : c < 16) :
    (getPower (aged s d) c).eolMonths = BitVec.ofNat 8 (satTo 255 (d.coreMonths.getD c 255)) :=
  (aged_cores (fun t => (getPower t c).eolMonths) (fun _ _ => rfl) d).trans (months_agedCore d h _)

theorem toMultiple_cmds (s : State) (n : Nat) : (toMultiple s n).cmds = s.cmds := rfl
theorem toMultiple_mem (s : State) (n : Nat) : (toMultiple s n).mem = s.mem := rfl

theorem toMultiple_ticks {n : Nat} (h : 0 < n) : (toMultiple s n).clk.ticks % n = 0 := by
  show (s.clk.ticks + (n - s.clk.ticks % n)) % n = 0
  have := Nat.mod_lt s.clk.ticks h
  rw [show s.clk.ticks + (n - s.clk.ticks % n) = n * (s.clk.ticks / n + 1) by
    rw [Nat.mul_add]; have := Nat.div_add_mod s.clk.ticks n; omega]
  exact Nat.mul_mod_right _ _

/-- Cores whose error counts start again. -/
theorem getCore_forgiven (t : State) (c : Nat) :
    tabGet (t.cores.map (fun p => (p.1, { p.2 with reruns := 0, exhausted := 0 : Core }))) {} c =
      { getCore t c with reruns := 0, exhausted := 0 } :=
  tabGet_map t.cores (fun k => { k with reruns := 0, exhausted := 0 : Core }) {} c

end
end Sys2Proof.Machine

open Sys2Proof Sys2Proof.Machine

/-- Settles O57: each row acts in the states that it names; what it leaves is read off its own definition. -/
theorem brakeSensorsAndAgeing : Obligations.BrakeSensorsAndAgeing := by
  unfold Obligations.BrakeSensorsAndAgeing
  intro s
  refine ⟨⟨fun was on => ⟨execPwrBrakeAssert_takes was on, ?_, ?_⟩, execPwrBrakeAssert_left⟩, rfl, fun d on st => ?_,
    fun d => execSensorRead_left d, fun on => ⟨if_pos on, rfl, rfl, rfl, rfl, rfl, tripChip_tripLog s, rfl⟩, fun off => ?_,
    fun d on => ?_, fun d off => ?_, fun p mv on => if_pos on, fun p mv off => ?_, ?_⟩
  · rw [applyBrake_pump]
  · rw [applyBrake_pump]
  · have run := execSensorRead_reads d on st
    exact ⟨fun cool => run.trans (congrArg Host.Outcome.next (if_neg (by omega))),
      fun hot => run.trans (congrArg Host.Outcome.next (if_pos hot))⟩
  · show execThermalTrip s = _
    rw [execThermalTrip, off]; rfl
  · obtain ⟨t, run, kept⟩ := execAgeingMonitor_reads d on
    refine ⟨t, run, ?_, fun c hc => ?_, ?_, ?_, ?_⟩
    · rw [kept (·.clk.ticks) (fun _ _ => rfl) (by simp) (fun _ => rfl),
        aged_field (·.clk.ticks) (fun _ _ _ => rfl) fun _ _ => rfl, toMultiple_ticks (by decide)]
    · rw [kept (getPower · c) (fun _ _ => rfl) (by simp) (fun _ => rfl), aged_months d hc]
    · rw [kept (·.warden.history) (fun _ _ => rfl) (by simp) (fun _ => rfl), aged_history]
    · rw [kept State.cmds (fun _ _ => rfl) (by simp) (fun _ => rfl),
        aged_field State.cmds (fun _ _ _ => rfl) fun _ _ => rfl, toMultiple_cmds]
    · rw [kept State.mem (fun _ _ => rfl) (by simp) (fun _ => rfl),
        aged_field State.mem (fun _ _ _ => rfl) fun _ _ => rfl, toMultiple_mem]
  · show execAgeingMonitor d s = _
    rw [execAgeingMonitor, off]; rfl
  · show execEyeMeasure p mv s = _
    rw [execEyeMeasure, off]; rfl
  · refine ⟨_, rfl, rfl, fun c => ?_, advanceTo_cmds s (us (600000000 * (s.err.periods + 1)))⟩
    have forgiven := getCore_forgiven (advanceTo s (us (600000000 * (s.err.periods + 1)))) c
    exact ⟨congrArg Core.reruns forgiven, congrArg Core.exhausted forgiven⟩

end

section
/-!
SUPPORT. The warden's messages (Table 15.11): a message with standby power runs its own change, and each change by its check.
-/
namespace Sys2Proof.Machine

section
variable {s : State}

theorem wardenDo_on (vin : s.pins.vin = true) (k : State → State) : wardenDo s k = .next (settle (k s)) := by
  rw [wardenDo, if_pos vin]; rfl

theorem wardenDo_off (vin : s.pins.vin = false) (k : State → State) : wardenDo s k = .next s := by simp [wardenDo, vin]

/-! ## Status and caps -/

theorem wardenChallenge_fresh (h : s.warden.challenge = []) : (wardenChallenge s).warden.challenge = (freshBytes s).1 := by
  simp [wardenChallenge, h]

theorem wardenChallenge_kept (h : s.warden.challenge ≠ []) : wardenChallenge s = s := by simp [wardenChallenge, h]

theorem wardenChallenge_ne_nil (s : State) : (wardenChallenge s).warden.challenge ≠ [] := by
  by_cases h : s.warden.challenge = []
  · rw [wardenChallenge_fresh h]
    exact List.ne_nil_of_length_pos (by rw [freshBytes, length_leBytes]; decide)
  · rwa [wardenChallenge_kept h]

theorem wardenChallenge_cmds (s : State) : (wardenChallenge s).cmds = s.cmds := by
  unfold wardenChallenge; split <;> rfl

theorem changeCaps_field {β : Type} (F : Pump → β) (h : ∀ p l, F { p with peakHist := l } = F p) (s : State)
    (f : Pump → Pump) : F (changeCaps s f).pump = F (f s.pump) := by
  unfold changeCaps; dsimp only; split
  · exact h _ _
  · rfl

theorem execGetStatus_runs (vin : s.pins.vin = true) : exec .getStatus s = .next (settle (
    let s := wardenChallenge s
    replyWith s 0 (leBytes 1 s.dev.state.code ++ leBytes 1 s.warden.fwState.code ++ leBytes 1 (bit01 s.sec.fallback) ++
      leBytes 1 (bit01 s.pins.thermTrip) ++ leBytes 8 s.warden.bootCount ++ s.warden.challenge))) := by
  show execGetStatus s = _
  rw [execGetStatus, wardenDo_on vin]

theorem execGetTelemetry_runs (vin : s.pins.vin = true) : exec .getTelemetry s = .next (settle (
    replyWith { s with free := s.free + 1 } 0 (leBytes 14 (drawFree s).1 ++ leBytes 1 s.tele.eolMonths.toNat))) := by
  show execGetTelemetry s = _
  rw [execGetTelemetry, wardenDo_on vin]
  rfl

theorem execSetCaps_runs (vin : s.pins.vin = true) {p u : W16} (h : 500 ≤ u.toNat ∧ u.toNat ≤ p.toNat ∧ p.toNat ≤ 1650) :
    exec (.setCaps p u) s =
      .next (settle (replyWith (changeCaps s (fun q => { q with wardenPeak := p, wardenSustained := u })) 0 [])) := by
  show execSetCaps p u s = _
  obtain ⟨h1, h2, h3⟩ := h
  rw [execSetCaps, wardenDo_on vin, decide_eq_true h1, decide_eq_true h2, decide_eq_true h3]
  rfl

theorem execSetCaps_refused (vin : s.pins.vin = true) {p u : W16}
    (h : ¬ (500 ≤ u.toNat ∧ u.toNat ≤ p.toNat ∧ p.toNat ≤ 1650)) :
    exec (.setCaps p u) s = .next (settle (replyWith s 3 [])) := by
  have bad : ¬ (decide (500 ≤ u.toNat) && decide (u.toNat ≤ p.toNat) && decide (p.toNat ≤ 1650)) = true := by
    simp only [Bool.and_eq_true, decide_eq_true_eq, and_assoc]; exact h
  show execSetCaps p u s = _
  rw [execSetCaps, wardenDo_on vin, if_neg bad]

/-! ## Power, history and the mailbox -/

theorem execPower_runs (vin : s.pins.vin = true) (op : PowerOp) : exec (.power op) s = .next (settle (match op with
    | .on => if s.pins.powered then replyWith s 0 [] else powerRequest s
    | .off => replyWith (if s.pins.powered then powerOff s else s) 0 []
    | .cycle => powerRequest (if s.pins.powered then powerOff s else s))) := by
  show execPower op s = _
  exact wardenDo_on vin _

theorem execReadHistory_runs (vin : s.pins.vin = true) (off : Nat) : exec (.readHistory off) s = .next (settle (
    if off + 64 ≤ 2 ^ 25 then replyWith s 0 (fit 64 (s.warden.history.drop off)) else replyWith s 3 [])) := by
  show execReadHistory off s = _
  rw [execReadHistory, wardenDo_on vin]

theorem execMailbox_relays (vin : s.pins.vin = true) (op : MbxOp) (req : List Byte)
    (st : s.dev.state = .ready ∨ s.dev.state = .active ∨ s.dev.state = .quiescing) :
    exec (.mailbox op req) s = .next (settle (match mailboxDo s (mbxCode op) req with
      | some r => if secBusy s then mailboxWait s true (mbxCode op) req else replyWith r.2 0 r.1
      | none => replyWith s 3 [])) := by
  show execMailbox op req s = _
  rw [execMailbox, wardenDo_on vin]
  rcases st with st | st | st <;> rw [st] <;> rfl

theorem execMailbox_refuses (vin : s.pins.vin = true) (op : MbxOp) (req : List Byte)
    (st : s.dev.state = .standby ∨ s.dev.state = .booting ∨ s.dev.state = .lowPower ∨ s.dev.state = .fault) :
    exec (.mailbox op req) s = .next (settle (replyWith s 1 [])) := by
  show execMailbox op req s = _
  rw [execMailbox, wardenDo_on vin]
  rcases st with st | st | st | st <;> rw [st]

/-! ## The owner -/

theorem slotValid_setSlotValid_self (w : Warden) (k v : Bool) : slotValid (setSlotValid w k v) k = v := by
  cases k <;> rfl

/-- A change of a slot keeps what is not of a slot. -/
theorem setSlotValid_field {β : Type} (F : Warden → β) (h0 : ∀ w v, F { w with valid0 := v } = F w)
    (h1 : ∀ w v, F { w with valid1 := v } = F w) (w : Warden) (k v : Bool) : F (setSlotValid w k v) = F w := by
  cases k
  · exact h0 w v
  · exact h1 w v

theorem setSlotImage_field {β : Type} (F : Warden → β) (h0 : ∀ w b, F { w with slot0 := b } = F w)
    (h1 : ∀ w b, F { w with slot1 := b } = F w) (w : Warden) (k : Bool) (b : List Byte) : F (setSlotImage w k b) = F w := by
  cases k
  · exact h0 w b
  · exact h1 w b

theorem setOwner_key (key : Option (List Byte)) (sig : List Byte) : (setOwner s key sig).warden.ownerKey = key := by
  refine (setSlotValid_field Warden.ownerKey (fun _ _ => rfl) (fun _ _ => rfl) _ _ _).trans ?_
  exact setSlotImage_field Warden.ownerKey (fun _ _ => rfl) (fun _ _ => rfl) _ _ _

theorem setOwner_challenge (key : Option (List Byte)) (sig : List Byte) :
    (setOwner s key sig).warden.challenge = s.warden.challenge := by
  refine (setSlotValid_field Warden.challenge (fun _ _ => rfl) (fun _ _ => rfl) _ _ _).trans ?_
  exact setSlotImage_field Warden.challenge (fun _ _ => rfl) (fun _ _ => rfl) _ _ _

theorem setSlotImage_activeSlot (w : Warden) (k : Bool) (b : List Byte) : (setSlotImage w k b).activeSlot = w.activeSlot :=
  setSlotImage_field Warden.activeSlot (fun _ _ => rfl) (fun _ _ => rfl) w k b

theorem setOwner_inactive (key : Option (List Byte)) (sig : List Byte) :
    slotValid (setOwner s key sig).warden (!s.warden.activeSlot) = false := by
  simp only [setOwner]
  exact slotValid_setSlotValid_self _ _ _

theorem execOwnerRegister_new (vin : s.pins.vin = true) {r : OwnerReq} (hk : r.key.length = 1952)
    (hi : r.imageSig.length = 3309) (none : s.warden.ownerKey = none) :
    exec (.ownerRegister r) s = .next (settle (if ownsActive s r.key r.imageSig
      then replyWith (setOwner (consumeChallenge s) (some r.key) r.imageSig) 0 []
      else replyWith (consumeChallenge s) 2 [])) := by
  show execOwnerRegister r s = _
  rw [execOwnerRegister, wardenDo_on vin]
  simp only [hk, hi, none]; rfl

theorem execOwnerRegister_owned (vin : s.pins.vin = true) {r : OwnerReq} (hk : r.key.length = 1952)
    (hi : r.imageSig.length = 3309) (owned : s.warden.ownerKey ≠ none) :
    exec (.ownerRegister r) s = .next (settle (replyWith (consumeChallenge s) 1 [])) := by
  obtain ⟨k, hk'⟩ := Option.ne_none_iff_exists'.1 owned
  show execOwnerRegister r s = _
  rw [execOwnerRegister, wardenDo_on vin]
  simp only [hk, hi, hk']; rfl

theorem execOwnerChange_clears (vin : s.pins.vin = true) {r : OwnerReq} {old : List Byte} (owned : s.warden.ownerKey = some old)
    (hk : r.key = []) (hs : r.ownerSig.length = 3309) (ch : s.warden.challenge ≠ []) :
    exec (.ownerChange r) s = .next (settle (
      if mlVerify old ctxOwn (s.warden.challenge ++ List.replicate 64 0) r.ownerSig
      then replyWith (setOwner (consumeChallenge s) none []) 0 [] else replyWith (consumeChallenge s) 2 [])) := by
  have fresh : s.warden.challenge.isEmpty = false := by simpa using ch
  show execOwnerChange r s = _
  rw [execOwnerChange, wardenDo_on vin]
  simp only [hk, hs, owned, fresh, List.isEmpty_nil, Bool.true_or, Bool.and_true, if_true, Bool.not_false, Bool.true_and]; rfl

theorem execOwnerChange_replaces (vin : s.pins.vin = true) {r : OwnerReq} {old : List Byte}
    (owned : s.warden.ownerKey = some old) (hk : r.key.length = 1952) (hi : r.imageSig.length = 3309)
    (hs : r.ownerSig.length = 3309) (ch : s.warden.challenge ≠ []) :
    exec (.ownerChange r) s = .next (settle (
      if mlVerify old ctxOwn (s.warden.challenge ++ digest64 r.key) r.ownerSig && ownsActive s r.key r.imageSig
      then replyWith (setOwner (consumeChallenge s) (some r.key) r.imageSig) 0 []
      else replyWith (consumeChallenge s) 2 [])) := by
  have fresh : s.warden.challenge.isEmpty = false := by simpa using ch
  have key : r.key.isEmpty = false := by
    cases h : r.key with
    | nil => rw [h] at hk; cases hk
    | cons _ _ => rfl
  show execOwnerChange r s = _
  rw [execOwnerChange, wardenDo_on vin]
  simp only [hk, hi, hs, owned, fresh, key, Bool.false_or, Bool.not_false, Bool.true_and]; rfl

/-! ## The operator section -/

theorem execConfigWrite_runs (vin : s.pins.vin = true) {sect : List Byte} (len : sect.length ≤ 16384) (sig : List Byte)
    {signed : Bool} (hs : signed = match s.warden.ownerKey with
      | none => true
      | some k => !s.warden.challenge.isEmpty && mlVerify k ctxOwn (s.warden.challenge ++ sect) sig) :
    exec (.configWrite sect sig) s = .next (settle (
      if Config.operatorOk sect then
        if signed then replyWith { consumeChallenge s with warden := { (consumeChallenge s).warden with
          operator := writeSection (consumeChallenge s).warden.operator sect } } 0 []
        else replyWith (consumeChallenge s) 2 []
      else replyWith (consumeChallenge s) 3 [])) := by
  show execConfigWrite sect sig s = _
  rw [execConfigWrite, wardenDo_on vin, decide_eq_true len, hs]
  cases Config.operatorOk sect <;> rfl

end
end Sys2Proof.Machine

open Sys2Proof Sys2Proof.Machine

/-- Settles O60: with standby power each message runs its change; the cases are the checks of Table 15.11. -/
theorem wardenAnswersItsMessages : Obligations.WardenAnswersItsMessages := by
  unfold Obligations.WardenAnswersItsMessages
  intro s
  refine ⟨fun vin => ⟨?_, ?_, fun p u h => ?_, fun p u h => execSetCaps_refused vin h, execPower_runs vin .off, fun on => ?_,
      fun off => ?_, execPower_runs vin .cycle, fun off h => ?_, fun off h => ?_,
      fun op req st => ⟨fun r hr => ⟨fun free => ?_, fun busy => ?_⟩, fun hr => ?_⟩,
      fun op req st => execMailbox_refuses vin op req st, fun r hk hi none => ?_,
      fun r owned hk hi => execOwnerRegister_owned vin hk hi owned, fun r old owned hk hs ch => ?_,
      fun r old owned hk hi hs ch => ?_, fun sect sig len none => ?_, fun sect sig key len owned => ?_, ?_⟩,
    fun off => ⟨?_, ?_, fun _ _ => ?_, fun _ => ?_, fun _ => ?_, fun _ _ => ?_, fun _ => ?_, fun _ => ?_, fun _ _ => ?_, ?_⟩⟩
  · exact ⟨_, execGetStatus_runs vin, rfl, wardenChallenge_ne_nil s, wardenChallenge_cmds s,
      fun h => congrArg (·.warden.challenge) (wardenChallenge_kept h)⟩
  · exact ⟨_, execGetTelemetry_runs vin, rfl, rfl, rfl⟩
  · refine ⟨_, execSetCaps_runs vin h, ?_, ?_, ?_, rfl⟩
    · exact changeCaps_field Pump.wardenPeak (fun _ _ => rfl) s _
    · exact changeCaps_field Pump.wardenSustained (fun _ _ => rfl) s _
    · exact changeCaps_field Pump.capPeak (fun _ _ => rfl) s _
  · exact (execPower_runs vin .on).trans (by simp only [if_pos on])
  · exact (execPower_runs vin .on).trans (by simp only [off, Bool.false_eq_true, if_false])
  · rw [execReadHistory_runs vin, if_pos h]
  · rw [execReadHistory_runs vin, if_neg h]
  · rw [execMailbox_relays vin op req st, hr]; simp only [free]; rfl
  · rw [execMailbox_relays vin op req st, hr]; simp only [if_pos busy]
  · rw [execMailbox_relays vin op req st, hr]
  · have run := execOwnerRegister_new vin hk hi none
    split at run
    next owns =>
      exact ⟨_, run, setOwner_challenge _ _, by
        rw [if_pos owns]
        exact ⟨setOwner_key _ _, rfl, setOwner_inactive (s := consumeChallenge s) _ _⟩⟩
    next bad => exact ⟨_, run, rfl, by rw [if_neg bad]; exact ⟨none, rfl⟩⟩
  · have run := execOwnerChange_clears vin owned hk hs ch
    split at run
    next ok => exact ⟨_, run, setOwner_challenge _ _, by rw [if_pos ok]; exact ⟨setOwner_key _ _, rfl⟩⟩
    next bad => exact ⟨_, run, rfl, by rw [if_neg bad]; exact ⟨owned, rfl⟩⟩
  · have run := execOwnerChange_replaces vin owned hk hi hs ch
    split at run
    next ok => exact ⟨_, run, setOwner_challenge _ _, by rw [if_pos ok]; exact ⟨setOwner_key _ _, rfl⟩⟩
    next bad => exact ⟨_, run, rfl, by rw [if_neg bad]; exact ⟨owned, rfl⟩⟩
  · have run := execConfigWrite_runs vin len sig (signed := true) (by rw [none])
    rw [if_pos rfl] at run
    split at run
    next ok => exact ⟨_, run, rfl, rfl, by rw [if_pos ok]; exact ⟨rfl, rfl, rfl⟩⟩
    next bad => exact ⟨_, run, rfl, rfl, by rw [if_neg bad]; exact ⟨rfl, rfl⟩⟩
  · have run := execConfigWrite_runs vin len sig
      (signed := !s.warden.challenge.isEmpty && mlVerify key ctxOwn (s.warden.challenge ++ sect) sig) (by rw [owned])
    have signed : (!s.warden.challenge.isEmpty && mlVerify key ctxOwn (s.warden.challenge ++ sect) sig) = true ↔
        s.warden.challenge ≠ [] ∧ mlVerify key ctxOwn (s.warden.challenge ++ sect) sig = true := by simp
    simp only [signed] at run
    split at run
    next ok =>
      split at run
      next mine => exact ⟨_, run, rfl, rfl, by rw [if_pos ok, if_pos mine]; exact ⟨rfl, rfl⟩⟩
      next other => exact ⟨_, run, rfl, rfl, by rw [if_pos ok, if_neg other]; exact ⟨rfl, rfl⟩⟩
    next bad => exact ⟨_, run, rfl, rfl, by rw [if_neg bad]; exact ⟨rfl, rfl⟩⟩
  · show execAlertResponse s = _
    rw [execAlertResponse, wardenDo_on vin]
  · exact (wardenDo_off off _ : execGetStatus s = .next s)
  · exact (wardenDo_off off _ : execGetTelemetry s = .next s)
  · exact (wardenDo_off off _ : execSetCaps _ _ s = .next s)
  · exact (wardenDo_off off _ : execPower _ s = .next s)
  · exact (wardenDo_off off _ : execReadHistory _ s = .next s)
  · exact (wardenDo_off off _ : execMailbox _ _ s = .next s)
  · exact (wardenDo_off off _ : execOwnerRegister _ s = .next s)
  · exact (wardenDo_off off _ : execOwnerChange _ s = .next s)
  · exact (wardenDo_off off _ : execConfigWrite _ _ s = .next s)
  · exact (wardenDo_off off _ : execAlertResponse s = .next s)

end

section
/-!
SUPPORT. Causes that end commands, device faults, resets and power.
-/
namespace Sys2Proof.Machine

/-! ## Ends -/

/-- The end that is posted against a command in flight. -/
def endingOf (s : State) (id : CmdId) : Option Ending := (findCmd s id).bind (·.ending)

theorem findCmd_modCmd_ne {s : State} {id j : CmdId} (h : j ≠ id) {f : Cmd → Cmd} (hf : ∀ c, (f c).id = c.id) :
    findCmd (modCmd s j f) id = findCmd s id := by
  rw [findCmd_modCmd s j id hf]
  cases hc : findCmd s id with
  | none => rfl
  | some c => rw [Option.map_some, if_neg fun e => h (e.symm.trans (id_of_findCmd hc))]

theorem findCmd_congr {s t : State} (h : t.cmds = s.cmds) (id : CmdId) : findCmd t id = findCmd s id := by
  rw [findCmd, findCmd, h]

section
variable {s : State} {id j : CmdId} {e : Ending} {log : State → Cmd → Nat → State}

theorem findCmd_postEnding_ne (hlog : ∀ s c n, (log s c n).cmds = s.cmds) (h : j ≠ id) :
    findCmd (postEnding s j e log) id = findCmd s id := by
  unfold postEnding
  split
  · rfl
  · split
    · exact (findCmd_modCmd_ne h fun _ => by rfl).trans (findCmd_congr (hlog _ _ _) id)
    · split <;> exact (findCmd_modCmd_ne h fun _ => by rfl).trans (findCmd_congr (hlog _ _ _) id)

theorem endingOf_postEnding_ne (hlog : ∀ s c n, (log s c n).cmds = s.cmds) (h : j ≠ id) :
    endingOf (postEnding s j e log) id = endingOf s id := by
  rw [endingOf, findCmd_postEnding_ne hlog h, endingOf]

/-- The first end posted against a command is its end. -/
theorem endingOf_postEnding_first (hlog : ∀ s c n, (log s c n).cmds = s.cmds) {c : Cmd} (hc : findCmd s id = some c)
    (none : c.ending = none) : endingOf (postEnding s id e log) id = some e := by
  have run : postEnding s id e log = modCmd (log s c 2) id (fun c => { c with ending := some e }) := by
    rw [postEnding, hc]; simp only [none]
  rw [run, endingOf, findCmd_modCmd_self ((findCmd_congr (hlog _ _ _) id).trans hc) fun _ => by rfl]; rfl

/-- An end posted later replaces the first only where it ranks before it. -/
theorem endingOf_postEnding_later (hlog : ∀ s c n, (log s c n).cmds = s.cmds) {o : Ending} (h : endingOf s id = some o) :
    endingOf (postEnding s id e log) id = some (if e.rank < o.rank then e else o) := by
  obtain ⟨c, hc, ho⟩ := Option.bind_eq_some_iff.1 h
  have run : postEnding s id e log =
      if e.rank < o.rank then modCmd (log s c 2) id (fun c => { c with ending := some e, laterCause := true })
      else modCmd (log s c 3) id (fun c => { c with laterCause := true }) := by
    rw [postEnding, hc]; simp only [ho]
  rw [run]
  split
  · rw [endingOf, findCmd_modCmd_self ((findCmd_congr (hlog _ _ _) id).trans hc) fun _ => by rfl]; rfl
  · rw [endingOf, findCmd_modCmd_self ((findCmd_congr (hlog _ _ _) id).trans hc) fun _ => by rfl]; exact ho

/-- A command in flight ends once an end is posted against it. -/
theorem ends_postEnding (hlog : ∀ s c n, (log s c n).cmds = s.cmds) (h : (findCmd s id).isSome = true) :
    (endingOf (postEnding s id e log) id).isSome = true := by
  obtain ⟨c, hc⟩ := Option.isSome_iff_exists.1 h
  cases ho : c.ending with
  | none => rw [endingOf_postEnding_first hlog hc ho]; rfl
  | some o => rw [endingOf_postEnding_later hlog (o := o) (by rw [endingOf, hc]; exact ho)]; rfl

/-- What is to end stays so. -/
theorem ends_postEnding_keeps (hlog : ∀ s c n, (log s c n).cmds = s.cmds) (h : (endingOf s id).isSome = true) :
    (endingOf (postEnding s j e log) id).isSome = true := by
  by_cases hj : j = id
  · subst hj
    obtain ⟨o, ho⟩ := Option.isSome_iff_exists.1 h
    rw [endingOf_postEnding_later hlog ho]; rfl
  · rw [endingOf_postEnding_ne hlog hj]; exact h

end

/-- What posting a cause that is logged elsewhere keeps: every reading that a command's end does not change. -/
theorem postLogged_field {β : Type} (F : State → β) (hm : ∀ s id g, (∀ c, (g c : Cmd).id = c.id) → F (modCmd s id g) = F s)
    (s : State) (id : CmdId) (k : Cause) : F (postLogged s id k) = F s := by
  unfold postLogged postEnding
  split
  · rfl
  · split
    · exact hm _ _ _ fun _ => by rfl
    · split <;> exact hm _ _ _ fun _ => by rfl

theorem postLogged_ids (s : State) (id : CmdId) (k : Cause) : (postLogged s id k).cmds.map (·.id) = s.cmds.map (·.id) :=
  postLogged_field (fun s => s.cmds.map (·.id)) (fun s id _ h => modCmd_ids s id h) s id k

section
variable (k : Cause) {i : CmdId} {l : List CmdId}

theorem endingOf_foldl_postLogged_kept {s : State} (h : endingOf s i = some (causeEnding k)) :
    endingOf (l.foldl (fun s id => postLogged s id k) s) i = some (causeEnding k) := by
  induction l generalizing s with
  | nil => exact h
  | cons j l ih =>
    refine ih ?_
    by_cases hj : j = i
    · subst hj
      exact (endingOf_postEnding_later (fun _ _ _ => rfl) h).trans (by rw [ite_self])
    · exact (endingOf_postEnding_ne (fun _ _ _ => rfl) hj).trans h

/-- A cause posted against several commands: each of them that had no end ends with it. -/
theorem endingOf_foldl_postLogged {s : State} {c : Cmd} (hc : findCmd s i = some c) (none : c.ending = none) (hl : i ∈ l) :
    endingOf (l.foldl (fun s id => postLogged s id k) s) i = some (causeEnding k) := by
  induction l generalizing s with
  | nil => exact absurd hl List.not_mem_nil
  | cons j l ih =>
    by_cases hj : j = i
    · subst hj
      exact endingOf_foldl_postLogged_kept k (s := postLogged s j k) (endingOf_postEnding_first (fun _ _ _ => rfl) hc none)
    · exact ih ((findCmd_postEnding_ne (fun _ _ _ => rfl) hj).trans hc) (List.mem_of_ne_of_mem (Ne.symm hj) hl)

theorem ends_foldl_postLogged_kept {s : State} (h : (endingOf s i).isSome = true) :
    (endingOf (l.foldl (fun s id => postLogged s id k) s) i).isSome = true := by
  induction l generalizing s with
  | nil => exact h
  | cons j l ih => exact ih (ends_postEnding_keeps (fun _ _ _ => rfl) h)

/-- A cause posted against several commands ends each of them. -/
theorem ends_foldl_postLogged {s : State} (h : (findCmd s i).isSome = true) (hl : i ∈ l) :
    (endingOf (l.foldl (fun s id => postLogged s id k) s) i).isSome = true := by
  induction l generalizing s with
  | nil => exact absurd hl List.not_mem_nil
  | cons j l ih =>
    by_cases hj : j = i
    · subst hj
      exact ends_foldl_postLogged_kept k (s := postLogged s j k) (ends_postEnding (fun _ _ _ => rfl) h)
    · exact ih (by rw [findCmd_isSome_congr (postLogged_ids s j k)]; exact h) (List.mem_of_ne_of_mem (Ne.symm hj) hl)

end

/-! ## Device faults -/

/-- A device fault before it ends the commands: its record, its flag and the inlets that halt. -/
def faulted (s : State) (unit index : Nat) : State :=
  let s := setDevState (logFault s 0x40 5 unit index none 0 0 0) .fault
  let s := raiseCause { s with dev := { s.dev with faultFlag := true, faultCount := s.dev.faultCount + 1 } } 1
  { s with inlets := s.inlets.map (fun p =>
    (p.1, if p.2.state = .open || p.2.state = .draining then { p.2 with state := .halted } else p.2)) }

theorem enterFault_eq (s : State) (unit index : Nat) : enterFault s unit index =
    (let u := (s.cmds.map (·.id)).foldl (fun u id => postLogged u id
      { localCause s .deviceFault 0 0 with log := BitVec.ofNat 16 (logFault s 0x40 5 unit index none 0 0 0).err.seq })
      (faulted s unit index)
     raiseAlert { u with channels := u.channels.map (fun p => (p.1, p.2.release)) }) := by
  simp only [enterFault, faulted, localCause, setDevState_cmds, setDevState_rcd, raiseCause_cmds, raiseCause_rcd,
    logFault_cmds, logFault_rcd]


/-- What a device fault keeps: every reading that neither the device's state, the inlets, the channels, an end nor an alert
changes. -/
theorem enterFault_field {β : Type} (F : State → β) (hf : ∀ s u i, F (faulted s u i) = F s)
    (hm : ∀ s id g, (∀ c, (g c : Cmd).id = c.id) → F (modCmd s id g) = F s)
    (hc : ∀ s l, F { s with channels := l } = F s) (ha : ∀ s, F (raiseAlert s) = F s) (s : State) (unit index : Nat) :
    F (enterFault s unit index) = F s := by
  rw [enterFault_eq]
  exact (ha _).trans ((hc _ _).trans ((foldl_field F _ (fun u id => postLogged_field F hm u id _) _ _).trans (hf _ _ _)))

theorem enterFault_mem (s : State) (unit index : Nat) : (enterFault s unit index).mem = s.mem :=
  enterFault_field State.mem (by simp [faulted]) (fun _ _ _ _ => rfl) (fun _ _ => rfl) raiseAlert_mem s _ _

theorem enterFault_power (s : State) (unit index : Nat) : (enterFault s unit index).power = s.power :=
  enterFault_field State.power (by simp [faulted]) (fun _ _ _ _ => rfl) (fun _ _ => rfl) raiseAlert_power s _ _

theorem enterFault_ids (s : State) (unit index : Nat) : (enterFault s unit index).cmds.map (·.id) = s.cmds.map (·.id) :=
  enterFault_field (fun s => s.cmds.map (·.id)) (by simp [faulted]) (fun s id _ h => modCmd_ids s id h) (fun _ _ => rfl)
    (fun _ => rfl) s _ _

theorem enterFault_dev (s : State) (unit index : Nat) : (enterFault s unit index).dev = (faulted s unit index).dev := by
  rw [enterFault_eq]
  exact foldl_field State.dev _ (fun u id => postLogged_field State.dev (fun _ _ _ _ => rfl) u id _) _ _

theorem enterFault_inlets (s : State) (unit index : Nat) :
    (enterFault s unit index).inlets = (faulted s unit index).inlets := by
  rw [enterFault_eq]
  exact foldl_field State.inlets _ (fun u id => postLogged_field State.inlets (fun _ _ _ _ => rfl) u id _) _ _

theorem faulted_state (s : State) (unit index : Nat) : (faulted s unit index).dev.state = .fault := by
  simp [faulted, setDevState_state]

theorem faulted_flag (s : State) (unit index : Nat) : (faulted s unit index).dev.faultFlag = true := by simp [faulted]

/-- An inlet that a device fault halts. -/
def Inlet.faulted (x : Inlet) : Inlet := if x.state = .open || x.state = .draining then { x with state := .halted } else x

theorem getInlet_enterFault (s : State) (unit index i : Nat) :
    getInlet (enterFault s unit index) i = Inlet.faulted (getInlet s i) := by
  have same : (faulted s unit index).inlets = s.inlets.map (fun p => (p.1, Inlet.faulted p.2)) := by
    simp only [faulted, raiseCause_inlets, setDevState_inlets, logFault_inlets]; rfl
  rw [getInlet, enterFault_inlets, same]
  exact tabGet_map s.inlets Inlet.faulted {} i

theorem Inlet.faulted_state (x : Inlet) : (Inlet.faulted x).state = match x.state with
    | .open | .draining => .halted
    | x => x := by
  unfold Inlet.faulted
  cases h : x.state <;> simp [h]

theorem getChannel_enterFault (s : State) (unit index ch : Nat) : (getChannel (enterFault s unit index) ch).st = .free := by
  rw [enterFault_eq]
  exact congrArg Channel.st (tabGet_map _ Channel.release {} ch)

/-- A device fault ends every command in flight. -/
theorem ends_enterFault {s : State} {id : CmdId} (h : (findCmd s id).isSome = true) (unit index : Nat) :
    (endingOf (enterFault s unit index) id).isSome = true := by
  have cmds : (faulted s unit index).cmds = s.cmds := by simp [faulted]
  have inFlight : id ∈ s.cmds.map (·.id) := by rw [findCmd_isSome] at h; simpa using h
  rw [enterFault_eq]
  exact ends_foldl_postLogged _ (by rw [findCmd_congr cmds]; exact h) inFlight

/-- A command without an end ends with the fault. -/
theorem endingOf_enterFault {s : State} {c : Cmd} {id : CmdId} (h : findCmd s id = some c) (none : c.ending = none)
    (unit index : Nat) : (endingOf (enterFault s unit index) id).map (fun e => (e.status, e.cause.map (·.code))) =
      some (.aborted, some .deviceFault) := by
  have cmds : (faulted s unit index).cmds = s.cmds := by simp [faulted]
  have inFlight : id ∈ s.cmds.map (·.id) := List.mem_map.2 ⟨c, List.mem_of_find?_eq_some h, id_of_findCmd h⟩
  rw [enterFault_eq]
  exact congrArg (Option.map _) (endingOf_foldl_postLogged _ ((findCmd_congr cmds id).trans h) none inFlight)

/-! ## LOW_POWER -/

theorem railFor_putPower {s : State} {k c : Nat} (h : k ≠ c) (x : CorePower) (m : Nat) :
    railFor (putPower s k x) c m = railFor s c m := by
  rw [railFor, railFor, getPower_putPower_ne _ _ h.symm]; rfl

/-- A core's rail as LOW_POWER ends (R328). -/
def restoreRail (s : State) (c : Nat) : State :=
  putPower s c { getPower s c with railMv := railFor s c (getPower s c).m }

theorem railMv_leaveLowPower (s : State) {c : Nat} (h : c < 16) :
    (getPower (leaveLowPower s) c).railMv = railFor s c (getPower s c).m := by
  obtain ⟨u, hu⟩ := foldl_range_at restoreRail h s
  obtain ⟨before, _⟩ := hu (fun s => railFor s c (getPower s c).m) fun s k hk => by
    simp only [restoreRail, railFor_putPower hk, getPower_putPower_ne _ _ hk.symm]
  obtain ⟨_, after⟩ := hu (fun s => (getPower s c).railMv) fun s k hk => by
    simp only [restoreRail, getPower_putPower_ne _ _ hk.symm]
  refine after.trans (Eq.trans ?_ before)
  simp only [restoreRail, getPower_putPower_self]

/-- What the end of LOW_POWER keeps: every reading but of the rails, the trigger and self-refresh. -/
theorem leaveLowPower_field {β : Type} (F : State → β) (hp : ∀ s c x, F (putPower s c x) = F s)
    (hd : ∀ s d b, F { s with dev := d, selfRefresh := b } = F s) (s : State) : F (leaveLowPower s) = F s :=
  (hd _ _ _).trans (foldl_field F _ (fun _ _ => hp _ _ _) _ _)

theorem execDeviceFault_running {s : State} (u : BitVec 8)
    (st : s.dev.state = .ready ∨ s.dev.state = .active ∨ s.dev.state = .quiescing ∨ s.dev.state = .lowPower) :
    exec (.deviceFault u) s =
      .next (settle (enterFault (if s.dev.state = .lowPower then leaveLowPower s else s) u.toNat 0)) := by
  show execDeviceFault u s = _
  rw [execDeviceFault]
  rcases st with st | st | st | st <;> rw [st] <;> rfl

/-! ## Resets and power -/

/-- The operator section that a device reset puts in force is the copy of the warden's that counts. -/
theorem deviceReset_operator (s : State) : (deviceReset s).sec.operator = s.warden.operator.used.1 := by
  have kept : (deviceReset s).warden.operator = s.warden.operator :=
    deviceReset_warden Warden.operator (fun _ => rfl) (fun _ _ => rfl) (fun _ _ => rfl) (fun _ _ => rfl) (fun _ _ => rfl)
      (fun _ _ => rfl) s
  rw [← kept]; rfl

theorem deviceReset_tripped (s : State) : (deviceReset s).warden.tripped = s.warden.tripped :=
  deviceReset_warden Warden.tripped (fun _ => rfl) (fun _ _ => rfl) (fun _ _ => rfl) (fun _ _ => rfl) (fun _ _ => rfl)
    (fun _ _ => rfl) s

theorem deviceReset_bootCount (s : State) : (deviceReset s).warden.bootCount = s.warden.bootCount :=
  deviceReset_warden Warden.bootCount (fun _ => rfl) (fun _ _ => rfl) (fun _ _ => rfl) (fun _ _ => rfl) (fun _ _ => rfl)
    (fun _ _ => rfl) s

theorem getPower_deviceReset (s : State) (c : Nat) : getPower (deviceReset s) c = (getPower s c).kept :=
  tabGet_map s.power CorePower.kept {} c

section
variable {s : State}

theorem linkReset_taken (on : s.pins.powered = true) (up : hostUp s = true) :
    linkReset s = .next (deviceReset { s with pins := { s.pins with linkReset := true } }) := by rw [linkReset, on, up]; rfl

theorem linkReset_left (off : s.pins.powered = false) : linkReset s = .next s := by rw [linkReset, off]; rfl

/-- The module once VIN is back, before AUTO_POWER: standby power, the warden's own caps, the operator section in force. -/
def vinBack (s : State) (intact : Bool) : State :=
  let o := s.warden.operator
  let s := deviceReset { s with warden := { s.warden with operator := { o with intact := o.intact && intact } } }
  { s with
    dev := { s.dev with state := .standby }
    pins := { s.pins with vin := true, thermTrip := s.warden.tripped }
    pump := { s.pump with wardenPeak := 1650, wardenSustained := 1650 }
    warden := { s.warden with challenge := [], alert := false, fallbackDue := false } }

theorem vinBack_tripped (intact : Bool) : (vinBack s intact).warden.tripped = s.warden.tripped :=
  deviceReset_tripped _

theorem execVinRise_returns (off : s.pins.vin = false) (b : Bool) : exec (.vinRise b) s =
    .next (if (vinBack s b).rcd.autoPower && !s.warden.tripped then powerOn (vinBack s b) else vinBack s b) := by
  rw [← vinBack_tripped b]
  show execVinRise b s = _
  rw [execVinRise, off]; rfl

theorem powerOn_operator (s : State) : (powerOn s).sec.operator = s.warden.operator.used.1 := deviceReset_operator s

theorem vinBack_operator (b : Bool) :
    (vinBack s b).sec.operator = (if s.warden.operator.intact && b then s.warden.operator.body else s.warden.operator.oldBody) :=
  (deviceReset_operator _).trans (by rw [Section.used, apply_ite Prod.fst])

theorem vinBack_section (b : Bool) : (vinBack s b).warden.operator.used.1 = (vinBack s b).sec.operator := rfl

end
end Sys2Proof.Machine

open Sys2Proof Sys2Proof.Machine

/-- Settles O58: a fault by the state it meets; a reset and the return of VIN by what they keep. -/
theorem resetsAndPowerFollowTheirRules : Obligations.ResetsAndPowerFollowTheirRules := by
  unfold Obligations.ResetsAndPowerFollowTheirRules
  intro s
  refine ⟨fun u st => ?_, fun u st => ?_, fun on => ⟨if_pos on, ?_, fun up => ?_⟩, fun off => ?_,
    ⟨rfl, rfl, rfl, rfl, rfl, rfl, rfl, rfl, rfl, rfl, deviceReset_bootCount s, rfl, fun c => ?_⟩, ⟨fun reset vin off => ⟨?_, ?_⟩, ?_⟩,
    fun vin => ⟨⟨_, if_pos vin, rfl, rfl, rfl, rfl⟩, fun b => if_pos vin⟩, fun off => ⟨?_, fun b => ⟨?_, ?_⟩⟩⟩
  · intro v
    have kept {β : Type} (F : State → β) (hp : ∀ s c x, F (putPower s c x) = F s)
        (hd : ∀ s d b, F { s with dev := d, selfRefresh := b } = F s) : F v = F s := by
      simp only [v]; rw [apply_ite F, leaveLowPower_field F hp hd, ite_self]
    have cmds : v.cmds = s.cmds := kept State.cmds (fun _ _ _ => rfl) fun _ _ _ => rfl
    refine ⟨execDeviceFault_running u st, ?_, ?_, ?_, fun i => ?_, fun c hc => ⟨?_, fun none found => ?_⟩, ?_, ?_, fun ch => ?_,
      fun k hk low => ?_⟩
    · rw [enterFault_dev, faulted_state]
    · rw [enterFault_dev, faulted_flag]
    · rw [enterFault_eq]; rfl
    · rw [getInlet_enterFault, kept (getInlet · i) (fun _ _ _ => rfl) fun _ _ _ => rfl]
      exact Inlet.faulted_state _
    · exact ends_enterFault (by rw [findCmd_congr cmds, Option.isSome_iff_exists]; exact findCmd_of_mem hc) _ _
    · exact endingOf_enterFault ((findCmd_congr cmds _).trans found) none _ _
    · rw [enterFault_ids, cmds]
    · rw [enterFault_mem, kept State.mem (fun _ _ _ => rfl) fun _ _ _ => rfl]
    · exact getChannel_enterFault _ _ _ ch
    · rw [getPower, enterFault_power, ← getPower]
      simp only [v, if_pos low]
      exact railMv_leaveLowPower s hk
  · show execDeviceFault u s = _
    rw [execDeviceFault]
    rcases st with st | st | st <;> rw [st]
  · exact congrArg Host.Outcome.next (if_pos on)
  · exact ⟨linkReset_taken on up, linkReset_taken on up, linkReset_taken on up⟩
  · refine ⟨?_, linkReset_left off, linkReset_left off, linkReset_left off, ?_⟩
    · show execPerstNAssert s = _
      rw [execPerstNAssert, off]; rfl
    · refine congrArg Host.Outcome.next (if_neg ?_)
      simp [off]
  · rw [getPower_deviceReset]; rfl
  · refine congrArg Host.Outcome.next (if_pos ?_)
    simp [reset, vin, off]
  · intro free
    simp only [requestPower, tripAllows, free]; exact ⟨rfl, rfl⟩
  · intro h
    refine congrArg Host.Outcome.next (if_neg ?_)
    rcases h with h | h | h <;> simp [h]
  · show execVinLoss s = _
    rw [execVinLoss, off]; rfl
  · exact vinBack_operator b
  · have run := execVinRise_returns off b
    by_cases auto : ((vinBack s b).rcd.autoPower && !s.warden.tripped) = true
    · rw [if_pos auto] at run
      rw [Bool.and_eq_true, Bool.not_eq_true'] at auto
      refine ⟨_, run, rfl, rfl, powerOn_operator _, fun _ => ⟨rfl, rfl⟩, fun h => ?_⟩
      rcases h with h | h
      · exact absurd auto.1 (by rw [show (vinBack s b).rcd.autoPower = false from h]; decide)
      · rw [h] at auto; exact absurd auto.2 (by decide)
    · rw [if_neg auto] at run
      refine ⟨_, run, rfl, rfl, rfl, fun h => absurd ?_ auto, fun _ => ⟨rfl, rfl, vinBack_tripped b⟩⟩
      rw [Bool.and_eq_true, Bool.not_eq_true']; exact h

end

section
/-!
SUPPORT. LOW_POWER, boot, and trial boots.
-/
namespace Sys2Proof.Machine

/-! ## LOW_POWER -/

section
variable {s : State}

/-- What a change of the device's state keeps: every reading but of the device and the interrupts. -/
theorem setDevState_field {β : Type} (F : State → β) (hd : ∀ s d, F { s with dev := d } = F s)
    (hr : ∀ s n, F (raiseCause s n) = F s) (s : State) (st : DevState) : F (setDevState s st) = F s := by
  unfold setDevState; split
  · rfl
  · exact (hr _ _).trans (hd _ _)

/-- A core's rail in LOW_POWER (R347). -/
def retainRail (s : State) (c : Nat) : State := putPower s c { getPower s c with railMv := 600, raising := none }

/-- A Thondlink port that was up stands by (R303). -/
def portStandby (s : State) (p : Nat) : State :=
  let x := getPort s p
  if x.link = .up && !isEth s p then putPort s p { x with link := .keepAlive, widen := false } else s

/-- The device as LOW_POWER begins. -/
def inLowPower (s : State) : State :=
  let s := advanceTo s (s.dev.idleFrom + us s.dev.idleEntry.toNat)
  setDevState { s with dev := { s.dev with wakeFrom := none }, selfRefresh := true } .lowPower

theorem execLowPowerEntry_enters (st : s.dev.state = .ready) (en : s.dev.lowPowerEn = true) (off : s.lock.repeatable = false) :
    exec .lowPowerEntry s =
      .next (settle ((List.range 12).foldl portStandby ((List.range 16).foldl retainRail (inLowPower s)))) := by
  have row : (decide (s.dev.state = .ready) && s.dev.lowPowerEn && !s.lock.repeatable) = true := by rw [st, en, off]; rfl
  exact if_pos row

theorem execLowPowerEntry_left (h : s.dev.state ≠ .ready ∨ s.dev.lowPowerEn = false ∨ s.lock.repeatable = true) :
    exec .lowPowerEntry s = .next s := by
  refine if_neg ?_
  rcases h with h | h | h <;> simp [h]

/-- What the rails and ports of LOW_POWER keep. -/
theorem lowPower_field {β : Type} (F : State → β) (hp : ∀ s c x, F (putPower s c x) = F s)
    (ht : ∀ s p x, F (putPort s p x) = F s) (s : State) :
    F ((List.range 12).foldl portStandby ((List.range 16).foldl retainRail s)) = F s := by
  refine (foldl_field F portStandby (fun s p => ?_) _ _).trans (foldl_field F retainRail (fun _ _ => hp _ _ _) _ _)
  unfold portStandby; dsimp only; split
  · exact ht _ _ _
  · rfl

theorem railMv_lowPower (s : State) {c : Nat} (h : c < 16) :
    (getPower ((List.range 12).foldl portStandby ((List.range 16).foldl retainRail s)) c).railMv = 600 := by
  refine (foldl_field (fun s => (getPower s c).railMv) portStandby (fun s p => ?_) _ _).trans ?_
  · unfold portStandby; dsimp only; split <;> rfl
  · refine foldl_range_once (fun s => (getPower s c).railMv) (fun _ => 600) (fun s => ?_) (fun s k hk => ?_) h s
    · simp only [retainRail, getPower_putPower_self]
    · simp only [retainRail, getPower_putPower_ne _ _ hk.symm]

theorem inLowPower_ticks (s : State) :
    (inLowPower s).clk.ticks = max s.clk.ticks (s.dev.idleFrom + us s.dev.idleEntry.toNat) := by
  rw [inLowPower, setDevState_clk]; exact advanceTo_ticks s _

theorem execWakeComplete_wakes (st : s.dev.state = .lowPower) (wake : s.dev.wakeFrom ≠ none) :
    exec .wakeComplete s = .next (settle (setDevState (leaveLowPower s) .ready)) := by
  have row : (decide (s.dev.state = .lowPower) && s.dev.wakeFrom.isSome) = true := by
    rw [st, Option.isSome_iff_ne_none.2 wake]; rfl
  exact if_pos row

theorem execWakeComplete_left (h : s.dev.state ≠ .lowPower ∨ s.dev.wakeFrom = none) : exec .wakeComplete s = .next s := by
  refine if_neg ?_
  rcases h with h | h <;> simp [h]

/-! ## Boot -/

/-- The state in which the boot ROM chooses a slot: the boot counts, and the resets have ended (R412). -/
def bootBegun (s : State) : State :=
  { s with
    dev := { s.dev with bootFrom := some s.clk.ticks }
    pins := { s.pins with perst := false, linkReset := false }
    warden := { s.warden with bootCount := s.warden.bootCount + 1 } }

/-- What starting an image leaves of a reading that neither a port nor the image changes. -/
theorem startImage_field {β : Type} (F : State → β) (ht : ∀ s p x, F (putPort s p x) = F s) (s : State) (b : List Byte) :
    F (startImage s b) = F { s with
      dev := { s.dev with firmware := true }
      sec := { s.sec with
        image := b, svnActive := imgSvn b, keys := true, bootOwner := usedOwner s.warden, bootC := s.warden.minSvn } } :=
  foldl_field F _ (fun _ _ => ht _ _ _) _ _

theorem startImage_starts (s : State) (b : List Byte) : (startImage s b).dev.firmware = true ∧ (startImage s b).sec.image = b ∧
    (startImage s b).warden = s.warden :=
  ⟨startImage_field (·.dev.firmware) (fun _ _ _ => rfl) s b, startImage_field (·.sec.image) (fun _ _ _ => rfl) s b,
    startImage_field (·.warden) (fun _ _ _ => rfl) s b⟩

/-- What the failure of a trial keeps of the warden: all but the trial, its slot and the staging. -/
theorem trialFails_warden {β : Type} (F : Warden → β) (ht : ∀ w, F { w with trial := false, bridgeOpen := false } = F w)
    (hf : ∀ w x, F { w with fwState := x } = F w) (hw : ∀ w n, F { w with writes := n } = F w)
    (h0 : ∀ w v, F { w with valid0 := v } = F w) (h1 : ∀ w v, F { w with valid1 := v } = F w)
    (hr : ∀ w x, F { w with reply := x } = F w) (hb : ∀ w a b, F { w with fallbackDue := a, fallbackNext := b } = F w)
    (s : State) : F (trialFails s).warden = F s.warden := by
  refine (hb _ _ _).trans ((hw _ _).trans ((setSlotValid_field F h0 h1 _ _ _).trans ((hf _ _).trans ?_)))
  exact deviceReset_warden F ht hf hw h0 h1 hr s

theorem trialFails_bootCount (s : State) : (trialFails s).warden.bootCount = s.warden.bootCount :=
  trialFails_warden Warden.bootCount (fun _ => rfl) (fun _ _ => rfl) (fun _ _ => rfl) (fun _ _ => rfl) (fun _ _ => rfl)
    (fun _ _ => rfl) (fun _ _ _ => rfl) s

theorem trialFails_activeSlot (s : State) : (trialFails s).warden.activeSlot = s.warden.activeSlot :=
  trialFails_warden Warden.activeSlot (fun _ => rfl) (fun _ _ => rfl) (fun _ _ => rfl) (fun _ _ => rfl) (fun _ _ => rfl)
    (fun _ _ => rfl) (fun _ _ _ => rfl) s

theorem trialFails_fwState (s : State) : (trialFails s).warden.fwState = .none :=
  setSlotValid_field Warden.fwState (fun _ _ => rfl) (fun _ _ => rfl) _ _ _

theorem trialFails_slot (s : State) : slotValid (trialFails s).warden (!s.warden.activeSlot) = false := by
  have active : (powerOff s).warden.activeSlot = s.warden.activeSlot :=
    deviceReset_warden Warden.activeSlot (fun _ => rfl) (fun _ _ => rfl) (fun _ _ => rfl) (fun _ _ => rfl) (fun _ _ => rfl)
      (fun _ _ => rfl) s
  rw [← active]
  exact slotValid_setSlotValid_self _ _ _

theorem enterFault_bootCount (s : State) (unit index : Nat) :
    (enterFault s unit index).warden.bootCount = s.warden.bootCount :=
  enterFault_field (·.warden.bootCount) (by simp [faulted]) (fun _ _ _ _ => rfl) (fun _ _ => rfl) (fun _ => rfl) s _ _

theorem bootFails_bootCount (s : State) : (bootFails s).warden.bootCount = s.warden.bootCount := by
  unfold bootFails; dsimp only; split
  · exact (trialFails_bootCount _).trans (enterFault_bootCount s 6 0)
  · exact enterFault_bootCount s 6 0

theorem bootFails_state {s : State} (h : s.warden.trial = false) : (bootFails s).dev.state = .fault := by
  simp only [bootFails, h, Bool.false_eq_true, if_false, enterFault_dev, faulted_state]

/-- Every boot counts, whatever the ROM chooses. -/
theorem chooseSlot_bootCount (s : State) : (chooseSlot s).warden.bootCount = s.warden.bootCount := by
  have started (s : State) (b : List Byte) : (startImage s b).warden = s.warden := (startImage_starts s b).2.2
  have fallback {w : Warden} (h : w.bootCount = s.warden.bootCount) (f : Bool) :
      (if f then setFallback { s with warden := { s.warden with fallbackNext := false } } else s).warden.bootCount =
        s.warden.bootCount := by split <;> rfl
  unfold chooseSlot
  dsimp only
  split
  · split
    · rw [started]
    · rw [trialFails_bootCount]; rfl
  · split
    · rw [started]; exact fallback rfl _
    · split
      · rw [started]; exact fallback rfl _
      · rw [bootFails_bootCount]; exact fallback rfl _

theorem bootStart_bootCount (s : State) : (bootStart s true).warden.bootCount = s.warden.bootCount + 1 :=
  chooseSlot_bootCount (bootBegun s)

/-- The check of the boot ROM reads the slot, the owner and the least SVN alone. -/
theorem bootVerify_begun (s : State) (b : List Byte) :
    bootVerify (bootBegun s).warden b = verifyImage { s.warden with ownerKey := usedOwner s.warden } b := rfl

theorem chooseSlot_active {s : State} (pending : s.warden.fwState ≠ .pending) (next : s.warden.fallbackNext = false) :
    chooseSlot s = match bootVerify s.warden (slotImage s.warden s.warden.activeSlot) with
      | none => startImage s (slotImage s.warden s.warden.activeSlot)
      | some k =>
        if slotValid s.warden (!s.warden.activeSlot) &&
            (bootVerify s.warden (slotImage s.warden (!s.warden.activeSlot))).isNone then
          startImage { setFallback s with warden := partWrite { (setFallback s).warden with
            activeSlot := !s.warden.activeSlot } } (slotImage s.warden (!s.warden.activeSlot))
        else bootFails (logBoot s k) := by
  unfold chooseSlot
  refine (if_neg pending).trans ?_
  rw [next]; rfl

theorem chooseSlot_trial {s : State} (pending : s.warden.fwState = .pending) :
    chooseSlot s = match bootVerify s.warden (slotImage s.warden (!s.warden.activeSlot)) with
      | none => startImage { s with warden := { s.warden with trial := true } } (slotImage s.warden (!s.warden.activeSlot))
      | some k => trialFails (logBoot { s with warden := { s.warden with trial := true } } k) := by
  unfold chooseSlot
  exact if_pos pending

/-! ## The result of a boot -/

/-- What a core that fails its self-test leaves: every reading but of its registers, its sluices, the log and a flag. -/
theorem bootCoreOut_field {β : Type} (F : State → β) (hc : ∀ s c k, F (putCore s c k) = F s)
    (hs : ∀ s n k, F (putSluice s n k) = F s) (hl : ∀ s a b c d e g i j, F (logFault s a b c d e g i j) = F s)
    (he : ∀ s, F (setCoreOut s) = F s) (s : State) (c : Nat) : F (bootCoreOut s c) = F s :=
  (he _).trans ((hl _ _ _ _ _ _ _ _ _).trans ((foldl_field F _ (fun _ _ => hs _ _ _) _ _).trans (hc _ _ _)))

theorem bootCoreOut_cores (s : State) (c : Nat) : (bootCoreOut s c).cores =
    (putCore s c { getCore s c with st := .outOfService, outReason := .selfTest }).cores := by
  refine (logFault_cores _ _ _ _ _ _ _ _ _).trans ?_
  exact foldl_field State.cores _ (fun _ _ => by rfl) _ _

/-- The cores that failed leave service. -/
def coresTested (r : BootResult) (s : State) : State :=
  (List.range 16).foldl (fun s c => if r.coresOk.getLsbD c then s else bootCoreOut s c) s

theorem coresTested_field {β : Type} (F : State → β) (hc : ∀ s c k, F (putCore s c k) = F s)
    (hs : ∀ s n k, F (putSluice s n k) = F s) (hl : ∀ s a b c d e g i j, F (logFault s a b c d e g i j) = F s)
    (he : ∀ s, F (setCoreOut s) = F s) (r : BootResult) (s : State) : F (coresTested r s) = F s := by
  refine foldl_field F _ (fun s c => ?_) _ _
  rw [apply_ite F, bootCoreOut_field F hc hs hl he, ite_self]

theorem getCore_coresTested (r : BootResult) (s : State) {c : Nat} (h : c < 16) : getCore (coresTested r s) c =
    if r.coresOk.getLsbD c then getCore s c else { getCore s c with st := .outOfService, outReason := .selfTest } := by
  refine foldl_range_once (getCore · c)
    (fun k => if r.coresOk.getLsbD c then k else { k with st := .outOfService, outReason := .selfTest }) (fun s => ?_)
    (fun s k hk => ?_) h s
  · split
    · rfl
    · rw [getCore, bootCoreOut_cores]; exact getCore_putCore_self _ _ _
  · split
    · rfl
    · rw [getCore, bootCoreOut_cores]; exact getCore_putCore_ne _ _ hk.symm

section
variable {s : State} {r : BootResult}

theorem execBootComplete_ready (st : s.dev.state = .booting) (fw : s.dev.firmware = true) (ddr : r.ddrTrained = true)
    (polder : r.polderOk = true) (cores : r.coresOk ≠ 0) (time : s.warden.trial = false ∨ s.clk.ticks ≤ trialLimit s)
    (brake : s.pins.brake = false) : exec (.bootComplete r) s = .next (settle (setDevState
      (if s.warden.trial then trialWorks (coresTested r s) else coresTested r s) .ready)) := by
  have row : (decide (s.dev.state = .booting) && s.dev.firmware) = true := by rw [st, fw]; rfl
  have inTime : ¬ (s.warden.trial && decide (trialLimit s < s.clk.ticks)) = true := by
    rw [Bool.and_eq_true, decide_eq_true_eq]
    rcases time with h | h
    · rw [h]; exact fun g => absurd g.1 (by decide)
    · exact fun g => Nat.not_lt.2 h g.2
  have good : (r.ddrTrained && r.polderOk && r.coresOk != 0) = true := by rw [ddr, polder, bne_iff_ne.2 cores]; rfl
  have kept {β : Type} (F : State → β) := coresTested_field (β := β) F (r := r) (s := s)
  have trial : (coresTested r s).warden.trial = s.warden.trial :=
    kept (·.warden.trial) (fun _ _ _ => rfl) (fun _ _ _ => rfl) (by simp) fun _ => rfl
  have pins : (setDevState (if s.warden.trial then trialWorks (coresTested r s) else coresTested r s) .ready).pins = s.pins := by
    rw [setDevState_pins, apply_ite State.pins]
    exact (ite_self _).trans (kept State.pins (fun _ _ _ => rfl) (fun _ _ _ => rfl) (by simp) fun _ => rfl)
  refine (if_pos row : execBootComplete r s = _).trans ((if_neg inTime).trans ((if_pos good).trans ?_))
  show ok (if (setDevState (if (coresTested r s).warden.trial then trialWorks (coresTested r s) else coresTested r s)
    .ready).pins.brake then _ else setDevState (if (coresTested r s).warden.trial then trialWorks (coresTested r s)
      else coresTested r s) .ready) = _
  rw [trial, pins, brake]; rfl

theorem execBootComplete_late (st : s.dev.state = .booting) (fw : s.dev.firmware = true) (trial : s.warden.trial = true)
    (late : trialLimit s < s.clk.ticks) : exec (.bootComplete r) s = .next (trialFails s) := by
  have row : (decide (s.dev.state = .booting) && s.dev.firmware) = true := by rw [st, fw]; rfl
  have isLate : (s.warden.trial && decide (trialLimit s < s.clk.ticks)) = true := by rw [trial, decide_eq_true late]; rfl
  exact (if_pos row : execBootComplete r s = _).trans (if_pos isLate)

theorem execBootComplete_fails (st : s.dev.state = .booting) (fw : s.dev.firmware = true)
    (time : s.warden.trial = false ∨ s.clk.ticks ≤ trialLimit s)
    (bad : r.ddrTrained = false ∨ r.polderOk = false ∨ r.coresOk = 0) :
    exec (.bootComplete r) s = .next (settle (bootFails s)) := by
  have row : (decide (s.dev.state = .booting) && s.dev.firmware) = true := by rw [st, fw]; rfl
  have inTime : ¬ (s.warden.trial && decide (trialLimit s < s.clk.ticks)) = true := by
    rw [Bool.and_eq_true, decide_eq_true_eq]
    rcases time with h | h
    · rw [h]; exact fun g => absurd g.1 (by decide)
    · exact fun g => Nat.not_lt.2 h g.2
  have notGood : ¬ (r.ddrTrained && r.polderOk && r.coresOk != 0) = true := by
    rcases bad with h | h | h <;> simp [h]
  exact (if_pos row : execBootComplete r s = _).trans ((if_neg inTime).trans (if_neg notGood))

theorem execBootComplete_left (h : s.dev.state ≠ .booting ∨ s.dev.firmware = false) :
    exec (.bootComplete r) s = .next s := by
  refine if_neg ?_
  rcases h with h | h <;> simp [h]

end

/-- A core that failed its self-test is out of service as READY begins; the others are as they were. -/
theorem getCore_ready (r : BootResult) (s : State) {u : State} (hu : u.cores = (coresTested r s).cores) {c : Nat} (h : c < 16) :
    getCore (setDevState u .ready) c =
      if r.coresOk.getLsbD c then getCore s c else { getCore s c with st := .outOfService, outReason := .selfTest } := by
  rw [← getCore_coresTested r s h, getCore, getCore, setDevState_cores, hu]

/-- The warden with the slot that is left no longer valid where its SVN is below the new C (R382). -/
def retired (s : State) : Warden :=
  if imgSvn (slotImage s.warden s.warden.activeSlot) <
      max s.warden.minSvn (imgSvn (slotImage s.warden (!s.warden.activeSlot))) then
    setSlotValid s.warden s.warden.activeSlot false else s.warden

theorem slotValid_setSlotValid_ne (w : Warden) (k v : Bool) : slotValid (setSlotValid w k v) (!k) = slotValid w (!k) := by
  cases k <;> rfl

/-- The warden after a trial that worked: the slot that was left stays valid at an SVN of at least C (R382). -/
theorem trialWorks_slots (s : State) :
    (∀ k, slotImage (trialWorks s).warden k = slotImage s.warden k) ∧
    slotValid (trialWorks s).warden (!s.warden.activeSlot) = slotValid s.warden (!s.warden.activeSlot) ∧
    slotValid (trialWorks s).warden s.warden.activeSlot = (slotValid s.warden s.warden.activeSlot &&
      decide ((trialWorks s).warden.minSvn ≤ imgSvn (slotImage s.warden s.warden.activeSlot))) := by
  have least : (trialWorks s).warden.minSvn = max s.warden.minSvn (imgSvn (slotImage s.warden (!s.warden.activeSlot))) := rfl
  have images (k : Bool) : slotImage (trialWorks s).warden k = slotImage (retired s) k := rfl
  have valid (k : Bool) : slotValid (trialWorks s).warden k = slotValid (retired s) k := rfl
  simp only [images, valid, least]
  unfold retired
  split
  next low =>
    refine ⟨fun k => setSlotValid_field (slotImage · k) (fun _ _ => rfl) (fun _ _ => rfl) _ _ _, ?_, ?_⟩
    · exact slotValid_setSlotValid_ne _ _ _
    · rw [slotValid_setSlotValid_self, decide_eq_false (Nat.not_le.2 low), Bool.and_false]
  next high =>
    exact ⟨fun _ => rfl, rfl, by rw [decide_eq_true (Nat.not_lt.1 high), Bool.and_true]⟩

/-- A boot of the active slot, with nothing pending (R381, R382). -/
theorem bootStart_active {s : State} (pending : s.warden.fwState ≠ .pending) (next : s.warden.fallbackNext = false) :
    let img := slotImage s.warden s.warden.activeSlot
    if (verifyImage { s.warden with ownerKey := usedOwner s.warden } img).isNone then (bootStart s true).dev.firmware = true ∧
      (bootStart s true).sec.image = img ∧ (bootStart s true).warden.activeSlot = s.warden.activeSlot
    else s.warden.trial = false → slotValid s.warden (!s.warden.activeSlot) = false →
      (bootStart s true).dev.state = .fault := by
  intro img
  have chosen := chooseSlot_active (s := bootBegun s) pending next
  have verified : bootVerify (bootBegun s).warden (slotImage (bootBegun s).warden (bootBegun s).warden.activeSlot) =
    verifyImage { s.warden with ownerKey := usedOwner s.warden } img := rfl
  rw [verified] at chosen
  cases check : verifyImage { s.warden with ownerKey := usedOwner s.warden } img with
  | none =>
    rw [check] at chosen
    obtain ⟨firmware, image, warden⟩ := startImage_starts (bootBegun s) img
    have started : bootStart s true = startImage (bootBegun s) img := chosen
    refine (if_pos rfl).mpr ?_
    rw [started]
    exact ⟨firmware, image, (congrArg Warden.activeSlot warden).trans rfl⟩
  | some k =>
    rw [check] at chosen
    refine (if_neg Bool.false_ne_true).mpr fun trial invalid => ?_
    have none : ¬ (slotValid (bootBegun s).warden (!(bootBegun s).warden.activeSlot) &&
        (bootVerify (bootBegun s).warden (slotImage (bootBegun s).warden (!(bootBegun s).warden.activeSlot))).isNone) =
          true := by
      rw [show slotValid (bootBegun s).warden (!(bootBegun s).warden.activeSlot) = false from invalid]
      exact Bool.false_ne_true
    have failed : bootStart s true = bootFails (logBoot (bootBegun s) k) := chosen.trans (if_neg none)
    rw [failed]
    exact bootFails_state trial

/-- A boot of the pending slot, as a trial (R382). -/
theorem bootStart_trial {s : State} (pending : s.warden.fwState = .pending) :
    let img := slotImage s.warden (!s.warden.activeSlot)
    if (verifyImage { s.warden with ownerKey := usedOwner s.warden } img).isNone then (bootStart s true).dev.firmware = true ∧
      (bootStart s true).sec.image = img ∧ (bootStart s true).warden.trial = true ∧
      (bootStart s true).warden.activeSlot = s.warden.activeSlot
    else (bootStart s true).pins.powered = false ∧ (bootStart s true).warden.fallbackDue = true := by
  intro img
  have chosen := chooseSlot_trial (s := bootBegun s) pending
  have verified : bootVerify (bootBegun s).warden (slotImage (bootBegun s).warden (!(bootBegun s).warden.activeSlot)) =
    verifyImage { s.warden with ownerKey := usedOwner s.warden } img := rfl
  rw [verified] at chosen
  cases check : verifyImage { s.warden with ownerKey := usedOwner s.warden } img with
  | none =>
    rw [check] at chosen
    have started : bootStart s true = startImage { bootBegun s with warden := { (bootBegun s).warden with trial := true } } img :=
      chosen
    obtain ⟨firmware, image, warden⟩ :=
      startImage_starts { bootBegun s with warden := { (bootBegun s).warden with trial := true } } img
    refine (if_pos rfl).mpr ?_
    rw [started, warden]
    exact ⟨firmware, image, rfl, rfl⟩
  | some k =>
    rw [check] at chosen
    have failed : bootStart s true =
      trialFails (logBoot { bootBegun s with warden := { (bootBegun s).warden with trial := true } } k) := chosen
    refine (if_neg Bool.false_ne_true).mpr ?_
    rw [failed]
    exact ⟨rfl, rfl⟩

theorem trialWorks_activeSlot (s : State) : (trialWorks s).warden.activeSlot = !s.warden.activeSlot := by
  show (!(if _ then setSlotValid s.warden _ false else s.warden).activeSlot) = _
  split
  · rw [setSlotValid_field Warden.activeSlot (fun _ _ => rfl) fun _ _ => rfl]
  · rfl

theorem coreIn_of_failed {s : State} {c : Nat} {k : Core}
    (h : getCore s c = { k with st := .outOfService, outReason := .selfTest }) : coreIn s c = false := by
  rw [coreIn, h]; rfl

end
end Sys2Proof.Machine

open Sys2Proof Sys2Proof.Machine

/-- Settles O59, from what LOW_POWER leaves of the rails and ports, the slot that a boot chooses, and the result of its tests. -/
theorem lowPowerAndBootFollowTheirRules : Obligations.LowPowerAndBootFollowTheirRules := by
  unfold Obligations.LowPowerAndBootFollowTheirRules
  intro s
  refine ⟨fun st en off => ⟨_, execLowPowerEntry_enters st en off, ?_, ?_, fun c hc => railMv_lowPower _ hc, ?_, ?_, ?_⟩,
    execLowPowerEntry_left,
    fun st wake => ⟨_, execWakeComplete_wakes st wake, setDevState_state _ _, ?_, ?_, ?_, fun c hc => ?_⟩,
    execWakeComplete_left, fun ok on free st none => ?_,
    fun pending next => ⟨bootStart_bootCount s, bootStart_active pending next⟩,
    fun r st fw ddr polder cores trial brake => ?_, fun r st fw ddr polder cores trial time brake => ?_,
    fun r => execBootComplete_late, fun pending => ⟨bootStart_bootCount s, bootStart_trial pending⟩,
    fun r st fw time bad => execBootComplete_fails st fw time bad, fun r => execBootComplete_left,
    fun trial st => ⟨trialFails (advanceTo s (trialLimit s)), if_pos (by rw [trial, decide_eq_true st]; rfl), ?_⟩,
    fun h => if_neg ?_, fun due vin off => ⟨if_pos (by rw [due, vin, off]; rfl), rfl, rfl, rfl⟩,
    fun due => if_neg (by rw [due]; exact Bool.false_ne_true)⟩
  · rw [lowPower_field (·.dev.state) (fun _ _ _ => rfl) fun _ _ _ => rfl]; exact setDevState_state _ _
  · rw [lowPower_field State.selfRefresh (fun _ _ _ => rfl) fun _ _ _ => rfl]
    exact setDevState_field State.selfRefresh (fun _ _ => rfl) (by simp) _ _
  · rw [lowPower_field (·.clk.ticks) (fun _ _ _ => rfl) fun _ _ _ => rfl]; exact inLowPower_ticks s
  · rw [lowPower_field State.cmds (fun _ _ _ => rfl) fun _ _ _ => rfl]
    exact (setDevState_cmds _ _).trans (advanceTo_cmds s (s.dev.idleFrom + us s.dev.idleEntry.toNat))
  · rw [lowPower_field State.mem (fun _ _ _ => rfl) fun _ _ _ => rfl]
    exact (setDevState_mem _ _).trans (advanceTo_mem s (s.dev.idleFrom + us s.dev.idleEntry.toNat))
  · exact setDevState_field State.selfRefresh (fun _ _ => rfl) (by simp) _ _
  · exact (setDevState_cmds _ _).trans (leaveLowPower_field State.cmds (fun _ _ _ => rfl) (fun _ _ _ => rfl) s)
  · exact (setDevState_mem _ _).trans (leaveLowPower_field State.mem (fun _ _ _ => rfl) (fun _ _ _ => rfl) s)
  · rw [setDevState_field (fun u => (getPower u c).railMv) (fun _ _ => rfl) (by simp [getPower])]
    exact railMv_leaveLowPower s hc
  · refine if_pos (?_ : (s.pins.powered && !s.pins.modReset && decide (s.dev.state = .booting) && s.dev.bootFrom.isNone) = true)
    rw [on, free, decide_eq_true st, none]; rfl
  · have run := execBootComplete_ready st fw ddr polder cores (.inl trial) brake
    rw [trial] at run
    have cored := fun c (hc : c < 16) => getCore_ready r s (u := coresTested r s) rfl hc
    refine ⟨_, run, setDevState_state _ _, (setDevState_mem _ _).trans ?_, fun c hc out => coreIn_of_failed (k := getCore s c) ((cored c hc).trans ?_),
      fun c hc passed => (cored c hc).trans (if_pos passed)⟩
    · exact coresTested_field State.mem (fun _ _ _ => rfl) (fun _ _ _ => rfl) (by simp) (fun _ => rfl) r s
    · exact if_neg (by rw [out]; exact Bool.false_ne_true)
  · have run := execBootComplete_ready st fw ddr polder cores (.inr time) brake
    rw [trial] at run
    have warden : (coresTested r s).warden = s.warden :=
      coresTested_field State.warden (fun _ _ _ => rfl) (fun _ _ _ => rfl) (by simp) (fun _ => rfl) r s
    have works : (setDevState (trialWorks (coresTested r s)) .ready).warden = (trialWorks s).warden := by
      refine (setDevState_field State.warden (fun _ _ => rfl) (by simp) _ _).trans ?_
      simp only [trialWorks, warden]
    obtain ⟨images, other, active⟩ := trialWorks_slots s
    refine ⟨_, run, setDevState_state _ _, (setDevState_mem _ _).trans ?_, ?_⟩
    · exact coresTested_field State.mem (fun _ _ _ => rfl) (fun _ _ _ => rfl) (by simp) (fun _ => rfl) r s
    · rw [if_pos rfl, works]
      exact ⟨rfl, rfl, trialWorks_activeSlot s, rfl, images, other, active⟩
  · have off (u : State) : (trialFails u).pins.powered = false ∧ (trialFails u).warden.fallbackDue = true := ⟨rfl, rfl⟩
    have warden := advanceTo_warden s (trialLimit s)
    refine ⟨(off _).1, (off _).2, trialFails_fwState _, ?_, ?_⟩
    · rw [← warden]; exact trialFails_slot _
    · rw [trialFails_activeSlot, warden]
  · rcases h with h | h <;> simp [h]

end

section
/-!
SUPPORT. EXPORT_BIND and the four operations of EXPORT_KV at their dispatch.
-/
namespace Sys2Proof.Machine

section
variable {s : State} {i : Fin 64} {c : Cmd}

theorem execExportBind_binds (h : runs s i (opSel 0x0307) c = true) (hn : c.hdr.paramLen = 8 + 6 * c.par 1 1)
    (h1 : 1 ≤ c.par 1 1) (h8 : c.par 1 1 ≤ 8) (free : (getChannel s (c.par 0 1)).st = .free) (values : bindOk c = true)
    (dests : (bindDests c).findSome? (destRefused s) = none) {b : Channel}
    (hb : b = bindOf c ((getChannel s (c.par 0 1)).bindSeq + 1)) (staging : rangeOk b.stageAddr b.stageBytes = true)
    (tables : tablesOk b = true) :
    exec (.exportBind i) s =
      .next (settle (setWork (putChannel (dispatchCmd s c) (c.par 0 1) b) c.id (.done b.bindSeq.toNat))) := by
  subst hb
  have split := values
  simp only [bindOk, Bool.and_eq_true, decide_eq_true_eq] at split
  have channel : c.par 0 1 < 16 := by omega
  have each : (List.range (c.par 1 1)).all (destOk c) = true := split.2
  have good : (decide (1 ≤ c.par 1 1) && decide (c.par 1 1 ≤ 8) && (List.range (c.par 1 1)).all (destOk c)) = true := by
    simp only [h1, h8, each]; rfl
  have unbound : ¬ ((getChannel s (c.par 0 1)).st != .free) = true := by simp [free]
  have begun : (bindDests (beginCmd s c)).findSome? (destRefused s) = none := dests
  show execExportBind i s = _
  rw [execExportBind, issue_runs h]
  refine (settled_checked hn (decide_eq_true channel) _).trans ?_
  rw [beginCmd_par, getChannel_dispatchCmd]
  dsimp only
  rw [if_neg unbound]
  refine (settled_checked hn good _).trans ?_
  rw [destRefused_dispatchCmd, begun]
  refine (settled_checked hn values _).trans ?_
  exact congrArg settled ((reaches_ok staging _ _).trans (reaches_ok tables _ _))

/-- An operation of EXPORT_KV on a channel that is bound goes on. -/
theorem settled_bound (hn : c.hdr.paramLen = 5) (hc : c.par 1 1 < 16) (st : (getChannel s (c.par 1 1)).st = .bound) (k : Out) :
    settled (withBound (dispatchCmd s c) (beginCmd s c) k) = settled k := by
  refine (settled_checked hn (decide_eq_true hc) _).trans ?_
  rw [beginCmd_par, getChannel_dispatchCmd, if_pos st]

theorem sourceRange_dispatchCmd (s : State) (c : Cmd) (w : SourceWork) (n : Nat) :
    sourceRange (dispatchCmd s c) w n = sourceRange s w n := by
  simp only [sourceRange, kAddr, vAddr, pageAt, readLe, readMem_dispatchCmd, getChannel_dispatchCmd]

theorem sourceReads_dispatchCmd (s : State) (c : Cmd) (w : SourceWork) :
    sourceReads (dispatchCmd s c) w = sourceReads s w := by
  simp only [sourceReads, sourceRange_dispatchCmd, getChannel_dispatchCmd]

section
variable (hn : c.hdr.paramLen = 5) (hc : c.par 1 1 < 16) (st : (getChannel s (c.par 1 1)).st = .bound)
  (common : exportOk c = true)
include hn hc st common

theorem execSource_runs (h : runs s i (exportSel 0) c = true) {w : SourceWork} (hw : w = sourceOf' c)
    (k : [1, 2, 3, 4].contains w.kFmt = true) (v : [1, 2, 3, 4].contains w.vFmt = true) (layout : w.layout ≤ 1)
    (pos : w.pos ≤ w.posB) (posB : w.posB ≤ 2 ^ 24) (reads : sourceReads s w = true) :
    exec (.source i) s = .next (settle (setWork (dispatchCmd s c) c.id (.source w))) := by
  subst hw
  have good : ([1, 2, 3, 4].contains (sourceOf' c).kFmt && [1, 2, 3, 4].contains (sourceOf' c).vFmt &&
      decide ((sourceOf' c).layout ≤ 1) && decide ((sourceOf' c).pos ≤ (sourceOf' c).posB) &&
      decide ((sourceOf' c).posB ≤ 2 ^ 24)) = true := by
    rw [k, v, decide_eq_true layout, decide_eq_true pos, decide_eq_true posB]; rfl
  show execSource i s = _
  rw [execSource, issue_runs h]
  refine (settled_bound hn hc st _).trans ?_
  refine (settled_checked hn common _).trans ?_
  refine (settled_checked hn good _).trans ?_
  exact congrArg settled (reaches_ok ((sourceReads_dispatchCmd s c _).trans reads) _ _)

theorem execSeal_runs (h : runs s i (exportSel 1) c = true) :
    exec (.seal i) s = .next (settle (sealCheck (setWork (putChannel (dispatchCmd s c) (c.par 1 1)
      (releasePages (sealChannel (getChannel s (c.par 1 1))))) c.id (.seal (c.par 1 1))) (c.par 1 1))) := by
  show execSeal i s = _
  rw [execSeal, issue_runs h]
  refine (settled_bound hn hc st _).trans ?_
  refine (settled_checked hn common _).trans ?_
  rw [beginCmd_par, getChannel_dispatchCmd]; rfl

theorem execPull_checked (h : runs s i (exportSel 2) c = true) (hq : c.par 6 2 < 16384) (h1 : 1 ≤ c.par 28 4)
    (h31 : c.par 28 4 ≤ 2 ^ 31) (range : rangeOk (c.par 8 8) (c.par 28 4) = true) :
    exec (.pull i) s = settled (if ((getQp s (c.par 6 2)).st != .ready) = true then
        .next (qpFails (dispatchCmd s c) c.id (c.par 1 1))
      else .next (pullReads (setWork (dispatchCmd s c) c.id (.pull (c.par 6 2) (c.par 8 8) (c.par 28 4) 0)) c.id (c.par 6 2)
        (c.par 24 4) (c.par 16 8) (c.par 28 4))) := by
  have good : (exportOk c && decide (c.par 6 2 < 16384) && decide (1 ≤ c.par 28 4) && decide (c.par 28 4 ≤ 2 ^ 31)) = true := by
    rw [common, decide_eq_true hq, decide_eq_true h1, decide_eq_true h31]; rfl
  show execPull i s = _
  rw [execPull, issue_runs h]
  refine (settled_bound hn hc st _).trans ?_
  refine (settled_checked hn good _).trans ?_
  simp only [beginCmd_par, reaches_ok range, getQp_dispatchCmd]; rfl

theorem execMessage_checked (h : runs s i (exportSel 3) c = true) (hq : c.par 6 2 < 16384) (h1 : 1 ≤ c.par 28 4)
    (h256 : c.par 28 4 ≤ 256) (range : rangeRead (c.par 8 8) (c.par 28 4) = true) :
    exec (.message i) s = settled (if ((getQp s (c.par 6 2)).st != .ready) = true then
        .next (qpFails (dispatchCmd s c) c.id (c.par 1 1))
      else readsWell (dispatchCmd s c) (beginCmd s c) [(0, c.par 8 8, c.par 28 4)] fun s =>
        .next (qpSend (setWork s c.id (.message (c.par 6 2))) (c.par 6 2)
          (.send (readMem (setWork s c.id (.message (c.par 6 2))) (c.par 8 8) (c.par 28 4))) (.cmd c.id))) := by
  have good : (exportOk c && decide (c.par 6 2 < 16384) && decide (1 ≤ c.par 28 4) && decide (c.par 28 4 ≤ 256)) = true := by
    rw [common, decide_eq_true hq, decide_eq_true h1, decide_eq_true h256]; rfl
  show execMessage i s = _
  rw [execMessage, issue_runs h]
  refine (settled_bound hn hc st _).trans ?_
  refine (settled_checked hn good _).trans ?_
  simp only [beginCmd_par, reaches_ok range, getQp_dispatchCmd]; rfl

end
end

theorem readMem_setWork (s : State) (id : CmdId) (w : Work) (a n : Nat) : readMem (setWork s id w) a n = readMem s a n := rfl

/-- The reads of a dispatch see memory as the state before it has it. -/
theorem readMem_afterDispatch (s : State) (c : Cmd) (l : List (Nat × Nat × Nat)) (a n : Nat) :
    readMem (afterReads (dispatchCmd s c) c l) a n = readMem s a n :=
  List.map_congr_left fun k _ => readByte_afterDispatch s c l (a + k)

end Sys2Proof.Machine

open Sys2Proof Sys2Proof.Machine

/-- Settles O49: each row's checks pass under its hypotheses, and what is left is the row's own effect. -/
theorem exportCommandsStart : Obligations.ExportCommandsStart := by
  unfold Obligations.ExportCommandsStart
  intro s i c
  refine ⟨fun h hn h1 h8 free values dests staging tables => execExportBind_binds h hn h1 h8 free values dests rfl staging tables,
    fun hn hc st common => ⟨fun h => execSource_runs hn hc st common h rfl, execSeal_runs hn hc st common,
      fun h hq h1 h31 range => ⟨fun ready => ?_, fun down => ?_⟩,
      fun h hq h1 h256 range => ⟨fun ready clean => ?_, fun down => ?_⟩⟩, fun x => ⟨rfl, rfl⟩⟩
  · rw [execPull_checked hn hc st common h hq h1 h31 range, ready]; rfl
  · rw [execPull_checked hn hc st common h hq h1 h31 range, if_pos (bne_iff_ne.2 down)]; rfl
  · rw [execMessage_checked hn hc st common h hq h1 h256 range, ready]
    rw [if_neg (by decide), readsWell_ok ((readsClean_dispatchCmd s c _).trans clean), readMem_setWork,
      afterReads_beginCmd, readMem_afterDispatch]
    rfl
  · rw [execMessage_checked hn hc st common h hq h1 h256 range, if_pos (bne_iff_ne.2 down)]; rfl

end

section
/-!
SUPPORT. A state in which the staging of a firmware image begins.
-/
namespace Sys2Proof.Machine

/-- An FW_STAGE of no bytes, waiting in inlet 0. -/
def stagingCmd : Cmd :=
  { id := 0, inlet := 0, params := List.replicate 16 0, met := [true, true, true, true]
    hdr := { opcode := 0x0501, flags := 0, version := 1, tag := 0, jobId := 0, phase := 0, paramLen := 2
             waits := [(0, 0), (0, 0), (0, 0), (0, 0)], signalId := 0, signalInc := 0, watchdogUs := 0, seed := 0 } }

/-- An ACTIVE device whose inlet 0 is OPEN and holds that command, with nothing before it in the security block. -/
def stagingState : State :=
  { State.reset with
    dev := { state := .active, firmware := true }, inlets := [(0, { state := .open })], cmds := [stagingCmd] }

/-- The writing of an image counts as a write of the replay-protected partition of the flash (R378). -/
theorem stageImage_writes {s : State} (free : secBusy s = false) (c : Cmd) (img : List Byte) :
    (stageImage s c img).warden.writes = s.warden.writes + 1 := by
  rw [stageImage, free]; rfl

end Sys2Proof.Machine

open Sys2Proof Sys2Proof.Machine

/-- Refutes O55: the state that it gives for the start of a flash write has WRITING but not the write of the partition that the
model counts with it; the FW_STAGE of `stagingState` shows the difference. -/
theorem not_securityCommandsVerifyAndStage : ¬ Obligations.SecurityCommandsVerifyAndStage := by
  unfold Obligations.SecurityCommandsVerifyAndStage
  intro h
  obtain ⟨_, stage, _⟩ := h stagingState 0 stagingCmd
  have row : runs stagingState 0 (opSel 0x0501) stagingCmd = true := by decide +kernel
  have clean : readsClean stagingState stagingCmd [(0, stagingCmd.par 0 8, stagingCmd.par 8 4)] = true := by decide +kernel
  have free : secBusy (afterReads (dispatchCmd stagingState stagingCmd) stagingCmd
    [(0, stagingCmd.par 0 8, stagingCmd.par 8 4)]) = false := by decide +kernel
  obtain ⟨_, _, begins⟩ := stage row rfl (by decide +kernel) (by decide +kernel) (by decide +kernel) (by decide +kernel) clean
  have same := congrArg (·.warden.writes) (begins free)
  exact Nat.succ_ne_self _ ((stageImage_writes free _ _).symm.trans same)

end

section
/-!
SUPPORT. Errors of reads, by the site of the read.
-/
namespace Sys2Proof.Machine

section
variable {s : State} {addr : BitVec 40}

/-- An error that is not in the stored data, of a site that has an address. -/
theorem execReadError_transient {site : ErrSite} (own : ownSite site = false) (good : rangeBad s addr.toNat 1 = false) :
    exec (.readError site addr .transient) s = .next (settle (readError s site addr.toNat false)) := by
  show execReadError site addr .transient s = _
  simp only [execReadError, own, good]; rfl

theorem countCorrected_ddr {a : Nat} (h : isDdr a = true) :
    (getDdr (countCorrected s a) ((a - ddrBase) / 256 % 64)).corrected.toNat =
      min (2 ^ 32 - 1) ((getDdr s ((a - ddrBase) / 256 % 64)).corrected.toNat + 1) := by
  rw [countCorrected, if_pos h]
  simp only [getDdr_putDdr_self, satTo, BitVec.toNat_ofNat]
  split <;> omega

/-- What counting a corrected error keeps: every reading but of the channels. -/
theorem countCorrected_field {β : Type} (F : State → β) (hd : ∀ s n x, F (putDdr s n x) = F s) (s : State) (a : Nat) :
    F (countCorrected s a) = F s := by
  unfold countCorrected
  split
  · exact hd _ _ _
  · rfl

section
variable {n : Nat} {c : SlChain} {k a : Nat} (active : (getSluice s n).active = some c)
include active

/-- An error in a segment in flight is one of its step (R222). -/
theorem segError_inFlight (inFlight : c.pos + 4096 * k < c.hi) (stored : Bool) :
    segError s n k a stored = stepError s (some (if n < 128 then n / 8 else 16)) c.cmd (segTile s n c k) (c.reruns.getD k 0)
      { addr := a } stored (fun s => putSluice s n { getSluice s n with active := some (rerunFrom c k) }) := by
  rw [segError, active]
  exact if_neg (Nat.not_le.2 inFlight)

theorem segError_none (past : c.hi ≤ c.pos + 4096 * k) (stored : Bool) : segError s n k a stored = s := by
  rw [segError, active]
  exact if_pos past

end

theorem stepError_reruns {timed : Nat} {id : CmdId} {tile n a : Nat} (few : n < 3) (count : State → State) :
    stepError s (some timed) id tile n { addr := a } false count = count (noteRerun (timedReruns s timed 1) id tile a) :=
  if_pos few

theorem stepError_exhausts {timed : Nat} {id : CmdId} {tile n a : Nat} (fourth : 3 ≤ n) (count : State → State) :
    stepError s (some timed) id tile n { addr := a } false count = exhaust s id tile a :=
  if_neg (Nat.not_lt.2 fourth)

theorem reruns_rerunFrom (c : SlChain) (k : Nat) {j : Nat} (h : j < 4) : (rerunFrom c k).reruns.getD j 0 =
    c.reruns.getD j 0 + (if k ≤ j ∧ c.pos + 4096 * j < c.hi then 1 else 0) := by
  simp only [rerunFrom, List.getD_eq_getElem?_getD, List.getElem?_map, List.getElem?_range h, Option.map_some,
    Option.getD_some, Bool.and_eq_true, decide_eq_true_eq]

/-- The end of a command whose re-runs are exhausted (R222). -/
theorem endingOf_exhaust {id : CmdId} {c : Cmd} (found : findCmd s id = some c) (none : c.ending = none) (tile a : Nat) :
    endingOf (exhaust s id tile a) id = some { status := .rerunExhausted, rank := 3, cause := Option.none, tile := tile } := by
  have here : ¬ gone s id = true := by rw [gone, found]; simp [none]
  unfold exhaust exhaustAt
  rw [if_neg here]
  refine endingOf_postEnding_first (c := c) (fun s c n => logFault_cmds s _ _ _ _ _ _ _ _) ?_ none
  split <;> exact found

end
end Sys2Proof.Machine

open Sys2Proof Sys2Proof.Machine

/-- Settles O38: a segment's error by the number of its re-runs; the others wait for the read that is to meet them. -/
theorem readErrorsRerunThenExhaust : Obligations.ReadErrorsRerunThenExhaust := by
  unfold Obligations.ReadErrorsRerunThenExhaust
  intro s site addr flaw
  refine ⟨?_, ⟨rfl, countCorrected_field State.mem (fun _ _ _ => rfl) s _, countCorrected_field State.cmds (fun _ _ _ => rfl) s _,
      countCorrected_field State.err (fun _ _ _ => rfl) s _, countCorrected_ddr⟩, fun n k c active => ⟨?_, ?_, ?_, ?_, ?_⟩,
    fun id tile c found none => ?_, fun id core e c found waits good => ?_,
    fun good => ⟨execReadError_transient rfl good, execReadError_transient rfl good⟩,
    fun c l k => ⟨fun clean => ⟨readsWell_ok clean k, afterReads_mem s c l⟩, fun r bad => readsWell_bad bad k⟩⟩
  · cases flaw <;> exact ⟨_, rfl⟩
  · intro inFlight good few
    refine (execReadError_transient rfl good).trans ?_
    rw [readError, segError_inFlight active inFlight, stepError_reruns few]
  · intro inFlight good fourth
    refine (execReadError_transient rfl good).trans ?_
    rw [readError, segError_inFlight active inFlight, stepError_exhausts fourth]
  · intro inFlight
    show Host.Outcome.next (settle (segError s n.val k.val addr.toNat true)) = _
    rw [segError_inFlight active inFlight]; rfl
  · intro past
    show Host.Outcome.next (settle (segError s n.val k.val addr.toNat _)) = _
    rw [segError_none active past]
  · exact fun j hj => reruns_rerunFrom c k.val hj
  · obtain ⟨k, hk, he⟩ := Option.bind_eq_some_iff.1 (endingOf_exhaust found none tile addr.toNat)
    exact ⟨k, _, hk, he, rfl, rfl⟩
  · refine (execReadError_transient rfl good).trans ?_
    rw [readError, otherError, found]
    simp only [if_pos waits]; rfl

end

section
/-!
SUPPORT. What the network keeps as it sends, takes and loses packets: a predicate on states that is closed under the few changes
that it makes.
-/
namespace Sys2Proof.Machine

/-- Whether a work is that of the tensor arrays. -/
def Work.isArray : Work → Bool
  | .array _ => true
  | _ => false

/-- What a step leaves of a command in flight: its number, that it is ending, and that its work is none of the arrays'. -/
structure KeepsCmd (c d : Cmd) : Prop where
  id : d.id = c.id
  ending : c.ending.isSome → d.ending.isSome
  plain : c.work.isArray = false → d.work.isArray = false

/-- A predicate that survives what the network does as it sends, takes and loses packets: records, causes posted against commands,
event counters, changes of channels, queue pairs, the pairing and the network's registers but for its windows and without
forgetting a flow, and flits that leave ports that are up (R277 to R281, R304). -/
structure NetClosed (P : State → Prop) : Prop where
  cmd : ∀ {s id} {f : Cmd → Cmd}, (∀ c, KeepsCmd c (f c)) → P s → P (modCmd s id f)
  log : ∀ {s} a b c d e g i j, P s → P (logFault s a b c d e g i j)
  net : ∀ {s} x, x.windows = s.net.windows → x.windowRefused = s.net.windowRefused → (x.flowRx = [] → s.net.flowRx = []) → P s →
    P { s with net := x }
  event : ∀ {s} e n, P s → P (addEvent s e n)
  channel : ∀ {s} n x, P s → P (putChannel s n x)
  qp : ∀ {s} n x, P s → P (putQp s n x)
  lock : ∀ {s} x, P s → P { s with lock := x }
  port : ∀ {s p} x, portUp s p = true → x.link = (getPort s p).link → P s → P (putPort s p x)
  freed : ∀ {s} p key n, P s → P (freeFlits s p key n)
  weir : ∀ {s} x, P s → P { s with weir := x }
  wire : ∀ {s} x, P s → P { s with wire := x }

/-- A fold keeps what each of its steps keeps. -/
theorem foldl_closed {α : Type} {P : State → Prop} {f : State → α → State} (h : ∀ s a, P s → P (f s a)) (l : List α) {s : State}
    (hs : P s) : P (l.foldl f s) := by
  induction l generalizing s with
  | nil => exact hs
  | cons a l ih => exact ih (h s a hs)

theorem portUp_congr {s t : State} {p : Nat} (h : (getPort t p).link = (getPort s p).link) : portUp t p = portUp s p := by
  rw [portUp, portUp, h]

namespace NetClosed

variable {P : State → Prop} (h : NetClosed P) {s : State}
include h

/-! ## Ports that are up send -/

theorem emitted {p : Nat} (f : Flit) (hs : P s ∧ portUp s p = true) : P (emitFlit s p f) ∧ portUp (emitFlit s p f) p = true := by
  obtain ⟨hs, up⟩ := hs
  have link : (getPort (emitFlit s p f) p).link = (getPort s p).link := by
    simp only [emitFlit, getPort, putPort, tabGet_tabSet_self]
  exact ⟨h.wire _ (h.port _ up rfl hs), (portUp_congr link).trans up⟩

theorem txSent {p : Nat} (i n : Nat) (t : TxPacket) (up : portUp s p = true) (hs : P s) : P (txSend s p i n t) := by
  have sent (x : Port) (hx : x.link = (getPort s p).link) (l : List Nat) (g : Nat → Flit) :
      P (l.foldl (fun s j => emitFlit s p (g j)) (putPort s p x)) := by
    have put : P (putPort s p x) ∧ portUp (putPort s p x) p = true :=
      ⟨h.port x up hx hs, (portUp_congr ((congrArg Port.link (getPort_putPort_self s p x)).trans hx)).trans up⟩
    exact (foldl_closed (P := fun s => P s ∧ portUp s p = true) (fun s j hs => h.emitted (g j) hs) l put).1
  have freed {u : State} (hu : P u) : P (match t.arrived with
      | some g => match g.key with
        | some k => freeFlits u g.port k n
        | none => u
      | none => u) := by
    split
    · split
      · exact h.freed _ _ _ hu
      · exact hu
    · exact hu
  have counted {u : State} (hu : P u) (c : Prop) [Decidable c] (a b : Nat) : P (if c then u else weirCount u a b) := by
    split
    · exact hu
    · exact h.weir _ hu
  unfold txSend
  dsimp only
  split
  · exact h.wire _ (counted (freed (sent _ (by split <;> rfl) _ _)) _ _ _)
  · exact counted (freed (sent _ (by rfl) _ _)) _ _ _

theorem txRan (k : Nat) (p : Nat) (hs : P s) : P (txRun k s p) := by
  induction k generalizing s with
  | zero => exact hs
  | succ k ih =>
    unfold txRun
    split
    next up =>
      split
      · exact hs
      · exact ih (h.txSent _ _ _ up hs)
    · exact hs

theorem queued {p : Nat} (t : TxPacket) (up : portUp s p = true) (hs : P s) : P (enqueue s p t) :=
  h.txRan _ _ (h.port _ up rfl hs)

theorem lostBeyond (k : Cause) (hs : P s) : P (lostBeyond (setNoRoute s) k) := h.log _ _ _ _ _ _ _ _ (h.net _ rfl rfl (fun e => e) hs)

/-- The port whose turn it is is up. -/
theorem tookTurn (t : TxPacket) (hs : P s) : P (takeTurn s t) := by
  unfold takeTurn
  split
  · exact h.lostBeyond _ hs
  next p turn =>
    have up : portUp s p = true := by
      unfold bundleTurn at turn
      dsimp only at turn
      split at turn
      next found =>
        cases turn
        exact (List.mem_filter.1 (List.mem_of_find?_eq_some found)).2
      · exact (List.mem_filter.1 (List.mem_of_head? turn)).2
    exact h.queued t (s := { s with net := { s.net with turn := tabSet s.net.turn t.bundle (p + 1) } }) up (h.net _ rfl rfl (fun e => e) hs)

theorem routed (k : Packet) (hs : P s) : P (routeCtl s k) := by
  unfold routeCtl
  split
  · exact h.net _ rfl rfl (fun e => e) hs
  · split
    · exact h.tookTurn _ hs
    · exact h.lostBeyond _ hs

/-! ## Causes -/

theorem posted (id : CmdId) (e : Ending) {log : State → Cmd → Nat → State} (hlog : ∀ s c n, P s → P (log s c n)) (hs : P s) :
    P (postEnding s id e log) := by
  unfold postEnding
  split
  · exact hs
  · split
    · exact h.cmd (fun c => ⟨rfl, fun _ => rfl, fun x => x⟩) (hlog _ _ _ hs)
    · split
      · exact h.cmd (fun c => ⟨rfl, fun _ => rfl, fun x => x⟩) (hlog _ _ _ hs)
      · exact h.cmd (fun c => ⟨rfl, fun x => x, fun x => x⟩) (hlog _ _ _ hs)

theorem postedLogged (id : CmdId) (k : Cause) (hs : P s) : P (postLogged s id k) :=
  h.posted _ _ (fun _ _ _ hs => hs) hs

theorem failed (id : CmdId) (k : Cause) (hs : P s) : P (failCmd s id k) := by
  unfold failCmd postCause
  split
  · exact hs
  · refine h.posted _ _ (fun _ _ _ hs => h.log _ _ _ _ _ _ _ _ hs) ?_
    unfold freeSealed
    split
    · split
      · exact h.channel _ _ hs
      · exact hs
    · exact hs

theorem toldOthers (c : Cmd) (k : Cause) (hs : P s) : P (tellOthers s c k) := by
  unfold tellOthers
  split
  · split
    · exact foldl_closed (fun _ _ hs => h.routed _ hs) _ hs
    · exact hs
  · exact hs

theorem failedNet (id : CmdId) (k : Cause) (logged : Bool) (hs : P s) : P (failNet s id k logged) := by
  unfold failNet
  split
  · exact hs
  · cases logged
    · exact h.toldOthers _ _ (h.failed _ _ hs)
    · exact h.toldOthers _ _ (h.postedLogged _ _ hs)

/-! ## Destinations of exported data -/

theorem sealChecked (ch : Nat) (hs : P s) : P (sealCheck s ch) := by
  unfold sealCheck
  dsimp only
  split
  · split
    · exact h.channel _ _ hs
    · split
      · exact h.cmd (fun c => ⟨rfl, id, fun _ => rfl⟩) (h.channel _ _ hs)
      · exact h.postedLogged _ _ (h.channel _ _ hs)
  · exact hs

theorem markedFailed (ch d : Nat) (r : FailReason) (hs : P s) : P (markFailed s ch d r) := by
  unfold markFailed
  dsimp only
  split
  · exact hs
  · split
    · exact hs
    · exact h.channel _ _ (h.log _ _ _ _ _ _ _ _ hs)

theorem sealedAll (hs : P s) : P (sealAll s) := foldl_closed (fun _ ch hs => h.sealChecked ch hs) _ hs

theorem qpLost (q : Nat) (st : QpState) (r : FailReason) (hs : P s) : P (qpLose s q st r) := by
  unfold qpLose
  refine h.sealedAll (foldl_closed (fun _ _ hs => h.failed _ _ hs) _ ?_)
  exact foldl_closed (fun _ _ hs => h.markedFailed _ _ _ hs) _ (h.qp _ _ hs)

theorem failedDest (ch d : Nat) (r : FailReason) (hs : P s) : P (failDest s ch d r) := by
  unfold failDest
  split
  · exact hs
  · split
    · exact hs
    · dsimp only
      split
      · exact h.qpLost _ _ _ (h.markedFailed _ _ _ hs)
      · exact h.sealedAll (h.markedFailed _ _ _ hs)

theorem failedBind (ch : Nat) (bind : W16) (d : Nat) (r : FailReason) (hs : P s) : P (failBind s ch bind d r) := by
  unfold failBind
  split
  · exact h.failedDest _ _ _ hs
  · exact hs

/-! ## Packets that are lost -/

theorem droppedFlits (t : TxPacket) (hs : P s) : P (dropFlits s t) := by
  unfold dropFlits
  split
  · split
    · exact h.freed _ _ _ hs
    · exact hs
  · exact hs

theorem lostPacket (p n : Nat) (t : TxPacket) (hs : P s) : P (losePacket s p n t) := by
  unfold losePacket
  dsimp only
  split
  · exact h.failedNet _ _ _ (h.droppedFlits t hs)
  · exact h.failedBind _ _ _ _ (h.droppedFlits t hs)
  · exact h.tookTurn _ (h.droppedFlits t hs)
  · exact h.droppedFlits t hs

theorem resetFlows (k : Packet) (hs : P s) : P (flowReset s k) := by
  unfold flowReset
  split
  · exact foldl_closed (fun _ _ hs => h.routed _ hs) _ (h.net _ rfl rfl (fun e => e) hs)
  · exact hs

theorem rerouted (p n : Nat) (t : TxPacket) (hs : P s) : P (reroute s p n t) := by
  unfold reroute
  split
  · exact h.tookTurn t hs
  · exact h.resetFlows _ (h.lostPacket _ _ _ (h.net _ rfl rfl (fun e => e) hs))

theorem partnerChecked (hs : P s) : P (partnerCheck s) := by
  unfold partnerCheck
  split
  · exact h.lock _ (foldl_closed (fun _ _ hs => h.failedNet _ _ _ hs) _ hs)
  · exact hs

end NetClosed
end Sys2Proof.Machine
end

section
/-!
SUPPORT. Breach, link-down and replay of a port.
-/
namespace Sys2Proof.Machine

/-! ## Records and tables -/

theorem logFault_seq (s : State) (a b c d : Nat) (e : Option Cmd) (g i j : Nat) :
    (logFault s a b c d e g i j).err.seq = s.err.seq + 1 := by
  rw [logFault, writeLog, raiseCause_err]

theorem filter_tabSet {α : Type} (t : Tab α) (n : Nat) (v : α) :
    (tabSet t n v).filter (fun o => o.1 != n) = t.filter (fun o => o.1 != n) := by
  induction t with
  | nil => simp [tabSet]
  | cons o t ih =>
    obtain ⟨k, w⟩ := o
    unfold tabSet
    split
    · simp
    · split
      next hn => subst hn; simp
      next => simp only [List.filter_cons, ih]

/-! ## What a lost link keeps -/

/-- A port but for what is left of its receive buffer and for what it has to return. -/
def Port.still (x : Port) : Port := { x with owed := [], nak := false, ackDue := false, rxBuf := [] }

/-- What the treatment of lost packets leaves of a state, where port `p` is not up: the commands in flight and those that are to
end, memory, the log but for new records, and the port but for flits that leave its receive buffer. -/
structure LossKeeps (p : Nat) (r t : State) : Prop where
  ids : t.cmds.map (·.id) = r.cmds.map (·.id)
  mem : t.mem = r.mem
  seq : r.err.seq ≤ t.err.seq
  ends : ∀ id, (endingOf r id).isSome → (endingOf t id).isSome
  port : portUp r p = false → (getPort t p).still = (getPort r p).still
  buffer : ∀ key, tabGet (getPort r p).rxBuf 0 key = 0 → portUp r p = false → tabGet (getPort t p).rxBuf 0 key = 0

theorem LossKeeps.refl (p : Nat) (s : State) : LossKeeps p s s :=
  ⟨rfl, rfl, Nat.le_refl _, fun _ h => h, fun _ => rfl, fun _ h _ => h⟩

theorem LossKeeps.trans {p : Nat} {r s t : State} (h : LossKeeps p r s) (g : LossKeeps p s t) : LossKeeps p r t := by
  have down (d : portUp r p = false) : portUp s p = false := by
    rw [portUp_congr (congrArg Port.link (h.port d) : (getPort s p).still.link = _)]; exact d
  exact ⟨g.ids.trans h.ids, g.mem.trans h.mem, Nat.le_trans h.seq g.seq, fun id e => g.ends id (h.ends id e),
    fun d => (g.port (down d)).trans (h.port d), fun key e d => g.buffer key (h.buffer key e d) (down d)⟩

/-- A change of what neither commands, memory, the log nor the ports are. -/
theorem LossKeeps.of_eq {p : Nat} {s t : State} (hc : t.cmds = s.cmds) (hm : t.mem = s.mem) (he : t.err = s.err)
    (hp : t.ports = s.ports) : LossKeeps p s t := by
  have port : getPort t p = getPort s p := by rw [getPort, hp]; rfl
  exact ⟨by rw [hc], hm, Nat.le_of_eq (congrArg ErrLog.seq he.symm), fun id e => by rw [endingOf, findCmd_congr hc]; exact e, fun _ => by rw [port],
    fun key e _ => by rw [port]; exact e⟩

theorem lossKeeps_modCmd (p : Nat) (s : State) (id : CmdId) {f : Cmd → Cmd}
    (hf : ∀ c, (f c).id = c.id ∧ (c.ending.isSome → (f c).ending.isSome)) : LossKeeps p s (modCmd s id f) := by
  refine ⟨modCmd_ids s id fun c => (hf c).1, rfl, Nat.le_refl _, fun j e => ?_, fun _ => rfl, fun _ h _ => h⟩
  obtain ⟨o, ho⟩ := Option.isSome_iff_exists.1 e
  obtain ⟨c, hc, hco⟩ := Option.bind_eq_some_iff.1 ho
  rw [endingOf, findCmd_modCmd s id j fun c => (hf c).1, hc]
  have ends : c.ending.isSome = true := by rw [hco]; rfl
  show (if c.id = id then f c else c).ending.isSome = true
  split
  · exact (hf c).2 ends
  · exact ends

theorem lossKeeps_logFault (p : Nat) (s : State) (a b c d : Nat) (e : Option Cmd) (g i j : Nat) :
    LossKeeps p s (logFault s a b c d e g i j) := by
  have port : getPort (logFault s a b c d e g i j) p = getPort s p := by rw [getPort, logFault_ports]; rfl
  refine ⟨by rw [logFault_cmds], logFault_mem _ _ _ _ _ _ _ _ _, by rw [logFault_seq]; omega, fun id h => ?_,
    fun _ => by rw [port], fun key h _ => by rw [port]; exact h⟩
  rw [endingOf, findCmd_congr (logFault_cmds _ _ _ _ _ _ _ _ _)]; exact h

/-- A port that is up is another. -/
theorem lossKeeps_putPort {p q : Nat} {s : State} (x : Port) (up : portUp s q = true) : LossKeeps p s (putPort s q x) := by
  have other (d : portUp s p = false) : getPort (putPort s q x) p = getPort s p := by
    refine getPort_putPort_ne s x fun e => ?_
    rw [e, up] at d; cases d
  exact ⟨rfl, rfl, Nat.le_refl _, fun _ h => h, fun d => by rw [other d], fun key h d => by rw [other d]; exact h⟩

theorem lossKeeps_freeFlits (p : Nat) (s : State) (q key n : Nat) : LossKeeps p s (freeFlits s q key n) := by
  refine ⟨rfl, rfl, Nat.le_refl _, fun _ h => h, fun _ => ?_, fun k h _ => ?_⟩
  · by_cases e : p = q
    · subst e; rw [freeFlits, getPort_putPort_self]; rfl
    · rw [freeFlits, getPort_putPort_ne _ _ e]
  · by_cases e : p = q
    · subst e
      rw [freeFlits, getPort_putPort_self]
      show tabGet (tabSet (getPort s p).rxBuf key (tabGet (getPort s p).rxBuf 0 key - _)) 0 k = 0
      by_cases ek : k = key
      · subst ek; rw [tabGet_tabSet_self, h, Nat.zero_sub]
      · rw [tabGet_tabSet_ne _ _ _ ek, h]
    · rw [freeFlits, getPort_putPort_ne _ _ e]; exact h

/-- Latching the waits of commands leaves their ends. -/
theorem endingOf_latch (s : State) (id : CmdId) : endingOf (latch s) id = endingOf s id := by
  simp only [endingOf, findCmd, latch, List.find?_map]
  rw [Option.bind_map]; rfl

theorem lossKeeps_addEvent (p : Nat) (s : State) (e n : Nat) : LossKeeps p s (addEvent s e n) := by
  unfold addEvent setEvent
  split
  · exact .refl p s
  · refine ⟨?_, rfl, Nat.le_refl _, fun id h => ?_, fun _ => rfl, fun _ h _ => h⟩
    · rw [latch, List.map_map]; rfl
    · rw [endingOf_latch]; exact h

theorem lossKeeps_closed (p : Nat) (r : State) : NetClosed (LossKeeps p r) where
  cmd hf hs := hs.trans (lossKeeps_modCmd _ _ _ fun c => ⟨(hf c).id, (hf c).ending⟩)
  log _ _ _ _ _ _ _ _ hs := hs.trans (lossKeeps_logFault _ _ _ _ _ _ _ _ _ _)
  net _ _ _ _ hs := hs.trans (.of_eq rfl rfl rfl rfl)
  event _ _ hs := hs.trans (lossKeeps_addEvent _ _ _ _)
  channel _ _ hs := hs.trans (.of_eq rfl rfl rfl rfl)
  qp _ _ hs := hs.trans (.of_eq rfl rfl rfl rfl)
  lock _ hs := hs.trans (.of_eq rfl rfl rfl rfl)
  port _ up _ hs := hs.trans (lossKeeps_putPort _ up)
  freed _ _ _ hs := hs.trans (lossKeeps_freeFlits _ _ _ _ _)
  weir _ hs := hs.trans (.of_eq rfl rfl rfl rfl)
  wire _ hs := hs.trans (.of_eq rfl rfl rfl rfl)

/-! ## A port loses its link -/

/-- A port as it gives up what lay in the receive buffer of another. -/
def Port.givenUp (p : Nat) (x : Port) : Port :=
  { x with
    queue := x.queue.filter (fun t => !heldIn p t)
    replay := x.replay ++ (x.queue.filter (fun t => heldIn p t && 0 < t.sent)).map (fun t => { t with arrived := none }) }

theorem getPort_giveUp (s : State) (p q : Nat) : getPort (giveUp s p) q = Port.givenUp p (getPort s q) :=
  tabGet_map s.ports (Port.givenUp p) {} q

/-- A port as its link goes. -/
def Port.dead (link : LinkState) (now : Nat) (x : Port) : Port :=
  { x with
    link := link, queue := [], replay := [], txSeq := 0, txBase := 0, tries := 0, credits := [], rxSeq := 0, nak := false
    ackDue := false, owed := [], discarding := false, rxBuf := [], widen := false, trainedAt := now }

/-- The state in which a port's link has gone, and its record is made. -/
def linkGone (s : State) (p : Nat) (link : LinkState) (cls : Nat) : State :=
  let s := putPort s p ((getPort s p).dead link s.clk.ticks)
  let s := giveUp { s with net := { s.net with inbound := s.net.inbound.filter (fun e => match e with
    | .write (some g) _ _ => g.port != p
    | _ => true) } } p
  logFault s cls 2 4 p none 0 0 (portStatus (getPort s p))

/-- The packets that a port loses, and those that may leave by another port of their bundle. -/
def lostBy (s : State) (p : Nat) : List TxPacket :=
  (getPort s p).replay ++ (getPort s p).queue.filter (fun t => 0 < t.sent || heldIn p t) ++ cutShort s p
def unsentBy (s : State) (p : Nat) : List TxPacket := (getPort s p).queue.filter (fun t => t.sent = 0 && !heldIn p t)

/-- What follows for the packets that a port loses. -/
def treatLost (p : Nat) (lost unsent : List TxPacket) (s : State) : State :=
  partnerCheck (unsent.foldl (fun u t => reroute u p s.err.seq t) (lost.foldl (fun u t => flowReset u t.pkt)
    (lost.foldl (fun u t => losePacket u p s.err.seq t) s)))

theorem losePort_eq (s : State) (p : Nat) (link : LinkState) (cls : Nat) :
    losePort s p link cls = treatLost p (lostBy s p) (unsentBy s p) (linkGone s p link cls) := rfl

section
variable {s : State} {p : Nat}

theorem getPort_linkGone_self (link : LinkState) (cls : Nat) :
    getPort (linkGone s p link cls) p = (getPort s p).dead link s.clk.ticks := by
  rw [linkGone, getPort, logFault_ports]
  show getPort (giveUp _ p) p = _
  rw [getPort_giveUp]
  exact congrArg (Port.givenUp p) (getPort_putPort_self s p ((getPort s p).dead link s.clk.ticks))

theorem linkGone_keeps (link : LinkState) (cls : Nat) :
    (linkGone s p link cls).cmds = s.cmds ∧ (linkGone s p link cls).mem = s.mem ∧
      (linkGone s p link cls).err.seq = s.err.seq + 1 ∧ (linkGone s p link cls).lock = s.lock := by
  refine ⟨?_, ?_, ?_, ?_⟩
  · exact logFault_cmds _ _ _ _ _ _ _ _ _
  · exact logFault_mem _ _ _ _ _ _ _ _ _
  · exact logFault_seq _ _ _ _ _ _ _ _ _
  · exact logFault_lock _ _ _ _ _ _ _ _ _

/-- Where no other port was sending on from the receive buffer, the other ports stay. -/
theorem getPort_linkGone_ne (link : LinkState) (cls : Nat) {q : Nat} (h : q ≠ p) (none : cutShort s p = []) :
    getPort (linkGone s p link cls) q = getPort s q := by
  rw [linkGone, getPort, logFault_ports]
  show getPort (giveUp _ p) q = _
  rw [getPort_giveUp]
  refine (congrArg (Port.givenUp p) (getPort_putPort_ne s ((getPort s p).dead link s.clk.ticks) h)).trans ?_
  have free : (getPort s q).queue.filter (heldIn p) = [] := by
    rw [getPort, tabGet]
    cases found : tabFind? s.ports q with
    | none => rfl
    | some x =>
      refine List.flatMap_eq_nil_iff.1 none (q, x) (List.mem_filter.2 ⟨mem_of_tabFind? found, ?_⟩)
      exact bne_iff_ne.2 h
  have held (t) (ht : t ∈ (getPort s q).queue) : heldIn p t = false := by
    simpa using (List.filter_eq_nil_iff.1 free) t ht
  have queue : (getPort s q).queue.filter (fun t => !heldIn p t) = (getPort s q).queue :=
    List.filter_eq_self.2 fun t ht => by rw [held t ht]; rfl
  have sent : (getPort s q).queue.filter (fun t => heldIn p t && 0 < t.sent) = [] :=
    List.filter_eq_nil_iff.2 fun t ht => by rw [held t ht]; exact Bool.false_ne_true
  rw [Port.givenUp, queue, sent, List.map_nil, List.append_nil]

theorem treatLost_keeps (q : Nat) (lost unsent : List TxPacket) : LossKeeps q s (treatLost p lost unsent s) := by
  have closed := lossKeeps_closed q s
  refine closed.partnerChecked (foldl_closed (fun _ t hs => closed.rerouted _ _ t hs) _ ?_)
  refine foldl_closed (fun _ t hs => closed.resetFlows _ hs) _ ?_
  exact foldl_closed (fun _ t hs => closed.lostPacket _ _ t hs) _ (.refl q s)

/-- A command whose packet is lost is to end (R281). -/
theorem endingOf_losePacket {id : CmdId} {t : TxPacket} (n : Nat) (owner : t.owner = .cmd id)
    (found : (findCmd s id).isSome = true) : (endingOf (losePacket s p n t) id).isSome = true := by
  have kept : LossKeeps p s (dropFlits s t) := (lossKeeps_closed p s).droppedFlits t (.refl p s)
  have there : (findCmd (dropFlits s t) id).isSome = true := (findCmd_isSome_congr kept.ids id).trans found
  obtain ⟨c, hc⟩ := Option.isSome_iff_exists.1 there
  have run : losePacket s p n t = tellOthers (postLogged (dropFlits s t) id
      { localCause (dropFlits s t) .breach 0 p with log := BitVec.ofNat 16 n }) c
      { localCause (dropFlits s t) .breach 0 p with log := BitVec.ofNat 16 n } := by
    unfold losePacket
    simp only [owner, failNet, hc]; rfl
  rw [run]
  refine ((lossKeeps_closed p _).toldOthers _ _ (.refl p _)).ends id ?_
  exact ends_postEnding (fun _ _ _ => rfl) there

theorem endingOf_lost {id : CmdId} {t : TxPacket} {lost : List TxPacket} (n : Nat) (owner : t.owner = .cmd id) (ht : t ∈ lost)
    (found : (findCmd s id).isSome = true) :
    (endingOf (lost.foldl (fun u t => losePacket u p n t) s) id).isSome = true := by
  induction lost generalizing s with
  | nil => cases ht
  | cons u lost ih =>
    have kept (s : State) : LossKeeps p s (losePacket s p n u) := (lossKeeps_closed p s).lostPacket _ _ u (.refl p s)
    rcases List.mem_cons.1 ht with rfl | ht
    · have rest : LossKeeps p (losePacket s p n t) (lost.foldl (fun u t => losePacket u p n t) (losePacket s p n t)) :=
        foldl_closed (fun _ t hs => (lossKeeps_closed p _).lostPacket _ _ t hs) _ (.refl p _)
      exact rest.ends id (endingOf_losePacket n owner found)
    · exact ih ht ((findCmd_isSome_congr (kept s).ids id).trans found)

theorem endingOf_treatLost {id : CmdId} {t : TxPacket} {lost : List TxPacket} (unsent : List TxPacket) (owner : t.owner = .cmd id)
    (ht : t ∈ lost) (found : (findCmd s id).isSome = true) : (endingOf (treatLost p lost unsent s) id).isSome = true := by
  have closed := lossKeeps_closed p (lost.foldl (fun u t => losePacket u p s.err.seq t) s)
  refine (closed.partnerChecked (foldl_closed (fun _ t hs => closed.rerouted _ _ t hs) _ ?_)).ends id
    (endingOf_lost _ owner ht found)
  exact foldl_closed (fun _ t hs => closed.resetFlows _ hs) _ (.refl p _)

theorem treatLost_none (h : s.lock.established = false) : treatLost p [] [] s = s := by
  show partnerCheck s = s
  rw [partnerCheck, h]; rfl

end

end Sys2Proof.Machine
end

section
/-!
SUPPORT. The rows of a port: what a breach and a link-down leave, replay, training, and keep-alive.
-/
namespace Sys2Proof.Machine

section
variable {s : State} {p : Nat}

/-- A change of a port leaves what other ports were sending on from its receive buffer. -/
theorem cutShort_putPort (s : State) (p : Nat) (x : Port) : cutShort (putPort s p x) p = cutShort s p :=
  congrArg (List.flatMap fun (o : Nat × Port) => o.2.queue.filter (heldIn p)) (filter_tabSet s.ports p x)

theorem tabSet_tabSet {α : Type} (t : Tab α) (n : Nat) (v w : α) : tabSet (tabSet t n v) n w = tabSet t n w := by
  induction t with
  | nil => simp [tabSet]
  | cons o t ih =>
    obtain ⟨k, x⟩ := o
    rw [tabSet, tabSet]
    split
    · simp [tabSet]
    · split
      next => simp [tabSet]
      next less other => simp only [tabSet, if_neg less, if_neg other, ih]

/-- A link that is neither up nor in keep-alive. -/
def LinkState.carries : LinkState → Bool
  | .up | .keepAlive => true
  | .down | .training => false

theorem portUp_eq (s : State) (p : Nat) : portUp s p = (getPort s p).link.carries := by
  unfold portUp LinkState.carries
  cases (getPort s p).link <;> rfl

section
variable {x : Port} {link : LinkState} (down : link.carries = false) (cls : Nat)
include down

theorem losePort_putPort_still :
    (getPort (losePort (putPort s p x) p link cls) p).still = (x.dead link s.clk.ticks).still ∧
      ∀ key, tabGet (getPort (losePort (putPort s p x) p link cls) p).rxBuf 0 key = 0 := by
  have gone : getPort (linkGone (putPort s p x) p link cls) p = x.dead link s.clk.ticks := by
    rw [getPort_linkGone_self, getPort_putPort_self]; rfl
  have off : portUp (linkGone (putPort s p x) p link cls) p = false := by rw [portUp_eq, gone]; exact down
  have kept := treatLost_keeps (s := linkGone (putPort s p x) p link cls) (p := p) p (lostBy (putPort s p x) p)
    (unsentBy (putPort s p x) p)
  rw [losePort_eq]
  refine ⟨(kept.port off).trans (congrArg Port.still gone), fun key => kept.buffer key ?_ off⟩
  rw [gone]; rfl

/-- What is left of a port that has lost its link (R277, R281, R304). -/
theorem linkLost_losePort (hq : x.queue = (getPort s p).queue) (hr : x.replay = (getPort s p).replay) :
    linkLost s (losePort (putPort s p x) p link cls) p link := by
  obtain ⟨still, buffer⟩ := losePort_putPort_still (s := s) (p := p) (x := x) down cls
  obtain ⟨cmds, mem, seq, lock⟩ := linkGone_keeps (s := putPort s p x) (p := p) link cls
  have kept := treatLost_keeps (s := linkGone (putPort s p x) p link cls) (p := p) p (lostBy (putPort s p x) p)
    (unsentBy (putPort s p x) p)
  have outstanding : (getPort (losePort (putPort s p x) p link cls) p).outstanding = 0 :=
    (congrArg Port.outstanding still).trans (by simp [Port.outstanding, Port.still, Port.dead])
  rw [losePort_eq] at still buffer outstanding ⊢
  refine ⟨congrArg Port.link still, congrArg Port.queue still, congrArg Port.replay still, outstanding,
    congrArg Port.tries still, buffer, kept.ids.trans (congrArg _ cmds), kept.mem.trans mem, ?_, fun u hu id owner found => ?_,
    fun queue replay short off => ?_⟩
  · have := kept.seq; rw [seq] at this; exact this
  · have lost : u ∈ lostBy (putPort s p x) p := by
      simp only [lostBy, getPort_putPort_self, hr]
      exact List.mem_append_left _ (List.mem_append_left _ hu)
    exact endingOf_treatLost _ owner lost (by rw [findCmd_congr cmds]; exact found)
  · have lost : lostBy (putPort s p x) p = [] := by
      simp only [lostBy, getPort_putPort_self, hr, hq, queue, replay, cutShort_putPort, short]; rfl
    have unsent : unsentBy (putPort s p x) p = [] := by
      simp only [unsentBy, getPort_putPort_self, hq, queue]; rfl
    have quiet := treatLost_none (s := linkGone (putPort s p x) p link cls) (p := p) (by rw [lock]; exact off)
    rw [lost, unsent, quiet]
    refine ⟨cmds, seq, fun q other => ?_⟩
    exact (getPort_linkGone_ne link cls other ((cutShort_putPort s p x).trans short)).trans (getPort_putPort_ne s x other)

end

/-- A port as it declares breach, and as it declares link-down. -/
def Port.breached (x : Port) : Port := { x with breach := true, breachCount := x.breachCount + 1 }
def Port.downed (x : Port) : Port := { x with linkDown := true, linkDownCount := x.linkDownCount + 1 }

theorem breachPort_eq (s : State) (p : Nat) :
    breachPort s p = losePort (putPort s p (getPort s p).breached) p .training 0x10 := rfl

theorem downPort_eq (s : State) (p : Nat) : downPort s p = losePort (putPort s p (getPort s p).downed) p .down 0x11 := rfl

theorem breachPort_leaves (s : State) (p : Nat) : breachLeaves s p := by
  have lost := linkLost_losePort (s := s) (p := p) (x := (getPort s p).breached) (link := .training) rfl 0x10 rfl rfl
  obtain ⟨still, _⟩ := losePort_putPort_still (s := s) (p := p) (x := (getPort s p).breached) (link := .training) rfl 0x10
  rw [← breachPort_eq] at lost still
  exact ⟨congrArg Port.breach still, congrArg Port.breachCount still, lost⟩

theorem downPort_leaves (s : State) (p : Nat) : downLeaves s p := by
  have lost := linkLost_losePort (s := s) (p := p) (x := (getPort s p).downed) (link := .down) rfl 0x11 rfl rfl
  obtain ⟨still, _⟩ := losePort_putPort_still (s := s) (p := p) (x := (getPort s p).downed) (link := .down) rfl 0x11
  rw [← downPort_eq] at lost still
  exact ⟨congrArg Port.linkDown still, congrArg Port.linkDownCount still, lost⟩

/-! ## Replay -/

theorem emitFlit_still (s : State) (p : Nat) (f : Flit) : (getPort (emitFlit s p f) p).still = (getPort s p).still := by
  simp only [emitFlit, getPort, putPort, tabGet_tabSet_self]; rfl

theorem emitFlits_wire (p : Nat) (l : List Flit) (s : State) :
    s.wire <+: (l.foldl (fun s f => emitFlit s p f) s).wire := by
  induction l generalizing s with
  | nil => exact List.prefix_refl _
  | cons f l ih => exact (List.prefix_append _ _).trans (ih (emitFlit s p f))

/-- The port of a replay, as the flits go out again (R276). -/
def Port.replayed (now : Nat) (x : Port) : Port :=
  { x with
    replays := x.replays + 1, tries := x.tries + 1, flitsTx := x.flitsTx + BitVec.ofNat 64 x.outstanding
    firstTry := if x.tries = 0 then now else x.firstTry, advanced := now }

theorem replayPort_leaves (s : State) (p : Nat) : replayLeaves s p := by
  refine ⟨fun none => if_pos none, fun some eighth => (if_neg some).trans (if_pos eighth), fun some few => ?_⟩
  obtain ⟨l, hl⟩ : ∃ l : List Flit, replayPort s p = l.foldl (fun s f => emitFlit s p f)
      (timingEvent (putPort s p ((getPort s p).replayed s.clk.ticks)) .replay 1) :=
    ⟨_, (if_neg some).trans (if_neg (Nat.not_le.2 few))⟩
  have still : (getPort (replayPort s p) p).still = ((getPort s p).replayed s.clk.ticks).still := by
    rw [hl]
    refine (foldl_field (fun s => (getPort s p).still) (fun s f => emitFlit s p f) (fun s f => emitFlit_still s p f) _ _).trans ?_
    rw [getPort, timingEvent_ports]
    exact congrArg Port.still (getPort_putPort_self s p _)
  have kept {β : Type} (F : State → β) (hF : ∀ s f, F (emitFlit s p f) = F s) :=
    foldl_field F (fun s f => emitFlit s p f) hF l (timingEvent (putPort s p ((getPort s p).replayed s.clk.ticks)) .replay 1)
  refine ⟨congrArg Port.replays still, congrArg Port.tries still, congrArg Port.flitsTx still, congrArg Port.advanced still,
    (congrArg Port.link still).trans rfl, (congrArg Port.replay still).trans rfl, (congrArg Port.txSeq still).trans rfl, ?_, ?_, ?_⟩
  · rw [hl, kept State.mem fun _ _ => rfl, timingEvent_mem]; rfl
  · rw [hl, kept State.cmds fun _ _ => rfl, timingEvent_cmds]; rfl
  · have sent := emitFlits_wire p l (timingEvent (putPort s p ((getPort s p).replayed s.clk.ticks)) .replay 1)
    rw [timingEvent_wire, ← hl] at sent
    exact sent

end

end Sys2Proof.Machine

open Sys2Proof Sys2Proof.Machine

/-- Settles O15: what RETRAIN and PORT_DISABLE do by the link's state, with `linkLost_losePort` for what a lost link leaves. -/
theorem portControlsBreachHoldAndRelease : Obligations.PortControlsBreachHoldAndRelease := by
  unfold Obligations.PortControlsBreachHoldAndRelease
  intro s p up
  have disable (v : Bool) : exec (.portDisable p v) s = .next (settle (disablePort s p.val v)) :=
    host_next up fun s => disablePort s p.val v
  have retrain : exec (.retrain p) s = .next (settle (retrainPort s p.val)) := host_next up fun s => retrainPort s p.val
  have changed {v w : Bool} (h : (getPort s p.val).disable = w) (hv : w ≠ v) : disablePort s p.val v =
      (let u := putPort s p.val { getPort s p.val with disable := v }
       if v then (if portUp u p.val then downPort u p.val else putPort u p.val { getPort u p.val with link := .down })
       else putPort u p.val { getPort u p.val with link := .training, trainedAt := u.clk.ticks }) := by
    rw [disablePort, if_neg (by rw [h]; exact hv)]
  have portUp_disable (v : Bool) : portUp (putPort s p.val { getPort s p.val with disable := v }) p.val = portUp s p.val :=
    portUp_congr ((congrArg Port.link (getPort_putPort_self s p.val _)).trans rfl)
  have twice (x y : Port) : putPort (putPort s p.val x) p.val y = putPort s p.val y := by
    simp only [putPort, tabSet_tabSet]
  refine ⟨fun on => ?_, fun off => ?_, breachPort_leaves s p.val, downPort_leaves s p.val, fun v h => ?_, fun free on => ?_,
    fun free off => ?_, fun held => ?_⟩
  · rw [retrain, retrainPort, on]; rfl
  · rw [retrain, retrainPort, off]; rfl
  · rw [disable, disablePort, if_pos h]
  · rw [disable, changed free (by decide)]
    simp only [portUp_disable, on, if_true]
  · rw [disable, changed free (by decide)]
    simp only [portUp_disable, off, if_true, Bool.false_eq_true, if_false, getPort_putPort_self, twice]
  · rw [disable, changed held (by decide)]
    simp only [Bool.false_eq_true, if_false, getPort_putPort_self, twice]
    rfl

end

section
namespace Sys2Proof.Machine

section
variable {s : State} {p : Fin 12}

theorem execReplayTimeout_replays (up : thlUp s p.val = true) (some : 0 < (getPort s p.val).outstanding) :
    exec (.replayTimeout p) s = .next (settle (replayPort (advanceTo s ((getPort s p.val).advanced + us 2)) p.val)) := by
  have row : (thlUp s p.val && decide (0 < (getPort s p.val).outstanding)) = true := by rw [up, decide_eq_true some]; rfl
  exact if_pos row

theorem execReplayTimeout_none (none : (getPort s p.val).outstanding = 0) : exec (.replayTimeout p) s = .next s := by
  refine if_neg ?_
  simp [none]

theorem execBreach_none (none : (getPort s p.val).outstanding = 0) : exec (.breach p) s = .next s := by
  refine if_neg ?_
  simp [none]

/-- A port that has replayed declares breach at its deadline (R277). -/
theorem execBreach_breaches (up : thlUp s p.val = true) (some : 0 < (getPort s p.val).outstanding)
    (tried : 0 < (getPort s p.val).tries) :
    exec (.breach p) s = .next (settle (breachPort (advanceTo s (if 8 ≤ (getPort s p.val).tries then
      min ((getPort s p.val).firstTry + us 20) ((getPort s p.val).advanced + us 2)
      else (getPort s p.val).firstTry + us 20)) p.val)) := by
  have row : (thlUp s p.val && decide (0 < (getPort s p.val).outstanding) && decide (0 < (getPort s p.val).tries)) = true := by
    rw [up, decide_eq_true some, decide_eq_true tried]; rfl
  exact if_pos row

theorem execTrainingRetry_retries (row : trains s p.val = true) {u : State}
    (hu : u = advanceTo s ((getPort s p.val).trainedAt + us 50000)) :
    exec (.trainingRetry p) s =
      .next (settle (putPort u p.val { getPort s p.val with link := .training, trainedAt := u.clk.ticks })) := by
  subst hu
  refine (if_pos row : execTrainingRetry p s = _).trans ?_
  dsimp only
  rw [getPort_advanceTo]; rfl

theorem execLaneWiden_eq (narrow : Bool) : exec (.laneWiden ⟨p, narrow⟩) s = .next (if narrow then
      if (decide ((getPort s p.val).link = .up) && !isEth s p.val) = true then
        putPort s p.val { getPort s p.val with link := .keepAlive, widen := false } else s
    else if (decide ((getPort s p.val).link = .keepAlive) && ((getPort s p.val).widen || s.dev.state != .lowPower)) = true then
      putPort s p.val { getPort s p.val with link := .up, widen := false }
    else s) := rfl

end
end Sys2Proof.Machine

open Sys2Proof Sys2Proof.Machine

/-- Settles O40: each row acts where its guard holds; what a breach, a link-down and a replay leave as for O15. -/
theorem portEventsMoveTheLink : Obligations.PortEventsMoveTheLink := by
  unfold Obligations.PortEventsMoveTheLink
  intro s p
  refine ⟨execReplayTimeout_replays, fun none => ⟨execReplayTimeout_none none, execBreach_none none⟩,
    fun up some tried few => ?_, fun up some eighth => ?_, fun fec alive => ?_, fun fec down => ?_,
    fun t => ⟨breachPort_leaves t p.val, downPort_leaves t p.val, replayPort_leaves t p.val⟩,
    fun row => execTrainingRetry_retries row rfl, fun chip port eye row => if_pos row, fun row => ?_, fun keep wide => ?_,
    fun h => ?_, fun up thl => ?_, fun h => ?_⟩
  · rw [execBreach_breaches up some tried, if_neg (Nat.not_le.2 few)]
  · rw [execBreach_breaches up some (Nat.lt_of_lt_of_le (by decide) eighth), if_pos eighth]
  · exact if_pos (bne_iff_ne.2 alive)
  · refine if_neg ?_
    rw [linkAlive, down]; decide
  · have off : ¬ trains s p.val = true := by rw [row]; exact Bool.false_ne_true
    exact ⟨if_neg off, fun chip port eye => if_neg off⟩
  · rw [execLaneWiden_eq, if_neg Bool.false_ne_true, if_pos]
    rcases wide with h | h <;> simp [keep, h]
  · rw [execLaneWiden_eq, if_neg Bool.false_ne_true, if_neg]
    rcases h with h | ⟨h, g⟩
    · simp [h]
    · simp [h, g]
  · rw [execLaneWiden_eq, if_pos rfl, if_pos]
    simp [up, thl]
  · rw [execLaneWiden_eq, if_pos rfl, if_neg]
    rcases h with h | h <;> simp [h]

end

section
/-!
SUPPORT. Flits that a port receives.
-/
namespace Sys2Proof.Machine

/-- What a port holds of the receiving side of its link (R274, R276). -/
structure RxSide where
  link : LinkState
  rxSeq : BitVec 12
  discarding : Bool
  nak : Bool
  flitsRx : W64
  crcErrors : W32

def Port.rxSide (x : Port) : RxSide := ⟨x.link, x.rxSeq, x.discarding, x.nak, x.flitsRx, x.crcErrors⟩

section
variable {s : State} {p : Nat}

theorem inbound_putPort {x : Port} (h : x.rxSide = (getPort s p).rxSide) :
    (getPort (putPort s p x) p).rxSide = (getPort s p).rxSide := by rw [getPort_putPort_self, h]

theorem inbound_noteFec (s : State) (p : Nat) (fec : Fec) : (getPort (noteFec s p fec) p).rxSide = (getPort s p).rxSide :=
  inbound_putPort rfl

theorem inbound_ackFlits (s : State) (p : Nat) (ack : BitVec 12) :
    (getPort (ackFlits s p ack) p).rxSide = (getPort s p).rxSide := by
  unfold ackFlits; dsimp only
  split
  · rfl
  · exact inbound_putPort rfl

theorem inbound_takeCredits (s : State) (p : Nat) (f : Flit) :
    (getPort (takeCredits s p f) p).rxSide = (getPort s p).rxSide := by
  unfold takeCredits; dsimp only
  split
  · rfl
  · exact inbound_putPort rfl

/-- What the acknowledgement and the credits of a flit keep: every reading but of ports. -/
theorem returned_field {β : Type} (F : State → β) (hp : ∀ s p x, F (putPort s p x) = F s) (s : State) (p : Nat) (fec : Fec)
    (f : Flit) : F (takeCredits (ackFlits (noteFec s p fec) p f.ack) p f) = F s := by
  have acked (s : State) : F (ackFlits s p f.ack) = F s := by
    unfold ackFlits; dsimp only; split
    · rfl
    · exact hp _ _ _
  have credited (s : State) : F (takeCredits s p f) = F s := by
    unfold takeCredits; dsimp only; split
    · rfl
    · exact hp _ _ _
  rw [credited, acked]; exact hp _ _ _

theorem acceptFlit_field {β : Type} (F : State → β) (hp : ∀ s p x, F (putPort s p x) = F s) (s : State) (p : Nat) (f : Flit) :
    F (acceptFlit s p f) = F s := by
  unfold acceptFlit; dsimp only; split <;> exact hp _ _ _

/-- A flit in sequence is accepted, and will be acknowledged (R274, R276). -/
theorem acceptFlit_next {f : Flit} (seq : f.seq = (getPort s p).rxSeq) :
    (getPort (acceptFlit s p f) p).rxSide = { (getPort s p).rxSide with
      rxSeq := (getPort s p).rxSeq + 1, discarding := false, nak := false, flitsRx := (getPort s p).flitsRx + 1 } ∧
    (getPort (acceptFlit s p f) p).ackDue = true := by
  unfold acceptFlit
  dsimp only
  rw [if_pos seq, getPort_putPort_self]
  exact ⟨rfl, rfl⟩

/-- A flit out of sequence is discarded, and answered with a NAK once for a run of them (R276). -/
theorem acceptFlit_other {f : Flit} (seq : f.seq ≠ (getPort s p).rxSeq) :
    (getPort (acceptFlit s p f) p).rxSide = { (getPort s p).rxSide with
      discarding := true, nak := (getPort s p).nak || !(getPort s p).discarding, flitsRx := (getPort s p).flitsRx + 1 } := by
  unfold acceptFlit
  dsimp only
  rw [if_neg seq, getPort_putPort_self]
  rfl

end
end Sys2Proof.Machine

open Sys2Proof Sys2Proof.Machine

/-- Settles O39: the acknowledgement and the credits of a flit leave the receiving side as it is; the flit's place in the sequence
decides the rest. -/
theorem flitsAreAcceptedInOrder : Obligations.FlitsAreAcceptedInOrder := by
  unfold Obligations.FlitsAreAcceptedInOrder
  intro s p b fec
  refine ⟨fun off => ?_, fun bad => ?_, fun up bad => ?_, fun f up good => ?_⟩
  · exact if_pos (by rw [off]; rfl)
  · refine if_neg ?_
    rcases bad with h | h <;> simp [h]
  · have run : exec (.flitRx p ⟨b, fec⟩) s = .next (settle (putPort (noteFec s p.val fec) p.val
        { (getPort (noteFec s p.val fec) p.val).discard with
          crcErrors := (getPort (noteFec s p.val fec) p.val).crcErrors + 1, nak := true })) := by
      refine (if_neg (by rw [up]; decide) : execFlitRx p ⟨b, fec⟩ s = _).trans ?_
      dsimp only
      rw [bad]; rfl
    have noted : (getPort (noteFec s p.val fec) p.val).rxSide = _ := inbound_noteFec s p.val fec
    refine ⟨_, run, ?_, ?_, ?_, ?_, ?_, rfl, rfl⟩
    · rw [getPort_putPort_self]
      exact congrArg (· + 1) (congrArg RxSide.crcErrors noted)
    · rw [getPort_putPort_self]
    · rw [getPort_putPort_self]; rfl
    · rw [getPort_putPort_self]; exact congrArg RxSide.rxSeq noted
    · rw [getPort_putPort_self]; exact congrArg RxSide.flitsRx noted
  · intro a r t u y
    have run : exec (.flitRx p ⟨b, fec⟩) s = .next (settle (transmit u p.val)) := by
      refine (if_neg (by rw [up]; decide) : execFlitRx p ⟨b, fec⟩ s = _).trans ?_
      dsimp only
      rw [good]; rfl
    have same : (getPort a p.val).rxSide = (getPort s p.val).rxSide :=
      (inbound_takeCredits _ _ _).trans ((inbound_ackFlits _ _ _).trans (inbound_noteFec _ _ _))
    have carries : portUp a p.val = true := by
      rw [portUp_congr (congrArg RxSide.link same)]
      rw [thlUp, Bool.and_eq_true] at up
      exact up.1
    have taken (no : f.nak = false) (kind : f.kind ≠ .idle) : t = acceptFlit a p.val f := by
      have here : r = a := if_neg (by rw [no]; exact Bool.false_ne_true)
      refine (if_neg ?_).trans (by rw [here])
      rw [here, carries]; simp [kind]
    have seqs := congrArg RxSide.rxSeq same
    refine ⟨run, fun no kind seq => ?_, fun no kind seq => ?_, fun no => ?_⟩
    · obtain ⟨inbound, due⟩ := acceptFlit_next (s := a) (p := p.val) (f := f) (seq.trans seqs.symm)
      rw [← taken no kind] at inbound due
      refine ⟨?_, congrArg RxSide.nak inbound, congrArg RxSide.discarding inbound, due, ?_⟩
      · exact (congrArg RxSide.rxSeq inbound).trans (congrArg (· + 1) seqs)
      · exact (congrArg RxSide.flitsRx inbound).trans (congrArg (· + 1) (congrArg RxSide.flitsRx same))
    · have inbound := acceptFlit_other (s := a) (p := p.val) (f := f) fun e => seq (e.trans seqs)
      rw [← taken no kind] at inbound
      refine ⟨(congrArg RxSide.rxSeq inbound).trans seqs, congrArg RxSide.discarding inbound, fun first => ?_, ?_⟩
      · refine (congrArg RxSide.nak inbound).trans ?_
        have begun : (getPort a p.val).discarding = false := (congrArg RxSide.discarding same).trans first
        simp only [begun, Bool.not_false, Bool.or_true]
      · exact (congrArg RxSide.flitsRx inbound).trans (congrArg (· + 1) (congrArg RxSide.flitsRx same))
    · have kept {β : Type} (F : State → β) (hp : ∀ s p x, F (putPort s p x) = F s) : F t = F s := by
        have here : r = a := if_neg (by rw [no]; exact Bool.false_ne_true)
        have idle : F t = F a := by
          simp only [t, here]
          rw [apply_ite F, acceptFlit_field F hp, ite_self]
        rw [idle]; exact returned_field F hp s p.val fec f
      exact ⟨kept State.mem fun _ _ _ => rfl, kept State.cmds fun _ _ _ => rfl⟩

end

section
/-!
SUPPORT. Retries and timeouts of transfers.
-/
namespace Sys2Proof.Machine

/-! ## Flows -/

theorem takeTurn_flowTx (s : State) (t : TxPacket) : (takeTurn s t).net.flowTx = s.net.flowTx := by
  unfold takeTurn
  split
  · rw [lostBeyond, logFault_net]; rfl
  · rw [(enqueue_sends _ _ _).net]

theorem routeCtl_flowTx (s : State) (k : Packet) : (routeCtl s k).net.flowTx = s.net.flowTx := by
  unfold routeCtl
  split
  · rfl
  · split
    · exact takeTurn_flowTx _ _
    · rw [lostBeyond, logFault_net]; rfl

/-- A flow that is reset waits no more for the writes that are lost (R281). -/
theorem resetFlow_unacked (s : State) (key : Nat) (lost : List Nat) : (getFlowTx (resetFlow s key lost) key).unacked =
    (getFlowTx s key).unacked.filter (fun u => !lost.contains u.1) := by
  have kept : (resetFlow s key lost).net.flowTx = (putFlowTx s key { getFlowTx s key with
      unacked := (getFlowTx s key).unacked.filter (fun u => !lost.contains u.1) }).net.flowTx :=
    foldl_field (fun s => s.net.flowTx) _ (fun _ _ => routeCtl_flowTx _ _) _ _
  rw [getFlowTx, kept]
  exact congrArg FlowTx.unacked (tabGet_tabSet_self _ _ _ _)

theorem resetFlow_field {β : Type} (F : State → β) (hs : ∀ s t, Sends s t → F t = F s) (hn : ∀ s x, F { s with net := x } = F s)
    (hl : ∀ s a b c d e g i j, F (logFault s a b c d e g i j) = F s) (s : State) (key : Nat) (lost : List Nat) :
    F (resetFlow s key lost) = F s :=
  (foldl_field F _ (fun _ _ => routeCtl_field F hs hn hl _ _) _ _).trans (hn _ _)

/-! ## Causes of the network -/

theorem freeSealed_cmds (s : State) (c : Cmd) (k : Cause) : (freeSealed s c k).cmds = s.cmds := by
  unfold freeSealed
  split
  · split <;> rfl
  · rfl

/-- A command in flight is to end once a cause of the network is posted against it. -/
theorem endingOf_failNet {s : State} {id : CmdId} (found : (findCmd s id).isSome = true) (k : Cause) :
    (endingOf (failNet s id k false) id).isSome = true := by
  obtain ⟨c, hc⟩ := Option.isSome_iff_exists.1 found
  have run : failNet s id k false = tellOthers (failCmd s id k) c k := by rw [failNet, hc]; rfl
  have posted : (endingOf (failCmd s id k) id).isSome = true := by
    unfold failCmd postCause
    rw [hc]
    refine ends_postEnding (fun _ _ _ => logFault_cmds _ _ _ _ _ _ _ _ _) ?_
    rw [findCmd_congr (freeSealed_cmds s c k), hc]; rfl
  rw [run]
  exact ((lossKeeps_closed 0 _).toldOthers c k (.refl 0 _)).ends id posted

end Sys2Proof.Machine

open Sys2Proof Sys2Proof.Machine

/-- Settles O43: the two rows act where they have something to act on; the reset of a flow drops what is lost and sends the rest. -/
theorem retriesAndTimeoutsOfTransfers : Obligations.RetriesAndTimeoutsOfTransfers := by
  unfold Obligations.RetriesAndTimeoutsOfTransfers
  intro s id
  refine ⟨fun k w t found work refused => ?_, fun none => ?_, fun t key oldest => ⟨?_, fun found => ?_⟩,
    fun v key lost => ⟨resetFlow_unacked v key lost, ?_, ?_⟩, fun none => ?_⟩
  · show execRtsRetry id s = _
    rw [execRtsRetry, found]
    simp only [work, refused]; rfl
  · show execRtsRetry id s = _
    rw [execRtsRetry, none]
  · show execE2eTimeout id s = _
    rw [execE2eTimeout, oldest]; rfl
  · refine endingOf_failNet (s := advanceTo s (t + us s.net.e2eUs.toNat)) ?_ _
    rw [findCmd_congr (advanceTo_cmds s _)]; exact found
  · exact resetFlow_field State.mem (fun _ _ h => h.mem) (fun _ _ => rfl) (by simp) v key lost
  · exact resetFlow_field State.cmds (fun _ _ h => h.cmds) (fun _ _ => rfl) (by simp) v key lost
  · show execE2eTimeout id s = _
    rw [execE2eTimeout, none]

end

section
/-!
SUPPORT. Packets that arrive: what their flow does, and the rows of a write in memory.
-/
namespace Sys2Proof.Machine

theorem closed_ite {P : State → Prop} {c : Prop} [Decidable c] {s t : State} (hs : P s) (ht : P t) : P (if c then s else t) := by
  split
  · exact hs
  · exact ht

theorem tabSet_ne_nil {α : Type} (t : Tab α) (n : Nat) (v : α) : tabSet t n v ≠ [] := by
  cases t with
  | nil => exact List.cons_ne_nil _ _
  | cons p t =>
    unfold tabSet
    split
    · exact List.cons_ne_nil _ _
    · split
      · exact List.cons_ne_nil _ _
      · exact List.cons_ne_nil _ _

/-! ## Routing and flows -/

namespace NetClosed

variable {P : State → Prop} (h : NetClosed P) {s : State}
include h

theorem bundled (b : Nat) (k : Packet) (o : Owner) (g : Option Ingress) (hs : P s) : P (onBundle s b k o g) := h.tookTurn _ hs

theorem lostBeyondHere (k : Cause) (hs : P s) : P (Machine.lostBeyond s k) := h.log _ _ _ _ _ _ _ _ hs

theorem routeLost (k : Packet) (o : Owner) (g : Option Ingress) (hs : P s) : P (routeLost s k o g) := by
  have marked : P (setNoRoute s) := h.net _ rfl rfl (fun e => e) hs
  unfold Machine.routeLost
  dsimp only
  split
  · split
    · exact h.failedNet _ _ _ marked
    · exact h.lostBeyondHere _ marked
  · exact h.failedBind _ _ _ _ (h.lostBeyondHere _ marked)
  · exact h.bundled _ _ _ _ (h.droppedFlits _ (h.lostBeyondHere _ marked))
  · exact h.lostBeyondHere _ marked

theorem routedPacket (k : Packet) (o : Owner) (g : Option Ingress) (hs : P s) : P (routePacket s k o g) := by
  unfold routePacket
  split
  · exact h.net _ rfl rfl (fun e => e) hs
  · split
    · exact h.bundled _ _ _ _ hs
    · exact h.routeLost _ _ _ hs

theorem passedWrite (k : Packet) (o : Owner) (g : Option Ingress) (hs : P s) : P (passWrite s k o g) :=
  h.routedPacket _ _ _ (h.net _ rfl rfl (fun e => e) hs)

theorem passedMcast (k : Packet) (g : Option Ingress) (hs : P s) : P (passMcast s k g) := by
  unfold passMcast
  dsimp only
  split
  · exact hs
  · exact h.passedWrite _ _ _ hs

theorem applied (x : FlowDue) (hs : P s) : P (applyDue s x) := by
  cases x with
  | event n => exact h.event _ _ hs
  | pass k g => exact h.passedMcast _ _ hs
  | mcast origin context group aux2 => exact h.routedPacket _ _ _ hs

theorem flow (key : Nat) (f : FlowRx) (hs : P s) : P (putFlowRx s key f) :=
  h.net _ rfl rfl (fun e => absurd e (tabSet_ne_nil _ _ _)) hs

theorem signalled (key : Nat) (hs : P s) : P (flowSignals s key) := by
  unfold flowSignals
  exact foldl_closed (fun _ _ hs => h.applied _ hs) _ (h.flow _ _ hs)

theorem flowLanded (src : BitVec 12) (vc q : Nat) (due : List FlowDue) (hs : P s) : P (flowLand s src vc q due) := by
  have taken (f : FlowRx) (key : Nat) : P (flowSignals (putFlowRx s key f) key) := h.signalled _ (h.flow _ _ hs)
  unfold flowLand
  exact closed_ite (h.routed _ (taken _ _)) (taken _ _)

theorem flowIsDone (k : Packet) (due : List FlowDue) (hs : P s) : P (flowDone s k due) := h.flowLanded _ _ _ _ hs

theorem counted (k : Packet) (hs : P s) : P (countRecv s k) := by
  unfold countRecv
  split
  · exact hs
  · refine h.cmd (fun c => ⟨rfl, fun x => x, fun plain => ?_⟩) hs
    dsimp only
    split
    · rfl
    · exact plain

end NetClosed

/-! ## What the network leaves of memory and of its windows -/

/-- The bytes of memory, and the windows with the flag of a refusal. -/
structure NetSpares (r t : State) : Prop where
  mem : t.mem = r.mem
  free : t.free = r.free
  cores : t.cores = r.cores
  windows : t.net.windows = r.net.windows
  refused : t.net.windowRefused = r.net.windowRefused

theorem NetSpares.refl (s : State) : NetSpares s s := ⟨rfl, rfl, rfl, rfl, rfl⟩

theorem NetSpares.readByte {r t : State} (h : NetSpares r t) (a : Nat) : readByte t a = readByte r a :=
  readByte_congr h.mem h.free h.cores a

theorem netSpares_closed (r : State) : NetClosed (NetSpares r) where
  cmd _ hs := ⟨hs.mem, hs.free, hs.cores, hs.windows, hs.refused⟩
  log _ _ _ _ _ _ _ _ hs := ⟨(logFault_mem _ _ _ _ _ _ _ _ _).trans hs.mem, (logFault_free _ _ _ _ _ _ _ _ _).trans hs.free,
    (logFault_cores _ _ _ _ _ _ _ _ _).trans hs.cores, by rw [logFault_net]; exact hs.windows,
    by rw [logFault_net]; exact hs.refused⟩
  net _ hw hr _ hs := ⟨hs.mem, hs.free, hs.cores, hw.trans hs.windows, hr.trans hs.refused⟩
  event e n hs := ⟨(addEvent_mem _ e n).trans hs.mem, (addEvent_free _ e n).trans hs.free, (addEvent_cores _ e n).trans hs.cores,
    by rw [addEvent_net]; exact hs.windows, by rw [addEvent_net]; exact hs.refused⟩
  channel _ _ hs := ⟨hs.mem, hs.free, hs.cores, hs.windows, hs.refused⟩
  qp _ _ hs := ⟨hs.mem, hs.free, hs.cores, hs.windows, hs.refused⟩
  lock _ hs := ⟨hs.mem, hs.free, hs.cores, hs.windows, hs.refused⟩
  port _ _ _ hs := ⟨hs.mem, hs.free, hs.cores, hs.windows, hs.refused⟩
  freed _ _ _ hs := ⟨hs.mem, hs.free, hs.cores, hs.windows, hs.refused⟩
  weir _ hs := ⟨hs.mem, hs.free, hs.cores, hs.windows, hs.refused⟩
  wire _ hs := ⟨hs.mem, hs.free, hs.cores, hs.windows, hs.refused⟩

/-! ## Rows -/

theorem rangeOk_of_rangeWindow {a n : Nat} (h : rangeWindow a n = true) : rangeOk a n = true := by
  simp only [rangeWindow, rangeOk, Bool.or_eq_true] at h ⊢
  exact .inl h

/-- A range within one that lies in the memories that a window may cover. -/
theorem rangeWindow_sub {a n b m : Nat} (h : rangeWindow a n = true) (low : a ≤ b) (high : b + m ≤ a + n) :
    rangeWindow b m = true := by
  simp only [rangeWindow, Bool.or_eq_true, Bool.and_eq_true, decide_eq_true_eq] at h ⊢
  simp only [ddrBase] at h ⊢
  omega

/-- The first rows of a packet, written at a base. -/
def rowsTo (s : State) (base : Nat) (k : Packet) (m : Nat) : State :=
  (List.range m).foldl (fun s i =>
    let a := base + k.offset.toNat + i * k.stride.toNat
    writeMem (ddrTake s .remote false a k.rowBytes.toNat) a
      ((k.payload.drop (i * k.rowBytes.toNat)).take k.rowBytes.toNat)) s

theorem writeRows_eq (s : State) (base : Nat) (k : Packet) : writeRows s base k = rowsTo s base k k.rows.toNat := rfl

theorem rowsTo_succ (s : State) (base : Nat) (k : Packet) (m : Nat) : rowsTo s base k (m + 1) =
    writeMem (ddrTake (rowsTo s base k m) .remote false (base + k.offset.toNat + m * k.stride.toNat) k.rowBytes.toNat)
      (base + k.offset.toNat + m * k.stride.toNat) ((k.payload.drop (m * k.rowBytes.toNat)).take k.rowBytes.toNat) := by
  rw [rowsTo, List.range_succ, List.foldl_append]; rfl

section
variable {s : State} {base : Nat} {k : Packet}

/-- A byte that no row reaches reads as before. -/
theorem readByte_rowsTo_ne {b m : Nat} (len : m * k.rowBytes.toNat ≤ k.payload.length)
    (h : ∀ i j, i < m → j < k.rowBytes.toNat → canon b ≠ canon (base + k.offset.toNat + i * k.stride.toNat + j)) :
    readByte (rowsTo s base k m) b = readByte s b := by
  induction m with
  | zero => rfl
  | succ m ih =>
    rw [rowsTo_succ, readByte_writeMem_ne, readByte_ddrTake]
    · exact ih (by rw [Nat.succ_mul] at len; omega) fun i j hi hj => h i j (by omega) hj
    · intro j hj
      exact h m j (by omega) (by rw [List.length_take] at hj; omega)

/-- A byte of a row reads as the packet gives it, unless a later row reaches it. -/
theorem readByte_rowsTo {i j m : Nat} (len : m * k.rowBytes.toNat ≤ k.payload.length) (hi : i < m) (hj : j < k.rowBytes.toNat)
    (range : ∀ i, i < m → rangeOk (base + k.offset.toNat + i * k.stride.toNat) k.rowBytes.toNat = true)
    (last : ∀ i' j', i < i' → i' < m → j' < k.rowBytes.toNat →
      canon (base + k.offset.toNat + i' * k.stride.toNat + j') ≠ canon (base + k.offset.toNat + i * k.stride.toNat + j)) :
    readByte (rowsTo s base k m) (base + k.offset.toNat + i * k.stride.toNat + j) =
      k.payload.getD (i * k.rowBytes.toNat + j) 0 := by
  induction m with
  | zero => exact absurd hi (Nat.not_lt_zero _)
  | succ m ih =>
    have room : m * k.rowBytes.toNat + k.rowBytes.toNat ≤ k.payload.length := by rw [← Nat.succ_mul]; exact len
    have row : ((k.payload.drop (m * k.rowBytes.toNat)).take k.rowBytes.toNat).length = k.rowBytes.toNat := by
      rw [List.length_take, List.length_drop]; omega
    rw [rowsTo_succ]
    rcases Nat.lt_succ_iff_lt_or_eq.1 hi with earlier | rfl
    · rw [readByte_writeMem_ne, readByte_ddrTake]
      · exact ih (by omega) earlier (fun i hi => range i (by omega)) fun i' j' h1 h2 h3 => last i' j' h1 (by omega) h3
      · intro j' hj'
        exact (last m j' earlier (by omega) (row ▸ hj')).symm
    · rw [readByte_writeMem_range (by rw [row]; exact range i hi) (by rw [row]; exact hj)]
      rw [List.getD_eq_getElem?_getD, List.getElem?_take_of_lt hj, List.getElem?_drop, List.getD_eq_getElem?_getD]

end

end Sys2Proof.Machine
end

section
namespace Sys2Proof.Machine

section
variable {s : State} {k : Packet} {g : Option Ingress}

/-- What a packet that leaves the receive buffer keeps: every reading but of ports. -/
theorem freePacket_field {β : Type} (F : State → β) (hp : ∀ s p x, F (putPort s p x) = F s) (s : State) (g : Option Ingress)
    (k : Packet) : F (freePacket s g k) = F s := by
  cases g with
  | none => rfl
  | some g => exact hp _ _ _

/-- A window that admits an access reaches its last byte. -/
theorem le_bytes_of_winRefuses {x : Window} {gen : W16} {kind : WinKind} {last : Nat} (h : winRefuses x gen kind last = none) :
    last ≤ x.bytes := by
  unfold winRefuses at h
  split at h
  · cases h
  · cases h
  · split at h
    · cases h
    · split at h
      · cases h
      · split at h
        · cases h
        next long => exact Nat.not_lt.1 long

/-- The rows of a packet whose end a window holds lie in it. -/
theorem row_in_window {base bytes i : Nat} (window : rangeWindow base bytes = true) (fits : packetEnd k ≤ bytes)
    (hi : i < k.rows.toNat) : rangeWindow (base + k.offset.toNat + i * k.stride.toNat) k.rowBytes.toNat = true := by
  have some : k.rows.toNat ≠ 0 := by omega
  rw [packetEnd, if_neg some] at fits
  have step : i * k.stride.toNat ≤ (k.rows.toNat - 1) * k.stride.toNat := Nat.mul_le_mul_right _ (by omega)
  exact rangeWindow_sub window (by omega) (by omega)

theorem recvData_refused {r : Nat} (h : winRefuses (getWindow s k.window.toNat) k.gen .thl (packetEnd k) = some r) :
    (recvData s k g).mem = s.mem ∧ (recvData s k g).net.windowRefused = true ∧
      (getWindow (recvData s k g) k.window.toNat).refused = (getWindow s k.window.toNat).refused + 1 := by
  have run : recvData s k g = refuseWrite (freePacket s g k) k
      (if k.kind = 0x03 then memberChip s k.group.toNat k.aux.toNat else k.src) r := by
    unfold recvData
    dsimp only
    rw [h]
  have closed := netSpares_closed (countRefused (freePacket s g k) k.window.toNat)
  have kept : NetSpares (countRefused (freePacket s g k) k.window.toNat) (recvData s k g) := by
    rw [run]
    exact closed.flowIsDone k [] (closed.routed _ (.refl _))
  refine ⟨kept.mem.trans (freePacket_field State.mem (fun _ _ _ => rfl) s g k), kept.refused, ?_⟩
  rw [getWindow, kept.windows]
  refine (congrArg Window.refused (tabGet_tabSet_self _ _ _ _)).trans ?_
  exact congrArg (·.refused + 1) (freePacket_field (getWindow · k.window.toNat) (fun _ _ _ => rfl) s g k)

section
variable (admitted : winRefuses (getWindow s k.window.toNat) k.gen .thl (packetEnd k) = none) (kind : k.kind = 0x01 ∨ k.kind = 0x02)
include admitted kind

theorem recvData_admitted : recvData s k g =
    if remoteWaits s (rowAccesses (getWindow s k.window.toNat).base k) then
      { s with net := { s.net with inbound := s.net.inbound ++ [.write g (getWindow s k.window.toNat).base k] } }
    else landWrite (freePacket s g k) (getWindow s k.window.toNat).base k := by
  have plain : ¬ (decide (k.kind = 0x03) && !lastOfMcast k) = true := by
    rcases kind with h | h <;> rw [h] <;> simp
  have land (u : State) (base : Nat) : landData u base k g = landWrite u base k := by
    rcases kind with h | h <;> rw [landData, h] <;> rfl
  unfold recvData
  dsimp only
  rw [admitted]
  dsimp only
  rw [if_neg plain, land]

/-- A write that has landed leaves its rows in memory. -/
theorem readByte_recvData (room : remoteWaits s (rowAccesses (getWindow s k.window.toNat).base k) = false) (b : Nat) :
    readByte (recvData s k g) b =
      readByte (rowsTo (freePacket s g k) (getWindow s k.window.toNat).base k k.rows.toNat) b := by
  have closed := netSpares_closed (writeRows (freePacket s g k) (getWindow s k.window.toNat).base k)
  rw [recvData_admitted admitted kind, room, if_neg Bool.false_ne_true, ← writeRows_eq]
  exact (closed.flowIsDone _ _ (closed.counted _ (.refl _))).readByte b

end
end
end Sys2Proof.Machine

open Sys2Proof Sys2Proof.Machine

/-- Settles O42: an admitted write that has room is its rows, written in order; a refused one only counts and answers. -/
theorem writesLandInTheirWindow : Obligations.WritesLandInTheirWindow := by
  unfold Obligations.WritesLandInTheirWindow
  intro s k g
  refine ⟨fun admitted kind => ⟨fun waits => ?_, fun room window len => ⟨fun i j hi hj last => ?_, fun b apart => ?_⟩⟩,
    fun r refused => recvData_refused refused, fun st => ?_, fun st => ?_, fun st gen => ?_, fun st gen thl long => ?_,
    fun st gen thl => ?_⟩
  · rw [recvData_admitted admitted kind, if_pos waits]
  · rw [readByte_recvData admitted kind room]
    exact readByte_rowsTo (Nat.le_of_eq len.symm) hi hj (fun i hi => rangeOk_of_rangeWindow
      (row_in_window window (le_bytes_of_winRefuses admitted) hi)) last
  · rw [readByte_recvData admitted kind room, readByte_rowsTo_ne (Nat.le_of_eq len.symm) apart]
    exact freePacket_field (readByte · b) (fun s p x => rfl) s g k
  · simp only [winRefuses, st]
  · simp only [winRefuses, st]
  · simp only [winRefuses, st, bne_iff_ne.2 gen, if_true]
  · simp [winRefuses, st, gen, winAllows, thl, long]
  · simp [winRefuses, st, gen, winAllows, thl]

end

section
/-!
SUPPORT. Inbound RoCEv2 requests.
-/
namespace Sys2Proof.Machine

/-- What a wake trigger keeps: every reading but of the device and the ports. -/
theorem wakeTrigger_field {β : Type} (F : State → β) (hw : ∀ s d p, F { s with dev := d, ports := p } = F s) (s : State) :
    F (wakeTrigger s) = F s := by
  unfold wakeTrigger
  split
  · exact hw _ _ _
  · rfl

/-! ## Packets of a queue pair -/

section
variable {β : Type} (F : State → β) (hw : ∀ s t, Waits s t → F t = F s) (hx : ∀ s x, F { s with weir := x } = F s)
  (hs : ∀ s x, F { s with wire := x } = F s)
include hw hx hs

/-- What a packet that leaves keeps: every reading that the weir's boundary does not change. -/
theorem emitRoce_field (s : State) (q : Nat) (o : RoceOut) : F (emitRoce s q o) = F s := by
  unfold emitRoce
  dsimp only
  split
  · split
    · rfl
    · refine (hs _ _).trans (foldl_field F _ (fun s b => ?_) _ _)
      refine (hx _ _).trans ?_
      split
      · exact hw _ _ (weirBoundary_waits s)
      · rfl
  · exact hs _ _

theorem sendRoce_field (hq : ∀ s n x, F (putQp s n x) = F s) (s : State) (q : Nat) (o : RoceOut) : F (sendRoce s q o) = F s := by
  unfold sendRoce
  split
  · exact hq _ _ _
  · exact emitRoce_field F hw hx hs s q o

end

theorem sendRoce_mem (s : State) (q : Nat) (o : RoceOut) : (sendRoce s q o).mem = s.mem :=
  sendRoce_field State.mem (fun _ _ h => h.mem) (fun _ _ => rfl) (fun _ _ => rfl) (fun _ _ _ => rfl) s q o

theorem readByte_sendRoce (s : State) (q : Nat) (o : RoceOut) (a : Nat) : readByte (sendRoce s q o) a = readByte s a :=
  sendRoce_field (readByte · a) (fun _ _ h => readByte_congr h.mem h.free h.cores a) (fun _ _ => rfl) (fun _ _ => rfl)
    (fun _ _ _ => rfl) s q o

theorem pfcCheck_mem (s : State) (p : Nat) : (pfcCheck s p).mem = s.mem := by
  unfold pfcCheck; split
  · rfl
  · dsimp only; split <;> rfl

/-! ## Requests -/

section
variable {s : State} {q : Nat} {psn : BitVec 24}

theorem inboundOf_take {x : Qp} (ready : x.st = .ready) (seq : psn = x.rq) : inboundOf x psn = .take := by
  rw [inboundOf, if_neg (by rw [ready]; decide), if_pos seq]

theorem inboundOf_other {x : Qp} (ready : x.st = .ready) (seq : psn ≠ x.rq) :
    inboundOf x psn = if psnUpto psn x.rq then .again else .ahead := by
  rw [inboundOf, if_neg (by rw [ready]; decide), if_neg seq]

theorem inboundOf_drop {x : Qp} (down : x.st ≠ .ready) : inboundOf x psn = .drop := if_pos (bne_iff_ne.2 down)

theorem getQp_wakeTrigger (s : State) (q : Nat) : getQp (wakeTrigger s) q = getQp s q :=
  wakeTrigger_field (getQp · q) (fun _ _ _ => rfl) s

theorem inboundThen_takes (ready : (getQp s q).st = .ready) (seq : psn = (getQp s q).rq) (ask : State → RoceAsk) :
    inboundThen s q psn ask = .next (settle (inboundTake (wakeTrigger s) q psn (ask (wakeTrigger s)))) := by
  unfold inboundThen
  dsimp only
  rw [getQp_wakeTrigger, inboundOf_take ready seq]; rfl

theorem inboundThen_answers (ready : (getQp s q).st = .ready) (seq : psn ≠ (getQp s q).rq) (ask : State → RoceAsk) :
    inboundThen s q psn ask = .next (sendRoce (wakeTrigger s) q
      (if psnUpto psn (getQp s q).rq then .ack q ((getQp s q).rq - 1) else .nakSequence q (getQp s q).rq)) := by
  unfold inboundThen
  dsimp only
  rw [getQp_wakeTrigger, inboundOf_other ready seq]
  by_cases behind : psnUpto psn (getQp s q).rq = true
  · simp only [if_pos behind, inboundElse, getQp_wakeTrigger]
  · simp only [if_neg behind, inboundElse, getQp_wakeTrigger]

theorem inboundThen_drops (down : (getQp s q).st ≠ .ready) (ask : State → RoceAsk) :
    inboundThen s q psn ask = .next (wakeTrigger s) := by
  unfold inboundThen
  dsimp only
  rw [getQp_wakeTrigger, inboundOf_drop down]; rfl

theorem keyRefuses_wakeTrigger (s : State) (x : Qp) (rkey : W32) (k : WinKind) (last : Nat) :
    keyRefuses (wakeTrigger s) x rkey k last = keyRefuses s x rkey k last :=
  wakeTrigger_field (keyRefuses · x rkey k last) (fun _ _ _ => rfl) s

theorem getWindow_wakeTrigger (s : State) (n : Nat) : getWindow (wakeTrigger s) n = getWindow s n :=
  wakeTrigger_field (getWindow · n) (fun _ _ _ => rfl) s

/-- What a READ asks (R252). -/
def askRead (q : Nat) (rkey : W32) (va : W64) (n : Nat) (s : State) : RoceAsk :=
  if keyRefuses s (getQp s q) rkey .rdmaRead (va.toNat + n) then .refused (keyWindow rkey)
  else .read (keyWindow rkey) (getWindow s (keyWindow rkey)).base va n

theorem askRead_wakeTrigger (rkey : W32) (va : W64) (n : Nat) : askRead q rkey va n (wakeTrigger s) = askRead q rkey va n s := by
  rw [askRead, getQp_wakeTrigger, keyRefuses_wakeTrigger, getWindow_wakeTrigger]; rfl

theorem askWrite_wakeTrigger (rkey : W32) (va : W64) (data : List Byte) (imm : Option W32) :
    askWrite q rkey va data imm (wakeTrigger s) = if keyRefuses s (getQp s q) rkey .rdmaWrite (va.toNat + data.length) then
      .refused (keyWindow rkey) else .write (keyWindow rkey) (getWindow s (keyWindow rkey)).base va data imm := by
  rw [askWrite, getQp_wakeTrigger, keyRefuses_wakeTrigger, getWindow_wakeTrigger]

section
variable {n base : Nat} {va : W64} {data : List Byte} {u : State}
  (hu : u = putQp s q { getQp s q with rq := psn + BitVec.ofNat 24 ((getQp s q).packets data.length) })
include hu

theorem inboundTake_waits (waits : roceWaits u q (.write n base va data none) = true) :
    (inboundTake s q psn (.write n base va data none)).net.inbound = s.net.inbound ++ [.roce q psn (.write n base va data none)] ∧
      (inboundTake s q psn (.write n base va data none)).mem = s.mem := by
  subst hu
  have run : inboundTake s q psn (.write n base va data none) = pfcCheck { putQp s q { getQp s q with
      rq := psn + BitVec.ofNat 24 ((getQp s q).packets data.length) } with
      net := { s.net with inbound := s.net.inbound ++ [.roce q psn (.write n base va data none)] } } (getQp s q).port := if_pos waits
  rw [run, pfcCheck_net, pfcCheck_mem]
  exact ⟨rfl, rfl⟩

/-- A write that has room lands (R252). -/
theorem readByte_inboundTake (room : roceWaits u q (.write n base va data none) = false) (b : Nat) :
    readByte (inboundTake s q psn (.write n base va data none)) b =
      readByte (writeMem (ddrTake u .remote false (base + va.toNat) data.length) (base + va.toNat) data) b := by
  subst hu
  have run : inboundTake s q psn (.write n base va data none) = serveRoce _ q psn (.write n base va data none) :=
    if_neg (by rw [room]; exact Bool.false_ne_true)
  rw [run]
  exact readByte_sendRoce _ q _ b

end

/-- A request that is refused leaves memory. -/
theorem inboundTake_refused {ask : RoceAsk} (h : (∃ n, ask = .refused n) ∨ ask = .invalid) : (inboundTake s q psn ask).mem = s.mem := by
  have served (u : State) : (serveRoce u q psn ask).mem = u.mem := by
    rcases h with ⟨n, rfl⟩ | rfl <;> exact sendRoce_mem _ _ _
  have run : inboundTake s q psn ask = if roceWaits (putQp s q { getQp s q with rq := psn + BitVec.ofNat 24 0 }) q ask then
      pfcCheck { putQp s q { getQp s q with rq := psn + BitVec.ofNat 24 0 } with
        net := { s.net with inbound := s.net.inbound ++ [.roce q psn ask] } } (getQp s q).port
      else serveRoce (putQp s q { getQp s q with rq := psn + BitVec.ofNat 24 0 }) q psn ask := by
    rcases h with ⟨n, rfl⟩ | rfl <;> rfl
  rw [run]
  split
  · exact pfcCheck_mem _ _
  · exact served _

end
end Sys2Proof.Machine

open Sys2Proof Sys2Proof.Machine

/-- Settles O52: a request by its place in the sequence; a write that has room by its bytes in memory. -/
theorem inboundRequestsAreServedInOrder : Obligations.InboundRequestsAreServedInOrder := by
  unfold Obligations.InboundRequestsAreServedInOrder
  intro s q psn rkey va
  have read (m : Nat) : exec (.rdmaReadReceive q psn rkey va m) s = inboundThen s q.val psn (askRead q.val rkey va m) := rfl
  have send : exec (.roceSendReceive q psn) s = inboundThen s q.val psn fun _ => .invalid := rfl
  refine ⟨fun ready seq => ⟨fun data => ?_, fun data imm => ?_, fun m => ?_, send.trans (inboundThen_takes ready seq _)⟩,
    fun ready seq => ⟨fun _ => inboundThen_answers ready seq _, fun _ _ => inboundThen_answers ready seq _,
      fun m => (read m).trans (inboundThen_answers ready seq _), send.trans (inboundThen_answers ready seq _)⟩,
    fun down => ⟨fun _ => inboundThen_drops down _, fun _ _ => inboundThen_drops down _,
      fun m => (read m).trans (inboundThen_drops down _), send.trans (inboundThen_drops down _)⟩,
    fun data => ⟨inboundTake_waits rfl, fun room range => ⟨fun k hk => ?_, fun b apart => ?_⟩⟩,
    inboundTake_refused (.inl ⟨_, rfl⟩), inboundTake_refused (.inr rfl)⟩
  · refine (inboundThen_takes ready seq _).trans ?_
    rw [askWrite_wakeTrigger]
  · refine (inboundThen_takes ready seq _).trans ?_
    rw [askWrite_wakeTrigger]
  · refine ((read m).trans (inboundThen_takes ready seq _)).trans ?_
    rw [askRead_wakeTrigger]; rfl
  · rw [readByte_inboundTake rfl room]
    exact readByte_writeMem_range (rangeOk_of_rangeWindow range) hk
  · rw [readByte_inboundTake rfl room, readByte_writeMem_ne apart, readByte_ddrTake]; rfl

end

section
/-!
SUPPORT. The watchdog and the deadlock detector.
-/
namespace Sys2Proof.Machine

section
variable {s : State} {id : CmdId}

/-! ## The detector -/

/-- The stalls of a command that have lasted by a tick. -/
def dueStalls (s : State) (id : CmdId) (t : Nat) : List (StallParty × Cmd × Nat) :=
  allParties.flatMap (fun p => ((partyStalls s p).filter (fun x =>
    x.1.id = id && x.1.advisory.isNone && deadlockAt s p x.1 x.2 ≤ t)).map (fun x => (p, x)))

theorem detectorFirst_cases (s : State) (id : CmdId) (t : Nat) : detectorFirst s id t = s ∨
    ∃ p c k, detectorFirst s id t = postDeadlock s p c k := by
  unfold detectorFirst
  dsimp only
  split
  next p c k _ => exact .inr ⟨p, c, k, rfl⟩
  next => exact .inl rfl

theorem detectorFirst_none {t : Nat} (h : dueStalls s id t = []) : detectorFirst s id t = s := by
  unfold detectorFirst
  dsimp only
  rw [show allParties.flatMap _ = [] from h]; rfl

theorem dueStalls_none {t : Nat}
    (h : ∀ p ∈ allParties, ∀ x ∈ partyStalls s p, x.1.id = id → x.1.advisory.isNone → t < deadlockAt s p x.1 x.2) :
    dueStalls s id t = [] := by
  refine List.flatMap_eq_nil_iff.2 fun p hp => List.map_eq_nil_iff.2 (List.filter_eq_nil_iff.2 fun x hx due => ?_)
  simp only [Bool.and_eq_true, decide_eq_true_eq] at due
  obtain ⟨⟨same, free⟩, late⟩ := due
  exact Nat.not_lt.2 late (h p hp x hx same free)

/-- A cause that the detector posts leaves the command's progress. -/
theorem findCmd_postDeadlock {k : Cmd} (found : findCmd s id = some k) (p : StallParty) (c : Cmd) (slot : Nat) :
    ∃ k', findCmd (postDeadlock s p c slot) id = some k' ∧ k'.progress = k.progress := by
  have here : findCmd (logFault (advanceTo s (deadlockAt s p c slot)) CauseCode.bermDeadlock.cls 2 0 0 (some c) 0
      (causeWord { localCause (advanceTo s (deadlockAt s p c slot)) .bermDeadlock (slot / 64) (slot % 64 + partyCode p * 2 ^ 8) with
        log := BitVec.ofNat 16 ((advanceTo s (deadlockAt s p c slot)).err.seq + 1) } false) 0) id = some k := by
    rw [findCmd_congr (logFault_cmds _ _ _ _ _ _ _ _ _), findCmd_congr (advanceTo_cmds s _), found]
  refine ⟨_, (findCmd_modCmd _ c.id id fun _ => by rfl).trans (congrArg (Option.map _) here), ?_⟩
  dsimp only
  split <;> rfl

theorem findCmd_detectorFirst {k : Cmd} (found : findCmd s id = some k) (t : Nat) :
    ∃ k', findCmd (detectorFirst s id t) id = some k' ∧ k'.progress = k.progress := by
  rcases detectorFirst_cases s id t with h | ⟨p, c, slot, h⟩
  · exact ⟨k, by rw [h, found], rfl⟩
  · rw [h]; exact findCmd_postDeadlock found p c slot

theorem postDeadlock_leaves (s : State) (p : StallParty) (c : Cmd) (k : Nat) :
    (postDeadlock s p c k).cmds.map (·.id) = s.cmds.map (·.id) ∧ (postDeadlock s p c k).mem = s.mem ∧
      (postDeadlock s p c k).clk.ticks = max s.clk.ticks (deadlockAt s p c k) := by
  refine ⟨?_, ?_, ?_⟩
  · refine (modCmd_ids _ _ fun _ => by rfl).trans ?_
    rw [logFault_cmds, advanceTo_cmds]
  · exact (logFault_mem _ _ _ _ _ _ _ _ _).trans (advanceTo_mem s _)
  · refine (congrArg Clock.ticks (logFault_clk _ _ _ _ _ _ _ _ _)).trans ?_
    exact advanceTo_ticks s _

/-- A stall is noted with the moment at which it began (R205). -/
theorem noted_stall {x : Nat × Cmd × Nat} (h : x ∈ allStalls s) : ∃ y ∈ (noteStalls s).stalls,
    y.party = x.1 ∧ y.cmd = x.2.1.id ∧ y.slot = x.2.2 ∧ (stallOf s x.1 x.2.1.id x.2.2 = none → y.since = s.clk.ticks) ∧
      (∀ z, stallOf s x.1 x.2.1.id x.2.2 = some z → y.since = z.since) := by
  refine ⟨_, List.mem_map_of_mem h, ?_⟩
  cases before : stallOf s x.1 x.2.1.id x.2.2 with
  | none => exact ⟨rfl, rfl, rfl, fun _ => rfl, nofun⟩
  | some z =>
    have named := List.find?_some before
    simp only [Bool.and_eq_true, decide_eq_true_eq] at named
    obtain ⟨⟨party, cmd⟩, slot⟩ := named
    exact ⟨party, cmd, slot, nofun, fun w hw => by cases hw; rfl⟩

/-! ## The watchdog -/

/-- What an end posted against a command keeps: every reading that neither its record nor a command changes. -/
theorem postEnding_field {β : Type} (F : State → β) (hm : ∀ s id g, (∀ c, (g c : Cmd).id = c.id) → F (modCmd s id g) = F s)
    (s : State) (id : CmdId) (e : Ending) {log : State → Cmd → Nat → State} (hlog : ∀ s c n, F (log s c n) = F s) :
    F (postEnding s id e log) = F s := by
  unfold postEnding
  split
  · rfl
  · split
    · exact (hm _ _ _ fun _ => by rfl).trans (hlog _ _ _)
    · split <;> exact (hm _ _ _ fun _ => by rfl).trans (hlog _ _ _)

theorem expire_count (s : State) (k : Cmd) : (expire s k).err.watchdogs = s.err.watchdogs + 1 := by
  refine (postEnding_field (·.err.watchdogs) (fun _ _ _ _ => rfl) _ _ _ fun s c n => ?_).trans rfl
  rw [logFault, writeLog, raiseCause_err]

theorem expire_ends {k : Cmd} (found : findCmd s id = some k) (none : k.ending = none) :
    ∃ k' e, findCmd (expire s k) id = some k' ∧ k'.ending = some e ∧ e.status = .timeout := by
  obtain rfl := id_of_findCmd found
  have ends : ∃ e, endingOf (expire s k) k.id = some e ∧ e.status = .timeout :=
    ⟨_, endingOf_postEnding_first (fun s c n => logFault_cmds _ _ _ _ _ _ _ _ _) found none, rfl⟩
  obtain ⟨e, he, timeout⟩ := ends
  obtain ⟨k', found', ending⟩ := Option.bind_eq_some_iff.1 he
  exact ⟨k', e, found', ending, timeout⟩

end
end Sys2Proof.Machine

open Sys2Proof Sys2Proof.Machine

/-- Settles O32: the detector posts first, which leaves the command's progress; the expiry is the first end posted against it. -/
theorem watchdogsEndAndTheDetectorAdvises : Obligations.WatchdogsEndAndTheDetectorAdvises := by
  unfold Obligations.WatchdogsEndAndTheDetectorAdvises
  refine ⟨fun s id k found counts => ⟨?_, fun none => detectorFirst_none (dueStalls_none none), expire_count s k,
      expire_ends found⟩, fun s id none => ?_, fun s p slot c k found => ?_, fun s p slot none => ?_,
    fun s p c k x stall => ?_, fun s x => noted_stall⟩
  · obtain ⟨k', found', progress⟩ := findCmd_detectorFirst found (k.progress + us (watchdogUs s k))
    refine ⟨k', found', progress, ?_⟩
    show execWatchdog id s = _
    rw [execWatchdog, found]
    dsimp only
    rw [if_pos counts, found']; rfl
  · show execWatchdog id s = _
    rw [execWatchdog, none]
  · obtain ⟨ids, mem, ticks⟩ := postDeadlock_leaves s p c k
    refine ⟨?_, ids, mem, ticks⟩
    show execBermDeadlock p slot s = _
    rw [execBermDeadlock, found]; rfl
  · show execBermDeadlock p slot s = _
    rw [execBermDeadlock, none]
  · rw [deadlockAt, stall]; rfl

end

section
/-!
SUPPORT. SEND, RECV and the collectives at their dispatch.
-/
namespace Sys2Proof.Machine

@[simp] theorem groupAt_dispatchCmd (s : State) (c : Cmd) (g : Nat) : groupAt (dispatchCmd s c) g = groupAt s g := by simp [groupAt]
@[simp] theorem groupSize_dispatchCmd (s : State) (c : Cmd) (g : Nat) : groupSize (dispatchCmd s c) g = groupSize s g := by
  simp only [groupSize, readLe, readMem_dispatchCmd, groupAt_dispatchCmd]
@[simp] theorem groupRank_dispatchCmd (s : State) (c : Cmd) (g : Nat) : groupRank (dispatchCmd s c) g = groupRank s g := by
  simp only [groupRank, readLe, readMem_dispatchCmd, groupAt_dispatchCmd]
@[simp] theorem memberWindow_dispatchCmd (s : State) (c : Cmd) (g r : Nat) :
    memberWindow (dispatchCmd s c) g r = memberWindow s g r := by
  simp only [memberWindow, readLe, readMem_dispatchCmd, groupAt_dispatchCmd]
@[simp] theorem ownWindowOk_dispatchCmd (s : State) (c : Cmd) (g off n : Nat) :
    ownWindowOk (dispatchCmd s c) g off n = ownWindowOk s g off n := by
  simp only [ownWindowOk, memberWindow_dispatchCmd, groupRank_dispatchCmd, getWindow_dispatchCmd]
@[simp] theorem sendOk_dispatchCmd (s : State) (c : Cmd) (b : List Byte) (w : SendWork) :
    sendOk (dispatchCmd s c) b w = sendOk s b w := by simp only [sendOk, groupSize_dispatchCmd]

section
variable {s : State} {i : Fin 64} {c : Cmd}

/-- A command whose group is configured goes on. -/
theorem withGroup_runs {g : Nat} (there : groupThere s g = true) (k : Out) :
    withGroup (dispatchCmd s c) (beginCmd s c) g k = k := by
  rw [withGroup, groupThere_dispatchCmd, if_pos there]

theorem execSend_runs (h : runs s i (opSel 0x0302) c = true) (hn : c.hdr.paramLen = 7) {w : SendWork}
    (hw : w = sendOf c.params) (hg : w.group < 256) (there : groupThere s w.group = true) (values : sendOk s c.params w = true)
    (reads : tensorOk rangeRead w.src w.srcStride w.rows w.rowBytes = true) :
    exec (.send i) s = .next (settle (sendStart (dispatchCmd s c) (beginCmd s c) w)) := by
  subst hw
  show execSend i s = _
  rw [execSend, issue_runs h]
  refine (settled_checked hn (decide_eq_true hg) _).trans ?_
  refine (congrArg settled (withGroup_runs there _)).trans ?_
  refine (settled_checked hn ((sendOk_dispatchCmd s c _ _).trans values) _).trans ?_
  exact congrArg settled (reaches_ok reads _ _)

/-- A multicast SEND takes the next collective number of its group (R301). -/
theorem work_sendStart_mcast (h : runs s i (opSel 0x0302) c = true) {w : SendWork} (mode : w.mode = 2) :
    (findCmd (sendStart (dispatchCmd s c) (beginCmd s c) w) c.id).map (·.work) =
      some (.send { w with seq := tabGet s.net.collSeq 0 w.group }) := by
  have there : (findCmd (takeSeq (dispatchCmd s c) w.group).2 c.id).isSome = true :=
    (findCmd_isSome_congr (dispatchCmd_ids s c) c.id).trans (Option.isSome_iff_exists.2 (findCmd_of_mem (runs_mem h)))
  have seq : (takeSeq (dispatchCmd s c) w.group).1 = tabGet s.net.collSeq 0 w.group := by rw [takeSeq, dispatchCmd_net]
  unfold sendStart
  rw [mode]
  simp only [← seq]
  exact work_modCmd there (fun _ => by rfl) fun _ => by rfl

theorem execRecv_runs (h : runs s i (opSel 0x0303) c = true) (hn : c.hdr.paramLen = 4) (hg : c.par 0 2 < 256)
    (there : groupThere s (c.par 0 2) = true) (hw : c.par 8 2 < 4096) (hz : c.par 10 6 = 0)
    (rank : c.par 2 2 < groupSize s (c.par 0 2)) (opened : (getWindow s (c.par 8 2)).st = .open) {k : Work}
    (hk : k = .recv { group := c.par 0 2, rank := c.par 2 2, tag := c.par 4 4, window := c.par 8 2, offset := c.par 16 8
                      capacity := c.par 24 8 }) :
    exec (.recv i) s = .next (settle (recvMatch (setWork (dispatchCmd s c) c.id k) { beginCmd s c with work := k })) := by
  subst hk
  have good : (decide (c.par 8 2 < 4096) && decide (c.par 10 6 = 0) &&
      decide (c.par 2 2 < groupSize (dispatchCmd s c) (c.par 0 2)) &&
      decide ((getWindow (dispatchCmd s c) (c.par 8 2)).st = .open)) = true := by
    simp only [groupSize_dispatchCmd, getWindow_dispatchCmd, hw, hz, rank, opened]; rfl
  show execRecv i s = _
  rw [execRecv, issue_runs h]
  refine (settled_checked hn (decide_eq_true hg) _).trans ?_
  refine (congrArg settled (withGroup_runs there _)).trans ?_
  exact settled_checked hn good _

/-- A collective at its dispatch: it takes the next number of its group, and memory stays (R292). -/
theorem collStarts (h : c ∈ s.cmds) (g : Nat) (w : CollWork) :
    (findCmd (setWork (takeSeq (dispatchCmd s c) g).2 c.id (.coll w)) c.id).map (·.work) = some (.coll w) ∧
      tabGet (setWork (takeSeq (dispatchCmd s c) g).2 c.id (.coll w)).net.collSeq 0 g = tabGet s.net.collSeq 0 g + 1 ∧
      (setWork (takeSeq (dispatchCmd s c) g).2 c.id (.coll w)).mem = s.mem := by
  refine ⟨work_modCmd ?_ (fun _ => by rfl) fun _ => by rfl, ?_, dispatchCmd_mem s c⟩
  · exact (findCmd_isSome_congr (dispatchCmd_ids s c) c.id).trans (Option.isSome_iff_exists.2 (findCmd_of_mem h))
  · show tabGet (tabSet (dispatchCmd s c).net.collSeq g (tabGet (dispatchCmd s c).net.collSeq 0 g + 1)) 0 g = _
    rw [tabGet_tabSet_self, dispatchCmd_net]

/-- The work of an ALLREDUCE and of an ALLGATHER at their dispatch (R297 to R300). -/
def allreduceOf (s : State) (c : Cmd) : CollWork :=
  { gather := false, group := c.par 0 2, seq := tabGet s.net.collSeq 0 (c.par 0 2), n := groupSize s (c.par 0 2)
    rank := groupRank s (c.par 0 2), elem := c.par 2 1, op := c.par 3 1, outCvt := c.par 4 1, rsId := c.par 6 2
    src := c.par 8 8, count := c.par 16 4, dstOffset := c.par 24 8, stageOffset := c.par 32 8 }
def allgatherOf (s : State) (c : Cmd) : CollWork :=
  { gather := true, group := c.par 0 2, seq := tabGet s.net.collSeq 0 (c.par 0 2), n := groupSize s (c.par 0 2)
    rank := groupRank s (c.par 0 2), src := c.par 8 8, count := c.par 16 8, dstOffset := c.par 24 8 }

theorem execAllreduce_runs (h : runs s i (opSel 0x0304) c = true) (hn : c.hdr.paramLen = 5) (hg : c.par 0 2 < 256)
    (there : groupThere s (c.par 0 2) = true)
    (values : ([0x0, 0x1, 0x2, 0xC].contains (c.par 2 1) && decide (c.par 3 1 ≤ 2) && decide (c.par 4 1 < 64) &&
      decide (c.par 4 1 % 16 < 0xD) && decide (c.par 5 1 = 0) && decide (1 ≤ c.par 16 4) && decide (c.par 16 4 ≤ 2 ^ 31) &&
      decide (c.par 20 4 = 0) && ownWindowOk s (c.par 0 2) (c.par 24 8) (fmtBytes (c.par 4 1 % 16) (c.par 16 4)) &&
      ownWindowOk s (c.par 0 2) (c.par 32 8) (65536 * treeLevels (groupSize s (c.par 0 2)))) = true)
    (reads : rangeRead (c.par 8 8) (c.par 16 4 * (fmtBits (c.par 2 1) / 8)) = true) :
    exec (.allreduce i) s =
      .next (settle (setWork (takeSeq (dispatchCmd s c) (c.par 0 2)).2 c.id (.coll (allreduceOf s c)))) := by
  have good := values
  rw [← ownWindowOk_dispatchCmd s c, ← ownWindowOk_dispatchCmd s c, ← groupSize_dispatchCmd s c] at good
  show execAllreduce i s = _
  rw [execAllreduce, issue_runs h]
  refine (settled_checked hn (decide_eq_true hg) _).trans ?_
  refine (congrArg settled (withGroup_runs there _)).trans ?_
  refine (settled_checked hn good _).trans ?_
  refine (congrArg settled (reaches_ok reads _ _)).trans ?_
  simp only [beginCmd_par, groupSize_dispatchCmd, groupRank_dispatchCmd, takeSeq, dispatchCmd_net]
  rfl

theorem execAllgather_runs (h : runs s i (opSel 0x0305) c = true) (hn : c.hdr.paramLen = 4) (hg : c.par 0 2 < 256)
    (there : groupThere s (c.par 0 2) = true) (hz : c.par 2 6 = 0) (hm : c.par 16 8 % 16 = 0)
    (window : ownWindowOk s (c.par 0 2) (c.par 24 8) (groupSize s (c.par 0 2) * c.par 16 8) = true)
    (reads : rangeRead (c.par 8 8) (c.par 16 8) = true) :
    exec (.allgather i) s =
      .next (settle (setWork (takeSeq (dispatchCmd s c) (c.par 0 2)).2 c.id (.coll (allgatherOf s c)))) := by
  have good : (decide (c.par 2 6 = 0) && decide (c.par 16 8 % 16 = 0) && ownWindowOk (dispatchCmd s c) (c.par 0 2) (c.par 24 8)
      (groupSize (dispatchCmd s c) (c.par 0 2) * c.par 16 8)) = true := by
    simp only [ownWindowOk_dispatchCmd, groupSize_dispatchCmd, hz, hm, window]; rfl
  show execAllgather i s = _
  rw [execAllgather, issue_runs h]
  refine (settled_checked hn (decide_eq_true hg) _).trans ?_
  refine (congrArg settled (withGroup_runs there _)).trans ?_
  refine (settled_checked hn good _).trans ?_
  refine (congrArg settled (reaches_ok reads _ _)).trans ?_
  simp only [beginCmd_par, groupSize_dispatchCmd, groupRank_dispatchCmd, takeSeq, dispatchCmd_net]
  rfl

end
end Sys2Proof.Machine

open Sys2Proof Sys2Proof.Machine

/-- Settles O45: the checks of each row pass under its hypotheses; a collective and a multicast take their group's next number. -/
theorem networkCommandsStart : Obligations.NetworkCommandsStart := by
  unfold Obligations.NetworkCommandsStart
  intro s i c
  refine ⟨fun h hn hg there values reads => ⟨execSend_runs h hn rfl hg there values reads, work_sendStart_mcast h⟩,
    fun h hn hg there hw hz rank opened => execRecv_runs h hn hg there hw hz rank opened rfl,
    fun h hn hg there values reads => ?_, fun h hn hg there hz hm window reads => ?_⟩
  · obtain ⟨work, seq, mem⟩ := collStarts (runs_mem h) (c.par 0 2) (allreduceOf s c)
    exact ⟨_, _, execAllreduce_runs h hn hg there values reads, work, rfl, rfl, rfl, rfl, rfl, seq, mem⟩
  · obtain ⟨work, seq, mem⟩ := collStarts (runs_mem h) (c.par 0 2) (allgatherOf s c)
    exact ⟨_, _, execAllgather_runs h hn hg there hz hm window reads, work, rfl, rfl, rfl, rfl, seq, mem⟩

end

section
/-!
SUPPORT. Array commands at their dispatch: what is read there depends on memory alone, and how their work begins.
-/
namespace Sys2Proof.Machine

/-! ## What a dispatch reads, after its re-runs -/

theorem writeLog_reserveActive (s : State) (r : LogRecord) : (writeLog s r).err.reserveActive = s.err.reserveActive := by
  simp [writeLog]

theorem noteRerun_reserveActive (s : State) (id : CmdId) (t a : Nat) :
    (noteRerun s id t a).err.reserveActive = s.err.reserveActive := by
  unfold noteRerun rerunAt
  split
  · rfl
  · unfold countRerun
    split
    · exact writeLog_reserveActive _ _
    · exact writeLog_reserveActive _ _

/-- The accumulators that a command may use are those that it may use before its reads. -/
theorem accAvail_afterReads (s : State) (c : Cmd) (l : List (Nat × Nat × Nat)) (u : Bool) :
    accAvail (afterReads s c l) u = accAvail s u := by
  have same : (afterReads s c l).err.reserveActive = s.err.reserveActive := by
    unfold afterReads
    rw [takeReads_err]
    exact rerunAll_eq (·.err.reserveActive) noteRerun_reserveActive _ _ _
  rw [accAvail, accAvail, same]

/-- Reads that meet no error of their own leave the cores. -/
theorem cores_afterReads {c : Cmd} (none : c.flaws = []) (s : State) (l : List (Nat × Nat × Nat)) :
    (afterReads s c l).cores = s.cores := by
  unfold afterReads
  rw [takeReads_cores, flawsIn, none]
  rfl

theorem readLe_dispatched (s : State) (c : Cmd) : readLe (dispatchCmd s c) = readLe s := by
  funext a n
  rw [readLe, readMem_dispatchCmd]; rfl

theorem readLe_reads (s : State) (c : Cmd) (l : List (Nat × Nat × Nat)) : readLe (afterReads s c l) = readLe s := by
  funext a n
  exact readLe_afterReads s c l a n

theorem readMem_reads (s : State) (c : Cmd) (l : List (Nat × Nat × Nat)) : readMem (afterReads s c l) = readMem s := by
  funext a n
  exact readMem_afterReads s c l a n

theorem readMem_dispatched (s : State) (c : Cmd) : readMem (dispatchCmd s c) = readMem s := by
  funext a n
  exact readMem_dispatchCmd s c a n

/-- Whether programs and their operands are allowed depends on what device memory reads as. -/
theorem programsOk_congr {s t : State} (h : readLe t = readLe s) (c : Cmd) (w : ArrayWork) (n : Nat) :
    programsOk t c w n = programsOk s c w n := by
  have ops : readOps t = readOps s := by funext a k; simp only [readOps, h]
  have env : stageEnv t c w = stageEnv s c w := by funext k; simp only [stageEnv, ops]
  simp only [programsOk, env, operandsOk, h]

theorem seqOk_congr {s t : State} (h : readLe t = readLe s) (a : AttPar) (b : List Byte) (q : SeqDesc) :
    seqOk t a b q = seqOk s a b q := by
  have docs : docsAscend t q = docsAscend s q := by rw [docsAscend, docsAscend, h]
  have page : pageAt t q = pageAt s q := by funext n; rw [pageAt, pageAt, h]
  rw [seqOk, seqOk, docs, page]

/-! ## How the work begins -/

/-- A started command is a fresh one, where its work had no grant and nothing finished. -/
theorem freshArray_startArray {t : State} {c : Cmd} (there : (findCmd t c.id).isSome = true) (w : ArrayWork)
    (fresh : w.items = [] ∧ w.finished = [] ∧ w.returned = [] ∧ w.counter = 0) (L : Nat) (sec : BitVec 6) :
    freshArray (startArray t c w L sec) c.id w.kind w.prods w.mask := by
  obtain ⟨items, finished, returned, counter⟩ := fresh
  exact ⟨{ w with chains := formChains (eligible t w.mask) L, total := (formChains (eligible t w.mask) L).length },
    work_modCmd there (fun _ => by rfl) fun _ => by rfl, rfl, rfl, rfl, items, finished, returned, counter, rfl⟩

theorem namedCores_missing {s : State} {m : Nat} (h : coresMissing s m ≠ 0) (c : Cmd) (k : Out) :
    namedCores s c m k = .next (finish s c.id .coreOffline (coresMissing s m)) := if_neg h

/-- What a started command leaves: its fresh work; memory, and the cores where its reads met no error of their own. -/
theorem starts_fresh {s : State} {i : Fin 64} {sel : Cmd → Bool} {c : Cmd} (h : runs s i sel c = true)
    (ls : List (List (Nat × Nat × Nat))) {t : State} (ht : t = ls.foldl (fun t l => afterReads t c l) (dispatchCmd s c))
    (w : ArrayWork) (fresh : w.items = [] ∧ w.finished = [] ∧ w.returned = [] ∧ w.counter = 0) (L : Nat) (sec : BitVec 6) :
    freshArray (startArray t c w L sec) c.id w.kind w.prods w.mask ∧ (startArray t c w L sec).mem = s.mem ∧
      (c.flaws = [] → (startArray t c w L sec).cores = s.cores) := by
  subst ht
  refine ⟨freshArray_startArray ?_ w fresh L sec, ?_, fun none => ?_⟩
  · have ids := foldl_ids (fun t l => afterReads_ids t c l) ls (dispatchCmd s c)
    rw [findCmd_isSome_congr ids, findCmd_isSome_congr (dispatchCmd_ids _ _), Option.isSome_iff_exists]
    exact findCmd_of_mem (runs_mem h)
  · exact (foldl_field (·.mem) _ (fun t l => afterReads_mem t c l) ls _).trans (dispatchCmd_mem s c)
  · exact (foldl_field (·.cores) _ (fun t l => cores_afterReads none t l) ls _).trans (dispatchCmd_cores s c)

section
variable {s : State} {i : Fin 64} {c : Cmd}

theorem exec_product (t : Bool) (h : runs s i (opSel (if t then 0x0205 else 0x0200)) c = true) :
    exec (if t then .gemmT i else .gemm i) s = settled (gemmCmd (dispatchCmd s c) (beginCmd s c) t) := by
  cases t with
  | false =>
    show execGemm i s = _
    rw [execGemm]
    exact issue_runs h _
  | true =>
    show execGemmT i s = _
    rw [execGemmT]
    exact issue_runs h _

/-- The work of products: what `startGemm` begins. -/
def productWork (c : Cmd) (t : Bool) (ps : List Prod) : ArrayWork :=
  { kind := if t then .gemmT else .gemm, prods := ps, mask := c.par 10 2, maxChain := maxChainOf (c.par 8 1)
    detail := gemmDetail t ps (detailTile ps) }

/-- The state in which products start (R114 to R129). -/
def startProducts (u : State) (c : Cmd) (t : Bool) (ps : List Prod) : State :=
  startArray u c (productWork c t ps) (chainLen (maxChainOf (c.par 8 1)) (eligible u (c.par 10 2)).length (mostTiles t ps))
    (if splitsN ps then 0x04 else 0)

theorem startGemm_eq (u t0 : State) (c : Cmd) (t : Bool) (ps : List Prod) :
    startGemm u (beginCmd t0 c) t ps = .next (startProducts u c t ps) := rfl

theorem exec_product_runs {t : Bool} {p : Prod} (h : runs s i (opSel (if t then 0x0205 else 0x0200)) c = true)
    (cores : coresMissing s (c.par 10 2) = 0) (hn : c.hdr.paramLen = 14) (ctl : ctlOk c.params t = true)
    (hz : fieldLe (c.params.drop 16) 92 4 = 0)
    (hp : p = (prodOf c.params (c.params.drop 16) 0).cut (accRows t (prodOf c.params (c.params.drop 16) 0).shape)
      (accAvail (dispatchCmd s c) c.urgent)) (ok : prodOk p t = true) (clean : readsClean s c (maskRanges [p]) = true) :
    exec (if t then .gemmT i else .gemm i) s =
      .next (settle (startProducts (afterReads (dispatchCmd s c) c (maskRanges [p])) c t [p])) := by
  have good : (ctlOk c.params t && decide (fieldLe (c.params.drop 16) 92 4 = 0) && prodOk p t) = true := by
    simp only [ctl, hz, ok]; rfl
  rw [exec_product t h, gemmCmd]
  simp only [beginCmd_par, beginCmd_params, beginCmd_urgent, ← hp]
  rw [namedCores_ok ((coresMissing_dispatchCmd s c _).trans cores)]
  refine (settled_checked hn good _).trans ?_
  rw [readsWell_ok ((readsClean_dispatchCmd s c _).trans clean), startGemm_eq, afterReads_beginCmd]
  rfl

theorem execGemmList_runs (h : runs s i (opSel 0x0201) c = true) (cores : coresMissing s (c.par 10 2) = 0)
    (hn : c.hdr.paramLen = 4) (ctl : ctlOk c.params false = true) (ha : c.par 16 8 % 64 = 0) (n1 : 1 ≤ c.par 24 2)
    (n2 : c.par 24 2 ≤ 4096) (hz : c.par 26 6 = 0) (range : rangeRead (c.par 16 8) (96 * c.par 24 2) = true)
    {l1 l2 : List (Nat × Nat × Nat)} (hl1 : l1 = (List.range (c.par 24 2)).map (fun e => (e, c.par 16 8 + 96 * e, 96)))
    (clean1 : readsClean s c l1 = true) (entries : (listEntries s c).all (fun b => fieldLe b 92 4 = 0) = true)
    (prods : (listProds (dispatchCmd s c) c).all (fun p => prodRanges p = 0 || prodOk p false) = true)
    (hl2 : l2 = maskRanges ((listProds (dispatchCmd s c) c).filter (fun p => prodRanges p != 0)))
    (clean2 : readsClean s c l2 = true) :
    exec (.gemmList i) s = .next (settle (startProducts (afterReads (afterReads (dispatchCmd s c) c l1) c l2) c false
      (listProds (dispatchCmd s c) c))) := by
  have sameEntries : listEntries (afterReads (dispatchCmd s c) c l1) (beginCmd s c) = listEntries s c := by
    simp only [listEntries, readMem_reads, readMem_dispatched, beginCmd_par]
  have sameProds : listProds (afterReads (dispatchCmd s c) c l1) (beginCmd s c) = listProds (dispatchCmd s c) c := by
    simp only [listProds, sameEntries, accAvail_afterReads]
    simp only [listEntries, readMem_dispatched]
    rfl
  have good1 : (ctlOk c.params false && decide (c.par 16 8 % 64 = 0) && decide (1 ≤ c.par 24 2) && decide (c.par 24 2 ≤ 4096) &&
      decide (c.par 26 6 = 0)) = true := by simp only [ctl, ha, n1, n2, hz]; rfl
  have good2 : ((listEntries s c).all (fun b => decide (fieldLe b 92 4 = 0)) &&
      (listProds (dispatchCmd s c) c).all (fun p => decide (prodRanges p = 0) || prodOk p false)) = true :=
    Bool.and_eq_true_iff.2 ⟨entries, prods⟩
  have wellRead1 : readsClean (dispatchCmd s c) (beginCmd s c) l1 = true := (readsClean_dispatchCmd s c _).trans clean1
  have wellRead2 : readsClean (afterReads (dispatchCmd s c) c l1) (beginCmd s c) l2 = true :=
    (readsClean_congr ((afterReads_mem _ _ _).trans (dispatchCmd_mem s c)) rfl rfl rfl _).trans clean2
  show execGemmList i s = _
  rw [execGemmList, issue_runs h]
  simp only [beginCmd_par, beginCmd_params]
  rw [namedCores_ok ((coresMissing_dispatchCmd s c _).trans cores)]
  refine (settled_checked hn good1 _).trans ?_
  rw [reaches_ok range, ← hl1, readsWell_ok wellRead1, afterReads_beginCmd, sameProds, sameEntries]
  refine (settled_checked hn good2 _).trans ?_
  rw [← hl2, readsWell_ok wellRead2, afterReads_beginCmd, startGemm_eq]
  rfl

end

end Sys2Proof.Machine

open Sys2Proof Sys2Proof.Machine

/-- Settles O33: the reads of the dispatch leave memory and what accumulators a command may use, so the products are those
that the block and its list give; the work that starts has no grant. -/
theorem productCommandsStart : Obligations.ProductCommandsStart := by
  unfold Obligations.ProductCommandsStart
  intro s i c
  refine ⟨?_, ?_, ?_⟩
  · intro t h cores hn ctl hz ok clean
    exact ⟨_, exec_product_runs h cores hn ctl hz rfl ok clean, starts_fresh h [_] rfl (productWork c t _)
      ⟨rfl, rfl, rfl, rfl⟩ _ _⟩
  · intro a n ps h cores hn ctl ha n1 n2 hz range clean1 entries prods clean2
    exact ⟨_, execGemmList_runs h cores hn ctl ha n1 n2 hz range rfl clean1 entries prods rfl clean2,
      starts_fresh h [_, _] rfl (productWork c false ps) ⟨rfl, rfl, rfl, rfl⟩ _ _⟩
  · intro t h missing
    rw [exec_product t h, gemmCmd]
    rw [beginCmd_par, namedCores_missing (by rwa [coresMissing_dispatchCmd]), coresMissing_dispatchCmd]
    rfl

end

section
/-!
SUPPORT. CHAIN, VECTOR and ATTEND at their dispatch.
-/
namespace Sys2Proof.Machine

/-- Where the programs of a work and its row mask lie. -/
def programRanges (w : ArrayWork) : List (Nat × Nat) :=
  progRanges w ++ (if w.par.rowMaskEn then [(w.par.rowMask, ceilDiv w.par.m 8)] else [])

section
variable {s : State} {i : Fin 64} {c : Cmd}

/-- Programs that can be read and are allowed start their work. -/
theorem settled_startPrograms {w : ArrayWork} {words tiles : Nat} {l : List (Nat × Nat × Nat)} (hn : c.hdr.paramLen = words)
    (range : (programRanges w).all (fun r => rangeRead r.1 r.2) = true)
    (hl : l = (programRanges w).map (fun r => (0, r))) (clean : readsClean s c l = true)
    (ok : programsOk (dispatchCmd s c) (beginCmd s c) w tiles = true) (L : Nat) (sec : BitVec 6) :
    settled (startPrograms (dispatchCmd s c) (beginCmd s c) w words tiles L sec) =
      .next (settle (startArray (afterReads (dispatchCmd s c) c l) c w L sec)) := by
  have allowed : programsOk (afterReads (dispatchCmd s c) c l) (beginCmd s c) w tiles = true :=
    (programsOk_congr (readLe_reads _ _ _) _ _ _).trans ok
  rw [startPrograms, ← programRanges, reaches_ok range, ← hl,
    readsWell_ok ((readsClean_dispatchCmd s c _).trans clean), afterReads_beginCmd]
  exact settled_checked hn allowed _

/-- Where the spill area of a chain stands: whole 64 KiB, and as large as the stride (R157). -/
def spillAt (w : ArrayWork) : Prop :=
  w.par.spilled = true → w.par.spillAddr % 65536 = 0 ∧ w.par.spillStride % 65536 = 0 ∧
    spillEnd w 0 0 - w.par.spillAddr ≤ w.par.spillStride

theorem spillAt_bool {w : ArrayWork} (h : spillAt w) :
    (!w.par.spilled || (decide (w.par.spillAddr % 65536 = 0) && decide (w.par.spillStride % 65536 = 0) &&
      decide (spillEnd w 0 0 - w.par.spillAddr ≤ w.par.spillStride))) = true := by
  cases spilled : w.par.spilled with
  | false => rfl
  | true =>
    obtain ⟨base, stride, room⟩ := h spilled
    simp only [base, stride, room]; rfl

theorem execChain_runs {w : ArrayWork} (hw : w = chainWork (dispatchCmd s c) (beginCmd s c))
    (h : runs s i (opSel 0x0202) c = true) (cores : coresMissing s w.mask = 0) (hn : c.hdr.paramLen = 51)
    (ok : chainOk c.params w.par w.prods = true) (spill : spillAt w)
    (range : (programRanges w).all (fun r => rangeRead r.1 r.2) = true) {l : List (Nat × Nat × Nat)}
    (hl : l = (programRanges w).map (fun r => (0, r))) (clean : readsClean s c l = true)
    (allowed : programsOk (dispatchCmd s c) (beginCmd s c) w (ceilDiv w.par.m (rowsOf w.par.shape)) = true) :
    exec (.chain i) s = .next (settle (startArray (afterReads (dispatchCmd s c) c l) c w
      (chainLen w.maxChain (eligible (dispatchCmd s c) w.mask).length (ceilDiv w.par.m (rowsOf w.par.shape)))
      ((if splitsN w.prods then 0x04 else 0) ||| (if w.par.spilled then 0x08 else 0)))) := by
  show execChain i s = _
  rw [execChain, issue_runs h]
  dsimp only
  rw [← hw, namedCores_ok ((coresMissing_dispatchCmd s c _).trans cores)]
  refine (settled_checked hn (Bool.and_eq_true_iff.2 ⟨ok, spillAt_bool spill⟩) _).trans ?_
  exact settled_startPrograms hn range hl clean allowed _ _

/-- The work of VECTOR (R164). -/
def vectorWork (c : Cmd) : ArrayWork := { kind := .vector, par := vectorPar c.params, mask := c.par 72 2, maxChain := 1 }

theorem execVector_runs (h : runs s i (opSel 0x0204) c = true) (cores : coresMissing s (c.par 72 2) = 0)
    (hn : c.hdr.paramLen = 21) (ok : vectorOk c.params (vectorPar c.params) = true)
    (place : (vectorPar c.params).inAddr ≠ (vectorPar c.params).outAddr ∨
      sweeps (readOps s (vectorPar c.params).outProg (vectorPar c.params).outLen) = 1)
    (range : (programRanges (vectorWork c)).all (fun r => rangeRead r.1 r.2) = true) {l : List (Nat × Nat × Nat)}
    (hl : l = (programRanges (vectorWork c)).map (fun r => (0, r))) (clean : readsClean s c l = true)
    (allowed : programsOk (dispatchCmd s c) (beginCmd s c) (vectorWork c) (ceilDiv (vectorPar c.params).m 128) = true) :
    exec (.vector i) s = .next (settle (startArray (afterReads (dispatchCmd s c) c l) c (vectorWork c) 1 0)) := by
  have sameOps : readOps (dispatchCmd s c) = readOps s := by funext a n; simp only [readOps, readLe_dispatched]
  have good : (vectorOk c.params (vectorPar c.params) && ((vectorPar c.params).inAddr != (vectorPar c.params).outAddr ||
      decide (sweeps (readOps s (vectorPar c.params).outProg (vectorPar c.params).outLen) = 1))) = true := by
    rw [ok, Bool.true_and, Bool.or_eq_true, bne_iff_ne, decide_eq_true_iff]
    exact place
  show execVector i s = _
  rw [execVector, issue_runs h]
  simp only [beginCmd_params, beginCmd_par, sameOps]
  rw [namedCores_ok ((coresMissing_dispatchCmd s c _).trans cores)]
  refine (settled_checked hn good _).trans ?_
  exact settled_startPrograms hn range hl clean allowed _ _

/-! ## ATTEND -/

/-- The work of ATTEND as it starts, in phase A (R165, R175). -/
def attendWork (u : State) (c : Cmd) (a : AttPar) (qs : List SeqDesc) : ArrayWork :=
  { kind := .attendA, att := a, seqs := qs, mask := c.par 42 2, maxChain := maxChainOf (c.par 44 1)
    chainsB := attChains u a qs (c.par 42 2) (maxChainOf (c.par 44 1))
    maxLen := (attChains u a qs (c.par 42 2) (maxChainOf (c.par 44 1))).foldl (fun m c => max m c.members.length) 0 }

/-- The tables of ATTEND that dispatch reads: the rotary table and those of each sequence (R170 to R172). -/
def attendTables (a : AttPar) (qs : List SeqDesc) : List (Nat × Nat × Nat) :=
  (if a.rotHalf = 0 then [] else [(0, a.rope, 4 * a.rotHalf)]) ++
    (qs.zipIdx).flatMap (fun q => (seqTables a q.1).map (fun r => (q.2, r)))

theorem execAttend_runs {a : AttPar} {qs : List SeqDesc} (ha : a = attPar c.params) (hqs : qs = (seqBlocks s a).map seqOf)
    (h : runs s i (opSel 0x0203) c = true) (cores : coresMissing s (c.par 42 2) = 0) (hn : c.hdr.paramLen = 8)
    (ok : attOk c.params a = true) (rope : a.rotHalf = 0 ∨ rangeRead a.rope (4 * a.rotHalf) = true)
    (range : rangeRead a.seqAddr (128 * a.seqs) = true) {l : List (Nat × Nat × Nat)}
    (hl : l = (List.range a.seqs).map (fun n => (n, a.seqAddr + 128 * n, 128))) (clean1 : readsClean s c l = true)
    (clean2 : readsClean s c (attendTables a qs) = true)
    (good : ((seqBlocks s a).zip qs).all (fun b => seqOk (dispatchCmd s c) a b.1 b.2) = true) :
    let u := afterReads (afterReads (dispatchCmd s c) c l) c (attendTables a qs)
    exec (.attend i) s = .next (settle (attendTurn (startArray u c (attendWork u c a qs) 1 0) c.id)) := by
  intro u
  have good1 : (attOk c.params a && (decide (a.rotHalf = 0) || rangeRead a.rope (4 * a.rotHalf))) = true := by
    rw [ok, Bool.true_and, Bool.or_eq_true, decide_eq_true_iff]
    exact rope
  have blocks : seqBlocks (afterReads (dispatchCmd s c) c l) a = seqBlocks s a := by
    simp only [seqBlocks, readMem_reads, readMem_dispatched]
  have reads : readLe u = readLe (dispatchCmd s c) := by rw [readLe_reads, readLe_reads]
  have good2 : ((seqBlocks s a).zip qs).all (fun b => seqOk u a b.1 b.2) = true := by simpa only [seqOk_congr reads] using good
  have wellRead2 : readsClean (afterReads (dispatchCmd s c) c l) (beginCmd s c) (attendTables a qs) = true :=
    (readsClean_congr ((afterReads_mem _ _ _).trans (dispatchCmd_mem s c)) rfl rfl rfl _).trans clean2
  show execAttend i s = _
  rw [execAttend, issue_runs h]
  simp only [beginCmd_par, beginCmd_params, ← ha]
  rw [namedCores_ok ((coresMissing_dispatchCmd s c _).trans cores)]
  refine (settled_checked hn good1 _).trans ?_
  rw [reaches_ok range, ← hl, readsWell_ok ((readsClean_dispatchCmd s c _).trans clean1), afterReads_beginCmd, blocks, ← hqs,
    ← attendTables, readsWell_ok wellRead2, afterReads_beginCmd]
  exact settled_checked hn good2 _

theorem findCmd_afterBoth (h : runs s i (opSel 0x0203) c = true) (l1 l2 : List (Nat × Nat × Nat)) :
    (findCmd (afterReads (afterReads (dispatchCmd s c) c l1) c l2) c.id).isSome = true :=
  (findCmd_isSome_congr (afterReads_ids _ _ _) _).trans (findCmd_afterReads h _)

/-- The work that a started command has. -/
def startedWork (t : State) (w : ArrayWork) (L : Nat) : ArrayWork :=
  { w with chains := formChains (eligible t w.mask) L, total := (formChains (eligible t w.mask) L).length }

theorem work_startArray {t : State} (there : (findCmd t c.id).isSome = true) (w : ArrayWork) (L : Nat) (sec : BitVec 6) :
    (findCmd (startArray t c w L sec) c.id).map (·.work) = some (.array (startedWork t w L)) :=
  work_modCmd there (fun _ => by rfl) fun _ => by rfl

/-- The turn to phase B replaces an ATTEND's work by one over the same sequences, and nothing else. -/
theorem attendTurn_work {t : State} {id : CmdId} {w : ArrayWork} (hw : (findCmd t id).map (·.work) = some (.array w))
    (items : w.items = []) :
    ∃ v : ArrayWork, (findCmd (attendTurn t id) id).map (·.work) = some (.array v) ∧ v.att = w.att ∧ v.seqs = w.seqs ∧
      v.mask = w.mask ∧ v.items = [] ∧ (attendTurn t id).mem = t.mem := by
  obtain ⟨k, hk, work⟩ := Option.map_eq_some_iff.1 hw
  have found : arrayWork t id = some (k, w) := by simp only [arrayWork, hk, work]
  unfold attendTurn
  rw [found]
  dsimp only
  split
  · exact ⟨{ w with
        kind := .attendB, chains := w.chainsB, chainsB := [], counter := 0, returned := [], once := [], pool := none, read := []
        items := [], finished := [] },
      work_modCmd (Option.isSome_iff_exists.2 ⟨k, hk⟩) (fun _ => by rfl) (fun _ => by rfl), rfl, rfl, rfl, rfl, rfl⟩
  · exact ⟨w, hw, rfl, rfl, rfl, items, rfl⟩

end

end Sys2Proof.Machine

open Sys2Proof Sys2Proof.Machine

/-- Settles O34: the programs and tables that the dispatch reads are those of memory before it, so the checks made of them
hold after its reads; the work that starts has no grant. -/
theorem programCommandsStart : Obligations.ProgramCommandsStart := by
  unfold Obligations.ProgramCommandsStart
  intro s i c
  refine ⟨?_, ?_, ?_⟩
  · intro w
    have hw : w = chainWork (dispatchCmd s c) (beginCmd s c) := rfl
    have idle : w.items = [] ∧ w.finished = [] ∧ w.returned = [] ∧ w.counter = 0 := ⟨rfl, rfl, rfl, rfl⟩
    have kind : w.kind = .chain := rfl
    clear_value w
    intro h cores hn ok spill range clean allowed
    exact ⟨_, execChain_runs hw h cores hn ok spill range rfl clean allowed, kind ▸ starts_fresh h [_] rfl w idle _ _⟩
  · intro p w h cores hn ok place range clean allowed
    have run := execVector_runs h cores hn ok place range rfl clean allowed
    have fresh := starts_fresh h [(programRanges (vectorWork c)).map (fun r => (0, r))] rfl (vectorWork c) ⟨rfl, rfl, rfl, rfl⟩ 1 0
    exact ⟨_, run, fresh⟩
  · intro a bs qs h cores hn ok rope range clean1 clean2 good
    have run := execAttend_runs rfl rfl h cores hn ok rope range rfl clean1 clean2 good
    have there := findCmd_afterBoth h ((List.range a.seqs).map (fun n => (n, a.seqAddr + 128 * n, 128))) (attendTables a qs)
    obtain ⟨w, work, att, seqs, mask, items, mem⟩ := attendTurn_work (work_startArray there (attendWork _ c a qs) 1 0) rfl
    refine ⟨_, w, run, work, att, seqs, mask, items, mem.trans ?_⟩
    exact (afterReads_mem _ _ _).trans ((afterReads_mem _ _ _).trans (dispatchCmd_mem s c))

end

section
/-!
SUPPORT. What a read of BAR0 shows: each block's register at its address, and the fields of a register one by one.
-/
namespace Sys2Proof.Machine

theorem readBar_narrow {s : State} {a : Nat} (up : hostUp s = true) (aligned : a % 4 = 0) :
    readBar s a false = some (BitVec.ofNat 64 (readReg s a).toNat) := by simp [readBar, aligned, up]

/-- A field of a register, as a read shows it. -/
def fieldShown (s : State) (f : Shown) : Prop :=
  f.1 % 4 = 0 ∧ (readReg s f.1).toNat / 2 ^ f.2.1 % 2 ^ f.2.2.1 = f.2.2.2 % 2 ^ f.2.2.1

theorem shows_of {s : State} {l : List Shown} (up : hostUp s = true) (fields : ∀ f ∈ l, fieldShown s f) : shows s l := by
  intro f hf
  obtain ⟨aligned, value⟩ := fields f hf
  refine ⟨_, readBar_narrow up aligned, ?_⟩
  have small := (readReg s f.1).isLt
  rw [BitVec.toNat_ofNat, Nat.mod_eq_of_lt (by omega : _ < 2 ^ 64)]
  exact value

/-- One bit as a word of one bit, which carries its bound. -/
theorem bit01_word (b : Bool) : bit01 b = (BitVec.ofBool b).toNat := by cases b <;> rfl

theorem readReg_inlet (s : State) (i : Fin 64) {o : Nat} (h : o < 0x100) :
    readReg s (0x10000 + 0x100 * i.val + o) = BitVec.ofNat 32 (readInlet s i.val o) := by
  have block : (0x10000 + 0x100 * i.val + o) / 0x10000 = 1 := by omega
  have inBlock : (0x10000 + 0x100 * i.val + o) % 0x10000 = 0x100 * i.val + o := by omega
  have inlet : (0x100 * i.val + o) / 0x100 = i.val := by omega
  have reg : (0x100 * i.val + o) % 0x100 = o := by omega
  rw [readReg, block, inBlock]
  simp only [inlet, reg, if_pos (by omega : 0x100 * i.val + o < 0x4000)]


theorem readReg_inlet_base (s : State) (i : Fin 64) : readReg s (0x10000 + 0x100 * i.val) = BitVec.ofNat 32 (readInlet s i.val 0) :=
  readReg_inlet s i (o := 0) (by decide)

theorem readReg_outfall (s : State) (i : Fin 64) {o : Nat} (h : o < 0x100) :
    readReg s (0x20000 + 0x100 * i.val + o) = BitVec.ofNat 32 (readOutfall s i.val o) := by
  have block : (0x20000 + 0x100 * i.val + o) / 0x10000 = 2 := by omega
  have inBlock : (0x20000 + 0x100 * i.val + o) % 0x10000 = 0x100 * i.val + o := by omega
  have inlet : (0x100 * i.val + o) / 0x100 = i.val := by omega
  have reg : (0x100 * i.val + o) % 0x100 = o := by omega
  rw [readReg, block, inBlock]
  simp only [inlet, reg, if_pos (by omega : 0x100 * i.val + o < 0x4000)]

theorem readReg_outfall_base (s : State) (i : Fin 64) : readReg s (0x20000 + 0x100 * i.val) = BitVec.ofNat 32 (readOutfall s i.val 0) :=
  readReg_outfall s i (o := 0) (by decide)

theorem readReg_outfall_upper (s : State) (i : Fin 64) :
    readReg s (0x20000 + 0x100 * i.val + 8 + 4) = BitVec.ofNat 32 (readOutfall s i.val 0xC) := readReg_outfall s i (o := 0xC) (by decide)

theorem code_lt (x : InletState) : x.code < 4 := by cases x <;> decide
theorem devCode_lt (x : DevState) : x.code < 16 := by cases x <;> decide
theorem coreMask_lt (s : State) : coreMask s < 65536 := by
  have bound : ∀ l : List Nat, ∀ m, l.foldl (fun m c => if coreIn s c then m + 2 ^ c else m) m ≤ m + (l.map (2 ^ ·)).sum := by
    intro l
    induction l with
    | nil => intro m; simp
    | cons c l ih =>
      intro m
      rw [List.foldl_cons, List.map_cons, List.sum_cons]
      refine Nat.le_trans (ih _) ?_
      generalize 2 ^ c = b
      split <;> omega
  exact Nat.lt_of_le_of_lt (bound (List.range 16) 0) (by decide)




theorem host_fields (s : State) (i : Fin 64) : ∀ f ∈ hostShown s i, fieldShown s f := by
  have c1 := code_lt (getInlet s i.val).state
  have c2 := devCode_lt s.dev.state
  have c3 := coreMask_lt s
  have c4 : coreCount s ≤ 16 := List.countP_le_length
  simp only [hostShown, wideShown, List.forall_mem_append, List.forall_mem_cons, List.not_mem_nil, false_imp_iff, implies_true, and_true]
  simp only [fieldShown, readReg_inlet_base, readReg_outfall_base, readReg_outfall_upper, readReg_inlet s i (by decide : 0x4 < 0x100)]
  simp [readReg_inlet, readReg_outfall, readInlet, readOutfall, bitAt, half]
  simp [readReg, readGlobal, readIrq, bitAt, devId, stepping]
  simp only [bit01_word]
  and_intros <;> omega

/-! ## PUMPING and TELEMETRY -/

theorem readReg_pump (s : State) {o : Nat} (h : o < 0x10000) : readReg s (0x80000 + o) = BitVec.ofNat 32 (readPump s o) := by
  have block : (0x80000 + o) / 0x10000 = 8 := by omega
  have inBlock : (0x80000 + o) % 0x10000 = o := by omega
  rw [readReg, block, inBlock]
  rfl

theorem readReg_tele (s : State) {o : Nat} (h : o < 0x10000) : readReg s (0x90000 + o) = BitVec.ofNat 32 (readTele s o) := by
  have block : (0x90000 + o) / 0x10000 = 9 := by omega
  have inBlock : (0x90000 + o) % 0x10000 = o := by omega
  rw [readReg, block, inBlock]
  rfl

theorem readReg_coreM (s : State) (c : Fin 16) : readReg s (0x80100 + 4 * c.val) = BitVec.ofNat 32
    ((getPower s c.val).m % 32 + (getPower s c.val).mMax % 32 * 2 ^ 8 + dutyOf s c.val % 16 * 2 ^ 16 +
      bitAt ((getPower s c.val).thermalDuty < 8) 20 + (getPower s c.val).railMv % 1024 * 2 ^ 22) := by
  have core : (0x100 + 4 * c.val - 0x100) / 4 = c.val := by omega
  rw [show 0x80100 + 4 * c.val = 0x80000 + (0x100 + 4 * c.val) by omega, readReg_pump s (by omega)]
  unfold readPump
  dsimp only
  rw [if_pos (by simp only [Bool.and_eq_true, decide_eq_true_eq]; omega), core]

theorem readReg_coreShare (s : State) (c : Fin 16) : readReg s (0x80100 + 4 * c.val + 0x40) = BitVec.ofNat 32
    ((getPower s c.val).share.toNat + (getPower s c.val).est.toNat * 2 ^ 16) := by
  have core : (0x140 + 4 * c.val - 0x140) / 4 = c.val := by omega
  rw [show 0x80100 + 4 * c.val + 0x40 = 0x80000 + (0x140 + 4 * c.val) by omega, readReg_pump s (by omega)]
  unfold readPump
  dsimp only
  rw [if_neg (by simp only [Bool.and_eq_true, decide_eq_true_eq]; omega), if_pos (by simp only [Bool.and_eq_true, decide_eq_true_eq]; omega), core]

theorem readReg_job (s : State) (k : BitVec 12) {o : Nat} (ho : o < 8) : readReg s (0x88000 + 8 * k.toNat + o) = BitVec.ofNat 32
    (half (tabGet s.pump.jobEnergy 0 k.toNat) (o = 4)) := by
  have slot : (0x8000 + (8 * k.toNat + o) - 0x8000) / 8 = k.toNat := by omega
  have part : (0x8000 + (8 * k.toNat + o)) % 8 = o := by omega
  rw [show 0x88000 + 8 * k.toNat + o = 0x80000 + (0x8000 + (8 * k.toNat + o)) by omega, readReg_pump s (by omega)]
  unfold readPump
  dsimp only
  rw [if_neg (by simp only [Bool.and_eq_true, decide_eq_true_eq]; omega), if_neg (by simp only [Bool.and_eq_true, decide_eq_true_eq]; omega), if_neg (by simp only [Bool.and_eq_true, decide_eq_true_eq]; omega), if_neg (by simp only [Bool.and_eq_true, decide_eq_true_eq]; omega), if_pos (by omega), slot, part]

theorem readReg_eol (s : State) (c : Fin 16) : readReg s (0x90110 + 4 * c.val) = BitVec.ofNat 32
    ((getPower s c.val).eolMonths.toNat + (getPower s c.val).margin.toNat * 2 ^ 8 + (getPower s c.val).mMaxShip % 32 * 2 ^ 16) := by
  have core : (0x110 + 4 * c.val - 0x110) / 4 = c.val := by omega
  rw [show 0x90110 + 4 * c.val = 0x90000 + (0x110 + 4 * c.val) by omega, readReg_tele s (by omega)]
  unfold readTele
  dsimp only
  rw [if_neg (by omega), if_neg (by omega), if_pos (by simp only [Bool.and_eq_true, decide_eq_true_eq]; omega), core]

theorem readReg_droops (s : State) (c : Fin 16) : readReg s (0x90400 + 4 * c.val) =
    BitVec.ofNat 32 (getPower s c.val).droops.toNat := by
  have core : (0x400 + 4 * c.val - 0x400) / 4 = c.val := by omega
  rw [show 0x90400 + 4 * c.val = 0x90000 + (0x400 + 4 * c.val) by omega, readReg_tele s (by omega)]
  unfold readTele
  dsimp only
  rw [if_neg (by omega), if_neg (by omega), if_neg (by simp only [Bool.and_eq_true, decide_eq_true_eq]; omega), if_neg (by simp only [Bool.and_eq_true, decide_eq_true_eq]; omega), if_neg (by simp only [Bool.and_eq_true, decide_eq_true_eq]; omega),
    if_pos (by simp only [Bool.and_eq_true, decide_eq_true_eq]; omega), core]

theorem power_fields (s : State) (c : Fin 16) (k : BitVec 12) : ∀ f ∈ powerShown s c k, fieldShown s f := by
  have lower := readReg_job s k (o := 0) (by decide)
  have upper := readReg_job s k (o := 4) (by decide)
  rw [Nat.add_zero] at lower
  simp only [powerShown, wideShown, List.forall_mem_append, List.forall_mem_cons, List.not_mem_nil, false_imp_iff, implies_true, and_true]
  simp only [fieldShown, readReg_coreM, readReg_coreShare, lower, upper, readReg_eol, readReg_droops]
  simp [bitAt, half]
  simp [readReg, readPump, readTele, bitAt, half, pumpStatus, thresholds]
  simp only [bit01_word]
  and_intros <;> omega
end Sys2Proof.Machine
end

section
/-!
SUPPORT. What a read of BAR0 shows of TIDE, PORTS, SECURITY and ERROR.
-/
namespace Sys2Proof.Machine

/-! ## TIDE and PORTS -/

theorem readReg_ports (s : State) {o : Nat} (h : o < 0x10000) : readReg s (0xB0000 + o) = BitVec.ofNat 32 (readPorts s o) := by
  have block : (0xB0000 + o) / 0x10000 = 11 := by omega
  have inBlock : (0xB0000 + o) % 0x10000 = o := by omega
  rw [readReg, block, inBlock]
  rfl

theorem readReg_port (s : State) (p : Fin 12) {o : Nat} (h : o < 0x100) :
    readReg s (0xB2000 + 0x100 * p.val + o) = BitVec.ofNat 32 (readPort s p.val o) := by
  have port : (0x2000 + (0x100 * p.val + o) - 0x2000) / 0x100 = p.val := by omega
  have reg : (0x2000 + (0x100 * p.val + o)) % 0x100 = o := by omega
  rw [show 0xB2000 + 0x100 * p.val + o = 0xB0000 + (0x2000 + (0x100 * p.val + o)) by omega, readReg_ports s (by omega)]
  unfold readPorts
  dsimp only
  rw [if_neg (by simp only [Bool.and_eq_true, decide_eq_true_eq]; omega),
    if_pos (by simp only [Bool.and_eq_true, decide_eq_true_eq]; omega), port, reg]

theorem readReg_window (s : State) (w : BitVec 12) {o : Nat} (ho : o < 8) : readReg s (0xB8000 + o + 8 * w.toNat) = BitVec.ofNat 32
    (if o = 4 then (getWindow s w.toNat).refused.toNat
      else (getWindow s w.toNat).st.code + (getWindow s w.toNat).gen.toNat * 2 ^ 16) := by
  have window : (0x8000 + (o + 8 * w.toNat) - 0x8000) / 8 = w.toNat := by omega
  have part : (0x8000 + (o + 8 * w.toNat)) % 8 = o := by omega
  rw [show 0xB8000 + o + 8 * w.toNat = 0xB0000 + (0x8000 + (o + 8 * w.toNat)) by omega, readReg_ports s (by omega)]
  unfold readPorts
  dsimp only
  rw [if_neg (by simp only [Bool.and_eq_true, decide_eq_true_eq]; omega),
    if_neg (by simp only [Bool.and_eq_true, decide_eq_true_eq]; omega), if_pos (by omega), window, part]

theorem lockCode_lt (x : Lockstep) : lockCode x < 4 := by unfold lockCode; split; decide; split <;> decide
theorem windowCode_lt (x : WindowState) : x.code < 4 := by cases x <;> decide
theorem tideCode_lt (x : TideState) : x.code < 4 := by cases x <;> decide

theorem link_fields (s : State) (p : Fin 12) (w : BitVec 12) : ∀ f ∈ linkShown s p w, fieldShown s f := by
  have port := readReg_port s p (o := 0) (by decide)
  have upper1 : readReg s (0xB2000 + 0x100 * p.val + 0x20 + 4) = BitVec.ofNat 32 (readPort s p.val 0x24) :=
    readReg_port s p (o := 0x24) (by decide)
  have upper2 : readReg s (0xB2000 + 0x100 * p.val + 0x28 + 4) = BitVec.ofNat 32 (readPort s p.val 0x2C) :=
    readReg_port s p (o := 0x2C) (by decide)
  have lower := readReg_window s w (o := 0) (by decide)
  have upper := readReg_window s w (o := 4) (by decide)
  rw [Nat.add_zero] at port lower
  have c1 := lockCode_lt s.lock
  have lock : (if s.lock.established then 2 else bit01 s.lock.set) = lockCode s.lock := rfl
  have c2 := windowCode_lt (getWindow s w.toNat).st
  have c3 := tideCode_lt s.tide.st
  simp only [linkShown, wideShown, List.forall_mem_append, List.forall_mem_cons, List.not_mem_nil, false_imp_iff, implies_true, and_true]
  simp only [fieldShown, lock]
  simp only [port, upper1, upper2, lower, upper]
  simp [readReg_port, readPort, bitAt, half, portStatus]
  simp [readReg, readTide, readPorts, bitAt, half]
  simp only [bit01_word]
  generalize (getPort s p.val).link = link
  cases link <;> dsimp only <;> and_intros <;> omega

/-! ## SECURITY and ERROR -/

theorem readReg_err (s : State) {o : Nat} (h : o < 0x10000) : readReg s (0xD0000 + o) = BitVec.ofNat 32 (readErr s o) := by
  have block : (0xD0000 + o) / 0x10000 = 13 := by omega
  have inBlock : (0xD0000 + o) % 0x10000 = o := by omega
  rw [readReg, block, inBlock]
  rfl

theorem readReg_coreErr (s : State) (c : Fin 16) : readReg s (0xD0040 + 4 * c.val) = BitVec.ofNat 32 (coreErr (getCore s c.val)) := by
  have core : (0x40 + 4 * c.val - 0x40) / 4 = c.val := by omega
  rw [show 0xD0040 + 4 * c.val = 0xD0000 + (0x40 + 4 * c.val) by omega, readReg_err s (by omega)]
  unfold readErr
  dsimp only
  rw [if_pos (by simp only [Bool.and_eq_true, decide_eq_true_eq]; omega), core]

theorem fwCode_lt (x : FwState) : x.code < 4 := by cases x <;> decide

theorem guard_fields (s : State) (c : Fin 16) : ∀ f ∈ guardShown s c, fieldShown s f := by
  have c1 := fwCode_lt s.warden.fwState
  simp only [guardShown, wideShown, List.forall_mem_append, List.forall_mem_cons, List.not_mem_nil, false_imp_iff, implies_true, and_true]
  simp only [fieldShown, readReg_coreErr]
  simp [coreErr]
  simp [readReg, readSec, readErr, bitAt, half]
  simp only [bit01_word]
  and_intros <;> omega
end Sys2Proof.Machine
end

section
/-!
SUPPORT. Writes of BAR0: each block's register at its address, and what a 64-bit write leaves after its two halves.
-/
namespace Sys2Proof.Machine

section
variable {s : State} (up : hostUp s = true)
include up

theorem exec_write (a : BitVec 20) (w : Bool) (v : W64) :
    exec (.registerWrite a w v) s = settled (writeBar s a.toNat w v) :=
  host_up up (writeBar · a.toNat w v)

theorem exec_write_unaligned {a : BitVec 20} {w : Bool} (h : a.toNat % (if w then 8 else 4) ≠ 0) (v : W64) :
    exec (.registerWrite a w v) s = .fault (.badRegister a.toNat) := by
  rw [exec_write up, writeBar, if_pos (by simpa using h)]
  rfl

omit up in
theorem writeBar_narrow {a : Nat} (aligned : a % 4 = 0) (v : W64) :
    writeBar s a false v = writeReg s a (BitVec.ofNat 32 v.toNat) := by
  rw [writeBar, if_neg (by simpa using aligned)]
  cases writeReg s a (BitVec.ofNat 32 v.toNat) <;> rfl

/-- A 32-bit write reaches the register at its address. -/
theorem exec_narrow {a : Nat} (small : a < 2 ^ 20) (aligned : a % 4 = 0) (v : W64) :
    exec (.registerWrite (BitVec.ofNat 20 a) false v) s = settled (writeReg s a (BitVec.ofNat 32 v.toNat)) := by
  rw [exec_write up, BitVec.toNat_ofNat, Nat.mod_eq_of_lt small, writeBar_narrow aligned]

theorem exec_regWrite {a : Nat} (small : a < 2 ^ 20) (aligned : a % 4 = 0) (v : W32) :
    exec (regWrite a v) s = settled (writeReg s a v) := by
  have same : BitVec.ofNat 32 (v.setWidth 64).toNat = v := by
    apply BitVec.eq_of_toNat_eq
    rw [BitVec.toNat_ofNat, BitVec.toNat_setWidth, Nat.mod_eq_of_lt (by omega : v.toNat < 2 ^ 64), Nat.mod_eq_of_lt v.isLt]
  rw [regWrite, exec_narrow up small aligned, same]

/-- A 64-bit write is its lower half, then its upper half (R47). -/
theorem exec_wideWrite {a : Nat} {t : State} (small : a < 2 ^ 20) (aligned : a % 8 = 0) (v : W64)
    (lower : writeReg s a (BitVec.ofNat 32 v.toNat) = .next t) :
    exec (.registerWrite (BitVec.ofNat 20 a) true v) s = settled (writeReg t (a + 4) (BitVec.ofNat 32 (v.toNat / 2 ^ 32))) := by
  rw [exec_write up, BitVec.toNat_ofNat, Nat.mod_eq_of_lt small, writeBar, if_neg (by simpa using aligned), lower]
  rfl

end

/-! ## The registers at their addresses -/

section
variable (s : State) (v : W32)

theorem writeReg_global {o : Nat} (h : o < 0x10000) : writeReg s o v = writeGlobal s o v := by
  have block : o / 0x10000 = 0 := by omega
  have inBlock : o % 0x10000 = o := by omega
  unfold writeReg
  rw [block, inBlock]
  rfl

theorem writeReg_inlet (i : Fin 64) {o : Nat} (h : o < 0x100) :
    writeReg s (0x10000 + 0x100 * i.val + o) v = writeInletReg s i o v := by
  have block : (0x10000 + 0x100 * i.val + o) / 0x10000 = 1 := by omega
  have inBlock : (0x10000 + 0x100 * i.val + o) % 0x10000 = 0x100 * i.val + o := by omega
  have inlet : (0x100 * i.val + o) / 0x100 = i.val := by omega
  have reg : (0x100 * i.val + o) % 0x100 = o := by omega
  unfold writeReg
  rw [block, inBlock]
  simp only [inlet, reg, i.isLt, dif_pos]

theorem writeReg_outfall (i : Fin 64) {o : Nat} (h : o < 0x100) :
    writeReg s (0x20000 + 0x100 * i.val + o) v = writeOutfallReg s i o v := by
  have block : (0x20000 + 0x100 * i.val + o) / 0x10000 = 2 := by omega
  have inBlock : (0x20000 + 0x100 * i.val + o) % 0x10000 = 0x100 * i.val + o := by omega
  have inlet : (0x100 * i.val + o) / 0x100 = i.val := by omega
  have reg : (0x100 * i.val + o) % 0x100 = o := by omega
  unfold writeReg
  rw [block, inBlock]
  simp only [inlet, reg, i.isLt, dif_pos]

theorem writeReg_irq {o : Nat} (h : o < 0x10000) : writeReg s (0x30000 + o) v = writeIrqReg s o v := by
  have block : (0x30000 + o) / 0x10000 = 3 := by omega
  have inBlock : (0x30000 + o) % 0x10000 = o := by omega
  unfold writeReg
  rw [block, inBlock]
  rfl

theorem writeReg_event {n : Nat} (h : n < 65536) : writeReg s (0x40000 + 4 * n) v = .next (setEvent s n v) := by
  have event : (0x40000 + 4 * n - 0x40000) / 4 = n := by omega
  have block : (0x40000 + 4 * n) / 0x10000 = 4 ∨ (0x40000 + 4 * n) / 0x10000 = 5 ∨ (0x40000 + 4 * n) / 0x10000 = 6 ∨
      (0x40000 + 4 * n) / 0x10000 = 7 := by omega
  unfold writeReg
  rw [event]
  rcases block with block | block | block | block <;> rw [block] <;> rfl

theorem writeReg_ports {o : Nat} (h : o < 0x10000) : writeReg s (0xB0000 + o) v = writePortsReg s o v := by
  have block : (0xB0000 + o) / 0x10000 = 11 := by omega
  have inBlock : (0xB0000 + o) % 0x10000 = o := by omega
  unfold writeReg
  rw [block, inBlock]
  rfl

theorem writeReg_sec {o : Nat} (h : o < 0x10000) : writeReg s (0xC0000 + o) v = writeSecReg s o v := by
  have block : (0xC0000 + o) / 0x10000 = 12 := by omega
  have inBlock : (0xC0000 + o) % 0x10000 = o := by omega
  unfold writeReg
  rw [block, inBlock]
  rfl

/-- A write of a port's register (Table 11.10). -/
def writePort (s : State) (p : Fin 12) (o : Nat) (v : W32) : Out :=
  match o with
  | 0x04 => .next (disablePort (if v.getLsbD 0 then retrainPort s p.val else s) p.val (v.getLsbD 1))
  | 0x08 => .next (clearWithSets s (.portFlags p) v 0)
  | _ => .next s

theorem writeReg_port (p : Fin 12) {o : Nat} (h : o < 0x100) :
    writeReg s (0xB2000 + 0x100 * p.val + o) v = writePort s p o v := by
  have port : (0x2000 + (0x100 * p.val + o) - 0x2000) / 0x100 = p.val := by omega
  have reg : (0x2000 + (0x100 * p.val + o)) % 0x100 = o := by omega
  rw [show 0xB2000 + 0x100 * p.val + o = 0xB0000 + (0x2000 + (0x100 * p.val + o)) by omega, writeReg_ports s v (by omega)]
  unfold writePortsReg
  simp only [reg, port]
  rw [if_neg (by simp; omega), if_neg (by omega), if_neg (by omega), if_neg (by omega), if_neg (by simp; omega), if_neg (by omega),
    if_neg (by simp), dif_pos (by omega)]
  rfl

end

end Sys2Proof.Machine
end

section
/-!
SUPPORT. Writes of the registers of an inlet, its outfall and the module (Tables 2.10 to 2.13).
-/
namespace Sys2Proof.Machine

/-! ## The halves of a 64-bit register -/

/-- The words that a 64-bit write puts into its two halves. -/
def lowerWord (v : W64) : W32 := BitVec.ofNat 32 v.toNat
def upperWord (v : W64) : W32 := BitVec.ofNat 32 (v.toNat / 2 ^ 32)

theorem toNat_setHalf_lower (b v : W64) : (setHalf b false (lowerWord v)).toNat = b.toNat / 2 ^ 32 * 2 ^ 32 + v.toNat % 2 ^ 32 := by
  have := b.isLt
  simp only [setHalf, lowerWord, Bool.false_eq_true, if_false, BitVec.toNat_ofNat]
  omega

theorem toNat_setHalf_upper (b v : W64) :
    (setHalf b true (upperWord v)).toNat = b.toNat % 2 ^ 32 + v.toNat / 2 ^ 32 * 2 ^ 32 := by
  have := v.isLt
  simp only [setHalf, upperWord, if_true, BitVec.toNat_ofNat]
  omega

theorem toNat_maskLow (v : W64) (n : Nat) : (maskLow v n).toNat = v.toNat / 2 ^ n * 2 ^ n := by
  rw [maskLow, BitVec.toNat_ofNat]
  exact Nat.mod_eq_of_lt (Nat.lt_of_le_of_lt (Nat.div_mul_le_self _ _) v.isLt)

/-- Both halves of a write leave the value written, whose low bits are reserved. -/
theorem maskLow_halves {n : Nat} (hn : n = 12 ∨ n = 3 ∨ n = 6) (b v : W64) :
    maskLow (setHalf (maskLow (setHalf b false (lowerWord v)) n) true (upperWord v)) n = maskLow v n := by
  apply BitVec.eq_of_toNat_eq
  rw [toNat_maskLow, toNat_setHalf_upper, toNat_maskLow, toNat_setHalf_lower, toNat_maskLow]
  rcases hn with rfl | rfl | rfl <;> omega

theorem setHalf_halves (b v : W64) : setHalf (setHalf b false (lowerWord v)) true (upperWord v) = v := by
  apply BitVec.eq_of_toNat_eq
  rw [toNat_setHalf_upper, toNat_setHalf_lower]
  omega

/-! ## An inlet and its outfall -/

theorem putInlet_putInlet (s : State) (i : Nat) (x y : Inlet) : putInlet (putInlet s i x) i y = putInlet s i y := by
  simp only [putInlet, tabSet_tabSet]

theorem putOutfall_putOutfall (s : State) (i : Nat) (x y : Outfall) : putOutfall (putOutfall s i x) i y = putOutfall s i y := by
  simp only [putOutfall, tabSet_tabSet]

section
variable {s : State} (up : hostUp s = true) (i : Fin 64)
include up

theorem exec_inletBase (closed : (getInlet s i.val).state = .closed) (v : W64) :
    exec (.registerWrite (BitVec.ofNat 20 (0x10000 + 0x100 * i.val)) true v) s =
      .next (settle (putInlet s i.val { getInlet s i.val with base := maskLow v 12 })) := by
  have lower : writeReg s (0x10000 + 0x100 * i.val) (lowerWord v) = .next (putInlet s i.val
      { getInlet s i.val with base := maskLow (setHalf (getInlet s i.val).base false (lowerWord v)) 12 }) := by
    refine (writeReg_inlet s _ i (o := 0) (by decide)).trans ?_
    exact congrArg Host.Outcome.next (if_pos closed)
  refine (exec_wideWrite up (by omega) (by omega) v lower).trans ?_
  rw [writeReg_inlet _ _ i (by decide : 4 < 0x100)]
  refine (congrArg (fun t => settled (Host.Outcome.next t))
    (if_pos ((congrArg Inlet.state (getInlet_putInlet_self s i.val
      { getInlet s i.val with base := maskLow (setHalf (getInlet s i.val).base false (lowerWord v)) 12 })).trans closed))).trans ?_
  rw [getInlet_putInlet_self, putInlet_putInlet]
  exact congrArg (fun b => Host.Outcome.next (settle (putInlet s i.val { getInlet s i.val with base := b })))
    (maskLow_halves (.inl rfl) _ v)

theorem exec_inletBase_open (running : (getInlet s i.val).state ≠ .closed) (v : W64) :
    exec (.registerWrite (BitVec.ofNat 20 (0x10000 + 0x100 * i.val)) true v) s = .next (settle s) := by
  have lower : writeReg s (0x10000 + 0x100 * i.val) (lowerWord v) = .next s := by
    refine (writeReg_inlet s _ i (o := 0) (by decide)).trans ?_
    exact congrArg Host.Outcome.next (if_neg running)
  refine (exec_wideWrite up (by omega) (by omega) v lower).trans ?_
  rw [writeReg_inlet _ _ i (by decide : 4 < 0x100)]
  exact congrArg (fun t => Host.Outcome.next (settle t)) (if_neg running)

theorem exec_outfallBase (closed : (getInlet s i.val).state = .closed) (v : W64) :
    exec (.registerWrite (BitVec.ofNat 20 (0x20000 + 0x100 * i.val)) true v) s =
      .next (settle (putOutfall s i.val { getOutfall s i.val with base := maskLow v 12 })) := by
  have lower : writeReg s (0x20000 + 0x100 * i.val) (lowerWord v) = .next (putOutfall s i.val
      { getOutfall s i.val with base := maskLow (setHalf (getOutfall s i.val).base false (lowerWord v)) 12 }) := by
    refine (writeReg_outfall s _ i (o := 0) (by decide)).trans ?_
    exact congrArg Host.Outcome.next (if_pos closed)
  refine (exec_wideWrite up (by omega) (by omega) v lower).trans ?_
  rw [writeReg_outfall _ _ i (by decide : 4 < 0x100)]
  refine (congrArg (fun t => settled (Host.Outcome.next t)) (if_pos closed)).trans ?_
  rw [getOutfall_putOutfall_self, putOutfall_putOutfall]
  exact congrArg (fun b => Host.Outcome.next (settle (putOutfall s i.val { getOutfall s i.val with base := b })))
    (maskLow_halves (.inl rfl) _ v)

theorem exec_outfallWb (closed : (getInlet s i.val).state = .closed) (v : W64) :
    exec (.registerWrite (BitVec.ofNat 20 (0x20000 + 0x100 * i.val + 8)) true v) s =
      .next (settle (putOutfall s i.val { getOutfall s i.val with wb := maskLow v 3 })) := by
  have lower : writeReg s (0x20000 + 0x100 * i.val + 8) (lowerWord v) = .next (putOutfall s i.val
      { getOutfall s i.val with wb := maskLow (setHalf (getOutfall s i.val).wb false (lowerWord v)) 3 }) := by
    refine (writeReg_outfall s _ i (o := 8) (by decide)).trans ?_
    exact congrArg Host.Outcome.next (if_pos closed)
  refine (exec_wideWrite up (by omega) (by omega) v lower).trans ?_
  refine (congrArg settled (writeReg_outfall _ _ i (o := 12) (by decide))).trans ?_
  refine (congrArg (fun t => settled (Host.Outcome.next t)) (if_pos closed)).trans ?_
  rw [getOutfall_putOutfall_self, putOutfall_putOutfall]
  exact congrArg (fun b => Host.Outcome.next (settle (putOutfall s i.val { getOutfall s i.val with wb := b })))
    (maskLow_halves (.inr (.inl rfl)) _ v)

/-- While the inlet is not CLOSED, its outfall's addresses stay. -/
theorem exec_outfallAddress_open (running : (getInlet s i.val).state ≠ .closed) {o : Nat} (ho : o = 0 ∨ o = 8) (v : W64) :
    exec (.registerWrite (BitVec.ofNat 20 (0x20000 + 0x100 * i.val + o)) true v) s = .next (settle s) := by
  have half : ∀ p, (p = 0 ∨ p = 4 ∨ p = 8 ∨ p = 12) → ∀ w, writeOutfallReg s i p w = .next s := by
    rintro p (rfl | rfl | rfl | rfl) w <;> exact congrArg Host.Outcome.next (if_neg running)
  have lower : writeReg s (0x20000 + 0x100 * i.val + o) (lowerWord v) = .next s :=
    (writeReg_outfall s _ i (by omega)).trans (half o (by omega) _)
  refine (exec_wideWrite up (by omega) (by omega) v lower).trans ?_
  exact congrArg settled ((writeReg_outfall s _ i (by omega : o + 4 < 0x100)).trans (half (o + 4) (by omega) _))

omit up in
theorem toNat_headWord (h : W16) : (h.setWidth 32).toNat % 65536 = h.toNat := by
  rw [BitVec.toNat_setWidth]
  omega

theorem inlet_writes : inletWrites s i := by
  refine ⟨fun v closed => ⟨exec_inletBase up i closed v, exec_outfallBase up i closed v, exec_outfallWb up i closed v⟩,
    fun v running => ⟨exec_inletBase_open up i running v, exec_outfallAddress_open up i running (.inl rfl) v,
      exec_outfallAddress_open up i running (.inr rfl) v⟩, fun v => ?_, fun v => ?_, fun h => ⟨fun small behind => ?_, fun large => ?_⟩⟩
  · rw [exec_enableWrite up, exec_regWrite up (by omega) (by omega), writeReg_inlet s v i (by decide)]
    rfl
  · rw [exec_regWrite up (by omega) (by omega), writeReg_outfall s v i (by decide)]
    rfl
  · have head : writeHead s i.val ((h.setWidth 32).toNat % 65536) = .next (putOutfall s i.val { getOutfall s i.val with head := h }) := by
      rw [toNat_headWord, writeHead]
      refine (if_pos ?_).trans ?_
      · exact Bool.and_eq_true_iff.2 ⟨decide_eq_true small, decide_eq_true behind⟩
      · rw [BitVec.ofNat_toNat, BitVec.setWidth_eq]
    rw [exec_regWrite up (by omega) (by omega), writeReg_outfall s _ i (by decide)]
    exact congrArg settled head
  · have head : writeHead s i.val ((h.setWidth 32).toNat % 65536) = .fault (.badRegister (0x20014 + 0x100 * i.val)) := by
      rw [toNat_headWord, writeHead]
      refine if_neg fun both => ?_
      exact absurd (of_decide_eq_true (Bool.and_eq_true_iff.1 both).1) (Nat.not_lt.2 large)
    rw [exec_regWrite up (by omega) (by omega), writeReg_outfall s _ i (by decide)]
    refine (congrArg settled head).trans ?_
    exact congrArg (fun a => Host.Outcome.fault (Fault.badRegister a)) (by omega)

end

end Sys2Proof.Machine
end

section
/-!
SUPPORT. Writes of the MSI-X table, of PUMPING and of TIDE.
-/
namespace Sys2Proof.Machine

/-! ## The MSI-X table -/

/-- Four bytes put into a table. -/
def putWord (t : Tab Byte) (o v : Nat) : Tab Byte := ((leBytes 4 v).zipIdx).foldl (fun t p => tabSet t (o + p.2) p.1) t

theorem putWord_eq (t : Tab Byte) (o v : Nat) : putWord t o v =
    tabSet (tabSet (tabSet (tabSet t o (BitVec.ofNat 8 (v % 256))) (o + 1) (BitVec.ofNat 8 (v / 256 % 256))) (o + 2)
      (BitVec.ofNat 8 (v / 256 / 256 % 256))) (o + 3) (BitVec.ofNat 8 (v / 256 / 256 / 256 % 256)) := rfl

theorem tabGet_putWord_first (t : Tab Byte) (d : Byte) (o v : Nat) : tabGet (putWord t o v) d o = BitVec.ofNat 8 (v % 256) := by
  rw [putWord_eq, tabGet_tabSet_ne _ _ _ (by omega), tabGet_tabSet_ne _ _ _ (by omega), tabGet_tabSet_ne _ _ _ (by omega),
    tabGet_tabSet_self]

theorem tabWord_putWord (t : Tab Byte) (o : Nat) {v : Nat} (h : v < 2 ^ 32) : tabWord (putWord t o v) o = v := by
  have b0 := tabGet_putWord_first t 0 o v
  have b1 : tabGet (putWord t o v) 0 (o + 1) = BitVec.ofNat 8 (v / 256 % 256) := by
    rw [putWord_eq, tabGet_tabSet_ne _ _ _ (by omega), tabGet_tabSet_ne _ _ _ (by omega), tabGet_tabSet_self]
  have b2 : tabGet (putWord t o v) 0 (o + 2) = BitVec.ofNat 8 (v / 256 / 256 % 256) := by
    rw [putWord_eq, tabGet_tabSet_ne _ _ _ (by omega), tabGet_tabSet_self]
  have b3 : tabGet (putWord t o v) 0 (o + 3) = BitVec.ofNat 8 (v / 256 / 256 / 256 % 256) := by
    rw [putWord_eq, tabGet_tabSet_self]
  show leNat [tabGet (putWord t o v) 0 (o + 0), tabGet (putWord t o v) 0 (o + 1), tabGet (putWord t o v) 0 (o + 2),
    tabGet (putWord t o v) 0 (o + 3)] = v
  rw [Nat.add_zero, b0, b1, b2, b3]
  simp only [leNat, BitVec.toNat_ofNat]
  omega

theorem tabGet_putWord_ne (t : Tab Byte) (d : Byte) (v : Nat) {o j : Nat} (h : j < o ∨ o + 4 ≤ j) :
    tabGet (putWord t o v) d j = tabGet t d j := by
  rw [putWord_eq, tabGet_tabSet_ne _ _ _ (by omega), tabGet_tabSet_ne _ _ _ (by omega), tabGet_tabSet_ne _ _ _ (by omega),
    tabGet_tabSet_ne _ _ _ (by omega)]

/-- The state whose MSI-X table a write has changed, before a pending vector is sent. -/
def msixWritten (s : State) (o : Nat) (v : W32) : State :=
  { s with irq := { s.irq with table := putWord s.irq.table o (if o % 16 = 12 then v.toNat % 2 else v.toNat) } }

theorem writeMsix_eq (s : State) (o : Nat) (v : W32) : writeMsix s o v = releaseVector (msixWritten s o v) (o / 16) := rfl

theorem releaseVector_table (s : State) (n : Nat) : (releaseVector s n).irq.table = s.irq.table := by
  unfold releaseVector; split <;> rfl

theorem readIrq_table (s : State) {o : Nat} (h : o < 0x1000) :
    readIrq s o = if o % 16 = 12 then (tabGet s.irq.table 1 o).toNat % 2 else tabWord s.irq.table o := if_pos h

theorem msixMasked_written (s : State) (n : Nat) {v : W32} (clear : v.getLsbD 0 = false) :
    vectorMasked (msixWritten s (16 * n + 12) v).irq n = false := by
  have row : (16 * n + 12) % 16 = 12 := by omega
  have even : v.toNat % 2 = 0 := by
    have := BitVec.getLsbD_eq_getElem (x := v) (i := 0) (by decide)
    rw [clear, BitVec.getElem_eq_testBit_toNat] at this
    have := Nat.testBit_zero v.toNat
    grind
  show (tabGet (putWord s.irq.table (16 * n + 12) _) _ (16 * n + 12)).getLsbD 0 = false
  rw [tabGet_putWord_first, if_pos row, even]
  rfl

section
variable (s : State) (n : BitVec 8) (k : Fin 4) (v : W32)

/-- What the write of an entry's word reads as: of Vector Control the mask bit alone (R52). -/
theorem readReg_writeMsix : (readReg (writeMsix s (16 * n.toNat + 4 * k.val) v) (0x30000 + (16 * n.toNat + 4 * k.val))).toNat =
    if k = 3 then v.toNat % 2 else v.toNat := by
  have block : (0x30000 + (16 * n.toNat + 4 * k.val)) / 0x10000 = 3 := by omega
  have inBlock : (0x30000 + (16 * n.toNat + 4 * k.val)) % 0x10000 = 16 * n.toNat + 4 * k.val := by omega
  have column : (16 * n.toNat + 4 * k.val) % 16 = 12 ↔ k = 3 := by omega
  have word : readIrq (writeMsix s (16 * n.toNat + 4 * k.val) v) (16 * n.toNat + 4 * k.val) =
      if k = 3 then v.toNat % 2 else v.toNat := by
    rw [readIrq_table _ (by omega), writeMsix_eq, releaseVector_table]
    simp only [column, msixWritten]
    by_cases last : k = 3
    · rw [if_pos last, if_pos last, tabGet_putWord_first, BitVec.toNat_ofNat]
      omega
    · rw [if_neg last, if_neg last, tabWord_putWord _ _ v.isLt]
  rw [readReg, block, inBlock]
  refine (congrArg (fun x => (BitVec.ofNat 32 x).toNat) word).trans ?_
  rw [BitVec.toNat_ofNat]
  split <;> omega

/-- A pending vector that the write unmasks is sent, and is pending no more (R52). -/
theorem writeMsix_sends (last : k = 3) (clear : v.getLsbD 0 = false) (pending : vectorPending s.irq n.toNat = true) :
    (writeMsix s (16 * n.toNat + 4 * k.val) v).msix = s.msix ++ [n.toNat] ∧
      vectorPending (writeMsix s (16 * n.toNat + 4 * k.val) v).irq n.toNat = false := by
  subst last
  have vector : (16 * n.toNat + 4 * (3 : Fin 4).val) / 16 = n.toNat := by omega
  have masked : vectorMasked (msixWritten s (16 * n.toNat + 4 * (3 : Fin 4).val) v).irq n.toNat = false :=
    msixMasked_written s n.toNat clear
  have still : vectorPending (msixWritten s (16 * n.toNat + 4 * (3 : Fin 4).val) v).irq n.toNat = true := pending
  rw [writeMsix_eq, vector, releaseVector, still, masked]
  exact ⟨rfl, vectorPending_setPending _ _ _⟩

theorem writeMsix_quiet (quiet : vectorPending s.irq n.toNat = false) :
    (writeMsix s (16 * n.toNat + 4 * k.val) v).msix = s.msix ∧
      (writeMsix s (16 * n.toNat + 4 * k.val) v).irq.pba = s.irq.pba := by
  have vector : (16 * n.toNat + 4 * k.val) / 16 = n.toNat := by omega
  have still : vectorPending (msixWritten s (16 * n.toNat + 4 * k.val) v).irq n.toNat = false := quiet
  rw [writeMsix_eq, vector, releaseVector, still]
  exact ⟨rfl, rfl⟩

end

theorem module_writes {s : State} (up : hostUp s = true) : moduleWrites s := by
  refine ⟨fun v => ⟨?_, host_next up (writeQuiesce · (v.getLsbD 0))⟩, fun v => ?_, fun v => ?_, fun n k v => ⟨?_, ?_, ?_, ?_⟩⟩
  · rw [exec_regWrite up (by decide) (by decide), writeReg_global s v (by decide)]
    rfl
  · rw [exec_regWrite up (by decide) (by decide)]
    rfl
  · rw [exec_regWrite up (by decide) (by decide)]
    rfl
  · rw [exec_regWrite up (by omega) (by omega), writeReg_irq s v (by omega), writeIrqReg]
    simp only [if_pos (by omega : 16 * n.toNat + 4 * k.val < 0x1000)]
    rfl
  · exact readReg_writeMsix s n k v
  · exact writeMsix_sends s n k v
  · exact writeMsix_quiet s n k v

/-! ## PUMPING and TIDE -/

/-- What a step over each of a list leaves of each, where later steps keep it. -/
theorem foldl_leaves {α : Type} {f : State → α → State} {P : α → State → Prop} (made : ∀ s a, P a (f s a))
    (kept : ∀ s a b, P b s → P b (f s a)) (l : List α) (s : State) : ∀ a ∈ l, P a (l.foldl f s) := by
  have keeps : ∀ (l : List α) (s : State) (b : α), P b s → P b (l.foldl f s) := by
    intro l
    induction l with
    | nil => exact fun _ _ h => h
    | cons a l ih => exact fun s b h => ih _ _ (kept _ _ _ h)
  induction l generalizing s with
  | nil => intro a h; simp at h
  | cons a l ih =>
    intro b hb
    rcases List.mem_cons.1 hb with rfl | hb
    · exact keeps l _ _ (made s _)
    · exact ih _ b hb

theorem capM_field {β : Type} (g : State → β) (h : ∀ (s : State) (t : Tab CorePower), g { s with power := t } = g s) (s : State)
    (c : Nat) : g (capM s c) = g s := by
  unfold capM
  split
  · exact (h _ _).trans (h _ _)
  · rfl

/-- A core's highest m stays when cores come down to theirs. -/
theorem topM_capM (s : State) (c d : Nat) : topM (capM s c) d = topM s d := by
  have pump : (capM s c).pump = s.pump := capM_field (·.pump) (fun _ _ => rfl) s c
  have most : (getPower (capM s c) d).mMax = (getPower s d).mMax := by
    unfold capM
    split
    · by_cases same : d = c
      · subst same
        simp only [lowerM, writeDivider, getPower_putPower_self]
      · simp only [lowerM, writeDivider, getPower_putPower_ne _ _ same]
    · rfl
  rw [topM, topM, pump, most]

theorem capM_caps (s : State) (c : Nat) : (getPower (capM s c) c).m ≤ topM (capM s c) c := by
  rw [topM_capM]
  unfold capM
  split
  · simp only [lowerM, writeDivider, getPower_putPower_self]
    exact Nat.le_refl _
  · omega

theorem capM_keeps_capped (s : State) (c d : Nat) (h : (getPower s d).m ≤ topM s d) :
    (getPower (capM s c) d).m ≤ topM (capM s c) d := by
  by_cases same : d = c
  · exact same ▸ capM_caps s c
  · rw [topM_capM]
    unfold capM
    split
    · simpa only [lowerM, writeDivider, getPower_putPower_ne _ _ same] using h
    · exact h

/-- The state after a write of M_CEILING (R326). -/
def ceilingWritten (s : State) (v : W32) : State :=
  (List.range 16).foldl capM { s with pump := { s.pump with
    mCeiling := BitVec.ofNat 5 (bitsOf v.toNat 4 0), learn := v.getLsbD 8 } }

theorem ceilingWritten_field {β : Type} (g : State → β) (h : ∀ (s : State) (t : Tab CorePower), g { s with power := t } = g s)
    (s : State) (v : W32) : g (ceilingWritten s v) = g { s with pump := { s.pump with
      mCeiling := BitVec.ofNat 5 (bitsOf v.toNat 4 0), learn := v.getLsbD 8 } } :=
  foldl_field g capM (fun s c => capM_field g h s c) _ _

theorem bitsOf_lt (v hi lo : Nat) : bitsOf v hi lo < 2 ^ (hi + 1 - lo) := Nat.mod_lt _ (Nat.two_pow_pos _)

section
variable {s : State} (up : hostUp s = true)
include up

theorem exec_ceiling {v : W32} (low : 8 ≤ bitsOf v.toNat 4 0) (high : bitsOf v.toNat 4 0 ≤ 20) :
    exec (regWrite 0x80008 v) s = .next (settle (ceilingWritten s v)) := by
  rw [exec_regWrite up (by decide) (by decide)]
  exact congrArg settled (if_pos (Bool.and_eq_true_iff.2 ⟨decide_eq_true low, decide_eq_true high⟩))

theorem exec_ceiling_stops {v : W32} (out : bitsOf v.toNat 4 0 < 8 ∨ 20 < bitsOf v.toNat 4 0) :
    exec (regWrite 0x80008 v) s = .fault (.badRegister 0x80008) := by
  rw [exec_regWrite up (by decide) (by decide)]
  refine congrArg settled (if_neg fun both => ?_)
  obtain ⟨low, high⟩ := Bool.and_eq_true_iff.1 both
  have := of_decide_eq_true low
  have := of_decide_eq_true high
  omega

theorem exec_jobClear (v : W32) : exec (regWrite 0x80028 v) s =
    exec (if v.getLsbD 31 then .jobEnergyClearAll else .jobEnergyClearSlot (BitVec.ofNat 12 v.toNat)) s := by
  have slot : (BitVec.ofNat 12 v.toNat).toNat = bitsOf v.toNat 11 0 := by
    rw [BitVec.toNat_ofNat, bitsOf]
    omega
  have all : exec .jobEnergyClearAll s = .next (settle (clearJobs s)) := host_next up clearJobs
  have one : exec (.jobEnergyClearSlot (BitVec.ofNat 12 v.toNat)) s = .next (settle (clearSlot s (bitsOf v.toNat 11 0))) :=
    slot ▸ host_next up (clearSlot · (BitVec.ofNat 12 v.toNat).toNat)
  rw [exec_regWrite up (by decide) (by decide)]
  cases every : v.getLsbD 31 with
  | true =>
    refine Eq.trans ?_ all.symm
    exact congrArg (fun t => settled (Host.Outcome.next t)) (if_pos every)
  | false =>
    refine Eq.trans ?_ one.symm
    exact congrArg (fun t => settled (Host.Outcome.next t)) (if_neg (by rw [every]; exact Bool.false_ne_true))

end

/-! ## TIDE_CTL -/

theorem setTideState_settings (s : State) (st : TideState) : (setTideState s st).tide.st = st ∧
    (setTideState s st).tide.master = s.tide.master ∧ (setTideState s st).tide.source = s.tide.source ∧
      (setTideState s st).tide.syncEn = s.tide.syncEn := by
  unfold setTideState
  dsimp only
  split
  case isTrue same => exact ⟨same, rfl, rfl, rfl⟩
  case isFalse => exact ⟨rfl, rfl, rfl, rfl⟩

/-- The settings that TIDE_CTL takes, and the state in which the tide begins again where they change. -/
theorem tideCtl_settings (s : State) (m : Bool) (src : BitVec 2) (en : Bool) :
    let t := tideCtl s m src.toNat en
    t.tide.master = m ∧ t.tide.source = src ∧ t.tide.syncEn = en ∧
      (s.tide.master = m → s.tide.source = src → s.tide.syncEn = en → t = s) ∧
      (s.tide.master ≠ m ∨ s.tide.source ≠ src ∨ s.tide.syncEn ≠ en →
        t.tide.st = (if m = true ∧ src = 0 ∧ en = true then .tracking else .unsync)) := by
  have sourceEq : s.tide.source.toNat = src.toNat ↔ s.tide.source = src := BitVec.toNat_inj
  have zero : src.toNat = 0 ↔ src = 0 := BitVec.toNat_inj (y := 0)
  have word : BitVec.ofNat 2 src.toNat = src := by rw [BitVec.ofNat_toNat, BitVec.setWidth_eq]
  unfold tideCtl
  dsimp only
  split
  case isTrue same =>
    simp only [Bool.and_eq_true, decide_eq_true_eq, sourceEq] at same
    obtain ⟨⟨master, source⟩, sync⟩ := same
    exact ⟨master, source, sync, fun _ _ _ => rfl, fun other =>
      other.elim (absurd master) (·.elim (absurd source) (absurd sync))⟩
  case isFalse changed =>
    simp only [Bool.and_eq_true, decide_eq_true_eq, sourceEq] at changed
    split
    case isTrue reference =>
      simp only [Bool.and_eq_true, decide_eq_true_eq, zero] at reference
      obtain ⟨st, master, source, sync⟩ := setTideState_settings _ .tracking
      refine ⟨master, source.trans word, sync, fun a b c => absurd ⟨⟨a, b⟩, c⟩ changed, fun _ => ?_⟩
      rw [st, if_pos ⟨reference.1.1, reference.1.2, reference.2⟩]
    case isFalse other =>
      simp only [Bool.and_eq_true, decide_eq_true_eq, zero] at other
      obtain ⟨st, master, source, sync⟩ := setTideState_settings _ .unsync
      refine ⟨master, source.trans word, sync, fun a b c => absurd ⟨⟨a, b⟩, c⟩ changed, fun _ => ?_⟩
      rw [st, if_neg fun ⟨a, b, c⟩ => other ⟨⟨a, b⟩, c⟩]

theorem power_writes {s : State} (up : hostUp s = true) : powerWrites s := by
  refine ⟨fun v => ⟨fun low high => ⟨ceilingWritten s v, exec_ceiling up low high, ?_, ?_, ?_, ?_, ?_⟩, exec_ceiling_stops up⟩,
    exec_jobClear up, fun v => ?_, fun v => ?_⟩
  · have small := bitsOf_lt v.toNat 4 0
    refine (congrArg (fun p : Pump => p.mCeiling.toNat) (ceilingWritten_field (·.pump) (fun _ _ => rfl) s v)).trans ?_
    exact Nat.mod_eq_of_lt small
  · exact congrArg Pump.learn (ceilingWritten_field (·.pump) (fun _ _ => rfl) s v)
  · exact fun c hc => foldl_leaves (P := fun c t => (getPower t c).m ≤ topM t c) capM_caps capM_keeps_capped _ _ c
      (List.mem_range.2 hc)
  · exact ceilingWritten_field (·.mem) (fun _ _ => rfl) s v
  · exact ceilingWritten_field (·.events) (fun _ _ => rfl) s v
  · intro m src en
    have source : src.toNat = bitsOf v.toNat 2 1 := Nat.mod_eq_of_lt (bitsOf_lt v.toNat 2 1)
    refine ⟨tideCtl s m src.toNat en, ?_, tideCtl_settings s m src en⟩
    rw [exec_regWrite up (by decide) (by decide), source]
    rfl
  · rw [exec_regWrite up (by decide) (by decide)]
    rfl

end Sys2Proof.Machine
end

section
/-!
SUPPORT. Writes of PORTS, SECURITY, ERROR and of the W1C registers.
-/
namespace Sys2Proof.Machine

/-! ## PORTS -/

/-- The four nibbles that a write of ROUTE puts into its entries. -/
theorem writeRoute_route (s : State) (k : Nat) (v : W32) : (writeRoute s k v).net.route =
    tabSet (tabSet (tabSet (tabSet s.net.route (4 * k) (BitVec.ofNat 4 (bitsOf v.toNat 3 0)))
      (4 * k + 1) (BitVec.ofNat 4 (bitsOf v.toNat 11 8))) (4 * k + 2) (BitVec.ofNat 4 (bitsOf v.toNat 19 16)))
      (4 * k + 3) (BitVec.ofNat 4 (bitsOf v.toNat 27 24)) := rfl

theorem route_written (s : State) (k : Nat) (v : W32) {j : Nat} (hj : j < 4) :
    (tabGet (writeRoute s k v).net.route 0 (4 * k + j)).toNat = v.toNat / 2 ^ (8 * j) % 16 := by
  rw [writeRoute_route]
  have nibble : ∀ hi lo, hi + 1 - lo = 4 → (BitVec.ofNat 4 (bitsOf v.toNat hi lo)).toNat = v.toNat / 2 ^ lo % 16 := by
    intro hi lo width
    rw [BitVec.toNat_ofNat, bitsOf, width]
    exact Nat.mod_mod _ _
  obtain rfl | rfl | rfl | rfl : j = 0 ∨ j = 1 ∨ j = 2 ∨ j = 3 := by omega
  · rw [tabGet_tabSet_ne _ _ _ (by omega), tabGet_tabSet_ne _ _ _ (by omega), tabGet_tabSet_ne _ _ _ (by omega), Nat.add_zero,
      tabGet_tabSet_self, nibble 3 0 rfl]
  · rw [tabGet_tabSet_ne _ _ _ (by omega), tabGet_tabSet_ne _ _ _ (by omega), tabGet_tabSet_self, nibble 11 8 rfl]
  · rw [tabGet_tabSet_ne _ _ _ (by omega), tabGet_tabSet_self, nibble 19 16 rfl]
  · rw [tabGet_tabSet_self, nibble 27 24 rfl]

theorem route_kept (s : State) (k : Nat) (v : W32) {n : Nat} (hn : n / 4 ≠ k) :
    tabGet (writeRoute s k v).net.route 0 n = tabGet s.net.route 0 n := by
  rw [writeRoute_route, tabGet_tabSet_ne _ _ _ (by omega), tabGet_tabSet_ne _ _ _ (by omega), tabGet_tabSet_ne _ _ _ (by omega),
    tabGet_tabSet_ne _ _ _ (by omega)]

/-- GROUP_ADDR after a write of its lower half. -/
def groupAddrLower (a : BitVec 40) (v : W64) : BitVec 40 :=
  BitVec.ofNat 40 (maskLow (setHalf (a.zeroExtend 64) false (lowerWord v)) 6).toNat

/-- GROUP_ADDR after a write of its upper half. -/
def groupAddrUpper (a : BitVec 40) (v : W64) : BitVec 40 :=
  BitVec.ofNat 40 (maskLow (setHalf (a.zeroExtend 64) true (upperWord v)) 6).toNat

theorem toNat_widened (a : BitVec 40) : (a.zeroExtend 64).toNat = a.toNat := by
  refine (BitVec.toNat_setWidth 64 a).trans ?_
  omega

theorem groupAddr_halves (a : BitVec 40) {v : W64} (small : v.toNat < 2 ^ 40) :
    groupAddrUpper (groupAddrLower a v) v = BitVec.ofNat 40 (v.toNat / 64 * 64) := by
  apply BitVec.eq_of_toNat_eq
  rw [groupAddrUpper, BitVec.toNat_ofNat, toNat_maskLow, toNat_setHalf_upper, toNat_widened, groupAddrLower, BitVec.toNat_ofNat, toNat_maskLow,
    toNat_setHalf_lower, BitVec.toNat_ofNat]
  omega

/-! A 64-bit register as one field of the state, which its two halves are put into in turn. -/

def putGroupAddr (s : State) (a : BitVec 40) : State := { s with net := { s.net with groupAddr := a } }

theorem putGroupAddr_groupAddr (s : State) (a : BitVec 40) : (putGroupAddr s a).net.groupAddr = a := rfl

theorem putGroupAddr_putGroupAddr (s : State) (a b : BitVec 40) : putGroupAddr (putGroupAddr s a) b = putGroupAddr s b := rfl

theorem putGroupAddr_upper (s : State) (v : W64) :
    writeReg s (0xB0030 + 4) (upperWord v) = .next (putGroupAddr s (groupAddrUpper s.net.groupAddr v)) := rfl

def putAck (s : State) (a : W64) : State := { s with err := { s.err with ack := a } }

theorem putAck_ack (s : State) (a : W64) : (putAck s a).err.ack = a := rfl

theorem putAck_putAck (s : State) (a b : W64) : putAck (putAck s a) b = putAck s b := rfl

theorem putAck_upper (s : State) (w : W32) : writeReg s (0xD0008 + 4) w = .next (putAck s (setHalf s.err.ack true w)) := rfl

section
variable {s : State} (up : hostUp s = true)
include up

/-- A 64-bit write whose two halves are taken. -/
theorem exec_wide {a : BitVec 20} {t u : State} (aligned : a.toNat % 8 = 0) (v : W64)
    (lower : writeReg s a.toNat (lowerWord v) = .next t) (upper : writeReg t (a.toNat + 4) (upperWord v) = .next u) :
    exec (.registerWrite a true v) s = .next (settle u) := by
  have both : writeBar s a.toNat true v = .next u := by
    rw [writeBar, if_neg (by simpa using aligned)]
    rw [lowerWord] at lower
    rw [upperWord] at upper
    simp only [lower, upper, if_true]
  rw [exec_write up, both]
  rfl

theorem exec_bundleMap (v : W32) : ∃ t, exec (regWrite 0xB0008 v) s = .next (settle (partnerCheck t)) ∧
    t = { s with net := { s.net with bundleMap := t.net.bundleMap } } ∧
    t.net.bundleMap.toNat = s.net.bundleMap.toNat / 2 ^ 32 * 2 ^ 32 + v.toNat := by
  refine ⟨{ s with net := { s.net with bundleMap := BitVec.ofNat 48 (setHalf (s.net.bundleMap.zeroExtend 64) false v).toNat } },
    ?_, rfl, ?_⟩
  · rw [exec_regWrite up (by decide) (by decide)]
    rfl
  · have := s.net.bundleMap.isLt
    have := v.isLt
    simp only [setHalf, Bool.false_eq_true, if_false, BitVec.toNat_ofNat, BitVec.truncate_eq_setWidth, BitVec.toNat_setWidth]
    omega

theorem exec_groupAddr {v : W64} (small : v.toNat < 2 ^ 40) : exec (.registerWrite 0xB0030 true v) s = .next (settle { s with
    net := { s.net with groupAddr := BitVec.ofNat 40 (v.toNat / 64 * 64) } }) := by
  have lower : writeReg s 0xB0030 (lowerWord v) = .next (putGroupAddr s (groupAddrLower s.net.groupAddr v)) := rfl
  have upper := putGroupAddr_upper (putGroupAddr s (groupAddrLower s.net.groupAddr v)) v
  rw [putGroupAddr_groupAddr, putGroupAddr_putGroupAddr, groupAddr_halves _ small] at upper
  exact exec_wide up (by decide) v lower upper

theorem exec_groupCmd (v : W32) :
    let g : Fin 256 := ⟨v.toNat % 256, Nat.mod_lt _ (by decide)⟩
    exec (regWrite 0xB0038 v) s = exec (if v.getLsbD 8 then .groupRemove g else .groupConfigure g) s := by
  intro g
  have group : bitsOf v.toNat 7 0 = g.val := congrArg (· % 256) (Nat.div_one _)
  have remove : exec (.groupRemove g) s = settled (groupCmd s g.val true) := host_up up (groupCmd · g.val true)
  have configure : exec (.groupConfigure g) s = settled (groupCmd s g.val false) := host_up up (groupCmd · g.val false)
  have write : exec (regWrite 0xB0038 v) s = settled (groupCmd s (bitsOf v.toNat 7 0) (v.getLsbD 8)) := by
    rw [exec_regWrite up (by decide) (by decide)]
    rfl
  rw [write, group]
  cases v.getLsbD 8 with
  | true => exact remove.symm
  | false => exact configure.symm

theorem exec_route (k : BitVec 10) (v : W32) :
    exec (regWrite (0xB1000 + 4 * k.toNat) v) s = .next (settle (partnerCheck (writeRoute s k.toNat v))) := by
  have entry : (0x1000 + 4 * k.toNat - 0x1000) / 4 = k.toNat := by omega
  have range : (decide (0x1000 ≤ 0x1000 + 4 * k.toNat) && decide (0x1000 + 4 * k.toNat < 0x2000)) = true := by simp; omega
  rw [exec_regWrite up (by omega) (by omega), show 0xB1000 + 4 * k.toNat = 0xB0000 + (0x1000 + 4 * k.toNat) by omega,
    writeReg_ports s v (by omega), writePortsReg]
  dsimp only
  rw [if_neg (by simp; omega), if_neg (by omega), if_neg (by omega), if_neg (by omega), if_neg (by simp; omega),
    if_neg (by omega), if_pos range, entry]
  rfl

theorem exec_portCtl (p : Fin 12) (v : W32) : exec (regWrite (0xB2004 + 0x100 * p.val) v) s =
    .next (settle (disablePort (if v.getLsbD 0 then retrainPort s p.val else s) p.val (v.getLsbD 1))) := by
  rw [exec_regWrite up (by omega) (by omega), show 0xB2004 + 0x100 * p.val = 0xB2000 + 0x100 * p.val + 4 by omega,
    writeReg_port s v p (by decide)]
  rfl

theorem port_writes : portWrites s := by
  refine ⟨fun v => ?_, fun v => ?_, exec_bundleMap up, fun v => exec_groupAddr up, exec_groupCmd up,
    fun k v => ⟨exec_route up k v, fun j hj => route_written s _ v hj, fun n hn => route_kept s _ v hn⟩,
    fun p v => ⟨exec_portCtl up p v, host_next up (retrainPort · p.val), host_next up (disablePort · p.val (v.getLsbD 1))⟩⟩
  · rw [exec_regWrite up (by decide) (by decide)]
    rfl
  · rw [exec_regWrite up (by decide) (by decide)]
    rfl

/-! ## SECURITY and ERROR -/

theorem exec_mailboxGo {v : W32} (go : v.getLsbD 0 = true) :
    exec (regWrite 0xC0004 v) s = settled (mailboxRun s s.sec.op.toNat (mailboxReq s)) := by
  rw [exec_regWrite up (by decide) (by decide)]
  exact congrArg settled (if_pos go)

/-- GO of a request for the operator section (R393). -/
theorem exec_mailboxOperator {v : W32} (go : v.getLsbD 0 = true) (free : s.sec.mbxState ≠ 1) (idle : secBusy s = false)
    (op : s.sec.op = 2) (bytes : s.sec.reqBytes = 1) (which : tabGet s.sec.req 0 0 = 1) :
    ∃ t, exec (regWrite 0xC0004 v) s = .next (settle t) ∧ t.sec.mbxState = 2 ∧
      t.sec.rsp = s.sec.operator ∧ t.sec.mbxDoneCount = s.sec.mbxDoneCount + 1 := by
  have request : mailboxReq s = [1] := by rw [mailboxReq, bytes, ← which]; rfl
  have run : mailboxRun s 2 [1] = .next (mailboxEnd { s with sec := { s.sec with op := BitVec.ofNat 8 2 } } s.sec.operator) := by
    unfold mailboxRun
    exact (if_neg free).trans (if_neg (by rw [Bool.not_eq_true]; exact idle))
  rw [exec_mailboxGo up go, op, request]
  exact ⟨_, congrArg settled run, rfl, rfl, rfl⟩

theorem exec_mailbox_stops {v : W32} (go : v.getLsbD 0 = true) (bad : s.sec.mbxState = 1 ∨ s.sec.op = 0) :
    exec (regWrite 0xC0004 v) s = .fault .badMailbox := by
  have stops : mailboxRun s s.sec.op.toNat (mailboxReq s) = .fault .badMailbox := by
    rcases bad with busy | op
    · unfold mailboxRun
      dsimp only
      split
      · rfl
      · exact if_pos busy
    · rw [op]; rfl
  rw [exec_mailboxGo up go, stops]
  rfl

/-- A word of the request buffer reads as it was written, and the other bytes stay. -/
theorem exec_mbxReq (k : BitVec 12) (v : W32) : ∃ t, exec (regWrite (0xC4000 + 4 * k.toNat) v) s = .next (settle t) ∧
    readReg t (0xC4000 + 4 * k.toNat) = v ∧ t.mem = s.mem ∧
    (∀ j, j / 4 ≠ k.toNat → tabGet t.sec.req 0 j = tabGet s.sec.req 0 j) := by
  have place : 0xC4000 + 4 * k.toNat = 0xC0000 + (0x4000 + 4 * k.toNat) := by omega
  have word : 0x4000 + 4 * k.toNat - 0x4000 = 4 * k.toNat := by omega
  have inside : (decide (0x4000 ≤ 0x4000 + 4 * k.toNat) && decide (0x4000 + 4 * k.toNat < 0x8000)) = true := by simp; omega
  refine ⟨{ s with sec := { s.sec with req := putWord s.sec.req (4 * k.toNat) v.toNat } }, ?_, ?_, rfl, fun j hj => ?_⟩
  · rw [exec_regWrite up (by omega) (by omega), place, writeReg_sec s v (by omega), writeSecReg]
    dsimp only
    rw [if_neg (by omega), if_neg (by omega), if_neg (by omega), if_neg (by omega), if_pos inside, word]
    rfl
  · have block : (0xC0000 + (0x4000 + 4 * k.toNat)) / 0x10000 = 12 := by omega
    have inBlock : (0xC0000 + (0x4000 + 4 * k.toNat)) % 0x10000 = 0x4000 + 4 * k.toNat := by omega
    rw [place, readReg, block, inBlock]
    apply BitVec.eq_of_toNat_eq
    refine (BitVec.toNat_ofNat _ _).trans ?_
    refine (congrArg (· % 2 ^ 32) ((if_neg ?_).trans ((if_pos inside).trans ?_))).trans (Nat.mod_eq_of_lt v.isLt)
    · simp; omega
    · rw [word]
      exact tabWord_putWord _ _ v.isLt
  · exact tabGet_putWord_ne _ _ _ (by omega)

theorem exec_logAck (v : W64) :
    exec (.registerWrite 0xD0008 true v) s = .next (settle { s with err := { s.err with ack := v } }) := by
  have lower : writeReg s 0xD0008 (lowerWord v) = .next (putAck s (setHalf s.err.ack false (lowerWord v))) := rfl
  have upper := putAck_upper (putAck s (setHalf s.err.ack false (lowerWord v))) (upperWord v)
  rw [putAck_ack, putAck_putAck, setHalf_halves] at upper
  exact exec_wide up (by decide) v lower upper

/-- CORE_RESET of one core begins that core's reset and no other (R367). -/
theorem exec_coreResetBit (c : Fin 16) : exec (regWrite 0xD002C (BitVec.ofNat 32 (2 ^ c.val))) s = exec (.coreReset c) s := by
  have bit : ∀ k, k < 16 → ((BitVec.ofNat 32 (2 ^ c.val)).getLsbD k = true ↔ c.val = k) := by
    intro k hk
    rw [BitVec.getLsbD_ofNat, Nat.testBit_two_pow]
    simp; omega
  have one : ∀ (l : List Nat) (s : State), (∀ k ∈ l, k < 16) → l.Nodup →
      l.foldl (fun s k => if (BitVec.ofNat 32 (2 ^ c.val)).getLsbD k then coreResetWrite s k else s) s =
        if c.val ∈ l then coreResetWrite s c.val else s := by
    intro l
    induction l with
    | nil => intro s _ _; rfl
    | cons k l ih =>
      intro s small distinct
      obtain ⟨fresh, rest⟩ := List.nodup_cons.1 distinct
      rw [List.foldl_cons, ih _ (fun k hk => small k (List.mem_cons_of_mem _ hk)) rest]
      by_cases this : c.val = k
      · subst this
        rw [if_neg fresh, if_pos ((bit _ (small _ List.mem_cons_self)).2 rfl), if_pos List.mem_cons_self]
      · rw [if_neg (fun h => this ((bit k (small k List.mem_cons_self)).1 h))]
        simp only [List.mem_cons, this, false_or]
  have reset : exec (.coreReset c) s = .next (settle (coreResetWrite s c.val)) := host_next up (coreResetWrite · c.val)
  rw [exec_regWrite up (by decide) (by decide), reset]
  refine congrArg (fun t => settled (Host.Outcome.next t)) ((one (List.range 16) s ?_ List.nodup_range).trans ?_)
  · exact fun k hk => List.mem_range.1 hk
  · exact if_pos (List.mem_range.2 c.isLt)

theorem guard_writes : guardWrites s := by
  refine ⟨fun v => ?_, fun v => exec_mailboxOperator up, fun v => exec_mailbox_stops up, fun v stay => ?_, fun v => ?_,
    exec_mbxReq up, exec_logAck up, fun v => ?_, fun v => ⟨fun low high => ?_, fun out => ?_⟩, exec_coreResetBit up⟩
  · rw [exec_regWrite up (by decide) (by decide)]
    rfl
  · rw [exec_regWrite up (by decide) (by decide)]
    exact congrArg settled (if_neg (by rw [stay]; exact Bool.false_ne_true))
  · rw [exec_regWrite up (by decide) (by decide)]
    rfl
  · rw [exec_regWrite up (by decide) (by decide)]
    rfl
  · rw [exec_regWrite up (by decide) (by decide)]
    exact congrArg settled (if_pos (Bool.and_eq_true_iff.2 ⟨decide_eq_true low, decide_eq_true high⟩))
  · rw [exec_regWrite up (by decide) (by decide)]
    refine congrArg settled (if_neg fun both => ?_)
    obtain ⟨low, high⟩ := Bool.and_eq_true_iff.1 both
    have := of_decide_eq_true low
    have := of_decide_eq_true high
    omega

/-! ## The W1C registers -/

theorem exec_flags (r : FlagReg) (x : W32) : exec (regWrite (flagAddr r) x) s = exec (.w1cClear r x 0) s := by
  have clear : exec (.w1cClear r x 0) s = .next (settle (clearWithSets s r x 0)) := host_next up (clearWithSets · r x 0)
  have small : flagAddr r < 2 ^ 20 := by cases r <;> simp only [flagAddr] <;> omega
  have aligned : flagAddr r % 4 = 0 := by cases r <;> simp only [flagAddr] <;> omega
  suffices reach : writeReg s (flagAddr r) x = .next (clearWithSets s r x 0) by
    rw [clear, exec_regWrite up small aligned, reach]
    rfl
  cases r with
  | inletStatus i =>
    rw [flagAddr, show 0x1000C + 0x100 * i.val = 0x10000 + 0x100 * i.val + 0xC by omega, writeReg_inlet s x i (by decide)]
    rfl
  | outfallStatus i =>
    rw [flagAddr, show 0x2001C + 0x100 * i.val = 0x20000 + 0x100 * i.val + 0x1C by omega, writeReg_outfall s x i (by decide)]
    rfl
  | portFlags p =>
    rw [flagAddr, show 0xB2008 + 0x100 * p.val = 0xB2000 + 0x100 * p.val + 8 by omega, writeReg_port s x p (by decide)]
    rfl
  | devFlags => rfl
  | portsFlags => rfl
  | tideFlags => rfl
  | pumpFlags => rfl
  | teleFlags => rfl
  | errFlags => rfl
  | secFlags => rfl

end

end Sys2Proof.Machine
end

section
/-!
SUPPORT. Writes and reads that belong to no block alone: APERTURE_BASE, the event counters, what has no register.
-/
namespace Sys2Proof.Machine

def putApBase (s : State) (b : BitVec 10) : State := { s with ap := { s.ap with base := b } }

theorem putApBase_base (s : State) (b : BitVec 10) : (putApBase s b).ap.base = b := rfl

theorem putApBase_putApBase (s : State) (a b : BitVec 10) : putApBase (putApBase s a) b = putApBase s b := rfl

/-- APERTURE_BASE after a write of one of its halves (Table 2.14). -/
def apHalf (b : BitVec 10) (hi : Bool) (w : W32) : BitVec 10 :=
  BitVec.ofNat 10 ((setHalf (BitVec.ofNat 64 (b.toNat * 2 ^ 30)) hi w).toNat / 2 ^ 30)

theorem putApBase_upper (s : State) (w : W32) : writeReg s (0xE0000 + 4) w = .next (putApBase s (apHalf s.ap.base true w)) := rfl

theorem apHalf_halves (b : BitVec 10) (v : W64) :
    apHalf (apHalf b false (lowerWord v)) true (upperWord v) = BitVec.ofNat 10 (v.toNat / 2 ^ 30) := by
  have := b.isLt
  apply BitVec.eq_of_toNat_eq
  rw [apHalf, BitVec.toNat_ofNat, toNat_setHalf_upper, apHalf, BitVec.toNat_ofNat, BitVec.toNat_ofNat, toNat_setHalf_lower,
    BitVec.toNat_ofNat, BitVec.toNat_ofNat]
  omega

section
variable {s : State} (up : hostUp s = true)
include up

theorem exec_apertureBase (v : W64) : exec (.registerWrite 0xE0000 true v) s =
    .next (settle { s with ap := { s.ap with base := BitVec.ofNat 10 (v.toNat / 2 ^ 30) } }) := by
  have lower : writeReg s 0xE0000 (lowerWord v) = .next (putApBase s (apHalf s.ap.base false (lowerWord v))) := rfl
  have upper := putApBase_upper (putApBase s (apHalf s.ap.base false (lowerWord v))) (upperWord v)
  rw [putApBase_base, putApBase_putApBase, apHalf_halves] at upper
  exact exec_wide up (by decide) v lower upper

theorem exec_eventRegister {n : Nat} (h : n < 65536) (v : W64) :
    exec (.registerWrite (BitVec.ofNat 20 (0x40000 + 4 * n)) false v) s =
      .next (settle (setEvent s n (BitVec.ofNat 32 v.toNat))) := by
  rw [exec_narrow up (by omega) (by omega), writeReg_event s _ h]
  rfl

theorem exec_globalKept {o : Nat} (h : o < 0x10000) (aligned : o % 4 = 0) (notCtl : o ≠ 0x20) (notFlags : o ≠ 0x24) (v : W64) :
    exec (.registerWrite (BitVec.ofNat 20 o) false v) s = .next (settle s) := by
  rw [exec_narrow up (by omega) aligned, writeReg_global s _ h, writeGlobal, if_neg notCtl, if_neg notFlags]
  rfl

theorem readBar_event {n : Nat} (h : n < 65536) : readBar s (0x40000 + 4 * n) false = some ((eventVal s n).setWidth 64) := by
  have event : (0x40000 + 4 * n - 0x40000) / 4 = n := by omega
  have block : (0x40000 + 4 * n) / 0x10000 = 4 ∨ (0x40000 + 4 * n) / 0x10000 = 5 ∨ (0x40000 + 4 * n) / 0x10000 = 6 ∨
      (0x40000 + 4 * n) / 0x10000 = 7 := by omega
  have reg : readReg s (0x40000 + 4 * n) = eventVal s n := by
    rw [readReg, event]
    refine Eq.trans ?_ (BitVec.ofNat_toNat 32 _ |>.trans (BitVec.setWidth_eq _))
    rcases block with block | block | block | block <;> rw [block] <;> rfl
  rw [readBar_narrow up (by omega), reg, BitVec.ofNat_toNat]

/-- GLOBAL has no register from 0x30 on. -/
theorem readBar_global_none {o : Nat} (low : 0x30 ≤ o) (high : o < 0x10000) (aligned : o % 4 = 0) :
    readBar s o false = some 0 := by
  have block : o / 0x10000 = 0 := by omega
  have inBlock : o % 0x10000 = o := by omega
  have none : readGlobal s o = 0 := by
    unfold readGlobal
    dsimp only
    split <;> omega
  have reg : readReg s o = 0 := by
    rw [readReg, block, inBlock]
    exact congrArg (BitVec.ofNat 32) none
  rw [readBar_narrow up aligned, reg]
  rfl

end

theorem readBar_unanswered {t : State} {a : Nat} {w : Bool} (h : hostUp t = false ∨ a % (if w then 8 else 4) ≠ 0) :
    readBar t a w = none := by
  refine if_pos ?_
  rcases h with h | h
  · rw [h]; simp
  · simp [h]

end Sys2Proof.Machine

open Sys2Proof Sys2Proof.Machine

/-- Settles O12: a write reaches the block that its address names, and in it the register; both halves of a 64-bit write leave
the value written; a read shows each field of a register by its place and width. -/
theorem registerWritesReachTheirRegisters : Obligations.RegisterWritesReachTheirRegisters := by
  unfold Obligations.RegisterWritesReachTheirRegisters
  intro s v up
  refine ⟨fun n hn => exec_eventRegister up hn v, exec_apertureBase up v, fun o h aligned ctl flags => exec_globalKept up h aligned ctl flags v,
    fun a w h => exec_write_unaligned up h v, inlet_writes up, module_writes up, power_writes up, port_writes up, guard_writes up,
    exec_flags up, fun i => shows_of up (host_fields s i), fun c k => shows_of up (power_fields s c k),
    fun p w => shows_of up (link_fields s p w), fun c => shows_of up (guard_fields s c), ?_,
    fun o low high aligned => readBar_global_none up low high aligned, fun t a w h => readBar_unanswered h⟩
  intro n pos hn x
  refine ⟨?_, ?_⟩
  · have upAfter : hostUp (setEvent s n x) = true := by rw [hostUp, setEvent_dev]; exact up
    rw [readBar_event upAfter hn, eventVal_setEvent s (Nat.ne_of_gt pos)]
  · exact readBar_event up (n := 0) (by decide)

end

section
/-!
SUPPORT. A destination of a bound channel: what failures, seals and writes leave of it.
-/
namespace Sys2Proof.Machine

theorem listSet_eq_set {α : Type} (l : List α) (n : Nat) (v : α) : listSet l n v = l.set n v := by
  induction l generalizing n with
  | nil => rfl
  | cons h l ih =>
    cases n with
    | zero => rfl
    | succ n => exact congrArg (h :: ·) (ih n)

/-- A bound channel has a destination at an index. -/
def DestIs (ch n : Nat) (x : Dest) (s : State) : Prop :=
  (getChannel s ch).st = .bound ∧ (getChannel s ch).dests[n]? = some x

section
variable {ch n : Nat} {x : Dest} {s t : State}

theorem DestIs.congr (same : getChannel t ch = getChannel s ch) (h : DestIs ch n x s) : DestIs ch n x t := by
  unfold DestIs
  rw [same]
  exact h

theorem DestIs.of_channels (same : t.channels = s.channels) (h : DestIs ch n x s) : DestIs ch n x t :=
  h.congr (congrArg (fun c => tabGet c _ ch) same)

/-! ## Seals and causes -/

theorem postLogged_channels (s : State) (id : CmdId) (k : Cause) : (postLogged s id k).channels = s.channels :=
  postEnding_field (·.channels) (fun _ _ _ _ => rfl) _ _ _ fun _ _ _ => rfl

/-- A channel that is bound has no SEAL to complete. -/
theorem sealCheck_channel (bound : (getChannel s ch).st = .bound) (m : Nat) : getChannel (sealCheck s m) ch = getChannel s ch := by
  unfold sealCheck
  dsimp only
  split
  case isTrue sealing =>
    have other : ch ≠ m := by
      rintro rfl
      simp [bound] at sealing
    split
    · exact getChannel_putChannel_ne s _ other
    · split
      · exact getChannel_putChannel_ne s _ other
      · refine (congrArg (fun c => tabGet c _ ch) (postLogged_channels _ _ _)).trans ?_
        exact getChannel_putChannel_ne s _ other
  case isFalse => rfl

theorem DestIs.sealed (h : DestIs ch n x s) : DestIs ch n x (sealAll s) :=
  foldl_closed (fun _ m hs => hs.congr (sealCheck_channel hs.1 m)) _ h

theorem failCmd_channels {k : Cause} (code : k.code ≠ .abortCmd) (s : State) (id : CmdId) :
    (failCmd s id k).channels = s.channels := by
  unfold failCmd postCause
  split
  · rfl
  · refine (postEnding_field (·.channels) (fun _ _ _ _ => rfl) _ _ _ fun _ _ _ => logFault_channels _ _ _ _ _ _ _ _ _).trans ?_
    exact congrArg State.channels (if_neg code)

/-! ## Destinations that fail -/

/-- A bound channel one of whose destinations fails: the record of the first failure and the pages that are settled. -/
theorem markFailed_channel (bound : (getChannel s ch).st = .bound) (here : (getChannel s ch).dests[n]? = some x)
    (live : x.failed = none) (r : FailReason) :
    (getChannel (markFailed s ch n r) ch).st = .bound ∧
      (getChannel (markFailed s ch n r) ch).dests = (getChannel s ch).dests.set n { x with failed := some r } := by
  unfold markFailed
  dsimp only
  rw [here]
  dsimp only
  rw [if_neg (by simp [live, bound]), getChannel_putChannel_self, ← listSet_eq_set]
  refine ⟨?_, ?_⟩
  · show (Channel.st (if _ then _ else _)) = _
    split <;> exact bound
  · show (Channel.dests (if _ then _ else _)) = _
    split <;> rfl

theorem markFailed_other {m : Nat} (other : ch ≠ m) (d : Nat) (r : FailReason) :
    getChannel (markFailed s m d r) ch = getChannel s ch := by
  unfold markFailed
  dsimp only
  split
  · rfl
  · split
    · rfl
    · refine (getChannel_putChannel_ne _ _ other).trans ?_
      rw [getChannel, logFault_channels]; rfl

theorem DestIs.fails (h : DestIs ch n x s) (live : x.failed = none) (r : FailReason) :
    DestIs ch n { x with failed := some r } (markFailed s ch n r) := by
  obtain ⟨bound, here⟩ := h
  obtain ⟨st, dests⟩ := markFailed_channel bound here live r
  refine ⟨st, ?_⟩
  rw [dests, List.getElem?_set_self (List.getElem?_eq_some_iff.1 here).1]

/-- A destination stays when another fails, and when it has failed already. -/
theorem DestIs.stays (h : DestIs ch n x s) {m d : Nat} (r : FailReason) (apart : m ≠ ch ∨ d ≠ n ∨ x.failed.isSome = true) :
    DestIs ch n x (markFailed s m d r) := by
  by_cases same : ch = m
  · subst same
    obtain ⟨bound, here⟩ := h
    cases at_d : (getChannel s ch).dests[d]? with
    | none =>
      have still : markFailed s ch d r = s := by unfold markFailed; dsimp only; rw [at_d]
      rw [still]
      exact ⟨bound, here⟩
    | some z =>
      cases failed : z.failed with
      | some e =>
        have still : markFailed s ch d r = s := by
          unfold markFailed; dsimp only; rw [at_d]; dsimp only; rw [if_pos (by simp [failed])]
        rw [still]
        exact ⟨bound, here⟩
      | none =>
        obtain ⟨st, dests⟩ := markFailed_channel bound at_d failed r
        refine ⟨st, ?_⟩
        have other : d ≠ n := by
          rcases apart with apart | apart | apart
          · exact absurd rfl apart
          · exact apart
          · rintro rfl
            rw [here, Option.some.injEq] at at_d
            rw [at_d, failed] at apart
            exact absurd apart (by decide)
        rw [dests, List.getElem?_set_ne other]
        exact here
  · exact h.congr (markFailed_other same d r)

/-- A destination that has failed stays when a queue pair is lost. -/
theorem DestIs.qpLost (h : DestIs ch n x s) (failed : x.failed.isSome = true) (q : Nat) (st : QpState) (r : FailReason) :
    DestIs ch n x (qpLose s q st r) := by
  unfold qpLose
  refine DestIs.sealed (foldl_closed (fun _ _ hs => hs.of_channels (failCmd_channels (show CauseCode.exportDest ≠ .abortCmd by decide) _ _)) _ ?_)
  exact foldl_closed (fun _ _ hs => hs.stays r (.inr (.inr failed))) _ (h.of_channels rfl)

/-! ## A copy stream to a peer -/

/-- What a failure of a peer's destination, which uses no queue pair, leaves of it. -/
theorem DestIs.failedPeer (h : DestIs ch n x s) (peer : x.kind ≠ 1) (r : FailReason) :
    ∃ f, DestIs ch n { x with failed := f } (failDest s ch n r) := by
  unfold failDest
  rw [h.2]
  dsimp only
  split
  · exact ⟨x.failed, h⟩
  next live =>
    rw [if_neg (by simp [peer])]
    exact ⟨some r, (h.fails (by simpa using live) r).sealed⟩

/-! What a failure to a peer leaves of the network. -/

theorem postLogged_net (s : State) (id : CmdId) (k : Cause) : (postLogged s id k).net = s.net :=
  postEnding_field (·.net) (fun _ _ _ _ => rfl) _ _ _ fun _ _ _ => rfl

theorem sealAll_net (s : State) : (sealAll s).net = s.net := by
  refine foldl_field (·.net) sealCheck (fun s m => ?_) _ s
  unfold sealCheck
  dsimp only
  split
  · split
    · rfl
    · split
      · rfl
      · exact postLogged_net _ _ _
  · rfl

theorem markFailed_net (s : State) (m d : Nat) (r : FailReason) : (markFailed s m d r).net = s.net := by
  unfold markFailed
  dsimp only
  split
  · rfl
  · split
    · rfl
    · exact logFault_net _ _ _ _ _ _ _ _ _

theorem failDest_peer_net (h : DestIs ch n x s) (peer : x.kind ≠ 1) (r : FailReason) : (failDest s ch n r).net = s.net := by
  unfold failDest
  rw [h.2]
  dsimp only
  split
  · rfl
  · rw [if_neg (by simp [peer])]
    exact (sealAll_net _).trans (markFailed_net _ _ _ _)

theorem takeTurn_channels (s : State) (k : TxPacket) : (takeTurn s k).channels = s.channels :=
  takeTurn_field (·.channels) (fun _ _ h => h.channels) (fun _ _ => rfl) (fun _ _ _ _ _ _ _ _ _ => logFault_channels _ _ _ _ _ _ _ _ _)
    s k

/-- What a write of a destination to a peer leaves: the destination but for a failure, memory, and its flow a write longer. -/
structure Wrote (ch n : Nat) (x : Dest) (key k : Nat) (s t : State) : Prop where
  dest : ∃ f, DestIs ch n { x with failed := f } t
  mem : t.mem = s.mem
  next : (getFlowTx t key).next = (getFlowTx s key).next + k

theorem Wrote.trans {u : State} {key j k : Nat} (h : Wrote ch n x key j s t) (g : ∀ f, DestIs ch n { x with failed := f } t →
    Wrote ch n { x with failed := f } key k t u) : Wrote ch n x key (j + k) s u := by
  obtain ⟨f, dest⟩ := h.dest
  exact ⟨(g f dest).dest, (g f dest).mem.trans h.mem, by rw [(g f dest).next, h.next]; omega⟩

theorem failBind_wrote (h : DestIs ch n x s) (peer : x.kind ≠ 1) (b : W16) (r : FailReason) :
    (∃ f, DestIs ch n { x with failed := f } (failBind s ch b n r)) ∧ (failBind s ch b n r).net = s.net := by
  unfold failBind
  split
  · exact ⟨h.failedPeer peer r, failDest_peer_net h peer r⟩
  · exact ⟨⟨x.failed, h⟩, rfl⟩

/-- A packet of a destination leaves, stays on this module, or has no route, and then the destination fails (R281). -/
theorem routePacket_page (h : DestIs ch n x s) (peer : x.kind ≠ 1) (k : Packet) (b : W16) (q : Nat) (last : Bool) :
    (∃ f, DestIs ch n { x with failed := f } (routePacket s k (.page ch b n q last) none)) ∧
      (routePacket s k (.page ch b n q last) none).net.flowTx = s.net.flowTx := by
  unfold routePacket
  split
  · exact ⟨⟨x.failed, h.of_channels rfl⟩, rfl⟩
  · split
    · exact ⟨⟨x.failed, h.of_channels (takeTurn_channels _ _)⟩, takeTurn_flowTx _ _⟩
    · have lost : DestIs ch n x (lostBeyond (setNoRoute s) (localCause s .noRoute 0 k.dst.toNat)) :=
        h.of_channels (logFault_channels _ _ _ _ _ _ _ _ _)
      obtain ⟨dest, net⟩ := failBind_wrote lost peer b .link
      have flows : (failBind (lostBeyond (setNoRoute s) (localCause s .noRoute 0 k.dst.toNat)) ch b n .link).net.flowTx =
          s.net.flowTx := by
        rw [net, lostBeyond, logFault_net]; rfl
      exact ⟨dest, flows⟩

theorem passWrite_wrote (h : DestIs ch n x s) (peer : x.kind ≠ 1) (k : Packet) (b : W16) (q : Nat) (last : Bool) {key : Nat}
    (hkey : flowKey k.dst.toNat k.vc.val = key) : Wrote ch n x key 1 s (passWrite s k (.page ch b n q last) none) := by
  subst hkey
  obtain ⟨dest, flows⟩ := routePacket_page (s := putFlowTx s (flowKey k.dst.toNat k.vc.val)
    { next := (getFlowTx s (flowKey k.dst.toNat k.vc.val)).next + 1
      unacked := (getFlowTx s (flowKey k.dst.toNat k.vc.val)).unacked ++
        [((getFlowTx s (flowKey k.dst.toNat k.vc.val)).next, .page ch b n q last, s.clk.ticks)] }) (h.of_channels rfl) peer
    { k with src := s.rcd.chipId, flowSeq := BitVec.ofNat 32 (getFlowTx s (flowKey k.dst.toNat k.vc.val)).next } b q last
  refine ⟨dest, ((netSpares_closed s).passedWrite k _ none (NetSpares.refl s)).mem, ?_⟩
  refine (congrArg (fun l => (tabGet l ({} : FlowTx) (flowKey k.dst.toNat k.vc.val)).next) flows).trans ?_
  exact congrArg FlowTx.next (tabGet_tabSet_self _ _ _ _)

/-- The key of the flow in which a copy stream writes to a peer (R279). -/
def streamKey (x : Dest) : Nat := flowKey (BitVec.ofNat 12 x.chip).toNat 3

theorem peerWrite_wrote (h : DestIs ch n x s) (peer : x.kind ≠ 1) (y : Dest) (same : y.chip = x.chip) (off : Nat) (data : List Byte)
    (signal : Bool) (b : W16) (q : Nat) (last : Bool) :
    Wrote ch n x (streamKey x) 1 s (peerWrite s ch n y off data signal (.page ch b n q last)) := by
  rw [streamKey, ← same]
  exact passWrite_wrote h peer _ b q last rfl

end

/-! ## Segments -/

/-- The runs of a segment, written one by one (R233, R235). -/
def writeRuns (ch d : Nat) (b : Channel) (pg : Page) (y : Dest) (q body : Nat) (runs : List (Nat × Nat)) (s : State) : State :=
  runs.foldl (fun v r => destWrite (ddrTake v .read false (bufAddr b pg.buffer + r.1) r.2) ch d y (body + r.1)
    (readMem v (bufAddr b pg.buffer + r.1) r.2) (.page ch b.bindSeq d q false)) s

section
variable {ch d : Nat} {s : State}

theorem writeRuns_wrote (b : Channel) (pg : Page) (y : Dest) (q body : Nat) {x : Dest} (peer : x.kind ≠ 1) (same : y.chip = x.chip)
    (kind : y.kind = x.kind) (runs : List (Nat × Nat)) (h : DestIs ch d x s) :
    Wrote ch d x (streamKey x) runs.length s (writeRuns ch d b pg y q body runs s) := by
  induction runs generalizing s x with
  | nil => exact ⟨⟨x.failed, h⟩, rfl, rfl⟩
  | cons r runs ih =>
    have taken : DestIs ch d x (ddrTake s .read false (bufAddr b pg.buffer + r.1) r.2) := h.of_channels (ddrTake_channels _ _ _ _ _)
    have first : Wrote ch d x (streamKey x) 1 s (destWrite (ddrTake s .read false (bufAddr b pg.buffer + r.1) r.2) ch d y
        (body + r.1) (readMem s (bufAddr b pg.buffer + r.1) r.2) (.page ch b.bindSeq d q false)) := by
      rw [destWrite, if_neg (kind ▸ peer)]
      obtain ⟨dest, mem, next⟩ := peerWrite_wrote taken peer y same (body + r.1) (readMem s (bufAddr b pg.buffer + r.1) r.2) false
        b.bindSeq q false
      exact ⟨dest, mem.trans (ddrTake_mem _ _ _ _ _), next.trans (by rw [getFlowTx, getFlowTx, ddrTake_net])⟩
    rw [List.length_cons, Nat.add_comm]
    exact first.trans fun f dest => ih (x := { x with failed := f }) peer same kind dest

/-- A destination once one of its segments is sent: whether that is its page's last one decides on the trailer. -/
def sentDest (x : Dest) (q body : Nat) (whole : Bool) : Dest :=
  { x with
    sent := x.sent + 1, bodies := tabSet x.bodies q body, trailers := x.trailers ++ (if whole then [q] else []) }

section
variable {x : Dest} {q k : Nat} {pg : Page} (here : (getChannel s ch).dests[d]? = some x)
  (next : (getChannel s ch).ready[x.sent]? = some (q, k)) (page : tabFind? (getChannel s ch).pages q = some pg)
include here next page

theorem sendSegment_closed (held : streamOpen s x = false) : sendSegment s ch d = s := by
  unfold sendSegment
  dsimp only
  rw [here]
  dsimp only
  rw [next]
  dsimp only
  rw [page]
  dsimp only
  rw [held]
  rfl

/-- A segment that is sent: its runs, then the trailer where it is its page's last (R235). -/
theorem sendSegment_sends (opened : streamOpen s x = true) (peer : x.kind ≠ 1)
    (clean : rangeBad s (bufAddr (getChannel s ch) pg.buffer + 4096 * k) (min 4096 ((getChannel s ch).extent - 4096 * k)) = false)
    (table : rangeBad s (x.pageTable + 8 * q) 8 = false) {body : Nat} {whole : Bool} {u : State}
    (hbody : body = (tabFind? x.bodies q).getD (readLe s (x.pageTable + 8 * q) 8))
    (hwhole : whole = (neededSegs (getChannel s ch) (pageOf (getChannel s ch) q)).all
      (fun j => ((getChannel s ch).ready.take (x.sent + 1)).contains (q, j)))
    (hu : u = writeRuns ch d (getChannel s ch) pg (sentDest x q body whole) q body
      (pageRuns (getChannel s ch) (pageOf (getChannel s ch) q) (4096 * k) (min (getChannel s ch).extent (4096 * k + 4096)))
      (putChannel s ch { getChannel s ch with dests := listSet (getChannel s ch).dests d (sentDest x q body whole) })) :
    sendSegment s ch d = if whole then sendTrailer u ch d (sentDest x q body whole) q (trailerOf u (getChannel s ch) pg q) else u := by
  have dest : sentDest x q body whole = (if whole then
      { x with sent := x.sent + 1, bodies := tabSet x.bodies q body, trailers := x.trailers ++ [q] }
      else { x with sent := x.sent + 1, bodies := tabSet x.bodies q body }) := by
    cases whole
    · simp only [sentDest, Bool.false_eq_true, if_false, List.append_nil]
    · rfl
  unfold sendSegment
  dsimp only
  rw [here]
  dsimp only
  rw [next]
  dsimp only
  rw [page]
  dsimp only
  rw [if_neg (by simp [opened]), if_neg (by simp [peer]), if_neg (by simp [clean, table])]
  subst hu
  rw [dest]
  cases known : tabFind? x.bodies q with
  | some a =>
    rw [known, Option.getD_some] at hbody
    subst hbody
    dsimp only
    rw [← hwhole]
    rfl
  | none =>
    rw [known, Option.getD_none] at hbody
    dsimp only
    rw [← hbody, ← hwhole]
    rfl

end

end

end Sys2Proof.Machine
end

section
/-!
SUPPORT. A copy stream's segment with its trailer; timeouts and stalls of a channel.
-/
namespace Sys2Proof.Machine

section
variable {ch d : Nat} {s : State}

/-- What a segment with its trailer leaves of its destination, of memory and of its flow (R235). -/
theorem segment_wrote {x : Dest} {q body : Nat} {pg : Page} {whole : Bool} (bound : (getChannel s ch).st = .bound)
    (here : (getChannel s ch).dests[d]? = some x) (peer : x.kind ≠ 1) (b : Channel) (runs : List (Nat × Nat))
    (data : State → List Byte) :
    let y := sentDest x q body whole
    let s0 := putChannel s ch { getChannel s ch with dests := listSet (getChannel s ch).dests d y }
    let u := writeRuns ch d b pg y q body runs s0
    Wrote ch d y (streamKey x) (runs.length + if whole then 1 else 0) s (if whole then sendTrailer u ch d y q (data u) else u) := by
  intro y s0 u
  have start : DestIs ch d y s0 := by
    refine ⟨(congrArg Channel.st (getChannel_putChannel_self _ _ _)).trans bound, ?_⟩
    refine (congrArg (fun c : Channel => c.dests[d]?) (getChannel_putChannel_self _ _ _)).trans ?_
    show (listSet (getChannel s ch).dests d y)[d]? = some y
    rw [listSet_eq_set, List.getElem?_set_self (List.getElem?_eq_some_iff.1 here).1]
  have written : Wrote ch d y (streamKey x) runs.length s u := by
    obtain ⟨dest, mem, next⟩ := writeRuns_wrote b pg y q body (x := y) peer rfl rfl runs start
    exact ⟨dest, mem, next⟩
  cases whole with
  | false => exact written
  | true =>
    refine written.trans fun f dest => ?_
    show Wrote ch d { y with failed := f } (streamKey x) 1 u (sendTrailer u ch d y q (data u))
    have sent : sendTrailer u ch d y q (data u) = peerWrite u ch d y (y.trailerBase + 32 * q) (data u) true
      (.page ch (getChannel u ch).bindSeq d q true) := if_neg peer
    rw [sent]
    exact peerWrite_wrote dest peer y rfl _ _ true _ q true

/-! ## Timeouts -/

theorem timeoutDest_fails {x : Dest} {t : Nat} (here : (getChannel s ch).dests[d]? = some x) (live : x.failed = none)
    (due : timeoutAt (getChannel s ch) x = some t) :
    timeoutDest s ch d = failDest (advanceTo s (t + 1)) ch d .timeout := by
  unfold timeoutDest
  dsimp only
  rw [here]
  dsimp only
  rw [if_neg (by simp [live]), due]

/-- A destination that has acknowledged every page has none that can time out. -/
theorem timeoutAt_acked {c : Channel} {x : Dest} (acked : c.pages.all (fun p => x.acked.contains p.1) = true) :
    timeoutAt c x = none := by
  have none : c.pages.filterMap (fun p =>
      if x.acked.contains p.1 then none else p.2.completeAt.map (fun t => t + us c.timeoutUs)) = [] := by
    rw [List.filterMap_eq_nil_iff]
    intro p hp
    exact if_pos (List.all_eq_true.1 acked p hp)
  rw [timeoutAt, none]
  rfl

theorem timeoutDest_acked {x : Dest} (here : (getChannel s ch).dests[d]? = some x)
    (acked : (getChannel s ch).pages.all (fun p => x.acked.contains p.1) = true) : timeoutDest s ch d = s := by
  unfold timeoutDest
  dsimp only
  rw [here]
  dsimp only
  split
  · rfl
  · rw [timeoutAt_acked acked]

theorem sendSegment_none (gone : (getChannel s ch).dests[d]? = none) : sendSegment s ch d = s := by
  unfold sendSegment; dsimp only; rw [gone]

theorem timeoutDest_none (gone : (getChannel s ch).dests[d]? = none) : timeoutDest s ch d = s := by
  unfold timeoutDest; dsimp only; rw [gone]

/-! ## Several destinations fail -/

/-- What failures keep: memory, the commands in flight and the clock. -/
structure FailKeeps (r t : State) : Prop where
  mem : t.mem = r.mem
  ids : t.cmds.map (·.id) = r.cmds.map (·.id)
  clk : t.clk = r.clk

theorem failKeeps_closed (r : State) : NetClosed (FailKeeps r) where
  cmd hf h := ⟨h.mem, (modCmd_ids _ _ fun c => (hf c).id).trans h.ids, h.clk⟩
  log _ _ _ _ _ _ _ _ h := ⟨(logFault_mem _ _ _ _ _ _ _ _ _).trans h.mem, by rw [logFault_cmds]; exact h.ids,
    (logFault_clk _ _ _ _ _ _ _ _ _).trans h.clk⟩
  net _ _ _ _ h := ⟨h.mem, h.ids, h.clk⟩
  event e n h := ⟨(addEvent_mem _ e n).trans h.mem, (addEvent_ids _ e n).trans h.ids, (addEvent_clk _ e n).trans h.clk⟩
  channel _ _ h := ⟨h.mem, h.ids, h.clk⟩
  qp _ _ h := ⟨h.mem, h.ids, h.clk⟩
  lock _ h := ⟨h.mem, h.ids, h.clk⟩
  port _ _ _ h := ⟨h.mem, h.ids, h.clk⟩
  freed _ _ _ h := ⟨h.mem, h.ids, h.clk⟩
  weir _ h := ⟨h.mem, h.ids, h.clk⟩
  wire _ h := ⟨h.mem, h.ids, h.clk⟩

theorem failDests_failKeeps (s : State) (ch : Nat) (ds : List Nat) (r : FailReason) : FailKeeps s (failDests s ch ds r) := by
  have closed := failKeeps_closed s
  unfold failDests
  refine closed.sealedAll (foldl_closed (fun u z hu => ?_) _ (foldl_closed (fun u d hu => closed.markedFailed _ _ _ hu) _ ⟨rfl, rfl, rfl⟩))
  exact closed_ite (closed.qpLost _ _ _ hu) hu

/-- One of the destinations that fail together has the reason (R242). -/
theorem DestIs.failsAmong {n : Nat} {x : Dest} {ds : List Nat} (h : DestIs ch n x s) (live : x.failed = none) (among : n ∈ ds)
    (r : FailReason) : DestIs ch n { x with failed := some r } (failDests s ch ds r) := by
  have marked : DestIs ch n { x with failed := some r } (ds.foldl (fun s d => markFailed s ch d r) s) := by
    have after : ∀ (ds : List Nat) (u : State), DestIs ch n { x with failed := some r } u →
        DestIs ch n { x with failed := some r } (ds.foldl (fun s d => markFailed s ch d r) u) := fun ds u hu =>
      foldl_closed (fun _ _ hu => hu.stays r (.inr (.inr rfl))) ds hu
    induction ds generalizing s with
    | nil => exact absurd among (by simp)
    | cons d ds ih =>
      by_cases same : d = n
      · subst same
        exact after ds _ (h.fails live r)
      · exact ih (h.stays r (.inr (.inl same))) ((List.mem_cons.1 among).resolve_left (Ne.symm same))
  unfold failDests
  refine DestIs.sealed (foldl_closed (fun u z hu => ?_) _ marked)
  exact closed_ite (hu.qpLost rfl _ _ _) hu

/-- A destination that is not among those that fail stays, where no queue pair goes down with them. -/
theorem DestIs.spared {n : Nat} {x : Dest} {ds : List Nat} (h : DestIs ch n x s) (other : n ∉ ds)
    (peers : ∀ z ∈ (getChannel s ch).dests, z.kind ≠ 1) (r : FailReason) : DestIs ch n x (failDests s ch ds r) := by
  have marked : DestIs ch n x (ds.foldl (fun s d => markFailed s ch d r) s) := by
    clear peers
    induction ds generalizing s with
    | nil => exact h
    | cons d ds ih =>
      rw [List.mem_cons, not_or] at other
      exact ih (h.stays r (.inr (.inl (Ne.symm other.1)))) other.2
  have quiet : ∀ (zs : List Dest) (u : State), (∀ z ∈ zs, z.kind ≠ 1) → zs.foldl (fun s x =>
      if x.kind = 1 && (getQp s x.qp).st = .ready then qpLose s x.qp .error .qpError else s) u = u := by
    intro zs
    induction zs with
    | nil => exact fun _ _ => rfl
    | cons z zs ih =>
      intro u hz
      rw [List.foldl_cons, if_neg (by simp [hz z List.mem_cons_self])]
      exact ih u fun z h => hz z (List.mem_cons_of_mem _ h)
  unfold failDests
  dsimp only
  rw [quiet _ _ fun z hz => ?_]
  · exact marked.sealed
  · obtain ⟨m, -, at_m⟩ := List.mem_filterMap.1 hz
    exact peers z (List.mem_of_getElem? at_m)

/-! ## A stalled channel -/

/-- The state in which a channel's stall is at its limit (R241). -/
def stallDue (s : State) (ch t : Nat) : State := advanceTo s (t + us (getChannel s ch).stallUs)

theorem stallDue_channel (s : State) (ch t : Nat) : getChannel (stallDue s ch t) ch = getChannel s ch :=
  congrArg (fun c => tabGet c _ ch) (advanceTo_channels s _)

/-- The destinations of a channel that have not failed. -/
def liveDests (c : Channel) : List Nat :=
  (List.range c.dests.length).filter (fun d => ((c.dests[d]?).map (·.failed)) = some none)

theorem mem_liveDests {c : Channel} {n : Nat} {x : Dest} (here : c.dests[n]? = some x) (live : x.failed = none) : n ∈ liveDests c := by
  refine List.mem_filter.2 ⟨List.mem_range.2 (List.getElem?_eq_some_iff.1 here).1, ?_⟩
  rw [here, Option.map_some, live]
  rfl

/-- The oldest page in staging, where it is complete. -/
def oldestComplete (c : Channel) : Option Nat := (oldestPage c).bind (fun p => p.2.completeAt.map (fun _ => p.1))

theorem stallOut_none (still : stalledSince s (getChannel s ch) = none) : stallOut s ch = s := by
  unfold stallOut; dsimp only; rw [still]

/-- Of the live destinations, those that have not acknowledged a page. -/
def laggards (c : Channel) (q : Nat) : List Nat :=
  (liveDests c).filter (fun d => !((c.dests[d]?).map (fun x => x.acked.contains q)).getD true)

theorem stallOut_complete {t q : Nat} (stalled : stalledSince s (getChannel s ch) = some t)
    (oldest : oldestComplete (getChannel s ch) = some q) :
    stallOut s ch = failDests (stallDue s ch t) ch (laggards (getChannel s ch) q) .laggard := by
  unfold oldestComplete at oldest
  unfold stallOut
  dsimp only
  rw [stalled]
  dsimp only
  rw [oldest]
  rfl

/-- The state in which every live destination has failed, as no page in staging is complete. -/
def stagingFailed (s : State) (ch t : Nat) : State := failDests (stallDue s ch t) ch (liveDests (getChannel s ch)) .staging

/-- Without a complete page every destination fails, and hand-offs are discarded from then on (R241). -/
theorem stallOut_staging {t : Nat} (stalled : stalledSince s (getChannel s ch) = some t)
    (oldest : oldestComplete (getChannel s ch) = none) :
    stallOut s ch = putChannel (stagingFailed s ch t) ch
      { getChannel (stagingFailed s ch t) ch with discard := true, stalls := [] } := by
  unfold oldestComplete at oldest
  unfold stallOut
  dsimp only
  rw [stalled]
  dsimp only
  rw [oldest]
  rfl

theorem stallOut_staging_dests {t : Nat} (stalled : stalledSince s (getChannel s ch) = some t)
    (oldest : oldestComplete (getChannel s ch) = none) :
    (getChannel (stallOut s ch) ch).dests = (getChannel (stagingFailed s ch t) ch).dests := by
  rw [stallOut_staging stalled oldest, getChannel_putChannel_self]

theorem stallOut_failKeeps {t : Nat} (stalled : stalledSince s (getChannel s ch) = some t) :
    FailKeeps (stallDue s ch t) (stallOut s ch) := by
  cases oldest : oldestComplete (getChannel s ch) with
  | some q => exact stallOut_complete stalled oldest ▸ failDests_failKeeps _ _ _ _
  | none =>
    rw [stallOut_staging stalled oldest]
    exact (failKeeps_closed _).channel _ _ (failDests_failKeeps (stallDue s ch t) ch (liveDests (getChannel s ch)) .staging)

section
variable {t n : Nat} {x : Dest} (stalled : stalledSince s (getChannel s ch) = some t) (bound : (getChannel s ch).st = .bound)
  (here : (getChannel s ch).dests[n]? = some x) (live : x.failed = none)
include stalled bound here live

theorem stallOut_laggard {q : Nat} (oldest : oldestComplete (getChannel s ch) = some q) (behind : x.acked.contains q = false) :
    ((getChannel (stallOut s ch) ch).dests[n]?).map (·.failed) = some (some .laggard) := by
  have among : n ∈ laggards (getChannel s ch) q := by
    refine List.mem_filter.2 ⟨mem_liveDests here live, ?_⟩
    rw [here, Option.map_some, behind]
    rfl
  rw [stallOut_complete stalled oldest]
  have start : DestIs ch n x (stallDue s ch t) := DestIs.congr (stallDue_channel s ch t) ⟨bound, here⟩
  rw [(start.failsAmong live among .laggard).2]
  rfl

theorem stallOut_spared {q : Nat} (oldest : oldestComplete (getChannel s ch) = some q) (acked : x.acked.contains q = true)
    (peers : ∀ z ∈ (getChannel s ch).dests, z.kind ≠ 1) :
    ((getChannel (stallOut s ch) ch).dests[n]?).map (·.failed) = some none := by
  have other : n ∉ laggards (getChannel s ch) q := by
    intro among
    obtain ⟨-, behind⟩ := List.mem_filter.1 among
    rw [here, Option.map_some, acked] at behind
    exact absurd behind (by decide)
  rw [stallOut_complete stalled oldest]
  have start : DestIs ch n x (stallDue s ch t) := DestIs.congr (stallDue_channel s ch t) ⟨bound, here⟩
  have spared := (start.spared other (by rw [stallDue_channel]; exact peers) .laggard).2
  rw [spared, Option.map_some, live]

theorem stallOut_fails (oldest : oldestComplete (getChannel s ch) = none) :
    ((getChannel (stallOut s ch) ch).dests[n]?).map (·.failed) = some (some .staging) := by
  have start : DestIs ch n x (stallDue s ch t) := DestIs.congr (stallDue_channel s ch t) ⟨bound, here⟩
  have fails : (getChannel (stagingFailed s ch t) ch).dests[n]? = some { x with failed := some .staging } :=
    (start.failsAmong live (mem_liveDests here live) .staging).2
  rw [stallOut_staging_dests stalled oldest, fails]
  rfl

end

end

end Sys2Proof.Machine

open Sys2Proof Sys2Proof.Machine

/-- Settles O51: each write of a segment takes the next number of the destination's flow and leaves the destination but for a
failure; of the destinations of a bound channel exactly those named fail, as seals and lost queue pairs leave it bound. -/
theorem exportEventsSendAndFail : Obligations.ExportEventsSendAndFail := by
  unfold Obligations.ExportEventsSendAndFail
  intro s ch d
  refine ⟨rfl, ?_, fun u x a data o kind => if_pos kind, fun u x a data o kind => if_neg kind,
    fun gone => ⟨sendSegment_none gone, timeoutDest_none gone⟩, rfl, fun x t here live due => timeoutDest_fails here live due,
    fun x here acked => timeoutDest_acked here acked, rfl, stallOut_none, ?_⟩
  · intro x q k pg b bound here next page
    refine ⟨sendSegment_closed here next page, fun opened peer clean table => ?_⟩
    intro body runs whole y key t
    have sends := sendSegment_sends here next page opened peer clean table (rfl : body = _) (rfl : whole = _) rfl
    obtain ⟨⟨f, -, dest⟩, mem, flow⟩ := segment_wrote (body := body) (whole := whole) (q := q) (pg := pg) bound here peer b runs
      (fun u => trailerOf u b pg q)
    rw [← sends] at dest mem flow
    refine ⟨⟨_, dest, rfl, rfl, rfl⟩, flow.trans (Nat.add_assoc _ _ _).symm, mem, sends⟩
  · intro t stalled b u oldest
    obtain ⟨mem, ids, clk⟩ := stallOut_failKeeps stalled
    refine ⟨?_, mem, ids, fun bound n x here live => ⟨fun q ho behind => stallOut_laggard stalled bound here live ho behind,
      fun q ho acked peers => stallOut_spared stalled bound here live ho acked peers, stallOut_fails stalled bound here live⟩, fun none => ?_⟩
    · show _ ≤ (stallOut s ch.val).clk.ticks
      rw [clk, stallDue, advanceTo_ticks, us]
      show (getChannel s ch.val).stallUs * 700 + t ≤ _
      omega
    · show (getChannel (stallOut s ch.val) ch.val).discard = true ∧ (getChannel (stallOut s ch.val) ch.val).stalls = []
      rw [stallOut_staging stalled none, getChannel_putChannel_self]
      exact ⟨rfl, rfl⟩

end

section
/-!
SUPPORT. A state in which an arriving block waits for the weir.
-/
namespace Sys2Proof.Machine

/-- A command of number 0 with the given work. -/
def numberedNought (w : Work) : Cmd :=
  { id := 0, inlet := 0, params := [], met := [true, true, true, true], work := w
    hdr := { opcode := 0x0305, flags := 0, version := 1, tag := 0, jobId := 0, phase := 0, paramLen := 0
             waits := [(0, 0), (0, 0), (0, 0), (0, 0)], signalId := 0, signalInc := 0, watchdogUs := 0, seed := 0 } }

/-- An ALLGATHER of group 0 that has started. -/
def gatheringWork : CollWork := { gather := true, group := 0, seq := 0, n := 2, rank := 0, started := true }

/-- A chip whose REMOTE class has no share: an ALLGATHER is in flight, and a SET_WEIR of the same number waits for the next
window. -/
def crowdedState : State :=
  { State.reset with
    weir := { ddrRemote := 0 }, cmds := [numberedNought (.coll gatheringWork), numberedNought (.setWeir 0)] }

/-- The first byte of another member's block. -/
def gatheredPacket : Packet :=
  { kind := 0x03, vc := 2, cls := false, src := 1, dst := 0, window := 0, gen := 0, eventId := 0, flowSeq := 0, offset := 0
    rowBytes := 1, rows := 1, stride := 0, context := 0, group := 0, aux := 1, aux2 := 0, payload := [0] }

/-- Whether a work is that of a collective. -/
def Work.isColl : Work → Bool
  | .coll _ => true
  | _ => false

/-- The write of the block waits for the window, in which the SET_WEIR completes; its end reaches every command of its number. -/
theorem landMcast_crowded : (workOf (landMcast crowdedState ddrBase gatheredPacket none) 0).any Work.isColl = false := by
  decide +kernel

end Sys2Proof.Machine

open Sys2Proof Sys2Proof.Machine

/-- Refutes O41: of two commands in flight with one number, which the clause on the blocks of an ALLGATHER does not exclude, the
first is not always at the work that the clause gives: in `crowdedState` the second, a SET_WEIR, completes under that number at the
window's boundary that the block's write waits for (R214, R217). -/
theorem not_packetsAreTakenOrForwarded : ¬ Obligations.PacketsAreTakenOrForwarded := by
  unfold Obligations.PacketsAreTakenOrForwarded
  intro h
  obtain ⟨_, _, served⟩ := h
  obtain ⟨_, _, _, _, _, _, _, _, blocks⟩ := served crowdedState gatheredPacket
  obtain ⟨_, works⟩ := blocks ddrBase
  obtain ⟨gathers, _⟩ := works (numberedNought (.coll gatheringWork)) gatheringWork (by decide +kernel) (by decide +kernel)
  have kept := congrArg (Option.any Work.isColl) (gathers rfl)
  exact Bool.false_ne_true (landMcast_crowded.symm.trans kept)

end

section
/-!
SUPPORT. A state in which a chain's request allots a berm slot that holds a byte.
-/
namespace Sys2Proof.Machine

/-- Phase B of an ATTEND of one sequence and one head, whose chain is core 0. -/
def phaseBWork : ArrayWork :=
  { kind := .attendB, att := { hkv := 1, g := 1, d := 64 }, seqs := [{ c := 128 }], chains := [{ members := [0] }] }

/-- The first byte of slot 0 of core 0's berm. -/
def firstBermByte : Nat := 0x1000000000

/-- That command is in flight; the slot is EMPTY, and its first byte is not the free value that follows the slot's loss. -/
def attendingState : State :=
  { State.reset with
    cmds := [numberedNought (.array phaseBWork)]
    mem := { State.reset.mem with cells := [(firstBermByte, Config.accByte 1 firstBermByte + 1)] } }

/-- The loss of the slot at a byte, and whether the byte is listed. -/
def lossAt (o : Out) (a : Nat) : Option Nat × Bool :=
  match o with
  | .next t => (tabFind? t.mem.lost (slotOf a), (tabFind? t.mem.cells a).isSome || t.mem.lost.isEmpty)
  | _ => (none, true)

/-- An unlisted byte of a lost slot reads as the free value of its loss. -/
theorem readByte_lost {t : State} {e a : Nat} (canonical : canon a = some a) (berm : inStride 0x1000000000 0x400000 a = true)
    (h : lossAt (.next t) a = (some e, false)) : readByte t a = Config.accByte e a := by
  have lost : tabFind? t.mem.lost (slotOf a) = Option.some e := congrArg (·.1) h
  have rest : ((tabFind? t.mem.cells a).isSome || t.mem.lost.isEmpty) = false := congrArg (·.2) h
  obtain ⟨unlisted', some⟩ := Bool.or_eq_false_iff.1 rest
  have none : tabFind? t.mem.cells a = Option.none := by simpa using unlisted'
  rw [readByte, isAcc_of_canon canonical, canonical]
  simp only [Bool.false_eq_true, if_false, tabGet, none, Option.getD_none, unlisted, some, berm, if_true, lost]

/-- The request of the chain takes the first two slots of core 0 for its P tiles. -/
theorem lossAt_attending : lossAt (requestWork attendingState 0 0) firstBermByte = (some 1, false) := by decide +kernel

theorem readByte_attendingState : readByte attendingState firstBermByte = Config.accByte 1 firstBermByte + 1 := by
  have plain : canon firstBermByte = some firstBermByte := by decide +kernel
  rw [readByte, isAcc_of_canon plain, plain]; rfl

end Sys2Proof.Machine

open Sys2Proof Sys2Proof.Machine

/-- Refutes O35: a grant of phase B of ATTEND allots two EMPTY slots to its P tiles (R179), so that bytes there no longer read as
before (R202); the request of `attendingState` loses a byte of its core's first slot, which is no accumulator's. -/
theorem not_workLoadsAndPassesStart : ¬ Obligations.WorkLoadsAndPassesStart := by
  unfold Obligations.WorkLoadsAndPassesStart
  intro h
  obtain ⟨_, grants, _⟩ := h attendingState 0 0 0
  obtain ⟨x, asked⟩ := Option.isSome_iff_exists.1
    (show (requestItems attendingState 0 0).isSome = true by decide +kernel)
  have kind : (requestItems attendingState 0 0).map (·.2.1.kind) = some .attendB := by decide +kernel
  rw [asked] at kind
  have kindB : x.2.1.kind = .attendB := Option.some.inj kind
  obtain ⟨t, _, run, granted⟩ := grants 0 x asked (.inl (by rw [kindB]; decide))
  have unread : grantReads attendingState x.1 x.2.1 x.2.2.2.2 = [] := by rw [grantReads, kindB]; rfl
  obtain ⟨_, _, _, _, _, _, _, _, kept⟩ := granted (by rw [unread]; rfl)
  have lost := readByte_lost (by decide +kernel) (by decide +kernel) (run ▸ lossAt_attending)
  have same := (lost.symm.trans (kept firstBermByte (by decide +kernel))).trans readByte_attendingState
  exact absurd same (by bv_omega)

end

section
/-!
SUPPORT. A state in which the commit of a block waits for the weir.
-/
namespace Sys2Proof.Machine

/-- A pass of one column from LPDDR5X, of the first item of command 0, not the last of its column. -/
def columnSpec : PassSpec := { load := { prod := 0, slice := 0 }, n0 := 0, w := 1, last := false }

/-- Its tile, of one K position and no row. -/
def columnTile : Tile := { owner := some { cmd := 0, item := 0, load := columnSpec.load }, kCount := 1 }

/-- An item of that pass. -/
def columnItem : Item :=
  { idx := 0, core := 0, arr := 0, chain := 0, entry := 0, tile := 0, n0 := 0, n1 := 1, passes := [columnSpec] }

/-- A GEMM with that pass in progress. -/
def columnGemm : ArrayWork :=
  { kind := .gemm, prods := [{ wFmt := 1, wKmajor := true, w := ddrBase, m := 1, n := 1, k := 1, effTile := 64, range := 64 }]
    items := [columnItem] }

/-- A SET_WEIR, number 1, that waits for the next window. -/
def waitingWeir : Cmd := { numberedNought (.setWeir 0) with id := 1 }

/-- Core 0 is at that pass, and the READ class has no share of the weir. -/
def streamingState : State :=
  { State.reset with
    weir := { ddrRead := 0 }, cmds := [numberedNought (.array columnGemm), waitingWeir]
    cores := [(0, { ta0 := { active := columnTile, pass := some { cmd := 0, item := 0, spec := columnSpec, done := 0 } } })] }

/-- Whether a work waits for the weir. -/
def Work.isSetWeir : Work → Bool
  | .setWeir _ => true
  | _ => false

/-- The block that is in flight there: its command, work, item, pass and tile. -/
def streamingBlock : Cmd × ArrayWork × Item × Pass × Tile :=
  (numberedNought (.array columnGemm), columnGemm, columnItem,
    { cmd := 0, item := 0, spec := columnSpec, done := 0 }, columnTile)

/-- The commit's read of the column waits for the window, in which the SET_WEIR completes. -/
theorem commitProduct_streaming (halt : Bool) : (workOf (commitProduct (takeSlot streamingState 0 0) 0 0 streamingBlock.1
    streamingBlock.2.1 streamingBlock.2.2.1 streamingBlock.2.2.2.1 streamingBlock.2.2.2.2 halt) 1).any Work.isSetWeir = false := by
  cases halt <;> decide +kernel

end Sys2Proof.Machine

open Sys2Proof Sys2Proof.Machine

/-- Refutes O36: the statement lets a commit leave other commands' work, but a commit whose reads wait for the weir reaches the
window's boundary, at which a SET_WEIR that waits completes (R214, R217); so it is in `streamingState`. -/
theorem not_blocksCommitAndEpiloguesRun : ¬ Obligations.BlocksCommitAndEpiloguesRun := by
  unfold Obligations.BlocksCommitAndEpiloguesRun
  intro h
  obtain ⟨_, _, all⟩ := h
  obtain ⟨blocks, _⟩ := all streamingState 0 0
  obtain ⟨_, _, _, _, _, products⟩ := blocks streamingBlock.1 streamingBlock.2.1 streamingBlock.2.2.1 streamingBlock.2.2.2.1
    streamingBlock.2.2.2.2 (by decide +kernel)
  obtain ⟨⟨_, _, _, others⟩, _⟩ := products (by decide)
  have kept := congrArg (Option.any Work.isSetWeir) (others 1 (by decide))
  have waits : (workOf (takeSlot streamingState 0 0) 1).any Work.isSetWeir = true := by decide +kernel
  exact Bool.false_ne_true ((commitProduct_streaming _).symm.trans (kept.trans waits))

end

section
/-!
SUPPORT. A state in which two passes that share a stream stand between two boundaries.
-/
namespace Sys2Proof.Machine

/-- The two items of a grant of the GEMM of `columnGemm`, one on each array of core 0. -/
def twinGemm : ArrayWork := { columnGemm with items := [columnItem, { columnItem with idx := 1, arr := 1 }] }

/-- An array at the pass of an item, with a tile of command 1 in its shadow registers. -/
def twinArray (item : Nat) : TArray :=
  { active := { columnTile with owner := some { cmd := 0, item := item, load := columnSpec.load } }
    shadow := { owner := some { cmd := 1, item := 0, load := columnSpec.load } }
    pass := some { cmd := 0, item := item, spec := columnSpec, done := 0 } }

/-- Both arrays of core 0 are at these passes; command 1 has priority 0. -/
def twinState : State :=
  { State.reset with
    cmds := [numberedNought (.array twinGemm), { waitingWeir with urgent := true }]
    cores := [(0, { ta0 := twinArray 0, ta1 := twinArray 1 })] }

/-- The pass of an item there. -/
def twinPass (item : Nat) : Pass := { cmd := 0, item := item, spec := columnSpec, done := 0 }

/-- Neither pass halts at a boundary, so the row stops none. -/
theorem preemptArray_twin : preemptArray twinState 0 0 = twinState := by
  have lower : lowerPass twinState 0 0 = some (twinPass 0) := by decide +kernel
  have between : atBoundary twinState (twinPass 0) = false := by decide +kernel
  rw [preemptArray, lower]
  dsimp only
  rw [between, Bool.and_false]; rfl

theorem preempts_twin : (settle twinState).err.preempts = 0 := by decide +kernel

theorem preempts_stopped : (settle (stopPass (stopPass twinState 0 0) 0 1)).err.preempts = 2 := by decide +kernel

end Sys2Proof.Machine

open Sys2Proof Sys2Proof.Machine

/-- Refutes O37: the statement lets PREEMPT stop passes whenever a priority-0 tile is in the shadow registers, but the row acts only
once they stand at a column-block boundary (R356): between two, as in `twinState`, it leaves both passes of a shared stream. -/
theorem not_preemptionKeepsAndResumesPasses : ¬ Obligations.PreemptionKeepsAndResumesPasses := by
  unfold Obligations.PreemptionKeepsAndResumesPasses
  intro h
  obtain ⟨preempts, _⟩ := h twinState 0 0
  obtain ⟨_, shared⟩ := preempts (twinPass 0) { waitingWeir with urgent := true } (by decide +kernel) (by decide +kernel)
  obtain ⟨both, _⟩ := shared (twinPass 1) (by decide +kernel) (by decide +kernel)
  have run : exec (.preempt 0 0) twinState = .next (settle twinState) :=
    congrArg (fun t => Host.Outcome.next (settle t)) preemptArray_twin
  have same := Host.Outcome.next.inj (run.symm.trans (both (by decide +kernel)))
  have counts := (preempts_twin.symm.trans (congrArg (·.err.preempts) same)).trans preempts_stopped
  exact absurd counts (by decide)

end

section
/-!
SUPPORT. The bytes of directory entries, and where they lie in memory.
-/
namespace Sys2Proof.Machine

/-! ## Lists -/

/-- Induction on a list from its end. -/
theorem list_append_induction {α : Type} {motive : List α → Prop} (nil : motive [])
    (append_singleton : ∀ l a, motive l → motive (l ++ [a])) (l : List α) : motive l := by
  have reversed (r : List α) : motive r.reverse := by
    induction r with
    | nil => exact nil
    | cons a r ih =>
      rw [List.reverse_cons]
      exact append_singleton _ _ ih
  rw [← List.reverse_reverse l]
  exact reversed _

theorem getD_append_of_lt {α : Type} {a b : List α} {k : Nat} {d : α} (h : k < a.length) : (a ++ b).getD k d = a.getD k d := by
  rw [List.getD_eq_getElem?_getD, List.getElem?_append_left h, ← List.getD_eq_getElem?_getD]

theorem getD_append_of_le {α : Type} {a b : List α} {k : Nat} {d : α} (h : a.length ≤ k) :
    (a ++ b).getD k d = b.getD (k - a.length) d := by
  rw [List.getD_eq_getElem?_getD, List.getElem?_append_right h, ← List.getD_eq_getElem?_getD]

/-! ## Little-endian fields -/

theorem leNat_leBytes (n v : Nat) : leNat (leBytes n v) = v % 256 ^ n := by
  induction n generalizing v with
  | zero => rw [leBytes, leNat, Nat.pow_zero, Nat.mod_one]
  | succ n ih =>
    rw [leBytes, leNat, ih, BitVec.toNat_ofNat]
    show v % 256 % 256 + 256 * (v / 256 % 256 ^ n) = _
    rw [Nat.mod_mod, Nat.pow_succ', Nat.mod_mul]

theorem leNat_lt (b : List Byte) : leNat b < 256 ^ b.length := by
  induction b with
  | nil => exact Nat.one_pos
  | cons b t ih =>
    have := b.isLt
    rw [leNat, List.length_cons, Nat.pow_succ']
    omega

theorem fieldLe_lt (b : List Byte) (o n : Nat) : fieldLe b o n < 256 ^ n :=
  Nat.lt_of_lt_of_le (leNat_lt _) (Nat.pow_le_pow_right (by decide) (List.length_take_le _ _))

/-- A field that stands between others. -/
theorem fieldLe_between (pre post : List Byte) {n v o : Nat} (ho : o = pre.length) (hv : v < 256 ^ n) :
    fieldLe (pre ++ (leBytes n v ++ post)) o n = v := by
  rw [fieldLe, ho, List.drop_left, List.take_append_of_le_length (Nat.le_of_eq (length_leBytes _ _).symm),
    List.take_of_length_le (Nat.le_of_eq (length_leBytes _ _)), leNat_leBytes, Nat.mod_eq_of_lt hv]

/-- An entry whose fields its bytes hold. -/
structure DirEntry.Fits (x : DirEntry) : Prop where
  hash : x.hash < 256 ^ 16
  loc : x.loc < 256 ^ 8
  span : x.span < 256 ^ 4
  ref : x.ref < 256 ^ 2
  age : x.age < 256 ^ 2

theorem fits_entryOf (b : List Byte) : (entryOf b).Fits :=
  ⟨fieldLe_lt _ _ _, fieldLe_lt _ _ _, fieldLe_lt _ _ _, fieldLe_lt _ _ _, fieldLe_lt _ _ _⟩

theorem length_bytes (x : DirEntry) : x.bytes.length = 32 := by simp [DirEntry.bytes]

theorem entryOf_bytes {x : DirEntry} (h : x.Fits) : entryOf x.bytes = x := by
  have hash : fieldLe x.bytes 0 16 = x.hash := by
    simpa [DirEntry.bytes] using fieldLe_between [] (leBytes 8 x.loc ++ (leBytes 4 x.span ++ (leBytes 2 x.ref ++ leBytes 2 x.age)))
      rfl h.hash
  have loc : fieldLe x.bytes 16 8 = x.loc := by
    simpa [DirEntry.bytes] using fieldLe_between (leBytes 16 x.hash) (leBytes 4 x.span ++ (leBytes 2 x.ref ++ leBytes 2 x.age))
      (by simp) h.loc
  have span : fieldLe x.bytes 24 4 = x.span := by
    simpa [DirEntry.bytes] using fieldLe_between (leBytes 16 x.hash ++ leBytes 8 x.loc) (leBytes 2 x.ref ++ leBytes 2 x.age)
      (by simp) h.span
  have ref : fieldLe x.bytes 28 2 = x.ref := by
    simpa [DirEntry.bytes] using fieldLe_between (leBytes 16 x.hash ++ leBytes 8 x.loc ++ leBytes 4 x.span) (leBytes 2 x.age)
      (by simp) h.ref
  have age : fieldLe x.bytes 30 2 = x.age := by
    simpa [DirEntry.bytes] using fieldLe_between (leBytes 16 x.hash ++ leBytes 8 x.loc ++ leBytes 4 x.span ++ leBytes 2 x.ref) []
      (by simp) h.age
  rw [entryOf, hash, loc, span, ref, age]

/-! ## Ranges of memory -/

/-- Every byte of a range has an address of its own. -/
structure Plain (a n : Nat) : Prop where
  there : ∀ k, k < n → ∃ m, canon (a + k) = some m
  apart : ∀ j k, j < n → k < n → canon (a + j) = canon (a + k) → j = k

theorem plain_of_rangeOk {a n : Nat} (h : rangeOk a n = true) : Plain a n := ⟨(canon_range h).1, (canon_range h).2⟩

theorem Plain.sub {a n b m : Nat} (h : Plain a n) (o : Nat) (hb : b = a + o) (hm : o + m ≤ n) : Plain b m := by
  subst hb
  refine ⟨fun k hk => by rw [Nat.add_assoc]; exact h.there _ (by omega), fun j k hj hk e => ?_⟩
  rw [Nat.add_assoc, Nat.add_assoc] at e
  have := h.apart _ _ (by omega) (by omega) e
  omega

/-- No byte of one range is a byte of another. -/
def Apart (a n b m : Nat) : Prop := ∀ i j, i < n → j < m → canon (a + i) ≠ canon (b + j)

theorem Apart.symm {a n b m : Nat} (h : Apart a n b m) : Apart b m a n := fun i j hi hj e => h j i hj hi e.symm

theorem Apart.sub {a n b m a' n' b' m' : Nat} (h : Apart a n b m) (o p : Nat) (ha : a' = a + o) (hn : o + n' ≤ n) (hb : b' = b + p)
    (hm : p + m' ≤ m) : Apart a' n' b' m' := by
  subst ha hb
  intro i j hi hj
  rw [Nat.add_assoc, Nat.add_assoc]
  exact h _ _ (by omega) (by omega)

/-- Two parts of a range that do not meet. -/
theorem Plain.parts {a n : Nat} (h : Plain a n) {b m c l : Nat} (o p : Nat) (hb : b = a + o) (hm : o + m ≤ n) (hc : c = a + p)
    (hl : p + l ≤ n) (off : o + m ≤ p ∨ p + l ≤ o) : Apart b m c l := by
  subst hb hc
  intro i j hi hj e
  rw [Nat.add_assoc, Nat.add_assoc] at e
  have := h.apart _ _ (by omega) (by omega) e
  omega

theorem length_readMem (s : State) (a n : Nat) : (readMem s a n).length = n := by rw [readMem, List.length_map, List.length_range]

theorem readMem_writeMem_apart {s : State} {a n b : Nat} {v : List Byte} (h : Apart a n b v.length) :
    readMem (writeMem s b v) a n = readMem s a n :=
  List.map_congr_left fun k hk => readByte_writeMem_ne fun j hj => h k j (List.mem_range.1 hk) hj

theorem readMem_writeMem_same {s : State} {a n : Nat} {v : List Byte} (len : v.length = n) (h : Plain a n) :
    readMem (writeMem s a v) a n = v := by
  subst len
  refine List.ext_getElem (length_readMem _ _ _) fun k _ hk => ?_
  obtain ⟨m, hm⟩ := h.there k hk
  simp only [readMem, List.getElem_map, List.getElem_range]
  rw [readByte_writeMem hk hm (fun j hj hne e => hne (h.apart j k hj hk (by rw [e, hm]))), List.getD_eq_getElem?_getD,
    List.getElem?_eq_getElem hk, Option.getD_some]

end Sys2Proof.Machine
end

section
/-!
SUPPORT. The directory of prefixes in memory: where its entries lie, and what a step on one of them changes.
-/
namespace Sys2Proof.Machine

/-! ## Places -/

theorem writeMem_dir (s : State) (a : Nat) (b : List Byte) : (writeMem s a b).dir = s.dir :=
  writeMem_field (·.dir) (fun _ _ => rfl) (by simp) s a b

theorem entryPlace_congr {s t : State} (h : t.dir = s.dir) (e : Nat) : entryPlace t e = entryPlace s e := by
  unfold entryPlace hotHas hotAddr hotLine entryAddr; rw [h]

theorem hotHas_congr {s t : State} (h : t.dir = s.dir) (e : Nat) : hotHas t e = hotHas s e := by
  unfold hotHas hotLine; rw [h]

theorem tagAddr_congr {s t : State} (h : t.dir = s.dir) (e : Nat) : tagAddr t e = tagAddr s e := by rw [tagAddr, h, tagAddr]

section
variable {s : State} (laid : dirLaid s) {e f : Nat}
include laid

theorem hotLine_lt (e : Nat) : hotLine s e < s.dir.hotLines := by
  obtain ⟨_, lines, _⟩ := laid
  exact Nat.mod_lt _ lines

theorem plain_entryAddr (he : e < 2 ^ s.dir.log2e) : Plain (entryAddr s e) 32 := by
  obtain ⟨_, _, table, _⟩ := laid
  exact (plain_of_rangeOk table).sub (32 * e) rfl (by omega)

theorem plain_tagAddr (he : e < 2 ^ s.dir.log2e) : Plain (tagAddr s e) 2 := by
  obtain ⟨_, _, _, tags, _⟩ := laid
  exact (plain_of_rangeOk tags).sub (2 * e) rfl (by omega)

/-- An entry is read whole, in its hot line or in the table. -/
theorem plain_entryPlace (he : e < 2 ^ s.dir.log2e) : Plain (entryPlace s e) 32 := by
  have line := hotLine_lt laid e
  unfold entryPlace
  split
  · obtain ⟨_, _, _, _, hot, _⟩ := laid
    exact (plain_of_rangeOk hot).sub (64 * hotLine s e + 32 * (e % 2)) (Nat.add_assoc _ _ _) (by omega)
  · exact plain_entryAddr laid he

theorem place_apart_tag (he : e < 2 ^ s.dir.log2e) (hf : f < 2 ^ s.dir.log2e) : Apart (entryPlace s f) 32 (tagAddr s e) 2 := by
  have line := hotLine_lt laid f
  obtain ⟨_, _, _, _, _, tableTags, _, tagsHot⟩ := laid
  unfold entryPlace
  split
  · exact (Apart.symm tagsHot).sub (64 * hotLine s f + 32 * (f % 2)) (2 * e) (Nat.add_assoc _ _ _) (by omega) rfl (by omega)
  · exact Apart.sub tableTags (32 * f) (2 * e) rfl (by omega) rfl (by omega)

theorem place_apart_table (he : e < 2 ^ s.dir.log2e) (hf : f < 2 ^ s.dir.log2e) (ne : f ≠ e) :
    Apart (entryPlace s f) 32 (entryAddr s e) 32 := by
  have line := hotLine_lt laid f
  obtain ⟨_, _, table, _, _, _, tableHot, _⟩ := laid
  unfold entryPlace
  split
  · exact (Apart.symm tableHot).sub (64 * hotLine s f + 32 * (f % 2)) (32 * e) (Nat.add_assoc _ _ _) (by omega) rfl (by omega)
  · exact (plain_of_rangeOk table).parts (32 * f) (32 * e) rfl (by omega) rfl (by omega) (by omega)

theorem place_apart_place (he : e < 2 ^ s.dir.log2e) (hf : f < 2 ^ s.dir.log2e) (ne : f ≠ e) :
    Apart (entryPlace s f) 32 (entryPlace s e) 32 := by
  by_cases hot : hotHas s e = true
  · have line := hotLine_lt laid f
    have line' := hotLine_lt laid e
    by_cases hotf : hotHas s f = true
    · have pair : hotLine s f = hotLine s e → f / 2 = e / 2 := fun same => by
        rw [hotHas, decide_eq_true_eq] at hot hotf
        rw [same, hot] at hotf
        exact (Option.some.inj hotf).symm
      obtain ⟨_, _, _, _, lines, _⟩ := laid
      rw [entryPlace, entryPlace, if_pos hot, if_pos hotf]
      exact (plain_of_rangeOk lines).parts (64 * hotLine s f + 32 * (f % 2)) (64 * hotLine s e + 32 * (e % 2))
        (Nat.add_assoc _ _ _) (by omega) (Nat.add_assoc _ _ _) (by omega) (by omega)
    · obtain ⟨_, _, _, _, _, _, tableHot, _⟩ := laid
      rw [entryPlace, entryPlace, if_pos hot, if_neg hotf]
      exact Apart.sub tableHot (32 * f) (64 * hotLine s e + 32 * (e % 2)) rfl (by omega) (Nat.add_assoc _ _ _) (by omega)
  · rw [show entryPlace s e = entryAddr s e from if_neg hot]
    exact place_apart_table laid he hf ne

end

/-! ## A step on an entry -/

/-- The state after an entry's bytes are written to the table, and to its hot line. -/
def entryWritten (s : State) (u : Bool) (e : Nat) (x : DirEntry) : State :=
  let t := writeMem (ddrTake s .write u (entryAddr s e) 32) (entryAddr s e) x.bytes
  if hotHas s e then writeMem t (entryPlace s e) x.bytes else t

theorem entryWritten_dir (s : State) (u : Bool) (e : Nat) (x : DirEntry) : (entryWritten s u e x).dir = s.dir := by
  unfold entryWritten
  dsimp only
  split
  · rw [writeMem_dir, writeMem_dir, ddrTake_dir]
  · rw [writeMem_dir, ddrTake_dir]

theorem dirPut_eq (s : State) (u : Bool) (e : Nat) (x : DirEntry) : dirPut s u e x =
    writeMem (entryWritten s u e x) (tagAddr s e) (leBytes 2 (if x.valid then hashTag x.hash else 0)) := by
  have dir : (writeMem (ddrTake s .write u (entryAddr s e) 32) (entryAddr s e) x.bytes).dir = s.dir := by
    rw [writeMem_dir, ddrTake_dir]
  rw [← tagAddr_congr (entryWritten_dir s u e x)]
  unfold dirPut entryWritten
  dsimp only
  rw [hotHas_congr dir, entryPlace_congr dir]
  rfl

theorem dirPut_dir (s : State) (u : Bool) (e : Nat) (x : DirEntry) : (dirPut s u e x).dir = s.dir := by
  rw [dirPut_eq, writeMem_dir, entryWritten_dir]

section
variable {s : State} {e : Nat} (u : Bool) (x : DirEntry)

theorem readMem_entryWritten_apart {a n : Nat} (table : Apart a n (entryAddr s e) 32) (place : Apart a n (entryPlace s e) 32) :
    readMem (entryWritten s u e x) a n = readMem s a n := by
  rw [← length_bytes x] at table place
  unfold entryWritten
  dsimp only
  split
  · rw [readMem_writeMem_apart place, readMem_writeMem_apart table, readMem_ddrTake]
  · rw [readMem_writeMem_apart table, readMem_ddrTake]

theorem readMem_entryWritten_place (laid : dirLaid s) (he : e < 2 ^ s.dir.log2e) :
    readMem (entryWritten s u e x) (entryPlace s e) 32 = x.bytes := by
  unfold entryWritten
  dsimp only
  split
  · exact readMem_writeMem_same (length_bytes x) (plain_entryPlace laid he)
  next cold =>
    rw [show entryPlace s e = entryAddr s e from if_neg cold]
    exact readMem_writeMem_same (length_bytes x) (plain_entryAddr laid he)

theorem hashTag_lt (h : Nat) : hashTag h < 256 ^ 2 := Nat.mod_lt _ (by decide)

/-- An entry that is written is what it becomes, with its tag; the others stay (R261, R264). -/
theorem dirPut_entry (laid : dirLaid s) (he : e < 2 ^ s.dir.log2e) (fits : x.Fits) : entryBecomes s (dirPut s u e x) e x := by
  have place (f : Nat) : entryPlace (dirPut s u e x) f = entryPlace s f := entryPlace_congr (dirPut_dir s u e x) f
  have tagLen : (leBytes 2 (if x.valid then hashTag x.hash else 0)).length = 2 := length_leBytes _ _
  refine ⟨?_, ?_, fun f hf ne => ?_⟩
  · have apart := place_apart_tag laid he he
    rw [← tagLen] at apart
    rw [dirAt, place, dirPut_eq, readMem_writeMem_apart apart, readMem_entryWritten_place u x laid he, entryOf_bytes fits]
  · rw [readLe, dirPut_eq, readMem_writeMem_same tagLen (plain_tagAddr laid he), leNat_leBytes]
    refine Nat.mod_eq_of_lt ?_
    split
    · exact hashTag_lt _
    · decide
  · have apart := place_apart_tag laid he hf
    rw [← tagLen] at apart
    rw [dirAt, place, dirPut_eq, readMem_writeMem_apart apart,
      readMem_entryWritten_apart u x (place_apart_table laid he hf ne) (place_apart_place laid he hf ne)]
    rfl

end
end Sys2Proof.Machine
end

section
/-!
SUPPORT. Probes and lookups of the directory of prefixes.
-/
namespace Sys2Proof.Machine

/-! ## Sets -/

/-- The first of an ordered list that satisfies a test is the least that does. -/
theorem find?_least {α : Type} {r : α → α → Prop} {l : List α} (ordered : l.Pairwise r) {p : α → Bool} {a b : α}
    (found : l.find? p = some a) (hb : b ∈ l) (hp : p b = true) : b = a ∨ r a b := by
  obtain ⟨_, before, after, rfl, none⟩ := List.find?_eq_some_iff_append.1 found
  rcases List.mem_append.1 hb with early | late
  · exact absurd hp (by simpa using none b early)
  · rcases List.mem_cons.1 late with same | behind
    · exact .inl same
    · exact .inr ((List.pairwise_cons.1 (List.pairwise_append.1 ordered).2.1).1 b behind)

theorem setEntries_ordered (s : State) (h : Nat) : (setEntries s h).Pairwise (· < ·) := by
  refine List.pairwise_map.2 (List.pairwise_lt_range.imp fun {a b} lt => ?_)
  omega

theorem setEntries_lt {s : State} (laid : dirLaid s) {h e : Nat} (he : e ∈ setEntries s h) : e < 2 ^ s.dir.log2e := by
  obtain ⟨log, _⟩ := laid
  obtain ⟨w, hw, rfl⟩ := List.mem_map.1 he
  have way := List.mem_range.1 hw
  have set : hashSet s h < 2 ^ (s.dir.log2e - 3) := Nat.mod_lt _ (Nat.two_pow_pos _)
  have size : 8 * 2 ^ (s.dir.log2e - 3) = 2 ^ s.dir.log2e := by
    rw [show (8 : Nat) = 2 ^ 3 from rfl, ← Nat.pow_add, Nat.add_sub_cancel' log]
  omega

theorem taggedWays_lt {s : State} (laid : dirLaid s) {h e : Nat} (he : e ∈ taggedWays s h) : e < 2 ^ s.dir.log2e :=
  setEntries_lt laid (List.mem_filter.1 he).1

/-! ## Probes -/

/-- The ways of a set that hold a hash, those of them that a lookup's layers and locality allow, and those that it may take. -/
def hashWays (s : State) (h : Nat) : List (Nat × DirEntry) :=
  ((taggedWays s h).map (fun e => (e, dirAt s e))).filter (fun p => p.2.valid && p.2.hash = h)
def coveringWays (s : State) (q : LookArg) (h : Nat) : List (Nat × DirEntry) := (hashWays s h).filter (fun p => covers q p.2)
def usableWays (s : State) (q : LookArg) (h : Nat) : List (Nat × DirEntry) :=
  (coveringWays s q h).filter (fun p => !q.acquire || p.2.ref < 65535)

section
variable {s : State} {q : LookArg} {h e : Nat} {x : DirEntry}

theorem mem_hashWays : (e, x) ∈ hashWays s h ↔
    e ∈ taggedWays s h ∧ (dirAt s e).valid = true ∧ (dirAt s e).hash = h ∧ x = dirAt s e := by
  rw [hashWays, List.mem_filter, List.mem_map, Bool.and_eq_true, decide_eq_true_eq]
  constructor
  · rintro ⟨⟨e', he, same⟩, valid, hash⟩
    cases same
    exact ⟨he, valid, hash, rfl⟩
  · rintro ⟨he, valid, hash, rfl⟩
    exact ⟨⟨e, he, rfl⟩, valid, hash⟩

theorem mem_usableWays : (e, x) ∈ usableWays s q h ↔ (e ∈ taggedWays s h ∧ (dirAt s e).valid = true ∧ (dirAt s e).hash = h ∧
    covers q (dirAt s e) = true ∧ (q.acquire = true → (dirAt s e).ref < 65535)) ∧ x = dirAt s e := by
  rw [usableWays, coveringWays, List.mem_filter, List.mem_filter, mem_hashWays]
  constructor
  · rintro ⟨⟨⟨he, valid, hash, rfl⟩, cover⟩, room⟩
    exact ⟨⟨he, valid, hash, cover, fun acq => by simpa [acq] using room⟩, rfl⟩
  · rintro ⟨⟨he, valid, hash, cover, room⟩, rfl⟩
    refine ⟨⟨⟨he, valid, hash, rfl⟩, cover⟩, ?_⟩
    cases acq : q.acquire
    · rfl
    · exact decide_eq_true (room acq)

theorem usableWays_ordered (s : State) (q : LookArg) (h : Nat) : (usableWays s q h).Pairwise (fun a b => a.1 < b.1) := by
  refine List.Pairwise.filter _ (List.Pairwise.filter _ (List.Pairwise.filter _ (List.pairwise_map.2 ?_)))
  exact (setEntries_ordered s h).filter _

/-- A hit is usable, local before a peer's, and the lowest way among equals (R267). -/
theorem probe_hit (hit : probe s q h = .hit e x) : (e, x) ∈ usableWays s q h ∧
    ∀ f y, (f, y) ∈ usableWays s q h → (x.peer = false ∨ y.peer = true) ∧ (y.peer = x.peer → e ≤ f) := by
  unfold probe at hit
  dsimp only at hit
  split at hit
  next p found =>
    cases hit
    have here : p.2.peer = false := by simpa using List.find?_some found
    refine ⟨List.mem_of_find?_eq_some found, fun f y mem => ⟨.inl here, fun same => ?_⟩⟩
    rcases find?_least (usableWays_ordered s q h) found mem (by rw [same, here]; rfl) with eq | lt
    · exact Nat.le_of_eq (congrArg (·.1) eq).symm
    · exact Nat.le_of_lt lt
  next p none' head =>
    cases hit
    obtain ⟨rest, first⟩ := List.head?_eq_some_iff.1 head
    have list : usableWays s q h = p :: rest := first
    refine ⟨list ▸ List.mem_cons_self, fun f y mem => ⟨.inr ?_, fun _ => ?_⟩⟩
    · simpa using List.find?_eq_none.1 none' (f, y) mem
    · have ordered := usableWays_ordered s q h
      rw [list] at mem ordered
      rcases List.mem_cons.1 mem with eq | later
      · exact Nat.le_of_eq (congrArg (·.1) eq).symm
      · exact Nat.le_of_lt ((List.pairwise_cons.1 ordered).1 _ later)
  next => cases hit

/-- A miss has no usable way, and its STOP names the first test that none passes. -/
theorem probe_miss {k : Nat} (miss : probe s q h = .miss k) : usableWays s q h = [] ∧
    k = if (hashWays s h).isEmpty then 1 else if (coveringWays s q h).isEmpty then 2 else 3 := by
  unfold probe at miss
  dsimp only at miss
  split at miss
  · cases miss
  · cases miss
  next none' head =>
    refine ⟨List.head?_eq_none_iff.1 head, (Probe.miss.inj miss).symm⟩

theorem probe_stop {k : Nat} (miss : probe s q h = .miss k) : k = 1 ∨ k = 2 ∨ k = 3 := by
  rw [(probe_miss miss).2]
  split
  · exact .inl rfl
  · split
    · exact .inr (.inl rfl)
    · exact .inr (.inr rfl)

/-- What each STOP says of the ways that hold the hash (R267). -/
theorem probe_reason {k : Nat} (miss : probe s q h = .miss k) :
    let here := fun e => e ∈ taggedWays s h ∧ (dirAt s e).valid = true ∧ (dirAt s e).hash = h
    (k = 1 ↔ ∀ e, ¬ here e) ∧ (k = 2 ↔ (∃ e, here e) ∧ ∀ e, here e → covers q (dirAt s e) = false) ∧
    (k = 3 ↔ q.acquire = true ∧ (∃ e, here e ∧ covers q (dirAt s e) = true) ∧
      ∀ e, here e → covers q (dirAt s e) = true → 65535 ≤ (dirAt s e).ref) := by
  intro here
  obtain ⟨none, stop⟩ := probe_miss miss
  have way (e) (hw : here e) : (e, dirAt s e) ∈ hashWays s h := mem_hashWays.2 ⟨hw.1, hw.2.1, hw.2.2, rfl⟩
  have way' (p) (hp : p ∈ hashWays s h) : here p.1 ∧ p.2 = dirAt s p.1 := by
    obtain ⟨tagged, valid, hash, eq⟩ := mem_hashWays.1 (show (p.1, p.2) ∈ hashWays s h from hp)
    exact ⟨⟨tagged, valid, hash⟩, eq⟩
  by_cases e1 : hashWays s h = []
  · have nobody (e) : ¬ here e := fun hw => by simpa [e1] using way e hw
    rw [if_pos (List.isEmpty_iff.2 e1)] at stop
    subst stop
    exact ⟨⟨fun _ => nobody, fun _ => rfl⟩, ⟨fun h => by omega, fun ⟨⟨e, he⟩, _⟩ => absurd he (nobody e)⟩,
      ⟨fun h => by omega, fun ⟨_, ⟨e, he, _⟩, _⟩ => absurd he (nobody e)⟩⟩
  · obtain ⟨p, hp⟩ := List.exists_mem_of_ne_nil _ e1
    have somebody := (way' p hp).1
    rw [if_neg (by rwa [List.isEmpty_iff])] at stop
    by_cases e2 : coveringWays s q h = []
    · have uncovered (e) (he : here e) : covers q (dirAt s e) = false := by
        cases c : covers q (dirAt s e)
        · rfl
        · have covered : (e, dirAt s e) ∈ coveringWays s q h := List.mem_filter.2 ⟨way e he, c⟩
          rw [e2] at covered
          cases covered
      rw [if_pos (List.isEmpty_iff.2 e2)] at stop
      subst stop
      exact ⟨⟨fun h => by omega, fun h => absurd somebody (h _)⟩, ⟨fun _ => ⟨⟨_, somebody⟩, uncovered⟩, fun _ => rfl⟩,
        ⟨fun h => by omega, fun ⟨_, ⟨e, he, c⟩, _⟩ => by rw [uncovered e he] at c; cases c⟩⟩
    · obtain ⟨p, hp⟩ := List.exists_mem_of_ne_nil _ e2
      obtain ⟨hp', c⟩ := List.mem_filter.1 hp
      obtain ⟨hw, eq⟩ := way' p hp'
      have full (e) (he : here e) (c : covers q (dirAt s e) = true) : q.acquire = true ∧ 65535 ≤ (dirAt s e).ref := by
        have out := List.filter_eq_nil_iff.1 none (e, dirAt s e) (List.mem_filter.2 ⟨way e he, c⟩)
        simpa using out
      rw [if_neg (by rwa [List.isEmpty_iff])] at stop
      subst stop
      rw [eq] at c
      exact ⟨⟨fun h => by omega, fun h => absurd somebody (h _)⟩,
        ⟨fun h => by omega, fun ⟨_, h⟩ => by rw [h _ hw] at c; cases c⟩,
        ⟨fun _ => ⟨(full _ hw c).1, ⟨_, hw, c⟩, fun e he c => (full e he c).2⟩, fun _ => rfl⟩⟩

end
end Sys2Proof.Machine
end

section
/-!
SUPPORT. Lookups, insertions and releases of the directory of prefixes.
-/
namespace Sys2Proof.Machine

/-! ## Lookups -/

section
variable {s : State} {c : Cmd} {q : LookArg} {idx a : Nat}

theorem lookStep_more {t : State} {bytes : List Byte} (run : lookStep s c q idx a = .more t bytes) :
    ∃ v e x, probe v q (readLe s a 16) = .hit e x ∧ t = takeHit v c.urgent q e x ∧ bytes = hitBytes e x := by
  unfold lookStep at run
  split at run
  · cases run
  · dsimp only at run
    split at run
    · cases run
    · split at run
      · cases run
      · split at run
        · cases run
        next e x hit =>
          cases run
          exact ⟨_, e, x, hit, rfl, rfl⟩

theorem lookStep_ends {t : State} {k : Nat} (run : lookStep s c q idx a = .ends t k none) :
    probe t q (readLe s a 16) = .miss k := by
  unfold lookStep at run
  split at run
  · cases run
  · dsimp only at run
    split at run
    · cases run
    · split at run
      · cases run
      · split at run
        next stop miss =>
          obtain ⟨rfl, rfl, _⟩ := LookStep.ends.inj run
          exact miss
        · cases run

/-- A prompt's lookup counts the hashes that match in order, and its STOP is 0 only where all do (R266). -/
theorem lookLoop_counts {n j m stop : Nat} {t : State} {out b : List Byte}
    (run : lookLoop n s c q idx a j out = (t, m, b, stop, none)) : m ≤ j + n ∧ stop ≤ 3 ∧ (stop = 0 ↔ m = j + n) := by
  induction n generalizing s j out with
  | zero => cases run; exact ⟨Nat.le_refl _, by omega, by simp⟩
  | succ n ih =>
    unfold lookLoop at run
    split at run
    next u k why step =>
      cases run
      have stop := probe_stop (lookStep_ends step)
      omega
    next u bytes step =>
      have := ih run
      omega

theorem lookPrompt_result {b : List Byte} {t : State} {m : Nat} (run : lookPrompt s c q idx b = (t, m, none)) :
    m ≤ fieldLe b 16 4 ∧ (∀ k, k < 4 → readByte t (fieldLe b 8 8 + k) = (leBytes 4 m).getD k 0) ∧
    ∃ stop, stop ≤ 3 ∧ (stop = 0 ↔ m = fieldLe b 16 4) ∧ readByte t (fieldLe b 8 8 + 4) = BitVec.ofNat 8 stop := by
  cases loop : lookLoop (fieldLe b 16 4) s c q idx (fieldLe b 0 8) 0 [] with
  | mk u rest =>
  obtain ⟨j, recs, stop, why⟩ := rest
  unfold lookPrompt at run
  rw [loop] at run
  dsimp only at run
  split at run
  · cases run
  · split at run
    · cases run
    next ok =>
      cases run
      obtain ⟨most, small, all⟩ := lookLoop_counts loop
      rw [Nat.zero_add] at most all
      have range : rangeOk (fieldLe b 8 8) (leBytes 4 m ++ leBytes 1 stop ++ List.replicate 11 0 ++ recs).length = true := by
        simpa using ok
      have at' (k : Nat) (hk : k < 5) := readByte_writeMem_range (s := ddrTake u .write c.urgent (fieldLe b 8 8)
        (leBytes 4 m ++ leBytes 1 stop ++ List.replicate 11 0 ++ recs).length) range (k := k) (by simp; omega)
      refine ⟨most, fun k hk => (at' k (by omega)).trans ?_, stop, small, all, (at' 4 (by omega)).trans ?_⟩
      · rw [List.append_assoc, List.append_assoc, getD_append_of_lt (by rw [length_leBytes]; exact hk)]
      · rw [List.append_assoc, List.append_assoc, getD_append_of_le (Nat.le_of_eq (length_leBytes _ _)), length_leBytes,
          leBytes, List.cons_append, Nat.sub_self, List.getD_cons_zero, Nat.mod_eq_of_lt (by omega)]

end

theorem fits_dirAt (s : State) (e : Nat) : (dirAt s e).Fits := fits_entryOf _

theorem takeHit_entry {s : State} (laid : dirLaid s) {q : LookArg} {h e : Nat} {x : DirEntry} (hit : (e, x) ∈ usableWays s q h)
    (u : Bool) : entryBecomes s (takeHit s u q e x) e
      { x with age := s.dir.clock.toNat, ref := if q.acquire then x.ref + 1 else x.ref } := by
  obtain ⟨⟨tagged, _, _, _, room⟩, rfl⟩ := mem_usableWays.1 hit
  have fits := fits_dirAt s e
  refine dirPut_entry u _ laid (taggedWays_lt laid tagged) ⟨fits.hash, fits.loc, fits.span, ?_, s.dir.clock.isLt⟩
  show (if q.acquire then (dirAt s e).ref + 1 else (dirAt s e).ref) < 256 ^ 2
  have small := fits.ref
  split
  next acq => have := room acq; omega
  · exact small

theorem lookupFollows_all {s : State} (laid : dirLaid s) (u : Bool) (c : Cmd) (q : LookArg) (h : Nat) : lookupFollows s u c q h := by
  refine ⟨fun e x hit => ?_, fun k miss => ?_, fun idx a t bytes run => lookStep_more run, fun idx a t k run => lookStep_ends run,
    fun idx b t m run => lookPrompt_result run⟩
  · obtain ⟨taken, first⟩ := probe_hit hit
    obtain ⟨usable, eq⟩ := mem_usableWays.1 taken
    exact ⟨usable, eq, fun f other => first f _ (mem_usableWays.2 ⟨other, rfl⟩), takeHit_entry laid taken u⟩
  · obtain ⟨one, two, three⟩ := probe_reason miss
    exact ⟨one, two, three, probe_stop miss⟩

end Sys2Proof.Machine
end

section
/-!
SUPPORT. Insertions and releases of the directory of prefixes.
-/
namespace Sys2Proof.Machine

/-! ## Lines that come into the hot set -/

/-- Two states whose directories differ in their hot lines at most. -/
structure SamePlan (s t : State) : Prop where
  log2e : t.dir.log2e = s.dir.log2e
  tableBase : t.dir.tableBase = s.dir.tableBase
  tagsBase : t.dir.tagsBase = s.dir.tagsBase
  hotBase : t.dir.hotBase = s.dir.hotBase
  hotLines : t.dir.hotLines = s.dir.hotLines
  clock : t.dir.clock = s.dir.clock

namespace SamePlan

theorem refl (s : State) : SamePlan s s := ⟨rfl, rfl, rfl, rfl, rfl, rfl⟩

theorem trans {r s t : State} (h : SamePlan r s) (g : SamePlan s t) : SamePlan r t :=
  ⟨g.log2e.trans h.log2e, g.tableBase.trans h.tableBase, g.tagsBase.trans h.tagsBase, g.hotBase.trans h.hotBase,
    g.hotLines.trans h.hotLines, g.clock.trans h.clock⟩

theorem laid {s t : State} (h : SamePlan s t) (l : dirLaid s) : dirLaid t := by
  unfold dirLaid at *
  dsimp only at *
  rw [h.log2e, h.tableBase, h.tagsBase, h.hotBase, h.hotLines]
  exact l

theorem hotRead (s : State) (u : Bool) (e : Nat) : SamePlan s (hotRead s u e) := by
  unfold Machine.hotRead
  split
  · exact refl s
  · constructor <;> simp only [writeMem_dir, ddrTake_dir]

theorem hotReads (s : State) (u : Bool) (l : List Nat) : SamePlan s (l.foldl (fun s e => Machine.hotRead s u e) s) :=
  foldl_closed (P := SamePlan s) (fun _ _ hs => hs.trans (hotRead _ _ _)) l (refl s)

end SamePlan

/-! ## The victim of an insertion -/

/-- The older of two candidates, the earlier among equals. -/
def elder (s : State) (a : Option (Nat × DirEntry)) (p : Nat × DirEntry) : Option (Nat × DirEntry) :=
  match a with
  | none => some p
  | some y => if dirAge s y.2 < dirAge s p.2 then some p else some y

theorem dirVictim_eq (s : State) (l : List (Nat × DirEntry)) :
    dirVictim s l = (l.filter (fun p => p.2.ref = 0)).foldl (elder s) none := rfl

theorem foldl_elder (s : State) (l : List (Nat × DirEntry)) : (l.foldl (elder s) none = none → l = []) ∧
    ∀ y, l.foldl (elder s) none = some y → y ∈ l ∧ ∀ p ∈ l, dirAge s p.2 ≤ dirAge s y.2 := by
  induction l using list_append_induction with
  | nil => exact ⟨fun _ => rfl, fun y h => by cases h⟩
  | append_singleton l p ih =>
    rw [List.foldl_append, List.foldl_cons, List.foldl_nil]
    obtain ⟨empty, oldest⟩ := ih
    cases acc : l.foldl (elder s) none with
    | none =>
      rw [empty acc]
      refine ⟨fun h => (by cases h), fun y h => ?_⟩
      cases h
      exact ⟨List.mem_singleton.2 rfl, fun p hp =>
        Nat.le_of_eq (congrArg (fun p => dirAge s p.2) (List.mem_singleton.1 hp))⟩
    | some z =>
      obtain ⟨hz, old⟩ := oldest z acc
      unfold elder
      dsimp only
      split
      next younger =>
        refine ⟨fun h => (by cases h), fun y h => ?_⟩
        cases h
        refine ⟨List.mem_append_right _ (List.mem_singleton.2 rfl), fun r hr => ?_⟩
        rcases List.mem_append.1 hr with hr | hr
        · exact Nat.le_of_lt (Nat.lt_of_le_of_lt (old r hr) younger)
        · exact Nat.le_of_eq (congrArg (fun p => dirAge s p.2) (List.mem_singleton.1 hr))
      next elder =>
        refine ⟨fun h => (by cases h), fun y h => ?_⟩
        cases h
        refine ⟨List.mem_append_left _ hz, fun r hr => ?_⟩
        rcases List.mem_append.1 hr with hr | hr
        · exact old r hr
        · rw [List.mem_singleton.1 hr]; exact Nat.not_lt.1 elder

theorem dirVictim_none {s : State} {l : List (Nat × DirEntry)} (h : dirVictim s l = none) : ∀ p ∈ l, p.2.ref ≠ 0 := by
  intro p hp
  have out := List.filter_eq_nil_iff.1 ((foldl_elder s _).1 h) p hp
  simpa using out

theorem dirVictim_some {s : State} {l : List (Nat × DirEntry)} {y : Nat × DirEntry} (h : dirVictim s l = some y) :
    y ∈ l ∧ y.2.ref = 0 ∧ ∀ p ∈ l, p.2.ref = 0 → dirAge s p.2 ≤ dirAge s y.2 := by
  obtain ⟨mem, old⟩ := (foldl_elder s _).2 y h
  obtain ⟨hy, ref⟩ := List.mem_filter.1 mem
  exact ⟨hy, of_decide_eq_true ref, fun p hp free => old p (List.mem_filter.2 ⟨hp, decide_eq_true free⟩)⟩

/-! ## Insertions -/

/-- The state after the lines of a set have come into the hot set. -/
def setRead (s : State) (u : Bool) (h : Nat) : State := (setEntries s h).foldl (fun v e => hotRead v u e) s

/-- The ways of a set with their entries. -/
def setWays (v : State) (h : Nat) : List (Nat × DirEntry) := (setEntries v h).map (fun e => (e, dirAt v e))

/-- The test for an entry that a record would repeat. -/
def repeats (x : DirEntry) (p : Nat × DirEntry) : Bool :=
  p.2.valid && p.2.hash = x.hash && p.2.span = x.span && p.2.peer = x.peer

theorem DirEntry.Fits.renew {y : DirEntry} (h : y.Fits) (clock : BitVec 16) {r : Nat} (hr : r < 256 ^ 2) :
    DirEntry.Fits { y with age := clock.toNat, ref := r } where
  hash := h.hash
  loc := h.loc
  span := h.span
  ref := hr
  age := clock.isLt

theorem setRead_plan (s : State) (u : Bool) (h : Nat) : SamePlan s (setRead s u h) := SamePlan.hotReads s u _

section
variable {v : State} {h e : Nat} {y : DirEntry}

theorem mem_setWays : (e, y) ∈ setWays v h ↔ e ∈ setEntries v h ∧ y = dirAt v e := by
  rw [setWays, List.mem_map]
  constructor
  · rintro ⟨e', he, same⟩; cases same; exact ⟨he, rfl⟩
  · rintro ⟨he, rfl⟩; exact ⟨e, he, rfl⟩

theorem setWays_ordered (v : State) (h : Nat) : (setWays v h).Pairwise (fun a b => a.1 < b.1) :=
  List.pairwise_map.2 (setEntries_ordered v h)

theorem repeats_iff {x : DirEntry} {p : Nat × DirEntry} : repeats x p = true ↔
    p.2.valid = true ∧ p.2.hash = x.hash ∧ p.2.span = x.span ∧ p.2.peer = x.peer := by
  simp only [repeats, Bool.and_eq_true, decide_eq_true_eq, and_assoc]


/-- Where no way fails a test, every entry of the set passes it. -/
theorem setWays_all {p : Nat × DirEntry → Bool} (none : (setWays v h).find? p = none) (he : e ∈ setEntries v h) :
    p (e, dirAt v e) = false := by
  have out := List.find?_eq_none.1 none (e, dirAt v e) (mem_setWays.2 ⟨he, rfl⟩)
  rwa [Bool.not_eq_true] at out

theorem setWays_valid (v : State) (h : Nat) {e : Nat} (none : (setWays v h).find? (fun p => !p.2.valid) = none) (he : e ∈ setEntries v h) :
    (dirAt v e).valid = true := by
  have out : (!(dirAt v e).valid) = false := setWays_all none he
  rwa [Bool.not_eq_false'] at out

end

/-- What an insertion into a set does, whose ways with their entries `v` shows (R269). -/
structure Inserted (v t : State) (acq : Bool) (x : DirEntry) (o e old : Nat) : Prop where
  way : e ∈ setEntries v x.hash
  outcome : o ≤ 2
  stays : o = 2 → repeats x (e, dirAt v e) = true ∧ old = 0 ∧ entryBecomes v t e { dirAt v e with
    age := v.dir.clock.toNat, ref := if acq && (dirAt v e).ref < 65535 then (dirAt v e).ref + 1 else (dirAt v e).ref }
  written : o ≠ 2 → (∀ f ∈ setEntries v x.hash, repeats x (f, dirAt v f) = false) ∧
    entryBecomes v t e { x with age := v.dir.clock.toNat, ref := bit01 acq }
  fresh : o = 0 → (dirAt v e).valid = false ∧ old = 0 ∧ ∀ f ∈ setEntries v x.hash, f < e → (dirAt v f).valid = true
  evicts : o = 1 → (∀ f ∈ setEntries v x.hash, (dirAt v f).valid = true) ∧ (dirAt v e).ref = 0 ∧ old = (dirAt v e).loc ∧
    ∀ f ∈ setEntries v x.hash, (dirAt v f).ref = 0 → dirAge v (dirAt v f) ≤ dirAge v (dirAt v e)

/-- An insertion into a set whose lines are in the hot set. -/
def insertInto (v : State) (u acq : Bool) (x : DirEntry) : Option (State × Nat × Nat × Nat) :=
  let l := setWays v x.hash
  let new : DirEntry := { x with age := v.dir.clock.toNat, ref := bit01 acq }
  match l.find? (repeats x) with
  | some (e, y) => some (dirPut v u e { y with
      age := v.dir.clock.toNat, ref := if acq && y.ref < 65535 then y.ref + 1 else y.ref }, 2, e, 0)
  | none => match l.find? (fun p => !p.2.valid) with
    | some (e, _) => some (dirPut v u e new, 0, e, 0)
    | none => (dirVictim v l).map (fun p => (dirPut v u p.1 new, 1, p.1, p.2.loc))

theorem setEntries_setRead (s : State) (u : Bool) (h h' : Nat) : setEntries (setRead s u h) h' = setEntries s h' := by
  rw [setEntries, setEntries, hashSet, hashSet, (setRead_plan s u h).log2e]

theorem insertStep_eq (s : State) (u acq : Bool) (x : DirEntry) :
    insertStep s u acq x = insertInto (setRead s u x.hash) u acq x := by
  unfold insertStep setRead
  dsimp only
  generalize (setEntries s x.hash).foldl (fun s e => hotRead s u e) s = v
  rfl

section
variable {v : State} {u acq : Bool} {x : DirEntry}

theorem insertInto_some (laid : dirLaid v) (fits : x.Fits) {t : State} {o e old : Nat}
    (run : insertInto v u acq x = some (t, o, e, old)) : Inserted v t acq x o e old := by
  have way {f : Nat} (hf : f ∈ setEntries v x.hash) : (f, dirAt v f) ∈ setWays v x.hash := mem_setWays.2 ⟨hf, rfl⟩
  have put {f : Nat} (hf : f ∈ setEntries v x.hash) {y : DirEntry} (hy : y.Fits) : entryBecomes v (dirPut v u f y) f y :=
    dirPut_entry u y laid (setEntries_lt laid hf) hy
  have bit : bit01 acq < 256 ^ 2 := by cases acq <;> decide
  unfold insertInto at run
  dsimp only at run
  split at run
  next f y found =>
    cases run
    obtain ⟨he, eq⟩ := mem_setWays.1 (List.mem_of_find?_eq_some found)
    subst eq
    have old := fits_dirAt v e
    have small := old.ref
    refine ⟨he, by decide, fun _ => ⟨List.find?_some found, rfl, put he (old.renew _ ?_)⟩, fun h => absurd rfl h,
      fun h => absurd h (by decide), fun h => absurd h (by decide)⟩
    split
    next room =>
      rw [Bool.and_eq_true, decide_eq_true_eq] at room
      omega
    · exact small
  next repeated =>
    have new {f : Nat} (hf : f ∈ setEntries v x.hash) : repeats x (f, dirAt v f) = false := setWays_all repeated hf
    split at run
    next f y found =>
      cases run
      obtain ⟨he, eq⟩ := mem_setWays.1 (List.mem_of_find?_eq_some found)
      subst eq
      refine ⟨he, by decide, fun h => absurd h (by decide), fun _ => ⟨fun f hf => new hf, put he (fits.renew _ bit)⟩,
        fun _ => ⟨by simpa using List.find?_some found, rfl, fun f hf lt => ?_⟩, fun h => absurd h (by decide)⟩
      cases valid : (dirAt v f).valid
      · rcases find?_least (setWays_ordered _ _) found (way hf) (by rw [valid]; rfl) with same | later
        · have := congrArg (·.1) same
          dsimp only at this; omega
        · dsimp only at later; omega
      · rfl
    next allValid =>
      have valid {f : Nat} (hf : f ∈ setEntries v x.hash) : (dirAt v f).valid = true := by
        exact setWays_valid v x.hash allValid hf
      obtain ⟨p, victim, eq⟩ := Option.map_eq_some_iff.1 run
      cases eq
      obtain ⟨mem, ref, oldest⟩ := dirVictim_some victim
      obtain ⟨he, eq⟩ := mem_setWays.1 (show (p.1, p.2) ∈ _ from mem)
      rw [eq] at ref oldest
      refine ⟨he, by decide, fun h => absurd h (by decide), fun _ => ⟨fun f hf => new hf, put he (fits.renew _ bit)⟩,
        fun h => absurd h (by decide), fun _ => ⟨fun f hf => valid hf, ref,
          congrArg (·.loc) eq, fun f hf free => oldest (f, dirAt v f) (way hf) free⟩⟩

/-- A set into which nothing is inserted holds references throughout. -/
theorem insertInto_none (run : insertInto v u acq x = none) :
    ∀ f ∈ setEntries v x.hash, (dirAt v f).valid = true ∧ 0 < (dirAt v f).ref := by
  intro f hf
  have way : (f, dirAt v f) ∈ setWays v x.hash := mem_setWays.2 ⟨hf, rfl⟩
  unfold insertInto at run
  dsimp only at run
  split at run
  · cases run
  · split at run
    · cases run
    next allValid =>
      have valid : (dirAt v f).valid = true := by exact setWays_valid v x.hash allValid hf
      have nobody := Option.map_eq_none_iff.1 run
      have held := dirVictim_none nobody _ way
      exact ⟨valid, Nat.pos_of_ne_zero held⟩

end
end Sys2Proof.Machine
end

section
/-!
SUPPORT. What insertions and releases of the directory of prefixes do, as the obligation states it.
-/
namespace Sys2Proof.Machine

theorem setEntries_plan {s v : State} (plan : SamePlan s v) (h : Nat) : setEntries v h = setEntries s h := by
  rw [setEntries, setEntries, hashSet, hashSet, plan.log2e]

/-- A record that is inserted alone leaves its result (R269). -/
theorem insertRecords_one {s t : State} {c : Cmd} {acq : Bool} {x : DirEntry} {res r n k : Nat}
    (run : insertRecords [(x, r)] s c acq res 0 0 = (t, n, k, none)) (range : rangeOk (res + 16 * r) 16 = true) :
    ∃ w w' o e old, insertStep w c.urgent acq x = some (w', o, e, old) ∧ n = (if o = 2 then 0 else 1) ∧
      k = (if o = 1 then 1 else 0) ∧ ∀ j, j < 16 → readByte t (res + 16 * r + j) =
        (leBytes 1 o ++ [0, 0, 0] ++ leBytes 4 e ++ leBytes 8 old).getD j 0 := by
  unfold insertRecords at run
  dsimp only at run
  split at run
  · cases run
  · split at run
    · cases run
    next w' o e old step =>
      rw [insertRecords] at run
      obtain ⟨rfl, rest⟩ := Prod.ext_iff.1 run
      obtain ⟨rfl, rest⟩ := Prod.ext_iff.1 rest
      obtain ⟨rfl, _⟩ := Prod.ext_iff.1 rest
      have len : (leBytes 1 o ++ [0, 0, 0] ++ leBytes 4 e ++ leBytes 8 old).length = 16 := by simp
      refine ⟨_, w', o, e, old, step, rfl, rfl, fun j hj => ?_⟩
      exact readByte_writeMem_range (by rw [len]; exact range) (by rw [len]; exact hj)

theorem insertFollows_all {s : State} (laid : dirLaid s) (u acq : Bool) (b : List Byte) : insertFollows s u acq b := by
  have eq := insertStep_eq s u acq (entryOf b)
  have plan := setRead_plan s u (entryOf b).hash
  unfold setRead at eq plan
  unfold insertFollows
  dsimp only
  generalize (setEntries s (entryOf b).hash).foldl (fun v e => hotRead v u e) s = v at eq plan ⊢
  rw [eq, ← setEntries_plan plan, ← plan.clock]
  refine ⟨fun t o e old run => ?_, fun run => insertInto_none run, fun c r res t n k run range => insertRecords_one run range⟩
  have ins := insertInto_some (plan.laid laid) (fits_entryOf b) run
  refine ⟨ins.way, ins.outcome, fun two => ?_, fun other => ?_, ins.fresh, ins.evicts⟩
  · obtain ⟨same, old, becomes⟩ := ins.stays two
    refine ⟨(repeats_iff (x := entryOf b) (p := (e, dirAt v e))).1 same, old, ?_⟩
    simpa only [Bool.and_eq_true, decide_eq_true_eq] using becomes
  · obtain ⟨new, becomes⟩ := ins.written other
    refine ⟨fun f hf same => ?_, becomes⟩
    have := new f hf
    rw [(repeats_iff (x := entryOf b) (p := (f, dirAt v f))).2 same] at this
    cases this

/-! ## Releases -/

theorem valid_lowered {x : DirEntry} (h : x.valid = true) : DirEntry.valid { x with loc := x.loc - 2 ^ 56 } = false := by
  have odd : x.loc / 2 ^ 56 % 2 = 1 := of_decide_eq_true h
  refine decide_eq_false ?_
  show (x.loc - 2 ^ 56) / 2 ^ 56 % 2 ≠ 1
  omega

/-- A release of an entry whose line is in the hot set (R270). -/
def releaseFrom (v : State) (u inval : Bool) (e h : Nat) : State × Nat :=
  let x := dirAt v e
  if !x.valid || x.hash != h then (v, 1)
  else if inval then if x.ref = 0 then (dirPut v u e { x with loc := x.loc - 2 ^ 56 }, 0) else (v, 2)
  else if x.ref = 0 then (v, 2)
  else (dirPut v u e { x with ref := x.ref - 1 }, 0)

theorem releaseStep_eq {s : State} {e : Nat} (he : e < 2 ^ s.dir.log2e) (u inval : Bool) (h : Nat) :
    releaseStep s u inval e h = releaseFrom (hotRead s u e) u inval e h := if_neg (Nat.not_le.2 he)

section
variable {v : State} {u inval : Bool} {e h : Nat}

theorem releaseFrom_other (other : (dirAt v e).valid = false ∨ (dirAt v e).hash ≠ h) : releaseFrom v u inval e h = (v, 1) := by
  refine if_pos ?_
  rcases other with other | other
  · rw [other]; rfl
  · rw [bne_iff_ne.2 other, Bool.or_true]

section
variable (valid : (dirAt v e).valid = true) (hash : (dirAt v e).hash = h)
include valid hash

theorem releaseFrom_own : releaseFrom v u inval e h =
    if inval then if (dirAt v e).ref = 0 then (dirPut v u e { dirAt v e with loc := (dirAt v e).loc - 2 ^ 56 }, 0) else (v, 2)
    else if (dirAt v e).ref = 0 then (v, 2)
    else (dirPut v u e { dirAt v e with ref := (dirAt v e).ref - 1 }, 0) := by
  refine if_neg ?_
  rw [valid, hash, bne_self_eq_false]
  exact Bool.false_ne_true

theorem releaseFrom_counted (rule : if inval then 0 < (dirAt v e).ref else (dirAt v e).ref = 0) :
    releaseFrom v u inval e h = (v, 2) := by
  rw [releaseFrom_own valid hash]
  cases inval with
  | true => exact (if_pos rfl).trans (if_neg (Nat.ne_of_gt rule))
  | false => exact (if_neg Bool.false_ne_true).trans (if_pos rule)

theorem releaseFrom_drops (keep : inval = false) (ref : 0 < (dirAt v e).ref) :
    releaseFrom v u inval e h = (dirPut v u e { dirAt v e with ref := (dirAt v e).ref - 1 }, 0) := by
  rw [releaseFrom_own valid hash, keep]
  exact (if_neg Bool.false_ne_true).trans (if_neg (Nat.ne_of_gt ref))

theorem releaseFrom_invalidates (drop : inval = true) (ref : (dirAt v e).ref = 0) :
    releaseFrom v u inval e h = (dirPut v u e { dirAt v e with loc := (dirAt v e).loc - 2 ^ 56 }, 0) := by
  rw [releaseFrom_own valid hash, drop]
  exact (if_pos rfl).trans (if_pos ref)

end
end

theorem releaseFollows_all {s : State} (laid : dirLaid s) (u inval : Bool) (e h : Nat) : releaseFollows s u inval e h := by
  have plan := SamePlan.hotRead s u e
  refine ⟨fun out => if_pos out, fun he => ?_⟩
  have here : e < 2 ^ (hotRead s u e).dir.log2e := by rw [plan.log2e]; exact he
  have fits := fits_dirAt (hotRead s u e) e
  have laid' := plan.laid laid
  rw [releaseStep_eq he]
  refine ⟨releaseFrom_other, fun valid hash => ⟨releaseFrom_counted valid hash, fun keep ref => ?_, fun drop ref => ?_⟩⟩
  · refine ⟨_, releaseFrom_drops valid hash keep ref, dirPut_entry u _ laid' here ?_⟩
    exact ⟨fits.hash, fits.loc, fits.span, Nat.lt_of_le_of_lt (Nat.sub_le _ _) fits.ref, fits.age⟩
  · have becomes := dirPut_entry u { dirAt (hotRead s u e) e with loc := (dirAt (hotRead s u e) e).loc - 2 ^ 56 } laid' here
      ⟨fits.hash, Nat.lt_of_le_of_lt (Nat.sub_le _ _) fits.loc, fits.span, fits.ref, fits.age⟩
    refine ⟨_, releaseFrom_invalidates valid hash drop ref, becomes, ?_⟩
    obtain ⟨entry, _⟩ := becomes
    rw [entry]
    exact valid_lowered valid

end Sys2Proof.Machine
end

section
/-!
SUPPORT. The commands of the directory of prefixes at their dispatch.
-/
namespace Sys2Proof.Machine

section
variable {s : State} {i : Fin 64} {c : Cmd}

theorem listAt_reads (s : State) (c : Cmd) (l : List (Nat × Nat × Nat)) : listAt (afterReads s c l) = listAt s := by
  funext a size n
  simp only [listAt, readMem_reads]

theorem listAt_dispatched (s : State) (c : Cmd) : listAt (dispatchCmd s c) = listAt s := by
  funext a size n
  simp only [listAt, readMem_dispatched]

/-- The reads of a list that meet no lasting error go on. -/
theorem settled_listRead {d : State} {l : List (Nat × Nat × Nat)} (mem : d.mem = s.mem) (clean : readsClean s c l = true)
    (k : State → Out) : readsWell d (beginCmd s c) l k = k (afterReads d c l) := by
  rw [readsWell_ok (c := beginCmd s c) ((readsClean_congr mem rfl rfl rfl _).trans clean), afterReads_beginCmd]

theorem execPrefixHash_runs {ds : List (List Byte)} (hds : ds = listAt s (c.par 0 8) 32 (c.par 16 2))
    (h : runs s i (opSel 0x0400) c = true) (hn : c.hdr.paramLen = 3)
    (ok : (decide (c.par 0 8 % 32 = 0) && decide (1 ≤ c.par 16 2) && decide (c.par 16 2 ≤ 4096) &&
      [64, 128, 256, 512, 1024].contains (c.par 18 2) && decide (c.par 20 4 = 0)) = true)
    (range : rangeRead (c.par 0 8) (32 * c.par 16 2) = true) (clean : readsClean s c (listReads (c.par 0 8) 32 (c.par 16 2)) = true)
    (prompts : ds.all promptOk = true) (reach : ds.all (promptReach (c.par 18 2)) = true) {l : List (Nat × Nat × Nat)}
    (hl : l = (ds.zipIdx).flatMap (fun d => promptReads (c.par 18 2) d.2 d.1)) (clean2 : readsClean s c l = true) :
    exec (.prefixHash i) s = .next (settle (setWork
      (ds.foldl (fun u x => hashPrompt u (beginCmd s c) (c.par 18 2) (BitVec.ofNat 64 (c.par 8 8)) x)
        (afterReads (afterReads (dispatchCmd s c) c (listReads (c.par 0 8) 32 (c.par 16 2))) c l)) c.id
      (.done (ds.foldl (fun m x => m + fieldLe x 24 4 / c.par 18 2) 0)))) := by
  have mem : (afterReads (dispatchCmd s c) c (listReads (c.par 0 8) 32 (c.par 16 2))).mem = s.mem :=
    (afterReads_mem _ _ _).trans (dispatchCmd_mem s c)
  show execPrefixHash i s = _
  rw [execPrefixHash, issue_runs h]
  simp only [beginCmd_par]
  refine (settled_checked hn ok _).trans ?_
  rw [reaches_ok range, settled_listRead (dispatchCmd_mem s c) clean]
  rw [listAt_reads, listAt_dispatched, ← hds]
  refine (settled_checked hn prompts _).trans ?_
  rw [reaches_ok reach, ← hl, settled_listRead mem clean2]
  rfl

theorem execPrefixLookup_runs {q : LookArg} {ds : List (List Byte)} (hds : ds = listAt s (c.par 0 8) 32 (c.par 8 2))
    (hq : q = { acquire := bitOf (c.par 10 1) 0, localOnly := bitOf (c.par 10 1) 1, layerFirst := c.par 12 2
                layerCount := c.par 14 2 })
    (h : runs s i (opSel 0x0401) c = true) (hn : c.hdr.paramLen = 2)
    (ok : (decide (c.par 0 8 % 32 = 0) && decide (1 ≤ c.par 8 2) && decide (c.par 8 2 ≤ 4096) && decide (c.par 10 1 < 4) &&
      decide (c.par 11 1 = 0) && decide (q.layerFirst < 4096) && decide (1 ≤ q.layerCount) &&
      decide (q.layerCount ≤ 1024)) = true)
    (range : rangeRead (c.par 0 8) (32 * c.par 8 2) = true) (clean : readsClean s c (listReads (c.par 0 8) 32 (c.par 8 2)) = true)
    (prompts : ds.all (fun x => decide (fieldLe x 8 8 % 16 = 0) && decide (fieldLe x 20 12 = 0)) = true)
    {r : State × Nat × Option DirStop}
    (hr : r = lookAll ds.zipIdx (afterReads (dispatchCmd s c) c (listReads (c.par 0 8) 32 (c.par 8 2))) (beginCmd s c) q 0)
    (goes : r.2.2 = none) :
    exec (.prefixLookup i) s = .next (settle (setWork r.1 c.id
      (.done (r.2.1 + (if q.acquire then r.2.1 else 0) * 2 ^ 32)))) := by
  subst hq
  show execPrefixLookup i s = _
  rw [execPrefixLookup, issue_runs h]
  simp only [beginCmd_par]
  refine (settled_checked hn ok _).trans ?_
  rw [reaches_ok range, settled_listRead (dispatchCmd_mem s c) clean]
  rw [listAt_reads, listAt_dispatched, ← hds]
  refine (settled_checked hn prompts _).trans ?_
  rw [← hr, goes]
  rfl

theorem execPrefixRelease_runs {ds : List (List Byte)} (hds : ds = listAt s (c.par 0 8) 24 (c.par 8 4))
    (h : runs s i (opSel 0x0403) c = true) (hn : c.hdr.paramLen = 2)
    (ok : (decide (c.par 0 8 % 8 = 0) && decide (1 ≤ c.par 8 4) && decide (c.par 8 4 ≤ 65536) && decide (c.par 12 1 < 2) &&
      decide (c.par 13 3 = 0)) = true)
    (range : rangeRead (c.par 0 8) (24 * c.par 8 4) = true) (clean : readsClean s c (listReads (c.par 0 8) 24 (c.par 8 4)) = true)
    (records : ds.all (fun x => decide (fieldLe x 4 4 = 0)) = true) {r : State × (Nat × Nat × Nat) × Option DirStop}
    (hr : r = releaseRecords ((ds.zipIdx).map (fun x => (fieldLe x.1 0 4, fieldLe x.1 8 16, x.2)))
      (afterReads (dispatchCmd s c) c (listReads (c.par 0 8) 24 (c.par 8 4))) (beginCmd s c) (c.par 12 1 = 1) (0, 0, 0))
    (goes : r.2.2 = none) :
    exec (.prefixRelease i) s = .next (settle (setWork r.1 c.id (.done
      (satTo (2 ^ 32 - 1) r.2.1.1 + satTo 65535 r.2.1.2.1 * 2 ^ 32 + satTo 65535 r.2.1.2.2 * 2 ^ 48)))) := by
  show execPrefixRelease i s = _
  rw [execPrefixRelease, issue_runs h]
  dsimp only
  rw [beginCmd_par s c 12 1]
  simp only [beginCmd_par]
  refine (settled_checked hn ok _).trans ?_
  rw [reaches_ok range, settled_listRead (dispatchCmd_mem s c) clean]
  rw [listAt_reads, listAt_dispatched, ← hds]
  refine (settled_checked hn records _).trans ?_
  rw [← hr, goes]
  rfl

/-- The directory clock steps with an insertion in repeatable mode (R263). -/
def insertClock (s : State) (c : Cmd) : State :=
  if s.lock.repeatable then dirStep (dispatchCmd s c) else dispatchCmd s c

theorem insertClock_mem (s : State) (c : Cmd) : (insertClock s c).mem = s.mem := by
  unfold insertClock
  split
  · exact dispatchCmd_mem s c
  · exact dispatchCmd_mem s c

/-- The answer of an insertion whose records have run as `r` says, after the reads `v`. -/
def insertAnswer (v : State) (c : Cmd) (res n : Nat) (r : State × Nat × Nat × Option (DirStop ⊕ Nat)) : Out :=
  match r.2.2.2 with
  | none => doneWriting r.1 c [(res, 16 * n)] (r.2.1 + r.2.2.1 * 2 ^ 32)
  | some (.inl y) => dirEnd r.1 c (some y) (.next r.1)
  | some (.inr k) => .next (failCmd r.1 c.id (localCause v .dirSetFull 0 k))

section
variable {xs : List DirEntry} (hxs : xs = (listAt (insertClock s c) (c.par 0 8) 32 (c.par 16 4)).map entryOf)
  (h : runs s i (opSel 0x0402) c = true) (hn : c.hdr.paramLen = 3)
  (ok : (decide (c.par 0 8 % 32 = 0) && decide (c.par 8 8 % 16 = 0) && decide (1 ≤ c.par 16 4) && decide (c.par 16 4 ≤ 65536) &&
    decide (c.par 20 1 < 2) && decide (c.par 21 3 = 0)) = true)
  (range : rangeRead (c.par 0 8) (32 * c.par 16 4) = true) (place : rangeOk (c.par 8 8) (16 * c.par 16 4) = true)
  (clean : readsClean s c (listReads (c.par 0 8) 32 (c.par 16 4)) = true) (records : xs.all recordOk = true)
  {r : State × Nat × Nat × Option (DirStop ⊕ Nat)}
  (hr : r = insertRecords xs.zipIdx (afterReads (insertClock s c) c (listReads (c.par 0 8) 32 (c.par 16 4))) (beginCmd s c)
    (c.par 20 1 = 1) (c.par 8 8) 0 0)
include hxs h hn ok range place clean records hr

/-- A well-formed insertion ends as its records have it. -/
theorem execPrefixInsert_runs : exec (.prefixInsert i) s = settled (insertAnswer
    (afterReads (insertClock s c) c (listReads (c.par 0 8) 32 (c.par 16 4))) (beginCmd s c) (c.par 8 8) (c.par 16 4) r) := by
  show execPrefixInsert i s = _
  rw [execPrefixInsert, issue_runs h]
  dsimp only
  rw [beginCmd_par s c 20 1]
  simp only [beginCmd_par, dispatchCmd_lock]
  refine (settled_checked hn ok _).trans ?_
  rw [reaches_ok range, reaches_ok place, ← insertClock, settled_listRead (insertClock_mem s c) clean, listAt_reads, ← hxs]
  refine (settled_checked hn records _).trans ?_
  rw [← hr]
  rfl

theorem execPrefixInsert_done (goes : r.2.2.2 = none) : exec (.prefixInsert i) s = .next (settle (modCmd r.1 c.id (fun k => { k with
    work := .done (r.2.1 + r.2.2.1 * 2 ^ 32), outs := [(c.par 8 8, 16 * c.par 16 4)] }))) := by
  rw [execPrefixInsert_runs hxs h hn ok range place clean records hr, insertAnswer, goes]
  rfl

theorem execPrefixInsert_full {k : Nat} (full : r.2.2.2 = some (.inr k)) :
    exec (.prefixInsert i) s = .next (settle (failCmd r.1 c.id (localCause s .dirSetFull 0 k))) := by
  have chip : (afterReads (insertClock s c) c (listReads (c.par 0 8) 32 (c.par 16 4))).rcd = s.rcd := by
    rw [afterReads_rcd, insertClock]
    split
    · exact dispatchCmd_rcd s c
    · exact dispatchCmd_rcd s c
  have cause : localCause (afterReads (insertClock s c) c (listReads (c.par 0 8) 32 (c.par 16 4))) .dirSetFull 0 k =
      localCause s .dirSetFull 0 k := by rw [localCause, localCause, chip]
  rw [execPrefixInsert_runs hxs h hn ok range place clean records hr, insertAnswer, full]
  dsimp only
  rw [cause]
  rfl

end
end
end Sys2Proof.Machine

open Sys2Proof Sys2Proof.Machine

/-- Settles O54, row by row: the checks of a row and its reads are met, so its records run; and each record's step on the table
is the single step that `lookupFollows`, `insertFollows` and `releaseFollows` describe. -/
theorem prefixCommandsRunInListOrder : Obligations.PrefixCommandsRunInListOrder := by
  unfold Obligations.PrefixCommandsRunInListOrder
  intro s i c
  refine ⟨?hash, ?lookup, ?insert, ?release, fun laid => ⟨fun u q h => lookupFollows_all laid u c q h,
    fun u acq b => insertFollows_all laid u acq b, fun u inval e h => releaseFollows_all laid u inval e h⟩⟩
  case hash =>
    intro n b ds h hn align some most block zero range clean prompts reach clean2
    refine execPrefixHash_runs rfl h hn ?_ range clean prompts reach rfl clean2
    simp only [Bool.and_eq_true, decide_eq_true_eq]
    exact ⟨⟨⟨⟨align, some⟩, most⟩, block⟩, zero⟩
  case lookup =>
    intro n f q ds h hn align some most flags zero first layers count range clean prompts r goes
    refine execPrefixLookup_runs rfl rfl h hn ?_ range clean prompts rfl goes
    simp only [Bool.and_eq_true, decide_eq_true_eq]
    exact ⟨⟨⟨⟨⟨⟨⟨align, some⟩, most⟩, flags⟩, zero⟩, first⟩, layers⟩, count⟩
  case insert =>
    intro res n f u xs h hn align place some most flags zero range inRange clean records r
    have ok : (decide (c.par 0 8 % 32 = 0) && decide (c.par 8 8 % 16 = 0) && decide (1 ≤ c.par 16 4) &&
        decide (c.par 16 4 ≤ 65536) && decide (c.par 20 1 < 2) && decide (c.par 21 3 = 0)) = true := by
      simp only [Bool.and_eq_true, decide_eq_true_eq]
      exact ⟨⟨⟨⟨⟨align, place⟩, some⟩, most⟩, flags⟩, zero⟩
    exact ⟨fun goes => execPrefixInsert_done rfl h hn ok range inRange clean records rfl goes,
      fun k full => execPrefixInsert_full rfl h hn ok range inRange clean records rfl full⟩
  case release =>
    intro n m ds h hn align some most mode zero range clean records r goes
    refine execPrefixRelease_runs rfl h hn ?_ range clean records rfl goes
    simp only [Bool.and_eq_true, decide_eq_true_eq]
    exact ⟨⟨⟨⟨align, some⟩, most⟩, mode⟩, zero⟩
end

section
/-!
SUPPORT. What the array engine keeps: a predicate on states that is closed under the few changes that its commands' work makes.
-/
namespace Sys2Proof.Machine

/-- Two states that differ in memory, slots, clocks, ports and the like at most: not in commands, cores, sluices, channels, queue
pairs, the network's registers, the log or the accounts of the pumping station. -/
structure SameUnits (s t : State) : Prop where
  cmds : t.cmds = s.cmds
  cores : t.cores = s.cores
  sluices : t.sluices = s.sluices
  channels : t.channels = s.channels
  qps : t.qps = s.qps
  net : t.net = s.net
  err : t.err = s.err
  pump : t.pump = s.pump

/-! ## Outcomes and states that there may be -/

/-- Where the outcome is a next state, a predicate holds of it. -/
def OutHolds (P : State → Prop) (o : Out) : Prop := ∀ t, o = .next t → P t

/-- Where there is a state, a predicate holds of it. -/
def OptHolds (P : State → Prop) (o : Option State) : Prop := ∀ t, o = some t → P t

section
variable {P : State → Prop} {s : State}

theorem out_next (hs : P s) : OutHolds P (.next s) := fun t e => by cases e; exact hs

theorem out_ite {p : Prop} [Decidable p] {o q : Out} (ho : OutHolds P o) (hq : OutHolds P q) : OutHolds P (if p then o else q) := by
  split
  · exact ho
  · exact hq

theorem opt_none : OptHolds P none := fun _ e => nomatch e

theorem opt_some (hs : P s) : OptHolds P (some s) := fun t e => by cases e; exact hs

theorem opt_getD {o : Option State} (hs : P s) (ho : OptHolds P o) : P (o.getD s) := by
  cases o with
  | none => exact hs
  | some t => exact ho t rfl

theorem opt_findSome {α : Type} {l : List α} {f : α → Option State} (hf : ∀ a, OptHolds P (f a)) : OptHolds P (l.findSome? f) :=
  fun t e => by
    obtain ⟨a, -, found⟩ := List.exists_of_findSome?_eq_some e
    exact hf a t found

theorem opt_map {α : Type} {o : Option α} {f : α → State} (hf : ∀ a, P (f a)) : OptHolds P (o.map f) := fun t e => by
  obtain ⟨a, -, rfl⟩ := Option.map_eq_some_iff.1 e
  exact hf a

theorem opt_orElse {o : Option State} {f : Unit → Option State} (ho : OptHolds P o) (hf : OptHolds P (f ())) :
    OptHolds P (o.orElse f) := by
  cases o with
  | none => exact hf
  | some t => exact ho

end

/-! ## The predicates -/

/-- A predicate that the network keeps, and that survives what the work of a command changes: the contents of the cores, which stay
in or out of service, memory, slots, and the clock. -/
structure UnitsClosed (P : State → Prop) : Prop extends NetClosed P where
  same : ∀ {s t}, P s → SameUnits s t → P t
  core : ∀ {s c x}, x.st = (getCore s c).st → P s → P (putCore s c x)
  cores : ∀ {s t} {f : Nat × Core → Core}, (∀ p, (f p).st = p.2.st) → t.cores = s.cores.map (fun p => (p.1, f p)) →
    P s → SameUnits { s with cores := t.cores } t → P t

/-- Such a predicate that survives a change of an array command's work too. -/
structure ArrayClosed (P : State → Prop) : Prop extends UnitsClosed P where
  array : ∀ {s id w}, P s → P (setArray s id w)

theorem closed_foldl {P : State → Prop} (_ : UnitsClosed P) {α : Type} {f : State → α → State} {l : List α} {s : State} (hs : P s)
    (step : ∀ s a, P s → P (f s a)) : P (l.foldl f s) := foldl_closed step l hs

section
variable {P : State → Prop} (h : UnitsClosed P) {s : State} (hs : P s)
include h hs

/-! ## Memory and its clock -/

theorem closed_writeMem {a : Nat} {b : List Byte} : P (writeMem s a b) := by
  have put (x : Memory) : P { s with mem := x } := h.same hs ⟨rfl, rfl, rfl, rfl, rfl, rfl, rfl, rfl⟩
  unfold writeMem
  exact closed_ite (put _) (closed_foldl h (put _) (fun _ _ hs => h.log _ _ _ _ _ _ _ _ hs))

theorem closed_writeLe {a n v : Nat} : P (writeLe s a n v) := closed_writeMem h hs

theorem closed_writeElem {fmt a i c : Nat} : P (writeElem s fmt a i c) := by
  unfold writeElem
  split
  · exact closed_writeLe h hs
  · exact closed_writeLe h hs
  · exact closed_writeLe h hs

theorem closed_advance {n : Nat} : P (advance s n) := h.same hs ⟨rfl, rfl, rfl, rfl, rfl, rfl, rfl, rfl⟩

theorem closed_timingEvent {k : TimingRow} {n : Nat} : P (timingEvent s k n) := by
  unfold timingEvent
  split
  · exact h.same hs ⟨rfl, rfl, rfl, rfl, rfl, rfl, rfl, rfl⟩
  · exact hs

theorem closed_transmit {p : Nat} : P (transmit s p) := h.txRan _ _ hs

theorem closed_applyWeir {b : List Byte} : P (applyWeir s b) := h.same hs ⟨rfl, rfl, rfl, rfl, rfl, rfl, rfl, rfl⟩

theorem closed_weirServe : P (weirServe s) := by
  have served (x : Weir) : P { s with weir := x } := h.same hs ⟨rfl, rfl, rfl, rfl, rfl, rfl, rfl, rfl⟩
  unfold weirServe
  refine closed_ite hs (closed_foldl h (closed_foldl h (served _) (fun _ w hs => ?_)) (fun _ _ hs => closed_transmit h hs))
  exact h.cmd (fun c => ⟨rfl, fun e => e, fun _ => rfl⟩) (closed_applyWeir h hs)

theorem closed_weirBoundary : P (weirBoundary s) := closed_weirServe h (closed_advance h hs)

theorem closed_weirCount {k n : Nat} : P (weirCount s k n) := h.same hs ⟨rfl, rfl, rfl, rfl, rfl, rfl, rfl, rfl⟩

theorem closed_spendCredit : P (spendCredit s) := h.same hs ⟨rfl, rfl, rfl, rfl, rfl, rfl, rfl, rfl⟩

theorem closed_earnCredit : P (earnCredit s) := h.same hs ⟨rfl, rfl, rfl, rfl, rfl, rfl, rfl, rfl⟩

theorem closed_ddrIssue {k : DdrClass} {u : Bool} {f m : Nat} : P (ddrIssue k u f s m) := by
  induction f generalizing s m with
  | zero => exact hs
  | succ f ih =>
    unfold ddrIssue
    exact closed_ite hs (closed_ite (ih (closed_spendCredit h hs)) (closed_ite (ih (closed_weirCount h hs))
      (closed_ite (ih (closed_spendCredit h (closed_earnCredit h hs))) (ih (closed_weirBoundary h hs)))))

theorem closed_earnDue : P (earnDue s) := by
  unfold earnDue
  exact closed_ite (h.same hs ⟨rfl, rfl, rfl, rfl, rfl, rfl, rfl, rfl⟩) hs

theorem closed_ddrTake {k : DdrClass} {u : Bool} {a n : Nat} : P (ddrTake s k u a n) :=
  closed_ddrIssue h (closed_ite (closed_earnDue h hs) hs)

theorem closed_takeReads {u : Bool} {l : List (Nat × Nat)} : P (takeReads s u l) := closed_foldl h hs (fun _ _ hs => closed_ddrTake h hs)

/-! ## Slots -/

theorem closed_putSlot {n : Nat} {x : Slot} : P (putSlot s n x) := h.same hs ⟨rfl, rfl, rfl, rfl, rfl, rfl, rfl, rfl⟩

theorem closed_loseSlot {n : Nat} : P (loseSlot s n) := h.same hs ⟨rfl, rfl, rfl, rfl, rfl, rfl, rfl, rfl⟩

theorem closed_allotSlots {core idx : Nat} {id : CmdId} {ks : List Nat} : P (allotSlots s core id idx ks) := closed_foldl h hs (fun _ _ hs => closed_putSlot h (closed_loseSlot h hs))

theorem closed_moveSlots {core : Nat} {ks : List Nat} {st : SlotState} {c : Option CmdId} : P (moveSlots s core ks st c) := closed_foldl h hs (fun _ _ hs => closed_putSlot h hs)

theorem closed_freeSlots {core : Nat} {ks : List Nat} : P (freeSlots s core ks) := closed_foldl h hs (fun _ _ hs => closed_putSlot h hs)

/-! ## Commands -/

theorem closed_progress {id : CmdId} : P (progress s id) := h.cmd (fun _ => ⟨rfl, fun e => e, fun e => e⟩) hs

theorem closed_setWork {id : CmdId} {w : Work} (plain : w.isArray = false) : P (setWork s id w) :=
  h.cmd (fun _ => ⟨rfl, fun e => e, fun _ => plain⟩) hs

theorem closed_modItem {id : CmdId} {idx : Nat} {f : Item → Item} : P (modItem s id idx f) := by
  refine h.cmd (fun c => ⟨rfl, fun e => e, fun plain => ?_⟩) hs
  dsimp only
  split
  next array =>
    rw [array] at plain
    cases plain
  · exact plain

end
end Sys2Proof.Machine
end

section
/-!
SUPPORT. Commands and their items end, outputs are written and logged, values are handed off: a closed predicate stays.
-/
namespace Sys2Proof.Machine

section
variable {P : State → Prop} (h : NetClosed P) {s : State} (hs : P s)
include h hs

/-! ## Commands end -/

theorem closed_failCmd {id : CmdId} {k : Cause} : P (failCmd s id k) := h.failed id k hs

theorem closed_postAll {ids : List CmdId} {k : Cause} : P (postAll s ids k) := by
  unfold postAll
  exact foldl_closed (P := P) (fun _ _ hs => closed_failCmd h hs) _ hs

theorem closed_endDiverged {id : CmdId} {tile : Nat} : P (endDiverged s id tile) := by
  unfold endDiverged
  split
  · exact hs
  · exact h.posted _ _ (fun _ _ _ hs => h.log _ _ _ _ _ _ _ _ hs) (h.lock _ hs)

theorem closed_meetDigests {own theirs : Digest} : P (meetDigests s own theirs) := by
  unfold meetDigests
  dsimp only
  split
  · exact h.lock _ hs
  · split
    · split
      · exact closed_endDiverged h (h.routed _ (h.lock _ hs))
      · exact h.lock _ hs
    · exact h.lock _ hs

theorem closed_ownDigest {d : Digest} : P (ownDigest s d) := by
  have sent := h.routed (partnerPacket s 0x27 (digestName d ++ leBytes 8 d.value.toNat)) hs
  unfold ownDigest
  dsimp only
  split
  · exact closed_meetDigests h (h.lock _ sent)
  · exact h.lock _ sent

theorem closed_cmdDigest {id : CmdId} {st : Status} {detail : Nat} : P (cmdDigest s id st detail) := by
  unfold cmdDigest
  split
  · exact hs
  · refine closed_ite (closed_ownDigest h ?_) hs
    exact h.cmd (fun _ => ⟨rfl, fun e => e, fun e => e⟩) hs

end

section
variable {P : State → Prop} (h : UnitsClosed P) {s : State} (hs : P s)
include h hs

theorem closed_releaseThreads {id : CmdId} : P (releaseThreads s id) := by
  unfold releaseThreads
  split
  · exact hs
  · split
    · exact h.cores (s := s) (fun p => by dsimp only; split <;> rfl) rfl hs ⟨rfl, rfl, rfl, rfl, rfl, rfl, rfl, rfl⟩
    · exact hs

theorem closed_freeHeld {id : CmdId} {x : Item} : P (freeHeld s id x) := h.same hs ⟨rfl, rfl, rfl, rfl, rfl, rfl, rfl, rfl⟩

omit h in
theorem closed_itemDone (h : ArrayClosed P) {id : CmdId} {idx : Nat} : P (itemDone s id idx) := by
  have units := h.toUnitsClosed
  unfold itemDone
  split
  · exact hs
  · dsimp only
    refine closed_ite (closed_ownDigest units.toNetClosed ?done) ?done
    exact closed_releaseThreads units (closed_progress units (h.array (closed_freeHeld units hs)))

/-! ## Outputs -/

theorem closed_writeRun {u : Bool} {fmt a sc c0 : Nat} {codes scales : List Nat} :
    P (writeRun s u fmt a sc c0 codes scales) :=
  closed_foldl h (closed_foldl h (closed_ddrTake h (closed_ddrTake h hs)) (fun _ _ hs => closed_writeElem h hs))
    (fun _ _ hs => closed_writeLe h hs)

theorem closed_logOut {id : CmdId} {idx key : Nat} {b : List Byte} : P (logOut s id idx key b) := by
  unfold logOut
  split
  · exact hs
  · exact closed_ite (closed_modItem h hs) hs

theorem closed_logRun {id : CmdId} {idx kind bw row a c0 fmt : Nat} {codes scales : List Nat} :
    P (logRun s id idx kind bw row a c0 fmt codes scales) := closed_foldl h hs (fun _ _ hs => closed_logOut h hs)

theorem closed_writeProduct {c : Cmd} {w : ArrayWork} {x : Item} {c0 n : Nat} : P (writeProduct s c w x c0 n) :=
  closed_foldl h hs (fun _ _ hs => closed_logRun h (closed_writeRun h hs))

theorem closed_spillRun {u : Bool} {fmt a rows width row c0 : Nat} {codes scales : List Nat} :
    P (spillRun s u fmt a rows width row c0 codes scales) := closed_writeRun h hs

theorem closed_writeRcol {u : Bool} {id : CmdId} {x : Item} {e : StageEnv} {bw : Nat} {ep : Epi} {outs : List (RowIn × RowOut)} :
    P (writeRcol s u id x e bw ep outs) :=
  closed_foldl h hs (fun _ _ hs => closed_logRun h (closed_writeMem h (closed_ddrTake h hs)))

theorem closed_sendWrite {k : Packet} {o : Owner} : P (sendWrite s k o) := h.passedWrite k o none hs

theorem closed_sendPeer {id : CmdId} {x : Item} {e : StageEnv} {bw c0 : Nat} {outs : List (RowIn × RowOut)} :
    P (sendPeer s id x e bw c0 outs) := by
  refine closed_foldl h hs (fun _ _ hs => closed_foldl h (closed_foldl h hs (fun _ _ hs => closed_logRun h hs)) (fun _ _ hs => ?_))
  exact closed_ite hs (closed_sendWrite h hs)

/-! ## Hand-offs -/

theorem closed_putChannel {n : Nat} {x : Channel} : P (putChannel s n x) := h.channel n x hs

theorem closed_takeBuffer {c : Channel} {b : Nat} : P (takeBuffer s c b) := closed_ddrTake h (closed_writeMem h hs)

theorem closed_handOff {ch part head i0 p layer : Nat} {codes scales : List Nat} {t : State}
    (taken : handOff s ch part head i0 p layer codes scales = .taken t) : P t := by
  unfold handOff at taken
  dsimp only at taken
  split at taken
  · cases taken
    exact hs
  · split at taken
    · cases taken
      exact hs
    · split at taken
      · cases taken
        exact closed_putChannel h hs
      · split at taken
        · cases taken
        · have := Accept.taken.inj taken
          subst this
          refine closed_ite ?listed (closed_ddrTake h ?listed)
          refine closed_ddrTake h (closed_putChannel h (closed_ite (closed_writeLe h (closed_ddrTake h ?written)) ?written))
          exact closed_foldl h (closed_foldl h (closed_ite (closed_takeBuffer h hs) hs) (fun _ _ hs => closed_writeElem h hs))
            (fun _ _ hs => closed_writeLe h hs)

theorem closed_noteStall {ch : Nat} {who : CmdId × Nat} : P (noteStall s ch who) := closed_ite hs (closed_putChannel h hs)

theorem closed_endStall {ch : Nat} {who : CmdId × Nat} : P (endStall s ch who) := closed_ite (closed_putChannel h hs) hs

theorem closed_deliverRuns {who : CmdId × Nat} {seed : W64} {l : List HandRun} {k : Nat} :
    P (deliverRuns s who seed l k).1 := by
  induction l generalizing s k with
  | nil => exact hs
  | cons x l ih =>
    unfold deliverRuns
    dsimp only
    split
    next taken => exact ih (closed_endStall h (closed_handOff h hs taken))
    · exact closed_noteStall h hs

end
end Sys2Proof.Machine
end

section
/-!
SUPPORT. The vector unit's blocks and the arrays' commits leave a closed predicate as it is.
-/
namespace Sys2Proof.Machine

section
variable {P : State → Prop} (h : UnitsClosed P) {s : State} (hs : P s)
include h hs

/-! ## The vector unit's queue -/

theorem closed_pushEpi {core : Nat} {es : List Epi} : P (pushEpi s core es) := h.core rfl hs

theorem closed_commitEpi {core : Nat} {e : Epi} : P (commitEpi s core e) := h.core rfl hs

theorem closed_modHead {core : Nat} {f : Epi → Epi} : P (modHead s core f) := h.core rfl hs

theorem closed_popEpi {core : Nat} : P (popEpi s core) := h.core rfl hs

theorem closed_headUp {core : Nat} : P (headUp s core) := by
  unfold headUp
  dsimp only
  split
  · exact hs
  · exact h.core rfl hs

theorem closed_queueEpi {c : Cmd} {w : ArrayWork} {x : Item} {n : Nat} : P (queueEpi s c w x n) :=
  closed_ite (closed_commitEpi h (closed_modItem h hs)) (closed_modItem h hs)

/-! ## Programs -/

theorem closed_putResult {c : Cmd} {w : ArrayWork} {x : Item} {e : StageEnv} {i : RowIn} {o : RowOut} :
    P (putResult s c w x e i o) := by
  unfold putResult
  dsimp only
  split
  · exact closed_ite (closed_spillRun h hs) (closed_modItem h hs)
  · exact closed_logRun h (closed_writeRun h hs)
  · refine closed_ite (closed_logRun h (closed_writeRun h ?held)) ?held
    refine closed_ite ?hand (closed_ite (closed_spillRun h ?hand) (closed_modItem h ?hand))
    exact closed_ite hs (closed_ite (closed_spillRun h hs) (closed_modItem h hs))

theorem closed_claimArea {core : Nat} {c : Cmd} {w : ArrayWork} {x : Item} {k : EpiKind} {t : State}
    (claimed : claimArea s core c w x k = some t) : P t := by
  unfold claimArea at claimed
  dsimp only at claimed
  split at claimed
  · cases claimed
    exact hs
  · split at claimed
    · split at claimed
      · cases claimed
      · cases claimed
        exact closed_moveSlots h (closed_modItem h (closed_allotSlots h hs))
    · split at claimed
      · cases claimed
        exact closed_moveSlots h hs
      · cases claimed

omit h in
theorem closed_stageEnd (array : ArrayClosed P) {c : Cmd} {w : ArrayWork} {idx : Nat} {e : StageEnv} {ep : Epi} :
    P (stageEnd s c w idx e ep) := by
  have h := array.toUnitsClosed
  have moved {p : Prop} [Decidable p] {core : Nat} {ks : List Nat} {st : SlotState} {f : Item → Item} : P
      (if p then moveSlots (modItem s c.id idx f) core ks st none else modItem s c.id idx f) :=
    closed_ite (closed_moveSlots h (closed_modItem h hs)) (closed_modItem h hs)
  unfold stageEnd
  split
  · exact hs
  · dsimp only
    refine closed_ite moved ?_
    split
    · exact closed_modItem h moved
    · exact closed_ite (closed_modItem h moved) (closed_ite (closed_pushEpi h (closed_modItem h moved)) (closed_itemDone moved array))
    · exact closed_ite (closed_pushEpi h (closed_modItem h moved)) (closed_itemDone moved array)
    · exact closed_itemDone moved array

omit h in
theorem closed_runProgram (array : ArrayClosed P) {core : Nat} {c : Cmd} {w : ArrayWork} {x : Item} {ep : Epi} :
    OutHolds P (runProgram s core c w x ep) := by
  have h := array.toUnitsClosed
  unfold runProgram
  extract_lets e ops rows ins final bw q
  refine out_ite (fun _ e => nomatch e) ?_
  split
  · exact out_next hs
  next s' claimed =>
    have hs' : P s' := closed_claimArea h hs (Option.ite_none_left_eq_some.1 claimed).2
    extract_lets outs runs d waits read given put counted freed col sent wrote noted ran
    have hd : P d.1 := closed_deliverRuns h hs'
    have hgiven : P given := closed_foldl h (closed_takeReads h (closed_popEpi h hd))
      (fun _ _ hs => closed_foldl h hs (fun _ _ hs => closed_foldl h hs (fun _ _ hs => closed_logRun h hs)))
    have hput : P put := closed_ite (closed_foldl h hgiven (fun _ _ hs => closed_putResult h hs)) hgiven
    have hfreed : P freed := by
      unfold freed
      split
      · exact closed_modItem h (closed_modItem h hput)
      · exact closed_modItem h hput
    have hsent : P sent := closed_sendPeer h (closed_writeRcol h hfreed)
    have hran : P ran := closed_progress h (closed_ite (closed_modItem h hsent) hsent)
    refine out_ite (out_next (closed_ite (closed_progress h ?_) ?_)) (out_ite (out_next hran)
      (out_ite (out_next (closed_stageEnd hran array)) (out_next hran)))
    · exact closed_modHead h hd
    · exact closed_modHead h hd

end
end Sys2Proof.Machine
end

section
/-!
SUPPORT. The steps of `ATTEND`, the commits of the arrays, and the passes leave a closed predicate as it is.
-/
namespace Sys2Proof.Machine

section
variable {P : State → Prop} (h : UnitsClosed P) {s : State} (hs : P s)
include h hs

/-! ## `ATTEND` -/

theorem closed_attFeed {c : Cmd} {w : ArrayWork} {idx : Nat} : P (attFeed s c w idx) := by
  unfold attFeed
  split
  · exact hs
  · exact closed_ite (closed_modItem h hs) hs

theorem closed_attNext {c : Cmd} {w : ArrayWork} {idx : Nat} : P (attNext s c w idx) := by
  unfold attNext
  split
  · exact hs
  · exact closed_ite (closed_attFeed h (closed_modItem h hs)) (closed_ite (closed_pushEpi h (closed_modItem h hs)) (closed_attFeed h hs))

theorem closed_putScores {c : Cmd} {w : ArrayWork} {x : Item} {tile : Tile} {b n0 n : Nat} :
    P (putScores s c w x tile b n0 n) := h.core rfl hs

theorem closed_phaseAWrite {c : Cmd} {w : ArrayWork} {x : Item} {q : SeqDesc} : P (phaseAWrite s c w x q) :=
  closed_foldl h hs (fun _ _ hs => closed_foldl h hs (fun _ _ hs =>
    closed_logRun h (closed_logRun h (closed_writeRun h (closed_writeRun h hs)))))

omit h in
theorem closed_attendTurn (h : ArrayClosed P) {id : CmdId} : P (attendTurn s id) := by
  unfold attendTurn
  split
  · exact hs
  · exact closed_ite (h.array hs) hs

theorem closed_runSoftmax {core : Nat} {c : Cmd} {w : ArrayWork} {x : Item} {b : Nat} :
    P (runSoftmax s core c w x b) := by
  unfold runSoftmax
  extract_lets a q ks none' y y' l y'' read done
  have hread : P read := closed_ite hs (closed_takeReads h hs)
  exact closed_ite hs (closed_attNext h (closed_progress h (closed_modItem h (closed_moveSlots h (closed_popEpi h hread)))))

theorem closed_runCombine {core : Nat} {c : Cmd} {w : ArrayWork} {x : Item} {b : Nat} :
    P (runCombine s core c w x b) := closed_attNext h (closed_progress h (closed_modItem h (closed_popEpi h hs)))

theorem closed_writeAttend {c : Cmd} {w : ArrayWork} {x : Item} : P (writeAttend s c w x) :=
  closed_foldl h hs (fun _ _ hs => closed_ite
    (closed_logOut h (closed_writeMem h (closed_ddrTake h (closed_logRun h (closed_writeRun h hs))))) (closed_logRun h (closed_writeRun h hs)))

omit h in
theorem closed_runAttend (array : ArrayClosed P) {core : Nat} {c : Cmd} {w : ArrayWork} {x : Item} {ep : Epi} :
    P (runAttend s core c w x ep) := by
  have h := array.toUnitsClosed
  unfold runAttend
  extract_lets a q seed runs d waits read logged asked
  refine closed_ite hs ?_
  split
  · have hd : P d.1 := closed_deliverRuns h hs
    have hlogged : P logged := closed_foldl h (closed_takeReads h (closed_popEpi h hd)) (fun _ _ hs => closed_logRun h hs)
    exact closed_ite (closed_ite (closed_progress h (closed_modHead h hd)) (closed_modHead h hd))
      (closed_attendTurn (closed_itemDone (closed_phaseAWrite h hlogged) array) array)
  · exact closed_attNext h (closed_progress h (closed_modItem h (closed_takeReads h (closed_popEpi h hs))))
  · exact closed_runSoftmax h hs
  · exact closed_runCombine h hs
  · exact closed_itemDone (closed_writeAttend h (closed_popEpi h hs)) array
  · exact closed_popEpi h hs

/-! ## Steps that follow at once -/

theorem closed_takeStrips {id : CmdId} {idx : Nat} : P (takeStrips s id idx) := by
  unfold takeStrips
  split
  · exact hs
  · refine closed_ite hs ?_
    split
    · exact hs
    · exact closed_modItem h hs

theorem closed_stripNext : OptHolds P (stripNext s) := by
  refine opt_findSome (fun c => ?_)
  split
  · split
    · exact opt_none
    · exact opt_map (fun x => closed_takeStrips h hs)
  · exact opt_none

theorem closed_vacantNext : OptHolds P (vacantNext s) := by
  refine opt_findSome (fun p => ?_)
  split
  · split
    · split
      · exact opt_some (closed_runCombine h hs)
      · split
        · exact opt_none
        · exact opt_some (closed_runSoftmax h hs)
    · exact opt_none
  · exact opt_none

end
end Sys2Proof.Machine
end

section
/-!
SUPPORT. Which cores are in service: the rounds that complete an item, and the loss of a core, leave the others in or out of it.
-/
namespace Sys2Proof.Machine

/-- A map over a table that leaves a field of each entry leaves that of every reading. -/
theorem tabGet_map_field {α β : Type} {f : Nat × α → α} (F : α → β) (hf : ∀ p, F (f p) = F p.2) (l : Tab α) (d : α) (n : Nat) :
    F (tabGet (l.map (fun p => (p.1, f p))) d n) = F (tabGet l d n) := by
  induction l with
  | nil => rfl
  | cons p l ih =>
    unfold tabGet at ih ⊢
    rw [List.map_cons]
    unfold tabFind?
    split
    · exact hf p
    · exact ih

/-- In `t` the same cores are in service as in `r`. -/
def Serves (r t : State) : Prop := ∀ k, coreIn t k = coreIn r k

theorem Serves.refl (s : State) : Serves s s := fun _ => rfl

section
variable {r s : State} (hs : Serves r s)
include hs

theorem serves_of_cores {t : State} (h : t.cores = s.cores) : Serves r t := fun k => by rw [coreIn, getCore, h]; exact hs k

theorem serves_putCore {c : Nat} {x : Core} (h : x.st = (getCore s c).st) : Serves r (putCore s c x) := fun k => by
  by_cases e : k = c
  · rw [← hs, coreIn, e, getCore_putCore_self, h, coreIn]
  · rw [← hs, coreIn, getCore_putCore_ne s x e, coreIn]

/-- Every core changes, and none its state. -/
theorem serves_mapCores {t : State} {f : Nat × Core → Core} (hf : ∀ p, (f p).st = p.2.st)
    (h : t.cores = s.cores.map (fun p => (p.1, f p))) : Serves r t := fun k => by
  rw [← hs, coreIn, getCore, h, tabGet_map_field Core.st hf, coreIn, getCore]

theorem serves_putArray {c a : Nat} {x : TArray} : Serves r (putArray s c a x) := by
  unfold putArray
  exact serves_putCore hs (by split <;> rfl)

end

theorem serves_units (r : State) : UnitsClosed (Serves r) where
  cmd _ hs := hs
  log _ _ _ _ _ _ _ _ hs := serves_of_cores hs (logFault_cores _ _ _ _ _ _ _ _ _)
  net _ _ _ _ hs := hs
  event _ _ hs := serves_of_cores hs (addEvent_cores _ _ _)
  channel _ _ hs := hs
  qp _ _ hs := hs
  lock _ hs := hs
  port _ _ _ hs := hs
  freed _ _ _ hs := hs
  weir _ hs := hs
  wire _ hs := hs
  same hs e := serves_of_cores hs e.cores
  core e hs := serves_putCore hs e
  cores hf e hs _ := serves_mapCores hs hf e

theorem serves_array (r : State) : ArrayClosed (Serves r) where
  toUnitsClosed := serves_units r
  array hs := hs

section
variable {r s : State} (hs : Serves r s)
include hs

/-! ## Sluices -/

theorem serves_startJob {n : Nat} {j : TileJob} : Serves r (startJob s n j) :=
  closed_foldl (serves_units r) (s := allotSlots s j.core j.tag.cmd j.tag.item j.slots) (closed_allotSlots (serves_units r) hs) (fun _ _ hs => hs)

theorem serves_sluiceNext {n : Nat} : Serves r (sluiceNext s n) := by
  unfold sluiceNext
  dsimp only
  split
  · exact hs
  · exact hs

theorem serves_putSlot {n : Nat} {x : Slot} : Serves r (putSlot s n x) := hs

theorem serves_putSluice {n : Nat} {x : Sluice} : Serves r (putSluice s n x) := hs

theorem serves_progress {id : CmdId} : Serves r (progress s id) := hs

theorem serves_jobSegment {n : Nat} {c : SlChain} {j : TileJob} : Serves r (jobSegment s n c j) := by
  unfold jobSegment
  dsimp only
  split
  · exact hs
  · split
    · refine serves_putSluice (closed_progress (serves_units r) ?_)
      split
      · exact closed_takeReads (serves_units r) hs
      · exact closed_putSlot (serves_units r) (closed_takeReads (serves_units r) hs)
    · refine closed_moveSlots (serves_units r) (serves_sluiceNext (closed_progress (serves_units r) ?_))
      split
      · exact closed_takeReads (serves_units r) hs
      · exact closed_putSlot (serves_units r) (closed_takeReads (serves_units r) hs)

/-! ## Commits -/

theorem serves_markCapEvent {core : Nat} : Serves r (markCapEvent s core) := hs

theorem serves_takeSlot {core arr : Nat} : Serves r (takeSlot s core arr) := by
  unfold takeSlot
  dsimp only
  split
  · exact serves_putArray hs
  · exact closed_timingEvent (serves_units r) (serves_markCapEvent (serves_putArray hs))

theorem serves_readStream {c : Cmd} {w : ArrayWork} {x : Item} {core pos : Nat} {rs : List (Nat × Nat)} :
    Serves r (readStream s c w x core pos rs) := closed_ite (closed_takeReads (serves_units r) ((serves_array r).array hs)) hs

theorem serves_endClaim {w : ArrayWork} {id : CmdId} {x : Item} {l : LoadSpec} {rest : List PassSpec} :
    Serves r (endClaim s w id x l rest) :=
  closed_ite (closed_ite hs (closed_freeSlots (serves_units r) hs)) (closed_ite (closed_moveSlots (serves_units r) hs) (closed_ite hs
    (closed_modItem (serves_units r) (closed_freeSlots (serves_units r) hs))))

theorem serves_gemmOut {c : Cmd} {w : ArrayWork} {x : Item} {p : Prod} {n : Nat} : Serves r (gemmOut s c w x p n) := by
  unfold gemmOut
  extract_lets low high written queued
  have hw : Serves r written := closed_ite (closed_writeProduct (serves_units r) hs) hs
  exact closed_ite (closed_itemDone (closed_modItem (serves_units r) hw) (serves_array r)) (closed_modItem (serves_units r) hw)

theorem serves_writeBlock {core arr : Nat} {c : Cmd} {w : ArrayWork} {x : Item} {q : Pass} {t : Tile} :
    Serves r (writeBlock s core arr c w x q t) :=
  serves_putArray (closed_modItem (serves_units r) (closed_ite (closed_putScores (serves_units r) hs) hs))

theorem serves_keepBlock {core arr : Nat} {w : ArrayWork} {q : Pass} : Serves r (keepBlock s core arr w q) := by
  unfold keepBlock
  dsimp only
  split
  · exact hs
  · exact closed_ite hs (serves_putCore hs rfl)

theorem serves_blockDone {core arr : Nat} {q : Pass} {n : Nat} {halt : Bool} : Serves r (blockDone s core arr q n halt) :=
  serves_putArray hs

theorem serves_commitProduct {core arr : Nat} {c : Cmd} {w : ArrayWork} {x : Item} {q : Pass} {t : Tile} {halt : Bool} :
    Serves r (commitProduct s core arr c w x q t halt) := by
  unfold commitProduct
  extract_lets tr b read init kept rest moved done freed ran
  have hdone : Serves r done :=
    serves_blockDone (closed_modItem (serves_units r) (serves_keepBlock (serves_writeBlock (closed_takeReads (serves_units r) (serves_readStream hs)))))
  have hran : Serves r ran := closed_progress (serves_units r) (closed_ite (serves_endClaim hdone) hdone)
  refine closed_ite hran ?_
  split
  · exact hran
  · exact closed_ite (closed_queueEpi (serves_units r) hran) (serves_gemmOut hran)

theorem serves_commitAttend {core arr : Nat} {c : Cmd} {w : ArrayWork} {x : Item} {q : Pass} {t : Tile} {halt : Bool} :
    Serves r (commitAttend s core arr c w x q t halt) := by
  unfold commitAttend
  extract_lets prob b read kept done rest moved freed queued
  have hread : Serves r read := closed_ite (closed_takeReads (serves_units r) hs) hs
  have hdone : Serves r done := closed_progress (serves_units r) (serves_blockDone (serves_keepBlock (serves_writeBlock hread)))
  exact closed_ite (closed_attFeed (serves_units r) (closed_commitEpi (serves_units r) (serves_endClaim (closed_modItem (serves_units r) hdone)))) hdone

theorem serves_commitBlock {core arr : Nat} : Serves r (commitBlock s core arr) := by
  unfold commitBlock
  split
  · exact hs
  · exact closed_ite hs (closed_ite (serves_commitAttend (serves_takeSlot hs)) (serves_commitProduct (serves_takeSlot hs)))

/-! ## Passes -/

theorem serves_putPass {core arr : Nat} {id : CmdId} {idx : Nat} {p : PassSpec} {n : Nat} :
    Serves r (putPass s core arr id idx p n) := serves_putArray hs

theorem serves_startPass {core arr : Nat} {id : CmdId} : Serves r (startPass s core arr id) := by
  unfold startPass
  split
  · exact hs
  · dsimp only
    split
    · exact serves_putPass (serves_putPass hs)
    · exact serves_putPass hs

theorem serves_loadTile {core arr : Nat} {id : CmdId} : Serves r (loadTile s core arr id) := by
  unfold loadTile
  split
  · exact hs
  · exact closed_ite (closed_moveSlots (serves_units r) (serves_putArray hs)) hs

theorem serves_resumeWatch {id : CmdId} : Serves r (resumeWatch s id) := closed_ite hs hs

theorem serves_markRunning {core : Nat} {q : Pass} : Serves r (markRunning s core q) := closed_modHead (serves_units r) hs

theorem serves_stopPass {core arr : Nat} : Serves r (stopPass s core arr) := by
  unfold stopPass
  dsimp only
  split
  · exact hs
  next q _ => exact serves_of_cores (s := markRunning _ core q) (serves_markRunning (serves_putArray hs)) rfl

theorem serves_preemptArray {core arr : Nat} : Serves r (preemptArray s core arr) := by
  unfold preemptArray
  split
  · exact hs
  · refine closed_ite hs ?_
    split
    · exact closed_ite (serves_stopPass (serves_stopPass hs)) hs
    · exact serves_stopPass hs

theorem serves_putBack {core arr : Nat} {q : Pass} : Serves r (putBack s core arr q) :=
  serves_resumeWatch (serves_putArray (serves_putPass hs))

theorem serves_pushPass {id : CmdId} {core arr : Nat} : Serves r (pushPass s id core arr) := by
  unfold pushPass
  extract_lets a
  refine closed_ite hs ?_
  split
  · exact closed_ite (serves_putBack hs) hs
  · exact closed_ite (serves_startPass hs) hs

/-! ## Rounds -/

theorem serves_tileNext : OptHolds (Serves r) (tileNext s) := by
  refine opt_findSome (fun c => ?_)
  split
  · exact opt_findSome (fun k => opt_findSome (fun arr => opt_map (fun j => serves_startJob hs)))
  · exact opt_none

theorem serves_pushTiles {core : Nat} : Serves r (pushTiles s core) := by
  refine closed_foldl (serves_units r) hs (fun _ _ hs => ?_)
  extract_lets n
  split
  · split
    · exact serves_jobSegment hs
    · exact hs
  · exact hs

theorem serves_runEpilogue {core : Nat} : OutHolds (Serves r) (runEpilogue s core) := by
  unfold runEpilogue
  dsimp only
  split
  · exact out_next (closed_headUp (serves_units r) hs)
  · exact out_ite (out_next (closed_runAttend (closed_headUp (serves_units r) hs) (serves_array r)))
      (closed_runProgram (closed_headUp (serves_units r) hs) (serves_array r))

theorem serves_pushCore {ids : List CmdId} {core : Nat} : OutHolds (Serves r) (pushCore s ids core) := by
  unfold pushCore
  extract_lets tiles arrays vacant
  have htiles : Serves r tiles := serves_pushTiles (opt_getD hs (opt_orElse (closed_stripNext (serves_units r) hs) (serves_tileNext hs)))
  have harrays : Serves r arrays := closed_foldl (serves_units r) htiles (fun _ _ hs =>
    serves_commitBlock (closed_foldl (serves_units r) (serves_preemptArray hs) (fun _ _ hs => serves_pushPass (serves_loadTile hs))))
  exact serves_runEpilogue (opt_getD harrays (closed_vacantNext (serves_units r) harrays))

theorem serves_pushMoves {ids : List CmdId} {core : Nat} : OptHolds (Serves r) (pushMoves s ids core) := by
  unfold pushMoves
  split
  next t pushed =>
    split
    · exact opt_none
    · exact opt_some (serves_pushCore hs t pushed)
  · exact opt_none

theorem serves_pushRound {id : CmdId} {idx : Nat} : OptHolds (Serves r) (pushRound s id idx) := by
  unfold pushRound
  split
  · exact opt_none
  · exact opt_orElse (opt_findSome (fun _ => serves_pushMoves hs)) (opt_findSome (fun _ => serves_pushMoves hs))

theorem serves_completeItem {f : Nat} {id : CmdId} {idx : Nat} : Serves r (completeItem f s id idx) := by
  induction f generalizing s with
  | zero => exact hs
  | succ f ih =>
    unfold completeItem
    split
    · exact hs
    next t moved => exact ih (serves_pushRound hs t moved)

/-! ## A core is lost -/

theorem serves_forgetItem {id : CmdId} {x : Item} {off : Bool} : Serves r (forgetItem s id x off) := by
  refine serves_mapCores (s := if off then disownSlots s id x else freeHeld s id x) (closed_ite hs hs) (fun p => ?_) rfl
  rfl

theorem serves_loseCoreOf {core : Nat} {reset : Bool} {id : CmdId} : Serves r (loseCoreOf s core reset id) := by
  unfold loseCoreOf
  split
  · exact hs
  · extract_lets part ended
    have hended : Serves r ended := closed_foldl (serves_units r) hs (fun _ _ hs => closed_ite hs (serves_completeItem hs))
    split
    · exact hended
    · split
      · exact closed_failCmd (serves_units r).toNetClosed hended
      · extract_lets gone forgot w w' returned k lost
        have hforgot : Serves r forgot := serves_resumeWatch (closed_foldl (serves_units r) hended (fun _ _ hs => serves_forgetItem hs))
        have hlost : Serves r lost := serves_putCore ((serves_array r).array hforgot) rfl
        exact closed_ite (closed_failCmd (serves_units r).toNetClosed hlost) (closed_releaseThreads (serves_units r) hlost)

theorem serves_loseCore {core : Nat} {reset : Bool} : Serves r (loseCore s core reset) :=
  closed_foldl (serves_units r) hs (fun _ _ hs => serves_loseCoreOf hs)

end
end Sys2Proof.Machine
end

section
/-!
SUPPORT. A core leaves and enters service.
-/
namespace Sys2Proof.Machine

/-! ## Causes posted and sluices put leave the cores alone -/

theorem postAll_field {β : Type} (F : State → β) (hm : ∀ s id g, (∀ c, (g c : Cmd).id = c.id) → F (modCmd s id g) = F s)
    (hl : ∀ s a b c d e g i j, F (logFault s a b c d e g i j) = F s) (hc : ∀ s n x, F (putChannel s n x) = F s)
    (s : State) (ids : List CmdId) (k : Cause) : F (postAll s ids k) = F s :=
  foldl_field F _ (fun s id => postCause_field F hm hl hc s id k) _ _

theorem postAll_cores (s : State) (ids : List CmdId) (k : Cause) : (postAll s ids k).cores = s.cores :=
  postAll_field State.cores (fun _ _ _ _ => rfl) (fun _ _ _ _ _ _ _ _ _ => logFault_cores _ _ _ _ _ _ _ _ _)
    (fun _ _ _ => rfl) s ids k

theorem postAll_sluices (s : State) (ids : List CmdId) (k : Cause) : (postAll s ids k).sluices = s.sluices :=
  postAll_field State.sluices (fun _ _ _ _ => rfl) (fun _ _ _ _ _ _ _ _ _ => logFault_sluices _ _ _ _ _ _ _ _ _)
    (fun _ _ _ => rfl) s ids k

theorem getCore_congr {s t : State} (h : t.cores = s.cores) (k : Nat) : getCore t k = getCore s k := by rw [getCore, getCore, h]

theorem sluicesOff_cores (s : State) (core : Nat) : (sluicesOff s core).cores = s.cores :=
  (postAll_cores _ _ _).trans (foldl_field State.cores _ (fun _ _ => by rfl) _ _)

/-- The sluices in a list go OFFLINE. -/
theorem getSluice_offline (l : List Nat) (s : State) {n : Nat} (h : n ∈ l) :
    (getSluice (l.foldl (fun s n => putSluice s n { st := .offline }) s) n).st = .offline := by
  induction l using list_append_induction with
  | nil => cases h
  | append_singleton l m ih =>
    rw [List.foldl_append, List.foldl_cons, List.foldl_nil]
    by_cases e : n = m
    · rw [e, getSluice_putSluice_self]
    · rw [getSluice_putSluice_ne _ _ e]
      exact ih ((List.mem_append.1 h).resolve_right (fun g => e (List.mem_singleton.1 g)))

theorem getSluice_sluicesOff (s : State) {core n : Nat} (h : n / 8 = core) : (getSluice (sluicesOff s core) n).st = .offline := by
  have here : n ∈ (List.range 8).map (8 * core + ·) :=
    List.mem_map.2 ⟨n % 8, List.mem_range.2 (Nat.mod_lt _ (by decide)), by rw [← h]; exact Nat.div_add_mod n 8⟩
  rw [sluicesOff]
  dsimp only
  rw [getSluice, postAll_sluices]
  exact getSluice_offline _ s here

theorem getSluice_endClaims (s : State) (core n : Nat) : (getSluice (endClaims s core) n).st = (getSluice s n).st := by
  rw [endClaims]
  unfold getSluice
  exact tabGet_map_field Sluice.st (fun _ => by rfl) s.sluices {} n

/-! ## CORE_OFFLINE -/

theorem execCoreOffline_runs {s : State} {i : Fin 64} {c : Cmd} (h : runs s i (opSel 0x0014) c = true) (hn : c.hdr.paramLen = 1)
    (hk : c.par 0 1 < 16) (zero : c.par 1 7 = 0) (inService : coreIn s (c.par 0 1) = true) (two : 1 < coreCount s) :
    exec (.coreOffline i) s = .next (settle (setWork (takeOffline (dispatchCmd s c) (c.par 0 1) .host) c.id
      (.done (coreMask (takeOffline (dispatchCmd s c) (c.par 0 1) .host))))) := by
  have count : coreCount (dispatchCmd s c) = coreCount s := congrArg ((List.range 16).countP ·) (funext (coreIn_dispatchCmd s c))
  have serves : (!coreIn (dispatchCmd s c) (c.par 0 1) || decide (coreCount (dispatchCmd s c) ≤ 1)) = false := by
    rw [coreIn_dispatchCmd, inService, count, decide_eq_false (Nat.not_le.2 two)]
    rfl
  show execCoreOffline i s = _
  rw [execCoreOffline, issue_runs h]
  dsimp only
  rw [beginCmd_par s c 0 1, beginCmd_par s c 1 7]
  refine (settled_checked hn (decide_eq_true hk) _).trans ?_
  rw [if_neg (by rw [serves]; decide)]
  exact settled_checked hn (decide_eq_true zero) _

/-- What taking a core out of service leaves of the cores: those after its commands have lost it, with the core itself out. -/
theorem takeOffline_cores (s : State) (core : Nat) (why : OutReason) : (takeOffline s core why).cores =
    (putCore (loseCore s core false) core { getCore (loseCore s core false) core with
      st := .outOfService, outReason := why, threads := [], ta0 := {}, ta1 := {}, epiQ := [] }).cores := by
  rw [takeOffline]
  dsimp only
  rw [timingEvent_cores]
  exact (logFault_cores _ _ _ _ _ _ _ _ _).trans (sluicesOff_cores _ _)

theorem getSluice_takeOffline (s : State) {core n : Nat} (why : OutReason) (h : n / 8 = core) :
    (getSluice (takeOffline s core why) n).st = .offline := by
  rw [takeOffline, getSluice, timingEvent_sluices, setCoreOut, logFault_sluices]
  exact (getSluice_endClaims _ core n).trans (getSluice_sluicesOff _ h)

theorem loseCore_idle {s : State} {core : Nat} (reset : Bool) (h : cmdsOnCore s core = []) : loseCore s core reset = s := by
  rw [loseCore, h]
  rfl

section
variable {s : State} {core : Nat} {why : OutReason}

theorem getCore_takeOffline_self : getCore (takeOffline s core why) core = { getCore (loseCore s core false) core with
    st := .outOfService, outReason := why, threads := [], ta0 := {}, ta1 := {}, epiQ := [] } :=
  (getCore_congr (takeOffline_cores s core why) core).trans (getCore_putCore_self _ _ _)

theorem getCore_takeOffline_ne {j : Nat} (h : j ≠ core) : getCore (takeOffline s core why) j = getCore (loseCore s core false) j :=
  (getCore_congr (takeOffline_cores s core why) j).trans (getCore_putCore_ne _ _ h)

theorem coreIn_takeOffline_self : coreIn (takeOffline s core why) core = false := by
  rw [coreIn, getCore_takeOffline_self]
  rfl

theorem coreIn_takeOffline_ne {j : Nat} (h : j ≠ core) : coreIn (takeOffline s core why) j = coreIn s j := by
  rw [coreIn, getCore_takeOffline_ne h]
  exact serves_loseCore (Serves.refl s) j

end

/-! ## CORE_ONLINE -/

/-- The berm and accumulator of a core are lost with its accumulators' view, and nothing else of the cores. -/
theorem getCore_loseBerm (s : State) (c : Nat) : (∀ j, j ≠ c → getCore (loseBerm s c) j = getCore s j) ∧
    (getCore (loseBerm s c) c).st = (getCore s c).st := by
  have slots : ((List.range 64).foldl (fun s k => loseSlot s (64 * c + k)) s).cores = s.cores :=
    foldl_field State.cores _ (fun _ _ => by rfl) _ _
  rw [loseBerm]
  generalize (List.range 64).foldl (fun s k => loseSlot s (64 * c + k)) s = u at slots
  have touched : (∀ j, j ≠ c → getCore (touchAcc u c) j = getCore u j) ∧ (getCore (touchAcc u c) c).st = (getCore u c).st :=
    ⟨fun j h => getCore_putCore_ne u _ h, by rw [show getCore (touchAcc u c) c = _ from getCore_putCore_self u c _]⟩
  exact ⟨fun j h => (getCore_putCore_ne _ _ h).trans ((touched.1 j h).trans (getCore_congr slots j)),
    (congrArg Core.st (getCore_putCore_self _ _ _)).trans (touched.2.trans (congrArg Core.st (getCore_congr slots c)))⟩

section
variable {s : State} {core : Nat}

theorem execCoreOnline_runs {i : Fin 64} {c : Cmd} (h : runs s i (opSel 0x0015) c = true) (hn : c.hdr.paramLen = 1)
    (hk : c.par 0 1 < 16) (zero : c.par 1 7 = 0) (out : (getCore s (c.par 0 1)).st = .outOfService) (pass : Bool) :
    exec (.coreOnline i pass) s = settled (let t := endReset (dispatchCmd s c) (c.par 0 1)
      if pass then doneWith (bringOnline t (c.par 0 1)) (beginCmd s c) (coreMask (bringOnline t (c.par 0 1)))
      else .next (finish (selfTestFailed t (c.par 0 1)) c.id .coreOffline (2 ^ c.par 0 1))) := by
  show execCoreOnline i pass s = _
  rw [execCoreOnline, issue_runs h]
  dsimp only
  rw [beginCmd_par s c 0 1, beginCmd_par s c 1 7]
  refine (settled_checked hn (decide_eq_true hk) _).trans ?_
  rw [if_neg (by rw [getCore_dispatchCmd, out]; decide)]
  exact settled_checked hn (decide_eq_true zero) _

theorem getCore_bringOnline_self : (getCore (bringOnline s core) core).st = .inService := by
  rw [bringOnline, getCore, timingEvent_cores, brakeCore_field State.cores (fun _ _ _ => rfl),
    sluicesOn_field State.cores (fun _ _ _ => rfl)]
  exact congrArg Core.st (getCore_putCore_self _ _ _)

theorem getCore_bringOnline_ne {j : Nat} (h : j ≠ core) : getCore (bringOnline s core) j = getCore s j := by
  rw [bringOnline, getCore, timingEvent_cores, brakeCore_field State.cores (fun _ _ _ => rfl),
    sluicesOn_field State.cores (fun _ _ _ => rfl)]
  exact (getCore_putCore_ne _ _ h).trans ((getCore_loseBerm s core).1 j h)

theorem getCore_selfTestFailed_self : (getCore (selfTestFailed s core) core).st = (getCore s core).st := by
  rw [selfTestFailed, getCore, logFault_cores]
  exact (congrArg Core.st (getCore_putCore_self _ _ _)).trans (getCore_loseBerm s core).2

theorem getCore_selfTestFailed_ne {j : Nat} (h : j ≠ core) : getCore (selfTestFailed s core) j = getCore s j := by
  rw [selfTestFailed, getCore, logFault_cores]
  exact (getCore_putCore_ne _ _ h).trans ((getCore_loseBerm s core).1 j h)

/-- The end of a reset that ran while its core was out of service leaves it out (R421). -/
theorem getCore_endReset_out {j : Nat} (out : (getCore s core).st = .outOfService) :
    (getCore (endReset s core) core).st = .outOfService ∧ (j ≠ core → getCore (endReset s core) j = getCore s j) := by
  rw [endReset]
  split
  · exact ⟨out, fun _ => rfl⟩
  next held => exact absurd (out.symm.trans held) (by decide)
  · exact ⟨(congrArg Core.st (getCore_putCore_self _ _ _)).trans out, fun h => getCore_putCore_ne _ _ h⟩

end
end Sys2Proof.Machine

open Sys2Proof Sys2Proof.Machine

/-- Settles O23: a core that leaves service takes its commands' items with it, and nothing that completes them puts a core in or
out of service; a self-test leaves the other cores alone. -/
theorem coresLeaveAndEnterService : Obligations.CoresLeaveAndEnterService := by
  unfold Obligations.CoresLeaveAndEnterService
  intro s i c d k
  constructor
  case left =>
    intro h hn hk zero inService two t
    refine ⟨execCoreOffline_runs h hn hk zero inService two, coreIn_takeOffline_self,
      congrArg Core.outReason getCore_takeOffline_self, congrArg Core.threads getCore_takeOffline_self,
      congrArg Core.epiQ getCore_takeOffline_self, fun j hj => ?_, fun n hn _ => getSluice_takeOffline d .host hn,
      fun idle j hj => ?_⟩
    · exact (coreIn_takeOffline_ne hj).trans (coreIn_dispatchCmd s c j)
    · exact (getCore_takeOffline_ne hj).trans (by rw [loseCore_idle _ idle]; exact getCore_dispatchCmd s c j)
  case right =>
    intro h hn hk zero out
    have reset (j : Nat) := getCore_endReset_out (s := d) (core := k) (j := j) (by rw [getCore_dispatchCmd]; exact out)
    have other {j : Nat} (hj : j ≠ k) : getCore (endReset d k) j = getCore s j :=
      ((reset j).2 hj).trans (getCore_dispatchCmd s c j)
    refine ⟨⟨execCoreOnline_runs h hn hk zero out true, ?_, fun j hj => (getCore_bringOnline_ne hj).trans (other hj)⟩,
      ⟨execCoreOnline_runs h hn hk zero out false, ?_, fun j hj => (getCore_selfTestFailed_ne hj).trans (other hj)⟩, fun idle => ?_⟩
    · exact decide_eq_true getCore_bringOnline_self
    · exact decide_eq_false (by rw [getCore_selfTestFailed_self, (reset k).1]; decide)
    · exact endReset_idle (by rw [getCore_dispatchCmd]; exact idle)
end

section
/-!
SUPPORT. What the packets that the network takes leave of a predicate that it keeps.
-/
namespace Sys2Proof.Machine

section
variable {P : State → Prop} (h : NetClosed P) {s : State} (hs : P s)
include h hs

/-! ## Flows -/

theorem closed_putFlowTx {k : Nat} {f : FlowTx} : P (putFlowTx s k f) := h.net _ rfl rfl (fun e => e) hs

theorem closed_ackPage {ch : Nat} {bind : W16} {d q : Nat} : P (ackPage s ch bind d q) := by
  unfold ackPage
  extract_lets c
  split
  · exact hs
  · extract_lets acked put noted
    have hput : P put := h.channel _ _ hs
    refine closed_ite hs (h.sealChecked _ ?_)
    show P noted
    unfold noted
    split
    · exact h.cmd (fun _ => ⟨rfl, fun e => e, fun e => e⟩) hput
    · exact hput

theorem closed_ackOwner {o : Owner} : P (ackOwner s o) := by
  unfold ackOwner
  split
  · exact h.cmd (fun _ => ⟨rfl, fun e => e, fun e => e⟩) hs
  · exact closed_ackPage h hs
  · exact h.event _ _ hs
  · exact hs

theorem closed_ackFlow {key upto : Nat} : P (ackFlow s key upto) := by
  unfold ackFlow
  extract_lets f got put
  exact foldl_closed (P := P) (fun _ _ hs => closed_ackOwner h hs) _ (closed_putFlowTx h hs)

theorem closed_resetFlow {key : Nat} {lost : List Nat} : P (resetFlow s key lost) := by
  unfold resetFlow
  exact foldl_closed (P := P) (fun _ _ hs => h.routed _ hs) _ (closed_putFlowTx h hs)

theorem closed_mcastAck {id : CmdId} {rank : Nat} : P (mcastAck s id rank) := by
  unfold mcastAck
  split
  · exact hs
  · split
    · exact h.cmd (fun _ => ⟨rfl, fun e => e, fun e => e⟩) (h.cmd (fun _ => ⟨rfl, fun e => e, fun _ => rfl⟩) hs)
    · exact h.cmd (fun _ => ⟨rfl, fun e => e, fun e => e⟩) (h.cmd (fun _ => ⟨rfl, fun e => e, fun _ => rfl⟩) hs)
    · exact hs

theorem closed_recvAck {k : Packet} : P (recvAck s k) := closed_ite (closed_mcastAck h hs) (closed_ackFlow h hs)

theorem closed_recvRefuse {k : Packet} : P (recvRefuse s k) := by
  unfold recvRefuse
  split
  · exact h.failedBind _ _ _ _ hs
  · split
    · exact hs
    · dsimp only
      split
      · exact closed_ite (h.cmd (fun _ => ⟨rfl, fun e => e, fun _ => rfl⟩) hs) (h.failedNet _ _ _ hs)
      · exact h.failedNet _ _ _ hs

theorem closed_failTold {c : Cmd} {k : Cause} : P (failTold s c k) :=
  h.toldOthers _ _ (h.posted _ _ (fun _ _ _ hs => h.log _ _ _ _ _ _ _ _ hs) hs)

theorem closed_noticeOwner {k : Packet} : P (noticeOwner s k) := by
  unfold noticeOwner
  extract_lets cause told
  split
  · exact closed_failTold h hs
  · split
    · exact closed_ite (h.failedBind _ _ _ _ (h.lostBeyondHere _ hs)) (h.lostBeyondHere _ hs)
    · exact h.lostBeyondHere _ hs

theorem closed_recvNotice {k : Packet} : P (recvNotice s k) :=
  closed_ite (closed_resetFlow h (closed_ite (h.routed _ hs) (closed_noticeOwner h hs)))
    (closed_ite (h.routed _ hs) (closed_noticeOwner h hs))

theorem closed_recvFlowReset {k : Packet} : P (recvFlowReset s k) := closed_ite hs (h.flowLanded _ _ _ _ (h.flow _ _ hs))

/-! ## Matches and what comes early -/

theorem closed_matchRts {c : Cmd} {r : Rts} : P (matchRts s c r) := by
  unfold matchRts
  split
  · exact h.routedPacket _ _ _ (h.cmd (fun _ => ⟨rfl, fun e => e, fun _ => rfl⟩) hs)
  · exact hs

theorem closed_recvRts {k : Packet} : P (recvRts s k) := by
  unfold recvRts
  dsimp only
  split
  · exact closed_matchRts h hs
  · exact closed_ite (h.net _ rfl rfl (fun e => e) hs) (h.routed _ hs)

theorem closed_takeEarly {k : Nat} : P (takeEarly s k).2 := h.net _ rfl rfl (fun e => e) hs

theorem closed_addEarly {k n : Nat} : P (addEarly s k n) := h.net _ rfl rfl (fun e => e) hs

theorem closed_recvCollAbort {k : Packet} : P (recvCollAbort s k) := by
  unfold recvCollAbort
  extract_lets g q
  split
  · exact h.failed _ _ hs
  · exact closed_ite (h.net _ rfl rfl (fun e => e) hs) hs

theorem closed_freePacket {i : Option Ingress} {k : Packet} : P (freePacket s i k) := by
  unfold freePacket
  split
  · exact h.freed _ _ _ hs
  · exact hs

end
end Sys2Proof.Machine
end

section
/-!
SUPPORT. What follows at once keeps: a predicate on states that is closed under the few changes that the steps of settling make, and
the packets that they take.
-/
namespace Sys2Proof.Machine

/-- A predicate that the work of commands keeps, and that survives the other changes that follow at once: windows that close, count
and refuse, commands that end, a core that firmware takes out of service, and the scheduler's sluices. -/
structure SettleClosed (P : State → Prop) : Prop extends UnitsClosed P where
  window : ∀ {s} n x, P s → P (putWindow s n x)
  regs : ∀ {s} x, x.windows = s.net.windows → (x.flowRx = [] → s.net.flowRx = []) → P s → P { s with net := x }
  cmds : ∀ {s} {f : Cmd → Cmd}, (∀ c, KeepsCmd c (f c)) → P s → P { s with cmds := s.cmds.map f }
  ended : ∀ {s} id st detail, P s → P (endOne s id st detail)
  offline : ∀ {s} core, P s → P (firmwareOffline s core .errors)
  sluice : ∀ {s n} x, n % 8 < 4 ∨ n < 144 → P s → P (putSluice s n x)
  claim : ∀ {s}, P s → OptHolds P (claimNext s)
  finish : ∀ {s} {c : Cmd}, c ∈ s.cmds → c.ending.isSome → P s → P (finishEnding s c.id)

section
variable {P : State → Prop} (h : SettleClosed P) {s : State} (hs : P s)
include h hs

/-! ## Reads that meet errors -/

theorem closed_countRerun {own : Option Nat} {a : Nat} : P (countRerun s own a) := closed_ite (h.core rfl hs) hs

theorem closed_rerunAt {own : Option Nat} {id : CmdId} {tile a : Nat} : P (rerunAt s own id tile a) := by
  unfold rerunAt
  split
  · exact hs
  · refine closed_countRerun h (h.cmd (fun _ => ?_) (h.log _ _ _ _ _ _ _ _ hs))
    exact ⟨rfl, fun e => e, fun e => e⟩

theorem closed_exhaustAt {own : Option Nat} {id : CmdId} {tile a : Nat} : P (exhaustAt s own id tile a) :=
  closed_ite hs (h.posted _ _ (fun _ _ _ hs => h.log _ _ _ _ _ _ _ _ hs) (closed_ite (h.core rfl hs) hs))

theorem closed_exhaustAll {id : CmdId} {tile a : Nat} : P (exhaustAll s id tile a) :=
  closed_exhaustAt h (closed_rerunAt h (closed_rerunAt h (closed_rerunAt h hs)))

/-! ## Sends and matches -/

theorem closed_sendRows {id : CmdId} {u : Bool} {w : SendWork} {t : Target} {n : Nat} : P (sendRows s id u w t n) := by
  unfold sendRows
  split
  · exact closed_exhaustAll h hs
  · exact closed_foldl h.toUnitsClosed hs (fun _ _ hs =>
      closed_ite hs (closed_sendWrite h.toUnitsClosed (closed_ddrTake h.toUnitsClosed hs)))

theorem closed_recvCts {k : Packet} : P (recvCts s k) := by
  unfold recvCts
  split
  · exact hs
  · split
    · exact closed_ite (closed_sendRows h (closed_progress h.toUnitsClosed (closed_setWork h.toUnitsClosed hs rfl))) hs
    · exact hs

/-! ## Collectives -/

theorem closed_sendCredit {id : CmdId} {w : CollWork} {L n : Nat} : P (sendCredit s id w L n) := h.routedPacket _ _ _ hs

theorem closed_deliverDown {id : CmdId} {w : CollWork} {k : DdrClass} {c : Nat} {data : List Byte} :
    P (deliverDown s id w k c data) :=
  closed_foldl h.toUnitsClosed (h.cmd (fun _ => ⟨rfl, fun e => e, fun e => e⟩) (closed_setWork h.toUnitsClosed
    (closed_writeMem h.toUnitsClosed (closed_ddrTake h.toUnitsClosed hs)) rfl)) (fun _ _ hs => closed_sendWrite h.toUnitsClosed hs)

theorem closed_upLoop {f : Nat} {id : CmdId} : P (upLoop f s id) := by
  induction f generalizing s with
  | zero => exact hs
  | succ f ih =>
    unfold upLoop
    split
    · exact hs
    · split
      · exact closed_ite hs (closed_ite (ih (closed_deliverDown h hs)) (closed_ite hs
          (ih (closed_sendWrite h.toUnitsClosed (closed_setWork h.toUnitsClosed hs rfl)))))
      · exact hs

theorem closed_joinChunk {id : CmdId} {c : Nat} : P (joinChunk s id c) := by
  unfold joinChunk
  split
  · exact hs
  · split
    · exact closed_upLoop h (closed_foldl h.toUnitsClosed (closed_setWork h.toUnitsClosed hs rfl) (fun _ _ hs =>
        closed_ite (closed_sendCredit h hs) hs))
    · exact hs

theorem closed_recvCredit {k : Packet} : P (recvCredit s k) := by
  unfold recvCredit
  split
  · exact closed_addEarly h.toNetClosed hs
  · exact closed_upLoop h (closed_setWork h.toUnitsClosed hs rfl)

theorem closed_dikeRun {id : CmdId} : P (dikeRun s id) := by
  unfold dikeRun
  split
  · exact hs
  · split
    · exact closed_ite hs (closed_ite (closed_foldl h.toUnitsClosed (closed_setWork h.toUnitsClosed hs rfl) (fun _ _ hs =>
        h.routedPacket _ _ _ hs)) (h.routedPacket _ _ _ (closed_setWork h.toUnitsClosed hs rfl)))
    · exact hs

theorem closed_recvArrive {k : Packet} : P (recvArrive s k) := by
  unfold recvArrive
  split
  · exact closed_addEarly h.toNetClosed hs
  · exact closed_dikeRun h (closed_setWork h.toUnitsClosed hs rfl)

theorem closed_recvRelease {k : Packet} : P (recvRelease s k) := by
  unfold recvRelease
  split
  · exact hs
  · exact closed_ite (closed_setWork h.toUnitsClosed (closed_timingEvent h.toUnitsClosed hs) rfl) (closed_setWork h.toUnitsClosed hs rfl)

/-! ## Writes -/

theorem closed_writeRows {base : Nat} {k : Packet} : P (writeRows s base k) :=
  closed_foldl h.toUnitsClosed hs (fun _ _ hs => closed_writeMem h.toUnitsClosed (closed_ddrTake h.toUnitsClosed hs))

theorem closed_countRefused {w : Nat} : P (countRefused s w) := h.regs _ rfl (fun e => e) (h.window _ _ hs)

theorem closed_landWrite {base : Nat} {k : Packet} : P (landWrite s base k) := h.flowIsDone _ _ (h.counted _ (closed_writeRows h hs))

theorem closed_landReduce {base : Nat} {k : Packet} : P (landReduce s base k) := by
  unfold landReduce
  extract_lets g c rows
  have hrows : P rows := h.flowIsDone _ _ (closed_writeRows h hs)
  refine closed_ite ?_ ?_
  · split
    · exact hrows
    · exact closed_joinChunk h (closed_progress h.toUnitsClosed (closed_setWork h.toUnitsClosed hrows rfl))
  · split
    · exact hrows
    · exact h.flowIsDone _ _ (closed_deliverDown h hs)

theorem closed_landMcast {base : Nat} {k : Packet} {i : Option Ingress} : P (landMcast s base k i) := by
  unfold landMcast
  extract_lets g n rows got
  have hrows : P rows := closed_writeRows h hs
  refine h.flowIsDone _ _ ?_
  show P got
  unfold got
  split
  · exact closed_ite (closed_progress h.toUnitsClosed (closed_setWork h.toUnitsClosed hrows rfl)) hrows
  · exact closed_ite (closed_addEarly h.toNetClosed hrows) hrows

theorem closed_landData {base : Nat} {k : Packet} {i : Option Ingress} : P (landData s base k i) := by
  unfold landData
  split
  · exact closed_landMcast h hs
  · exact closed_landReduce h hs
  · exact closed_landWrite h hs

theorem closed_recvData {k : Packet} {i : Option Ingress} : P (recvData s k i) := by
  unfold recvData
  extract_lets x passed
  have hp : P passed := closed_ite (h.passedMcast _ _ hs) hs
  split
  · exact h.flowIsDone _ _ (h.routed _ (closed_countRefused h (closed_freePacket h.toNetClosed hs)))
  · exact closed_ite (h.net _ rfl rfl (fun e => e) hp) (closed_landData h (closed_freePacket h.toNetClosed hp))

theorem closed_receive {k : Packet} {i : Option Ingress} : P (receive s k i) := by
  have freed : P (freePacket s i k) := closed_freePacket h.toNetClosed hs
  unfold receive
  refine closed_ite (closed_recvData h hs) ?_
  dsimp only
  split
  · exact closed_recvAck h.toNetClosed freed
  · exact closed_recvRefuse h.toNetClosed freed
  · exact closed_recvNotice h.toNetClosed freed
  · exact closed_recvFlowReset h.toNetClosed freed
  · exact closed_recvRts h.toNetClosed freed
  · exact closed_recvCts h freed
  · exact closed_recvCredit h freed
  · exact closed_recvCollAbort h.toNetClosed freed
  · exact closed_recvArrive h freed
  · exact closed_recvRelease h freed
  · exact freed

end
end Sys2Proof.Machine
end

section
/-!
SUPPORT. Settling keeps what each of its steps keeps.
-/
namespace Sys2Proof.Machine

/-! ## Commands that are ending end -/

section
variable {P : State → Prop} {s : State} (hs : P s) (h : ArrayClosed P)
include hs h

theorem closed_runOut {id : CmdId} {core : Nat} : P (runOut s id core) := by
  unfold runOut
  split
  · refine closed_ite (closed_ite (closed_runAttend hs h) ?_) hs
    split
    next ran => exact closed_runProgram hs h _ ran
    · exact hs
  · exact hs

theorem closed_finishEnding (ended : ∀ {s} id st detail, P s → P (endOne s id st detail)) {id : CmdId} : P (finishEnding s id) := by
  have units := h.toUnitsClosed
  unfold finishEnding
  extract_lets ran
  have hran : P ran := closed_foldl units hs (fun _ _ hs => closed_runOut hs h)
  split
  · exact hran
  · split
    · exact closed_ite (ended _ _ _ hran) (closed_postAll units.toNetClosed (ended _ _ _ hran))
    · exact hran

end

section
variable {P : State → Prop} (h : SettleClosed P) {s : State} (hs : P s)
include h hs

/-! ## Operations of a group start -/

theorem closed_dikeStart {id : CmdId} {w : DikeWork} : P (dikeStart s id w) :=
  closed_dikeRun h (closed_setWork h.toUnitsClosed (closed_foldl h.toUnitsClosed hs (fun _ _ hs => closed_takeEarly h.toNetClosed hs)) rfl)

theorem closed_mcastRows {id : CmdId} {u : Bool} {g me src rowBytes rows stride dstStride off ev fwd : Nat} {aux2 : W32} :
    P (mcastRows s id u g me src rowBytes rows stride dstStride off ev fwd aux2) := by
  unfold mcastRows
  extract_lets succ
  split
  · exact closed_exhaustAll h hs
  · exact closed_foldl h.toUnitsClosed hs (fun _ _ hs =>
      closed_ite hs (closed_sendWrite h.toUnitsClosed (closed_ddrTake h.toUnitsClosed hs)))

theorem closed_reduceStart {id : CmdId} {u : Bool} {w : CollWork} : P (reduceStart s id u w) := by
  unfold reduceStart
  extract_lets bytes
  split
  · exact closed_exhaustAll h hs
  · refine closed_foldl h.toUnitsClosed (closed_foldl h.toUnitsClosed ?_ (fun _ _ hs => closed_sendCredit h hs))
      (fun _ _ hs => closed_joinChunk h hs)
    exact closed_setWork h.toUnitsClosed (closed_takeEarly h.toNetClosed (closed_ddrTake h.toUnitsClosed hs)) rfl

theorem closed_gatherStart {id : CmdId} {u : Bool} {w : CollWork} : P (gatherStart s id u w) := by
  unfold gatherStart
  extract_lets off a copied keys got taken begun outs
  split
  · exact closed_exhaustAll h hs
  · have htaken : P taken := closed_foldl h.toUnitsClosed (closed_writeMem h.toUnitsClosed (closed_ddrTake h.toUnitsClosed hs))
      (fun _ _ hs => closed_takeEarly h.toNetClosed hs)
    have houts : P outs := h.cmd (fun _ => ⟨rfl, fun e => e, fun e => e⟩) (closed_setWork h.toUnitsClosed htaken rfl)
    exact closed_ite houts (closed_mcastRows h houts)

theorem closed_mcastStart {id : CmdId} {u : Bool} {w : SendWork} : P (mcastStart s id u w) :=
  closed_ite (closed_setWork h.toUnitsClosed hs rfl) (closed_mcastRows h (closed_setWork h.toUnitsClosed hs rfl))

theorem closed_opStart {c : Cmd} : P (opStart s c) := by
  unfold opStart
  split
  · exact hs
  · refine closed_ite (closed_failCmd h.toNetClosed (closed_takeEarly h.toNetClosed hs)) ?_
    split
    · exact closed_dikeStart h hs
    · exact closed_ite (closed_gatherStart h hs) (closed_reduceStart h hs)
    · exact closed_mcastStart h hs
    · exact hs

/-! ## Sources of exported data -/

theorem closed_sourceStep {k : Cmd} {w : SourceWork} {r : State × SourceWork} (step : sourceStep s k w = some r) : P r.1 := by
  unfold sourceStep at step
  dsimp only at step
  split at step
  · cases step
  · split at step
    next taken =>
      cases step
      exact closed_endStall h.toUnitsClosed (closed_handOff h.toUnitsClosed (closed_ddrTake h.toUnitsClosed hs) taken)
    · cases step

theorem closed_sourceLoop {f : Nat} {k : Cmd} {w : SourceWork} : P (sourceLoop f s k w).1 := by
  induction f generalizing s w with
  | zero => exact hs
  | succ f ih =>
    unfold sourceLoop
    split
    next r step => exact ih (closed_sourceStep h hs step)
    · exact hs

theorem closed_sourceRun {k : Cmd} {w : SourceWork} : P (sourceRun s k w) := by
  unfold sourceRun
  extract_lets n r ran begun
  have hran : P ran := closed_ite (closed_sourceLoop h hs) (closed_progress h.toUnitsClosed (closed_sourceLoop h hs))
  have hbegun : P begun := closed_setWork h.toUnitsClosed hran rfl
  exact closed_ite (closed_setWork h.toUnitsClosed hran rfl) (closed_ite hbegun (closed_noteStall h.toUnitsClosed hbegun))

theorem closed_sourceNext : OptHolds P (sourceNext s) := by
  refine opt_findSome (fun k => ?_)
  split
  · extract_lets c
    split
    · exact opt_some (closed_sourceRun h hs)
    · exact opt_none
  · exact opt_none

/-! ## What has come in -/

theorem closed_emitRoce {q : Nat} {o : RoceOut} : P (emitRoce s q o) := by
  unfold emitRoce
  extract_lets x
  split
  · refine closed_ite hs (h.wire _ (closed_foldl h.toUnitsClosed hs (fun _ _ hs => closed_weirCount h.toUnitsClosed ?_)))
    exact closed_ite (closed_weirBoundary h.toUnitsClosed hs) hs
  · exact h.wire _ hs

theorem closed_sendRoce {q : Nat} {o : RoceOut} : P (sendRoce s q o) := closed_ite (h.qp _ _ hs) (closed_emitRoce h hs)

theorem closed_serveRoce {q : Nat} {psn : BitVec 24} {ask : RoceAsk} : P (serveRoce s q psn ask) := by
  cases ask with
  | write w base va data imm =>
    have acked := closed_sendRoce h (q := q) (o := .ack q (psn + BitVec.ofNat 24 ((getQp (writeMem (ddrTake s .remote false
      (base + va.toNat) data.length) (base + va.toNat) data) q).packets data.length - 1)))
      (closed_writeMem h.toUnitsClosed (a := base + va.toNat) (b := data) (closed_ddrTake h.toUnitsClosed (k := .remote) (u := false)
        (a := base + va.toNat) (n := data.length) hs))
    cases imm with
    | none => exact acked
    | some v => exact h.event _ _ (h.qp _ _ (closed_writeLe h.toUnitsClosed acked))
  | read w base va n => exact closed_sendRoce h (closed_ddrTake h.toUnitsClosed hs)
  | refused w => exact closed_sendRoce h (closed_countRefused h hs)
  | invalid => exact closed_sendRoce h hs

theorem closed_pfcCheck {p : Nat} : P (pfcCheck s p) := by
  unfold pfcCheck
  split
  · exact hs
  · exact closed_ite hs (h.same hs ⟨rfl, rfl, rfl, rfl, rfl, rfl, rfl, rfl⟩)

theorem closed_inboundNext : OptHolds P (inboundNext s) := by
  unfold inboundNext
  split
  · exact opt_none
  · extract_lets regs r
    have hr : P r := h.net _ rfl rfl (fun e => e) hs
    split
    · split
      · exact opt_some (closed_landData h (closed_freePacket h.toNetClosed hr))
      · exact opt_none
    · split
      · exact opt_some (closed_pfcCheck h hr)
      · split
        · exact opt_some (closed_pfcCheck h (closed_serveRoce h hr))
        · exact opt_none

/-! ## The security block -/

theorem closed_mailboxDo {op : Nat} {req : List Byte} {r : List Byte × State} (done : mailboxDo s op req = some r) : P r.2 := by
  unfold mailboxDo at done
  split at done
  · cases done
    exact h.same hs ⟨rfl, rfl, rfl, rfl, rfl, rfl, rfl, rfl⟩
  · split at done
    · cases done
      exact hs
    · split at done
      · cases done
        exact hs
      · cases done
  · cases done
    exact hs
  · split at done
    · cases done
      exact hs
    · cases done
  · cases done

theorem closed_mailboxNow {m : MbxWait} : P (mailboxNow s m) := by
  unfold mailboxNow
  extract_lets sec left
  have hleft : P left := h.same hs ⟨rfl, rfl, rfl, rfl, rfl, rfl, rfl, rfl⟩
  split
  next r done =>
    have hr : P r.2 := closed_mailboxDo h hleft done
    exact closed_ite (h.same hr ⟨rfl, rfl, rfl, rfl, rfl, rfl, rfl, rfl⟩) (h.same hr ⟨rfl, rfl, rfl, rfl, rfl, rfl, rfl, rfl⟩)
  · exact hleft

theorem closed_writingNow {id : CmdId} {img : List Byte} : P (writingNow s id img) := by
  refine closed_setWork h.toUnitsClosed ?_ rfl
  exact h.same hs ⟨rfl, rfl, rfl, rfl, rfl, rfl, rfl, rfl⟩

theorem closed_unlockNow {id : CmdId} {r : List Byte} : P (unlockNow s id r) := by
  refine closed_setWork h.toUnitsClosed ?_ rfl
  exact h.same hs ⟨rfl, rfl, rfl, rfl, rfl, rfl, rfl, rfl⟩

theorem closed_attestNow {id : CmdId} {u : Bool} {nonce : List Byte} {a : Nat} : P (attestNow s id u nonce a) :=
  h.cmd (fun _ => ⟨rfl, fun e => e, fun _ => rfl⟩) (closed_writeMem h.toUnitsClosed (closed_ddrTake h.toUnitsClosed hs))

theorem closed_secRun {c : Cmd} : P (secRun s c) := by
  unfold secRun
  split
  · exact closed_writingNow h hs
  · exact closed_attestNow h hs
  · exact closed_unlockNow h hs
  · exact hs

theorem closed_secNext : OptHolds P (secNext s) := by
  unfold secNext
  split
  · exact opt_none
  · split
    · exact opt_some (closed_ite (closed_secRun h hs) (closed_mailboxNow h hs))
    · exact opt_some (closed_mailboxNow h hs)
    · exact opt_some (closed_secRun h hs)
    · exact opt_none

/-! ## Windows, sluices and commands -/

theorem closed_closeNext : OptHolds P (closeNext s) := by
  unfold closeNext
  split
  · exact opt_none
  · refine opt_some (h.cmds (fun c => ?_) (h.window _ _ hs))
    split
    · split
      · exact ⟨rfl, fun e => e, fun _ => rfl⟩
      · exact ⟨rfl, fun e => e, fun e => e⟩
    · exact ⟨rfl, fun e => e, fun e => e⟩

theorem closed_xferNext : OptHolds P (xferNext s) := by
  unfold xferNext
  split
  next idle =>
    refine opt_some (closed_setWork h.toUnitsClosed (h.sluice _ (.inr ?_) hs) rfl)
    unfold idleSluice at idle
    obtain ⟨j, hj, rfl⟩ := List.mem_map.1 (List.mem_of_find?_eq_some idle)
    have := List.mem_range.1 hj
    omega
  · exact opt_none

theorem closed_startJob {n : Nat} {j : TileJob} (hn : n % 8 < 4) : P (startJob s n j) :=
  h.sluice _ (.inl hn) (closed_foldl h.toUnitsClosed (closed_allotSlots h.toUnitsClosed hs) (fun _ _ hs => closed_putSlot h.toUnitsClosed hs))

omit h hs in
theorem tileDue_sluice {id : CmdId} {core arr : Nat} {j : Nat × TileJob} (due : tileDue s id core arr = some j) : j.1 % 8 < 4 := by
  unfold tileDue at due
  obtain ⟨y, -, found⟩ := List.exists_of_findSome?_eq_some due
  dsimp only at found
  obtain ⟨n, idle, rfl⟩ := Option.map_eq_some_iff.1 (Option.ite_none_right_eq_some.1 found).2
  have mem := List.mem_of_find?_eq_some idle
  unfold coreSluices at mem
  split at mem
  · simp only [List.mem_singleton] at mem
    omega
  · simp only [List.mem_cons, List.not_mem_nil, or_false] at mem
    omega

theorem closed_tileNext : OptHolds P (tileNext s) := by
  refine opt_findSome (fun c => ?_)
  split
  · refine opt_findSome (fun k => opt_findSome (fun arr => fun t e => ?_))
    obtain ⟨j, due, rfl⟩ := Option.map_eq_some_iff.1 e
    exact closed_startJob h hs (tileDue_sluice due)
  · exact opt_none

theorem closed_unitsNext : OptHolds P (unitsNext s) := by
  unfold unitsNext
  split
  · exact opt_some (closed_weirServe h.toUnitsClosed hs)
  · exact opt_orElse (opt_orElse (opt_orElse (closed_stripNext h.toUnitsClosed hs) (closed_vacantNext h.toUnitsClosed hs)) (h.claim hs))
      (closed_tileNext h hs)

theorem closed_returnNext : OptHolds P (returnNext s) :=
  opt_map (fun _ => h.same hs ⟨rfl, rfl, rfl, rfl, rfl, rfl, rfl, rfl⟩)

theorem closed_endCmd {id : CmdId} {st : Status} {detail : Nat} : P (endCmd s id st detail) :=
  closed_ite (h.ended _ _ _ hs) (closed_postAll h.toNetClosed (h.ended _ _ _ hs))

theorem closed_endDone {c : Cmd} {r : Status × Nat} : P (endDone s c r) := by
  unfold endDone
  extract_lets digested
  have hd : P digested := by
    unfold digested
    split
    · exact closed_ite (closed_cmdDigest h.toNetClosed hs) hs
    · exact closed_cmdDigest h.toNetClosed hs
  exact closed_ite hd (closed_endCmd h hd)

theorem closed_offlineNext : OptHolds P (offlineNext s) := by
  unfold offlineNext
  split
  · exact opt_none
  · exact opt_map (fun _ => h.offline _ hs)

/-! ## Settling -/

theorem closed_settleNext : OptHolds P (settleNext s) := by
  unfold settleNext
  split
  · refine opt_some (closed_receive h ?_)
    exact h.net _ rfl rfl (fun e => e) hs
  · split
    next ending => exact opt_some (h.finish (List.mem_of_find?_eq_some ending) (by simpa using List.find?_some ending) hs)
    · split
      next taken => exact fun t e => opt_orElse (closed_offlineNext h hs) (closed_closeNext h hs) t (taken.trans e)
      · split
        · exact opt_some (closed_endDone h hs)
        · split
          · exact opt_some (closed_opStart h hs)
          · split
            next taken => exact fun t e => closed_sourceNext h hs t (taken.trans e)
            · exact opt_orElse (opt_orElse (opt_orElse (opt_orElse (closed_secNext h hs) (closed_inboundNext h hs))
                (closed_xferNext h hs)) (closed_unitsNext h hs)) (closed_returnNext h hs)

theorem closed_settleRun {n : Nat} : P (settleRun n s) := by
  induction n generalizing s with
  | zero => exact hs
  | succ n ih =>
    unfold settleRun
    split
    · exact hs
    next t next => exact ih (closed_settleNext h hs t next)

/-- What every step of settling keeps, settling keeps. -/
theorem closed_settle : P (settle s) := h.same (closed_settleRun h hs) ⟨rfl, rfl, rfl, rfl, rfl, rfl, rfl, rfl⟩

end
end Sys2Proof.Machine
end

section
/-!
SUPPORT. Two marks that settling never takes back: that a command has ended, and that a record has been logged.
-/
namespace Sys2Proof.Machine

/-- A command has ended since the last interval of the pumping station, or the log has a record. -/
def Marked (s : State) : Prop := s.pump.ended ≠ [] ∨ s.err.seq ≠ 0

theorem Marked.of_eq {s t : State} (hs : Marked s) (pump : t.pump = s.pump) (err : t.err.seq = s.err.seq) : Marked t := by
  rw [Marked, pump, err]
  exact hs

theorem marked_logFault (s : State) (a b c d : Nat) (e : Option Cmd) (g i j : Nat) : Marked (logFault s a b c d e g i j) :=
  .inr (by rw [logFault_seq]; exact Nat.succ_ne_zero _)

theorem closeDrained_pump (s : State) (i : Nat) : (closeDrained s i).pump = s.pump := by
  unfold closeDrained
  dsimp only
  split
  · rfl
  · rfl

theorem settleDevice_pump (s : State) : (settleDevice s).pump = s.pump := by
  unfold settleDevice
  dsimp only
  split
  · split
    · exact setDevState_pump _ _
    · rfl
  · rfl

theorem writeEntry_pump (s : State) (i : Nat) (b : List Byte) : (writeEntry s i b).pump = s.pump := by
  unfold writeEntry
  dsimp only
  split
  · exact raiseVector_pump _ _
  · rfl

/-- The end of a command is in the accounts. -/
theorem ended_endOne {s : State} {id : CmdId} {c : Cmd} (found : findCmd s id = some c) (st : Status) (detail : Nat) :
    (endOne s id st detail).pump.ended ≠ [] := by
  unfold endOne
  rw [found]
  dsimp -zeta only
  extract_lets ok signalled released gone dur counted o written x halted
  have hcounted : counted.pump.ended ≠ [] := List.append_ne_nil_of_right_ne_nil _ (List.cons_ne_nil _ _)
  have hwritten : written.pump = counted.pump := by
    unfold written
    split
    · rfl
    · exact writeEntry_pump _ _ _
  have hhalted : halted.pump = written.pump := by
    unfold halted
    split
    · exact setInletFlag_pump _ _ _
    · exact closeDrained_pump _ _
  rw [settleDevice_pump, hhalted, hwritten]
  exact hcounted

theorem marked_endOne {s : State} {id : CmdId} {c : Cmd} (found : findCmd s id = some c) (st : Status) (detail : Nat) :
    Marked (endOne s id st detail) := .inl (ended_endOne found st detail)

theorem marked_units : UnitsClosed Marked where
  cmd _ hs := hs.of_eq rfl rfl
  log _ _ _ _ _ _ _ _ _ := marked_logFault _ _ _ _ _ _ _ _ _
  net _ _ _ _ hs := hs.of_eq rfl rfl
  event _ _ hs := hs.of_eq (addEvent_pump _ _ _) (congrArg ErrLog.seq (addEvent_err _ _ _))
  channel _ _ hs := hs.of_eq rfl rfl
  qp _ _ hs := hs.of_eq rfl rfl
  lock _ hs := hs.of_eq rfl rfl
  port _ _ _ hs := hs.of_eq rfl rfl
  freed _ _ _ hs := hs.of_eq rfl rfl
  weir _ hs := hs.of_eq rfl rfl
  wire _ hs := hs.of_eq rfl rfl
  same hs e := hs.of_eq e.pump (congrArg ErrLog.seq e.err)
  core _ hs := hs.of_eq rfl rfl
  cores _ _ hs e := hs.of_eq e.pump (congrArg ErrLog.seq e.err)

theorem marked_array : ArrayClosed Marked where
  toUnitsClosed := marked_units
  array hs := hs.of_eq rfl rfl

theorem marked_enterFault (s : State) (unit index : Nat) : Marked (enterFault s unit index) := by
  unfold enterFault
  extract_lets logged n fault dev caused halted cause k posted free
  have hlogged : Marked logged := marked_logFault _ _ _ _ _ _ _ _ _
  have hfault : Marked fault := hlogged.of_eq (setDevState_pump _ _) (congrArg ErrLog.seq (setDevState_err _ _))
  have hcaused : Marked caused := hfault.of_eq (raiseCause_pump _ _) (congrArg ErrLog.seq (raiseCause_err _ _))
  have hposted : Marked posted := closed_foldl marked_units (hcaused.of_eq rfl rfl) (fun _ _ hs => marked_units.postedLogged _ _ hs)
  exact hposted.of_eq rfl rfl

theorem marked_takeOffline (s : State) (core : Nat) (why : OutReason) : Marked (takeOffline s core why) := by
  unfold takeOffline
  refine closed_timingEvent marked_units ?_
  exact (marked_logFault _ _ _ _ _ _ _ _ _).of_eq (s := logFault _ _ _ _ _ _ _ _ _) rfl rfl

theorem marked_firmwareOffline {s : State} {core : Nat} (why : OutReason) (here : coreIn s core = true) :
    Marked (firmwareOffline s core why) := by
  rw [firmwareOffline, here, if_neg (by decide)]
  exact closed_ite (marked_enterFault _ _ _) (marked_takeOffline _ _ _)

/-- What is left of a predicate, or a mark. -/
theorem offline_or_marked {Q : State → Prop} {s : State} (core : Nat) (why : OutReason) (hs : Q s ∨ Marked s) :
    Q (firmwareOffline s core why) ∨ Marked (firmwareOffline s core why) := by
  cases here : coreIn s core with
  | true => exact .inr (marked_firmwareOffline why here)
  | false => rwa [firmwareOffline, here]

theorem ended_or_marked {Q : State → Prop} {s : State} (id : CmdId) (st : Status) (detail : Nat) (hs : Q s ∨ Marked s) :
    Q (endOne s id st detail) ∨ Marked (endOne s id st detail) := by
  cases found : findCmd s id with
  | some c => exact .inr (marked_endOne found st detail)
  | none =>
    unfold endOne
    rwa [found]

end Sys2Proof.Machine
end

section
/-!
SUPPORT. A chain that has read its NEXT, or that has claimed a slot, stays so while the device settles.
-/
namespace Sys2Proof.Machine

/-- The last host sluice. -/
def lastSluice : Nat := 159

/-- The chain on the last host sluice has read NEXT or has claimed a slot. -/
def MovedOn (s : State) : Prop :=
  ∃ y, (getSluice s lastSluice).active = some y ∧ (y.nxt.isSome = true ∨ y.srcClaimed = true ∨ y.dstClaimed = true)

theorem MovedOn.of_sluices {s t : State} (hs : MovedOn s) (e : t.sluices = s.sluices) : MovedOn t := by
  rw [MovedOn, getSluice, e]
  exact hs

theorem movedOn_putSluice {s : State} {n : Nat} (x : Sluice) (h : n ≠ lastSluice) (hs : MovedOn s) : MovedOn (putSluice s n x) := by
  rw [MovedOn, getSluice_putSluice_ne s x h.symm]
  exact hs

theorem claimFor_field {β : Type} (F : State → β) (hF : ∀ s n x, F (putSlot s n x) = F s) (s : State) (c : SlChain) :
    F (claimFor s c).1 = F s := by
  unfold claimFor
  dsimp only
  split
  · split
    · exact (hF _ _ _).trans (hF _ _ _)
    · exact hF _ _ _
  · split
    · exact hF _ _ _
    · rfl

/-- A claim of the chains that wait changes the slots and one sluice. -/
theorem claimNext_field {β : Type} (F : State → β) (hF : ∀ s n x, F (putSlot s n x) = F s)
    (hS : ∀ s n x, F (putSluice s n x) = F s) {s t : State} (h : claimNext s = some t) : F t = F s := by
  obtain ⟨p, -, found⟩ := List.exists_of_findSome?_eq_some h
  split at found
  · cases found
  next c _ =>
    dsimp only at found
    split at found
    · cases found
      exact (hS _ _ _).trans (claimFor_field F hF s c)
    · cases found

/-- A chain that `claimFor` changes has claimed a slot. -/
theorem claimFor_claims {s : State} {c : SlChain} (h : (claimFor s c).2 ≠ c) :
    (claimFor s c).2.srcClaimed = true ∨ (claimFor s c).2.dstClaimed = true := by
  unfold claimFor at h ⊢
  dsimp only at h ⊢
  split
  · split
    · exact .inl rfl
    · exact .inl rfl
  next here =>
    rw [if_neg here] at h
    split
    · exact .inr rfl
    next there =>
      rw [if_neg there] at h
      exact absurd rfl h

theorem movedOn_claimNext {s : State} (hs : MovedOn s) : OptHolds MovedOn (claimNext s) := by
  refine opt_findSome (fun p => ?_)
  split
  · exact opt_none
  next c active =>
    extract_lets r
    split
    next claims =>
      have changed : r.2 ≠ c := by
        simp only [Bool.and_eq_true, bne_iff_ne] at claims
        exact claims.2
      refine opt_some ?_
      by_cases e : p.1 = lastSluice
      · refine ⟨r.2, ?_, .inr (claimFor_claims changed)⟩
        rw [e, getSluice_putSluice_self]
      · exact movedOn_putSluice _ e (hs.of_sluices (claimFor_field State.sluices (fun _ _ _ => rfl) s c))
    · exact opt_none

theorem movedOn_array : ArrayClosed (fun s => MovedOn s ∨ Marked s) where
  cmd _ hs := hs.imp (·.of_sluices rfl) (·.of_eq rfl rfl)
  log _ _ _ _ _ _ _ _ _ := .inr (marked_logFault _ _ _ _ _ _ _ _ _)
  net _ _ _ _ hs := hs.imp (·.of_sluices rfl) (·.of_eq rfl rfl)
  event e n hs := hs.imp (·.of_sluices (addEvent_sluices _ _ _)) (marked_units.event e n)
  channel _ _ hs := hs.imp (·.of_sluices rfl) (·.of_eq rfl rfl)
  qp _ _ hs := hs.imp (·.of_sluices rfl) (·.of_eq rfl rfl)
  lock _ hs := hs.imp (·.of_sluices rfl) (·.of_eq rfl rfl)
  port _ _ _ hs := hs.imp (·.of_sluices rfl) (·.of_eq rfl rfl)
  freed _ _ _ hs := hs.imp (·.of_sluices rfl) (·.of_eq rfl rfl)
  weir _ hs := hs.imp (·.of_sluices rfl) (·.of_eq rfl rfl)
  wire _ hs := hs.imp (·.of_sluices rfl) (·.of_eq rfl rfl)
  same hs e := hs.imp (·.of_sluices e.sluices) (marked_units.same · e)
  core _ hs := hs.imp (·.of_sluices rfl) (·.of_eq rfl rfl)
  cores hf e hs same := hs.imp (·.of_sluices same.sluices) (marked_units.cores hf e · same)
  array hs := hs.imp (·.of_sluices rfl) (·.of_eq rfl rfl)

theorem movedOn_settle : SettleClosed (fun s => MovedOn s ∨ Marked s) where
  toUnitsClosed := movedOn_array.toUnitsClosed
  window _ _ hs := hs.imp (·.of_sluices rfl) (·.of_eq rfl rfl)
  regs _ _ _ hs := hs.imp (·.of_sluices rfl) (·.of_eq rfl rfl)
  cmds _ hs := hs.imp (·.of_sluices rfl) (·.of_eq rfl rfl)
  ended id st detail hs := ended_or_marked id st detail hs
  offline core hs := offline_or_marked core .errors hs
  finish _ _ hs := closed_finishEnding hs movedOn_array fun id st detail hs => ended_or_marked id st detail hs
  sluice x hn hs := hs.imp (movedOn_putSluice x (by rw [lastSluice]; omega)) (·.of_eq rfl rfl)
  claim hs t e := hs.imp (movedOn_claimNext · t e) (·.of_eq (claimNext_field State.pump (fun _ _ _ => rfl) (fun _ _ _ => rfl) e)
    (claimNext_field (fun t => t.err.seq) (fun _ _ _ => rfl) (fun _ _ _ => rfl) e))

/-! ## The counterexample -/

/-- The parameters of a SLUICE_ARM of the last host sluice: 16 bytes from a berm slot that must be claimed, with chaining. -/
def slotChainParams : List Byte :=
  leBytes 8 lastSluice ++ [0, 3] ++ leBytes 2 0 ++ leBytes 4 16 ++ leBytes 8 0x1000000000 ++ leBytes 8 0 ++ leBytes 4 1 ++
    leBytes 36 0

/-- That SLUICE_ARM, which waits for its dispatch. -/
def slotChainCmd : Cmd :=
  { numberedNought .held with
    params := slotChainParams, hdr := { (numberedNought .held).hdr with opcode := 0x0102, paramLen := 9, waits := [] } }

/-- It is the next command of an inlet that is open; every slot is EMPTY. -/
def armingState : State :=
  { State.reset with
    dev := { State.reset.dev with state := .active }, inlets := [(0, { state := .open })], cmds := [slotChainCmd] }

/-- Whether the state after an arm has the chain on the sluice as it came, with nothing ended and nothing logged. -/
def armedIdle (o : Out) : Bool :=
  match o with
  | .next t => (getSluice t lastSluice).active == some (armChain slotChainCmd) && t.pump.ended.isEmpty && t.err.seq == 0
  | _ => false

theorem armedIdle_arming : armedIdle (exec (.sluiceArm 0) armingState) = true := by decide +kernel

theorem not_movedOn_of_armedIdle {t : State} (h : armedIdle (.next t) = true) : ¬ (MovedOn t ∨ Marked t) := by
  simp only [armedIdle, Bool.and_eq_true, beq_iff_eq, List.isEmpty_iff] at h
  obtain ⟨⟨active, ended⟩, seq⟩ := h
  rintro (⟨y, there, moved⟩ | marked | marked)
  · cases active.symm.trans there
    revert moved
    decide +kernel
  · exact marked ended
  · exact marked seq

end Sys2Proof.Machine

open Sys2Proof Sys2Proof.Machine

/-- Refutes O28: a chain whose first segment waits for a slot does not read NEXT as it is armed (R208), and no settling takes a NEXT
that has been read back. The SLUICE_ARM of `armingState` waits for slot 0, which is EMPTY. -/
theorem not_sluicesTakeChains : ¬ Obligations.SluicesTakeChains := by
  unfold Obligations.SluicesTakeChains
  intro h
  obtain ⟨arms, _⟩ := h armingState 0 slotChainCmd
  obtain ⟨_, reads⟩ := arms (by decide +kernel) (by decide +kernel) (by decide +kernel) (by decide +kernel)
  obtain ⟨t, run, _, active, _⟩ := reads (by decide +kernel) (by decide +kernel) (by decide +kernel) (by decide +kernel)
  have moved : MovedOn t := ⟨_, active, .inl rfl⟩
  exact not_movedOn_of_armedIdle (run ▸ armedIdle_arming) (closed_settle movedOn_settle (.inl moved))

end

section
/-!
SUPPORT. A device in which only the arrays are at work, and with no queue pair and no flow, moves no byte of memory and passes no time
as it settles but in the steps of its arrays, unless a command ends or a core goes out of service.
-/
namespace Sys2Proof.Machine

/-- A predicate that settling keeps, and that holds of every device with a command that is ending or not of the arrays, with a queue
pair or with a flow; an end, and a core that goes out of service, bring it about. -/
structure Watch (K : State → Prop) : Prop extends SettleClosed K where
  arrays : ∀ {s}, ¬ K s → ∀ c ∈ s.cmds, c.work.isArray = true ∧ c.ending = none
  pairs : ∀ {s}, ¬ K s → s.qps = []
  flows : ∀ {s}, s.net.flowRx ≠ [] → K s
  ends : ∀ {s id c} st detail, findCmd s id = some c → K (endOne s id st detail)
  out : ∀ {s core}, coreIn s core = true → K (firmwareOffline s core .errors)

/-- A reading of memory and of the clock. -/
def Timed {β : Type} (F : State → β) : Prop := ∀ {s t}, t.mem = s.mem → t.clk = s.clk → F t = F s

/-- A reading is as given, or what is watched for has come about. -/
def KeptOr {β : Type} (F : State → β) (b : β) (K : State → Prop) (s : State) : Prop := F s = b ∨ K s

theorem KeptOr.step {β : Type} {F : State → β} {b : β} {K : State → Prop} {s t : State} (hs : KeptOr F b K s) (same : F t = F s)
    (kept : K s → K t) : KeptOr F b K t := hs.imp same.trans kept

/-! ## Commands of the arrays -/

section
variable {s : State} (arrays : ∀ c ∈ s.cmds, c.work.isArray = true)
include arrays

omit arrays in
theorem array_of_isArray {w : Work} (h : w.isArray = true) : ∃ a, w = .array a := by
  unfold Work.isArray at h
  split at h
  next a => exact ⟨a, rfl⟩
  · cases h

theorem findSome?_arrays {β : Type} {f : Cmd → Option β} (skips : ∀ c a, c.work = .array a → f c = none) :
    s.cmds.findSome? f = none :=
  List.findSome?_eq_none_iff.2 (fun c hc => (array_of_isArray (arrays c hc)).elim (skips c))

theorem collCmd_arrays (g seq : Nat) : collCmd s g seq = none :=
  findSome?_arrays arrays (fun c w work => by rw [work])

theorem dikeCmd_arrays (g seq : Nat) : dikeCmd s g seq = none :=
  findSome?_arrays arrays (fun c w work => by rw [work])

theorem sourceNext_arrays : sourceNext s = none :=
  findSome?_arrays arrays (fun c w work => by rw [work])

theorem arrays_work {id : CmdId} {c : Cmd} (found : findCmd s id = some c) : c.work.isArray = true :=
  arrays c (List.mem_of_find?_eq_some found)

theorem secFirst_arrays : secFirst s = none := by
  have none : s.cmds.filter secWaits = [] := List.filter_eq_nil_iff.2 (fun c hc waits => by
    obtain ⟨a, work⟩ := array_of_isArray (arrays c hc)
    rw [secWaits, work] at waits
    cases waits)
  rw [secFirst, none]
  rfl

theorem opTurn_arrays : s.cmds.find? (opTurn s) = none := by
  refine List.find?_eq_none.2 (fun c hc turn => ?_)
  obtain ⟨a, work⟩ := array_of_isArray (arrays c hc)
  rw [opTurn, opOf, work] at turn
  cases turn

theorem xferNext_arrays : xferNext s = none := by
  have none : waitingXfer s = none := by
    unfold waitingXfer
    dsimp only
    rw [List.filterMap_eq_nil_iff.2 (fun c hc => ?_)]
    · rfl
    · obtain ⟨a, work⟩ := array_of_isArray (arrays c hc)
      rw [work]
  rw [xferNext, none]

end

/-! ## Steps that keep a reading, or bring it about -/

section
variable {β : Type} {F : State → β} {K : State → Prop} (timed : Timed F) (watch : Watch K) {b : β}
include timed watch

theorem keptOr_net : NetClosed (KeptOr F b K) where
  cmd hf hs := hs.step (timed rfl rfl) (watch.cmd hf)
  log _ _ _ _ _ _ _ _ hs := hs.step (timed (logFault_mem _ _ _ _ _ _ _ _ _) (logFault_clk _ _ _ _ _ _ _ _ _))
    (watch.log _ _ _ _ _ _ _ _)
  net x w r flows hs := hs.step (timed rfl rfl) (watch.net x w r flows)
  event e n hs := hs.step (timed (addEvent_mem _ _ _) (addEvent_clk _ _ _)) (watch.event e n)
  channel n x hs := hs.step (timed rfl rfl) (watch.channel n x)
  qp n x hs := hs.step (timed rfl rfl) (watch.qp n x)
  lock x hs := hs.step (timed rfl rfl) (watch.lock x)
  port x up link hs := hs.step (timed rfl rfl) (watch.port x up link)
  freed p key n hs := hs.step (timed rfl rfl) (watch.freed p key n)
  weir x hs := hs.step (timed rfl rfl) (watch.weir x)
  wire x hs := hs.step (timed rfl rfl) (watch.wire x)

omit timed in
/-- A step that keeps the reading where only the arrays are at work, and that keeps what is watched for. -/
theorem keptOr_of_arrays {s t : State} (idle : (∀ c ∈ s.cmds, c.work.isArray = true) → KeptOr F b K t) (kept : K s → K t) :
    KeptOr F b K t := by
  by_cases hs : K s
  · exact .inr (kept hs)
  · exact idle (fun c hc => (watch.arrays hs c hc).1)

/-! ## Packets -/

omit timed in
theorem watch_flowDone {s : State} (k : Packet) (due : List FlowDue) : K (flowDone s k due) := by
  have put (key : Nat) (f : FlowRx) : K (putFlowRx s key f) := watch.flows (tabSet_ne_nil _ _ _)
  have taken (key : Nat) (f : FlowRx) : K (flowSignals (putFlowRx s key f) key) := watch.toNetClosed.signalled _ (put key f)
  rw [flowDone, flowLand]
  exact closed_ite (watch.routed _ (taken _ _)) (taken _ _)

omit timed in
theorem watch_landReduce (s : State) (base : Nat) (k : Packet) : K (landReduce s base k) := by
  unfold landReduce
  extract_lets g c rows
  have hrows : K rows := watch_flowDone watch _ _
  refine closed_ite ?_ ?_
  · split
    · exact hrows
    · exact closed_joinChunk watch.toSettleClosed (closed_progress watch.toUnitsClosed (closed_setWork watch.toUnitsClosed hrows rfl))
  · split
    · exact watch_flowDone watch _ _
    · exact watch_flowDone watch _ _

omit timed in
/-- A write that lands leaves a flow. -/
theorem watch_landData (s : State) (base : Nat) (k : Packet) (i : Option Ingress) : K (landData s base k i) := by
  unfold landData
  split
  · exact watch_flowDone watch _ _
  · exact watch_landReduce watch _ _ _
  · exact watch_flowDone watch _ _

section
variable {s : State} (hs : KeptOr F b K s)
include hs

theorem keptOr_recvData (k : Packet) (i : Option Ingress) : KeptOr F b K (recvData s k i) := by
  have net : NetClosed (KeptOr F b K) := keptOr_net timed watch
  unfold recvData
  extract_lets x passed
  have hp : KeptOr F b K passed := closed_ite (net.passedMcast _ _ hs) hs
  split
  · exact .inr (watch_flowDone watch _ _)
  · exact closed_ite (net.net _ rfl rfl (fun e => e) hp) (.inr (watch_landData watch _ _ _ _))

omit timed in
theorem keptOr_recvCts (k : Packet) : KeptOr F b K (recvCts s k) := by
  refine keptOr_of_arrays watch (fun arrays => ?_) (fun h => closed_recvCts watch.toSettleClosed h)
  unfold recvCts
  split
  · exact hs
  next c found =>
    have array := arrays_work arrays found
    split
    next work =>
      rw [work] at array
      cases array
    · exact hs

theorem keptOr_recvCredit (k : Packet) : KeptOr F b K (recvCredit s k) := by
  refine keptOr_of_arrays watch (fun arrays => ?_) (fun h => closed_recvCredit watch.toSettleClosed h)
  rw [recvCredit, collCmd_arrays arrays]
  exact closed_addEarly (keptOr_net timed watch) hs

theorem keptOr_recvArrive (k : Packet) : KeptOr F b K (recvArrive s k) := by
  refine keptOr_of_arrays watch (fun arrays => ?_) (fun h => closed_recvArrive watch.toSettleClosed h)
  rw [recvArrive, dikeCmd_arrays arrays]
  exact closed_addEarly (keptOr_net timed watch) hs

omit timed in
theorem keptOr_recvRelease (k : Packet) : KeptOr F b K (recvRelease s k) := by
  refine keptOr_of_arrays watch (fun arrays => ?_) (fun h => closed_recvRelease watch.toSettleClosed h)
  rw [recvRelease, dikeCmd_arrays arrays]
  exact hs

/-- A packet that is taken keeps the reading, or leaves a flow. -/
theorem keptOr_receive (k : Packet) (i : Option Ingress) : KeptOr F b K (receive s k i) := by
  have net : NetClosed (KeptOr F b K) := keptOr_net timed watch
  have freed : KeptOr F b K (freePacket s i k) := closed_freePacket net hs
  unfold receive
  refine closed_ite (keptOr_recvData timed watch hs k i) ?_
  dsimp only
  split
  · exact closed_recvAck net freed
  · exact closed_recvRefuse net freed
  · exact closed_recvNotice net freed
  · exact closed_recvFlowReset net freed
  · exact closed_recvRts net freed
  · exact keptOr_recvCts watch freed k
  · exact keptOr_recvCredit timed watch freed k
  · exact closed_recvCollAbort net freed
  · exact keptOr_recvArrive timed watch freed k
  · exact keptOr_recvRelease watch freed k
  · exact freed

/-! ## Ends -/

theorem keptOr_endCmd (id : CmdId) (st : Status) (detail : Nat) : KeptOr F b K (endCmd s id st detail) := by
  have ended : KeptOr F b K (endOne s id st detail) := by
    cases found : findCmd s id with
    | some c => exact .inr (watch.ends st detail found)
    | none =>
      unfold endOne
      rwa [found]
  exact closed_ite ended (closed_postAll (keptOr_net timed watch) ended)

theorem keptOr_endDone (c : Cmd) (r : Status × Nat) : KeptOr F b K (endDone s c r) := by
  have digest := closed_cmdDigest (keptOr_net timed watch) hs (id := c.id) (st := r.1) (detail := r.2)
  unfold endDone
  extract_lets digested
  have hd : KeptOr F b K digested := by
    unfold digested
    split
    · exact closed_ite digest hs
    · exact digest
  exact closed_ite hd (keptOr_endCmd timed watch hd _ _ _)

theorem keptOr_weirServe : KeptOr F b K (weirServe s) := by
  have net : NetClosed (KeptOr F b K) := keptOr_net timed watch
  have served (x : Weir) : KeptOr F b K { s with weir := x } := net.weir x hs
  unfold weirServe
  refine closed_ite hs (foldl_closed (P := KeptOr F b K) (fun _ _ hs => net.txRan _ _ hs) _
    (foldl_closed (P := KeptOr F b K) (fun _ w hs => ?_) _ (served _)))
  exact net.cmd (fun c => ⟨rfl, fun e => e, fun _ => rfl⟩) (net.weir _ hs)

end

/-! ## The other things that follow at once -/

omit timed in
theorem keptOr_offlineNext {s : State} : OptHolds (KeptOr F b K) (offlineNext s) := by
  unfold offlineNext
  split
  · exact opt_none
  · intro t e
    obtain ⟨p, found, rfl⟩ := Option.map_eq_some_iff.1 e
    have reached := List.find?_some found
    obtain ⟨inService, -⟩ := Bool.and_eq_true_iff.1 reached
    exact .inr (watch.out inService)

omit watch in
theorem timed_closeNext {s t : State} (h : closeNext s = some t) : F t = F s := by
  unfold closeNext at h
  split at h
  · cases h
  · cases h
    exact timed rfl rfl

omit watch in
theorem timed_mailboxDo {s : State} {op : Nat} {req : List Byte} {r : List Byte × State} (h : mailboxDo s op req = some r) :
    F r.2 = F s := by
  unfold mailboxDo at h
  split at h
  · cases h
    exact timed rfl rfl
  · split at h
    · cases h
      rfl
    · split at h
      · cases h
        rfl
      · cases h
  · cases h
    rfl
  · split at h
    · cases h
      rfl
    · cases h
  · cases h

omit watch in
theorem timed_mailboxNow (s : State) (x : MbxWait) : F (mailboxNow s x) = F s := by
  unfold mailboxNow
  extract_lets sec left
  have hleft : F left = F s := timed rfl rfl
  split
  next r done =>
    have kept : F r.2 = F s := (timed_mailboxDo timed done).trans hleft
    split
    · exact (timed (s := r.2) (t := replyWith r.2 0 r.1) rfl rfl).trans kept
    · exact (timed (s := r.2) (t := mailboxEnd r.2 r.1) rfl rfl).trans kept
  · exact hleft

omit watch in
theorem timed_secNext {s t : State} (arrays : ∀ c ∈ s.cmds, c.work.isArray = true) (h : secNext s = some t) : F t = F s := by
  unfold secNext at h
  rw [secFirst_arrays arrays] at h
  split at h
  · cases h
  · split at h
    next eq => cases eq
    · cases h
      exact timed_mailboxNow timed _ _
    next eq => cases eq
    · cases h

theorem keptOr_inboundNext {s : State} (hs : KeptOr F b K s) (idle : s.qps = []) : OptHolds (KeptOr F b K) (inboundNext s) := by
  unfold inboundNext
  split
  · exact opt_none
  · extract_lets regs r
    have hr : KeptOr F b K r := (keptOr_net timed watch).net _ rfl rfl (fun e => e) hs
    split
    · split
      · exact opt_some (.inr (watch_landData watch _ _ _ _))
      · exact opt_none
    next q _ _ _ =>
      have free : (getQp s q).st != .ready := by
        rw [getQp, idle]
        rfl
      rw [if_pos free]
      refine opt_some ?_
      unfold pfcCheck
      split
      · exact hr
      · refine closed_ite hr (hr.step (timed rfl rfl) fun h => ?_)
        exact watch.same h ⟨rfl, rfl, rfl, rfl, rfl, rfl, rfl, rfl⟩

/-- What the arrays do at once keeps a reading. -/
def ArraysKeep (F : State → β) (K : State → Prop) : Prop := ∀ s, ¬ K s →
  OptHolds (KeptOr F (F s) K) (stripNext s) ∧ OptHolds (KeptOr F (F s) K) (vacantNext s) ∧ OptHolds (KeptOr F (F s) K) (tileNext s)

/-- What follows at once keeps a reading that the arrays keep, or brings about what is watched for. -/
theorem keptOr_settleNext (units : ArraysKeep F K) {s : State} (idle : ¬ K s) : OptHolds (KeptOr F (F s) K) (settleNext s) := by
  have same : KeptOr F (F s) K s := .inl rfl
  have arrays (c : Cmd) (hc : c ∈ s.cmds) := (watch.arrays idle c hc).1
  obtain ⟨strip, vacant, tile⟩ := units s idle
  unfold settleNext
  split
  · refine opt_some (keptOr_receive timed watch ?_ _ _)
    exact (keptOr_net timed watch).net _ rfl rfl (fun e => e) same
  · rw [show s.cmds.find? (fun c => c.ending.isSome) = none from
      List.find?_eq_none.2 (fun c hc => by rw [(watch.arrays idle c hc).2]; decide)]
    dsimp only
    split
    next taken =>
      exact fun t e => opt_orElse (keptOr_offlineNext watch) (fun t e => .inl (timed_closeNext timed e)) t (taken.trans e)
    · split
      · exact opt_some (keptOr_endDone timed watch same _ _)
      · rw [opTurn_arrays arrays, sourceNext_arrays arrays, xferNext_arrays arrays]
        refine opt_orElse (opt_orElse (opt_orElse (opt_orElse (fun t e => .inl (timed_secNext timed arrays e)) ?_) opt_none) ?_) ?_
        · exact keptOr_inboundNext timed watch same (watch.pairs idle)
        · unfold unitsNext
          split
          · exact opt_some (keptOr_weirServe timed watch same)
          · refine opt_orElse (opt_orElse (opt_orElse strip vacant) (fun t e => .inl ?_)) tile
            exact timed (claimNext_field State.mem (fun _ _ _ => rfl) (fun _ _ _ => rfl) e)
              (claimNext_field State.clk (fun _ _ _ => rfl) (fun _ _ _ => rfl) e)
        · exact opt_map (fun _ => .inl (timed rfl rfl))

/-- Settling that does not bring about what is watched for keeps the reading. -/
theorem kept_settleRun (units : ArraysKeep F K) {n : Nat} {s : State} (idle : ¬ K (settleRun n s)) : F (settleRun n s) = F s := by
  have closed := watch.toSettleClosed
  induction n generalizing s with
  | zero => rfl
  | succ n ih =>
    have before : ¬ K s := fun hs => idle (closed_settleRun closed hs)
    unfold settleRun at idle ⊢
    split
    · rfl
    next t next =>
      rw [next] at idle
      have kept := (keptOr_settleNext timed watch units before t next).resolve_right (fun ht => idle (closed_settleRun closed ht))
      exact (ih idle).trans kept

theorem kept_settle (units : ArraysKeep F K) {s : State} (idle : ¬ K (settle s)) : F (settle s) = F s := by
  have run : ¬ K (settleRun settleFuel s) := fun hs => idle (watch.same hs ⟨rfl, rfl, rfl, rfl, rfl, rfl, rfl, rfl⟩)
  exact (timed (s := settleRun settleFuel s) (t := settle s) rfl rfl).trans (kept_settleRun timed watch units run)

end
end Sys2Proof.Machine
end

section
/-!
SUPPORT. A device with no command in flight, and a segment of a chain whose command is not in flight.
-/
namespace Sys2Proof.Machine

/-- A command is in flight, or a queue pair or a flow is known. -/
def Busy (s : State) : Prop := s.cmds ≠ [] ∨ s.qps ≠ [] ∨ s.net.flowRx ≠ []

/-- The same, or one of the marks is set. -/
def Stirred (s : State) : Prop := Busy s ∨ Marked s

theorem Stirred.of_eq {s t : State} (hs : Stirred s) (cmds : s.cmds ≠ [] → t.cmds ≠ []) (qps : s.qps ≠ [] → t.qps ≠ [])
    (flows : s.net.flowRx ≠ [] → t.net.flowRx ≠ []) (pump : t.pump = s.pump) (err : t.err.seq = s.err.seq) : Stirred t :=
  hs.imp (Or.imp cmds (Or.imp qps flows)) (·.of_eq pump err)

/-- What keeps the commands, the queue pairs, the network's registers and the marks. -/
theorem Stirred.kept {s t : State} (hs : Stirred s) (cmds : t.cmds = s.cmds) (qps : t.qps = s.qps) (net : t.net = s.net)
    (pump : t.pump = s.pump) (err : t.err.seq = s.err.seq) : Stirred t :=
  hs.of_eq (cmds ▸ id) (qps ▸ id) (net ▸ id) pump err

theorem map_ne_nil_of_ne_nil {α β : Type} {f : α → β} {l : List α} (h : l ≠ []) : l.map f ≠ [] := fun e => h (List.map_eq_nil_iff.1 e)

theorem addEvent_cmds_ne_nil {s : State} (e n : Nat) (h : s.cmds ≠ []) : (addEvent s e n).cmds ≠ [] := fun none =>
  h (List.map_eq_nil_iff.1 ((addEvent_ids s e n).symm.trans (List.map_eq_nil_iff.2 none)))

theorem stirred_modCmd {s : State} {id : CmdId} {f : Cmd → Cmd} (hs : Stirred s) : Stirred (modCmd s id f) :=
  hs.of_eq (t := modCmd s id f) map_ne_nil_of_ne_nil (fun e => e) (fun e => e) rfl rfl

theorem stirred_net {s : State} (x : PortsRegs) (flows : x.flowRx = [] → s.net.flowRx = []) (hs : Stirred s) :
    Stirred { s with net := x } :=
  hs.of_eq (t := { s with net := x }) id id (mt flows) rfl rfl

theorem stirred_addEvent {s : State} (e n : Nat) (hs : Stirred s) : Stirred (addEvent s e n) :=
  hs.of_eq (addEvent_cmds_ne_nil e n) (addEvent_qps s e n ▸ id) (addEvent_net s e n ▸ id) (addEvent_pump _ _ _)
    (congrArg ErrLog.seq (addEvent_err _ _ _))

theorem stirred_putQp (s : State) (n : Nat) (x : Qp) : Stirred (putQp s n x) := .inl (.inr (.inl (tabSet_ne_nil _ _ _)))

theorem stirred_endOne {s : State} (id : CmdId) (st : Status) (detail : Nat) (hs : Stirred s) : Stirred (endOne s id st detail) :=
  ended_or_marked (Q := Busy) id st detail hs

theorem stirred_array : ArrayClosed Stirred where
  cmd _ hs := stirred_modCmd hs
  log _ _ _ _ _ _ _ _ _ := .inr (marked_logFault _ _ _ _ _ _ _ _ _)
  net x _ _ flows hs := stirred_net x flows hs
  event e n hs := stirred_addEvent e n hs
  channel _ _ hs := hs.kept rfl rfl rfl rfl rfl
  qp n x _ := stirred_putQp _ n x
  lock _ hs := hs.kept rfl rfl rfl rfl rfl
  port _ _ _ hs := hs.kept rfl rfl rfl rfl rfl
  freed _ _ _ hs := hs.kept rfl rfl rfl rfl rfl
  weir _ hs := hs.kept rfl rfl rfl rfl rfl
  wire _ hs := hs.kept rfl rfl rfl rfl rfl
  same hs e := hs.kept e.cmds e.qps e.net e.pump (congrArg ErrLog.seq e.err)
  core _ hs := hs.kept rfl rfl rfl rfl rfl
  cores _ _ hs e := hs.kept e.cmds e.qps e.net e.pump (congrArg ErrLog.seq e.err)
  array hs := stirred_modCmd hs

theorem stirred_watch : Watch Stirred where
  toUnitsClosed := stirred_array.toUnitsClosed
  window _ _ hs := hs.of_eq id id id rfl rfl
  regs x _ flows hs := stirred_net x flows hs
  cmds _ hs := hs.of_eq map_ne_nil_of_ne_nil id id rfl rfl
  ended := stirred_endOne
  offline core hs := offline_or_marked (Q := Busy) core .errors hs
  sluice _ _ hs := hs.kept rfl rfl rfl rfl rfl
  claim hs _ e := hs.kept (claimNext_field State.cmds (fun _ _ _ => rfl) (fun _ _ _ => rfl) e)
    (claimNext_field State.qps (fun _ _ _ => rfl) (fun _ _ _ => rfl) e)
    (claimNext_field State.net (fun _ _ _ => rfl) (fun _ _ _ => rfl) e)
    (claimNext_field State.pump (fun _ _ _ => rfl) (fun _ _ _ => rfl) e)
    (claimNext_field (fun t => t.err.seq) (fun _ _ _ => rfl) (fun _ _ _ => rfl) e)
  finish _ _ hs := closed_finishEnding hs stirred_array stirred_endOne
  arrays idle c hc := absurd (.inl (.inl (List.ne_nil_of_mem hc))) idle
  pairs idle := Classical.not_not.1 fun ne => idle (.inl (.inr (.inl ne)))
  flows ne := .inl (.inr (.inr ne))
  ends st detail found := .inr (marked_endOne found st detail)
  out inService := .inr (marked_firmwareOffline .errors inService)

/-! ## Memory -/

/-- With no command in flight the arrays do nothing. -/
theorem stirred_arrays : ArraysKeep State.mem Stirred := by
  intro s idle
  have cmds : s.cmds = [] := Classical.not_not.1 fun ne => idle (.inl (.inl ne))
  refine ⟨?_, ?_, ?_⟩
  · rw [stripNext, cmds]
    exact opt_none
  · refine opt_findSome (fun p => ?_)
    have here : epiHere s p.1 = none := by
      unfold epiHere
      split
      · rfl
      · simp only [getItem, arrayWork, findCmd, cmds, List.find?_nil, Option.map_none, ite_self]
    rw [here]
    exact opt_none
  · rw [tileNext, cmds, List.filter_nil, List.mergeSort_nil]
    exact opt_none

/-- Settling that leaves nothing stirred leaves memory. -/
theorem mem_settle {s : State} (idle : ¬ Stirred (settle s)) : (settle s).mem = s.mem :=
  kept_settle (fun mem _ => mem) stirred_watch stirred_arrays idle

/-! ## The counterexample -/

/-- A descriptor that moves 16 bytes from address 0 to address 0x1000. -/
def strayDesc : Desc :=
  { mode := 0, dflags := 0, signalId := 0, rowBytes := 16, src := 0, dst := 0x1000, rows := 1, planes := 1, srcStride1 := 0
    dstStride1 := 0, srcStride2 := 0, dstStride2 := 0, idxAddr := 0, next := 0 }

/-- Its chain, on behalf of a command that is not in flight. -/
def strayChain : SlChain := { cmd := 0, desc := strayDesc, lo := 0, hi := 16, pos := 0 }

/-- That chain runs on sluice 0, and the byte at address 0 is 1. -/
def strayState : State :=
  putSluice (writeMem State.reset 0 [1]) 0 { st := .running, active := some strayChain, shadow := none }

/-- Whether nothing is stirred after an outcome, and memory is that of a state. -/
def leftAlone (s : State) (o : Out) : Bool :=
  match o with
  | .next t => t.cmds.isEmpty && t.qps.isEmpty && t.net.flowRx.isEmpty && t.pump.ended.isEmpty && t.err.seq == 0 && t.mem == s.mem
  | _ => false

theorem leftAlone_stray : leftAlone strayState (exec (.segmentComplete 0) strayState) = true := by decide +kernel

theorem leftAlone_next {s t : State} (h : leftAlone s (.next t) = true) : ¬ Stirred t ∧ t.mem = s.mem := by
  simp only [leftAlone, Bool.and_eq_true, beq_iff_eq, List.isEmpty_iff] at h
  obtain ⟨⟨⟨⟨⟨cmds, qps⟩, flows⟩, ended⟩, seq⟩, mem⟩ := h
  refine ⟨?_, mem⟩
  rintro ((ne | ne | ne) | ne | ne)
  · exact ne cmds
  · exact ne qps
  · exact ne flows
  · exact ne ended
  · exact ne seq

end Sys2Proof.Machine

open Sys2Proof Sys2Proof.Machine

/-- Refutes O29: a chain whose command is no longer in flight moves no byte at its SEGMENT_COMPLETE, and its hypotheses do not ask for
the command. The segment of `strayState` would move the byte 1 to address 0x1000. -/
theorem not_segmentMovesItsBytes : ¬ Obligations.SegmentMovesItsBytes := by
  unfold Obligations.SegmentMovesItsBytes
  intro h
  obtain ⟨-, -, moves⟩ := h strayState 0 strayChain (by decide +kernel) (by decide +kernel)
  obtain ⟨t, run, moved, -⟩ := moves (by decide +kernel) (by decide +kernel) (by decide +kernel) (by decide +kernel)
    (by decide +kernel) (by decide +kernel) (by decide +kernel) (by decide +kernel) (by decide +kernel) (by decide +kernel)
    (by decide +kernel)
  obtain ⟨idle, kept⟩ := leftAlone_next (run ▸ leftAlone_stray)
  have mem : t.mem = strayState.mem := (mem_settle idle).symm.trans kept
  have same : readByte t 0x1000 = readByte strayState 0x1000 :=
    congrArg (fun m : Memory => tabGet m.cells (unlisted m.lost 0x1000) 0x1000) mem
  have came : readByte t 0x1000 = readByte strayState 0 := moved 0 (by decide +kernel)
  have differ : readByte strayState 0x1000 ≠ readByte strayState 0 := by decide +kernel
  exact differ (same.symm.trans came)

end

section
/-!
SUPPORT. A core that leaves service for its age completes an item first (R127), and its reads may wait for the weir; settling passes
no time then.
-/
namespace Sys2Proof.Machine

/-- EXTRA of the record of a core that leaves service for its age, without errors (Table 14.9). -/
def agedExtra : W64 := 0x3000000

/-- Two records were logged, or one that is not of such a core. -/
def Blamed (s : State) : Prop :=
  2 ≤ s.err.seq ∨ (s.err.seq = 1 ∧ (tabFind? s.err.records 0).map (·.extra) ≠ some agedExtra)

theorem Blamed.of_eq {s t : State} (hs : Blamed s) (seq : t.err.seq = s.err.seq) (records : t.err.records = s.err.records) :
    Blamed t := by
  rw [Blamed, seq, records]
  exact hs

/-- A queue pair or a flow is known, a command has ended, or such records were logged. -/
def Touched (s : State) : Prop := s.qps ≠ [] ∨ s.net.flowRx ≠ [] ∨ s.pump.ended ≠ [] ∨ Blamed s

/-- The same, or a command in flight is of a kind. -/
def Alive (q : Cmd → Prop) (s : State) : Prop := (∃ c ∈ s.cmds, q c) ∨ Touched s

/-! ## Steps keep it -/

/-- A kind of commands that a step keeps. -/
def Stable (q : Cmd → Prop) : Prop := ∀ c d, KeepsCmd c d → q c → q d

section
variable {q : Cmd → Prop}

theorem Alive.of_eq {s t : State} (hs : Alive q s) (cmds : (∃ c ∈ s.cmds, q c) → ∃ c ∈ t.cmds, q c) (qps : s.qps ≠ [] → t.qps ≠ [])
    (flows : s.net.flowRx ≠ [] → t.net.flowRx ≠ []) (pump : t.pump = s.pump) (seq : t.err.seq = s.err.seq)
    (records : t.err.records = s.err.records) : Alive q t := by
  refine hs.imp cmds (Or.imp qps (Or.imp flows (Or.imp (fun ended => ?_) (·.of_eq seq records))))
  rwa [pump]

/-- What keeps the commands, the queue pairs, the network's registers, the accounts and the log. -/
theorem Alive.kept {s t : State} (hs : Alive q s) (cmds : t.cmds = s.cmds) (qps : t.qps = s.qps) (net : t.net = s.net)
    (pump : t.pump = s.pump) (seq : t.err.seq = s.err.seq) (records : t.err.records = s.err.records) : Alive q t :=
  hs.of_eq (cmds ▸ id) (qps ▸ id) (net ▸ id) pump seq records

theorem exists_map {f : Cmd → Cmd} (hf : ∀ c, q c → q (f c)) {l : List Cmd} (h : ∃ c ∈ l, q c) : ∃ c ∈ l.map f, q c := by
  obtain ⟨c, hc, hq⟩ := h
  exact ⟨f c, List.mem_map_of_mem hc, hf c hq⟩

variable (stable : Stable q)
include stable

theorem alive_mapCmds {s : State} {f : Cmd → Cmd} (hf : ∀ c, KeepsCmd c (f c)) (hs : Alive q s) :
    Alive q { s with cmds := s.cmds.map f } :=
  hs.of_eq (t := { s with cmds := s.cmds.map f }) (exists_map fun c => stable c _ (hf c)) (fun e => e) (fun e => e) rfl rfl rfl

theorem alive_modCmd {s : State} {id : CmdId} {f : Cmd → Cmd} (hf : ∀ c, KeepsCmd c (f c)) (hs : Alive q s) :
    Alive q (modCmd s id f) := by
  refine alive_mapCmds stable (fun c => ?_) hs
  split
  · exact hf c
  · exact ⟨rfl, fun e => e, fun e => e⟩

omit stable in
theorem keepsCmd_latchCmd (s : State) (c : Cmd) : KeepsCmd c (latchCmd s c) := by
  refine ⟨rfl, fun e => e, fun plain => ?_⟩
  unfold latchCmd
  dsimp only
  split
  · rfl
  · exact plain

theorem alive_addEvent {s : State} (e n : Nat) (hs : Alive q s) : Alive q (addEvent s e n) := by
  unfold addEvent setEvent
  split
  · exact hs
  · exact hs.of_eq (t := latch _) (exists_map fun c => stable c _ (keepsCmd_latchCmd _ c)) (fun e => e) (fun e => e) rfl rfl rfl

omit stable in
theorem alive_logFault {s : State} (a b c d : Nat) (e : Option Cmd) (g i j : Nat) (hs : Alive q s) :
    Alive q (logFault s a b c d e g i j) := by
  rw [Alive, Touched, logFault_cmds, logFault_qps, logFault_net, logFault_pump, Blamed, logFault_seq]
  refine hs.imp_right (Or.imp_right (Or.imp_right (Or.imp_right fun blamed => .inl ?_)))
  obtain two | ⟨one, -⟩ := blamed
  · omega
  · omega

omit stable in
theorem alive_net {s : State} (x : PortsRegs) (flows : x.flowRx = [] → s.net.flowRx = []) (hs : Alive q s) :
    Alive q { s with net := x } :=
  hs.of_eq (t := { s with net := x }) id id (mt flows) rfl rfl rfl

theorem alive_units : UnitsClosed (Alive q) where
  cmd hf hs := alive_modCmd stable hf hs
  log _ _ _ _ _ _ _ _ hs := alive_logFault _ _ _ _ _ _ _ _ hs
  net x _ _ flows hs := alive_net x flows hs
  event e n hs := alive_addEvent stable e n hs
  channel _ _ hs := hs.kept rfl rfl rfl rfl rfl rfl
  qp _ _ _ := .inr (.inl (tabSet_ne_nil _ _ _))
  lock _ hs := hs.kept rfl rfl rfl rfl rfl rfl
  port _ _ _ hs := hs.kept rfl rfl rfl rfl rfl rfl
  freed _ _ _ hs := hs.kept rfl rfl rfl rfl rfl rfl
  weir _ hs := hs.kept rfl rfl rfl rfl rfl rfl
  wire _ hs := hs.kept rfl rfl rfl rfl rfl rfl
  same hs e := hs.kept e.cmds e.qps e.net e.pump (congrArg ErrLog.seq e.err) (congrArg ErrLog.records e.err)
  core _ hs := hs.kept rfl rfl rfl rfl rfl rfl
  cores _ _ hs e := hs.kept e.cmds e.qps e.net e.pump (congrArg ErrLog.seq e.err) (congrArg ErrLog.records e.err)

omit stable in
theorem alive_endOne {s : State} (id : CmdId) (st : Status) (detail : Nat) (hs : Alive q s) : Alive q (endOne s id st detail) := by
  cases found : findCmd s id with
  | some c => exact .inr (.inr (.inr (.inl (ended_endOne found st detail))))
  | none =>
    unfold endOne
    rwa [found]

/-! ## A core leaves service for its errors -/

omit stable in
theorem blamed_logFault (s : State) (a b c d : Nat) (e : Option Cmd) (g i j : Nat) (other : BitVec.ofNat 64 j ≠ agedExtra) :
    Blamed (logFault s a b c d e g i j) := by
  rw [Blamed, logFault_seq]
  cases seq : s.err.seq with
  | succ n => exact .inl (by omega)
  | zero =>
    refine .inr ⟨rfl, ?_⟩
    rw [logFault, writeLog, raiseCause_err]
    dsimp only
    rw [seq]
    show (tabFind? (tabSet _ 0 _) 0).map _ ≠ _
    rw [tabFind?_tabSet_self]
    exact fun e => other (Option.some.inj e)

omit stable in
/-- The core error word of a core that left service for its errors is not that of one that left it for its age. -/
theorem coreErr_errors {k : Core} (h : k.outReason = .errors) : BitVec.ofNat 64 (coreErr k) ≠ agedExtra := by
  have reruns := k.reruns.isLt
  have exhausted := k.exhausted.isLt
  intro e
  have value := congrArg BitVec.toNat e
  rw [coreErr, h] at value
  rw [BitVec.toNat_ofNat, show agedExtra.toNat = 50331648 from rfl] at value
  dsimp only at value
  omega

theorem alive_takeOffline (s : State) (core : Nat) : Alive q (takeOffline s core .errors) := by
  have reason (u : State) (k : Core) (why : k.outReason = .errors) :
      (getCore (endClaims (sluicesOff (putCore u core k) core) core) core).outReason = .errors := by
    rw [show getCore (endClaims (sluicesOff (putCore u core k) core) core) core = k from
      (getCore_congr (sluicesOff_cores (putCore u core k) core) core).trans (getCore_putCore_self _ _ _)]
    exact why
  unfold takeOffline
  refine closed_timingEvent (alive_units stable) (.inr (.inr (.inr (.inr ?_))))
  exact (blamed_logFault _ _ _ _ _ _ _ _ _ (coreErr_errors (reason _ _ rfl))).of_eq rfl rfl

theorem alive_enterFault (s : State) (unit index : Nat) : Alive q (enterFault s unit index) := by
  unfold enterFault
  extract_lets logged n fault dev caused halted cause k posted free
  have hlogged : Blamed logged := blamed_logFault _ _ _ _ _ _ _ _ _ (by decide)
  have hfault : Blamed fault := hlogged.of_eq (congrArg ErrLog.seq (setDevState_err _ _)) (congrArg ErrLog.records (setDevState_err _ _))
  have hcaused : Blamed caused := hfault.of_eq (congrArg ErrLog.seq (raiseCause_err _ _)) (congrArg ErrLog.records (raiseCause_err _ _))
  have hposted : Alive q posted := closed_foldl (alive_units stable) (.inr (.inr (.inr (.inr hcaused))))
    (fun _ _ hs => (alive_units stable).postedLogged _ _ hs)
  exact hposted.kept rfl rfl rfl rfl rfl rfl

theorem alive_firmwareOffline {s : State} {core : Nat} (here : coreIn s core = true) :
    Alive q (firmwareOffline s core .errors) := by
  rw [firmwareOffline, here, if_neg (by decide)]
  exact closed_ite (alive_enterFault stable _ _ _) (alive_takeOffline stable _ _)

end

/-! ## What is watched for -/

/-- A command that is ending. -/
def Ends (c : Cmd) : Prop := c.ending.isSome = true

/-- A command that is ending or not of the arrays. -/
def Strays (c : Cmd) : Prop := c.ending.isSome = true ∨ c.work.isArray = false

theorem stable_ends : Stable Ends := fun _ _ keeps ends => keeps.ending ends

theorem stable_strays : Stable Strays := fun _ _ keeps strays => strays.imp keeps.ending keeps.plain

theorem ends_array : ArrayClosed (Alive Ends) where
  toUnitsClosed := alive_units stable_ends
  array hs := hs.of_eq (exists_map fun c ends => by split <;> exact ends) (fun e => e) (fun e => e) rfl rfl rfl

theorem strays_of_ends {s : State} (hs : Alive Ends s) : Alive Strays s :=
  hs.imp_left (fun ⟨c, hc, ends⟩ => ⟨c, hc, .inl ends⟩)

theorem strays_watch : Watch (Alive Strays) where
  toUnitsClosed := alive_units stable_strays
  window _ _ hs := hs.of_eq id id id rfl rfl rfl
  regs x _ flows hs := alive_net x flows hs
  cmds hf hs := alive_mapCmds stable_strays hf hs
  ended := alive_endOne
  offline {s} core hs := by
    cases here : coreIn s core with
    | true => exact alive_firmwareOffline stable_strays here
    | false => rwa [firmwareOffline, here]
  sluice _ _ hs := hs.kept rfl rfl rfl rfl rfl rfl
  claim hs _ e := hs.kept (claimNext_field State.cmds (fun _ _ _ => rfl) (fun _ _ _ => rfl) e)
    (claimNext_field State.qps (fun _ _ _ => rfl) (fun _ _ _ => rfl) e)
    (claimNext_field State.net (fun _ _ _ => rfl) (fun _ _ _ => rfl) e)
    (claimNext_field State.pump (fun _ _ _ => rfl) (fun _ _ _ => rfl) e)
    (claimNext_field (fun t => t.err.seq) (fun _ _ _ => rfl) (fun _ _ _ => rfl) e)
    (claimNext_field (fun t => t.err.records) (fun _ _ _ => rfl) (fun _ _ _ => rfl) e)
  finish mem ending _ := strays_of_ends (closed_finishEnding (.inl ⟨_, mem, ending⟩) ends_array alive_endOne)
  arrays {s} idle c hc := by
    have calm : ¬ Strays c := fun strays => idle (.inl ⟨c, hc, strays⟩)
    simpa [Strays, and_comm] using calm
  pairs idle := Classical.not_not.1 fun ne => idle (.inr (.inl ne))
  flows ne := .inr (.inr (.inl ne))
  ends st detail found := .inr (.inr (.inr (.inl (ended_endOne found st detail))))
  out here := alive_firmwareOffline stable_strays here

/-! ## The arrays pass no time at once -/

theorem clk_attFeed (s : State) (c : Cmd) (w : ArrayWork) (idx : Nat) : (attFeed s c w idx).clk = s.clk := by
  unfold attFeed
  split
  · rfl
  · exact closed_ite (P := fun t => t.clk = s.clk) rfl rfl

theorem clk_attNext (s : State) (c : Cmd) (w : ArrayWork) (idx : Nat) : (attNext s c w idx).clk = s.clk := by
  unfold attNext
  split
  · rfl
  · dsimp only
    split
    · exact clk_attFeed _ _ _ _
    · split
      · rfl
      · exact clk_attFeed _ _ _ _

/-- A softmax of a block that is vacant reads nothing (R174). -/
theorem clk_runSoftmax {s : State} {core : Nat} {c : Cmd} {w : ArrayWork} {x : Item} {b : Nat}
    (empty : vacant s w.att (w.seqs.getD x.entry {}) x b = true) : (runSoftmax s core c w x b).clk = s.clk := by
  have slots (u : State) (core : Nat) (ks : List Nat) : (moveSlots u core ks .full none).clk = u.clk :=
    foldl_field State.clk _ (fun _ _ => by rfl) _ _
  unfold runSoftmax
  extract_lets a q ks none' y y' l y'' read done
  split
  · rfl
  · refine (clk_attNext _ _ _ _).trans ((slots _ _ _).trans ?_)
    show read.clk = s.clk
    unfold read
    rw [if_pos (show none' = true from empty)]

theorem clk_vacantNext {s t : State} (h : vacantNext s = some t) : t.clk = s.clk := by
  obtain ⟨p, -, found⟩ := List.exists_of_findSome?_eq_some h
  split at found
  next c w x e _ =>
    split at found
    next due =>
      simp only [Bool.and_eq_true] at due
      split at found
      · cases found
        exact clk_attNext _ _ _ _
      · split at found
        · cases found
        · cases found
          exact clk_runSoftmax due.2
    · cases found
  · cases found

theorem clk_stripNext {s t : State} (h : stripNext s = some t) : t.clk = s.clk := by
  obtain ⟨c, -, found⟩ := List.exists_of_findSome?_eq_some h
  split at found
  · split at found
    · cases found
    · obtain ⟨x, -, rfl⟩ := Option.map_eq_some_iff.1 found
      unfold takeStrips
      split
      · rfl
      · split
        · rfl
        · split
          · rfl
          · rfl
  · cases found

theorem clk_startJob (s : State) (n : Nat) (j : TileJob) : (startJob s n j).clk = s.clk := by
  have allot (core idx : Nat) (id : CmdId) (ks : List Nat) : (allotSlots s core id idx ks).clk = s.clk :=
    foldl_field State.clk _ (fun _ _ => by rfl) _ _
  exact (foldl_field State.clk _ (fun _ _ => by rfl) _ _).trans (allot _ _ _ _)

theorem clk_tileNext {s t : State} (h : tileNext s = some t) : t.clk = s.clk := by
  obtain ⟨c, -, found⟩ := List.exists_of_findSome?_eq_some h
  split at found
  · obtain ⟨k, -, here⟩ := List.exists_of_findSome?_eq_some found
    obtain ⟨arr, -, due⟩ := List.exists_of_findSome?_eq_some here
    obtain ⟨j, -, rfl⟩ := Option.map_eq_some_iff.1 due
    exact clk_startJob _ _ _
  · cases found

/-- Settling that leaves the arrays' commands alone passes no time. -/
theorem clk_settle {s : State} (idle : ¬ Alive Strays (settle s)) : (settle s).clk = s.clk :=
  kept_settle (fun _ clk => clk) strays_watch
    (fun _ _ => ⟨fun _ e => .inl (clk_stripNext e), fun _ e => .inl (clk_vacantNext e), fun _ e => .inl (clk_tileNext e)⟩) idle

/-! ## The counterexample -/

/-- The last pass of an item of one column, whose tile is active. -/
def lastSpec : PassSpec := { columnSpec with last := true }

/-- A GEMM of two items on the chains of cores 0 and 1: the item of core 0 has written some of its output. -/
def agedGemm : ArrayWork :=
  { kind := .gemm, mask := 3, counter := 1, grants := 1
    prods := [{ wFmt := 1, wKmajor := true, w := ddrBase, m := 1, n := 128, k := 1, effTile := 64, range := 64 }]
    chains := [{ members := [0] }, { members := [1] }]
    items := [{ columnItem with passes := [lastSpec], written := 1 }] }

/-- The command of that GEMM. -/
def agedCmd : Cmd := { numberedNought (.array agedGemm) with hdr := { (numberedNought (.array agedGemm)).hdr with opcode := 0x0200 } }

/-- Core 0 is at that pass and has come to its age at M_MAX 15, and the READ class has no share of the weir. -/
def agedState : State :=
  { State.reset with
    dev := { State.reset.dev with state := .active }
    weir := { ddrRead := 0 }, cmds := [agedCmd]
    cores := [(0, { ta0 := {
      active := { columnTile with owner := some { cmd := 0, item := 0, load := lastSpec.load } }
      pass := some { cmd := 0, item := 0, spec := lastSpec, done := 0 } } })]
    power := [(0, { mMax := 15 })], tele := { State.reset.tele with eolMonths := 0 } }

/-- Whether an outcome is two windows past the boundary of the slow loop, with the arrays alone at work and the aged core's record. -/
def lateAged (o : Out) : Bool :=
  match o with
  | .next t => t.clk.ticks == 701400 && t.cmds.all (fun c => c.ending.isNone && c.work.isArray) && t.qps.isEmpty &&
      t.net.flowRx.isEmpty && t.pump.ended.isEmpty && t.err.seq == 1 && (tabFind? t.err.records 0).map (·.extra) == some agedExtra
  | _ => false

theorem lateAged_aged : lateAged (exec (.slowLoop { aged := [0] }) agedState) = true := by decide +kernel

theorem lateAged_next {t : State} (h : lateAged (.next t) = true) : t.clk.ticks = 701400 ∧ ¬ Alive Strays t := by
  simp only [lateAged, Bool.and_eq_true, beq_iff_eq, List.isEmpty_iff, List.all_eq_true, Option.isNone_iff_eq_none] at h
  obtain ⟨⟨⟨⟨⟨⟨ticks, arrays⟩, qps⟩, flows⟩, ended⟩, seq⟩, extra⟩ := h
  refine ⟨ticks, ?_⟩
  rintro (⟨c, hc, ending | plain⟩ | ne | ne | ne | two | ⟨-, ne⟩)
  · rw [(arrays c hc).1] at ending
    cases ending
  · exact Bool.false_ne_true (plain.symm.trans (arrays c hc).2)
  · exact ne qps
  · exact ne flows
  · exact ne ended
  · omega
  · exact ne extra

end Sys2Proof.Machine

open Sys2Proof Sys2Proof.Machine

/-- Refutes O56: before a core that has come to its age leaves service (R349) it completes an item that has written some output (R127),
and where the reads of that wait for the weir (R214) time passes beyond the boundary of the slow loop; so it is in `agedState`, and
settling, which the outcome has behind it, passes no time there. -/
theorem not_pumpingStationKeepsItsLoops : ¬ Obligations.PumpingStationKeepsItsLoops := by
  unfold Obligations.PumpingStationKeepsItsLoops
  intro h
  obtain ⟨-, -, slow, -⟩ := h agedState 0
  obtain ⟨t, run, boundary, -⟩ := slow (by decide +kernel) { aged := [0] }
  obtain ⟨ticks, idle⟩ := lateAged_next (run ▸ lateAged_aged)
  have same : t.clk.ticks = 701400 := (congrArg Clock.ticks (clk_settle idle)).symm.trans ticks
  omega

end
